-- ==== Sys2Proof/Word.lean ====
section
/-! DEFINITION. The word types of the hardware (spec/00_scope.md R3: words are 32 bits, stored little-endian). -/

namespace Sys2Proof

/-- A register word of a Fungatre hand, and the width of a control and status register. -/
abbrev Word := BitVec 32

/-- The smallest addressable unit. -/
abbrev Byte := BitVec 8

end Sys2Proof
end

