-- ==== Sys2Proof/Syntax.lean ====
section
/-! DEFINITION. The commands of the block: one constructor per row of spec/opcode_table.json, in the table's order. A command
is one event of the part (a register access with a row of its own, an instruction issued by a hand, a block, flit, cell, message
or order received, a pin or supply event, a timer's expiry); its operands are what the event brings with it. -/

namespace Sys2Proof

/-- A trunk port, in the order of the register sets (spec/02_trunk_lanes.md R69): NU and SU face up, ND and SD down. -/
inductive TPort where
  | nu | nd | su | sd
  deriving DecidableEq, Repr

/-- The width of an access (spec/11_fungatre_tunnel_instructions.md R298, SIZE). -/
inductive AccSize where
  | byte | half | word
  deriving DecidableEq, Repr

/-- A cell (spec/08_tunnels_and_ordering.md R209): the 64-bit header of Table 8.2 and 104 data bytes. -/
structure Cell where
  hdr : BitVec 64
  data : List Byte
  deriving DecidableEq, Repr

/-- A hand: bench b's hand h is 4b + h, Porter is 64 and Steward 65 (spec/09_fungatre_machine.md R239, R268). -/
abbrev HandId := Fin 66

/-- What a receiver found on one receive lane while it locked and deskewed (spec/02_trunk_lanes.md R58 steps 2 and 3): the
physical receive lane, the partner's physical lane, the polarity, the interpolator step, the bit-slip delay, and the consecutive
valid sync headers it has seen on the lane (R40). -/
structure LaneFind where
  rx : Fin 9
  tx : Fin 9
  inverted : Bool
  interp : Fin 64
  slip : Fin 128
  headers : Nat
  deriving DecidableEq, Repr

/-- A 66-bit block received on a physical data lane (spec/02_trunk_lanes.md R36): the 2-bit sync header in bits [1:0], then the 64
payload bits as they came, scrambled. -/
structure RxBlock where
  lane : Fin 9
  bits : BitVec 66
  deriving DecidableEq, Repr

/-- What the check bits show when a stored word is read. -/
inductive EccFind where
  | clean | corrected | uncorrectable (word : Fin 16)
  deriving DecidableEq, Repr

/-- A soft error that a scrubber or scanout finds (spec/06_switch_core.md R181, spec/09_fungatre_machine.md R249, spec/17_display.md
R438): the row or block, the
word within it, and whether it is beyond correction. -/
structure ScrubFind where
  block : Nat
  word : Nat
  uncorrectable : Bool
  deriving DecidableEq, Repr

/-- The way a message or frame reaches the mailbox (spec/13_management_and_dockets.md Table 13.1): over tunnel 0 from a node, in a
FRAME message that the serving head relayed (R357), on ETH0 from a source MAC address, on dock D0, or through JTAG. -/
inductive MsgPath where
  | tunnel0 (node : BitVec 16)
  | relay (head : BitVec 16)
  | eth0 (src : BitVec 48)
  | dock
  | jtag
  deriving DecidableEq, Repr

/-- A docket slot's session and number (spec/13_management_and_dockets.md R350). -/
structure SlotId where
  sess : Fin 4
  slot : Fin 64
  deriving DecidableEq, Repr

/-- The kinds of NVMe or PCI Express completion status an access can end with (spec/12_bridge_and_accessory_bus.md Table 12.2). -/
abbrev FarCode := Fin 10

/-- The far access that a completion is for: one that holds a tag, or the posted write that a far bus is performing
(spec/12_bridge_and_accessory_bus.md R331, R344). -/
inductive FarAccess where
  | tag (t : Fin 2048)
  | posted (k : Fin 5)
  deriving DecidableEq, Repr

/-- What a step of start-up finds outside the part's state (spec/14_clocks_reset_boot.md Table 14.5): whether the fuse shadow
passes, which roots lock, and the PUF response after correction, with the number of bits corrected (no bytes: beyond correction). -/
structure StartFind where
  fuseOk : Bool
  lockA : Bool
  lockB : Bool
  puf : List Byte
  pufBits : BitVec 16
  fuses : List Nat
  deriving DecidableEq, Repr

/-- How a downstream device answers a USB transaction (spec/16_peripheral_bus.md R419, R420). -/
inductive UsbReply where
  | ack | nak | stall | error | babble | data (bytes : List Byte)
  deriving DecidableEq, Repr

/-- One transaction of a micro-frame: the pipe served and the device's answer (R421). -/
structure UsbTxn where
  pipe : Fin 32
  reply : UsbReply
  deriving DecidableEq, Repr

/-- One intake channel's 12-bit conversions of a sample (spec/19_harness_intake_and_docks.md R469). -/
structure ChSample where
  vout : BitVec 12
  cur : BitVec 12
  deriving DecidableEq, Repr

/-- The commands. -/
inductive Instr where
  -- registers, reset and start-up
  | csrWrite (addr : BitVec 24) (size : AccSize) (value : Word)
  | coldReset (straps : BitVec 3)
  | resetN (straps : BitVec 3)
  | nodeReset (straps : BitVec 3)
  | brownOut (straps : BitVec 3)
  | clockRecovery (straps : BitVec 3) (lockA lockB : Bool)
  | startUp (found : StartFind)
  | trainingGateOpen
  | seedRetry
  | seedReq (p : TPort) (cell : Cell)
  | seedData (p : TPort) (cell : Cell)
  | headDecision
  -- trunk lanes
  | losAssert (p : TPort) (lane : Fin 10)
  | losDeassert (p : TPort) (lane : Fin 10)
  | lol (p : TPort) (out : Bool)
  | lockLost (p : TPort) (lane : Fin 9) (bad : Nat)
  | flushDone (p : Fin 16)
  | driftTrack (p : TPort) (lane : Fin 9) (later : Bool)
  | hidChanged (hid : Fin 16)
  | trainingStart (p : TPort)
  | ts1 (p : TPort) (found : List LaneFind) (blk : RxBlock)
  | ts2 (p : TPort) (blk : RxBlock)
  | ts3 (p : TPort) (blk : RxBlock)
  | verifyDwellEnd (p : TPort) (errors : List Nat) (tails : List (BitVec 58))
  | ts4 (p : TPort) (blk : RxBlock)
  | ts5 (p : TPort) (blk : RxBlock)
  | retrainRequest (p : TPort) (blk : RxBlock)
  | parkBlock (p : TPort) (blk : RxBlock)
  | trainTmo (p : TPort)
  | retryInt (p : TPort)
  | fastTmo (p : TPort)
  | retrain (p : TPort)
  | park (p : TPort)
  -- link layer
  | cellFlit (p : TPort) (flit : List RxBlock)
  | flitFail (p : TPort) (flit : List RxBlock)
  | poisonFlit (p : TPort) (flit : List RxBlock)
  | idleFlit (p : TPort) (flit : List RxBlock)
  | init (p : TPort) (flit : List RxBlock)
  | resume (p : TPort) (flit : List RxBlock)
  | nak (p : TPort) (flit : List RxBlock)
  | hold (p : TPort) (flit : List RxBlock)
  | holdInt (p : TPort)
  | handshakeRepeat (p : TPort)
  | replayTmo (p : TPort)
  | nakTmo (p : TPort)
  | creditTmo (p : TPort) (vc : Fin 4)
  | handshakeTmo (p : TPort)
  | forceInit (p : TPort)
  | flitTxLo (p : TPort) (rx : Bool)
  | flitTransmit (p : TPort) (ecc : EccFind)
  -- switch and scheduler
  | crcVerdict (p : TPort)
  | heldCellRetry (ingress : Fin 16)
  | swxCarve (p : Fin 16) (value : Word)
  | mirCtlEn (value : Word)
  | scrub (found : List ScrubFind)
  | gateEntry (p : Fin 16)
  | arm (p : Fin 16) (value : Word)
  | gateSwitch (p : Fin 16)
  | policerRetry (ring : Fin 64)
  | allotRequest (at_ : SlotId)
  | allotStage (at_ : SlotId)
  | allotCommit (at_ : SlotId)
  | allotCancel (at_ : SlotId)
  | allotGuard (ref : BitVec 16)
  | epochApplied
  | allotDocket (ref : BitVec 16)
  -- tunnels
  | tunnelOpen (at_ : SlotId)
  | tunnelClose (at_ : SlotId)
  | dataCell (cell : Cell) (ecc : EccFind)
  | ackInt (t : Fin 1088)
  | ack (cell : Cell) (ecc : EccFind)
  | holeTmo (t : Fin 1088)
  | resend (cell : Cell) (ecc : EccFind)
  | keepTmo (t : Fin 1088)
  | looseHold (t : Fin 1088)
  | breakCell (cell : Cell) (ecc : EccFind)
  | peerIdle (k : Fin 64)
  -- benches
  | start (b : Fin 16) (mask : BitVec 4)
  | haltRequest (b : Fin 16) (mask : BitVec 4)
  | swap (b : Fin 16)
  | iload (b : Fin 16) (value : Word)
  | dload (b : Fin 16) (value : Option Word)
  | ringBind (r : Fin 64) (value : Word)
  | wdogExpiry (h : HandId)
  | tagTimeout (tag : Fin 2048)
  | benchScrub (b : Fin 16) (found : List ScrubFind)
  | stallResume (h : HandId)
  -- instructions that a hand issues: computation
  | add (h : HandId) (d a b : BitVec 5)
  | sub (h : HandId) (d a b : BitVec 5)
  | and (h : HandId) (d a b : BitVec 5)
  | or (h : HandId) (d a b : BitVec 5)
  | xor (h : HandId) (d a b : BitVec 5)
  | andn (h : HandId) (d a b : BitVec 5)
  | sll (h : HandId) (d a b : BitVec 5)
  | srl (h : HandId) (d a b : BitVec 5)
  | sra (h : HandId) (d a b : BitVec 5)
  | ror (h : HandId) (d a b : BitVec 5)
  | cmp (h : HandId) (d a b : BitVec 5)
  | min (h : HandId) (d a b : BitVec 5)
  | max (h : HandId) (d a b : BitVec 5)
  | minu (h : HandId) (d a b : BitVec 5)
  | maxu (h : HandId) (d a b : BitVec 5)
  | mul (h : HandId) (d a b : BitVec 5)
  | mulh (h : HandId) (d a b : BitVec 5)
  | mulhu (h : HandId) (d a b : BitVec 5)
  | div (h : HandId) (d a b : BitVec 5)
  | divu (h : HandId) (d a b : BitVec 5)
  | rem (h : HandId) (d a b : BitVec 5)
  | remu (h : HandId) (d a b : BitVec 5)
  | clz (h : HandId) (d a : BitVec 5)
  | popc (h : HandId) (d a : BitVec 5)
  | bswap (h : HandId) (d a : BitVec 5)
  | sextb (h : HandId) (d a : BitVec 5)
  | sexth (h : HandId) (d a : BitVec 5)
  | addi (h : HandId) (d a : BitVec 5) (imm : BitVec 16)
  | andi (h : HandId) (d a : BitVec 5) (imm : BitVec 16)
  | ori (h : HandId) (d a : BitVec 5) (imm : BitVec 16)
  | xori (h : HandId) (d a : BitVec 5) (imm : BitVec 16)
  | lui (h : HandId) (d : BitVec 5) (imm : BitVec 16)
  | shifti (h : HandId) (d a : BitVec 5) (imm : BitVec 16)
  | cmpi (h : HandId) (d a : BitVec 5) (imm : BitVec 16)
  -- memory and control
  | ldw (h : HandId) (d a : BitVec 5) (imm : BitVec 16)
  | ldh (h : HandId) (d a : BitVec 5) (imm : BitVec 16)
  | ldb (h : HandId) (d a : BitVec 5) (imm : BitVec 16)
  | stw (h : HandId) (d a : BitVec 5) (imm : BitVec 16)
  | sth (h : HandId) (d a : BitVec 5) (imm : BitVec 16)
  | stb (h : HandId) (d a : BitVec 5) (imm : BitVec 16)
  | br (h : HandId) (cond a : BitVec 5) (imm : BitVec 16)
  | jal (h : HandId) (d : BitVec 5) (off : BitVec 21)
  | jalr (h : HandId) (d a : BitVec 5) (imm : BitVec 16)
  | csrr (h : HandId) (d : BitVec 5) (num : BitVec 16)
  | cycleLo (h : HandId) (d : BitVec 5) (instret : Bool)
  | csrw (h : HandId) (a : BitVec 5) (num : BitVec 16)
  | cregClaim (h : HandId) (a : BitVec 5)
  | cregFree (h : HandId) (a : BitVec 5)
  | doorbell (h : HandId) (a : BitVec 5)
  | wdog (h : HandId) (a : BitVec 5)
  | trap (h : HandId) (imm : BitVec 16)
  | eret (h : HandId)
  | yield (h : HandId) (imm : BitVec 16)
  | yieldEnd (h : HandId)
  | halt (h : HandId)
  -- cells, time and order
  | take (h : HandId) (d : BitVec 5) (ring : Fin 64) (creg : Fin 8) (nb : Bool)
  | peek (h : HandId) (d : BitVec 5) (ring : Fin 64) (creg : Fin 8) (nb : Bool)
  | give (h : HandId) (d a : BitVec 5) (ring : Fin 64) (creg : Fin 8) (nb eom : Bool)
  | cellExtr (h : HandId) (d : BitVec 5) (creg : Fin 8) (b : BitVec 5) (size : AccSize) (off : BitVec 7)
  | cellEdit (h : HandId) (d : BitVec 5) (creg : Fin 8) (b : BitVec 5) (size : AccSize) (off : BitVec 7)
  | cellCrc (h : HandId) (d : BitVec 5) (creg : Fin 8) (b : BitVec 5) (ieee : Bool) (len : BitVec 7)
  | moveDir0 (h : HandId) (creg : Fin 8) (a : BitVec 5) (off : BitVec 14)
  | moveDone (h : HandId)
  | moveDir1 (h : HandId) (creg : Fin 8) (a : BitVec 5) (off : BitVec 14)
  | wait (h : HandId) (d a : BitVec 5) (imm : BitVec 16)
  | waitEvent (h : HandId)
  | waitTimeout (h : HandId)
  | tnow (h : HandId) (d b : BitVec 5)
  | tat (h : HandId) (d a b : BitVec 5)
  | talm (h : HandId) (a : BitVec 5)
  | talmCancel (h : HandId)
  | chainTimeAlarm (h : HandId)
  | seqNext (h : HandId) (d a : BitVec 5)
  | seqLast (h : HandId) (d a : BitVec 5)
  | seqState (h : HandId) (d a : BitVec 5)
  | fenceL (h : HandId)
  | fenceX (h : HandId)
  | fenceK (h : HandId) (d : BitVec 5)
  | ldx (h : HandId) (d a : BitVec 5) (size : AccSize)
  | ldxMemoryForm (h : HandId) (a b : BitVec 5) (size : AccSize)
  | stx (h : HandId) (d a : BitVec 5) (size : AccSize)
  | farCompletion (access : FarAccess) (code : FarCode) (bytes : List Byte)
  | lock (h : HandId) (d a : BitVec 5) (nb : Bool)
  | lockGranted (k : Fin 5)
  | unlock (h : HandId) (d a : BitVec 5)
  -- bridge
  | windowConfig (n : Fin 64) (reg : Fin 4) (value : Word)
  | arbitration (k : Fin 5)
  | backOff (k : Fin 5) (h : HandId)
  | prefetchDiscard (n : Fin 64)
  | lockWdog (k : Fin 5) (sda : Fin 10)
  | i2cStuck (bus : Fin 2)
  | i2cUnstuck (bus : Fin 2)
  | rcsrRd (node rid : BitVec 16) (addr : Word)
  | rcsrWr (node rid : BitVec 16) (addr value : Word)
  | rcsrRsp (node rid : BitVec 16) (code : BitVec 8) (value : Word)
  | rcsrRecordTimeout (rid : BitVec 16)
  -- management
  | managementFrame (path : MsgPath) (bytes : List Byte)
  | frame (node : BitVec 16) (bytes : List Byte)
  | order (path : MsgPath) (sess : Fin 4) (keyed : Bool) (bytes : List Byte)
  | read (path : MsgPath) (at_ : SlotId)
  | mbxAck (source : Option (BitVec 16)) (value : Word)
  | heartbeatExpiry
  | glbHb (value : Word)
  | mboxIn (value : Word) (last : Bool)
  | mboxOut
  | idcode
  | bypass (code : BitVec 4)
  | extest
  | samplePreload
  | readCsr (at_ : SlotId)
  | writeCsr (at_ : SlotId)
  | readCsrBlock (at_ : SlotId)
  -- braid
  | trellisAdmit (at_ : SlotId)
  | trellisPrune (at_ : SlotId)
  | trellisOverride (at_ : SlotId)
  | graftNotice (p : TPort) (cell : Cell)
  | splitNotice (p : TPort) (cell : Cell)
  | rejoinNotice (p : TPort) (cell : Cell)
  | admitNotice (p : TPort) (cell : Cell)
  | refuseNotice (p : TPort) (cell : Cell)
  | dormantNotice (p : TPort) (cell : Cell)
  | trellisNotice (p : TPort) (cell : Cell)
  | query (p : TPort) (cell : Cell)
  | ident (p : TPort) (cell : Cell)
  | sponsorWait (p : TPort)
  | admitTmo (p : TPort)
  | restore (p : TPort)
  | holdoff (p : TPort)
  | recoveryHold (p : TPort)
  -- chain time
  | beaconDue (p : TPort)
  | beacon (p : TPort) (flit : List RxBlock) (stamp : BitVec 80)
  | lossTmo (p : TPort)
  | holdoverLim
  | originWait
  | load
  | resync
  | adjPhase (value : Word)
  | ctmNowLo
  -- clocks
  | refMonitorTrip
  | lockMonitorTrip (root : Fin 2)
  | freqMonitorTrip (root : Fin 2)
  -- Ethernet and storage
  | ethLinkUp (p : Fin 2)
  | ethLinkDown (p : Fin 2) (part : Bool)
  | ethFrameRx (p : Fin 2) (frame : List Byte)
  | ethFrameTx (p : Fin 2) (queue : Fin 64) (ecc : EccFind)
  | tsrxInf (p : Fin 2) (tx : Bool)
  | perstRel
  | pciCfgData (write : Option Word) (value : Word)
  | pciCplTmo (tag : Fin 2048)
  | pciLinkDown
  | inboundRequest (addr : BitVec 64) (len : BitVec 13) (write : Option (List Byte))
  | sbufWr (ring : Fin 64) (cell : Cell) (ecc : EccFind)
  | sbufRd (ring : Fin 64) (cell : Cell) (ecc : EccFind)
  | btAlloc
  | btFree (tag : Fin 2048)
  -- USB
  | usbPortReset (k : Fin 4)
  | usbPortResetEnd (k : Fin 4) (speed : Fin 4)
  | usbConnect (k : Fin 4)
  | usbDisconnect (k : Fin 4)
  | usbPortSuspend (k : Fin 4) (value : Bool)
  | usbHostDisable
  | usbPipeConfig (k : Fin 32) (b : Bool) (value : Word)
  | setup (ring : Fin 64) (cell : Cell) (ecc : EccFind)
  | out (ring : Fin 64) (cell : Cell) (ecc : EccFind)
  | inReq (ring : Fin 64) (cell : Cell) (ecc : EccFind)
  | cancel (ring : Fin 64) (cell : Cell) (ecc : EccFind)
  | microFrame (txns : List UsbTxn)
  | usbToken (isIn : Bool) (e : Fin 16) (data : List Byte) (acked : Bool)
  | setupRx (packet : BitVec 64)
  | busReset (hs : Bool)
  | usbSuspend
  | usbResume
  | wake
  | wakeKStart
  | wakeKEnd
  | usbCarve (isIn : Bool) (e : Fin 16) (value : Word)
  -- display
  | dspTrain (h : Fin 2) (passes : List (Fin 3 × Fin 3))
  | hpdUnplug (h : Fin 2)
  | hpdIrq (h : Fin 2)
  | dspTiming (h : Fin 2) (reg : Fin 6) (value : Word)
  | dspShadow (h : Fin 2) (reg : Fin 3) (value : Word)
  | go (h : Fin 2)
  | verticalBlank (h : Fin 2) (found : List ScrubFind)
  | underrun (h : Fin 2)
  | psrEntry (h : Fin 2)
  | psrExit (h : Fin 2)
  | dspWrite (ring : Fin 64) (cell : Cell) (ecc : EccFind)
  | dspCommit (ring : Fin 64) (cell : Cell) (ecc : EccFind)
  | dspSync (ring : Fin 64) (cell : Cell) (ecc : EccFind)
  | auxGo (h : Fin 2)
  | auxDone (h : Fin 2) (reply : Fin 4) (data : List Byte)
  -- field I/O
  | fieldEventDue (bad : Bool)
  | fieldInputTransition (i : Fin 16) (level : Bool)
  | debounce (i : Fin 16)
  | inStampLo (i : Fin 16)
  | fieldInputEnable (i : Fin 16) (value : Word)
  | force
  | temperatureCheck (tj : BitVec 12)
  | supplyTrip (rail : Fin 6)
  | shutterRelease (at_ : SlotId)
  -- intake and docks
  | on (c : Fin 6) (value : Word)
  | hviSample (channels : List ChSample) (vinA vinB : BitVec 12)
  | breakerTrip (c : Fin 6)
  | hardTrip (c : Fin 6)
  | rampTimeout (c : Fin 6)
  | tripRetry (c : Fin 6)
  | clear (c : Fin 6)
  | damaged (c : Fin 6)
  | damageCleared (c : Fin 6)
  | owner (value : Bool)
  | voltageChangeEnd (d : Fin 2)
  | drpToggle (d : Fin 2)
  | attach (d : Fin 2) (orient source : Bool) (rp : Fin 3)
  | detach (d : Fin 2)
  | dischargeDone (d : Fin 2)
  | dischFail (d : Fin 2)
  | moistureCheck (d : Fin 2) (lowest : BitVec 8)
  | pdTxGo (d : Fin 2) (value : Word) (ccOpen : Bool)
  | goodcrcTimeout (d : Fin 2)
  | pdMessageRx (d : Fin 2) (header : BitVec 16) (objects : List Word)
  | hardReset (d : Fin 2) (ccOpen : Bool)
  | hardResetRx (d : Fin 2)
  | pdRxhdr (d : Fin 2)
  -- power
  | setPowerStateRun (at_ : SlotId)
  | setPowerStateTrim (at_ : SlotId)
  | setPowerStateBanked (at_ : SlotId)
  | setPowerStateDormant (at_ : SlotId)
  | domainDrainDone
  | harnessWake (straps : BitVec 3)
  | wakeN (straps : BitVec 3)
  | dockWake (straps : BitVec 3)
  | pwrResLo (st : Fin 4)
  -- Vault
  | derive (at_ : SlotId)
  | session (at_ : SlotId)
  | invalidate (at_ : SlotId)
  | slotScrubDone
  | provision (at_ : SlotId)
  | seal (at_ : SlotId)
  | unseal (at_ : SlotId)
  | loadPub (at_ : SlotId)
  | attest (at_ : SlotId)
  | attestPub (at_ : SlotId)
  | info (at_ : SlotId)
  | enrolPuf (at_ : SlotId)
  | debug (at_ : SlotId)
  | helperRead (at_ : SlotId)
  | tamper (src : Fin 4)
  | trngFail
  -- updates and planting
  | putBlock (at_ : SlotId)
  | verifyImage (at_ : SlotId)
  | plant (at_ : SlotId)
  | plantCancel (at_ : SlotId)
  | plantWarn
  | plantInstant
  | plantFrozen
  | shugonRewriteDone
  | healthWindowEnd
  -- repair
  | migrate (at_ : SlotId)
  | migrateCopy
  | spareLane (at_ : SlotId)
  | spareAsk (p : TPort) (flit : List RxBlock)
  | spare (p : TPort) (flit : List RxBlock)
  | spareDwell (p : TPort) (clean : Bool)
  | spareAck (p : TPort) (flit : List RxBlock)
  | spareNak (p : TPort) (flit : List RxBlock)
  | spareTmo (p : TPort)
  | autoSpare (p : TPort) (lane : Fin 9)
  | remap (at_ : SlotId)
  | rootSwap (at_ : SlotId)
  | ledger (node : BitVec 16) (record : List Byte)
  -- Tinker and records
  | enter (at_ : SlotId)
  | leave (at_ : SlotId)
  | duration
  | readLog (at_ : SlotId)
  | logConsume (value : Word)
  | logRxbLo (p : Fin 16) (tx : Bool)
  -- further events of the earlier chapters
  | illegalInstruction (h : HandId) (word : Word)
  | standbyRootAligned
  | resetNAsserted
  | supplyRailRestored (rail : Fin 6)
  | tamperSourceInactive (src : Fin 4)
  | pauseTimerExpiry (p : Fin 2)
  | pciLinkUp (gen : Fin 4) (width : Fin 3)
  | pciDisable
  | portResume (k : Fin 4)
  | portResumeEnd (k : Fin 4)
  | hpdPlug (h : Fin 2)
  | trngSamplesPassed
  | adjFreq (value : Word)
  | gateBankWrite (addr : BitVec 24) (value : Word)
  deriving DecidableEq, Repr

end Sys2Proof
end

