-- ==== Sys2Proof/Decode.lean ====
section
/-! DEFINITION. Commands spelled by bits. No row of spec/opcode_table.json has bits: the part is driven by register accesses, pins,
received units and events, not by words, so no word spells a command. -/

namespace Sys2Proof

/-- The command that a word of the opcode table spells: none, as the table gives no row any bits (DEDUCED, log entry 8). -/
def decodeTableWord (_nbits _w : Nat) : Option Instr := none

end Sys2Proof
end

