-- ==== Sys2Proof/Config.lean ====
section
/-! DEFINITION. What an implementation fixes and the spec leaves open. Every constant here is uninterpreted: nothing can be
proved of its value, so a claim holds whatever it is. -/

namespace Sys2Proof.Config

/-- A fresh value that the spec does not state, numbered by the model's own counter (DESIGN CHOICE, log entry 3). -/
opaque freeValue : Nat → BitVec 64

/-- AES-256-GCM encryption: key, 96-bit nonce, authenticated data and plain bytes give the cipher bytes (DESIGN CHOICE, log entry 4). -/
opaque gcmCipher : (key nonce aad plain : List Byte) → List Byte

/-- AES-256-GCM decryption of the cipher bytes (DESIGN CHOICE, log entry 4). -/
opaque gcmPlain : (key nonce aad cipher : List Byte) → List Byte

/-- The AES-256-GCM tag over authenticated data and cipher bytes (DESIGN CHOICE, log entry 4). -/
opaque gcmTag : (key nonce aad cipher : List Byte) → List Byte

/-- SHA-384 (DESIGN CHOICE, log entry 4). -/
opaque sha384 : List Byte → List Byte

/-- CMAC-AES-256: key and message give 16 bytes (DESIGN CHOICE, log entry 4). -/
opaque cmac : (key msg : List Byte) → List Byte

/-- The image-verification key that Porter ROM carries (spec/21_vault.md R522): the spec gives no value (DESIGN CHOICE, log entry 4). -/
opaque vkey : List Byte

/-- ECDSA P-384 verification: public key, digest, signature (DESIGN CHOICE, log entry 4). -/
opaque ecdsaOk : (pub digest sig : List Byte) → Bool

/-- ECDSA P-384 signature of a digest under a private key with a random value (DESIGN CHOICE, log entry 4). -/
opaque ecdsaSign : (priv digest random : List Byte) → List Byte

/-- The ECDSA P-384 public key of a private key (DESIGN CHOICE, log entry 4). -/
opaque ecdsaPub : (priv : List Byte) → List Byte

/-- The row, counted through the banks, in which a memory of spec/23_in_service_repair.md Table 23.3 keeps an address: memory,
instance and byte address (DESIGN CHOICE, log entry 13). -/
opaque rowOf : (mem inst addr : Nat) → Nat

/-- Bytes of the Ethernet frame, with FCS, in which a head carries a cell to another row: the spec does not give that frame
(spec/01_rows_and_nodes.md R20; DESIGN CHOICE, log entry 42). -/
opaque rowFrameBytes : Nat

end Sys2Proof.Config
end

