-- ==== Sys2Proof/Machine/SMap.lean ====
section
/-! DEFINITION. Sparse maps in one canonical form: keys strictly rising, and no entry equal to what an unlisted key reads as.
Equal maps are then equal lists. Every sparse piece of state uses them: registers, memories, tables keyed by a number. -/

namespace Sys2Proof.Machine

/-- Key and value pairs, in the canonical form of `mwf`. -/
abbrev SMap (α : Type) := List (Nat × α)

/-- The value at a key; `d` where the key is not listed. -/
def mget {α : Type} (d : α) (m : SMap α) (k : Nat) : α :=
  match m with
  | [] => d
  | (k', v) :: r => if k = k' then v else mget d r k

/-- Put a value that is not the default at a key. -/
def mput {α : Type} (m : SMap α) (k : Nat) (v : α) : SMap α :=
  match m with
  | [] => [(k, v)]
  | (k', v') :: r =>
    if k < k' then (k, v) :: (k', v') :: r
    else if k = k' then (k, v) :: r
    else (k', v') :: mput r k v

/-- Take a key out, wherever it is listed. -/
def mdel {α : Type} (m : SMap α) (k : Nat) : SMap α :=
  match m with
  | [] => []
  | (k', v') :: r => if k = k' then mdel r k else (k', v') :: mdel r k

/-- Write a value; writing the default takes the entry out, which keeps the canonical form. -/
def mset {α : Type} [DecidableEq α] (d : α) (m : SMap α) (k : Nat) (v : α) : SMap α :=
  if v = d then mdel m k else mput m k v

/-- Every key is above `lo`, keys rise strictly and no value is the default. -/
def mwfFrom {α : Type} [DecidableEq α] (d : α) (lo : Nat) (m : SMap α) : Bool :=
  match m with
  | [] => true
  | (k, v) :: r => decide (lo ≤ k) && decide (v ≠ d) && mwfFrom d (k + 1) r

/-- The canonical form. -/
def mwf {α : Type} [DecidableEq α] (d : α) (m : SMap α) : Bool := mwfFrom d 0 m

/-- The lowest number of `[lo, hi)` that is no key of `m`. -/
def mfree {α : Type} (m : SMap α) (lo hi : Nat) : Option Nat :=
  match m with
  | [] => if lo < hi then some lo else none
  | (k, _) :: r =>
    if k < lo then mfree r lo hi
    else if lo = k then mfree r (lo + 1) hi
    else if lo < hi then some lo else none

/-- How many keys of `m` lie in `[lo, hi)`. -/
def mcount {α : Type} (m : SMap α) (lo hi : Nat) : Nat :=
  (m.filter (fun e => decide (lo ≤ e.1) && decide (e.1 < hi))).length

end Sys2Proof.Machine
end

