-- ==== Sys2Proof/Machine/Fld.lean ====
section
/-! DEFINITION. What a register field is, and the reset values that depend on an index (spec/00_scope.md R3–R9, Table 0.3). -/

namespace Sys2Proof.Machine

/-- A field of a control and status register. -/
structure Fld where
  /-- byte address of its register -/
  addr : Nat
  /-- lowest bit -/
  lo : Nat
  /-- width in bits -/
  width : Nat
  /-- value after a reset that reaches it (R9) -/
  rst : Nat
  deriving DecidableEq, Repr

/-- The key under which a field's value is kept: one number per bit position of CSR space. -/
def Fld.key (f : Fld) : Nat := f.addr * 32 + f.lo

/-- Access codes of Table 0.3. -/
inductive Access where
  | ro | rw | wo | w1c | w1s | rwl
  deriving DecidableEq, Repr

/-- A field of a register row: the field, its access code, and the closed intervals of its encodings that are not reserved
(an empty list: every encoding is permitted). -/
structure FieldRow where
  fld : Fld
  acc : Access
  legal : List (Nat × Nat)

/-- A register row: base address, (stride, count) of each index, and the fields for one choice of the indices. -/
structure RegRow where
  base : Nat
  dims : List (Nat × Nat)
  fields : List Nat → List FieldRow

/-- RESERVE_p at reset (spec/06_switch_core.md R165, Table 6.3). -/
def carveReset (p : Nat) : Nat :=
  if p < 4 then 16384 else if p < 6 then 8192 else if p = 6 then 16384 else if p = 7 then 4096
  else if p < 10 then 2048 else if p < 12 then 16384 else if p < 14 then 2048 else 1024

/-- SHARED_MAX_p at reset (spec/06_switch_core.md R165, Table 6.3). -/
def sharedMaxReset (p : Nat) : Nat :=
  if p < 4 then 65536 else if p < 7 then 32768 else if p = 7 then 8192
  else if p < 10 then 4096 else if p < 12 then 32768 else if p < 14 then 4096 else 2048

/-- Spare rows of a memory over all its banks and copies (spec/23_in_service_repair.md R549, Table 23.3). -/
def spareRowsTotal (m : Nat) : Nat :=
  match m with
  | 0 => 512
  | 1 => 1024
  | 2 => 512
  | 3 => 640
  | 4 => 120
  | 5 => 8
  | _ => 0

end Sys2Proof.Machine
end

