-- ==== Sys2Proof/Machine/Regs.lean ====
section
/-! DEFINITION. Every register field of the spec's register tables, one definition each, named BLOCK_REGISTER_FIELD as
the manual names it. A field is its byte address, lowest bit, width and reset value; the table of the spec it comes from
is named in the comment above its register. Index variables are the ones the spec's tables use. -/

namespace Sys2Proof.Machine.Reg
open Sys2Proof.Machine

/-! ### TRK -/
-- TRK_CTL: Table 2.12, R69 (02_trunk_lanes)
def TRK_CTL_EN (p : Nat) : Fld := ⟨0x30000 + 0x1000 * p, 0, 1, 1⟩
def TRK_CTL_RETRAIN (p : Nat) : Fld := ⟨0x30000 + 0x1000 * p, 1, 1, 0⟩
def TRK_CTL_TGT_RATE (p : Nat) : Fld := ⟨0x30000 + 0x1000 * p, 2, 2, 0⟩
def TRK_CTL_TGT_WIDTH (p : Nat) : Fld := ⟨0x30000 + 0x1000 * p, 4, 2, if p < 2 then 0 else 1⟩
def TRK_CTL_FALLBACK_EN (p : Nat) : Fld := ⟨0x30000 + 0x1000 * p, 6, 1, 1⟩
def TRK_CTL_DRIFT_EN (p : Nat) : Fld := ⟨0x30000 + 0x1000 * p, 7, 1, 1⟩
def TRK_CTL_PARK (p : Nat) : Fld := ⟨0x30000 + 0x1000 * p, 8, 1, 0⟩
-- TRK_STAT: Table 2.13, R69 (02_trunk_lanes)
def TRK_STAT_STATE (p : Nat) : Fld := ⟨0x30004 + 0x1000 * p, 0, 4, 0⟩
def TRK_STAT_RATE (p : Nat) : Fld := ⟨0x30004 + 0x1000 * p, 4, 2, 0⟩
def TRK_STAT_WIDTH (p : Nat) : Fld := ⟨0x30004 + 0x1000 * p, 6, 2, 0⟩
def TRK_STAT_LEADER (p : Nat) : Fld := ⟨0x30004 + 0x1000 * p, 8, 1, p % 2⟩
def TRK_STAT_PARTNERED (p : Nat) : Fld := ⟨0x30004 + 0x1000 * p, 9, 1, 0⟩
def TRK_STAT_SPARE_IN_USE_TX (p : Nat) : Fld := ⟨0x30004 + 0x1000 * p, 10, 1, 0⟩
def TRK_STAT_SPARE_IN_USE_RX (p : Nat) : Fld := ⟨0x30004 + 0x1000 * p, 11, 1, 0⟩
def TRK_STAT_BEQ_DEFAULT (p : Nat) : Fld := ⟨0x30004 + 0x1000 * p, 12, 1, 0⟩
def TRK_STAT_DLL_LOCK (p : Nat) : Fld := ⟨0x30004 + 0x1000 * p, 13, 1, 0⟩
def TRK_STAT_GOOD_MASK (p : Nat) : Fld := ⟨0x30004 + 0x1000 * p, 14, 9, 0⟩
-- TRK_LANE_MAP_TX: Table 2.14, R69 (02_trunk_lanes)
def TRK_LANE_MAP_TX_LOG (p : Nat) (i : Nat) : Fld := ⟨0x30008 + 0x1000 * p, 4 * i, 4, 15⟩
-- TRK_LANE_MAP_RX: Table 2.14, R69 (02_trunk_lanes)
def TRK_LANE_MAP_RX_LOG (p : Nat) (i : Nat) : Fld := ⟨0x3000c + 0x1000 * p, 4 * i, 4, 15⟩
-- TRK_LOS: Table 2.15, R69 (02_trunk_lanes)
def TRK_LOS_LOS_LANE (p : Nat) : Fld := ⟨0x30010 + 0x1000 * p, 0, 9, 511⟩
def TRK_LOS_LOS_CK (p : Nat) : Fld := ⟨0x30010 + 0x1000 * p, 9, 1, 1⟩
def TRK_LOS_LOL (p : Nat) : Fld := ⟨0x30010 + 0x1000 * p, 10, 1, 1⟩
-- TRK_EVT: Table 2.16, R69 (02_trunk_lanes)
def TRK_EVT_LOS_LANE (p : Nat) : Fld := ⟨0x30014 + 0x1000 * p, 0, 9, 0⟩
def TRK_EVT_LOS_CK (p : Nat) : Fld := ⟨0x30014 + 0x1000 * p, 9, 1, 0⟩
def TRK_EVT_LOL (p : Nat) : Fld := ⟨0x30014 + 0x1000 * p, 10, 1, 0⟩
def TRK_EVT_LOCK_LOST (p : Nat) : Fld := ⟨0x30014 + 0x1000 * p, 11, 1, 0⟩
def TRK_EVT_LANE_FAULT (p : Nat) : Fld := ⟨0x30014 + 0x1000 * p, 12, 1, 0⟩
def TRK_EVT_PORT_LOST (p : Nat) : Fld := ⟨0x30014 + 0x1000 * p, 13, 1, 0⟩
def TRK_EVT_LINK_UP (p : Nat) : Fld := ⟨0x30014 + 0x1000 * p, 14, 1, 0⟩
def TRK_EVT_TRAIN_FAIL (p : Nat) : Fld := ⟨0x30014 + 0x1000 * p, 15, 1, 0⟩
def TRK_EVT_COLLISION (p : Nat) : Fld := ⟨0x30014 + 0x1000 * p, 16, 1, 0⟩
def TRK_EVT_HID_CHANGED (p : Nat) : Fld := ⟨0x30014 + 0x1000 * p, 17, 1, 0⟩
def TRK_EVT_BEQ_MISS (p : Nat) : Fld := ⟨0x30014 + 0x1000 * p, 18, 1, 0⟩
def TRK_EVT_PARKED_BY_PARTNER (p : Nat) : Fld := ⟨0x30014 + 0x1000 * p, 19, 1, 0⟩
-- TRK_IRQ_EN: Table 2.16, R69 (02_trunk_lanes)
def TRK_IRQ_EN_LOS_LANE (p : Nat) : Fld := ⟨0x30018 + 0x1000 * p, 0, 9, 0⟩
def TRK_IRQ_EN_LOS_CK (p : Nat) : Fld := ⟨0x30018 + 0x1000 * p, 9, 1, 0⟩
def TRK_IRQ_EN_LOL (p : Nat) : Fld := ⟨0x30018 + 0x1000 * p, 10, 1, 0⟩
def TRK_IRQ_EN_LOCK_LOST (p : Nat) : Fld := ⟨0x30018 + 0x1000 * p, 11, 1, 0⟩
def TRK_IRQ_EN_LANE_FAULT (p : Nat) : Fld := ⟨0x30018 + 0x1000 * p, 12, 1, 0⟩
def TRK_IRQ_EN_PORT_LOST (p : Nat) : Fld := ⟨0x30018 + 0x1000 * p, 13, 1, 0⟩
def TRK_IRQ_EN_LINK_UP (p : Nat) : Fld := ⟨0x30018 + 0x1000 * p, 14, 1, 0⟩
def TRK_IRQ_EN_TRAIN_FAIL (p : Nat) : Fld := ⟨0x30018 + 0x1000 * p, 15, 1, 0⟩
def TRK_IRQ_EN_COLLISION (p : Nat) : Fld := ⟨0x30018 + 0x1000 * p, 16, 1, 0⟩
def TRK_IRQ_EN_HID_CHANGED (p : Nat) : Fld := ⟨0x30018 + 0x1000 * p, 17, 1, 0⟩
def TRK_IRQ_EN_BEQ_MISS (p : Nat) : Fld := ⟨0x30018 + 0x1000 * p, 18, 1, 0⟩
def TRK_IRQ_EN_PARKED_BY_PARTNER (p : Nat) : Fld := ⟨0x30018 + 0x1000 * p, 19, 1, 0⟩
-- TRK_FILT: Table 2.17, R69 (02_trunk_lanes)
def TRK_FILT_LOS_FILT (p : Nat) : Fld := ⟨0x3001c + 0x1000 * p, 0, 5, 8⟩
def TRK_FILT_LOL_FILT (p : Nat) : Fld := ⟨0x3001c + 0x1000 * p, 8, 5, 4⟩
def TRK_FILT_LOS_THR (p : Nat) : Fld := ⟨0x3001c + 0x1000 * p, 16, 5, 4⟩
-- TRK_TRAIN_TMO: Table 2.18, R69 (02_trunk_lanes)
def TRK_TRAIN_TMO_TRAIN_TMO (p : Nat) : Fld := ⟨0x30020 + 0x1000 * p, 0, 14, 200⟩
def TRK_TRAIN_TMO_FAST_TMO (p : Nat) : Fld := ⟨0x30020 + 0x1000 * p, 16, 10, 40⟩
-- TRK_RETRY: Table 2.18, R69 (02_trunk_lanes)
def TRK_RETRY_RETRY_LIM (p : Nat) : Fld := ⟨0x30024 + 0x1000 * p, 0, 4, 3⟩
def TRK_RETRY_RETRY_INT (p : Nat) : Fld := ⟨0x30024 + 0x1000 * p, 8, 10, 10⟩
-- TRK_VERIFY: Table 2.18, R69 (02_trunk_lanes)
def TRK_VERIFY_DWELL (p : Nat) : Fld := ⟨0x30028 + 0x1000 * p, 0, 10, 10⟩
def TRK_VERIFY_ERR_THR (p : Nat) : Fld := ⟨0x30028 + 0x1000 * p, 16, 8, 2⟩
def TRK_VERIFY_FAST_DWELL (p : Nat) : Fld := ⟨0x30028 + 0x1000 * p, 24, 8, 5⟩
-- TRK_PARTNER: Table 2.19, R69 (02_trunk_lanes)
def TRK_PARTNER_P_HID (p : Nat) : Fld := ⟨0x3002c + 0x1000 * p, 0, 4, 0⟩
def TRK_PARTNER_P_RATE (p : Nat) : Fld := ⟨0x3002c + 0x1000 * p, 4, 2, 0⟩
def TRK_PARTNER_P_WIDTH (p : Nat) : Fld := ⟨0x3002c + 0x1000 * p, 6, 2, 0⟩
def TRK_PARTNER_P_MASK (p : Nat) : Fld := ⟨0x3002c + 0x1000 * p, 8, 9, 0⟩
-- TRK_TRAIN_CNT: Table 2.20, R69 (02_trunk_lanes)
def TRK_TRAIN_CNT_UPS (p : Nat) : Fld := ⟨0x30030 + 0x1000 * p, 0, 32, 0⟩
-- TRK_FAIL_CNT: Table 2.20, R69 (02_trunk_lanes)
def TRK_FAIL_CNT_FAILS (p : Nat) : Fld := ⟨0x30034 + 0x1000 * p, 0, 32, 0⟩
-- TRK_BERR: Table 2.20, R69 (02_trunk_lanes)
def TRK_BERR_HDR_ERR (p : Nat) (n : Nat) : Fld := ⟨0x30080 + 0x1000 * p + 0x4 * n, 0, 32, 0⟩
-- TRK_EQ: Table 2.20, R69 (02_trunk_lanes); fused, the same in every B0 unit
def TRK_EQ_TX_PRE (p : Nat) (n : Nat) : Fld := ⟨0x30040 + 0x1000 * p + 0x4 * n, 0, 4, 4⟩
def TRK_EQ_TX_POST (p : Nat) (n : Nat) : Fld := ⟨0x30040 + 0x1000 * p + 0x4 * n, 4, 5, 12⟩
def TRK_EQ_RX_CTLE (p : Nat) (n : Nat) : Fld := ⟨0x30040 + 0x1000 * p + 0x4 * n, 12, 4, 10⟩
def TRK_EQ_TX_MAIN (p : Nat) (n : Nat) : Fld := ⟨0x30040 + 0x1000 * p + 0x4 * n, 16, 7, 48⟩
-- TRK_BEQ_STAT: Table 2.21, R69 (02_trunk_lanes)
def TRK_BEQ_STAT_VALID : Fld := ⟨0x34000, 0, 1, 0⟩
def TRK_BEQ_STAT_ENTRIES : Fld := ⟨0x34000, 16, 9, 0⟩
-- TRK_BEQ_REV: Table 2.21, R69 (02_trunk_lanes)
def TRK_BEQ_REV_TABLE_REV : Fld := ⟨0x34004, 0, 32, 0⟩
-- TRK_HID: Table 2.21, R69 (02_trunk_lanes); strapped: the value before the pins are known is the model's (DESIGN CHOICE, log entry 26)
def TRK_HID_HID : Fld := ⟨0x34008, 0, 4, 0⟩
/-! ### LNK -/
-- LNK_CTL: Table 3.8, R109 (03_trunk_link_layer)
def LNK_CTL_STRICT (p : Nat) : Fld := ⟨0x40000 + 0x1000 * p, 0, 1, 1⟩
def LNK_CTL_AUDIT_ON_STALL (p : Nat) : Fld := ⟨0x40000 + 0x1000 * p, 1, 1, 0⟩
def LNK_CTL_FORCE_INIT (p : Nat) : Fld := ⟨0x40000 + 0x1000 * p, 2, 1, 0⟩
def LNK_CTL_REPLAY_LIM (p : Nat) : Fld := ⟨0x40000 + 0x1000 * p, 8, 8, 8⟩
-- LNK_STAT: Table 3.9, R109 (03_trunk_link_layer)
def LNK_STAT_STATE (p : Nat) : Fld := ⟨0x40004 + 0x1000 * p, 0, 3, 0⟩
def LNK_STAT_RX_WAIT (p : Nat) : Fld := ⟨0x40004 + 0x1000 * p, 4, 1, 0⟩
def LNK_STAT_TX_REPLAY (p : Nat) : Fld := ⟨0x40004 + 0x1000 * p, 5, 1, 0⟩
def LNK_STAT_TX_STALL (p : Nat) : Fld := ⟨0x40004 + 0x1000 * p, 6, 1, 0⟩
def LNK_STAT_STRICT_EFF (p : Nat) : Fld := ⟨0x40004 + 0x1000 * p, 7, 1, 1⟩
def LNK_STAT_HOLD_RX (p : Nat) : Fld := ⟨0x40004 + 0x1000 * p, 8, 4, 0⟩
def LNK_STAT_CREDIT_ZERO (p : Nat) : Fld := ⟨0x40004 + 0x1000 * p, 12, 4, 0⟩
def LNK_STAT_REPLAY_OCC (p : Nat) : Fld := ⟨0x40004 + 0x1000 * p, 16, 10, 0⟩
-- LNK_SEQ_TX: Table 3.9, R109 (03_trunk_link_layer)
def LNK_SEQ_TX_NEXT (p : Nat) : Fld := ⟨0x40008 + 0x1000 * p, 0, 12, 0⟩
def LNK_SEQ_TX_OLDEST (p : Nat) : Fld := ⟨0x40008 + 0x1000 * p, 16, 12, 0⟩
-- LNK_SEQ_RX: Table 3.9, R109 (03_trunk_link_layer)
def LNK_SEQ_RX_EXPECT (p : Nat) : Fld := ⟨0x4000c + 0x1000 * p, 0, 12, 0⟩
def LNK_SEQ_RX_ACK_SENT (p : Nat) : Fld := ⟨0x4000c + 0x1000 * p, 16, 12, 4095⟩
-- LNK_EPOCH: Table 3.9, R109 (03_trunk_link_layer)
def LNK_EPOCH_LOCAL (p : Nat) : Fld := ⟨0x40010 + 0x1000 * p, 0, 8, 0⟩
def LNK_EPOCH_PARTNER (p : Nat) : Fld := ⟨0x40010 + 0x1000 * p, 8, 8, 0⟩
-- LNK_CREDIT: Table 3.9, R109 (03_trunk_link_layer)
def LNK_CREDIT_AVAIL (p : Nat) (v : Nat) : Fld := ⟨0x40030 + 0x1000 * p + 0x4 * v, 0, 9, 0⟩
def LNK_CREDIT_LIMIT (p : Nat) (v : Nat) : Fld := ⟨0x40030 + 0x1000 * p + 0x4 * v, 16, 9, 0⟩
-- LNK_EVT: Table 3.10, R109 (03_trunk_link_layer)
def LNK_EVT_RS_FAIL (p : Nat) : Fld := ⟨0x40014 + 0x1000 * p, 0, 1, 0⟩
def LNK_EVT_CRC_FAIL (p : Nat) : Fld := ⟨0x40014 + 0x1000 * p, 1, 1, 0⟩
def LNK_EVT_REPLAY (p : Nat) : Fld := ⟨0x40014 + 0x1000 * p, 2, 1, 0⟩
def LNK_EVT_REPLAY_LIM (p : Nat) : Fld := ⟨0x40014 + 0x1000 * p, 3, 1, 0⟩
def LNK_EVT_CREDIT_STALL (p : Nat) : Fld := ⟨0x40014 + 0x1000 * p, 4, 1, 0⟩
def LNK_EVT_CREDIT_TMO (p : Nat) : Fld := ⟨0x40014 + 0x1000 * p, 5, 1, 0⟩
def LNK_EVT_CR_ERR (p : Nat) : Fld := ⟨0x40014 + 0x1000 * p, 6, 1, 0⟩
def LNK_EVT_ACK_ERR (p : Nat) : Fld := ⟨0x40014 + 0x1000 * p, 7, 1, 0⟩
def LNK_EVT_OVF (p : Nat) : Fld := ⟨0x40014 + 0x1000 * p, 8, 1, 0⟩
def LNK_EVT_INIT (p : Nat) : Fld := ⟨0x40014 + 0x1000 * p, 9, 1, 0⟩
def LNK_EVT_RESUME (p : Nat) : Fld := ⟨0x40014 + 0x1000 * p, 10, 1, 0⟩
def LNK_EVT_LOST (p : Nat) : Fld := ⟨0x40014 + 0x1000 * p, 11, 1, 0⟩
-- LNK_IRQ_EN: Table 3.10, R109 (03_trunk_link_layer)
def LNK_IRQ_EN_RS_FAIL (p : Nat) : Fld := ⟨0x40018 + 0x1000 * p, 0, 1, 0⟩
def LNK_IRQ_EN_CRC_FAIL (p : Nat) : Fld := ⟨0x40018 + 0x1000 * p, 1, 1, 0⟩
def LNK_IRQ_EN_REPLAY (p : Nat) : Fld := ⟨0x40018 + 0x1000 * p, 2, 1, 0⟩
def LNK_IRQ_EN_REPLAY_LIM (p : Nat) : Fld := ⟨0x40018 + 0x1000 * p, 3, 1, 0⟩
def LNK_IRQ_EN_CREDIT_STALL (p : Nat) : Fld := ⟨0x40018 + 0x1000 * p, 4, 1, 0⟩
def LNK_IRQ_EN_CREDIT_TMO (p : Nat) : Fld := ⟨0x40018 + 0x1000 * p, 5, 1, 0⟩
def LNK_IRQ_EN_CR_ERR (p : Nat) : Fld := ⟨0x40018 + 0x1000 * p, 6, 1, 0⟩
def LNK_IRQ_EN_ACK_ERR (p : Nat) : Fld := ⟨0x40018 + 0x1000 * p, 7, 1, 0⟩
def LNK_IRQ_EN_OVF (p : Nat) : Fld := ⟨0x40018 + 0x1000 * p, 8, 1, 0⟩
def LNK_IRQ_EN_INIT (p : Nat) : Fld := ⟨0x40018 + 0x1000 * p, 9, 1, 0⟩
def LNK_IRQ_EN_RESUME (p : Nat) : Fld := ⟨0x40018 + 0x1000 * p, 10, 1, 0⟩
def LNK_IRQ_EN_LOST (p : Nat) : Fld := ⟨0x40018 + 0x1000 * p, 11, 1, 0⟩
-- LNK_TMO_A: Table 3.11, R109 (03_trunk_link_layer)
def LNK_TMO_A_REPLAY_TMO (p : Nat) : Fld := ⟨0x4001c + 0x1000 * p, 0, 10, 20⟩
def LNK_TMO_A_NAK_TMO (p : Nat) : Fld := ⟨0x4001c + 0x1000 * p, 16, 10, 10⟩
-- LNK_TMO_B: Table 3.11, R109 (03_trunk_link_layer)
def LNK_TMO_B_CREDIT_TMO (p : Nat) : Fld := ⟨0x40020 + 0x1000 * p, 0, 10, 50⟩
def LNK_TMO_B_HOLD_INT (p : Nat) : Fld := ⟨0x40020 + 0x1000 * p, 16, 5, 10⟩
def LNK_TMO_B_HANDSHAKE_TMO (p : Nat) : Fld := ⟨0x40020 + 0x1000 * p, 24, 8, 20⟩
-- LNK_FLIT_TX_LO: Table 3.12, R109 (03_trunk_link_layer)
def LNK_FLIT_TX_LO (p : Nat) : Fld := ⟨0x40040 + 0x1000 * p, 0, 32, 0⟩
-- LNK_FLIT_TX_HI: Table 3.12, R109 (03_trunk_link_layer)
def LNK_FLIT_TX_HI (p : Nat) : Fld := ⟨0x40044 + 0x1000 * p, 0, 32, 0⟩
-- LNK_FLIT_RX_LO: Table 3.12, R109 (03_trunk_link_layer)
def LNK_FLIT_RX_LO (p : Nat) : Fld := ⟨0x40048 + 0x1000 * p, 0, 32, 0⟩
-- LNK_FLIT_RX_HI: Table 3.12, R109 (03_trunk_link_layer)
def LNK_FLIT_RX_HI (p : Nat) : Fld := ⟨0x4004c + 0x1000 * p, 0, 32, 0⟩
-- LNK_RS_CORR: Table 3.12, R109 (03_trunk_link_layer)
def LNK_RS_CORR (p : Nat) : Fld := ⟨0x40050 + 0x1000 * p, 0, 32, 0⟩
-- LNK_RS_FAIL: Table 3.12, R109 (03_trunk_link_layer)
def LNK_RS_FAIL (p : Nat) : Fld := ⟨0x40054 + 0x1000 * p, 0, 32, 0⟩
-- LNK_CRC_FAIL: Table 3.12, R109 (03_trunk_link_layer)
def LNK_CRC_FAIL (p : Nat) : Fld := ⟨0x40058 + 0x1000 * p, 0, 32, 0⟩
-- LNK_POISON_RX: Table 3.12, R109 (03_trunk_link_layer)
def LNK_POISON_RX (p : Nat) : Fld := ⟨0x4005c + 0x1000 * p, 0, 32, 0⟩
-- LNK_NAK_TX: Table 3.12, R109 (03_trunk_link_layer)
def LNK_NAK_TX (p : Nat) : Fld := ⟨0x40060 + 0x1000 * p, 0, 32, 0⟩
-- LNK_NAK_RX: Table 3.12, R109 (03_trunk_link_layer)
def LNK_NAK_RX (p : Nat) : Fld := ⟨0x40064 + 0x1000 * p, 0, 32, 0⟩
-- LNK_REPLAY_CNT: Table 3.12, R109 (03_trunk_link_layer)
def LNK_REPLAY_CNT (p : Nat) : Fld := ⟨0x40068 + 0x1000 * p, 0, 32, 0⟩
-- LNK_REPLAY_FLITS: Table 3.12, R109 (03_trunk_link_layer)
def LNK_REPLAY_FLITS (p : Nat) : Fld := ⟨0x4006c + 0x1000 * p, 0, 32, 0⟩
-- LNK_CR_ERR: Table 3.12, R109 (03_trunk_link_layer)
def LNK_CR_ERR (p : Nat) : Fld := ⟨0x40070 + 0x1000 * p, 0, 32, 0⟩
-- LNK_ACK_ERR: Table 3.12, R109 (03_trunk_link_layer)
def LNK_ACK_ERR (p : Nat) : Fld := ⟨0x40074 + 0x1000 * p, 0, 32, 0⟩
-- LNK_OVF: Table 3.12, R109 (03_trunk_link_layer)
def LNK_OVF (p : Nat) : Fld := ⟨0x40078 + 0x1000 * p, 0, 32, 0⟩
-- LNK_CREDIT_STALL_CNT: Table 3.12, R109 (03_trunk_link_layer)
def LNK_CREDIT_STALL_CNT (p : Nat) : Fld := ⟨0x4007c + 0x1000 * p, 0, 32, 0⟩
-- LNK_LOST_CELLS: Table 3.12, R109 (03_trunk_link_layer)
def LNK_LOST_CELLS (p : Nat) : Fld := ⟨0x40080 + 0x1000 * p, 0, 32, 0⟩
-- LNK_PROTO_ERR: Table 3.12, R109 (03_trunk_link_layer)
def LNK_PROTO_ERR (p : Nat) : Fld := ⟨0x40084 + 0x1000 * p, 0, 32, 0⟩
-- LNK_INIT_CNT: Table 3.12, R109 (03_trunk_link_layer)
def LNK_INIT_CNT (p : Nat) : Fld := ⟨0x40088 + 0x1000 * p, 0, 32, 0⟩
/-! ### BRD -/
-- BRD_CTL: Table 4.9, R140 (04_braid_and_graft)
def BRD_CTL_NOTICE_EN : Fld := ⟨0x50000, 0, 1, 1⟩
def BRD_CTL_SNOOP_EN : Fld := ⟨0x50000, 1, 1, 1⟩
def BRD_CTL_SPONSOR_EN : Fld := ⟨0x50000, 2, 1, 1⟩
-- BRD_STAT: Table 4.9, R140 (04_braid_and_graft)
def BRD_STAT_POS : Fld := ⟨0x50004, 0, 10, 0⟩
def BRD_STAT_ROW : Fld := ⟨0x50004, 10, 6, 0⟩
def BRD_STAT_POS_VALID : Fld := ⟨0x50004, 16, 1, 0⟩
def BRD_STAT_ROLE : Fld := ⟨0x50004, 17, 2, 0⟩
def BRD_STAT_SPLIT_UP : Fld := ⟨0x50004, 19, 1, 0⟩
def BRD_STAT_SPLIT_DOWN : Fld := ⟨0x50004, 20, 1, 0⟩
def BRD_STAT_HEAD_CONFLICT : Fld := ⟨0x50004, 21, 1, 0⟩
-- BRD_RAIL: Table 4.9, R140 (04_braid_and_graft)
def BRD_RAIL_SKIP_THR : Fld := ⟨0x50008, 0, 8, 85⟩
def BRD_RAIL_HASH_SEED : Fld := ⟨0x50008, 8, 20, 0⟩
-- BRD_PORT_SVC: Table 4.9, R140 (04_braid_and_graft)
def BRD_PORT_SVC_IN_SERVICE : Fld := ⟨0x5000c, 0, 4, 0⟩
def BRD_PORT_SVC_RECOVERY : Fld := ⟨0x5000c, 4, 4, 15⟩
def BRD_PORT_SVC_HOLDOFF_RUN : Fld := ⟨0x5000c, 8, 4, 0⟩
-- BRD_EVT: Table 4.10, R140 (04_braid_and_graft)
def BRD_EVT_GRAFT : Fld := ⟨0x50010, 0, 1, 0⟩
def BRD_EVT_RESTORE : Fld := ⟨0x50010, 1, 1, 0⟩
def BRD_EVT_SPLIT : Fld := ⟨0x50010, 2, 1, 0⟩
def BRD_EVT_REJOIN : Fld := ⟨0x50010, 3, 1, 0⟩
def BRD_EVT_ADMITTED : Fld := ⟨0x50010, 4, 1, 0⟩
def BRD_EVT_REFUSED : Fld := ⟨0x50010, 5, 1, 0⟩
def BRD_EVT_PRUNED : Fld := ⟨0x50010, 6, 1, 0⟩
def BRD_EVT_NOTICE : Fld := ⟨0x50010, 7, 1, 0⟩
def BRD_EVT_UNREACH : Fld := ⟨0x50010, 8, 1, 0⟩
def BRD_EVT_TGEN : Fld := ⟨0x50010, 9, 1, 0⟩
def BRD_EVT_HEAD_CONFLICT : Fld := ⟨0x50010, 10, 1, 0⟩
-- BRD_IRQ_EN: Table 4.10, R140 (04_braid_and_graft)
def BRD_IRQ_EN_GRAFT : Fld := ⟨0x50014, 0, 1, 0⟩
def BRD_IRQ_EN_RESTORE : Fld := ⟨0x50014, 1, 1, 0⟩
def BRD_IRQ_EN_SPLIT : Fld := ⟨0x50014, 2, 1, 0⟩
def BRD_IRQ_EN_REJOIN : Fld := ⟨0x50014, 3, 1, 0⟩
def BRD_IRQ_EN_ADMITTED : Fld := ⟨0x50014, 4, 1, 0⟩
def BRD_IRQ_EN_REFUSED : Fld := ⟨0x50014, 5, 1, 0⟩
def BRD_IRQ_EN_PRUNED : Fld := ⟨0x50014, 6, 1, 0⟩
def BRD_IRQ_EN_NOTICE : Fld := ⟨0x50014, 7, 1, 0⟩
def BRD_IRQ_EN_UNREACH : Fld := ⟨0x50014, 8, 1, 0⟩
def BRD_IRQ_EN_TGEN : Fld := ⟨0x50014, 9, 1, 0⟩
def BRD_IRQ_EN_HEAD_CONFLICT : Fld := ⟨0x50014, 10, 1, 0⟩
-- BRD_HOLDOFF: Table 4.12, R140 (04_braid_and_graft)
def BRD_HOLDOFF_HOLDOFF : Fld := ⟨0x50018, 0, 16, 500⟩
-- BRD_TIMERS: Table 4.12, R140 (04_braid_and_graft)
def BRD_TIMERS_ADMIT_TMO : Fld := ⟨0x5001c, 0, 8, 10⟩
def BRD_TIMERS_RESTORE_DELAY : Fld := ⟨0x5001c, 8, 8, 10⟩
def BRD_TIMERS_RECOVERY_HOLD : Fld := ⟨0x5001c, 16, 16, 100⟩
-- BRD_TGEN: Table 4.12, R140 (04_braid_and_graft)
def BRD_TGEN_TGEN : Fld := ⟨0x50020, 0, 16, 0⟩
-- BRD_GRAFT_CNT: Table 4.13, R140 (04_braid_and_graft)
def BRD_GRAFT_CNT : Fld := ⟨0x50024, 0, 32, 0⟩
-- BRD_UNREACH_CNT: Table 4.13, R140 (04_braid_and_graft)
def BRD_UNREACH_CNT : Fld := ⟨0x50028, 0, 32, 0⟩
-- BRD_NOTICE_CNT: Table 4.13, R140 (04_braid_and_graft)
def BRD_NOTICE_CNT : Fld := ⟨0x5002c, 0, 32, 0⟩
-- BRD_REFUSE_CNT: Table 4.13, R140 (04_braid_and_graft)
def BRD_REFUSE_CNT : Fld := ⟨0x50030, 0, 32, 0⟩
-- BRD_LAST_GRAFT: Table 4.13, R140 (04_braid_and_graft)
def BRD_LAST_GRAFT_POS : Fld := ⟨0x50034, 0, 10, 0⟩
def BRD_LAST_GRAFT_PORT : Fld := ⟨0x50034, 10, 2, 0⟩
def BRD_LAST_GRAFT_CAUSE : Fld := ⟨0x50034, 12, 2, 0⟩
def BRD_LAST_GRAFT_LAT : Fld := ⟨0x50034, 16, 16, 0⟩
-- BRD_LAST_ADMIT: Table 4.13, R140 (04_braid_and_graft)
def BRD_LAST_ADMIT_POS : Fld := ⟨0x50038, 0, 10, 0⟩
def BRD_LAST_ADMIT_OUTCOME : Fld := ⟨0x50038, 10, 4, 0⟩
-- BRD_TRELLIS: Table 4.13, R140 (04_braid_and_graft)
def BRD_TRELLIS_STATE (p : Nat) : Fld := ⟨0x51000 + 0x4 * p, 0, 3, 0⟩
def BRD_TRELLIS_ROLE (p : Nat) : Fld := ⟨0x51000 + 0x4 * p, 3, 2, 0⟩
def BRD_TRELLIS_SELF (p : Nat) : Fld := ⟨0x51000 + 0x4 * p, 5, 1, 0⟩
def BRD_TRELLIS_REFUSED (p : Nat) : Fld := ⟨0x51000 + 0x4 * p, 6, 1, 0⟩
def BRD_TRELLIS_LOCAL (p : Nat) : Fld := ⟨0x51000 + 0x4 * p, 7, 1, 0⟩
def BRD_TRELLIS_OPENED (p : Nat) : Fld := ⟨0x51000 + 0x4 * p, 8, 1, 0⟩
def BRD_TRELLIS_OVERRIDE (p : Nat) : Fld := ⟨0x51000 + 0x4 * p, 9, 1, 0⟩
def BRD_TRELLIS_TGEN (p : Nat) : Fld := ⟨0x51000 + 0x4 * p, 16, 16, 0⟩
/-! ### CTM -/
-- CTM_CTL: Table 5.5, R160 (05_chain_time)
def CTM_CTL_ORIGIN_EN : Fld := ⟨0x60000, 0, 1, 1⟩
def CTM_CTL_PTP_WAIT : Fld := ⟨0x60000, 1, 1, 0⟩
def CTM_CTL_LOAD : Fld := ⟨0x60000, 2, 1, 0⟩
def CTM_CTL_RESYNC : Fld := ⟨0x60000, 3, 1, 0⟩
-- CTM_STAT: Table 5.5, R160 (05_chain_time)
def CTM_STAT_STATE : Fld := ⟨0x60004, 0, 3, 0⟩
def CTM_STAT_VALID : Fld := ⟨0x60004, 3, 1, 0⟩
def CTM_STAT_IS_ORIGIN : Fld := ⟨0x60004, 4, 1, 0⟩
def CTM_STAT_ORIGIN_B : Fld := ⟨0x60004, 5, 1, 0⟩
def CTM_STAT_ALIGNED : Fld := ⟨0x60004, 6, 1, 0⟩
def CTM_STAT_EPOCH : Fld := ⟨0x60004, 8, 8, 0⟩
-- CTM_PARENT: Table 5.5, R160 (05_chain_time)
def CTM_PARENT_PORT : Fld := ⟨0x60040, 0, 2, 0⟩
def CTM_PARENT_NONE : Fld := ⟨0x60040, 2, 1, 1⟩
def CTM_PARENT_ORIGIN_POS : Fld := ⟨0x60040, 4, 10, 0⟩
def CTM_PARENT_HOPS : Fld := ⟨0x60040, 16, 10, 0⟩
-- CTM_EVT: Table 5.6, R160 (05_chain_time)
def CTM_EVT_LOCKED : Fld := ⟨0x60008, 0, 1, 0⟩
def CTM_EVT_HOLDOVER : Fld := ⟨0x60008, 1, 1, 0⟩
def CTM_EVT_LOST : Fld := ⟨0x60008, 2, 1, 0⟩
def CTM_EVT_PARENT_CHG : Fld := ⟨0x60008, 3, 1, 0⟩
def CTM_EVT_ORIGIN_CHG : Fld := ⟨0x60008, 4, 1, 0⟩
def CTM_EVT_SLEW : Fld := ⟨0x60008, 5, 1, 0⟩
def CTM_EVT_STEP : Fld := ⟨0x60008, 6, 1, 0⟩
-- CTM_IRQ_EN: Table 5.6, R160 (05_chain_time)
def CTM_IRQ_EN_LOCKED : Fld := ⟨0x6000c, 0, 1, 0⟩
def CTM_IRQ_EN_HOLDOVER : Fld := ⟨0x6000c, 1, 1, 0⟩
def CTM_IRQ_EN_LOST : Fld := ⟨0x6000c, 2, 1, 0⟩
def CTM_IRQ_EN_PARENT_CHG : Fld := ⟨0x6000c, 3, 1, 0⟩
def CTM_IRQ_EN_ORIGIN_CHG : Fld := ⟨0x6000c, 4, 1, 0⟩
def CTM_IRQ_EN_SLEW : Fld := ⟨0x6000c, 5, 1, 0⟩
def CTM_IRQ_EN_STEP : Fld := ⟨0x6000c, 6, 1, 0⟩
-- CTM_NOW_LO: Table 5.7, R160 (05_chain_time)
def CTM_NOW_LO_NS : Fld := ⟨0x60010, 0, 32, 0⟩
-- CTM_NOW_HI: Table 5.7, R160 (05_chain_time)
def CTM_NOW_HI_NS : Fld := ⟨0x60014, 0, 32, 0⟩
-- CTM_NOW_FRAC: Table 5.7, R160 (05_chain_time)
def CTM_NOW_FRAC_FRAC : Fld := ⟨0x60018, 0, 16, 0⟩
-- CTM_SET_LO: Table 5.7, R160 (05_chain_time)
def CTM_SET_LO_NS : Fld := ⟨0x60020, 0, 32, 0⟩
-- CTM_SET_HI: Table 5.7, R160 (05_chain_time)
def CTM_SET_HI_NS : Fld := ⟨0x60024, 0, 32, 0⟩
-- CTM_SET_FRAC: Table 5.7, R160 (05_chain_time)
def CTM_SET_FRAC_FRAC : Fld := ⟨0x60028, 0, 16, 0⟩
-- CTM_ADJ_FREQ: Table 5.7, R160 (05_chain_time)
def CTM_ADJ_FREQ_FREQ : Fld := ⟨0x60030, 0, 32, 0⟩
-- CTM_ADJ_PHASE: Table 5.7, R160 (05_chain_time)
def CTM_ADJ_PHASE_PHASE : Fld := ⟨0x60034, 0, 32, 0⟩
-- CTM_OFFSET: Table 5.7, R160 (05_chain_time)
def CTM_OFFSET_E : Fld := ⟨0x60044, 0, 32, 0⟩
-- CTM_DELAY: Table 5.7, R160 (05_chain_time)
def CTM_DELAY_D (p : Nat) : Fld := ⟨0x60050 + 0x4 * p, 0, 24, 0⟩
def CTM_DELAY_D_VALID (p : Nat) : Fld := ⟨0x60050 + 0x4 * p, 31, 1, 0⟩
-- CTM_ASYM: Table 5.7, R160 (05_chain_time)
def CTM_ASYM_ASYM (p : Nat) : Fld := ⟨0x60060 + 0x4 * p, 0, 16, 0⟩
-- CTM_LOST_CNT: Table 5.7, R160 (05_chain_time)
def CTM_LOST_CNT : Fld := ⟨0x60070, 0, 32, 0⟩
-- CTM_HOLDOVER_CNT: Table 5.7, R160 (05_chain_time)
def CTM_HOLDOVER_CNT : Fld := ⟨0x60074, 0, 32, 0⟩
-- CTM_TIMERS: Table 5.8, R161 (05_chain_time)
def CTM_TIMERS_BEACON_INT : Fld := ⟨0x60038, 0, 7, 8⟩
def CTM_TIMERS_LOSS_TMO : Fld := ⟨0x60038, 8, 8, 16⟩
def CTM_TIMERS_HOLDOVER_LIM : Fld := ⟨0x60038, 16, 10, 100⟩
-- CTM_SERVO: Table 5.8, R161 (05_chain_time)
def CTM_SERVO_KP_SHIFT : Fld := ⟨0x6003c, 0, 4, 3⟩
def CTM_SERVO_KI_SHIFT : Fld := ⟨0x6003c, 4, 4, 7⟩
def CTM_SERVO_SLEW_MAX : Fld := ⟨0x6003c, 8, 10, 100⟩
def CTM_SERVO_LOCK_THR : Fld := ⟨0x6003c, 18, 8, 8⟩
-- CTM_ORIGIN_WAIT: Table 5.8, R161 (05_chain_time)
def CTM_ORIGIN_WAIT_ORIGIN_WAIT : Fld := ⟨0x60078, 0, 16, 100⟩
/-! ### SWX -/
-- SWX_CTL: Table 6.9, R185 (06_switch_core)
def SWX_CTL_CT_GLOBAL_EN : Fld := ⟨0x70000, 0, 1, 1⟩
def SWX_CTL_LOOSE_DROP : Fld := ⟨0x70000, 1, 1, 1⟩
def SWX_CTL_SCRUB_EN : Fld := ⟨0x70000, 2, 1, 1⟩
-- SWX_STAT: Table 6.9, R185 (06_switch_core)
def SWX_STAT_SHARED_FREE : Fld := ⟨0x70004, 0, 18, 83968⟩
def SWX_STAT_FLUSH_BUSY : Fld := ⟨0x70004, 18, 1, 0⟩
def SWX_STAT_OVERDRAWN : Fld := ⟨0x70004, 19, 1, 0⟩
-- SWX_CT_EN: Table 6.9, R185 (06_switch_core)
def SWX_CT_EN_EN : Fld := ⟨0x70010, 0, 4, 15⟩
-- SWX_KEEP: Table 6.9, R185 (06_switch_core)
def SWX_KEEP_KEEP_FREE : Fld := ⟨0x70014, 0, 18, 32768⟩
-- SWX_DESC_FREE: Table 6.9, R185 (06_switch_core)
def SWX_DESC_FREE_FREE : Fld := ⟨0x70018, 0, 19, 393216⟩
-- SWX_SCRUB: Table 6.9, R185 (06_switch_core)
def SWX_SCRUB_SCRUB_INT : Fld := ⟨0x7001c, 0, 8, 10⟩
-- SWX_EVT: Table 6.9, R185 (06_switch_core)
def SWX_EVT_POISON : Fld := ⟨0x70008, 0, 1, 0⟩
def SWX_EVT_ECC_CORR : Fld := ⟨0x70008, 1, 1, 0⟩
def SWX_EVT_ECC_UNCORR : Fld := ⟨0x70008, 2, 1, 0⟩
def SWX_EVT_FLUSH_DONE : Fld := ⟨0x70008, 3, 1, 0⟩
def SWX_EVT_MIR_DROP : Fld := ⟨0x70008, 4, 1, 0⟩
def SWX_EVT_CARVE_ERR : Fld := ⟨0x70008, 5, 1, 0⟩
def SWX_EVT_KEEP_ECC : Fld := ⟨0x70008, 6, 1, 0⟩
def SWX_EVT_HELD : Fld := ⟨0x70008, 7, 1, 0⟩
-- SWX_IRQ_EN: Table 6.9, R185 (06_switch_core)
def SWX_IRQ_EN_POISON : Fld := ⟨0x7000c, 0, 1, 0⟩
def SWX_IRQ_EN_ECC_CORR : Fld := ⟨0x7000c, 1, 1, 0⟩
def SWX_IRQ_EN_ECC_UNCORR : Fld := ⟨0x7000c, 2, 1, 0⟩
def SWX_IRQ_EN_FLUSH_DONE : Fld := ⟨0x7000c, 3, 1, 0⟩
def SWX_IRQ_EN_MIR_DROP : Fld := ⟨0x7000c, 4, 1, 0⟩
def SWX_IRQ_EN_CARVE_ERR : Fld := ⟨0x7000c, 5, 1, 0⟩
def SWX_IRQ_EN_KEEP_ECC : Fld := ⟨0x7000c, 6, 1, 0⟩
def SWX_IRQ_EN_HELD : Fld := ⟨0x7000c, 7, 1, 0⟩
-- SWX_MIR_CTL: Table 6.10, R185 (06_switch_core)
def SWX_MIR_CTL_EN : Fld := ⟨0x70030, 0, 1, 0⟩
def SWX_MIR_CTL_FLOW_EN : Fld := ⟨0x70030, 1, 4, 0⟩
-- SWX_MIR_PORTS: Table 6.10, R185 (06_switch_core)
def SWX_MIR_PORTS_ING : Fld := ⟨0x70034, 0, 16, 0⟩
def SWX_MIR_PORTS_EGR : Fld := ⟨0x70034, 16, 16, 0⟩
-- SWX_MIR_DA_LO: Table 6.10, R185 (06_switch_core)
def SWX_MIR_DA_LO_DA : Fld := ⟨0x70038, 0, 32, 0⟩
-- SWX_MIR_DA_HI: Table 6.10, R185 (06_switch_core)
def SWX_MIR_DA_HI_DA : Fld := ⟨0x7003c, 0, 16, 0⟩
-- SWX_MIR_FLOW: Table 6.10, R185 (06_switch_core)
def SWX_MIR_FLOW_NODE (f : Nat) : Fld := ⟨0x70040 + 0x8 * f, 0, 16, 0⟩
def SWX_MIR_FLOW_TUN (f : Nat) : Fld := ⟨0x70040 + 0x8 * f, 16, 10, 0⟩
-- SWX_MIR_MASK: Table 6.10, R185 (06_switch_core)
def SWX_MIR_MASK_MASK (f : Nat) : Fld := ⟨0x70044 + 0x8 * f, 0, 26, 0⟩
-- SWX_MCG: Table 6.10, R185 (06_switch_core)
def SWX_MCG_LOCAL (g : Nat) : Fld := ⟨0x70400 + 0x4 * g, 4, 12, 0⟩
-- SWX_CARVE: Table 6.11, R185 (06_switch_core)
def SWX_CARVE_RESERVE (p : Nat) : Fld := ⟨0x70100 + 0x20 * p, 0, 18, carveReset p⟩
-- SWX_LIMIT: Table 6.11, R185 (06_switch_core)
def SWX_LIMIT_SHARED_MAX (p : Nat) : Fld := ⟨0x70104 + 0x20 * p, 0, 18, sharedMaxReset p⟩
def SWX_LIMIT_CTL_RES (p : Nat) : Fld := ⟨0x70104 + 0x20 * p, 20, 10, 64⟩
-- SWX_OCC: Table 6.11, R185 (06_switch_core)
def SWX_OCC_OCC (p : Nat) : Fld := ⟨0x70108 + 0x20 * p, 0, 18, 0⟩
def SWX_OCC_FULL (p : Nat) : Fld := ⟨0x70108 + 0x20 * p, 31, 1, 0⟩
-- SWX_SHR: Table 6.11, R185 (06_switch_core)
def SWX_SHR_SHARED (p : Nat) : Fld := ⟨0x7010c + 0x20 * p, 0, 18, 0⟩
-- SWX_DROP: Table 6.11, R185 (06_switch_core)
def SWX_DROP (p : Nat) : Fld := ⟨0x70110 + 0x20 * p, 0, 32, 0⟩
-- SWX_CT_CNT: Table 6.11, R185 (06_switch_core)
def SWX_CT_CNT (p : Nat) : Fld := ⟨0x70114 + 0x20 * p, 0, 32, 0⟩
-- SWX_ECC_CORR: Table 6.12, R185 (06_switch_core)
def SWX_ECC_CORR : Fld := ⟨0x70020, 0, 32, 0⟩
-- SWX_ECC_UNCORR: Table 6.12, R185 (06_switch_core)
def SWX_ECC_UNCORR : Fld := ⟨0x70024, 0, 32, 0⟩
-- SWX_ECC_ADDR: Table 6.12, R185 (06_switch_core)
def SWX_ECC_ADDR_BLOCK : Fld := ⟨0x70028, 0, 18, 0⟩
def SWX_ECC_ADDR_WORD : Fld := ⟨0x70028, 18, 4, 0⟩
-- SWX_POISON_CNT: Table 6.12, R185 (06_switch_core)
def SWX_POISON_CNT : Fld := ⟨0x7002c, 0, 32, 0⟩
-- SWX_MIR_DROP: Table 6.12, R185 (06_switch_core)
def SWX_MIR_DROP : Fld := ⟨0x70060, 0, 32, 0⟩
-- SWX_FLUSH_STAT: Table 6.12, R185 (06_switch_core)
def SWX_FLUSH_STAT_PORT : Fld := ⟨0x70064, 0, 4, 0⟩
def SWX_FLUSH_STAT_CELLS : Fld := ⟨0x70064, 4, 18, 0⟩
-- SWX_FLUSH_TRANSIT: Table 6.12, R185 (06_switch_core)
def SWX_FLUSH_TRANSIT : Fld := ⟨0x70068, 0, 32, 0⟩
-- SWX_MCAST_KEPT: Table 6.12, R185 (06_switch_core)
def SWX_MCAST_KEPT : Fld := ⟨0x7006c, 0, 32, 0⟩
/-! ### SCH -/
-- SCH_CTL: Table 7.6, R207 (07_scheduling_and_allotment)
def SCH_CTL_ALLOT_EN : Fld := ⟨0x80000, 0, 1, 1⟩
-- SCH_STAT: Table 7.6, R207 (07_scheduling_and_allotment)
def SCH_STAT_STAGED : Fld := ⟨0x80004, 0, 8, 0⟩
def SCH_STAT_PEND_EPOCHS : Fld := ⟨0x80004, 8, 2, 0⟩
-- SCH_EVT: Table 7.6, R207 (07_scheduling_and_allotment)
def SCH_EVT_EPOCH_APPLIED : Fld := ⟨0x80008, 0, 1, 0⟩
def SCH_EVT_STAGE_REFUSED : Fld := ⟨0x80008, 1, 1, 0⟩
def SCH_EVT_GATE_SWITCH : Fld := ⟨0x80008, 2, 1, 0⟩
def SCH_EVT_GATE_ERR : Fld := ⟨0x80008, 3, 1, 0⟩
def SCH_EVT_POLICE_DROP : Fld := ⟨0x80008, 4, 1, 0⟩
-- SCH_IRQ_EN: Table 7.6, R207 (07_scheduling_and_allotment)
def SCH_IRQ_EN_EPOCH_APPLIED : Fld := ⟨0x8000c, 0, 1, 0⟩
def SCH_IRQ_EN_STAGE_REFUSED : Fld := ⟨0x8000c, 1, 1, 0⟩
def SCH_IRQ_EN_GATE_SWITCH : Fld := ⟨0x8000c, 2, 1, 0⟩
def SCH_IRQ_EN_GATE_ERR : Fld := ⟨0x8000c, 3, 1, 0⟩
def SCH_IRQ_EN_POLICE_DROP : Fld := ⟨0x8000c, 4, 1, 0⟩
-- SCH_ALLOT_TMR: Table 7.6, R207 (07_scheduling_and_allotment)
def SCH_ALLOT_TMR_ALLOT_LEAD : Fld := ⟨0x80010, 0, 10, 50⟩
def SCH_ALLOT_TMR_ALLOT_GUARD : Fld := ⟨0x80010, 16, 10, 100⟩
-- SCH_EPOCH_LO: Table 7.6, R207 (07_scheduling_and_allotment)
def SCH_EPOCH_LO_EPOCH : Fld := ⟨0x80018, 0, 32, 0⟩
-- SCH_EPOCH_HI: Table 7.6, R207 (07_scheduling_and_allotment)
def SCH_EPOCH_HI_EPOCH : Fld := ⟨0x8001c, 0, 32, 0⟩
-- SCH_ALLOT_CNT: Table 7.6, R207 (07_scheduling_and_allotment)
def SCH_ALLOT_CNT : Fld := ⟨0x80020, 0, 32, 0⟩
-- SCH_TCVC: Table 7.6, R207 (07_scheduling_and_allotment)
def SCH_TCVC_VC_0 : Fld := ⟨0x80024, 0, 2, 0⟩
def SCH_TCVC_VC_1 : Fld := ⟨0x80024, 2, 2, 1⟩
def SCH_TCVC_VC_2 : Fld := ⟨0x80024, 4, 2, 0⟩
def SCH_TCVC_VC_3 : Fld := ⟨0x80024, 6, 2, 0⟩
def SCH_TCVC_VC_4 : Fld := ⟨0x80024, 8, 2, 1⟩
def SCH_TCVC_VC_5 : Fld := ⟨0x80024, 10, 2, 1⟩
def SCH_TCVC_VC_6 : Fld := ⟨0x80024, 12, 2, 2⟩
def SCH_TCVC_VC_7 : Fld := ⟨0x80024, 14, 2, 3⟩
-- SCH_GATE_CTL: Table 7.7, R207 (07_scheduling_and_allotment)
def SCH_GATE_CTL_LEN_0 (p : Nat) : Fld := ⟨0x88000 + 0x800 * p, 0, 7, 1⟩
def SCH_GATE_CTL_LEN_1 (p : Nat) : Fld := ⟨0x88000 + 0x800 * p, 8, 7, 1⟩
def SCH_GATE_CTL_ACT_BANK (p : Nat) : Fld := ⟨0x88000 + 0x800 * p, 16, 1, 0⟩
def SCH_GATE_CTL_ARM (p : Nat) : Fld := ⟨0x88000 + 0x800 * p, 17, 1, 0⟩
def SCH_GATE_CTL_PEND (p : Nat) : Fld := ⟨0x88000 + 0x800 * p, 18, 1, 0⟩
-- SCH_GATE_CYCLE: Table 7.7, R207 (07_scheduling_and_allotment)
def SCH_GATE_CYCLE_CYCLE (p : Nat) (b : Nat) : Fld := ⟨0x88010 + 0x800 * p + 0x4 * b, 0, 30, 1000000⟩
-- SCH_GATE_BASE_LO: Table 7.7, R207 (07_scheduling_and_allotment)
def SCH_GATE_BASE_LO_BASE (p : Nat) (b : Nat) : Fld := ⟨0x88020 + 0x800 * p + 0x8 * b, 0, 32, 0⟩
-- SCH_GATE_BASE_HI: Table 7.7, R207 (07_scheduling_and_allotment)
def SCH_GATE_BASE_HI_BASE (p : Nat) (b : Nat) : Fld := ⟨0x88024 + 0x800 * p + 0x8 * b, 0, 32, 0⟩
-- SCH_GATE_CHG_LO: Table 7.7, R207 (07_scheduling_and_allotment)
def SCH_GATE_CHG_LO_CHG (p : Nat) : Fld := ⟨0x88030 + 0x800 * p, 0, 32, 0⟩
-- SCH_GATE_CHG_HI: Table 7.7, R207 (07_scheduling_and_allotment)
def SCH_GATE_CHG_HI_CHG (p : Nat) : Fld := ⟨0x88034 + 0x800 * p, 0, 32, 0⟩
-- SCH_GATE_STAT: Table 7.7, R207 (07_scheduling_and_allotment)
def SCH_GATE_STAT_ENTRY (p : Nat) : Fld := ⟨0x88038 + 0x800 * p, 0, 6, 0⟩
def SCH_GATE_STAT_OPEN (p : Nat) : Fld := ⟨0x88038 + 0x800 * p, 8, 8, 255⟩
-- SCH_GCL_OPEN: Table 7.7, R207 (07_scheduling_and_allotment)
def SCH_GCL_OPEN_OPEN (p : Nat) (b : Nat) (e : Nat) : Fld := ⟨0x88400 + 0x800 * p + 0x200 * b + 0x8 * e, 0, 8, 255⟩
-- SCH_GCL_DUR: Table 7.7, R207 (07_scheduling_and_allotment)
def SCH_GCL_DUR_DURATION (p : Nat) (b : Nat) (e : Nat) : Fld := ⟨0x88404 + 0x800 * p + 0x200 * b + 0x8 * e, 0, 30, 1000000⟩
-- SCH_QCFG: Table 7.7, R207 (07_scheduling_and_allotment)
def SCH_QCFG_QUANTUM (p : Nat) (q : Nat) : Fld := ⟨0x88100 + 0x800 * p + 0x4 * q, 0, 16, 1024⟩
def SCH_QCFG_BURST (p : Nat) (q : Nat) : Fld := ⟨0x88100 + 0x800 * p + 0x4 * q, 16, 16, 16⟩
-- SCH_QRATE: Table 7.7, R207 (07_scheduling_and_allotment)
def SCH_QRATE_RATE (p : Nat) (q : Nat) : Fld := ⟨0x88200 + 0x800 * p + 0x4 * q, 0, 24, 0⟩
-- SCH_QSTAT: Table 7.7, R207 (07_scheduling_and_allotment)
def SCH_QSTAT_CREDIT (p : Nat) (q : Nat) : Fld := ⟨0x88300 + 0x800 * p + 0x4 * q, 0, 24, 0⟩
-- SCH_POL_RATE: Table 7.8, R207 (07_scheduling_and_allotment)
def SCH_POL_RATE_RATE (t : Nat) : Fld := ⟨0x82000 + 0x8 * t, 0, 24, 0⟩
-- SCH_POL_BURST: Table 7.8, R207 (07_scheduling_and_allotment)
def SCH_POL_BURST_BURST (t : Nat) : Fld := ⟨0x82004 + 0x8 * t, 0, 24, 16384⟩
-- SCH_POL_CREDIT: Table 7.8, R207 (07_scheduling_and_allotment)
def SCH_POL_CREDIT_CREDIT (t : Nat) : Fld := ⟨0x84000 + 0x8 * t, 0, 25, 16384⟩
-- SCH_POL_DROP: Table 7.8, R207 (07_scheduling_and_allotment)
def SCH_POL_DROP (t : Nat) : Fld := ⟨0x84004 + 0x8 * t, 0, 32, 0⟩
/-! ### TUN -/
-- TUN_STAT: Table 8.11, R238 (08_tunnels_and_ordering)
def TUN_STAT_OPEN : Fld := ⟨0x90004, 0, 11, 1⟩
def TUN_STAT_BROKEN : Fld := ⟨0x90004, 11, 11, 0⟩
def TUN_STAT_PEERS : Fld := ⟨0x90004, 22, 7, 0⟩
-- TUN_EVT: Table 8.11, R238 (08_tunnels_and_ordering)
def TUN_EVT_BREAK : Fld := ⟨0x90008, 0, 1, 0⟩
def TUN_EVT_GAP : Fld := ⟨0x90008, 1, 1, 0⟩
def TUN_EVT_RESEND_TX : Fld := ⟨0x90008, 2, 1, 0⟩
def TUN_EVT_RESEND_RX : Fld := ⟨0x90008, 3, 1, 0⟩
def TUN_EVT_KEEP_TMO : Fld := ⟨0x90008, 4, 1, 0⟩
def TUN_EVT_EARLY_DROP : Fld := ⟨0x90008, 5, 1, 0⟩
def TUN_EVT_LATE : Fld := ⟨0x90008, 6, 1, 0⟩
def TUN_EVT_UNKNOWN : Fld := ⟨0x90008, 7, 1, 0⟩
def TUN_EVT_PEER_FULL : Fld := ⟨0x90008, 8, 1, 0⟩
def TUN_EVT_BAD : Fld := ⟨0x90008, 9, 1, 0⟩
def TUN_EVT_FLUSH_KEPT : Fld := ⟨0x90008, 10, 1, 0⟩
-- TUN_IRQ_EN: Table 8.11, R238 (08_tunnels_and_ordering)
def TUN_IRQ_EN_BREAK : Fld := ⟨0x9000c, 0, 1, 0⟩
def TUN_IRQ_EN_GAP : Fld := ⟨0x9000c, 1, 1, 0⟩
def TUN_IRQ_EN_RESEND_TX : Fld := ⟨0x9000c, 2, 1, 0⟩
def TUN_IRQ_EN_RESEND_RX : Fld := ⟨0x9000c, 3, 1, 0⟩
def TUN_IRQ_EN_KEEP_TMO : Fld := ⟨0x9000c, 4, 1, 0⟩
def TUN_IRQ_EN_EARLY_DROP : Fld := ⟨0x9000c, 5, 1, 0⟩
def TUN_IRQ_EN_LATE : Fld := ⟨0x9000c, 6, 1, 0⟩
def TUN_IRQ_EN_UNKNOWN : Fld := ⟨0x9000c, 7, 1, 0⟩
def TUN_IRQ_EN_PEER_FULL : Fld := ⟨0x9000c, 8, 1, 0⟩
def TUN_IRQ_EN_BAD : Fld := ⟨0x9000c, 9, 1, 0⟩
def TUN_IRQ_EN_FLUSH_KEPT : Fld := ⟨0x9000c, 10, 1, 0⟩
-- TUN_BREAK_LOG: Table 8.11, R238 (08_tunnels_and_ordering)
def TUN_BREAK_LOG_TUN : Fld := ⟨0x90030, 0, 10, 0⟩
def TUN_BREAK_LOG_REASON : Fld := ⟨0x90030, 10, 2, 0⟩
def TUN_BREAK_LOG_ROLE : Fld := ⟨0x90030, 12, 1, 0⟩
def TUN_BREAK_LOG_LAST : Fld := ⟨0x90030, 16, 16, 0⟩
-- TUN_TMR_A: Table 8.12, R238 (08_tunnels_and_ordering)
def TUN_TMR_A_ACK_INT : Fld := ⟨0x90010, 0, 10, 10⟩
def TUN_TMR_A_HOLE_TMO : Fld := ⟨0x90010, 16, 10, 5⟩
-- TUN_TMR_B: Table 8.12, R238 (08_tunnels_and_ordering)
def TUN_TMR_B_KEEP_TMO : Fld := ⟨0x90014, 0, 10, 10⟩
def TUN_TMR_B_LOOSE_HOLD : Fld := ⟨0x90014, 16, 10, 10⟩
-- TUN_LIMITS: Table 8.12, R238 (08_tunnels_and_ordering)
def TUN_LIMITS_ACK_EVERY : Fld := ⟨0x90018, 0, 11, 64⟩
def TUN_LIMITS_RESEND_LIM : Fld := ⟨0x90018, 16, 8, 8⟩
def TUN_LIMITS_PEER_IDLE : Fld := ⟨0x90018, 24, 8, 10⟩
-- TUN_WINDOWS: Table 8.12, R238 (08_tunnels_and_ordering)
def TUN_WINDOWS_KEEP_WIN : Fld := ⟨0x9001c, 0, 14, 8192⟩
def TUN_WINDOWS_RESEQ_DEPTH : Fld := ⟨0x9001c, 16, 14, 4096⟩
-- TUN_CFG: Table 8.13, R238 (08_tunnels_and_ordering)
def TUN_CFG_STATE (t : Nat) : Fld := ⟨0x91000 + 0x20 * t, 0, 3, if t = 0 then 1 else 0⟩
def TUN_CFG_ROLE (t : Nat) : Fld := ⟨0x91000 + 0x20 * t, 3, 1, 0⟩
def TUN_CFG_KEPT (t : Nat) : Fld := ⟨0x91000 + 0x20 * t, 4, 1, if t = 0 then 1 else 0⟩
def TUN_CFG_TC (t : Nat) : Fld := ⟨0x91000 + 0x20 * t, 5, 3, if t = 0 then 5 else 0⟩
def TUN_CFG_RING (t : Nat) : Fld := ⟨0x91000 + 0x20 * t, 8, 6, 0⟩
-- TUN_PEER: Table 8.13, R238 (08_tunnels_and_ordering)
def TUN_PEER_NODE (t : Nat) : Fld := ⟨0x91004 + 0x20 * t, 0, 16, 0⟩
def TUN_PEER_PTUN (t : Nat) : Fld := ⟨0x91004 + 0x20 * t, 16, 10, 0⟩
-- TUN_SEQ: Table 8.13, R238 (08_tunnels_and_ordering)
def TUN_SEQ_NEXT (t : Nat) : Fld := ⟨0x91008 + 0x20 * t, 0, 16, 0⟩
def TUN_SEQ_OLDEST (t : Nat) : Fld := ⟨0x91008 + 0x20 * t, 16, 16, 0⟩
-- TUN_HOLD: Table 8.13, R238 (08_tunnels_and_ordering)
def TUN_HOLD_HELD (t : Nat) : Fld := ⟨0x9100c + 0x20 * t, 0, 14, 0⟩
def TUN_HOLD_HOLE (t : Nat) : Fld := ⟨0x9100c + 0x20 * t, 16, 16, 0⟩
-- TUN_GAP: Table 8.13, R238 (08_tunnels_and_ordering)
def TUN_GAP (t : Nat) : Fld := ⟨0x91010 + 0x20 * t, 0, 32, 0⟩
-- TUN_DUP: Table 8.13, R238 (08_tunnels_and_ordering)
def TUN_DUP (t : Nat) : Fld := ⟨0x91014 + 0x20 * t, 0, 32, 0⟩
-- TUN_RESENT: Table 8.13, R238 (08_tunnels_and_ordering)
def TUN_RESENT (t : Nat) : Fld := ⟨0x91018 + 0x20 * t, 0, 32, 0⟩
-- TUN_PEER0_A: Table 8.13, R238 (08_tunnels_and_ordering)
def TUN_PEER0_A_NODE (k : Nat) : Fld := ⟨0x90800 + 0x10 * k, 0, 16, 0⟩
def TUN_PEER0_A_VALID (k : Nat) : Fld := ⟨0x90800 + 0x10 * k, 16, 1, 0⟩
-- TUN_PEER0_B: Table 8.13, R238 (08_tunnels_and_ordering)
def TUN_PEER0_B_NEXT (k : Nat) : Fld := ⟨0x90804 + 0x10 * k, 0, 16, 0⟩
def TUN_PEER0_B_OLDEST (k : Nat) : Fld := ⟨0x90804 + 0x10 * k, 16, 16, 0⟩
-- TUN_PEER0_C: Table 8.13, R238 (08_tunnels_and_ordering)
def TUN_PEER0_C_EXPECT (k : Nat) : Fld := ⟨0x90808 + 0x10 * k, 0, 16, 0⟩
-- TUN_BREAK_CNT: Table 8.11, R238 (08_tunnels_and_ordering)
def TUN_BREAK_CNT : Fld := ⟨0x90034, 0, 32, 0⟩
-- TUN_UNKNOWN_CNT: Table 8.11, R238 (08_tunnels_and_ordering)
def TUN_UNKNOWN_CNT : Fld := ⟨0x90038, 0, 32, 0⟩
-- TUN_EARLY_DROP: Table 8.11, R238 (08_tunnels_and_ordering)
def TUN_EARLY_DROP : Fld := ⟨0x9003c, 0, 32, 0⟩
-- TUN_LATE_DROP: Table 8.11, R238 (08_tunnels_and_ordering)
def TUN_LATE_DROP : Fld := ⟨0x90040, 0, 32, 0⟩
-- TUN_BAD_CNT: Table 8.11, R238 (08_tunnels_and_ordering)
def TUN_BAD_CNT : Fld := ⟨0x90044, 0, 32, 0⟩
-- TUN_FLUSH_LOOSE: Table 8.11, R238 (08_tunnels_and_ordering)
def TUN_FLUSH_LOOSE : Fld := ⟨0x90048, 0, 32, 0⟩
/-! ### BCH -/
-- BCH_CTL: Table 9.8, R273 (09_fungatre_machine)
def BCH_CTL_START (b : Nat) : Fld := ⟨0xa0000 + 0x1000 * b, 0, 4, 0⟩
def BCH_CTL_HALT (b : Nat) : Fld := ⟨0xa0000 + 0x1000 * b, 4, 4, 0⟩
def BCH_CTL_SWAP (b : Nat) : Fld := ⟨0xa0000 + 0x1000 * b, 8, 1, 0⟩
-- BCH_STAT: Table 9.8, R273 (09_fungatre_machine)
def BCH_STAT_STATE (b : Nat) : Fld := ⟨0xa0004 + 0x1000 * b, 0, 12, 0⟩
def BCH_STAT_ACT_BANK (b : Nat) : Fld := ⟨0xa0004 + 0x1000 * b, 12, 1, 0⟩
def BCH_STAT_SPARE (b : Nat) : Fld := ⟨0xa0004 + 0x1000 * b, 13, 1, if b = 15 then 1 else 0⟩
-- BCH_EVT: Table 9.8, R273 (09_fungatre_machine)
def BCH_EVT_TRAP (b : Nat) : Fld := ⟨0xa0008 + 0x1000 * b, 0, 4, 0⟩
def BCH_EVT_DOUBLE_TRAP (b : Nat) : Fld := ⟨0xa0008 + 0x1000 * b, 4, 1, 0⟩
def BCH_EVT_WDOG_BITE (b : Nat) : Fld := ⟨0xa0008 + 0x1000 * b, 5, 1, 0⟩
def BCH_EVT_HALTED (b : Nat) : Fld := ⟨0xa0008 + 0x1000 * b, 6, 1, 0⟩
def BCH_EVT_ECC_CORR (b : Nat) : Fld := ⟨0xa0008 + 0x1000 * b, 7, 1, 0⟩
def BCH_EVT_ECC_UNCORR (b : Nat) : Fld := ⟨0xa0008 + 0x1000 * b, 8, 1, 0⟩
-- BCH_IRQ_EN: Table 9.8, R273 (09_fungatre_machine)
def BCH_IRQ_EN_TRAP (b : Nat) : Fld := ⟨0xa000c + 0x1000 * b, 0, 4, 0⟩
def BCH_IRQ_EN_DOUBLE_TRAP (b : Nat) : Fld := ⟨0xa000c + 0x1000 * b, 4, 1, 0⟩
def BCH_IRQ_EN_WDOG_BITE (b : Nat) : Fld := ⟨0xa000c + 0x1000 * b, 5, 1, 0⟩
def BCH_IRQ_EN_HALTED (b : Nat) : Fld := ⟨0xa000c + 0x1000 * b, 6, 1, 0⟩
def BCH_IRQ_EN_ECC_CORR (b : Nat) : Fld := ⟨0xa000c + 0x1000 * b, 7, 1, 0⟩
def BCH_IRQ_EN_ECC_UNCORR (b : Nat) : Fld := ⟨0xa000c + 0x1000 * b, 8, 1, 0⟩
-- BCH_WDOG: Table 9.8, R273 (09_fungatre_machine)
def BCH_WDOG_PERIOD (b : Nat) : Fld := ⟨0xa0010 + 0x1000 * b, 0, 16, 1000⟩
-- BCH_ILOAD_ADDR: Table 9.8, R273 (09_fungatre_machine)
def BCH_ILOAD_ADDR_ADDR (b : Nat) : Fld := ⟨0xa0020 + 0x1000 * b, 2, 14, 0⟩
-- BCH_ILOAD: Table 9.8, R273 (09_fungatre_machine)
def BCH_ILOAD_DATA (b : Nat) : Fld := ⟨0xa0024 + 0x1000 * b, 0, 32, 0⟩
-- BCH_DLOAD_ADDR: Table 9.8, R273 (09_fungatre_machine)
def BCH_DLOAD_ADDR_ADDR (b : Nat) : Fld := ⟨0xa0028 + 0x1000 * b, 2, 15, 0⟩
-- BCH_DLOAD: Table 9.8, R273 (09_fungatre_machine)
def BCH_DLOAD_DATA (b : Nat) : Fld := ⟨0xa002c + 0x1000 * b, 0, 32, 0⟩
-- BCH_CREG: Table 9.8, R273 (09_fungatre_machine)
def BCH_CREG_OWNER (b : Nat) : Fld := ⟨0xa0030 + 0x1000 * b, 0, 16, 0⟩
def BCH_CREG_VALID (b : Nat) : Fld := ⟨0xa0030 + 0x1000 * b, 16, 8, 0⟩
-- BCH_ECC_CORR: Table 9.8, R273 (09_fungatre_machine)
def BCH_ECC_CORR (b : Nat) : Fld := ⟨0xa0040 + 0x1000 * b, 0, 32, 0⟩
-- BCH_ECC_UNCORR: Table 9.8, R273 (09_fungatre_machine)
def BCH_ECC_UNCORR (b : Nat) : Fld := ⟨0xa0044 + 0x1000 * b, 0, 32, 0⟩
-- BCH_ECC_ADDR: Table 9.8, R273 (09_fungatre_machine)
def BCH_ECC_ADDR_ADDR (b : Nat) : Fld := ⟨0xa0048 + 0x1000 * b, 0, 17, 0⟩
-- BCH_FOWN: Table 9.8, R273 (09_fungatre_machine)
def BCH_FOWN_OWNER (b : Nat) : Fld := ⟨0xa0050 + 0x1000 * b, 0, 4, 0⟩
-- BCH_SCRUB: Table 9.8, R273 (09_fungatre_machine)
def BCH_SCRUB_SCRUB_INT (b : Nat) : Fld := ⟨0xa0054 + 0x1000 * b, 0, 8, 10⟩
-- BCH_ENTRY: Table 9.9, R273 (09_fungatre_machine)
def BCH_ENTRY_ENTRY (b : Nat) (h : Nat) : Fld := ⟨0xa0100 + 0x1000 * b + 0x10 * h, 0, 16, 0⟩
-- BCH_HAND_PC: Table 9.9, R273 (09_fungatre_machine)
def BCH_HAND_PC_PC (b : Nat) (h : Nat) : Fld := ⟨0xa0104 + 0x1000 * b + 0x10 * h, 0, 16, 0⟩
-- BCH_HAND_CAUSE: Table 9.9, R273 (09_fungatre_machine)
def BCH_HAND_CAUSE_CAUSE (b : Nat) (h : Nat) : Fld := ⟨0xa0108 + 0x1000 * b + 0x10 * h, 0, 8, 0⟩
def BCH_HAND_CAUSE_DOUBLE (b : Nat) (h : Nat) : Fld := ⟨0xa0108 + 0x1000 * b + 0x10 * h, 8, 1, 0⟩
def BCH_HAND_CAUSE_EPC (b : Nat) (h : Nat) : Fld := ⟨0xa0108 + 0x1000 * b + 0x10 * h, 16, 16, 0⟩
-- BCH_RING: Table 9.10, R273 (09_fungatre_machine)
def BCH_RING_BENCH (r : Nat) : Fld := ⟨0xa0800 + 0x4 * r, 0, 4, 0⟩
def BCH_RING_HAND (r : Nat) : Fld := ⟨0xa0800 + 0x4 * r, 4, 2, 0⟩
def BCH_RING_PORT (r : Nat) : Fld := ⟨0xa0800 + 0x4 * r, 6, 4, 0⟩
def BCH_RING_TAKE_DEPTH (r : Nat) : Fld := ⟨0xa0800 + 0x4 * r, 10, 7, 16⟩
def BCH_RING_GIVE_DEPTH (r : Nat) : Fld := ⟨0xa0800 + 0x4 * r, 17, 7, 16⟩
def BCH_RING_FROZEN (r : Nat) : Fld := ⟨0xa0800 + 0x4 * r, 24, 1, 0⟩
def BCH_RING_VALID (r : Nat) : Fld := ⟨0xa0800 + 0x4 * r, 25, 1, 0⟩
-- BCH_SPARE: Table 9.10, R273 (09_fungatre_machine)
def BCH_SPARE_BENCH : Fld := ⟨0xa0900, 0, 5, 15⟩
-- BCH_TAG_STAT: Table 9.10, R273 (09_fungatre_machine)
def BCH_TAG_STAT_FREE : Fld := ⟨0xa0904, 0, 12, 2048⟩
-- BCH_TAG_TMO: Table 9.10, R273 (09_fungatre_machine)
def BCH_TAG_TMO_TMO : Fld := ⟨0xa0908, 0, 14, 300⟩
-- BCH_TAG_LATE: Table 9.10, R273 (09_fungatre_machine)
def BCH_TAG_LATE : Fld := ⟨0xa090c, 0, 32, 0⟩
-- BCH_TAG_QUOTA: Table 9.10, R273 (09_fungatre_machine)
def BCH_TAG_QUOTA_QUOTA : Fld := ⟨0xa0910, 0, 11, 64⟩
-- BCH_PORTER_STAT: Table 9.10, R273 (09_fungatre_machine)
def BCH_PORTER_STAT_CAUSE : Fld := ⟨0xa0914, 0, 8, 0⟩
def BCH_PORTER_STAT_RESTARTS : Fld := ⟨0xa0914, 8, 8, 0⟩
-- BCH_STEWARD_STAT: Table 9.10, R273 (09_fungatre_machine)
def BCH_STEWARD_STAT_CAUSE : Fld := ⟨0xa0918, 0, 8, 0⟩
def BCH_STEWARD_STAT_HALTED : Fld := ⟨0xa0918, 8, 1, 0⟩
/-! ### BRG -/
-- BRG_CTL: Table 12.5, R349 (12_bridge_and_accessory_bus)
def BRG_CTL_PF_LIFE : Fld := ⟨0xb0000, 0, 8, 8⟩
-- BRG_STAT: Table 12.5, R349 (12_bridge_and_accessory_bus)
def BRG_STAT_BUSY : Fld := ⟨0xb0004, 0, 5, 0⟩
def BRG_STAT_LOCKED : Fld := ⟨0xb0004, 5, 5, 0⟩
def BRG_STAT_I2C_STUCK : Fld := ⟨0xb0004, 10, 2, 0⟩
-- BRG_EVT: Table 12.5, R349 (12_bridge_and_accessory_bus)
def BRG_EVT_FAR_ERR : Fld := ⟨0xb0008, 0, 1, 0⟩
def BRG_EVT_DISCARD : Fld := ⟨0xb0008, 1, 1, 0⟩
def BRG_EVT_DLOG_OVR : Fld := ⟨0xb0008, 2, 1, 0⟩
def BRG_EVT_LOCK_BITE : Fld := ⟨0xb0008, 3, 1, 0⟩
def BRG_EVT_CFG_ERR : Fld := ⟨0xb0008, 4, 1, 0⟩
def BRG_EVT_I2C_STUCK : Fld := ⟨0xb0008, 5, 1, 0⟩
-- BRG_IRQ_EN: Table 12.5, R349 (12_bridge_and_accessory_bus)
def BRG_IRQ_EN_FAR_ERR : Fld := ⟨0xb000c, 0, 1, 0⟩
def BRG_IRQ_EN_DISCARD : Fld := ⟨0xb000c, 1, 1, 0⟩
def BRG_IRQ_EN_DLOG_OVR : Fld := ⟨0xb000c, 2, 1, 0⟩
def BRG_IRQ_EN_LOCK_BITE : Fld := ⟨0xb000c, 3, 1, 0⟩
def BRG_IRQ_EN_CFG_ERR : Fld := ⟨0xb000c, 4, 1, 0⟩
def BRG_IRQ_EN_I2C_STUCK : Fld := ⟨0xb000c, 5, 1, 0⟩
-- BRG_LOCK_WDOG: Table 12.5, R349 (12_bridge_and_accessory_bus)
def BRG_LOCK_WDOG_LOCK_WDOG : Fld := ⟨0xb0010, 0, 10, 10⟩
-- BRG_FAR_LOG_ADDR: Table 12.5, R349 (12_bridge_and_accessory_bus)
def BRG_FAR_LOG_ADDR_ADDR : Fld := ⟨0xb0014, 0, 32, 0⟩
-- BRG_FAR_LOG_INFO: Table 12.5, R349 (12_bridge_and_accessory_bus)
def BRG_FAR_LOG_INFO_CODE : Fld := ⟨0xb0018, 0, 4, 0⟩
def BRG_FAR_LOG_INFO_REQ : Fld := ⟨0xb0018, 4, 5, 0⟩
def BRG_FAR_LOG_INFO_HAND : Fld := ⟨0xb0018, 9, 2, 0⟩
def BRG_FAR_LOG_INFO_OPEN : Fld := ⟨0xb0018, 11, 1, 0⟩
-- BRG_FAR_CNT: Table 12.5, R349 (12_bridge_and_accessory_bus)
def BRG_FAR_CNT : Fld := ⟨0xb001c, 0, 32, 0⟩
-- BRG_ARB_LOSS: Table 12.5, R349 (12_bridge_and_accessory_bus)
def BRG_ARB_LOSS : Fld := ⟨0xb0020, 0, 32, 0⟩
-- BRG_DLOG_OVR: Table 12.5, R349 (12_bridge_and_accessory_bus)
def BRG_DLOG_OVR : Fld := ⟨0xb0028, 0, 32, 0⟩
-- BRG_DLOG_STAT: Table 12.5, R349 (12_bridge_and_accessory_bus)
def BRG_DLOG_STAT_HEAD : Fld := ⟨0xb0024, 0, 8, 0⟩
def BRG_DLOG_STAT_WRAPPED : Fld := ⟨0xb0024, 8, 1, 0⟩
-- BRG_LOCK_OWNER: Table 12.6, R349 (12_bridge_and_accessory_bus)
def BRG_LOCK_OWNER_REQ (k : Nat) : Fld := ⟨0xb0040 + 0x4 * k, 0, 5, 0⟩
def BRG_LOCK_OWNER_HAND (k : Nat) : Fld := ⟨0xb0040 + 0x4 * k, 5, 2, 0⟩
def BRG_LOCK_OWNER_HELD (k : Nat) : Fld := ⟨0xb0040 + 0x4 * k, 7, 1, 0⟩
-- BRG_WIN_CFG: Table 12.7, R349 (12_bridge_and_accessory_bus)
def BRG_WIN_CFG_EN (n : Nat) : Fld := ⟨0xb0400 + 0x10 * n, 0, 1, if n = 0 then 1 else 0⟩
def BRG_WIN_CFG_KIND (n : Nat) : Fld := ⟨0xb0400 + 0x10 * n, 1, 3, 0⟩
def BRG_WIN_CFG_POSTED (n : Nat) : Fld := ⟨0xb0400 + 0x10 * n, 4, 1, 0⟩
def BRG_WIN_CFG_PREFETCH (n : Nat) : Fld := ⟨0xb0400 + 0x10 * n, 5, 1, 0⟩
def BRG_WIN_CFG_LOCKABLE (n : Nat) : Fld := ⟨0xb0400 + 0x10 * n, 6, 1, 0⟩
def BRG_WIN_CFG_BUS (n : Nat) : Fld := ⟨0xb0400 + 0x10 * n, 7, 1, 0⟩
def BRG_WIN_CFG_SIZE (n : Nat) : Fld := ⟨0xb0400 + 0x10 * n, 8, 5, if n = 0 then 24 else 12⟩
-- BRG_WIN_BASE_LO: Table 12.7, R349 (12_bridge_and_accessory_bus)
def BRG_WIN_BASE_LO_BASE (n : Nat) : Fld := ⟨0xb0404 + 0x10 * n, 0, 32, 0⟩
-- BRG_WIN_BASE_HI: Table 12.7, R349 (12_bridge_and_accessory_bus)
def BRG_WIN_BASE_HI_BASE (n : Nat) : Fld := ⟨0xb0408 + 0x10 * n, 0, 32, 0⟩
-- BRG_WIN_ACC: Table 12.7, R349 (12_bridge_and_accessory_bus)
def BRG_WIN_ACC_ACC (n : Nat) : Fld := ⟨0xb040c + 0x10 * n, 0, 32, 0⟩
-- BRG_DLOG_ADDR: Table 12.9, R349 (12_bridge_and_accessory_bus)
def BRG_DLOG_ADDR_ADDR (e : Nat) : Fld := ⟨0xb1000 + 0x10 * e, 0, 32, 0⟩
-- BRG_DLOG_T_LO: Table 12.9, R349 (12_bridge_and_accessory_bus)
def BRG_DLOG_T_LO_T_LO (e : Nat) : Fld := ⟨0xb1004 + 0x10 * e, 0, 32, 0⟩
-- BRG_DLOG_T_HI: Table 12.9, R349 (12_bridge_and_accessory_bus)
def BRG_DLOG_T_HI_T_HI (e : Nat) : Fld := ⟨0xb1008 + 0x10 * e, 0, 32, 0⟩
-- BRG_DLOG_INFO: Table 12.9, R349 (12_bridge_and_accessory_bus)
def BRG_DLOG_INFO_UNREAD (e : Nat) : Fld := ⟨0xb100c + 0x10 * e, 0, 16, 0⟩
def BRG_DLOG_INFO_CAUSE (e : Nat) : Fld := ⟨0xb100c + 0x10 * e, 16, 3, 0⟩
/-! ### GLB -/
-- GLB_ID: Table 13.10, R372 (13_management_and_dockets); fused: STEP 0x10 is B0
def GLB_ID_PART : Fld := ⟨0x0, 0, 16, 30528⟩
def GLB_ID_STEP : Fld := ⟨0x0, 16, 8, 0x10⟩
-- GLB_LIKENESS: Table 13.10, R372 (13_management_and_dockets); fused, the same in every B0 unit
def GLB_LIKENESS_CLASS : Fld := ⟨0x4, 0, 32, 0x77400100⟩
-- GLB_UID: Table 13.10, R372 (13_management_and_dockets); fused: the value before the fuse shadow is loaded is the model's (DESIGN CHOICE, log entry 26)
def GLB_UID_UID (k : Nat) : Fld := ⟨0x10 + 0x4 * k, 0, 32, 0⟩
-- GLB_STANCE: Table 13.10, R372 (13_management_and_dockets)
def GLB_STANCE_STANCE : Fld := ⟨0x20, 0, 2, 0⟩
-- GLB_RCSR: Table 13.10, R372 (13_management_and_dockets)
def GLB_RCSR_RD_EN : Fld := ⟨0x24, 0, 1, 1⟩
def GLB_RCSR_WR_ANY : Fld := ⟨0x24, 1, 1, 0⟩
-- GLB_HB: Table 13.10, R372 (13_management_and_dockets)
def GLB_HB_HB_TMO : Fld := ⟨0x28, 0, 13, 200⟩
def GLB_HB_LOST : Fld := ⟨0x28, 16, 1, 0⟩
-- GLB_SCRATCH: Table 13.10, R372 (13_management_and_dockets)
def GLB_SCRATCH_DATA : Fld := ⟨0x30, 0, 32, 0⟩
/-! ### MBX -/
-- MBX_CTL: Table 13.11, R372 (13_management_and_dockets)
def MBX_CTL_EN : Fld := ⟨0x160000, 0, 4, 15⟩
def MBX_CTL_PUSH : Fld := ⟨0x160000, 4, 4, 15⟩
-- MBX_STAT: Table 13.11, R372 (13_management_and_dockets)
def MBX_STAT_OUT_s : Fld := ⟨0x160004, 0, 28, 0⟩
-- MBX_EVT: Table 13.11, R372 (13_management_and_dockets)
def MBX_EVT_DOCKET : Fld := ⟨0x160008, 0, 1, 0⟩
def MBX_EVT_BUSY : Fld := ⟨0x160008, 1, 1, 0⟩
def MBX_EVT_AUTH : Fld := ⟨0x160008, 2, 1, 0⟩
def MBX_EVT_HB_LOST : Fld := ⟨0x160008, 3, 1, 0⟩
-- MBX_IRQ_EN: Table 13.11, R372 (13_management_and_dockets)
def MBX_IRQ_EN_DOCKET : Fld := ⟨0x16000c, 0, 1, 0⟩
def MBX_IRQ_EN_BUSY : Fld := ⟨0x16000c, 1, 1, 0⟩
def MBX_IRQ_EN_AUTH : Fld := ⟨0x16000c, 2, 1, 0⟩
def MBX_IRQ_EN_HB_LOST : Fld := ⟨0x16000c, 3, 1, 0⟩
-- MBX_SEL: Table 13.11, R372 (13_management_and_dockets)
def MBX_SEL_SLOT : Fld := ⟨0x160010, 0, 6, 0⟩
def MBX_SEL_SESSION : Fld := ⟨0x160010, 6, 2, 0⟩
-- MBX_ACK: Table 13.11, R372 (13_management_and_dockets)
def MBX_ACK_SLOT : Fld := ⟨0x160014, 0, 6, 0⟩
def MBX_ACK_SESSION : Fld := ⟨0x160014, 8, 2, 0⟩
def MBX_ACK_GENERATION : Fld := ⟨0x160014, 16, 8, 0⟩
-- MBX_BUSY_CNT: Table 13.11, R372 (13_management_and_dockets)
def MBX_BUSY_CNT : Fld := ⟨0x160020, 0, 32, 0⟩
-- MBX_AUTH_DROP: Table 13.11, R372 (13_management_and_dockets)
def MBX_AUTH_DROP : Fld := ⟨0x160024, 0, 32, 0⟩
-- MBX_REPLAY_DROP: Table 13.11, R372 (13_management_and_dockets)
def MBX_REPLAY_DROP : Fld := ⟨0x160028, 0, 32, 0⟩
-- MBX_ACK_STALE: Table 13.11, R372 (13_management_and_dockets)
def MBX_ACK_STALE : Fld := ⟨0x16002c, 0, 32, 0⟩
-- MBX_SRC_DROP: Table 13.11, R372 (13_management_and_dockets)
def MBX_SRC_DROP : Fld := ⟨0x160030, 0, 32, 0⟩
-- MBX_DKT: Table 13.11, R372 (13_management_and_dockets)
def MBX_DKT_DATA (w : Nat) : Fld := ⟨0x160400 + 0x4 * w, 0, 32, 0⟩
/-! ### CLK -/
-- CLK_CTL: Table 14.11, R394 (14_clocks_reset_boot)
def CLK_CTL_AUTO_SWAP : Fld := ⟨0x10000, 0, 1, 1⟩
def CLK_CTL_PCIE_REFCLK_EN : Fld := ⟨0x10000, 1, 1, 0⟩
def CLK_CTL_NODE_RESET : Fld := ⟨0x10000, 2, 1, 0⟩
-- CLK_STAT: Table 14.11, R394 (14_clocks_reset_boot)
def CLK_STAT_ROOT_ACT : Fld := ⟨0x10004, 0, 1, 0⟩
def CLK_STAT_LOCK_A : Fld := ⟨0x10004, 1, 1, 0⟩
def CLK_STAT_LOCK_B : Fld := ⟨0x10004, 2, 1, 0⟩
def CLK_STAT_REF_OK : Fld := ⟨0x10004, 3, 1, 0⟩
def CLK_STAT_ALIGNED : Fld := ⟨0x10004, 4, 1, 0⟩
-- CLK_EVT: Table 14.11, R394 (14_clocks_reset_boot)
def CLK_EVT_REF_FAIL : Fld := ⟨0x10008, 0, 1, 0⟩
def CLK_EVT_LOCK_A_LOST : Fld := ⟨0x10008, 1, 1, 0⟩
def CLK_EVT_LOCK_B_LOST : Fld := ⟨0x10008, 2, 1, 0⟩
def CLK_EVT_FREQ_A : Fld := ⟨0x10008, 3, 1, 0⟩
def CLK_EVT_FREQ_B : Fld := ⟨0x10008, 4, 1, 0⟩
def CLK_EVT_SWAP : Fld := ⟨0x10008, 5, 1, 0⟩
def CLK_EVT_BOOT_FAIL : Fld := ⟨0x10008, 6, 1, 0⟩
-- CLK_IRQ_EN: Table 14.11, R394 (14_clocks_reset_boot)
def CLK_IRQ_EN_REF_FAIL : Fld := ⟨0x1000c, 0, 1, 0⟩
def CLK_IRQ_EN_LOCK_A_LOST : Fld := ⟨0x1000c, 1, 1, 0⟩
def CLK_IRQ_EN_LOCK_B_LOST : Fld := ⟨0x1000c, 2, 1, 0⟩
def CLK_IRQ_EN_FREQ_A : Fld := ⟨0x1000c, 3, 1, 0⟩
def CLK_IRQ_EN_FREQ_B : Fld := ⟨0x1000c, 4, 1, 0⟩
def CLK_IRQ_EN_SWAP : Fld := ⟨0x1000c, 5, 1, 0⟩
def CLK_IRQ_EN_BOOT_FAIL : Fld := ⟨0x1000c, 6, 1, 0⟩
-- CLK_RST_CAUSE: Table 14.11, R394 (14_clocks_reset_boot)
def CLK_RST_CAUSE_KIND : Fld := ⟨0x10010, 0, 3, 0⟩
-- CLK_BOOT: Table 14.11, R394 (14_clocks_reset_boot)
def CLK_BOOT_STEP : Fld := ⟨0x10014, 0, 4, 1⟩
def CLK_BOOT_FAIL : Fld := ⟨0x10014, 4, 4, 0⟩
def CLK_BOOT_SEEDED : Fld := ⟨0x10014, 8, 1, 0⟩
def CLK_BOOT_NO_ROOTSTOCK : Fld := ⟨0x10014, 9, 1, 0⟩
def CLK_BOOT_DEFAULT_BEQ : Fld := ⟨0x10014, 10, 1, 0⟩
-- CLK_BOOT_TMR: Table 14.11, R394 (14_clocks_reset_boot)
def CLK_BOOT_TMR_GATE_TMO : Fld := ⟨0x10018, 0, 8, 20⟩
def CLK_BOOT_TMR_SEED_TMO : Fld := ⟨0x10018, 8, 8, 10⟩
-- CLK_STRAP: Table 14.11, R394 (14_clocks_reset_boot); strapped: the value before the pins are known is the model's (DESIGN CHOICE, log entry 26)
def CLK_STRAP_ROWHEAD : Fld := ⟨0x1001c, 0, 1, 0⟩
def CLK_STRAP_BOOTMODE : Fld := ⟨0x1001c, 1, 2, 0⟩
-- CLK_RESET_CNT: Table 14.11, R394 (14_clocks_reset_boot)
def CLK_RESET_CNT : Fld := ⟨0x10020, 0, 32, 0⟩
-- CLK_SWAP_CNT: Table 14.11, R394 (14_clocks_reset_boot)
def CLK_SWAP_CNT : Fld := ⟨0x10024, 0, 32, 0⟩
/-! ### ETH -/
-- ETH_CTL: Table 15.6, R412 (15_ethernet_and_storage)
def ETH_CTL_EN (p : Nat) : Fld := ⟨0xc0000 + 0x1000 * p, 0, 1, 0⟩
def ETH_CTL_SPEED (p : Nat) : Fld := ⟨0xc0000 + 0x1000 * p, 1, 1, 0⟩
def ETH_CTL_FEC (p : Nat) : Fld := ⟨0xc0000 + 0x1000 * p, 2, 2, 0⟩
def ETH_CTL_PROMISC (p : Nat) : Fld := ⟨0xc0000 + 0x1000 * p, 4, 1, 0⟩
def ETH_CTL_ALLMULTI (p : Nat) : Fld := ⟨0xc0000 + 0x1000 * p, 5, 1, 0⟩
def ETH_CTL_PAUSE_RX (p : Nat) : Fld := ⟨0xc0000 + 0x1000 * p, 6, 1, 1⟩
def ETH_CTL_PW_EN (p : Nat) : Fld := ⟨0xc0000 + 0x1000 * p, 7, 1, 0⟩
-- ETH_STAT: Table 15.6, R412 (15_ethernet_and_storage)
def ETH_STAT_LINK (p : Nat) : Fld := ⟨0xc0004 + 0x1000 * p, 0, 1, 0⟩
def ETH_STAT_BLOCK_LOCK (p : Nat) : Fld := ⟨0xc0004 + 0x1000 * p, 1, 1, 0⟩
def ETH_STAT_FEC_LOCK (p : Nat) : Fld := ⟨0xc0004 + 0x1000 * p, 2, 1, 0⟩
def ETH_STAT_PAUSED (p : Nat) : Fld := ⟨0xc0004 + 0x1000 * p, 3, 1, 0⟩
-- ETH_EVT: Table 15.6, R412 (15_ethernet_and_storage)
def ETH_EVT_LINK_UP (p : Nat) : Fld := ⟨0xc0008 + 0x1000 * p, 0, 1, 0⟩
def ETH_EVT_LINK_DOWN (p : Nat) : Fld := ⟨0xc0008 + 0x1000 * p, 1, 1, 0⟩
def ETH_EVT_RX_DROP (p : Nat) : Fld := ⟨0xc0008 + 0x1000 * p, 2, 1, 0⟩
def ETH_EVT_TX_BAD (p : Nat) : Fld := ⟨0xc0008 + 0x1000 * p, 3, 1, 0⟩
def ETH_EVT_TS_OVF (p : Nat) : Fld := ⟨0xc0008 + 0x1000 * p, 4, 1, 0⟩
-- ETH_IRQ_EN: Table 15.6, R412 (15_ethernet_and_storage)
def ETH_IRQ_EN_LINK_UP (p : Nat) : Fld := ⟨0xc000c + 0x1000 * p, 0, 1, 0⟩
def ETH_IRQ_EN_LINK_DOWN (p : Nat) : Fld := ⟨0xc000c + 0x1000 * p, 1, 1, 0⟩
def ETH_IRQ_EN_RX_DROP (p : Nat) : Fld := ⟨0xc000c + 0x1000 * p, 2, 1, 0⟩
def ETH_IRQ_EN_TX_BAD (p : Nat) : Fld := ⟨0xc000c + 0x1000 * p, 3, 1, 0⟩
def ETH_IRQ_EN_TS_OVF (p : Nat) : Fld := ⟨0xc000c + 0x1000 * p, 4, 1, 0⟩
-- ETH_MAC_LO: Table 15.6, R412 (15_ethernet_and_storage); fused: the value before the fuse shadow is loaded is the model's (DESIGN CHOICE, log entry 26)
def ETH_MAC_LO_ADDR (p : Nat) : Fld := ⟨0xc0010 + 0x1000 * p, 0, 32, 0⟩
-- ETH_MAC_HI: Table 15.6, R412 (15_ethernet_and_storage); fused: the value before the fuse shadow is loaded is the model's (DESIGN CHOICE, log entry 26)
def ETH_MAC_HI_ADDR (p : Nat) : Fld := ⟨0xc0014 + 0x1000 * p, 0, 16, 0⟩
-- ETH_CFG: Table 15.6, R412 (15_ethernet_and_storage)
def ETH_CFG_MAXF (p : Nat) : Fld := ⟨0xc0018 + 0x1000 * p, 0, 14, 1522⟩
def ETH_CFG_RXRING (p : Nat) : Fld := ⟨0xc0018 + 0x1000 * p, 14, 6, 0⟩
def ETH_CFG_RXRING_EN (p : Nat) : Fld := ⟨0xc0018 + 0x1000 * p, 20, 1, 0⟩
def ETH_CFG_LINK_FILT (p : Nat) : Fld := ⟨0xc0018 + 0x1000 * p, 24, 8, 10⟩
-- ETH_TSRX_INF: Table 15.6, R412 (15_ethernet_and_storage)
def ETH_TSRX_INF_MSGTYPE (p : Nat) : Fld := ⟨0xc0020 + 0x1000 * p, 0, 4, 0⟩
def ETH_TSRX_INF_SEQID (p : Nat) : Fld := ⟨0xc0020 + 0x1000 * p, 8, 16, 0⟩
def ETH_TSRX_INF_FILL (p : Nat) : Fld := ⟨0xc0020 + 0x1000 * p, 24, 5, 0⟩
def ETH_TSRX_INF_VALID (p : Nat) : Fld := ⟨0xc0020 + 0x1000 * p, 31, 1, 0⟩
-- ETH_TSRX_LO: Table 15.6, R412 (15_ethernet_and_storage)
def ETH_TSRX_LO_NS (p : Nat) : Fld := ⟨0xc0024 + 0x1000 * p, 0, 32, 0⟩
-- ETH_TSRX_HI: Table 15.6, R412 (15_ethernet_and_storage)
def ETH_TSRX_HI_NS (p : Nat) : Fld := ⟨0xc0028 + 0x1000 * p, 0, 32, 0⟩
-- ETH_TSTX_INF: Table 15.6, R412 (15_ethernet_and_storage)
def ETH_TSTX_INF_COOKIE (p : Nat) : Fld := ⟨0xc0030 + 0x1000 * p, 0, 8, 0⟩
def ETH_TSTX_INF_FILL (p : Nat) : Fld := ⟨0xc0030 + 0x1000 * p, 24, 5, 0⟩
def ETH_TSTX_INF_VALID (p : Nat) : Fld := ⟨0xc0030 + 0x1000 * p, 31, 1, 0⟩
-- ETH_TSTX_LO: Table 15.6, R412 (15_ethernet_and_storage)
def ETH_TSTX_LO_NS (p : Nat) : Fld := ⟨0xc0034 + 0x1000 * p, 0, 32, 0⟩
-- ETH_TSTX_HI: Table 15.6, R412 (15_ethernet_and_storage)
def ETH_TSTX_HI_NS (p : Nat) : Fld := ⟨0xc0038 + 0x1000 * p, 0, 32, 0⟩
-- ETH_RX_OK: Table 15.6, R412 (15_ethernet_and_storage)
def ETH_RX_OK (p : Nat) : Fld := ⟨0xc0040 + 0x1000 * p, 0, 32, 0⟩
-- ETH_RX_DROP: Table 15.6, R412 (15_ethernet_and_storage)
def ETH_RX_DROP (p : Nat) : Fld := ⟨0xc0044 + 0x1000 * p, 0, 32, 0⟩
-- ETH_RX_FCS: Table 15.6, R412 (15_ethernet_and_storage)
def ETH_RX_FCS (p : Nat) : Fld := ⟨0xc0048 + 0x1000 * p, 0, 32, 0⟩
-- ETH_TX_OK: Table 15.6, R412 (15_ethernet_and_storage)
def ETH_TX_OK (p : Nat) : Fld := ⟨0xc004c + 0x1000 * p, 0, 32, 0⟩
-- ETH_TX_BAD: Table 15.6, R412 (15_ethernet_and_storage)
def ETH_TX_BAD (p : Nat) : Fld := ⟨0xc0050 + 0x1000 * p, 0, 32, 0⟩
-- ETH_PAUSE: Table 15.6, R412 (15_ethernet_and_storage)
def ETH_PAUSE (p : Nat) : Fld := ⟨0xc0054 + 0x1000 * p, 0, 32, 0⟩
-- ETH_TS_OVF: Table 15.6, R412 (15_ethernet_and_storage)
def ETH_TS_OVF (p : Nat) : Fld := ⟨0xc0058 + 0x1000 * p, 0, 32, 0⟩
-- ETH_PW: Table 15.6, R412 (15_ethernet_and_storage)
def ETH_PW_VID (t : Nat) : Fld := ⟨0xc4000 + 0x4 * t, 0, 12, 0⟩
def ETH_PW_PCP (t : Nat) : Fld := ⟨0xc4000 + 0x4 * t, 12, 3, 0⟩
def ETH_PW_EN (t : Nat) : Fld := ⟨0xc4000 + 0x4 * t, 15, 1, 0⟩
def ETH_PW_RING (t : Nat) : Fld := ⟨0xc4000 + 0x4 * t, 16, 6, 0⟩
/-! ### PCI -/
-- PCI_CTL: Table 15.7, R413 (15_ethernet_and_storage)
def PCI_CTL_EN : Fld := ⟨0xd0000, 0, 1, 0⟩
def PCI_CTL_PERST_REL : Fld := ⟨0xd0000, 1, 1, 0⟩
def PCI_CTL_TGT_GEN : Fld := ⟨0xd0000, 2, 2, 3⟩
def PCI_CTL_TGT_WIDTH : Fld := ⟨0xd0000, 4, 2, 0⟩
def PCI_CTL_ASPM_L1 : Fld := ⟨0xd0000, 6, 1, 0⟩
-- PCI_STAT: Table 15.7, R413 (15_ethernet_and_storage)
def PCI_STAT_LINK : Fld := ⟨0xd0004, 0, 1, 0⟩
def PCI_STAT_GEN : Fld := ⟨0xd0004, 1, 2, 0⟩
def PCI_STAT_WIDTH : Fld := ⟨0xd0004, 3, 2, 0⟩
-- PCI_EVT: Table 15.7, R413 (15_ethernet_and_storage)
def PCI_EVT_LINK_UP : Fld := ⟨0xd0008, 0, 1, 0⟩
def PCI_EVT_LINK_DOWN : Fld := ⟨0xd0008, 1, 1, 0⟩
def PCI_EVT_AER_CORR : Fld := ⟨0xd0008, 2, 1, 0⟩
def PCI_EVT_AER_UNCORR : Fld := ⟨0xd0008, 3, 1, 0⟩
def PCI_EVT_UR_INBOUND : Fld := ⟨0xd0008, 4, 1, 0⟩
def PCI_EVT_SBUF_ERR : Fld := ⟨0xd0008, 5, 1, 0⟩
def PCI_EVT_CPL_TMO : Fld := ⟨0xd0008, 6, 1, 0⟩
-- PCI_IRQ_EN: Table 15.7, R413 (15_ethernet_and_storage)
def PCI_IRQ_EN_LINK_UP : Fld := ⟨0xd000c, 0, 1, 0⟩
def PCI_IRQ_EN_LINK_DOWN : Fld := ⟨0xd000c, 1, 1, 0⟩
def PCI_IRQ_EN_AER_CORR : Fld := ⟨0xd000c, 2, 1, 0⟩
def PCI_IRQ_EN_AER_UNCORR : Fld := ⟨0xd000c, 3, 1, 0⟩
def PCI_IRQ_EN_UR_INBOUND : Fld := ⟨0xd000c, 4, 1, 0⟩
def PCI_IRQ_EN_SBUF_ERR : Fld := ⟨0xd000c, 5, 1, 0⟩
def PCI_IRQ_EN_CPL_TMO : Fld := ⟨0xd000c, 6, 1, 0⟩
-- PCI_CFG_ADDR: Table 15.7, R413 (15_ethernet_and_storage)
def PCI_CFG_ADDR_REG : Fld := ⟨0xd0010, 0, 12, 0⟩
def PCI_CFG_ADDR_SELF : Fld := ⟨0xd0010, 12, 1, 0⟩
-- PCI_CFG_DATA: Table 15.7, R413 (15_ethernet_and_storage)
def PCI_CFG_DATA_DATA : Fld := ⟨0xd0014, 0, 32, 0⟩
-- PCI_SBUF_BASE_LO: Table 15.7, R413 (15_ethernet_and_storage)
def PCI_SBUF_BASE_LO_BASE : Fld := ⟨0xd0018, 0, 32, 0⟩
-- PCI_SBUF_BASE_HI: Table 15.7, R413 (15_ethernet_and_storage)
def PCI_SBUF_BASE_HI_BASE : Fld := ⟨0xd001c, 0, 32, 0⟩
-- PCI_CPL_TMO: Table 15.7, R413 (15_ethernet_and_storage)
def PCI_CPL_TMO_TMO : Fld := ⟨0xd0020, 0, 16, 50⟩
-- PCI_BT_ALLOC: Table 15.7, R413 (15_ethernet_and_storage)
def PCI_BT_ALLOC_TAG : Fld := ⟨0xd0024, 0, 11, 0⟩
def PCI_BT_ALLOC_NONE : Fld := ⟨0xd0024, 31, 1, 0⟩
-- PCI_BT_QUOTA: Table 15.7, R413 (15_ethernet_and_storage)
def PCI_BT_QUOTA_QUOTA : Fld := ⟨0xd0028, 0, 11, 512⟩
-- PCI_BT_STAT: Table 15.7, R413 (15_ethernet_and_storage)
def PCI_BT_STAT_HELD : Fld := ⟨0xd002c, 0, 11, 0⟩
-- PCI_AER_CORR: Table 15.7, R413 (15_ethernet_and_storage)
def PCI_AER_CORR : Fld := ⟨0xd0030, 0, 32, 0⟩
-- PCI_AER_UNCORR: Table 15.7, R413 (15_ethernet_and_storage)
def PCI_AER_UNCORR : Fld := ⟨0xd0034, 0, 32, 0⟩
-- PCI_UR_CNT: Table 15.7, R413 (15_ethernet_and_storage)
def PCI_UR_CNT : Fld := ⟨0xd0038, 0, 32, 0⟩
-- PCI_CPL_TMO_CNT: Table 15.7, R413 (15_ethernet_and_storage)
def PCI_CPL_TMO_CNT : Fld := ⟨0xd003c, 0, 32, 0⟩
-- PCI_MSIX_RING: Table 15.7, R413 (15_ethernet_and_storage)
def PCI_MSIX_RING_RING (v : Nat) : Fld := ⟨0xd0040 + 0x4 * v, 0, 6, 0⟩
def PCI_MSIX_RING_EN (v : Nat) : Fld := ⟨0xd0040 + 0x4 * v, 6, 1, 0⟩
-- PCI_BT_FREE: Table 15.7, R413 (15_ethernet_and_storage)
def PCI_BT_FREE_OPEN (t : Nat) : Fld := ⟨0xd2000 + 0x4 * t, 0, 1, 0⟩
/-! ### USB -/
-- USB_HOST_CTL: Table 16.5, R434 (16_peripheral_bus)
def USB_HOST_CTL_EN : Fld := ⟨0xe0000, 0, 1, 0⟩
-- USB_FRAME: Table 16.5, R434 (16_peripheral_bus)
def USB_FRAME_UFRAME : Fld := ⟨0xe0004, 0, 3, 0⟩
def USB_FRAME_FRAME : Fld := ⟨0xe0004, 3, 11, 0⟩
-- USB_EVT: Table 16.5, R434 (16_peripheral_bus)
def USB_EVT_CONNECT : Fld := ⟨0xe0008, 0, 1, 0⟩
def USB_EVT_DISCONNECT : Fld := ⟨0xe0008, 1, 1, 0⟩
def USB_EVT_UPWR_LOST : Fld := ⟨0xe0008, 2, 1, 0⟩
def USB_EVT_PIPE_HALT : Fld := ⟨0xe0008, 3, 1, 0⟩
def USB_EVT_BUDGET_ERR : Fld := ⟨0xe0008, 4, 1, 0⟩
def USB_EVT_PORT_RESUME : Fld := ⟨0xe0008, 5, 1, 0⟩
def USB_EVT_BUS_RESET : Fld := ⟨0xe0008, 6, 1, 0⟩
def USB_EVT_SUSPEND : Fld := ⟨0xe0008, 7, 1, 0⟩
def USB_EVT_RESUME : Fld := ⟨0xe0008, 8, 1, 0⟩
def USB_EVT_WAKE_DONE : Fld := ⟨0xe0008, 9, 1, 0⟩
def USB_EVT_SETUP_RX : Fld := ⟨0xe0008, 10, 1, 0⟩
def USB_EVT_EP_DONE : Fld := ⟨0xe0008, 11, 1, 0⟩
def USB_EVT_CARVE_ERR : Fld := ⟨0xe0008, 12, 1, 0⟩
-- USB_IRQ_EN: Table 16.5, R434 (16_peripheral_bus)
def USB_IRQ_EN_CONNECT : Fld := ⟨0xe000c, 0, 1, 0⟩
def USB_IRQ_EN_DISCONNECT : Fld := ⟨0xe000c, 1, 1, 0⟩
def USB_IRQ_EN_UPWR_LOST : Fld := ⟨0xe000c, 2, 1, 0⟩
def USB_IRQ_EN_PIPE_HALT : Fld := ⟨0xe000c, 3, 1, 0⟩
def USB_IRQ_EN_BUDGET_ERR : Fld := ⟨0xe000c, 4, 1, 0⟩
def USB_IRQ_EN_PORT_RESUME : Fld := ⟨0xe000c, 5, 1, 0⟩
def USB_IRQ_EN_BUS_RESET : Fld := ⟨0xe000c, 6, 1, 0⟩
def USB_IRQ_EN_SUSPEND : Fld := ⟨0xe000c, 7, 1, 0⟩
def USB_IRQ_EN_RESUME : Fld := ⟨0xe000c, 8, 1, 0⟩
def USB_IRQ_EN_WAKE_DONE : Fld := ⟨0xe000c, 9, 1, 0⟩
def USB_IRQ_EN_SETUP_RX : Fld := ⟨0xe000c, 10, 1, 0⟩
def USB_IRQ_EN_EP_DONE : Fld := ⟨0xe000c, 11, 1, 0⟩
def USB_IRQ_EN_CARVE_ERR : Fld := ⟨0xe000c, 12, 1, 0⟩
-- USB_UFRAME_CNT: Table 16.5, R434 (16_peripheral_bus)
def USB_UFRAME_CNT : Fld := ⟨0xe0010, 0, 32, 0⟩
-- USB_PORT: Table 16.5, R434 (16_peripheral_bus)
def USB_PORT_EN (k : Nat) : Fld := ⟨0xe0020 + 0x4 * k, 0, 1, 0⟩
def USB_PORT_RESET (k : Nat) : Fld := ⟨0xe0020 + 0x4 * k, 1, 1, 0⟩
def USB_PORT_SUSPEND (k : Nat) : Fld := ⟨0xe0020 + 0x4 * k, 2, 1, 0⟩
def USB_PORT_CONNECTED (k : Nat) : Fld := ⟨0xe0020 + 0x4 * k, 3, 1, 0⟩
def USB_PORT_SPEED (k : Nat) : Fld := ⟨0xe0020 + 0x4 * k, 4, 2, 0⟩
-- USB_PIPE_A: Table 16.5, R434 (16_peripheral_bus)
def USB_PIPE_A_PORT (k : Nat) : Fld := ⟨0xe0100 + 0x8 * k, 0, 3, 0⟩
def USB_PIPE_A_ADDR (k : Nat) : Fld := ⟨0xe0100 + 0x8 * k, 3, 7, 0⟩
def USB_PIPE_A_EP (k : Nat) : Fld := ⟨0xe0100 + 0x8 * k, 10, 4, 0⟩
def USB_PIPE_A_DIR (k : Nat) : Fld := ⟨0xe0100 + 0x8 * k, 14, 1, 0⟩
def USB_PIPE_A_TYPE (k : Nat) : Fld := ⟨0xe0100 + 0x8 * k, 15, 2, 0⟩
def USB_PIPE_A_MPS (k : Nat) : Fld := ⟨0xe0100 + 0x8 * k, 17, 11, 64⟩
def USB_PIPE_A_TOGGLE (k : Nat) : Fld := ⟨0xe0100 + 0x8 * k, 28, 1, 0⟩
def USB_PIPE_A_HALTED (k : Nat) : Fld := ⟨0xe0100 + 0x8 * k, 29, 1, 0⟩
def USB_PIPE_A_EN (k : Nat) : Fld := ⟨0xe0100 + 0x8 * k, 30, 1, 0⟩
-- USB_PIPE_B: Table 16.5, R434 (16_peripheral_bus)
def USB_PIPE_B_RING (k : Nat) : Fld := ⟨0xe0104 + 0x8 * k, 0, 6, 0⟩
def USB_PIPE_B_PERIOD_EXP (k : Nat) : Fld := ⟨0xe0104 + 0x8 * k, 8, 4, 0⟩
def USB_PIPE_B_PHASE (k : Nat) : Fld := ⟨0xe0104 + 0x8 * k, 16, 15, 0⟩
-- USB_DEV_CTL: Table 16.6, R434 (16_peripheral_bus)
def USB_DEV_CTL_EN : Fld := ⟨0xe0200, 0, 1, 0⟩
def USB_DEV_CTL_SILENT_EN : Fld := ⟨0xe0200, 1, 1, 1⟩
def USB_DEV_CTL_WAKE : Fld := ⟨0xe0200, 2, 1, 0⟩
def USB_DEV_CTL_CONFIGURED : Fld := ⟨0xe0200, 3, 1, 0⟩
def USB_DEV_CTL_RWAKE_EN : Fld := ⟨0xe0200, 4, 1, 0⟩
def USB_DEV_CTL_NEW_ADDR : Fld := ⟨0xe0200, 5, 7, 0⟩
def USB_DEV_CTL_ADDR_PEND : Fld := ⟨0xe0200, 12, 1, 0⟩
-- USB_DEV_STAT: Table 16.6, R434 (16_peripheral_bus)
def USB_DEV_STAT_ADDR : Fld := ⟨0xe0204, 0, 7, 0⟩
def USB_DEV_STAT_STATE : Fld := ⟨0xe0204, 7, 2, 0⟩
def USB_DEV_STAT_SUSPENDED : Fld := ⟨0xe0204, 9, 1, 0⟩
def USB_DEV_STAT_HS : Fld := ⟨0xe0204, 10, 1, 0⟩
-- USB_DEP: Table 16.6, R434 (16_peripheral_bus)
def USB_DEP_EN (d : Nat) (e : Nat) : Fld := ⟨0xe0300 + 0x40 * d + 0x4 * e, 0, 1, if e < 2 then 1 else 0⟩
def USB_DEP_READY (d : Nat) (e : Nat) : Fld := ⟨0xe0300 + 0x40 * d + 0x4 * e, 1, 1, 0⟩
def USB_DEP_HALT (d : Nat) (e : Nat) : Fld := ⟨0xe0300 + 0x40 * d + 0x4 * e, 2, 1, 0⟩
def USB_DEP_TOGGLE (d : Nat) (e : Nat) : Fld := ⟨0xe0300 + 0x40 * d + 0x4 * e, 3, 1, 0⟩
def USB_DEP_TYPE (d : Nat) (e : Nat) : Fld := ⟨0xe0300 + 0x40 * d + 0x4 * e, 4, 2, if e = 0 then 0 else 1⟩
def USB_DEP_MPS (d : Nat) (e : Nat) : Fld := ⟨0xe0300 + 0x40 * d + 0x4 * e, 6, 11, if e = 1 then 512 else 64⟩
def USB_DEP_LEN (d : Nat) (e : Nat) : Fld := ⟨0xe0300 + 0x40 * d + 0x4 * e, 17, 11, 0⟩
def USB_DEP_SILENT (d : Nat) (e : Nat) : Fld := ⟨0xe0300 + 0x40 * d + 0x4 * e, 28, 2, 0⟩
-- USB_CARVE: Table 16.6, R434 (16_peripheral_bus)
def USB_CARVE_BASE (d : Nat) (e : Nat) : Fld := ⟨0xe0380 + 0x40 * d + 0x4 * e, 0, 9, if e = 0 then d else if e = 1 then 2 + 8 * d else 0⟩
def USB_CARVE_UNITS (d : Nat) (e : Nat) : Fld := ⟨0xe0380 + 0x40 * d + 0x4 * e, 16, 5, if e = 0 then 1 else if e = 1 then 8 else 0⟩
-- USB_EPMEM: Table 16.6, R434 (16_peripheral_bus)
def USB_EPMEM_DATA (w : Nat) : Fld := ⟨0xe8000 + 0x4 * w, 0, 32, 0⟩
-- USB_HOST_ERR: Table 16.6, R434 (16_peripheral_bus)
def USB_HOST_ERR : Fld := ⟨0xe0400, 0, 32, 0⟩
-- USB_CELL_BAD: Table 16.6, R434 (16_peripheral_bus)
def USB_CELL_BAD : Fld := ⟨0xe0404, 0, 32, 0⟩
-- USB_DEV_SILENT: Table 16.6, R434 (16_peripheral_bus)
def USB_DEV_SILENT : Fld := ⟨0xe0408, 0, 32, 0⟩
-- USB_DEV_RESET_CNT: Table 16.6, R434 (16_peripheral_bus)
def USB_DEV_RESET_CNT : Fld := ⟨0xe040c, 0, 32, 0⟩
/-! ### DSP -/
-- DSP_CTL: Table 17.4, R450 (17_display)
def DSP_CTL_RING : Fld := ⟨0xf0000, 0, 6, 0⟩
-- DSP_EVT: Table 17.4, R450 (17_display)
def DSP_EVT_FLIP (h : Nat) : Fld := ⟨0xf0008, 8 * h + 0, 1, 0⟩
def DSP_EVT_COMMIT_LATE (h : Nat) : Fld := ⟨0xf0008, 8 * h + 1, 1, 0⟩
def DSP_EVT_UNDERRUN (h : Nat) : Fld := ⟨0xf0008, 8 * h + 2, 1, 0⟩
def DSP_EVT_HPD_CHG (h : Nat) : Fld := ⟨0xf0008, 8 * h + 3, 1, 0⟩
def DSP_EVT_HPD_IRQ (h : Nat) : Fld := ⟨0xf0008, 8 * h + 4, 1, 0⟩
def DSP_EVT_PSR_CHG (h : Nat) : Fld := ⟨0xf0008, 8 * h + 5, 1, 0⟩
def DSP_EVT_TRAIN_FAIL (h : Nat) : Fld := ⟨0xf0008, 8 * h + 6, 1, 0⟩
def DSP_EVT_AUX_DONE (h : Nat) : Fld := ⟨0xf0008, 8 * h + 7, 1, 0⟩
def DSP_EVT_CFG_ERR : Fld := ⟨0xf0008, 16, 1, 0⟩
def DSP_EVT_CELL_BAD : Fld := ⟨0xf0008, 17, 1, 0⟩
def DSP_EVT_ECC_UNCORR : Fld := ⟨0xf0008, 18, 1, 0⟩
-- DSP_IRQ_EN: Table 17.4, R450 (17_display)
def DSP_IRQ_EN_FLIP (h : Nat) : Fld := ⟨0xf000c, 8 * h + 0, 1, 0⟩
def DSP_IRQ_EN_COMMIT_LATE (h : Nat) : Fld := ⟨0xf000c, 8 * h + 1, 1, 0⟩
def DSP_IRQ_EN_UNDERRUN (h : Nat) : Fld := ⟨0xf000c, 8 * h + 2, 1, 0⟩
def DSP_IRQ_EN_HPD_CHG (h : Nat) : Fld := ⟨0xf000c, 8 * h + 3, 1, 0⟩
def DSP_IRQ_EN_HPD_IRQ (h : Nat) : Fld := ⟨0xf000c, 8 * h + 4, 1, 0⟩
def DSP_IRQ_EN_PSR_CHG (h : Nat) : Fld := ⟨0xf000c, 8 * h + 5, 1, 0⟩
def DSP_IRQ_EN_TRAIN_FAIL (h : Nat) : Fld := ⟨0xf000c, 8 * h + 6, 1, 0⟩
def DSP_IRQ_EN_AUX_DONE (h : Nat) : Fld := ⟨0xf000c, 8 * h + 7, 1, 0⟩
def DSP_IRQ_EN_CFG_ERR : Fld := ⟨0xf000c, 16, 1, 0⟩
def DSP_IRQ_EN_CELL_BAD : Fld := ⟨0xf000c, 17, 1, 0⟩
def DSP_IRQ_EN_ECC_UNCORR : Fld := ⟨0xf000c, 18, 1, 0⟩
-- DSP_ECC_CORR: Table 17.4, R450 (17_display)
def DSP_ECC_CORR : Fld := ⟨0xf0010, 0, 32, 0⟩
-- DSP_ECC_UNCORR: Table 17.4, R450 (17_display)
def DSP_ECC_UNCORR : Fld := ⟨0xf0014, 0, 32, 0⟩
-- DSP_CELL_BAD: Table 17.4, R450 (17_display)
def DSP_CELL_BAD : Fld := ⟨0xf0018, 0, 32, 0⟩
-- DSP_HCTL: Table 17.5, R450 (17_display)
def DSP_HCTL_EN (h : Nat) : Fld := ⟨0xf0100 + 0x80 * h, 0, 1, 0⟩
def DSP_HCTL_MODE (h : Nat) : Fld := ⟨0xf0100 + 0x80 * h, 1, 1, 0⟩
def DSP_HCTL_BPC (h : Nat) : Fld := ⟨0xf0100 + 0x80 * h, 2, 1, 1⟩
def DSP_HCTL_LANES (h : Nat) : Fld := ⟨0xf0100 + 0x80 * h, 3, 2, 2⟩
def DSP_HCTL_RATE (h : Nat) : Fld := ⟨0xf0100 + 0x80 * h, 5, 2, 2⟩
def DSP_HCTL_TRAIN (h : Nat) : Fld := ⟨0xf0100 + 0x80 * h, 7, 1, 0⟩
def DSP_HCTL_PSR_EN (h : Nat) : Fld := ⟨0xf0100 + 0x80 * h, 8, 1, 0⟩
def DSP_HCTL_PSR_IDLE (h : Nat) : Fld := ⟨0xf0100 + 0x80 * h, 9, 8, 4⟩
-- DSP_HSTAT: Table 17.5, R450 (17_display)
def DSP_HSTAT_LINK (h : Nat) : Fld := ⟨0xf0104 + 0x80 * h, 0, 1, 0⟩
def DSP_HSTAT_HPD (h : Nat) : Fld := ⟨0xf0104 + 0x80 * h, 1, 1, 0⟩
def DSP_HSTAT_LANES (h : Nat) : Fld := ⟨0xf0104 + 0x80 * h, 2, 2, 0⟩
def DSP_HSTAT_RATE (h : Nat) : Fld := ⟨0xf0104 + 0x80 * h, 4, 2, 0⟩
def DSP_HSTAT_PSR_STATE (h : Nat) : Fld := ⟨0xf0104 + 0x80 * h, 6, 2, 0⟩
def DSP_HSTAT_LINE (h : Nat) : Fld := ⟨0xf0104 + 0x80 * h, 8, 12, 0⟩
-- DSP_TIME_H: Table 17.5, R450 (17_display)
def DSP_TIME_H_ACT (h : Nat) : Fld := ⟨0xf0108 + 0x80 * h, 0, 12, 0⟩
def DSP_TIME_H_TOTAL (h : Nat) : Fld := ⟨0xf0108 + 0x80 * h, 16, 12, 0⟩
-- DSP_TIME_V: Table 17.5, R450 (17_display)
def DSP_TIME_V_ACT (h : Nat) : Fld := ⟨0xf0110 + 0x80 * h, 0, 12, 0⟩
def DSP_TIME_V_TOTAL (h : Nat) : Fld := ⟨0xf0110 + 0x80 * h, 16, 12, 0⟩
-- DSP_TIME_HS: Table 17.5, R450 (17_display)
def DSP_TIME_HS_START (h : Nat) : Fld := ⟨0xf010c + 0x80 * h, 0, 12, 0⟩
def DSP_TIME_HS_WIDTH (h : Nat) : Fld := ⟨0xf010c + 0x80 * h, 16, 8, 0⟩
def DSP_TIME_HS_POL (h : Nat) : Fld := ⟨0xf010c + 0x80 * h, 24, 1, 0⟩
-- DSP_TIME_VS: Table 17.5, R450 (17_display)
def DSP_TIME_VS_START (h : Nat) : Fld := ⟨0xf0114 + 0x80 * h, 0, 12, 0⟩
def DSP_TIME_VS_WIDTH (h : Nat) : Fld := ⟨0xf0114 + 0x80 * h, 16, 8, 0⟩
def DSP_TIME_VS_POL (h : Nat) : Fld := ⟨0xf0114 + 0x80 * h, 24, 1, 0⟩
-- DSP_PCLK: Table 17.5, R450 (17_display)
def DSP_PCLK_KHZ (h : Nat) : Fld := ⟨0xf0118 + 0x80 * h, 0, 19, 0⟩
-- DSP_SURF_BASE: Table 17.5, R450 (17_display)
def DSP_SURF_BASE_BASE (h : Nat) : Fld := ⟨0xf0120 + 0x80 * h, 0, 14, 0⟩
-- DSP_SURF_STRIDE: Table 17.5, R450 (17_display)
def DSP_SURF_STRIDE_STRIDE (h : Nat) : Fld := ⟨0xf0124 + 0x80 * h, 0, 14, 0⟩
-- DSP_SURF_FMT: Table 17.5, R450 (17_display)
def DSP_SURF_FMT_FMT (h : Nat) : Fld := ⟨0xf0128 + 0x80 * h, 0, 2, 2⟩
-- DSP_ACT_SURF: Table 17.5, R450 (17_display)
def DSP_ACT_SURF_BASE (h : Nat) : Fld := ⟨0xf012c + 0x80 * h, 0, 14, 0⟩
def DSP_ACT_SURF_FMT (h : Nat) : Fld := ⟨0xf012c + 0x80 * h, 14, 2, 2⟩
def DSP_ACT_SURF_STRIDE (h : Nat) : Fld := ⟨0xf012c + 0x80 * h, 16, 14, 0⟩
-- DSP_COMMIT: Table 17.5, R450 (17_display)
def DSP_COMMIT_GO (h : Nat) : Fld := ⟨0xf0130 + 0x80 * h, 0, 1, 0⟩
def DSP_COMMIT_PEND (h : Nat) : Fld := ⟨0xf0130 + 0x80 * h, 1, 1, 0⟩
-- DSP_PSR: Table 17.5, R450 (17_display)
def DSP_PSR_EXIT (h : Nat) : Fld := ⟨0xf0134 + 0x80 * h, 0, 1, 0⟩
-- DSP_AUX_CTL: Table 17.5, R450 (17_display)
def DSP_AUX_CTL_ADDR (h : Nat) : Fld := ⟨0xf0140 + 0x80 * h, 0, 20, 0⟩
def DSP_AUX_CTL_LEN (h : Nat) : Fld := ⟨0xf0140 + 0x80 * h, 20, 4, 0⟩
def DSP_AUX_CTL_CMD (h : Nat) : Fld := ⟨0xf0140 + 0x80 * h, 24, 2, 0⟩
def DSP_AUX_CTL_GO (h : Nat) : Fld := ⟨0xf0140 + 0x80 * h, 26, 1, 0⟩
-- DSP_AUX_STAT: Table 17.5, R450 (17_display)
def DSP_AUX_STAT_REPLY (h : Nat) : Fld := ⟨0xf0144 + 0x80 * h, 0, 2, 0⟩
def DSP_AUX_STAT_BUSY (h : Nat) : Fld := ⟨0xf0144 + 0x80 * h, 2, 1, 0⟩
-- DSP_AUX_DATA: Table 17.5, R450 (17_display)
def DSP_AUX_DATA_DATA (h : Nat) (k : Nat) : Fld := ⟨0xf0148 + 0x80 * h + 0x4 * k, 0, 32, 0⟩
-- DSP_UNDERRUN: Table 17.5, R450 (17_display)
def DSP_UNDERRUN (h : Nat) : Fld := ⟨0xf0160 + 0x80 * h, 0, 32, 0⟩
-- DSP_FLIP_CNT: Table 17.5, R450 (17_display)
def DSP_FLIP_CNT (h : Nat) : Fld := ⟨0xf0164 + 0x80 * h, 0, 32, 0⟩
-- DSP_LATE_CNT: Table 17.5, R450 (17_display)
def DSP_LATE_CNT (h : Nat) : Fld := ⟨0xf0168 + 0x80 * h, 0, 32, 0⟩
/-! ### FLD -/
-- FLD_SHUT_CTL: Table 18.3, R465 (18_field_io_and_shutter)
def FLD_SHUT_CTL_FORCE : Fld := ⟨0x100000, 0, 1, 0⟩
-- FLD_SHUT_STAT: Table 18.3, R465 (18_field_io_and_shutter)
def FLD_SHUT_STAT_SHUT : Fld := ⟨0x100004, 0, 1, 1⟩
def FLD_SHUT_STAT_DONE : Fld := ⟨0x100004, 1, 1, 1⟩
-- FLD_SHUT_CAUSE: Table 18.3, R465 (18_field_io_and_shutter)
def FLD_SHUT_CAUSE_CAUSE : Fld := ⟨0x100008, 0, 13, 2048⟩
-- FLD_SHUT_LIVE: Table 18.3, R465 (18_field_io_and_shutter)
def FLD_SHUT_LIVE_LIVE : Fld := ⟨0x10000c, 0, 13, 4112⟩
-- FLD_SHUT_TEMP: Table 18.3, R465 (18_field_io_and_shutter)
def FLD_SHUT_TEMP_TSHUT_LIM : Fld := ⟨0x100010, 0, 8, 112⟩
def FLD_SHUT_TEMP_TSHUT_HYST : Fld := ⟨0x100010, 8, 4, 5⟩
-- FLD_SAFE: Table 18.3, R465 (18_field_io_and_shutter); fused: the value before the fuse shadow is loaded is the model's (DESIGN CHOICE, log entry 26)
def FLD_SAFE_SAFE_PATTERN : Fld := ⟨0x100014, 0, 16, 0⟩
-- FLD_SHUT_CNT: Table 18.3, R465 (18_field_io_and_shutter)
def FLD_SHUT_CNT : Fld := ⟨0x100018, 0, 32, 0⟩
-- FLD_SHUT_TIME_LO: Table 18.3, R465 (18_field_io_and_shutter)
def FLD_SHUT_TIME_LO_NS : Fld := ⟨0x10001c, 0, 32, 0⟩
-- FLD_SHUT_TIME_HI: Table 18.3, R465 (18_field_io_and_shutter)
def FLD_SHUT_TIME_HI_NS : Fld := ⟨0x100020, 0, 32, 0⟩
-- FLD_EVT: Table 18.4, R465 (18_field_io_and_shutter)
def FLD_EVT_SHUT : Fld := ⟨0x100100, 0, 1, 0⟩
def FLD_EVT_RELEASE : Fld := ⟨0x100100, 1, 1, 0⟩
def FLD_EVT_LATE : Fld := ⟨0x100100, 2, 1, 0⟩
def FLD_EVT_EVQ_DISCARD : Fld := ⟨0x100100, 3, 1, 0⟩
def FLD_EVT_GLITCH : Fld := ⟨0x100100, 4, 1, 0⟩
-- FLD_IRQ_EN: Table 18.4, R465 (18_field_io_and_shutter)
def FLD_IRQ_EN_SHUT : Fld := ⟨0x100104, 0, 1, 0⟩
def FLD_IRQ_EN_RELEASE : Fld := ⟨0x100104, 1, 1, 0⟩
def FLD_IRQ_EN_LATE : Fld := ⟨0x100104, 2, 1, 0⟩
def FLD_IRQ_EN_EVQ_DISCARD : Fld := ⟨0x100104, 3, 1, 0⟩
def FLD_IRQ_EN_GLITCH : Fld := ⟨0x100104, 4, 1, 0⟩
-- FLD_OUT: Table 18.4, R465 (18_field_io_and_shutter)
def FLD_OUT_LEVEL : Fld := ⟨0x100108, 0, 16, 0⟩
-- FLD_IN: Table 18.4, R465 (18_field_io_and_shutter)
def FLD_IN_LEVEL : Fld := ⟨0x10010c, 0, 16, 0⟩
-- FLD_EVQ: Table 18.4, R465 (18_field_io_and_shutter)
def FLD_EVQ_FILL : Fld := ⟨0x100110, 0, 9, 0⟩
-- FLD_EVQ_DISCARD: Table 18.4, R465 (18_field_io_and_shutter)
def FLD_EVQ_DISCARD : Fld := ⟨0x100114, 0, 32, 0⟩
-- FLD_LATE_CNT: Table 18.4, R465 (18_field_io_and_shutter)
def FLD_LATE_CNT : Fld := ⟨0x100118, 0, 32, 0⟩
-- FLD_IN_CFG: Table 18.4, R465 (18_field_io_and_shutter)
def FLD_IN_CFG_EN (i : Nat) : Fld := ⟨0x100200 + 0x10 * i, 0, 1, 0⟩
def FLD_IN_CFG_EDGE (i : Nat) : Fld := ⟨0x100200 + 0x10 * i, 1, 2, 0⟩
def FLD_IN_CFG_ROUTE_EN (i : Nat) : Fld := ⟨0x100200 + 0x10 * i, 3, 1, 0⟩
def FLD_IN_CFG_BENCH (i : Nat) : Fld := ⟨0x100200 + 0x10 * i, 4, 5, 0⟩
def FLD_IN_CFG_HAND (i : Nat) : Fld := ⟨0x100200 + 0x10 * i, 9, 2, 0⟩
def FLD_IN_CFG_DEBOUNCE (i : Nat) : Fld := ⟨0x100200 + 0x10 * i, 16, 16, 10⟩
-- FLD_IN_STAMP_LO: Table 18.4, R465 (18_field_io_and_shutter)
def FLD_IN_STAMP_LO_NS (i : Nat) : Fld := ⟨0x100204 + 0x10 * i, 0, 32, 0⟩
-- FLD_IN_STAMP_HI: Table 18.4, R465 (18_field_io_and_shutter)
def FLD_IN_STAMP_HI_NS (i : Nat) : Fld := ⟨0x100208 + 0x10 * i, 0, 32, 0⟩
-- FLD_IN_CNT: Table 18.4, R465 (18_field_io_and_shutter)
def FLD_IN_CNT_EDGES (i : Nat) : Fld := ⟨0x10020c + 0x10 * i, 0, 16, 0⟩
def FLD_IN_CNT_GLITCH (i : Nat) : Fld := ⟨0x10020c + 0x10 * i, 16, 16, 0⟩
/-! ### HVI -/
-- HVI_CTL: Table 19.3, R492 (19_harness_intake_and_docks)
def HVI_CTL_OWNER : Fld := ⟨0x110000, 0, 1, 0⟩
-- HVI_EVT: Table 19.3, R492 (19_harness_intake_and_docks)
def HVI_EVT_TRIP : Fld := ⟨0x110008, 0, 6, 0⟩
def HVI_EVT_PG_CHG : Fld := ⟨0x110008, 6, 6, 0⟩
def HVI_EVT_DAMAGED : Fld := ⟨0x110008, 12, 6, 0⟩
def HVI_EVT_CFG_ERR : Fld := ⟨0x110008, 18, 1, 0⟩
def HVI_EVT_LODGE_INTAKE : Fld := ⟨0x110008, 19, 1, 0⟩
-- HVI_IRQ_EN: Table 19.3, R492 (19_harness_intake_and_docks)
def HVI_IRQ_EN_TRIP : Fld := ⟨0x11000c, 0, 6, 0⟩
def HVI_IRQ_EN_PG_CHG : Fld := ⟨0x11000c, 6, 6, 0⟩
def HVI_IRQ_EN_DAMAGED : Fld := ⟨0x11000c, 12, 6, 0⟩
def HVI_IRQ_EN_CFG_ERR : Fld := ⟨0x11000c, 18, 1, 0⟩
def HVI_IRQ_EN_LODGE_INTAKE : Fld := ⟨0x11000c, 19, 1, 0⟩
-- HVI_VIN_A: Table 19.3, R492 (19_harness_intake_and_docks)
def HVI_VIN_A_VIN : Fld := ⟨0x110010, 0, 16, 0⟩
-- HVI_VIN_B: Table 19.3, R492 (19_harness_intake_and_docks)
def HVI_VIN_B_VIN : Fld := ⟨0x110014, 0, 16, 0⟩
-- HVI_CH_CTL: Table 19.3, R492 (19_harness_intake_and_docks); fused: the value before the fuse shadow is loaded is the model's (DESIGN CHOICE, log entry 26)
def HVI_CH_CTL_ON (c : Nat) : Fld := ⟨0x110100 + 0x40 * c, 0, 1, if c < 2 then 1 else 0⟩
def HVI_CH_CTL_DIR (c : Nat) : Fld := ⟨0x110100 + 0x40 * c, 1, 1, 0⟩
def HVI_CH_CTL_RAMP (c : Nat) : Fld := ⟨0x110100 + 0x40 * c, 2, 6, 10⟩
def HVI_CH_CTL_RETRY_LIM (c : Nat) : Fld := ⟨0x110100 + 0x40 * c, 8, 3, 3⟩
def HVI_CH_CTL_RETRY_INT (c : Nat) : Fld := ⟨0x110100 + 0x40 * c, 11, 8, 100⟩
def HVI_CH_CTL_CLEAR (c : Nat) : Fld := ⟨0x110100 + 0x40 * c, 19, 1, 0⟩
-- HVI_CH_STAT: Table 19.3, R492 (19_harness_intake_and_docks)
def HVI_CH_STAT_STATE (c : Nat) : Fld := ⟨0x110104 + 0x40 * c, 0, 3, 0⟩
def HVI_CH_STAT_PG (c : Nat) : Fld := ⟨0x110104 + 0x40 * c, 3, 1, 0⟩
def HVI_CH_STAT_FAULT_TMR (c : Nat) : Fld := ⟨0x110104 + 0x40 * c, 4, 1, 0⟩
def HVI_CH_STAT_CAUSE (c : Nat) : Fld := ⟨0x110104 + 0x40 * c, 5, 3, 0⟩
def HVI_CH_STAT_POINT (c : Nat) : Fld := ⟨0x110104 + 0x40 * c, 8, 3, 0⟩
def HVI_CH_STAT_RETRIES (c : Nat) : Fld := ⟨0x110104 + 0x40 * c, 11, 3, 0⟩
-- HVI_CH_MEAS: Table 19.3, R492 (19_harness_intake_and_docks)
def HVI_CH_MEAS_VOUT (c : Nat) : Fld := ⟨0x110108 + 0x40 * c, 0, 16, 0⟩
def HVI_CH_MEAS_I (c : Nat) : Fld := ⟨0x110108 + 0x40 * c, 16, 16, 0⟩
-- HVI_CH_SCALE: Table 19.3, R492 (19_harness_intake_and_docks); fused: the value before the fuse shadow is loaded is the model's (DESIGN CHOICE, log entry 26)
def HVI_CH_SCALE_I_FS (c : Nat) : Fld := ⟨0x11010c + 0x40 * c, 0, 16, 0⟩
def HVI_CH_SCALE_V_FS (c : Nat) : Fld := ⟨0x11010c + 0x40 * c, 16, 16, 0⟩
-- HVI_CH_LIMITS: Table 19.3, R492 (19_harness_intake_and_docks); fused: the value before the fuse shadow is loaded is the model's (DESIGN CHOICE, log entry 26)
def HVI_CH_LIMITS_UV (c : Nat) : Fld := ⟨0x110110 + 0x40 * c, 0, 16, 0⟩
def HVI_CH_LIMITS_OV (c : Nat) : Fld := ⟨0x110110 + 0x40 * c, 16, 16, 0xFFFF⟩
-- HVI_CH_HARD: Table 19.3, R492 (19_harness_intake_and_docks); fused: the value before the fuse shadow is loaded is the model's (DESIGN CHOICE, log entry 26)
def HVI_CH_HARD_HARD (c : Nat) : Fld := ⟨0x110114 + 0x40 * c, 0, 16, 0xFFFF⟩
-- HVI_TRIP_CNT: Table 19.3, R492 (19_harness_intake_and_docks)
def HVI_TRIP_CNT (c : Nat) : Fld := ⟨0x110118 + 0x40 * c, 0, 32, 0⟩
-- HVI_BRK: Table 19.3, R492 (19_harness_intake_and_docks); fused: the value before the fuse shadow is loaded is the model's (DESIGN CHOICE, log entry 26)
def HVI_BRK_I (c : Nat) (k : Nat) : Fld := ⟨0x110120 + 0x40 * c + 0x4 * k, 0, 16, 0xFFFF⟩
def HVI_BRK_T (c : Nat) (k : Nat) : Fld := ⟨0x110120 + 0x40 * c + 0x4 * k, 16, 15, 0⟩
def HVI_BRK_UNIT (c : Nat) (k : Nat) : Fld := ⟨0x110120 + 0x40 * c + 0x4 * k, 31, 1, 0⟩
/-! ### DCK -/
-- DCK_TC_CTL: Table 19.4, R493 (19_harness_intake_and_docks)
def DCK_TC_CTL_EN (d : Nat) : Fld := ⟨0x120000 + 0x100 * d, 0, 1, 1⟩
def DCK_TC_CTL_POLICY (d : Nat) : Fld := ⟨0x120000 + 0x100 * d, 1, 2, 2⟩
def DCK_TC_CTL_RP_LEVEL (d : Nat) : Fld := ⟨0x120000 + 0x100 * d, 3, 2, 2⟩
def DCK_TC_CTL_PD_EN (d : Nat) : Fld := ⟨0x120000 + 0x100 * d, 5, 1, 1⟩
def DCK_TC_CTL_MOIST_EN (d : Nat) : Fld := ⟨0x120000 + 0x100 * d, 6, 1, 1⟩
-- DCK_TC_STAT: Table 19.4, R493 (19_harness_intake_and_docks)
def DCK_TC_STAT_STATE (d : Nat) : Fld := ⟨0x120004 + 0x100 * d, 0, 4, 1⟩
def DCK_TC_STAT_ORIENT (d : Nat) : Fld := ⟨0x120004 + 0x100 * d, 4, 1, 0⟩
def DCK_TC_STAT_VBUS_PRES (d : Nat) : Fld := ⟨0x120004 + 0x100 * d, 5, 1, 0⟩
def DCK_TC_STAT_PROLE (d : Nat) : Fld := ⟨0x120004 + 0x100 * d, 6, 1, 0⟩
def DCK_TC_STAT_DROLE (d : Nat) : Fld := ⟨0x120004 + 0x100 * d, 7, 1, 0⟩
def DCK_TC_STAT_CONTRACT (d : Nat) : Fld := ⟨0x120004 + 0x100 * d, 8, 1, 0⟩
def DCK_TC_STAT_VSEL (d : Nat) : Fld := ⟨0x120004 + 0x100 * d, 9, 2, 0⟩
def DCK_TC_STAT_PARTNER_RP (d : Nat) : Fld := ⟨0x120004 + 0x100 * d, 11, 2, 0⟩
def DCK_TC_STAT_DEAD_BATT (d : Nat) : Fld := ⟨0x120004 + 0x100 * d, 13, 1, 0⟩
-- DCK_EVT: Table 19.4, R493 (19_harness_intake_and_docks)
def DCK_EVT_ATTACH (d : Nat) : Fld := ⟨0x120008 + 0x100 * d, 0, 1, 0⟩
def DCK_EVT_DETACH (d : Nat) : Fld := ⟨0x120008 + 0x100 * d, 1, 1, 0⟩
def DCK_EVT_WET (d : Nat) : Fld := ⟨0x120008 + 0x100 * d, 2, 1, 0⟩
def DCK_EVT_DRY (d : Nat) : Fld := ⟨0x120008 + 0x100 * d, 3, 1, 0⟩
def DCK_EVT_CONTRACT (d : Nat) : Fld := ⟨0x120008 + 0x100 * d, 4, 1, 0⟩
def DCK_EVT_VOID (d : Nat) : Fld := ⟨0x120008 + 0x100 * d, 5, 1, 0⟩
def DCK_EVT_RX (d : Nat) : Fld := ⟨0x120008 + 0x100 * d, 6, 1, 0⟩
def DCK_EVT_TX_DONE (d : Nat) : Fld := ⟨0x120008 + 0x100 * d, 7, 1, 0⟩
def DCK_EVT_TX_FAIL (d : Nat) : Fld := ⟨0x120008 + 0x100 * d, 8, 1, 0⟩
def DCK_EVT_HARD_RESET_RX (d : Nat) : Fld := ⟨0x120008 + 0x100 * d, 9, 1, 0⟩
def DCK_EVT_COLLISION (d : Nat) : Fld := ⟨0x120008 + 0x100 * d, 10, 1, 0⟩
def DCK_EVT_DISCH_FAIL (d : Nat) : Fld := ⟨0x120008 + 0x100 * d, 11, 1, 0⟩
-- DCK_IRQ_EN: Table 19.4, R493 (19_harness_intake_and_docks)
def DCK_IRQ_EN_ATTACH (d : Nat) : Fld := ⟨0x12000c + 0x100 * d, 0, 1, 0⟩
def DCK_IRQ_EN_DETACH (d : Nat) : Fld := ⟨0x12000c + 0x100 * d, 1, 1, 0⟩
def DCK_IRQ_EN_WET (d : Nat) : Fld := ⟨0x12000c + 0x100 * d, 2, 1, 0⟩
def DCK_IRQ_EN_DRY (d : Nat) : Fld := ⟨0x12000c + 0x100 * d, 3, 1, 0⟩
def DCK_IRQ_EN_CONTRACT (d : Nat) : Fld := ⟨0x12000c + 0x100 * d, 4, 1, 0⟩
def DCK_IRQ_EN_VOID (d : Nat) : Fld := ⟨0x12000c + 0x100 * d, 5, 1, 0⟩
def DCK_IRQ_EN_RX (d : Nat) : Fld := ⟨0x12000c + 0x100 * d, 6, 1, 0⟩
def DCK_IRQ_EN_TX_DONE (d : Nat) : Fld := ⟨0x12000c + 0x100 * d, 7, 1, 0⟩
def DCK_IRQ_EN_TX_FAIL (d : Nat) : Fld := ⟨0x12000c + 0x100 * d, 8, 1, 0⟩
def DCK_IRQ_EN_HARD_RESET_RX (d : Nat) : Fld := ⟨0x12000c + 0x100 * d, 9, 1, 0⟩
def DCK_IRQ_EN_COLLISION (d : Nat) : Fld := ⟨0x12000c + 0x100 * d, 10, 1, 0⟩
def DCK_IRQ_EN_DISCH_FAIL (d : Nat) : Fld := ⟨0x12000c + 0x100 * d, 11, 1, 0⟩
-- DCK_PD_TXHDR: Table 19.4, R493 (19_harness_intake_and_docks)
def DCK_PD_TXHDR_HEADER (d : Nat) : Fld := ⟨0x120010 + 0x100 * d, 0, 16, 0⟩
def DCK_PD_TXHDR_GO (d : Nat) : Fld := ⟨0x120010 + 0x100 * d, 16, 1, 0⟩
def DCK_PD_TXHDR_HARD_RESET (d : Nat) : Fld := ⟨0x120010 + 0x100 * d, 17, 1, 0⟩
-- DCK_PD_TXDO: Table 19.4, R493 (19_harness_intake_and_docks)
def DCK_PD_TXDO_DO (d : Nat) (k : Nat) : Fld := ⟨0x120020 + 0x100 * d + 0x4 * k, 0, 32, 0⟩
-- DCK_PD_RXHDR: Table 19.4, R493 (19_harness_intake_and_docks)
def DCK_PD_RXHDR_HEADER (d : Nat) : Fld := ⟨0x120040 + 0x100 * d, 0, 16, 0⟩
def DCK_PD_RXHDR_FILL (d : Nat) : Fld := ⟨0x120040 + 0x100 * d, 16, 3, 0⟩
def DCK_PD_RXHDR_VALID (d : Nat) : Fld := ⟨0x120040 + 0x100 * d, 31, 1, 0⟩
-- DCK_PD_RXDO: Table 19.4, R493 (19_harness_intake_and_docks)
def DCK_PD_RXDO_DO (d : Nat) (k : Nat) : Fld := ⟨0x120044 + 0x100 * d + 0x4 * k, 0, 32, 0⟩
-- DCK_MOIST: Table 19.4, R493 (19_harness_intake_and_docks)
def DCK_MOIST_WET_THR (d : Nat) : Fld := ⟨0x120060 + 0x100 * d, 0, 8, 10⟩
def DCK_MOIST_LAST_MIN (d : Nat) : Fld := ⟨0x120060 + 0x100 * d, 8, 8, 255⟩
def DCK_MOIST_MOIST_INT (d : Nat) : Fld := ⟨0x120060 + 0x100 * d, 16, 8, 10⟩
-- DCK_TIMERS: Table 19.4, R493 (19_harness_intake_and_docks)
def DCK_TIMERS_CC_DETACH (d : Nat) : Fld := ⟨0x120064 + 0x100 * d, 0, 5, 10⟩
-- DCK_ATTACH_CNT: Table 19.4, R493 (19_harness_intake_and_docks)
def DCK_ATTACH_CNT (d : Nat) : Fld := ⟨0x120070 + 0x100 * d, 0, 32, 0⟩
-- DCK_HARD_RESET_CNT: Table 19.4, R493 (19_harness_intake_and_docks)
def DCK_HARD_RESET_CNT (d : Nat) : Fld := ⟨0x120074 + 0x100 * d, 0, 32, 0⟩
-- DCK_TX_FAIL_CNT: Table 19.4, R493 (19_harness_intake_and_docks)
def DCK_TX_FAIL_CNT (d : Nat) : Fld := ⟨0x120078 + 0x100 * d, 0, 32, 0⟩
-- DCK_WET_CNT: Table 19.4, R493 (19_harness_intake_and_docks)
def DCK_WET_CNT (d : Nat) : Fld := ⟨0x12007c + 0x100 * d, 0, 32, 0⟩
/-! ### PWR -/
-- PWR_STAT: Table 20.6, R508 (20_power_states)
def PWR_STAT_STATE : Fld := ⟨0x20004, 0, 2, 0⟩
def PWR_STAT_BUSY : Fld := ⟨0x20004, 2, 1, 0⟩
def PWR_STAT_DOM_ON : Fld := ⟨0x20004, 16, 16, 65535⟩
-- PWR_EVT: Table 20.6, R508 (20_power_states)
def PWR_EVT_DONE : Fld := ⟨0x20008, 0, 1, 0⟩
def PWR_EVT_SUPPLY : Fld := ⟨0x20008, 1, 1, 0⟩
def PWR_EVT_WOKE : Fld := ⟨0x20008, 2, 1, 0⟩
-- PWR_IRQ_EN: Table 20.6, R508 (20_power_states)
def PWR_IRQ_EN_DONE : Fld := ⟨0x2000c, 0, 1, 0⟩
def PWR_IRQ_EN_SUPPLY : Fld := ⟨0x2000c, 1, 1, 0⟩
def PWR_IRQ_EN_WOKE : Fld := ⟨0x2000c, 2, 1, 0⟩
-- PWR_WAKE: Table 20.6, R508 (20_power_states)
def PWR_WAKE_EN : Fld := ⟨0x20010, 0, 3, 7⟩
def PWR_WAKE_CAUSE : Fld := ⟨0x20010, 8, 3, 0⟩
-- PWR_SAVE: Table 20.6, R508 (20_power_states)
def PWR_SAVE_NU_TGT : Fld := ⟨0x20014, 0, 4, 0⟩
def PWR_SAVE_ND_TGT : Fld := ⟨0x20014, 4, 4, 0⟩
-- PWR_MON: Table 20.6, R508 (20_power_states)
def PWR_MON_TRIP : Fld := ⟨0x20018, 0, 6, 0⟩
-- PWR_TEMP: Table 20.6, R508 (20_power_states)
def PWR_TEMP_TJ : Fld := ⟨0x2001c, 0, 12, 0⟩
-- PWR_RES_LO: Table 20.6, R508 (20_power_states)
def PWR_RES_LO_US (s : Nat) : Fld := ⟨0x20040 + 0x8 * s, 0, 32, 0⟩
-- PWR_RES_HI: Table 20.6, R508 (20_power_states)
def PWR_RES_HI_US (s : Nat) : Fld := ⟨0x20044 + 0x8 * s, 0, 16, 0⟩
/-! ### VLT -/
-- VLT_STAT: Table 21.7, R527 (21_vault)
def VLT_STAT_ROOTSTOCK : Fld := ⟨0x130004, 0, 1, 0⟩
def VLT_STAT_TAMPERED : Fld := ⟨0x130004, 1, 1, 0⟩
def VLT_STAT_DEBUG_OPEN : Fld := ⟨0x130004, 2, 1, 0⟩
def VLT_STAT_SCRUB_BUSY : Fld := ⟨0x130004, 3, 1, 0⟩
def VLT_STAT_PUF_FAIL : Fld := ⟨0x130004, 4, 2, 0⟩
def VLT_STAT_FREE_SLOTS : Fld := ⟨0x130004, 8, 7, 0⟩
-- VLT_EVT: Table 21.7, R527 (21_vault)
def VLT_EVT_TAMPER : Fld := ⟨0x130008, 0, 1, 0⟩
def VLT_EVT_ORPHAN : Fld := ⟨0x130008, 1, 1, 0⟩
def VLT_EVT_USE_ZERO : Fld := ⟨0x130008, 2, 1, 0⟩
def VLT_EVT_TRNG_FAIL : Fld := ⟨0x130008, 3, 1, 0⟩
def VLT_EVT_PUF_FAIL : Fld := ⟨0x130008, 4, 1, 0⟩
def VLT_EVT_BAD_REQ : Fld := ⟨0x130008, 5, 1, 0⟩
-- VLT_IRQ_EN: Table 21.7, R527 (21_vault)
def VLT_IRQ_EN_TAMPER : Fld := ⟨0x13000c, 0, 1, 0⟩
def VLT_IRQ_EN_ORPHAN : Fld := ⟨0x13000c, 1, 1, 0⟩
def VLT_IRQ_EN_USE_ZERO : Fld := ⟨0x13000c, 2, 1, 0⟩
def VLT_IRQ_EN_TRNG_FAIL : Fld := ⟨0x13000c, 3, 1, 0⟩
def VLT_IRQ_EN_PUF_FAIL : Fld := ⟨0x13000c, 4, 1, 0⟩
def VLT_IRQ_EN_BAD_REQ : Fld := ⟨0x13000c, 5, 1, 0⟩
-- VLT_TAMPER: Table 21.7, R527 (21_vault); fused: the value before the fuse shadow is loaded is the model's (DESIGN CHOICE, log entry 26)
def VLT_TAMPER_EN : Fld := ⟨0x130010, 0, 4, 0⟩
def VLT_TAMPER_ACTIVE : Fld := ⟨0x130010, 4, 4, 0⟩
-- VLT_PUF_ERR: Table 21.7, R527 (21_vault)
def VLT_PUF_ERR_BITS : Fld := ⟨0x130014, 0, 16, 0⟩
-- VLT_VKEY_HASH: Table 21.7, R527 (21_vault); fused: the value before the fuse shadow is loaded is the model's (DESIGN CHOICE, log entry 26)
def VLT_VKEY_HASH_HASH (k : Nat) : Fld := ⟨0x130040 + 0x4 * k, 0, 32, 0⟩
-- VLT_BAD_REQ: Table 21.7, R527 (21_vault)
def VLT_BAD_REQ : Fld := ⟨0x130020, 0, 32, 0⟩
-- VLT_REFUSE_CNT: Table 21.7, R527 (21_vault)
def VLT_REFUSE_CNT : Fld := ⟨0x130024, 0, 32, 0⟩
-- VLT_TAMPER_CNT: Table 21.7, R527 (21_vault)
def VLT_TAMPER_CNT : Fld := ⟨0x130028, 0, 32, 0⟩
-- VLT_OP_CNT: Table 21.7, R527 (21_vault)
def VLT_OP_CNT : Fld := ⟨0x13002c, 0, 32, 0⟩
-- VLT_SLOT_ATTR: Table 21.7, R527 (21_vault)
def VLT_SLOT_ATTR_USES (s : Nat) : Fld := ⟨0x130100 + 0x8 * s, 0, 8, 0⟩
def VLT_SLOT_ATTR_PARENT (s : Nat) : Fld := ⟨0x130100 + 0x8 * s, 8, 7, 0⟩
def VLT_SLOT_ATTR_INSTALLED (s : Nat) : Fld := ⟨0x130100 + 0x8 * s, 15, 1, 0⟩
def VLT_SLOT_ATTR_VALID (s : Nat) : Fld := ⟨0x130100 + 0x8 * s, 16, 1, 0⟩
def VLT_SLOT_ATTR_EXPIRE (s : Nat) : Fld := ⟨0x130100 + 0x8 * s, 17, 1, 0⟩
def VLT_SLOT_ATTR_KIND (s : Nat) : Fld := ⟨0x130100 + 0x8 * s, 18, 2, 0⟩
-- VLT_SLOT_CNT: Table 21.7, R527 (21_vault)
def VLT_SLOT_CNT (s : Nat) : Fld := ⟨0x130104 + 0x8 * s, 0, 32, 0⟩
/-! ### UPD -/
-- UPD_STAT: Table 22.7, R540 (22_updates_and_planting)
def UPD_STAT_ARMED : Fld := ⟨0x140004, 0, 1, 0⟩
def UPD_STAT_PHASE : Fld := ⟨0x140004, 1, 3, 0⟩
-- UPD_EVT: Table 22.7, R540 (22_updates_and_planting)
def UPD_EVT_BLOCK_BAD : Fld := ⟨0x140008, 0, 1, 0⟩
def UPD_EVT_VERIFY_FAIL : Fld := ⟨0x140008, 1, 1, 0⟩
def UPD_EVT_PLANTED : Fld := ⟨0x140008, 2, 1, 0⟩
def UPD_EVT_KEPT : Fld := ⟨0x140008, 3, 1, 0⟩
def UPD_EVT_ROLLBACK : Fld := ⟨0x140008, 4, 1, 0⟩
def UPD_EVT_NOT_PLANTED : Fld := ⟨0x140008, 5, 1, 0⟩
-- UPD_IRQ_EN: Table 22.7, R540 (22_updates_and_planting)
def UPD_IRQ_EN_BLOCK_BAD : Fld := ⟨0x14000c, 0, 1, 0⟩
def UPD_IRQ_EN_VERIFY_FAIL : Fld := ⟨0x14000c, 1, 1, 0⟩
def UPD_IRQ_EN_PLANTED : Fld := ⟨0x14000c, 2, 1, 0⟩
def UPD_IRQ_EN_KEPT : Fld := ⟨0x14000c, 3, 1, 0⟩
def UPD_IRQ_EN_ROLLBACK : Fld := ⟨0x14000c, 4, 1, 0⟩
def UPD_IRQ_EN_NOT_PLANTED : Fld := ⟨0x14000c, 5, 1, 0⟩
-- UPD_TMR: Table 22.7, R540 (22_updates_and_planting)
def UPD_TMR_HEALTH_WIN : Fld := ⟨0x140010, 0, 10, 20⟩
def UPD_TMR_PLANT_WARN : Fld := ⟨0x140010, 16, 8, 10⟩
def UPD_TMR_PLANT_LEAD : Fld := ⟨0x140010, 24, 8, 5⟩
-- UPD_INSTANT_LO: Table 22.7, R540 (22_updates_and_planting)
def UPD_INSTANT_LO_NS : Fld := ⟨0x140018, 0, 32, 0⟩
-- UPD_INSTANT_HI: Table 22.7, R540 (22_updates_and_planting)
def UPD_INSTANT_HI_NS : Fld := ⟨0x14001c, 0, 32, 0⟩
-- UPD_HEALTH: Table 22.7, R540 (22_updates_and_planting)
def UPD_HEALTH_OK : Fld := ⟨0x140020, 0, 20, 0⟩
-- UPD_RX: Table 22.7, R540 (22_updates_and_planting)
def UPD_RX_TYPE : Fld := ⟨0x140024, 0, 8, 0⟩
def UPD_RX_INSTANCE : Fld := ⟨0x140024, 8, 8, 0⟩
def UPD_RX_MISSING : Fld := ⟨0x140024, 16, 12, 0⟩
-- UPD_LAST: Table 22.7, R540 (22_updates_and_planting)
def UPD_LAST_RESULT : Fld := ⟨0x140028, 0, 32, 0⟩
-- UPD_BLOCK_BAD_CNT: Table 22.7, R540 (22_updates_and_planting)
def UPD_BLOCK_BAD_CNT : Fld := ⟨0x140030, 0, 32, 0⟩
-- UPD_VERIFY_FAIL_CNT: Table 22.7, R540 (22_updates_and_planting)
def UPD_VERIFY_FAIL_CNT : Fld := ⟨0x140034, 0, 32, 0⟩
-- UPD_PLANT_CNT: Table 22.7, R540 (22_updates_and_planting)
def UPD_PLANT_CNT : Fld := ⟨0x140038, 0, 32, 0⟩
-- UPD_ROLLBACK_CNT: Table 22.7, R540 (22_updates_and_planting)
def UPD_ROLLBACK_CNT : Fld := ⟨0x14003c, 0, 32, 0⟩
/-! ### REP -/
-- REP_CTL: Table 23.5, R563 (23_in_service_repair)
def REP_CTL_AUTO_SPARE : Fld := ⟨0x150000, 0, 1, 0⟩
def REP_CTL_AUTO_REMAP : Fld := ⟨0x150000, 1, 1, 1⟩
def REP_CTL_SPARE_DWELL : Fld := ⟨0x150000, 8, 8, 20⟩
def REP_CTL_SPARE_THR : Fld := ⟨0x150000, 16, 16, 1000⟩
-- REP_STAT: Table 23.5, R563 (23_in_service_repair)
def REP_STAT_BUSY : Fld := ⟨0x150004, 0, 1, 0⟩
def REP_STAT_ACTION : Fld := ⟨0x150004, 1, 3, 0⟩
-- REP_EVT: Table 23.5, R563 (23_in_service_repair)
def REP_EVT_MIG_DONE : Fld := ⟨0x150008, 0, 1, 0⟩
def REP_EVT_SPARE_DONE : Fld := ⟨0x150008, 1, 1, 0⟩
def REP_EVT_SPARE_FAIL : Fld := ⟨0x150008, 2, 1, 0⟩
def REP_EVT_REMAP_DONE : Fld := ⟨0x150008, 3, 1, 0⟩
def REP_EVT_REMAP_FULL : Fld := ⟨0x150008, 4, 1, 0⟩
def REP_EVT_LEDGER_RX : Fld := ⟨0x150008, 5, 1, 0⟩
def REP_EVT_LEDGER_BAD : Fld := ⟨0x150008, 6, 1, 0⟩
-- REP_IRQ_EN: Table 23.5, R563 (23_in_service_repair)
def REP_IRQ_EN_MIG_DONE : Fld := ⟨0x15000c, 0, 1, 0⟩
def REP_IRQ_EN_SPARE_DONE : Fld := ⟨0x15000c, 1, 1, 0⟩
def REP_IRQ_EN_SPARE_FAIL : Fld := ⟨0x15000c, 2, 1, 0⟩
def REP_IRQ_EN_REMAP_DONE : Fld := ⟨0x15000c, 3, 1, 0⟩
def REP_IRQ_EN_REMAP_FULL : Fld := ⟨0x15000c, 4, 1, 0⟩
def REP_IRQ_EN_LEDGER_RX : Fld := ⟨0x15000c, 5, 1, 0⟩
def REP_IRQ_EN_LEDGER_BAD : Fld := ⟨0x15000c, 6, 1, 0⟩
-- REP_MIG: Table 23.5, R563 (23_in_service_repair)
def REP_MIG_FROM : Fld := ⟨0x150010, 0, 4, 0⟩
def REP_MIG_TO : Fld := ⟨0x150010, 4, 4, 0⟩
def REP_MIG_LAT : Fld := ⟨0x150010, 16, 16, 0⟩
-- REP_TMR: Table 23.5, R563 (23_in_service_repair)
def REP_TMR_SPARE_TMO : Fld := ⟨0x150014, 0, 8, 10⟩
-- REP_LIKE_NEXT: Table 23.5, R563 (23_in_service_repair)
def REP_LIKE_NEXT_CLASS : Fld := ⟨0x150018, 0, 32, 0⟩
-- REP_LIKE_CAP: Table 23.5, R563 (23_in_service_repair); fused, the same in every B0 unit
def REP_LIKE_CAP_CLASS (k : Nat) : Fld := ⟨0x150020 + 0x4 * k, 0, 32, if k = 0 then 0x77400100 else 0⟩
-- REP_LEDGER: Table 23.5, R563 (23_in_service_repair)
def REP_LEDGER_PRESENT : Fld := ⟨0x150030, 0, 5, 0⟩
def REP_LEDGER_VALID : Fld := ⟨0x150030, 5, 1, 0⟩
def REP_LEDGER_SCION : Fld := ⟨0x150030, 6, 1, 0⟩
-- REP_LEDGER_RGEN: Table 23.5, R563 (23_in_service_repair)
def REP_LEDGER_RGEN_RGEN : Fld := ⟨0x150034, 0, 32, 0⟩
-- REP_SPARE_ROWS: Table 23.5, R563 (23_in_service_repair)
def REP_SPARE_ROWS_USED (m : Nat) : Fld := ⟨0x150040 + 0x4 * m, 0, 16, 0⟩
def REP_SPARE_ROWS_FREE (m : Nat) : Fld := ⟨0x150040 + 0x4 * m, 16, 16, spareRowsTotal m⟩
-- REP_MIG_CNT: Table 23.5, R563 (23_in_service_repair)
def REP_MIG_CNT : Fld := ⟨0x150060, 0, 32, 0⟩
-- REP_LANE_SPARE_CNT: Table 23.5, R563 (23_in_service_repair)
def REP_LANE_SPARE_CNT : Fld := ⟨0x150064, 0, 32, 0⟩
-- REP_REMAP_CNT: Table 23.5, R563 (23_in_service_repair)
def REP_REMAP_CNT : Fld := ⟨0x150068, 0, 32, 0⟩
-- REP_LEDGER_BAD_CNT: Table 23.5, R563 (23_in_service_repair)
def REP_LEDGER_BAD_CNT : Fld := ⟨0x15006c, 0, 32, 0⟩
-- REP_REMAP_LOG: Table 23.5, R563 (23_in_service_repair)
def REP_REMAP_LOG_MEM (e : Nat) : Fld := ⟨0x150100 + 0x8 * e, 0, 4, 0⟩
def REP_REMAP_LOG_INST (e : Nat) : Fld := ⟨0x150100 + 0x8 * e, 4, 5, 0⟩
def REP_REMAP_LOG_BANK (e : Nat) : Fld := ⟨0x150100 + 0x8 * e, 9, 7, 0⟩
def REP_REMAP_LOG_ROW (e : Nat) : Fld := ⟨0x150100 + 0x8 * e, 16, 12, 0⟩
def REP_REMAP_LOG_SPARE (e : Nat) : Fld := ⟨0x150100 + 0x8 * e, 28, 3, 0⟩
def REP_REMAP_LOG_VALID (e : Nat) : Fld := ⟨0x150100 + 0x8 * e, 31, 1, 0⟩
-- REP_REMAP_LOG_T: Table 23.5, R563 (23_in_service_repair)
def REP_REMAP_LOG_T_T_LO (e : Nat) : Fld := ⟨0x150104 + 0x8 * e, 0, 32, 0⟩
/-! ### TNK -/
-- TNK_CTL: Table 24.6, R576 (24_tinker_and_records)
def TNK_CTL_EN : Fld := ⟨0x170000, 0, 1, 0⟩
-- TNK_STAT: Table 24.6, R576 (24_tinker_and_records)
def TNK_STAT_TEST : Fld := ⟨0x170004, 0, 1, 0⟩
def TNK_STAT_SLOT : Fld := ⟨0x170004, 8, 8, 0⟩
def TNK_STAT_LEFT : Fld := ⟨0x170004, 16, 16, 0⟩
-- TNK_SEED: Table 24.6, R576 (24_tinker_and_records)
def TNK_SEED_SEED : Fld := ⟨0x170010, 0, 32, 1⟩
-- TNK_CR_DELAY: Table 24.6, R576 (24_tinker_and_records)
def TNK_CR_DELAY_DELAY (p : Nat) : Fld := ⟨0x170020 + 0x4 * p, 0, 12, 0⟩
def TNK_CR_DELAY_VCS (p : Nat) : Fld := ⟨0x170020 + 0x4 * p, 12, 4, 0⟩
-- TNK_ACK_STRETCH: Table 24.6, R576 (24_tinker_and_records)
def TNK_ACK_STRETCH_DELAY (p : Nat) : Fld := ⟨0x170030 + 0x4 * p, 0, 12, 0⟩
-- TNK_BEACON_DELAY: Table 24.6, R576 (24_tinker_and_records)
def TNK_BEACON_DELAY_DELAY (p : Nat) : Fld := ⟨0x170040 + 0x4 * p, 0, 12, 0⟩
-- TNK_BP_CTL: Table 24.6, R576 (24_tinker_and_records)
def TNK_BP_CTL_PORT : Fld := ⟨0x170050, 0, 4, 0⟩
def TNK_BP_CTL_STEP : Fld := ⟨0x170050, 8, 8, 1⟩
def TNK_BP_CTL_LEN : Fld := ⟨0x170050, 16, 6, 32⟩
-- TNK_BP_MASK_LO: Table 24.6, R576 (24_tinker_and_records)
def TNK_BP_MASK_LO_MASK : Fld := ⟨0x170054, 0, 32, 0⟩
-- TNK_BP_MASK_HI: Table 24.6, R576 (24_tinker_and_records)
def TNK_BP_MASK_HI_MASK : Fld := ⟨0x170058, 0, 24, 0⟩
-- TNK_BP_PATTERN: Table 24.6, R576 (24_tinker_and_records)
def TNK_BP_PATTERN_PATTERN : Fld := ⟨0x17005c, 0, 32, 0⟩
-- TNK_JIT: Table 24.6, R576 (24_tinker_and_records)
def TNK_JIT_BENCHES : Fld := ⟨0x170060, 0, 16, 0⟩
def TNK_JIT_PORTER : Fld := ⟨0x170060, 16, 1, 0⟩
def TNK_JIT_STEWARD : Fld := ⟨0x170060, 17, 1, 0⟩
def TNK_JIT_MAX : Fld := ⟨0x170060, 20, 12, 0⟩
/-! ### LOG -/
-- LOG_CTL: Table 24.7, R577 (24_tinker_and_records)
def LOG_CTL_EN : Fld := ⟨0x180000, 0, 1, 1⟩
-- LOG_STAT: Table 24.7, R577 (24_tinker_and_records)
def LOG_STAT_HEAD : Fld := ⟨0x180004, 0, 12, 0⟩
def LOG_STAT_TAIL : Fld := ⟨0x180004, 12, 12, 0⟩
def LOG_STAT_FULL : Fld := ⟨0x180004, 24, 1, 0⟩
-- LOG_MASK: Table 24.7, R577 (24_tinker_and_records)
def LOG_MASK_BLOCK : Fld := ⟨0x180008, 0, 25, 33554431⟩
-- LOG_OVERRUN: Table 24.7, R577 (24_tinker_and_records)
def LOG_OVERRUN : Fld := ⟨0x18000c, 0, 32, 0⟩
-- LOG_CONSUME: Table 24.7, R577 (24_tinker_and_records)
def LOG_CONSUME_TAIL : Fld := ⟨0x180010, 0, 12, 0⟩
-- LOG_SEL: Table 24.7, R577 (24_tinker_and_records)
def LOG_SEL_ENTRY : Fld := ⟨0x180014, 0, 12, 0⟩
-- LOG_DATA: Table 24.7, R577 (24_tinker_and_records)
def LOG_DATA_DATA (w : Nat) : Fld := ⟨0x180020 + 0x4 * w, 0, 32, 0⟩
-- LOG_RXB_LO: Table 24.7, R577 (24_tinker_and_records)
def LOG_RXB_LO_BYTES (p : Nat) : Fld := ⟨0x180100 + 0x10 * p, 0, 32, 0⟩
-- LOG_RXB_HI: Table 24.7, R577 (24_tinker_and_records)
def LOG_RXB_HI_BYTES (p : Nat) : Fld := ⟨0x180104 + 0x10 * p, 0, 32, 0⟩
-- LOG_TXB_LO: Table 24.7, R577 (24_tinker_and_records)
def LOG_TXB_LO_BYTES (p : Nat) : Fld := ⟨0x180108 + 0x10 * p, 0, 32, 0⟩
-- LOG_TXB_HI: Table 24.7, R577 (24_tinker_and_records)
def LOG_TXB_HI_BYTES (p : Nat) : Fld := ⟨0x18010c + 0x10 * p, 0, 32, 0⟩

end Sys2Proof.Machine.Reg
end

