-- ==== Sys2Proof/Machine/State.lean ====
section
/-! DEFINITION. The state of the block as plain data. Every register of the spec's tables that holds a value of its own lives in
`Chip.csr` under its field's key; what the spec gives the part beside its registers lives in the records below, one per unit.
A register that only shows such a record is computed when it is read (Machine/Csr.lean). -/

namespace Sys2Proof.Machine

/-- One value per trunk port. -/
structure PerPort (α : Type) where
  nu : α
  nd : α
  su : α
  sd : α
  deriving DecidableEq, Repr

def PerPort.all {α : Type} (v : α) : PerPort α := ⟨v, v, v, v⟩

def PerPort.get {α : Type} (m : PerPort α) : TPort → α
  | .nu => m.nu
  | .nd => m.nd
  | .su => m.su
  | .sd => m.sd

def PerPort.set {α : Type} (m : PerPort α) (p : TPort) (v : α) : PerPort α :=
  match p with
  | .nu => { m with nu := v }
  | .nd => { m with nd := v }
  | .su => { m with su := v }
  | .sd => { m with sd := v }

/-- One count per virtual channel (spec/03_trunk_link_layer.md R90). -/
structure PerVc where
  v0 : Nat
  v1 : Nat
  v2 : Nat
  v3 : Nat
  deriving DecidableEq, Repr

def PerVc.get (m : PerVc) (v : Nat) : Nat :=
  match v with
  | 0 => m.v0
  | 1 => m.v1
  | 2 => m.v2
  | _ => m.v3

def PerVc.set (m : PerVc) (v n : Nat) : PerVc :=
  match v with
  | 0 => { m with v0 := n }
  | 1 => { m with v1 := n }
  | 2 => { m with v2 := n }
  | _ => { m with v3 := n }

/-! ### Trunk lanes (spec/02_trunk_lanes.md) -/

/-- The kind of a training attempt (R58, R63): none running, a full one, a fast retrain, or a retrain that changes the rate. -/
inductive Attempt where
  | none | full | fast | rateChange
  deriving DecidableEq, Repr

/-- The lane layer of one trunk port, beside its TRK registers. -/
structure LanePort where
  /-- the attempt under way, and the step of R58 it has reached (0 outside an attempt) -/
  attempt : Attempt := .none
  step : Nat := 0
  /-- rate and width of the attempt (the width once chosen, R59) -/
  rate : Nat := 0
  width : Nat := 0
  /-- consecutive failures at one rate (R60) -/
  fails : Nat := 0
  /-- the rate to which training has fallen back below the target rate, else 0 (R60) -/
  fell : Nat := 0
  /-- HID[3:0] as sampled at the last training start (R49) -/
  hid : Nat := 0
  /-- receive lanes usable in this attempt, and what the receiver found on each (R58 steps 2 and 3) -/
  usable : Nat := 0x1FF
  finds : List LaneFind := []
  /-- the lanes of this end's last MASK from the partner's TS2 -/
  partnerUsable : Nat := 0x1FF
  /-- receive lanes in block lock (R40) -/
  locked : Nat := 0
  /-- this end's verdict on its receive lanes in the present attempt, once taken (R58 step 6) -/
  verdict : Option Nat := Option.none
  /-- the partner's verdict, once its TS4 has come -/
  partnerVerdict : Option Nat := Option.none
  /-- data transmitters and clock lane driven (R68, R388) -/
  txOn : Bool := false
  clkOn : Bool := false
  /-- own retrain request outstanding, with its REASON (R64, Table 2.8) -/
  request : Option Nat := Option.none
  /-- the REASON that this end's TS1 carries: the cause of the retrain, else 0 (R57) -/
  cause : Nat := 0
  /-- own transmit lanes that the partner could not use or did not pass, until a full training tries them again (R58 step 1) -/
  txFailed : Nat := 0
  /-- rate and failures so far of the attempt that follows at once, while R56 keeps it waiting (R60) -/
  pendingTry : Option (Nat × Nat) := Option.none
  /-- the block counter COUNT of the training blocks sent (Table 2.8) -/
  count : Nat := 0
  /-- Parked, and what ends the park has happened (R68) -/
  leave : Bool := false
  /-- scrambler of each physical transmit lane and descrambler of each physical receive lane, 58 bits (R37). They start at 0 and no
  reset reaches them (DESIGN CHOICE for the value at power-on, log entry 31). -/
  scramblers : List Nat := [0, 0, 0, 0, 0, 0, 0, 0, 0]
  descramblers : List Nat := [0, 0, 0, 0, 0, 0, 0, 0, 0]
  deriving DecidableEq, Repr

/-! ### Dameicen link layer (spec/03_trunk_link_layer.md) -/

/-- The state of a link layer, in the code of LNK_port_STAT.STATE (Table 3.9). -/
inductive LinkState where
  | down | init | resume | active
  deriving DecidableEq, Repr

/-- A link control flit that waits to be sent (Table 3.5). -/
inductive Ctl where
  | init (epoch : Nat) (free : PerVc)
  | resume (expect epoch partner : Nat) (free : PerVc)
  | nak (expect : Nat)
  | hold (mask : Nat)
  | spare (ctype logical src dst result : Nat)
  deriving DecidableEq, Repr

/-- A received cell between its receipt and its verdict (R78, R170): the cell, its virtual channel, whether the link layer
accepted it, the trunk output it was cut through to, and on the store path the block it was written to. -/
structure InFlight where
  cell : Cell
  vc : Nat
  accepted : Bool
  cut : Option TPort
  blk : Option Nat
  deriving DecidableEq, Repr

/-- The link layer of one trunk port, beside its LNK registers. -/
structure LinkPort where
  state : LinkState := .down
  /-- transmit sequence N and OLDEST, receive sequence E, last ACK_SEQ sent (R80–R83) -/
  next : Nat := 0
  oldest : Nat := 0
  expect : Nat := 0
  ackSent : Nat := 0xFFF
  /-- own epoch and the partner's as recorded (R102, R103) -/
  epoch : Nat := 0
  partnerEpoch : Nat := 0
  /-- the replay buffer, oldest first, and the next sequence to resend while a replay runs (R80, R86) -/
  replay : List (Nat × Cell) := []
  replayAt : Option Nat := none
  /-- consecutive replays from the same OLDEST (R88) -/
  replays : Nat := 0
  /-- receiver in replay wait (R84) -/
  rxWait : Bool := false
  /-- the partner's INIT or RESUME of this handshake has been accepted (R103), and it was a RESUME -/
  accepted : Bool := false
  viaResume : Bool := false
  /-- credits of the transmitter (R91) -/
  limit : PerVc := ⟨0, 0, 0, 0⟩
  sent : PerVc := ⟨0, 0, 0, 0⟩
  returned : PerVc := ⟨0, 0, 0, 0⟩
  /-- receive buffers in use, cumulative freed count, the last count returned, and the rotation of CR_VC (R90, R91, R93) -/
  used : PerVc := ⟨0, 0, 0, 0⟩
  freed : PerVc := ⟨0, 0, 0, 0⟩
  freedSent : PerVc := ⟨0, 0, 0, 0⟩
  /-- the free buffers at the start of the handshake, which its messages carry (R91) -/
  snapshot : PerVc := ⟨0, 0, 0, 0⟩
  crVc : Nat := 3
  /-- the CLK_FAB tick, plus one, of the last HOLD that named each VC; 0 for none (R96, Table 3.9) -/
  holdAt : PerVc := ⟨0, 0, 0, 0⟩
  /-- pending link control flits, oldest first, and a beacon that is due (R106) -/
  ctl : List Ctl := []
  beaconDue : Bool := false
  /-- Tinker (spec/24_tinker_and_records.md R567): the tick from which a delayed beacon leaves, freed buffers not yet eligible for
  return with the tick at which they become so, and past values of E with the tick at which each ended -/
  beaconAt : Nat := 0
  delayed : List (Nat × Nat) := []
  ackPast : List (Nat × Nat) := []
  /-- cells cut through to this port and not yet transmitted, oldest first: no verdict yet, to be sent, or to be poisoned (R169,
  R171) -/
  cut : List (Cell × Option Bool) := []
  /-- received cells that wait for their verdict, oldest first -/
  inflight : List InFlight := []
  deriving DecidableEq, Repr

/-! ### Switch core, scheduler (spec/06_switch_core.md, spec/07_scheduling_and_allotment.md) -/

/-- The pool a block is charged to (R167, R168, R173). -/
inductive Charge where
  | none | part (p : Nat) | shared (ports : List Nat) | keep
  deriving DecidableEq, Repr

/-- A stored block and its metadata (Table 6.2). -/
structure Block where
  cell : Cell
  ingress : Nat
  vc : Nat
  keepHold : Bool
  mirror : Bool
  refs : Nat
  charge : Charge
  tArr : Nat
  /-- the metadata word whose uncorrectable error quarantined the block (R183) -/
  quarantined : Option Nat
  deriving DecidableEq, Repr

/-- What a descriptor's cell is at its port: a cell to be sent as it is; a copy sent again with RESENT set (R224); a cell for this
node's tunnel layer; a cell given on a ring to an endpoint port, or by an endpoint to ring `r` (spec/15_ethernet_and_storage.md R398); a
mirror copy, with the point it was seen at (R175); and at the serving head a cell for another row (spec/01_rows_and_nodes.md R20). -/
inductive DescUse where
  | plain | resent | tunnel (resent : Bool) | given | ring (r : Nat) | mirror (port : Nat) (egress : Bool) | row
  deriving DecidableEq, Repr

/-- A descriptor: the block it names and what its cell is at the port. -/
structure Desc where
  blk : Nat
  use : DescUse
  deriving DecidableEq, Repr

/-- A cell held at its ingress (R167), and its block where it has one already (R170). -/
structure HeldCell where
  ingress : Nat
  vc : Nat
  cell : Cell
  blk : Option Nat
  deriving DecidableEq, Repr

/-- A flush walk under way (R178): the port, its detached descriptors, and the cells its link layer discarded, per VC (R107). -/
structure Walk where
  port : Nat
  descs : List Desc
  lost : PerVc
  deriving DecidableEq, Repr

/-- An entry of an allotment (Table 7.3). -/
structure AllotEntry where
  node : Nat
  kind : Nat
  port : Nat
  index : Nat
  rate : Nat
  burst : Nat
  deriving DecidableEq, Repr

/-- Entries staged at this node under a reference (R202). -/
structure Stage where
  ref : Nat
  epoch : Nat
  committed : Bool
  entries : List AllotEntry
  deriving DecidableEq, Repr

/-- One target of a request at the serving head: its entries and the answers to its stage and its commit (R202, R204). -/
structure AllotNode where
  node : Nat
  staged : Option Nat
  committed : Option Nat
  deriving DecidableEq, Repr

/-- A request that the serving head runs. -/
structure AllotReq where
  at_ : SlotId
  ref : Nat
  epoch : Nat
  nodes : List AllotNode
  /-- PHASE 2 has gone out, or PHASE 3; and the first refusal that came -/
  committed : Bool
  cancelled : Bool
  refusal : Option Nat
  deriving DecidableEq, Repr

/-- The switch core and the scheduler, beside their SWX and SCH registers. -/
structure Switch where
  /-- stored blocks by block number (R164) -/
  blocks : SMap Block := []
  /-- queues by 64 × port + queue, head first (R187) -/
  queues : SMap (List Desc) := []
  held : List HeldCell := []
  walks : List Walk := []
  /-- FULL of SWX_OCC_p: ports whose last admission check held or discarded -/
  full : SMap Bool := []
  mseq : Nat := 0
  /-- last TC7 and TC6 queue served and the DRR pointer of each port (R189), as an offset from the value after reset -/
  lastTc7 : SMap Nat := []
  lastTc6 : SMap Nat := []
  drrPtr : SMap Nat := []
  /-- deficit in bytes and visited flag by 64 × port + queue (R189) -/
  deficit : SMap Nat := []
  visited : SMap Bool := []
  /-- shaper credit by 64 × port + queue, and policer credit less POL_BURST's reset value by tunnel, in 1/96,000 byte, with the
  CLK_FAB tick each was last settled at (R196, R198): a rate of one 0.1 Mb/s unit earns one of these in each CLK_FAB cycle -/
  shaper : SMap Int := []
  shaperAt : SMap Nat := []
  policer : SMap Int := []
  policerAt : SMap Nat := []
  /-- staged allotments at this node, and the requests the serving head runs -/
  stages : List Stage := []
  requests : List AllotReq := []
  nextRef : Nat := 1
  deriving DecidableEq, Repr

/-! ### Tunnels (spec/08_tunnels_and_ordering.md) -/

/-- The state of a tunnel end, in the code of TUN_CFG_t.STATE (Table 8.13). -/
inductive TunState where
  | closed | opened | breaking | broken
  deriving DecidableEq, Repr

/-- A tunnel end, or one peer entry of tunnel 0, which sends and receives (R212, R235). -/
structure Tun where
  state : TunState
  sink : Bool
  kept : Bool
  tc : Nat
  ring : Nat
  peer : Nat
  peerTun : Nat
  /-- source: NEXT and OLDEST; sink: EXPECT and the last ACK value sent -/
  next : Nat
  oldest : Nat
  expect : Nat
  lastAck : Nat
  /-- cells delivered since the last ACK (R221) -/
  sinceAck : Nat
  /-- keep-store copies: SEQ and block number, oldest first (R168, R222) -/
  copies : List (Nat × Nat)
  /-- early cells held, by SEQ in the order of delivery, with the block that holds each (R227) -/
  held : List (Nat × Cell × Option Nat)
  /-- a RESEND has been sent for the present hole (R223) -/
  resendSent : Bool
  /-- keep-timer expiries in a row without OLDEST advancing (R225) -/
  expiries : Nat
  /-- cells missing in a gap declared before the next delivered cell (R229) -/
  gap : Nat
  /-- closes with DRAIN 1 that wait (R214) -/
  draining : List SlotId
  /-- the SEQ at which a Breaking end breaks, as a source and as a sink: a peer entry is both (R231) -/
  txBreak : Option Nat
  rxBreak : Option Nat
  /-- CLK_FAB tick of the last BREAK answered while Broken (R233) -/
  breakTick : Option Nat
  /-- SYNC goes on every cell until the first ACK (R235) -/
  sync : Bool
  /-- a receive state exists for the peer (R235) -/
  heard : Bool
  /-- tunnel 0: message bytes received and not yet complete -/
  partialMsg : List Byte
  deriving DecidableEq, Repr

/-- A closed tunnel end. -/
def Tun.closedEnd : Tun :=
  { state := .closed, sink := false, kept := false, tc := 0, ring := 0, peer := 0, peerTun := 0, next := 0, oldest := 0,
    expect := 0, lastAck := 0, sinceAck := 0, copies := [], held := [], resendSent := false, expiries := 0, gap := 0,
    draining := [], txBreak := none, rxBreak := none, breakTick := none, sync := false, heard := false, partialMsg := [] }

/-- A delivered cell at a ring: the 112 bytes, the gap before it, and the block it waits in, if any (R228, R229, R299). -/
structure TakeEntry where
  cell : Cell
  gap : Nat
  blk : Option Nat
  deriving DecidableEq, Repr

/-- A cell on a give side: the tunnel it was given on (none on an endpoint's ring), and whether it has passed its policer
(R198). -/
structure GiveEntry where
  cell : Cell
  tun : Option Nat
  passed : Bool
  deriving DecidableEq, Repr

/-- A ring's two sides (spec/09_fungatre_machine.md R256): delivered cells still in their queue, the take side, and the give
side. -/
structure Ring where
  queued : List TakeEntry
  take : List TakeEntry
  give : List GiveEntry
  deriving DecidableEq, Repr

def Ring.empty : Ring := ⟨[], [], []⟩

/-! ### Fungatre cores (spec/09_fungatre_machine.md) -/

/-- The state of a hand, in the codes of Table 9.1. -/
inductive HandState where
  | halted | run | wait | stall | frozen
  deriving DecidableEq, Repr

/-- A FENCE.K under way (spec/11_fungatre_tunnel_instructions.md R319): the value that OLDEST must pass, by tunnel, and the tunnel that
abandoned the fence while its hand was Frozen. -/
structure FenceWait where
  values : List (Nat × Nat)
  lost : Option Nat := none
  deriving DecidableEq, Repr

/-- A hand, with the hand CSRs of Table 9.2. -/
structure Hand where
  state : HandState := .halted
  pc : BitVec 18 := 0
  /-- w1–w31 (w0 is never listed, R251) -/
  regs : SMap Word := []
  inTrap : Bool := false
  tvec : Nat := 0
  tcause : Nat := 0
  tepc : BitVec 18 := 0
  tval : Word := 0
  tscratch : Word := 0
  /-- WDOG.PERIOD, the CLK_FAB tick of the last reload (while Frozen, the ticks since it), and WDOG_LEFT.EXPIRED (R265) -/
  wdogPeriod : Nat := 0
  wdogFrom : Nat := 0
  expired : Bool := false
  /-- an expiry has occurred that no write to WDOG has followed -/
  unfed : Bool := false
  dbPend : Bool := false
  /-- CLK_FAB tick of START, instructions completed, and the HI words latched (R255) -/
  cycleFrom : Nat := 0
  instret : Nat := 0
  cycleHi : Option Nat := none
  instretHi : Option Nat := none
  /-- latched WAIT events, by bit (Table 11.3) -/
  events : Nat := 0
  /-- pending causes 0x06, 0x05 (with its TVAL) and 0x0A (R262) -/
  pend06 : Bool := false
  pend05 : Option Nat := none
  pend0A : Bool := false
  /-- the WAIT, the stalled instruction or the YIELD that holds the hand -/
  waiting : Option (BitVec 5 × Nat) := none
  stalled : Option Instr := none
  yielding : Bool := false
  /-- a HALT asked for by BCH_CTL_b.HALT (R241) -/
  haltAsked : Bool := false
  /-- a MOVE with DIR 0 in flight: its data address and the bytes copied at issue (R306) -/
  move : Option (Nat × List Byte) := none
  /-- the chain-time alarm's target in whole ns (R316) -/
  alarm : Option Nat := none
  /-- the earliest failed non-posted write since the last FENCE.X: its number in order of issue, and its far address (R318) -/
  failedWrite : Option (Nat × Word) := none
  /-- what a FENCE.K waits for (R319) -/
  fence : Option FenceWait := none
  /-- a checkpoint is pending at the hand: it freezes at its next boundary outside a handler (R535, R543) -/
  checkpoint : Bool := false
  /-- the state a checkpoint froze (R543) -/
  frozenFrom : HandState := .halted
  deriving DecidableEq, Repr

/-- What an open tag will do at completion (spec/11_fungatre_tunnel_instructions.md R321–R323). -/
inductive TagKind where
  | ldxReg (d : BitVec 5) | ldxMem (addr : Nat) | stx
  /-- an access of a CSR order: its slot, and the entries or words done before it
  (spec/13_management_and_dockets.md R365) -/
  | order (at_ : SlotId) (done : Nat) (got : List Byte)
  /-- a register read whose hand has stopped waiting for it -/
  | lost
  deriving DecidableEq, Repr

/-- An access that the bridge has accepted (spec/12_bridge_and_accessory_bus.md R329, R331), with what its window held then: its
KIND, the address at the target, BRG_WIN_ACC, and whether the access reads a whole line (R332). -/
structure FarReq where
  hand : HandId
  far : Word
  size : AccSize
  write : Option Word
  tag : Option Nat
  kind : Nat
  addr : Nat
  acc : Nat
  line : Bool
  deriving DecidableEq, Repr

/-- An open tag: who holds it, the far address, what completion does, and the result where the access has been performed. -/
structure Tag where
  req : FarReq
  kind : TagKind
  result : Option (Nat × Word)
  deriving DecidableEq, Repr

/-- The last use of a tag: the hand, the far address, and the access's number in order of issue (R260, R318). -/
structure TagUse where
  hand : HandId
  far : Word
  no : Nat
  deriving DecidableEq, Repr

/-- An attempt at a far bus (R344, R346): an access or a LOCK, its window, and whether it is in back-off. -/
structure BusTry where
  hand : HandId
  req : Option FarReq
  window : Nat
  backedOff : Bool
  deriving DecidableEq, Repr

/-- A far bus: PCI Express, SPI0, SPI1, I2C0, I2C1 (R338): the holder of its lock and the window it was asked through, the access
being performed, the attempts in order of issue, the last requester granted, and each requester's consecutive losses. -/
structure Bus where
  lock : Option HandId := none
  lockWin : Nat := 0
  busy : Option FarReq := none
  tries : List BusTry := []
  last : Nat := 18
  losses : SMap Nat := []
  deriving DecidableEq, Repr

/-- A prefetched line (R332): its offset, its bytes, and a bit per word never delivered. -/
structure Line where
  off : Nat
  bytes : List Byte
  unread : Nat
  deriving DecidableEq, Repr

/-- The benches, Porter and Steward, the rings, the tags and the bridge. -/
structure Cores where
  hands : SMap Hand := []
  /-- cell registers by 8 × bench + register: 112 bytes -/
  cregs : SMap (List Byte) := []
  /-- owner of a cell register by 8 × bench + register: 0 free, h + 1 owned by hand h (R252) -/
  cregOwner : SMap Nat := []
  rings : SMap Ring := []
  tags : SMap Tag := []
  /-- the last use of each tag (Table 24.4), and how many have been issued -/
  tagLast : SMap TagUse := []
  issued : Nat := 0
  buses : SMap Bus := []
  lines : SMap Line := []
  /-- posted remote writes without a response: RID and the access (R619) -/
  remoteWrites : SMap FarReq := []
  nextRid : Nat := 0
  /-- words of a data memory with an error, by word number in the addressed memories: 1 one bit, 2 beyond correction (R247) -/
  dmark : SMap Nat := []
  /-- words of an instruction store with a parity error, by word number in the addressed memories (R248) -/
  imark : SMap Bool := []
  /-- Steward's active bank and start address, and the default watchdog periods of Porter and Steward (R268, R270) -/
  stewardBank : Nat := 0
  stewardEntry : Nat := 0
  porterWdog : Nat := 0
  stewardWdog : Nat := 0
  /-- restarts of Porter: the model's count of the times its data memory was lost (R380) -/
  restarts : Nat := 0
  deriving DecidableEq, Repr

/-! ### Braid (spec/04_braid_and_graft.md) -/

/-- What this node does about the candidate at a port (R127, R616, R128). -/
inductive Sponsor where
  | idle | waiting (earlier : Nat) | queried
  deriving DecidableEq, Repr

/-- The braid logic, beside its BRD registers. -/
structure Braid where
  /-- UIDs allowed by override orders, by position (R135) -/
  overrides : SMap Nat := []
  /-- UIDs admitted by Enrolment under an OPENED mark, by position, plus one (R135) -/
  enrolled : SMap Nat := []
  /-- permission to train (R56, R125) -/
  permit : PerPort Bool := .all false
  /-- the restore instant set for a port, in whole ns, until it has passed (R132) -/
  restoreAt : PerPort (Option Nat) := .all none
  /-- the restore instant has passed, and the port has yet to enter service (R132) -/
  restored : PerPort Bool := .all false
  sponsor : PerPort Sponsor := .all .idle
  /-- an ADMIT or REFUSE has been applied for the position since its state last changed (R616) -/
  decided : PerPort Bool := .all false
  /-- a DORMANT notice from the partner has been copied (R136) -/
  dormantSeen : PerPort Bool := .all false
  /-- the address in use was taken from a QUERY (R18) -/
  fromQuery : Bool := false
  /-- the head decision window runs, and LOS has been shown throughout on NU and on SU (R14, R61) -/
  window : Bool := true
  losNu : Bool := true
  losSu : Bool := true
  /-- the notices (none) and admission cells (their port) that wait for the switch, oldest first: the first 32 are the outgoing
  queue, and the rest wait behind it in their order (R123) -/
  outgoing : List (Option TPort × Cell) := []
  deriving DecidableEq, Repr

/-! ### Chain time (spec/05_chain_time.md) -/

/-- The last beacon accepted from a partner (R146, R147): its T_TX and arrival stamp (80 bits), SEQ, FLAGS, origin, hops, origin
epoch, and the CLK_FAB cycle of its arrival. -/
structure BeaconSeen where
  tTx : Nat
  arrival : Nat
  seq : Nat
  flags : Nat
  originPos : Nat
  hops : Nat
  epoch : Nat
  atTick : Nat
  deriving DecidableEq, Repr

/-- Chain time at one trunk port: beacons sent, the last one accepted and whether it still counts (R153), the filtered hop delay
in 2^-16 ns and its number of measurements (R147). -/
structure ChainPort where
  sent : Nat := 0
  seen : Option BeaconSeen := none
  fresh : Bool := false
  dFilt : Int := 0
  nMeas : Nat := 0
  /-- the tick at which the port last went Up, and whether a VALID beacon has come on it since its partner was lost (R151) -/
  upAt : Option Nat := none
  heardValid : Bool := false
  deriving DecidableEq, Repr

/-- The chain-time unit, beside its CTM registers. -/
structure Chain where
  /-- chain time in 2^-32 ns (R142) -/
  count : Nat := 0
  /-- the timescale that the count waits for after a step back (R143) -/
  target : Option Nat := none
  /-- the held correction of the increment, in 2^-32 ns a cycle (R155) -/
  adjust : Int := 0
  /-- the phase term's share of each cycle, in 2^-32 ns, and the cycles it still has (R155) -/
  phaseStep : Int := 0
  phaseLeft : Nat := 0
  /-- phase written to CTM_ADJ_PHASE and not yet slewed away, in 2^-32 ns (R158) -/
  slew : Int := 0
  ports : PerPort ChainPort := .all {}
  /-- consecutive parent beacons within LOCK_THR (Table 5.2, R155) -/
  good : Nat := 0
  /-- ACQUIRE has yet to step, at its first parent beacon (Table 5.2) -/
  stepDue : Bool := false
  /-- the wait of R151 runs -/
  waiting : Bool := true
  /-- ports whose A-head candidate was there when a SPLIT notice made this B head the origin (R150, R151) -/
  stale : PerPort Bool := .all false
  deriving DecidableEq, Repr

/-! ### Mailbox (spec/13_management_and_dockets.md) -/

/-- A docket's contents (Table 13.4). -/
structure Docket where
  code : Nat
  tag : Nat
  status : Nat
  gen : Nat
  time : Nat
  body : List Byte
  deriving DecidableEq, Repr

/-- An accepted order (R361): its header and body, the path and key slot of its frame, whether it has been started, and its place in
the order of acceptance (R363). -/
structure Order where
  bytes : List Byte
  path : MsgPath
  keySlot : Nat
  started : Bool
  num : Nat
  deriving DecidableEq, Repr

/-- A tunnel 0 payload that waits: its node, its bytes, EOM, and whether its cell has passed the policer of tunnel 0 (R198). -/
structure OutCell where
  node : Nat
  body : List Byte
  eom : Bool
  passed : Bool
  deriving DecidableEq, Repr

/-- A docket slot (R350, R367): free, holding an order, or holding a docket with the path and key slot of its order. -/
structure Slot where
  gen : Nat
  order : Option Order
  ready : Option (Docket × MsgPath × Nat)
  deriving DecidableEq, Repr

def Slot.free : Slot := ⟨0, none, none⟩

/-- The mailbox engine, beside its MBX registers. -/
structure Mailbox where
  /-- slots by 64 × session + slot -/
  slots : SMap Slot := []
  /-- last COUNTER accepted, by session; and the device's own last COUNTER (R353) -/
  rxCounter : SMap Nat := []
  txCounter : SMap Nat := []
  /-- at the head: source MAC of the last frame relayed, by 2 × position + session (R357) -/
  relay : SMap Nat := []
  /-- tunnel 0 payloads that wait for their peer's window or a keep-store block, oldest first, with EOM (R218) -/
  outWait : List OutCell := []
  /-- cells of Porter's own frames on ETH0 that wait for P4 to take them, oldest first (spec/15_ethernet_and_storage.md R398) -/
  ethOut : List Cell := []
  /-- JTAG: the instruction selected, the frame being received and the answers that wait (R356) -/
  jtagIr : Nat := 15
  jtagIn : List Byte := []
  jtagOut : List (List Byte) := []
  /-- tunnel 0 messages delivered and not yet taken up: the node and the message -/
  inbox : List (Nat × List Byte) := []
  /-- orders accepted so far -/
  accepted : Nat := 0
  deriving DecidableEq, Repr

/-! ### Event log (spec/24_tinker_and_records.md) -/

/-- An event log entry (Table 24.3). -/
structure LogEntry where
  time : Nat
  source : Nat
  code : Nat
  seq : Nat
  flags : Nat
  inst : Nat
  d0 : Nat
  d1 : Nat
  deriving DecidableEq, Repr

/-- The log's stored entries, SEQ, the entries written last within one CLK_FAB cycle, and the byte counters by switch port (R569,
R571, R573). -/
structure Records where
  entries : SMap LogEntry := []
  seq : Nat := 0
  /-- the tick of the last entry, and how many entries that tick has -/
  cycle : Nat := 0
  group : Nat := 0
  /-- the EVT bits that hardware has set in the CLK_FAB cycle of tick `raisedAt`, by field key (R7) -/
  raised : SMap Nat := []
  raisedAt : Nat := 0
  rxBytes : SMap Nat := []
  txBytes : SMap Nat := []
  deriving DecidableEq, Repr

/-! ### Field I/O and the shutter (spec/18_field_io_and_shutter.md) -/

/-- A queued field event: output, level and target in whole ns (R451). -/
structure FieldEvent where
  output : Nat
  level : Bool
  target : Nat
  deriving DecidableEq, Repr

/-- A TAT that has issued (spec/11_fungatre_tunnel_instructions.md R312, R314): its hand, its target, the output and the level, and
whether the node has been shuttered since. -/
structure TatWait where
  hand : HandId
  event : FieldEvent
  cut : Bool
  deriving DecidableEq, Repr

/-- The field unit, beside its FLD registers. -/
structure Field where
  /-- the event queue, in the order of R315 -/
  queue : List FieldEvent := []
  /-- TATs that stall on the full queue, in the order in which they issued (R314) -/
  waiting : List TatWait := []
  /-- levels at the input balls -/
  raw : Nat := 0
  /-- inputs that debounce a transition, with its stamp plus one (R454) -/
  cand : SMap Nat := []
  deriving DecidableEq, Repr

/-! ### Clocks, reset and start-up (spec/14_clocks_reset_boot.md) -/

/-- Start-up and reset, beside the CLK registers. -/
structure Boot where
  /-- a reset is held: by RESET_N, or by a clock failure (R379, R381) -/
  held : Bool := false
  clockFail : Bool := false
  /-- what the harness presents on HID[3:0] (spec/01_rows_and_nodes.md R23): 0 until it is known (DESIGN CHOICE, log entry 26) -/
  hid : Nat := 0
  /-- the fuse shadow, once step 1 of start-up has loaded it: the values of Machine/Domains.lean's fused fields, in their order
  (spec/00_scope.md R9). The spec gives no unit's fuses: they come with START_UP, and a field without one reads a constant (DESIGN
  CHOICE, log entry 26). -/
  fuses : Option (List Nat) := none
  /-- permission to train is no longer withheld, and clock lanes are driven (R388) -/
  gate : Bool := false
  /-- Porter firmware has been verified and runs (Table 14.5 step 4) -/
  porter : Bool := false
  /-- the on-chip BEQ table (R46), empty where there is none -/
  beq : List Byte := []
  /-- the ledger copy: records by slot, and the own node address in the header of a valid copy
  (spec/23_in_service_repair.md R554) -/
  ledger : SMap (List Byte) := []
  ledgerNode : Option Nat := none
  /-- benches loaded at start-up, with the hands that admission starts (R389) -/
  toStart : List (Nat × Nat) := []
  /-- bench images have been loaded since the last cold or node reset, and the items seeded since then (R389, R390) -/
  loaded : Bool := false
  seeded : List Nat := []
  /-- the item being seeded: TYPE, total length (0 until it is known) and the 64-byte pieces received, by OFFSET / 64
  (R390, R391) -/
  seed : Option (Nat × Nat × SMap (List Byte)) := none
  /-- CLK_FAB tick of the last admission of this node (R520) -/
  admitted : Option Nat := none
  deriving DecidableEq, Repr

/-! ### Vault (spec/21_vault.md) -/

/-- A key slot that holds a key (Table 21.2). -/
structure VSlot where
  kind : Nat
  uses : Nat
  parent : Nat
  installed : Bool
  count : Nat
  expire : Bool
  key : List Byte
  deriving DecidableEq, Repr

def VSlot.none : VSlot := ⟨0, 0, 0, false, 0, false, []⟩

/-- The Vault, beside its VLT registers. -/
structure Vault where
  /-- valid slots -/
  slots : SMap VSlot := []
  /-- the slot of the ledger scion, plus one (spec/23_in_service_repair.md R556) -/
  ledgerKey : Nat := 0
  /-- invalidated slots not yet zeroed (R517) -/
  scrub : List Nat := []
  /-- the helper buffer (R512) -/
  helper : List Byte := []
  /-- the JTAG challenge that waits for its response (R526) -/
  challenge : Option (List Byte) := Option.none
  /-- the slot of each session's scion, plus one (R518) -/
  scions : SMap Nat := []
  /-- a health test has failed and 1,024 samples have not yet passed (R524) -/
  trngBad : Bool := false
  deriving DecidableEq, Repr

/-! ### Flash, updates and planting (spec/14_clocks_reset_boot.md R392, spec/22_updates_and_planting.md) -/

/-- A directory entry with the item it names (Table 14.9, R531; the item is held plain beside its stored bytes, DESIGN CHOICE, log entry 28); `nonce`
is the one a record is stored under where it is not bound. -/
structure FlashEntry where
  kind : Nat
  bank : Nat
  active : Bool
  bound : Bool
  inst : Nat
  offset : Nat
  length : Nat
  itemCrc : Nat
  rev : Nat
  header : List Byte
  sig : List Byte
  nonce : List Byte
  item : List Byte
  stored : List Byte
  deriving DecidableEq, Repr

/-- A copy of the directory as its 4 KiB sector holds it: the header of Table 14.8 and its entries (R392). -/
structure DirCopy where
  magic : Nat
  version : Nat
  count : Nat
  gen : Nat
  crc : Nat
  entries : List FlashEntry
  deriving DecidableEq, Repr

/-- The file being received (R532): the offsets and lengths of the segments kept. -/
structure Reception where
  kind : Nat
  inst : Nat
  total : Nat
  segs : List (Nat × Nat)
  deriving DecidableEq, Repr

/-- What a rollback restores of a bench or of Steward (R539): its hands that ran, ENTRY values, ring records (ring and register),
cell-register ownership and field owners. -/
structure UnitSave where
  core : Nat
  ran : Nat
  entries : List Nat
  rings : List (Nat × Nat)
  cregs : Nat
  cregMap : Nat
  fown : Nat
  deriving DecidableEq, Repr

/-- An armed planting, up to the end of its health window (R534–R539): its units, what a rollback restores, the ports that were Up
at the instant with rate and width, the cores whose swap waits for their hands to freeze, and the first failing unit with its
CAUSE. -/
structure Planting where
  at_ : SlotId
  instant : Nat
  keepData : Bool
  units : List (Nat × Nat)
  saves : List UnitSave
  ports : List (Nat × Nat × Nat)
  swapping : List Nat
  failed : Option (Nat × Nat × Nat)
  deriving DecidableEq, Repr

/-- Flash and updates, beside the UPD registers: the directory copies at offsets 0x0000_0000 and 0x0000_1000 (R392), none where the
sector has never been written. -/
structure Updates where
  dirA : Option DirCopy := none
  dirB : Option DirCopy := none
  reception : Option Reception := none
  /-- staged units: TYPE and INSTANCE (R533) -/
  staged : List (Nat × Nat) := []
  planting : Option Planting := none
  /-- the unit, 3 or 4, that Shugon rewrites (R537) -/
  rewriting : Option Nat := none
  deriving DecidableEq, Repr

/-! ### In-service repair (spec/23_in_service_repair.md) -/

/-- A lane-sparing attempt at a port (R546): the order it serves, whether this end transmits, whether the copy runs, and the
logical and physical lanes. -/
structure Sparing where
  at_ : Option SlotId
  transmits : Bool
  copying : Bool
  logical : Nat
  src : Nat
  dst : Nat
  deriving DecidableEq, Repr

/-- A migration under way (R543). -/
structure Migration where
  at_ : SlotId
  src : Nat
  dst : Nat
  notify : Bool
  deriving DecidableEq, Repr

/-- Repair, beside the REP registers. -/
structure Repair where
  migration : Option Migration := none
  sparing : PerPort (Option Sparing) := .all none
  /-- spare rows in use, by memory, instance and bank (Table 23.3) -/
  used : SMap Nat := []
  /-- the next entry of the remap log -/
  remapAt : Nat := 0
  deriving DecidableEq, Repr

/-! ### Endpoints (spec/15_ethernet_and_storage.md, spec/16_peripheral_bus.md, spec/17_display.md) -/

/-- An Ethernet port's timestamp FIFOs, oldest first (spec/15_ethernet_and_storage.md R403): message type, sequenceId and stamp of
received messages; cookie and stamp of sent frames. -/
structure EthPort where
  rxStamps : List (Nat × Nat × Nat) := []
  txStamps : List (Nat × Nat) := []
  deriving DecidableEq, Repr

/-- A host pipe (spec/16_peripheral_bus.md R419): cells given and not yet done with, the stage of a control transfer (0 setup,
1 data, 2 status), bytes moved, data read, transaction errors in a row, and whether the remaining OUT cells of a transfer that has ended
are still to come. -/
structure UsbPipe where
  queue : List Cell := []
  stage : Nat := 0
  moved : Nat := 0
  got : List Byte := []
  errors : Nat := 0
  skip : Bool := false
  deriving DecidableEq, Repr

/-- A display head (spec/17_display.md): the CLK_FAB tick of the last start of vertical blank; of the pending commit, 1 where it must
pass over the next blank and 2 where it has; and the starts of vertical blank since a commit or a touching WRITE. -/
structure Head where
  blankAt : Nat := 0
  late : Nat := 0
  idle : Nat := 0
  deriving DecidableEq, Repr

/-- The endpoint ports. -/
structure Ends where
  /-- cells that an endpoint's ingress holds for a ring, oldest first: switch port, ring and cell (R399) -/
  wait : List (Nat × Nat × Cell) := []
  eth : SMap EthPort := []
  /-- open block tags (R410) -/
  blockTags : SMap Bool := []
  pipes : SMap UsbPipe := []
  /-- the control or bulk pipe served last (R421) -/
  usbLast : Nat := 31
  /-- USB ports in reset and in resume, one bit each -/
  usbReset : Nat := 0
  usbResume : Nat := 0
  /-- the device function's remote wake: 0 none, 1 accepted, 2 driving K, 3 waiting for the host (R432) -/
  usbWake : Nat := 0
  heads : SMap Head := []
  /-- 64-bit words of the frame store that scanout has found beyond correction (spec/17_display.md R438) -/
  frameBad : SMap Bool := []
  deriving DecidableEq, Repr

/-! ### Intake and docks (spec/19_harness_intake_and_docks.md) -/

/-- A channel: the samples that each breaker timer and the undervoltage timer have run (0 where stopped), and a dock's voltage change
in progress (R472, R474, R477). -/
structure Chan where
  timers : List Nat := [0, 0, 0, 0, 0, 0, 0, 0]
  uv : Nat := 0
  changing : Bool := false
  deriving DecidableEq, Repr

/-- A dock's Power Delivery state (R489–R491): the received messages, oldest first, with header and objects; the own MessageID
counter; the MessageID of the last message accepted, plus one; the message that waits for GoodCRC, and its retries; an own swap
request outstanding; the source capabilities last sent or received; and the last proposal without its answer, by message type with the
VSEL code of a Request (PRESUMED, log entry 21). -/
structure Dock where
  fifo : List (Nat × List Nat) := []
  txId : Nat := 0
  lastRx : Nat := 0
  sent : Option (Nat × List Nat) := none
  tries : Nat := 0
  swapOut : Bool := false
  caps : List Nat := []
  offer : Option (Nat × Nat) := none
  /-- whether CC last read open while attached, and the requests held for that, oldest first: none for a Hard Reset, the header for a
  Soft_Reset (R490) -/
  ccOpen : Bool := false
  held : List (Option Nat) := []
  /-- whether the port was attached when it became wet, and whether its discharge switch is on (R483, R484, R487) -/
  wetAttached : Bool := false
  discharging : Bool := false
  deriving DecidableEq, Repr

/-! ### Power states (spec/20_power_states.md) -/

/-- A power sequence under way: its order, STATE and GATE, the domains that it switches off, whether the retrains it has requested are
awaited, and a wake source that has come during an entry to Dormant, with the straps then sampled. -/
structure PowerSeq where
  at_ : SlotId
  target : Nat
  gate : Nat
  off : Nat
  retraining : Bool
  wake : Option (Nat × Nat)
  deriving DecidableEq, Repr

/-- Power: the present GATE, the running sequence, and the residency counts in CLK_FAB ticks up to the tick of the last change. -/
structure Power where
  gate : Nat := 0
  seq : Option PowerSeq := none
  res : SMap Nat := []
  resAt : Nat := 0
  deriving DecidableEq, Repr

/-- Tinker (spec/24_tinker_and_records.md): the tick at which DURATION ends, and the tick of the last write to TNK_BP_CTL. -/
structure Tinker where
  until_ : Option Nat := none
  bpFrom : Nat := 0
  deriving DecidableEq, Repr

/-- What leaves the part (DESIGN CHOICE, log entry 1). -/
inductive Out where
  /-- a flit on a trunk port: its 128 bytes, and the 66-bit data blocks sent on each logical lane (R36–R38) -/
  | flit (p : TPort) (bytes : List Byte) (lanes : List (List Nat))
  /-- a training block (Table 2.8) on a physical lane of a trunk port: a 66-bit control block, scrambled (R36, R37) -/
  | tblock (p : TPort) (lane : Nat) (blk : BitVec 66)
  /-- scrambled zero data blocks on the physical lanes of a mask, for the verify dwell (R58 step 6) -/
  | zeros (p : TPort) (lanes : Nat)
  /-- a management frame or message sent back on a path (R352, R356) -/
  | mgmt (path : MsgPath) (bytes : List Byte)
  /-- an Ethernet frame -/
  | eth (p : Fin 2) (bytes : List Byte)
  /-- a cell for another row, carried over ETH0: the spec does not give its frame (R20) -/
  | row (cell : Cell)
  /-- an access given to an external target: PCI Express, SPI or I2C (R340, R341) -/
  | far (bus : Nat) (req : FarReq)
  /-- a data register captured by the JTAG port -/
  | jtag (value : Nat)
  /-- the level of an output of the part: a numbered output of a unit -/
  | pin (unit : String) (index : Nat) (level : Nat)
  /-- bytes given to a unit's external interface -/
  | bytes (unit : String) (index : Nat) (data : List Byte)
  deriving DecidableEq, Repr

/-- Everything the block holds but its queue of commands and its addressed memories. -/
structure Chip where
  /-- register fields by key, each XORed with its reset value, so that reset is the empty map -/
  csr : SMap Nat := []
  /-- locked RWL fields by key (R8) -/
  locks : SMap Bool := []
  lanes : PerPort LanePort := .all {}
  links : PerPort LinkPort := .all {}
  sw : Switch := {}
  tuns : SMap Tun := []
  cores : Cores := {}
  braid : Braid := {}
  chain : Chain := {}
  mbx : Mailbox := {}
  log : Records := {}
  /-- HI words latched by a read of their LO word, by register address, plus one; the next read of the HI word returns and ends
  the latch (R110, R160, R454, R507, R573) -/
  latches : SMap Nat := []
  field : Field := {}
  boot : Boot := {}
  vault : Vault := {}
  upd : Updates := {}
  rep : Repair := {}
  ends : Ends := {}
  hvi : SMap Chan := []
  docks : SMap Dock := []
  power : Power := {}
  tink : Tinker := {}
  /-- CLK_FAB cycles counted since power-on: the model's measure of elapsed time (DESIGN CHOICE, log entry 2) -/
  tick : Nat := 0
  /-- the model's own counter of free values (DESIGN CHOICE, log entry 3) -/
  free : Nat := 0
  /-- what has left the part, oldest first (DESIGN CHOICE, log entry 1) -/
  outbox : List Out := []
  deriving DecidableEq, Repr

/-- The state of the block. -/
structure State where
  /-- commands that wait, first in, first out -/
  pending : List Instr
  /-- the addressed memories, one byte an entry, by the numbers of Machine/Ops.lean -/
  mem : List Host.Cell
  chip : Chip
  deriving DecidableEq, Repr

/-- Right after a cold reset: every register at its reset value, nothing stored, nothing waiting (spec/00_scope.md R9). -/
def State.reset : State := { pending := [], mem := [], chip := {} }

/-- The one fault of the interface's shape. -/
inductive Fault where
  /-- raised by no command: the spec gives every command an effect or says that it is ignored (safe) -/
  | unused
  deriving DecidableEq, Repr

/-- Why a command has no meaning here. -/
inductive Refusal where
  /-- raised by the dispatch for a command that is not modelled (safe: nothing is claimed of it) -/
  | notModelled (mnemonic : String)
  deriving DecidableEq, Repr

end Sys2Proof.Machine
end

