-- ==== Sys2Proof/Machine/Ops.lean ====
section
/-! DEFINITION. The named operations over the state: register fields, counters, events and the event log, free values, chain
time, addressed memory, cells and byte lists. -/

namespace Sys2Proof.Machine
open Sys2Proof Sys2Proof.Machine.Reg

/-- The outcome of a step. -/
abbrev Result := Host.Outcome State Fault Refusal

/-! ### Small helpers -/

/-- 1 for true. -/
def b2n (b : Bool) : Nat := if b then 1 else 0

/-- Bit `i` of a number. -/
def bit (n i : Nat) : Bool := n / 2 ^ i % 2 = 1

/-- Bits `[lo + w - 1 : lo]` of a number. -/
def bits (n lo w : Nat) : Nat := n / 2 ^ lo % 2 ^ w

/-- Bit `i` set. -/
def setBit (n i : Nat) : Nat := n ||| 2 ^ i

/-- Bit `i` cleared. -/
def clrBit (n i : Nat) : Nat := if bit n i then n - 2 ^ i else n

/-- The number of set bits among the lowest `w`. -/
def popCount (n w : Nat) : Nat := ((List.range w).filter (fun i => bit n i)).length

/-- A number read as two's complement of `w` bits. -/
def signed (n w : Nat) : Int := if n % 2 ^ w < 2 ^ (w - 1) then (n % 2 ^ w : Nat) else (n % 2 ^ w : Nat) - (2 ^ w : Nat)

/-- An integer as the `w`-bit two's complement number. -/
def unsigned (i : Int) (w : Nat) : Nat := (i % ((2 ^ w : Nat) : Int)).toNat

/-- Little-endian bytes of a number (spec/00_scope.md R3). -/
def leBytes (n k : Nat) : List Byte := (List.range k).map (fun i => BitVec.ofNat 8 (n / 256 ^ i))

/-- The number that little-endian bytes carry. -/
def leNat (bs : List Byte) : Nat :=
  match bs with
  | [] => 0
  | b :: r => b.toNat + 256 * leNat r

/-- Bytes `[off, off + k)`, zero beyond the end. -/
def slice (bs : List Byte) (off k : Nat) : List Byte := (List.range k).map (fun i => bs.getD (off + i) 0)

/-- The little-endian number in bytes `[off, off + k)`. -/
def rd (bs : List Byte) (off k : Nat) : Nat := leNat (slice bs off k)

/-- Bytes cut or zero-padded to length `k`. -/
def padTo (bs : List Byte) (k : Nat) : List Byte := slice bs 0 k

/-- Replace bytes from `off` on. -/
def patch (bs : List Byte) (off : Nat) (new : List Byte) : List Byte :=
  bs.mapIdx (fun i b => if off ≤ i then new.getD (i - off) b else b)

end Sys2Proof.Machine

namespace Sys2Proof
open Sys2Proof.Machine

/-- The number of a trunk port, which is also its switch port (spec/06_switch_core.md Table 6.1). -/
def TPort.num : TPort → Nat
  | .nu => 0
  | .nd => 1
  | .su => 2
  | .sd => 3

/-- The trunk port of a number below 4. -/
def tport (n : Nat) : TPort :=
  match n with
  | 0 => .nu
  | 1 => .nd
  | 2 => .su
  | _ => .sd

def TPort.list : List TPort := [.nu, .nd, .su, .sd]

/-- ND and SD lead their links (spec/02_trunk_lanes.md R55). -/
def TPort.leads : TPort → Bool
  | .nd => true
  | .sd => true
  | _ => false

/-- SU and SD are skip ports (spec/01_rows_and_nodes.md Table 1.2). -/
def TPort.skip : TPort → Bool
  | .su => true
  | .sd => true
  | _ => false

/-- NU and SU face up. -/
def TPort.up : TPort → Bool
  | .nu => true
  | .su => true
  | _ => false

def AccSize.bytes : AccSize → Nat
  | .byte => 1
  | .half => 2
  | .word => 4

end Sys2Proof

namespace Sys2Proof.Machine
open Sys2Proof Sys2Proof.Machine.Reg

/-! ### Register fields -/

/-- The value of a field. -/
def Chip.get (s : Chip) (f : Fld) : Nat := mget 0 s.csr f.key ^^^ f.rst

/-- Hardware sets a field. -/
def Chip.put (s : Chip) (f : Fld) (v : Nat) : Chip :=
  { s with csr := mset 0 s.csr f.key (v % 2 ^ f.width ^^^ f.rst) }

/-- A field of one bit is set. -/
def Chip.on (s : Chip) (f : Fld) : Bool := s.get f = 1

/-- A counter that saturates at its width (spec/03_trunk_link_layer.md R110 and every register table that says so). -/
def Chip.addSat (s : Chip) (f : Fld) (n : Nat) : Chip :=
  s.put f (if s.get f + n < 2 ^ f.width then s.get f + n else 2 ^ f.width - 1)

def Chip.inc (s : Chip) (f : Fld) : Chip := s.addSat f 1

/-- A counter that wraps. -/
def Chip.addWrap (s : Chip) (f : Fld) (n : Nat) : Chip := s.put f (s.get f + n)

/-- A 64-bit counter in a LO and a HI field, which wraps. -/
def Chip.addWrap64 (s : Chip) (lo hi : Fld) (n : Nat) : Chip :=
  let v := s.get lo + 2 ^ 32 * s.get hi + n
  (s.put lo v).put hi (v / 2 ^ 32)

/-- Set one bit of a field. -/
def Chip.setBitOf (s : Chip) (f : Fld) (i : Nat) : Chip := s.put f (setBit (s.get f) i)

/-- Clear one bit of a field. -/
def Chip.clrBitOf (s : Chip) (f : Fld) (i : Nat) : Chip := s.put f (clrBit (s.get f) i)

/-- A field with the code RWL is locked once it has been written (spec/00_scope.md R8). -/
def Chip.locked (s : Chip) (f : Fld) : Bool := mget false s.locks f.key
def Chip.lockField (s : Chip) (f : Fld) : Chip := { s with locks := mset false s.locks f.key true }

/-- Firmware writes a field with the code RWL: nothing where it is locked, else the value, and the lock (R8). -/
def Chip.writeOnce (s : Chip) (f : Fld) (v : Nat) : Chip := if s.locked f then s else (s.put f v).lockField f

/-- A domain is on (spec/20_power_states.md Table 20.3). -/
def Chip.domainOn (s : Chip) (d : Nat) : Bool := bit (s.get PWR_STAT_DOM_ON) d

/-! ### Time -/

/-- Chain time in whole ns (spec/05_chain_time.md R141). -/
def Chip.ns (s : Chip) : Nat := s.chain.count / 2 ^ 32 % 2 ^ 64

/-- Chain time as the 80-bit stamp: 64 bits of ns and 16 of fraction (R141). -/
def Chip.stamp (s : Chip) : Nat := s.chain.count / 2 ^ 16 % 2 ^ 80

/-- CLK_FAB cycles in a time of `n` ns (1.2 GHz). -/
def ticksOfNs (n : Nat) : Nat := n * 6 / 5

/-! ### Leaving the part, free values -/

def Chip.emit (s : Chip) (o : Out) : Chip := { s with outbox := s.outbox ++ [o] }

/-- A fresh free value of `w` bits, with the counter advanced (DESIGN CHOICE, log entry 3). -/
def Chip.fresh (s : Chip) (w : Nat) : Nat × Chip :=
  ((Config.freeValue s.free).toNat % 2 ^ w, { s with free := s.free + 1 })

/-! ### Event log (spec/24_tinker_and_records.md R569–R571) -/

/-- The order of entries that fall in one CLK_FAB cycle: SOURCE, then INST, then CODE (R571). -/
def LogEntry.key (e : LogEntry) : Nat := (e.source * 256 + e.inst) * 256 + e.code

/-- An entry takes its place among those of its cycle. -/
def insertLog (l : List LogEntry) (e : LogEntry) : List LogEntry :=
  match l with
  | [] => [e]
  | x :: r => if x.key ≤ e.key then x :: insertLog r e else e :: x :: r

/-- The entries of the log with one more at `head`, which is the last of the cycle's `g + 1` entries; the first of them has
sequence number `seq` (R571). -/
def placeLog (entries : SMap LogEntry) (head g seq : Nat) (e : LogEntry) : SMap LogEntry :=
  let none_ : LogEntry := ⟨0, 0, 0, 0, 0, 0, 0, 0⟩
  let at_ (i : Nat) : Nat := (head + 4096 - g + i) % 4096
  let all := insertLog ((List.range g).map (fun i => mget none_ entries (at_ i))) e
  all.zipIdx.foldl (fun m x => mset none_ m (at_ x.2) { x.1 with seq := (seq + x.2) % 65536 }) entries

/-- Write an entry at HEAD; a full log overwrites the entry at TAIL (R569). -/
def Chip.logEntry (s : Chip) (source code inst d0 d1 : Nat) : Chip :=
  if s.get LOG_CTL_EN = 0 ∨ bit (s.get LOG_MASK_BLOCK) source = false ∨ bit (s.get PWR_STAT_DOM_ON) 3 = false then s
  else
    let head := s.get LOG_STAT_HEAD
    let full := s.on LOG_STAT_FULL
    let g := if s.log.cycle = s.tick then s.log.group else 0
    let e : LogEntry :=
      { time := s.stamp, source := source, code := code, seq := 0,
        flags := s.get CTM_STAT_VALID + 2 * b2n (s.get GLB_STANCE_STANCE = 1), inst := inst, d0 := d0, d1 := d1 }
    let s := { s with log := { s.log with
      entries := placeLog s.log.entries head g (s.log.seq - g) e, seq := s.log.seq + 1, cycle := s.tick,
      group := min (g + 1) 4095 } }
    let s := s.put LOG_STAT_HEAD (head + 1)
    if full then (s.put LOG_STAT_TAIL (s.get LOG_STAT_TAIL + 1)).inc LOG_OVERRUN
    else s.put LOG_STAT_FULL (b2n ((head + 1) % 4096 = s.get LOG_STAT_TAIL))

/-- INST of an event: the port, bench, channel, dock or endpoint of the register set at an address (Table 24.3). -/
def instOf (addr bitNo : Nat) : Nat :=
  match addr / 65536 with
  | 0x03 => addr / 4096 % 4
  | 0x04 => addr / 4096 % 4
  | 0x0A => addr / 4096 % 16
  | 0x0C => addr / 4096 % 4
  | 0x0F => if bitNo < 16 then bitNo / 8 else 0
  | 0x11 => if bitNo < 18 then bitNo % 6 else 0
  | 0x12 => addr / 256 % 2
  | _ => 0

/-- The whole of an EVT register, whose fields all reset to 0. -/
def Chip.evtWord (s : Chip) (addr : Nat) : Nat :=
  s.csr.foldl (fun n e => if e.1 / 32 = addr then n + e.2 * 2 ^ (e.1 % 32) else n) 0

/-- The EVT bits of a field that hardware has set in this CLK_FAB cycle: a write of 1 in the same cycle leaves them 1
(spec/00_scope.md R7). -/
def Chip.raisedNow (s : Chip) (f : Fld) : Nat := if s.log.raisedAt = s.tick then mget 0 s.log.raised f.key else 0

/-- Hardware has set bit `i` of an EVT field in this CLK_FAB cycle. -/
def Chip.noteRaised (s : Chip) (f : Fld) (i : Nat) : Chip :=
  let now := if s.log.raisedAt = s.tick then s.log.raised else []
  { s with log := { s.log with raised := mset 0 now f.key (setBit (mget 0 now f.key) i), raisedAt := s.tick } }

/-- Hardware sets bit `i` of an EVT field, and the log takes an entry with the given detail (R570, Table 24.4). -/
def Chip.evtDetail (s : Chip) (f : Fld) (i d0 d1 : Nat) : Chip :=
  ((s.setBitOf f i).noteRaised f i).logEntry (f.addr / 65536) (f.lo + i) (instOf f.addr (f.lo + i)) d0 d1

/-- Hardware sets bit `i` of an EVT field; DETAIL0 is the register after the set (R570). -/
def Chip.evtBit (s : Chip) (f : Fld) (i : Nat) : Chip :=
  s.evtDetail f i ((s.setBitOf f i).evtWord f.addr) 0

/-- Hardware sets an EVT bit (R570). -/
def Chip.evt (s : Chip) (f : Fld) : Chip := s.evtBit f 0

/-- The interrupt of an EVT register to Porter: a set bit whose IRQ_EN bit, one register further, is 1. -/
def Chip.irq (s : Chip) (evtAddr irqAddr : Nat) : Bool := s.evtWord evtAddr &&& s.evtWord irqAddr ≠ 0

/-- Latch a HI word (R110). -/
def Chip.latch (s : Chip) (addr v : Nat) : Chip := { s with latches := mset 0 s.latches addr (v + 1) }

/-! ### Addressed memories

One number space holds them all: core `c`'s data memory at `c × 2^20` (benches 0–15, Porter 16, Steward 17), the instruction store
bank `k` of core `c` at `2^25 + (2c + k) × 2^20`, the frame store at `2^27`, SBUF at `2^28`, USB endpoint memory at `2^29`, and
the staging region of the flash at `2^30`. A byte that nothing has written reads as zero (DESIGN CHOICE, log entry 5). -/

abbrev Memory := List Host.Cell

/-- What an unlisted address reads as (DESIGN CHOICE, log entry 5). -/
def Memory.blank : Byte := 0

/-- One byte. -/
def Memory.byte (m : Memory) (a : Nat) : Byte := mget Memory.blank m a

/-- Write one byte, keeping the canonical form. -/
def Memory.setByte (m : Memory) (a : Nat) (v : Byte) : Memory := mset Memory.blank m a v

/-- `k` bytes from `a`. -/
def Memory.bytes (m : Memory) (a k : Nat) : List Byte := (List.range k).map (fun i => Memory.byte m (a + i))

/-- Write bytes from `a` on. -/
def Memory.setBytes (m : Memory) (a : Nat) (bs : List Byte) : Memory :=
  match bs with
  | [] => m
  | b :: r => Memory.setBytes (Memory.setByte m a b) (a + 1) r

/-- A little-endian number of `k` bytes. -/
def Memory.read (m : Memory) (a k : Nat) : Nat := leNat (Memory.bytes m a k)

/-- Write a little-endian number of `k` bytes. -/
def Memory.write (m : Memory) (a k v : Nat) : Memory := Memory.setBytes m a (leBytes v k)

/-- The canonical form. -/
def Memory.wf (m : Memory) : Bool := mwf Memory.blank m

def dmemBase (core : Nat) : Nat := core * 2 ^ 20
def imemBase (core bank : Nat) : Nat := 2 ^ 25 + (2 * core + bank) * 2 ^ 20
def frameBase : Nat := 2 ^ 27
def sbufBase : Nat := 2 ^ 28
def epmemBase : Nat := 2 ^ 29
def stagingBase : Nat := 2 ^ 30

/-- A change of the chip alone. -/
def State.onChip (s : State) (f : Chip → Chip) : Result := .next { s with chip := f s.chip }

/-! ### Cells (spec/08_tunnels_and_ordering.md Tables 8.2 and 8.3) -/

end Sys2Proof.Machine

namespace Sys2Proof
open Sys2Proof.Machine

def Cell.field (c : Cell) (lo w : Nat) : Nat := bits c.hdr.toNat lo w
def Cell.dest (c : Cell) : Nat := c.field 0 16
def Cell.dpos (c : Cell) : Nat := c.field 0 10
def Cell.drow (c : Cell) : Nat := c.field 10 6
def Cell.tun (c : Cell) : Nat := c.field 16 10
def Cell.seq (c : Cell) : Nat := c.field 26 16
def Cell.tc (c : Cell) : Nat := c.field 42 3
def Cell.kept (c : Cell) : Bool := c.field 45 1 = 1
def Cell.eom (c : Cell) : Bool := c.field 46 1 = 1
def Cell.vlen (c : Cell) : Nat := c.field 47 7
def Cell.flags (c : Cell) : Nat := c.field 54 10
def Cell.flag (c : Cell) (i : Nat) : Bool := bit c.flags i

/-- The header word from its fields (Table 8.2). -/
def mkHdr (dest tun seq tc : Nat) (kept eom : Bool) (vlen flags : Nat) : BitVec 64 :=
  BitVec.ofNat 64 (dest % 2 ^ 16 + tun % 2 ^ 10 * 2 ^ 16 + seq % 2 ^ 16 * 2 ^ 26 + tc % 8 * 2 ^ 42 + b2n kept * 2 ^ 45
    + b2n eom * 2 ^ 46 + vlen % 2 ^ 7 * 2 ^ 47 + flags % 2 ^ 10 * 2 ^ 54)

/-- A cell with bit `i` of FLAGS set to `b`. -/
def Cell.setFlag (c : Cell) (i : Nat) (b : Bool) : Cell :=
  { c with hdr := BitVec.ofNat 64 (if b then setBit c.hdr.toNat (54 + i) else clrBit c.hdr.toNat (54 + i)) }

/-- The 112 bytes of a cell (R209). -/
def Cell.toBytes (c : Cell) : List Byte := leBytes c.hdr.toNat 8 ++ padTo c.data 104

/-- The cell in 112 bytes. -/
def Cell.ofBytes (bs : List Byte) : Cell := ⟨BitVec.ofNat 64 (rd bs 0 8), slice bs 8 104⟩

end Sys2Proof

namespace Sys2Proof.Machine
open Sys2Proof Sys2Proof.Machine.Reg

/-- The virtual channel of a traffic class (spec/07_scheduling_and_allotment.md R186, Table 7.1). -/
def vcOf (tc : Nat) : Nat := bits 0xE504 (2 * tc) 2

/-- Own node address (spec/01_rows_and_nodes.md R19): ROW and POS of BRD_STAT. -/
def Chip.node (s : Chip) : Nat := s.get BRD_STAT_POS + 1024 * s.get BRD_STAT_ROW

/-! ### Records of the state by number -/

def Chip.lane (s : Chip) (p : TPort) : LanePort := s.lanes.get p
def Chip.setLane (s : Chip) (p : TPort) (l : LanePort) : Chip := { s with lanes := s.lanes.set p l }
def Chip.link (s : Chip) (p : TPort) : LinkPort := s.links.get p
def Chip.setLink (s : Chip) (p : TPort) (l : LinkPort) : Chip := { s with links := s.links.set p l }
def Chip.hand (s : Chip) (h : HandId) : Hand := mget {} s.cores.hands h.val
def Chip.setHand (s : Chip) (h : HandId) (x : Hand) : Chip :=
  { s with cores := { s.cores with hands := mset {} s.cores.hands h.val x } }
def Chip.tun (s : Chip) (t : Nat) : Tun := mget Tun.closedEnd s.tuns t
def Chip.setTun (s : Chip) (t : Nat) (x : Tun) : Chip := { s with tuns := mset Tun.closedEnd s.tuns t x }
def Chip.ring (s : Chip) (r : Nat) : Ring := mget Ring.empty s.cores.rings r
def Chip.setRing (s : Chip) (r : Nat) (x : Ring) : Chip :=
  { s with cores := { s.cores with rings := mset Ring.empty s.cores.rings r x } }
def Chip.slot (s : Chip) (i : SlotId) : Slot := mget Slot.free s.mbx.slots (64 * i.sess.val + i.slot.val)
def Chip.setSlot (s : Chip) (i : SlotId) (x : Slot) : Chip :=
  { s with mbx := { s.mbx with slots := mset Slot.free s.mbx.slots (64 * i.sess.val + i.slot.val) x } }
def Chip.bus (s : Chip) (k : Nat) : Bus := mget {} s.cores.buses k
def Chip.setBus (s : Chip) (k : Nat) (x : Bus) : Chip :=
  { s with cores := { s.cores with buses := mset {} s.cores.buses k x } }

/-- The hand of a bench. -/
def benchHand (b h : Nat) : HandId := if hb : 4 * b + h < 66 then ⟨4 * b + h, hb⟩ else 0

/-- The core a hand belongs to: bench 0–15, 16 Porter, 17 Steward. -/
def coreOf (h : HandId) : Nat := if h.val < 64 then h.val / 4 else h.val - 48

/-- Raise a latched WAIT event at a hand (spec/11_fungatre_tunnel_instructions.md R309). -/
def Chip.raise (s : Chip) (h : HandId) (e : Nat) : Chip :=
  s.setHand h { s.hand h with events := setBit (s.hand h).events e }

/-! ### Rings -/

def Chip.ringValid (s : Chip) (r : Nat) : Bool := s.on (BCH_RING_VALID r)
def Chip.ringFrozen (s : Chip) (r : Nat) : Bool := s.on (BCH_RING_FROZEN r)
/-- The hand that a ring is bound to (R256). -/
def Chip.ringHand (s : Chip) (r : Nat) : HandId := benchHand (s.get (BCH_RING_BENCH r)) (s.get (BCH_RING_HAND r))

end Sys2Proof.Machine
end

