-- ==== Sys2Proof/Machine/Codes.lean ====
section
/-! DEFINITION. The codes the spec gives: CRC-8, CRC-32C and CRC-32, the Reed-Solomon code RS(128,120), the scrambler and the
striping of a flit, the rail hash. Bytes and field elements are worked on as numbers. -/

namespace Sys2Proof.Machine
open Sys2Proof

/-- Apply `f` `n` times. -/
def iter {α : Type} (n : Nat) (f : α → α) (x : α) : α :=
  match n with
  | 0 => x
  | k + 1 => iter k f (f x)

/-! ### Cyclic redundancy checks -/

def crcBit (poly st : Nat) : Nat := if st % 2 = 1 then st / 2 ^^^ poly else st / 2

/-- A bit-reflected CRC over bytes from a state, with no initial value and no final XOR. -/
def crcRun (poly st : Nat) (bs : List Byte) : Nat := bs.foldl (fun c b => iter 8 (crcBit poly) (c ^^^ b.toNat)) st

/-- The reflected polynomial of CRC-32C, 0x1EDC_6F41 (spec/03_trunk_link_layer.md R75). -/
def polyC : Nat := 0x82F63B78

/-- The reflected polynomial of the CRC-32 of IEEE 802.3, 0x04C1_1DB7 (spec/11_fungatre_tunnel_instructions.md R304). -/
def polyE : Nat := 0xEDB88320

/-- CRC-32C: initial value and final XOR 0xFFFF_FFFF (R75). -/
def crc32c (bs : List Byte) : Nat := crcRun polyC 0xFFFFFFFF bs ^^^ 0xFFFFFFFF

/-- The frame check sequence of IEEE 802.3. -/
def crc32e (bs : List Byte) : Nat := crcRun polyE 0xFFFFFFFF bs ^^^ 0xFFFFFFFF

def crc8Bit (st : Nat) : Nat := if st < 128 then 2 * st else (2 * st ^^^ 0x107) % 256

/-- CRC-8, polynomial 0x07, initial 0x00 (spec/02_trunk_lanes.md Table 2.8). -/
def crc8 (bs : List Byte) : Nat := bs.foldl (fun c b => iter 8 crc8Bit (c ^^^ b.toNat)) 0

/-! ### RS(128,120) over GF(2^8) (spec/03_trunk_link_layer.md R74) -/

/-- Multiplication by the primitive element 0x02. -/
def gfx (a : Nat) : Nat := if a < 128 then 2 * a else (2 * a ^^^ 0x11D) % 256

def gfmulAux (n a b : Nat) : Nat :=
  match n with
  | 0 => 0
  | k + 1 => (if b % 2 = 1 then a else 0) ^^^ gfmulAux k (gfx a) (b / 2)

def gfmul (a b : Nat) : Nat := gfmulAux 8 a b

/-- α to a power. -/
def gfpow (e : Nat) : Nat := iter (e % 255) gfx 1

/-- a^254: square and multiply over seven more bits. -/
def gfinv (a : Nat) : Nat := iter 6 (fun r => gfmul (gfmul r r) a) a |> fun r => gfmul r r

/-- The coefficients of the generator polynomial below x^8, highest first. -/
def rsGen : List Nat := [255, 11, 81, 54, 239, 173, 200, 24]

/-- The eight parity bytes of a 120-byte message. -/
def rsParity (msg : List Byte) : List Byte :=
  (msg.foldl (fun (r : List Nat) b =>
    let fb := b.toNat ^^^ r.getD 0 0
    List.zipWith (fun c g => c ^^^ gfmul fb g) (r.drop 1 ++ [0]) rsGen) (List.replicate 8 0)).map (BitVec.ofNat 8)

/-- Syndrome j of a received word, byte 0 the highest-order coefficient. -/
def rsSyndrome (word : List Byte) (j : Nat) : Nat := word.foldl (fun c b => iter j gfx c ^^^ b.toNat) 0

/-- A polynomial, lowest coefficient first, at a point. -/
def polyAt (p : List Nat) (x : Nat) : Nat :=
  match p with
  | [] => 0
  | c :: r => c ^^^ gfmul x (polyAt r x)

/-- Sum of polynomials. -/
def polyAdd (p q : List Nat) : List Nat :=
  match p, q with
  | [], q => q
  | p, [] => p
  | a :: p, b :: q => (a ^^^ b) :: polyAdd p q

/-- The state of the Berlekamp-Massey iteration: locator, previous locator, length, shift, previous discrepancy. -/
structure BmState where
  c : List Nat
  b : List Nat
  len : Nat
  m : Nat
  disc : Nat

def bmStep (syn : List Nat) (st : BmState) (n : Nat) : BmState :=
  let d := ((List.range (st.len + 1)).map (fun i => gfmul (st.c.getD i 0) (if i ≤ n then syn.getD (n - i) 0 else 0))).foldl (· ^^^ ·) 0
  if d = 0 then { st with m := st.m + 1 }
  else
    let corr := List.replicate st.m 0 ++ st.b.map (fun x => gfmul (gfmul d (gfinv st.disc)) x)
    let c' := polyAdd st.c corr
    if 2 * st.len ≤ n then ⟨c', st.c, n + 1 - st.len, 1, d⟩ else { st with c := c', m := st.m + 1 }

/-- Correct up to 4 byte errors anywhere in the 128 bytes; none if the word is beyond that (R74). -/
def rsDecode (word : List Byte) : Option (List Byte) :=
  let syn := (List.range 8).map (rsSyndrome word)
  if syn.all (· == 0) then some word
  else
    let st := (List.range 8).foldl (bmStep syn) ⟨[1], [1], 0, 1, 1⟩
    let roots := (List.range 128).filter (fun i => polyAt st.c (gfpow (255 - (127 - i))) = 0)
    if st.len > 4 ∨ roots.length ≠ st.len then none
    else
      let omega := (List.range 8).map (fun k =>
        ((List.range (k + 1)).map (fun i => gfmul (st.c.getD i 0) (syn.getD (k - i) 0))).foldl (· ^^^ ·) 0)
      let deriv := (List.range 4).map (fun k => if k % 2 = 0 then st.c.getD (k + 1) 0 else 0)
      let fixed := roots.foldl (fun (w : List Byte) i =>
        let xi := gfpow (255 - (127 - i))
        let y := gfmul (gfmul (gfpow (127 - i)) (polyAt omega xi)) (gfinv (polyAt deriv xi))
        w.set i ((w.getD i 0) ^^^ BitVec.ofNat 8 y)) word
      if ((List.range 8).map (rsSyndrome fixed)).all (· == 0) then some fixed else none

/-! ### Scrambler and striping (spec/02_trunk_lanes.md R37, R38) -/

/-- One bit through the self-synchronous scrambler x^58 + x^39 + 1; the state holds the last 58 bits sent, the latest lowest. -/
def scrBit (st inBit : Nat) : Nat × Nat :=
  let o := (inBit + bits st 38 1 + bits st 57 1) % 2
  (o, (2 * st + o) % 2 ^ 58)

/-- The 64 payload bits of a block, bit 0 first. -/
def scramble (st payload : Nat) : Nat × Nat :=
  (List.range 64).foldl (fun (r : Nat × Nat) i =>
    let x := scrBit r.2 (bits payload i 1)
    (r.1 + x.1 * 2 ^ i, x.2)) (0, st)

/-- The payload of a received block, bit 0 first, and the descrambler after it: each bit with the bits received 39 and 58 before it
(R37, R612). -/
def descramble (st payload : Nat) : Nat × Nat :=
  (List.range 64).foldl (fun (r : Nat × Nat) i =>
    let b := bits payload i 1
    (r.1 + (b + bits r.2 38 1 + bits r.2 57 1) % 2 * 2 ^ i, (2 * r.2 + b) % 2 ^ 58)) (0, st)

/-- A 66-bit block from its payload as sent: sync header 0b01 marks data, 0b10 control (R36). -/
def dataBlock (payload : Nat) : Nat := 4 * payload + 1
def controlBlock (payload : Nat) : Nat := 4 * payload + 2

/-- The blocks of one lane's share, each from its scrambler. -/
def scrambleAll (st : Nat) (payloads : List Nat) : List Nat × Nat :=
  payloads.foldl (fun (r : List Nat × Nat) x =>
    let y := scramble r.2 x
    (r.1 ++ [y.1], y.2)) ([], st)

/-- Logical lane `i`'s share of a flit at width `w`, as block payloads (R38). -/
def laneShare (flit : List Byte) (w i : Nat) : List Nat :=
  (List.range (16 / w)).map (fun blk => leNat ((List.range 8).map (fun k => flit.getD ((8 * blk + k) * w + i) 0)))

/-! ### The rail hash (spec/04_braid_and_graft.md R113) -/

/-- The hash h of a flow: source position, tunnel number and HASH_SEED. -/
def railHash (src tun seed : Nat) : Nat := bits (((src + 1024 * tun) ^^^ seed) * 2531 % 1048576) 12 8

end Sys2Proof.Machine
end

