-- ==== Sys2Proof/Machine/Switch.lean ====
section
/-! DEFINITION. The switch core (spec/06_switch_core.md): blocks and their accounts, admission, forwarding, multicast, mirroring,
the port flush, and the meanings of the switch's commands. -/

namespace Sys2Proof.Machine
open Sys2Proof Sys2Proof.Machine.Reg

/-! ### Accounts of the packet buffer (R165–R168) -/

/-- The first block of the keep store, and the end of the buffer (R165). -/
def keepFirst : Nat := 229376
def blockEnd : Nat := 262144

def Chip.blocks (s : Chip) : SMap Block := s.sw.blocks
def Chip.setSw (s : Chip) (x : Switch) : Chip := { s with sw := x }

def noBlock : Block := ⟨⟨0, []⟩, 0, 0, false, false, 0, .none, 0, none⟩

def Chip.block (s : Chip) (b : Nat) : Block := mget noBlock s.sw.blocks b
def Chip.setBlock (s : Chip) (b : Nat) (x : Block) : Chip :=
  s.setSw { s.sw with blocks := mset noBlock s.sw.blocks b x }

/-- occ[p]: blocks charged to the partition of port p. -/
def Chip.occ (s : Chip) (p : Nat) : Nat := (s.blocks.filter (fun e => e.2.charge = .part p)).length

def Charge.holds (c : Charge) (p : Nat) : Bool :=
  match c with
  | .shared ps => ps.contains p
  | _ => false

/-- shared[p]: blocks that port p holds from the shared pool. -/
def Chip.shr (s : Chip) (p : Nat) : Nat := (s.blocks.filter (fun e => e.2.charge.holds p)).length

def Charge.isShared (c : Charge) : Bool :=
  match c with
  | .shared _ => true
  | _ => false

/-- Blocks in use from the shared pool. -/
def Chip.sharedUsed (s : Chip) : Nat := (s.blocks.filter (fun e => e.2.charge.isShared)).length

/-- ΣRESERVE_p. -/
def Chip.reserved (s : Chip) : Nat := ((List.range 16).map (fun p => s.get (SWX_CARVE_RESERVE p))).sum

/-- Unused blocks of the shared pool; 0 while overdrawn (R166). -/
def Chip.freeShared (s : Chip) : Nat := keepFirst - s.reserved - s.sharedUsed

def Chip.overdrawn (s : Chip) : Bool := decide (keepFirst < s.reserved + s.sharedUsed)

/-- Free blocks of the keep store. -/
def Chip.keepFree (s : Chip) : Nat := blockEnd - keepFirst - mcount s.blocks keepFirst blockEnd

/-- Free descriptors (R164): those of the queues, of the flush walks, and of the cells that wait for a ring's take side are in use. -/
def Chip.descFree (s : Chip) : Nat :=
  393216 - ((s.sw.queues.map (fun e => e.2.length)).sum + (s.sw.walks.map (fun w => w.descs.length)).sum
    + (s.cores.rings.map (fun e => (e.2.queued.filter (fun x => x.blk.isSome)).length)).sum)

/-- The queue of a cell at a port (spec/07_scheduling_and_allotment.md R187). -/
def queueOf (c : Cell) : Nat := 8 * c.tc + c.tun % 8

def Chip.queue (s : Chip) (p q : Nat) : List Desc := mget [] s.sw.queues (64 * p + q)
def Chip.setQueue (s : Chip) (p q : Nat) (l : List Desc) : Chip :=
  s.setSw { s.sw with queues := mset [] s.sw.queues (64 * p + q) l }

/-- No stored cell waits at a port. -/
def Chip.portEmpty (s : Chip) (p : Nat) : Bool := (List.range 64).all (fun q => (s.queue p q).isEmpty)

/-- Free a block that nothing refers to and the keep store does not hold; a quarantined block stays (R183). -/
def Chip.tidyBlock (s : Chip) (b : Nat) : Chip :=
  let x := s.block b
  if x.refs = 0 ∧ x.keepHold = false ∧ x.quarantined = none then s.setBlock b noBlock else s

/-- One reference less. -/
def Chip.dropRef (s : Chip) (b : Nat) : Chip :=
  (s.setBlock b { s.block b with refs := (s.block b).refs - 1 }).tidyBlock b

/-- The keep store lets a copy go (R168, R222). -/
def Chip.dropKeep (s : Chip) (b : Nat) : Chip := (s.setBlock b { s.block b with keepHold := false }).tidyBlock b

/-! ### Forwarding (spec/04_braid_and_graft.md R114, spec/01_rows_and_nodes.md R20) -/

def memberState : Nat := 3

/-- A position is Member, or this node. -/
def Chip.present (s : Chip) (pos : Nat) : Bool :=
  s.get (BRD_TRELLIS_STATE pos) = memberState || pos = s.get BRD_STAT_POS

/-- Two adjacent missing positions lie strictly between `lo` and `hi` (R28). -/
def Chip.splitBetween (s : Chip) (lo hi : Nat) : Bool :=
  (List.range (hi - lo)).any (fun i => !s.present (lo + i) && !s.present (lo + i + 1) && decide (lo + i + 1 < hi))

/-- Position of the B head, if one is in the trellis or is this node. -/
def Chip.bHead (s : Chip) : Option Nat :=
  if s.get BRD_STAT_ROLE = 2 then some (s.get BRD_STAT_POS)
  else (List.range 1024).find? (fun p => s.get (BRD_TRELLIS_ROLE p) = 2 && s.get (BRD_TRELLIS_STATE p) = memberState)

/-- The serving head of this node's segment (R28): the A head where it lies in the segment, else the B head. -/
def Chip.servingHead (s : Chip) : Option Nat :=
  let n := s.get BRD_STAT_POS
  if s.get BRD_STAT_ROLE = 1 then some n
  else if s.get (BRD_TRELLIS_STATE 0) = memberState ∧ s.splitBetween 0 n = false then some 0
  else match s.bHead with
    | some b => if n ≤ b then (if s.splitBetween n b then none else some b) else none
    | none => none

def Chip.isServingHead (s : Chip) : Bool := s.servingHead = some (s.get BRD_STAT_POS)

/-- This node performs the duties of its segment's head: it serves it, and its Porter firmware runs
(spec/01_rows_and_nodes.md R24). -/
def Chip.headDuty (s : Chip) : Bool := s.isServingHead && s.boot.porter

/-- Where the forwarding rule sends a cell; at the serving head a cell for another row leaves on ETH0 for the plant network (R20). -/
inductive Route where
  | here | out (p : TPort) | plant | unreachable | noAddress
  deriving DecidableEq, Repr

def Chip.inService (s : Chip) (p : TPort) : Bool := bit (s.get BRD_PORT_SVC_IN_SERVICE) p.num

/-- The forwarding rule toward position `d` (R114). -/
def Chip.routeTo (s : Chip) (d : Nat) (rail : Bool) : Route :=
  let n := s.get BRD_STAT_POS
  if d = n then .here
  else
    let near : TPort := if d < n then .nu else .nd
    let skip : TPort := if d < n then .su else .sd
    let dist := if d < n then n - d else d - n
    if rail ∧ 2 ≤ dist ∧ s.inService skip then .out skip
    else if s.inService near then .out near
    else if 2 ≤ dist ∧ s.inService skip then .out skip
    else .unreachable

/-- The forwarding rule for a cell. -/
def Chip.route (s : Chip) (c : Cell) : Route :=
  if s.get BRD_STAT_POS_VALID = 0 then .noAddress
  else if c.drow = s.get BRD_STAT_ROW then s.routeTo c.dpos (c.flag 0)
  else match s.servingHead with
    | some d => if d = s.get BRD_STAT_POS then .plant else s.routeTo d (c.flag 0)
    | none => .unreachable

/-- The local port at which a tunnel ends: the port of its ring, or P12 (spec/08_tunnels_and_ordering.md R220, R227). -/
def Chip.tunPort (s : Chip) (t : Nat) : Nat :=
  if t = 0 ∨ 1024 ≤ t then 12
  else
    let r := (s.tun t).ring
    if s.ringValid r then s.get (BCH_RING_PORT r) else 12

/-- The entering node sets RAIL (R112, R113). -/
def Chip.setRail (s : Chip) (c : Cell) : Cell :=
  c.setFlag 0 (decide (railHash (s.get BRD_STAT_POS) c.tun (s.get BRD_RAIL_HASH_SEED) < s.get BRD_RAIL_SKIP_THR))

/-! ### Ports that are down (R177, R178) -/

/-- A port is down: nothing is enqueued to it. The spec does not say what becomes of a cell for it: the cell is discarded (DESIGN
CHOICE, log entry 43). P12 to P15 have no endpoint of their own that goes down. -/
def Chip.portOff (s : Chip) (p : Nat) : Bool :=
  match p with
  | 0 | 1 | 2 | 3 =>
    !s.domainOn (4 + p) || decide ((s.link (tport p)).state = .down) || decide ((s.link (tport p)).state = .init)
  | 4 => !s.domainOn 11 || decide (s.get (ETH_STAT_LINK 0) = 0)
  | 5 => !s.domainOn 11 || decide (s.get (ETH_STAT_LINK 1) = 0)
  | 6 => !s.domainOn 12 || decide (s.get PCI_CTL_EN = 0)
  | 7 => !s.domainOn 10
  | 8 => !s.domainOn 13 || decide (s.get USB_HOST_CTL_EN = 0)
  | 9 => !s.domainOn 14
  | 10 => !s.domainOn 8
  | 11 => !s.domainOn 9
  | _ => false

/-- While ETH1 is the analysis port, it carries only mirror frames (R174). -/
def Chip.onlyMirrors (s : Chip) (p : Nat) : Bool := decide (p = 5) && s.on SWX_MIR_CTL_EN

/-! ### Admission (R167, R168, R173) -/

inductive Admission where
  | charge (c : Charge) | discard | hold
  deriving DecidableEq, Repr

/-- The admission rule of a unicast cell at egress port p (R167). -/
def Chip.admission (s : Chip) (p tc : Nat) (kept : Bool) : Admission :=
  let occ := s.occ p
  let res := s.get (SWX_CARVE_RESERVE p)
  if 6 ≤ tc ∧ occ < res then .charge (.part p)
  else if occ < res - s.get (SWX_LIMIT_CTL_RES p) then .charge (.part p)
  else if s.shr p < s.get (SWX_LIMIT_SHARED_MAX p) ∧ 0 < s.freeShared then .charge (.shared [p])
  else if kept = false ∧ s.on SWX_CTL_LOOSE_DROP then .discard
  else .hold

/-- What became of a cell offered to the switch: the state, whether it must be held at its ingress, and its block. -/
structure Placed where
  chip : Chip
  held : Bool
  blk : Option Nat

/-- The switch records that an admission check held or discarded at a port (Table 6.11, OCC.FULL). -/
def Chip.setFull (s : Chip) (p : Nat) (b : Bool) : Chip := s.setSw { s.sw with full := mset false s.sw.full p b }

/-- Does flow matcher `f` match the cell (R174)? -/
def Chip.flowHit (s : Chip) (c : Cell) (f : Nat) : Bool :=
  bit (s.get SWX_MIR_CTL_FLOW_EN) f &&
  (let want := s.get (SWX_MIR_FLOW_NODE f) + 65536 * s.get (SWX_MIR_FLOW_TUN f)
   let mask := s.get (SWX_MIR_MASK_MASK f)
   decide ((c.dest + 65536 * c.tun) &&& mask = want &&& mask))

/-- One mirror copy of a stored block: a descriptor on ETH1 queue 63, or a count of drops (R175). -/
def Chip.mirror (s : Chip) (b : Nat) (point : Nat × Bool) : Chip :=
  if s.portOff 5 then s
  else if s.occ 5 ≥ s.get (SWX_CARVE_RESERVE 5) ∧ s.shr 5 ≥ s.get (SWX_LIMIT_SHARED_MAX 5) then
    (s.inc SWX_MIR_DROP).evt SWX_EVT_MIR_DROP
  else
    let x := s.block b
    (s.setBlock b { x with mirror := true, refs := x.refs + 1 }).setQueue 5 63 (s.queue 5 63 ++ [⟨b, .mirror point.1 point.2⟩])

/-- Mirror a stored cell at its ingress (R174). -/
def Chip.mirrorIn (s : Chip) (b ing : Nat) (c : Cell) : Chip :=
  if s.get SWX_MIR_CTL_EN = 0 then s
  else if bit (s.get SWX_MIR_PORTS_ING) ing ∨ (List.range 4).any (s.flowHit c) then s.mirror b (ing, false) else s

/-- Mirror a stored endpoint cell at its ingress; it has no destination node address that a flow could match (R174,
spec/15_ethernet_and_storage.md R398). -/
def Chip.mirrorEnd (s : Chip) (b ing : Nat) : Chip :=
  if s.get SWX_MIR_CTL_EN = 1 ∧ bit (s.get SWX_MIR_PORTS_ING) ing then s.mirror b (ing, false) else s

/-- Mirror a stored cell at its egress (R174). -/
def Chip.mirrorOut (s : Chip) (b p : Nat) : Chip :=
  if s.get SWX_MIR_CTL_EN = 1 ∧ bit (s.get SWX_MIR_PORTS_EGR) p then s.mirror b (p, true) else s

/-- Would the cell be mirrored anywhere (R169)? -/
def Chip.mirrored (s : Chip) (ing p : Nat) (c : Cell) : Bool :=
  decide (s.get SWX_MIR_CTL_EN = 1) &&
  (bit (s.get SWX_MIR_PORTS_ING) ing || bit (s.get SWX_MIR_PORTS_EGR) p || (List.range 4).any (s.flowHit c))

/-- Write a cell into a free block of its region: the keep store for a copy, else the rest of the buffer. The lowest free block
is taken (DESIGN CHOICE, log entry 6). -/
def Chip.store (s : Chip) (ing vc : Nat) (c : Cell) (keep : Bool) (ch : Charge) (refs : Nat) : Option (Nat × Chip) :=
  let region := if keep then (keepFirst, blockEnd) else (0, keepFirst)
  match mfree s.blocks region.1 region.2 with
  | none => none
  | some b =>
    some (b, s.setBlock b
      { cell := c, ingress := ing, vc := vc, keepHold := keep, mirror := false, refs := refs, charge := ch, tArr := s.stamp,
        quarantined := none })

/-- The block of an admitted cell: the one it was written to on receipt, which is now charged, or else a free one (R170). -/
def Chip.storeIn (s : Chip) (pre : Option Nat) (ing vc : Nat) (c : Cell) (ch : Charge) : Option (Nat × Chip) :=
  match pre with
  | some b => some (b, s.setBlock b { s.block b with charge := ch })
  | none => s.store ing vc c false ch 0

/-- A cell that goes no further gives up the block it was written to. -/
def Chip.giveUp (s : Chip) (pre : Option Nat) : Chip :=
  match pre with
  | some b => s.tidyBlock b
  | none => s

/-- One more descriptor of a block, on a port's queue (R187). -/
def Chip.enqueue (s : Chip) (b p q : Nat) (use : DescUse) : Chip :=
  let x := s.block b
  let s := s.setBlock b { x with refs := x.refs + 1 }
  (s.setQueue p q (s.queue p q ++ [⟨b, use⟩])).mirrorOut b p

/-- A cell that no port reaches is discarded and counted (R114). -/
def Chip.countUnreach (s : Chip) : Chip := (s.inc BRD_UNREACH_CNT).evt BRD_EVT_UNREACH

/-- The egress port of a route. -/
def Chip.routePort (s : Chip) (c : Cell) : Route → Nat
  | .out p => p.num
  | .plant => 4
  | _ => s.tunPort c.tun

/-- What a cell is at the port of its route. -/
def Route.use (resent : Bool) : Route → DescUse
  | .out _ => if resent then .resent else .plain
  | .plant => .row
  | _ => .tunnel resent

/-- A cell is mirrored at its ingress when it is stored, unless that was done at its verdict. -/
def Chip.mirrorNew (s : Chip) (pre : Option Nat) (b ing : Nat) (c : Cell) : Chip := if pre.isNone then s.mirrorIn b ing c else s

/-- While a rewrite holds Porter, a tunnel 0 cell that P12 has no room for is discarded unacknowledged
(spec/22_updates_and_planting.md R537). -/
def Chip.porterAway (s : Chip) (p : Nat) (c : Cell) : Bool := decide (p = 12 ∧ c.tun = 0) && s.upd.rewriting.isSome

/-- A unicast cell that is not kept here: charge it under R167 and queue it, discard it, or hold it. -/
def Chip.placeAt (s : Chip) (ing vc : Nat) (pre : Option Nat) (c : Cell) (r : Route) : Placed :=
  let p := s.routePort c r
  if s.portOff p ∨ s.onlyMirrors p then ⟨s.giveUp pre, false, none⟩
  else match s.admission p c.tc c.kept with
  | .discard => ⟨((s.setFull p true).inc (SWX_DROP p)).giveUp pre, false, none⟩
  | .hold => if s.porterAway p c then ⟨(s.setFull p true).giveUp pre, false, none⟩ else ⟨s.setFull p true, true, none⟩
  | .charge ch =>
    match s.storeIn pre ing vc c ch with
    | none => ⟨s.setFull p true, true, none⟩
    | some (b, s) =>
      ⟨((s.setFull p false).mirrorNew pre b ing c).enqueue b p (queueOf c) (r.use false), false, some b⟩

/-- A kept cell given at P10, P11, P12 or P14 takes a keep-store block and is charged to no partition (R168). -/
def Chip.placeKept (s : Chip) (ing : Nat) (c : Cell) (r : Route) : Placed :=
  match s.store ing 0 c true .keep 0 with
  | none => ⟨s, true, none⟩
  | some (b, s) =>
    match r with
    | .unreachable => ⟨s.countUnreach, false, some b⟩
    | r =>
      let p := s.routePort c r
      let s := s.mirrorIn b ing c
      ⟨if s.portOff p ∨ s.onlyMirrors p then s else s.enqueue b p (queueOf c) (r.use false), false, some b⟩

/-- The local ports of a multicast cell's group (R172). -/
def Chip.groupPorts (s : Chip) (c : Cell) : List Nat :=
  (List.range 12).filterMap (fun i => if bit (s.get (SWX_MCG_LOCAL (c.tun % 64))) i then some (i + 4) else none)

/-- The targets of a multicast cell that are not down: its forwarding's own, if any, and the local ports of its group (R172). An endpoint
port gets the cell as it is, and a bench cluster, Porter or Steward through the tunnel layer. -/
def Chip.targets (s : Chip) (c : Cell) (r : Route) : List (Nat × DescUse) :=
  let own := match r with
    | .out _ | .plant | .here => [(s.routePort c r, r.use false)]
    | _ => []
  let locals := ((s.groupPorts c).filter (fun p => !own.any (fun t => t.1 == p))).map
    (fun p => (p, if p < 10 then DescUse.plain else DescUse.tunnel false))
  (own ++ locals).filter (fun t => !s.portOff t.1 && !s.onlyMirrors t.1)

/-- A copy goes to one target. The Vault discards one that reaches P13, and counts it (spec/21_vault.md R509). -/
def Chip.copyTo (s : Chip) (b q : Nat) (t : Nat × DescUse) : Chip :=
  if t.1 = 13 then ((s.mirrorOut b 13).inc VLT_BAD_REQ).evt VLT_EVT_BAD_REQ else s.enqueue b t.1 q t.2

/-- A multicast cell is written once, charged to the shared pool, with one descriptor per target; else it is held (R173). -/
def Chip.placeMulti (s : Chip) (ing vc : Nat) (pre : Option Nat) (c : Cell) (r : Route) : Placed :=
  let targets := s.targets c r
  let s := if r = .unreachable then s.countUnreach else s
  let full (s : Chip) (b : Bool) : Chip := targets.foldl (fun (s : Chip) t => s.setFull t.1 b) s
  if targets.isEmpty then ⟨s.giveUp pre, false, none⟩
  else if s.freeShared = 0 ∨ targets.any (fun t => decide (s.get (SWX_LIMIT_SHARED_MAX t.1) ≤ s.shr t.1))
      ∨ s.descFree < targets.length then ⟨full s true, true, none⟩
  else
    match s.storeIn pre ing vc c (.shared (targets.map (·.1))) with
    | none => ⟨full s true, true, none⟩
    | some (b, s) =>
      let s := (full s false).mirrorNew pre b ing c
      ⟨(targets.foldl (fun (s : Chip) t => s.copyTo b (queueOf c) t) s).tidyBlock b, false, some b⟩

/-- Bytes in at a switch port: 112 for each cell (spec/24_tinker_and_records.md R573). -/
def Chip.countIn (s : Chip) (p : Nat) : Chip :=
  { s with log := { s.log with rxBytes := mset 0 s.log.rxBytes p ((mget 0 s.log.rxBytes p + 112) % 2 ^ 64) } }

/-- Bytes out at a switch port (R573). -/
def Chip.countOut (s : Chip) (p : Nat) : Chip :=
  { s with log := { s.log with txBytes := mset 0 s.log.txBytes p ((mget 0 s.log.txBytes p + 112) % 2 ^ 64) } }

/-- The switch ignores MCAST on a kept cell, and counts the cell (R172). -/
def Chip.countKept (s : Chip) (c : Cell) : Chip := if c.flag 1 ∧ c.kept then s.inc SWX_MCAST_KEPT else s

/-- Offer a cell to the switch at an ingress port: forwarding, multicast and admission together. `pre` is the block that the cell was
written to on receipt, and `keep` asks for a keep-store copy. Notices that end here are the braid logic's (R123). -/
def Chip.place (s : Chip) (ing vc : Nat) (pre : Option Nat) (c : Cell) (keep : Bool) : Placed :=
  let r := s.route c
  let s := (s.countIn ing).countKept c
  if c.flag 2 ∧ r = .here then ⟨s.giveUp pre, false, none⟩
  else if c.flag 1 ∧ c.kept = false then s.placeMulti ing vc pre c r
  else match r with
    | .noAddress => ⟨s.giveUp pre, false, none⟩
    | .unreachable => if keep then s.placeKept ing c r else ⟨s.countUnreach.giveUp pre, false, none⟩
    | r => if keep then s.placeKept ing c r else s.placeAt ing vc pre c r

/-- A cell held at its ingress (R167): SWX_EVT.HELD, and the cell waits its turn. -/
def Chip.holdCell (s : Chip) (ing vc : Nat) (pre : Option Nat) (c : Cell) : Chip :=
  (s.setSw { s.sw with held := s.sw.held ++ [⟨ing, vc, c, pre⟩] }).evt SWX_EVT_HELD

/-- A cell that stays where it was: only the record of its admission check remains. -/
def Chip.notPlaced (s : Chip) (r : Placed) : Chip := s.setSw { s.sw with full := r.chip.sw.full }

/-- Two cells join the same queue of the same port, and so keep their order. -/
def Chip.sameQueue (s : Chip) (c d : Cell) : Bool := decide (s.route c = s.route d ∧ queueOf c = queueOf d)

/-- An admission check of a cell would discard it. -/
def Chip.sheds (s : Chip) (c : Cell) : Bool :=
  match s.route c with
  | .out p => !c.flag 1 && decide (s.admission p.num c.tc c.kept = .discard)
  | .plant => !c.flag 1 && decide (s.admission 4 c.tc c.kept = .discard)
  | .here => !c.flag 1 && decide (s.admission (s.tunPort c.tun) c.tc c.kept = .discard)
  | _ => true

/-- Offer a cell that no ring holds back: it is placed, or held at its ingress. A cell of the same ingress and queue that is held
already goes first. -/
def Chip.offer (s : Chip) (ing vc : Nat) (pre : Option Nat) (c : Cell) : Bool × Chip :=
  if s.sw.held.any (fun y => y.ingress == ing && s.sameQueue c y.cell) ∧ s.sheds c = false then (false, s.holdCell ing vc pre c)
  else
    let r := s.place ing vc pre c false
    if r.held then (false, (s.notPlaced r).holdCell ing vc pre c) else (true, r.chip)

/-- A cell given for a local endpoint port goes from the ring's cluster port to that port's queue with no forwarding
(spec/15_ethernet_and_storage.md R398, R407; spec/16_peripheral_bus.md R418; spec/17_display.md R448). The flow rule of R174 matches
destination node addresses, which it has none of (DEDUCED, log entry 44). -/
def Chip.placeLocal (s : Chip) (ing p : Nat) (c : Cell) (use : DescUse) : Placed :=
  let s := s.countIn ing
  if s.portOff p ∨ s.onlyMirrors p then ⟨s, false, none⟩
  else match s.admission p c.tc false with
  | .discard => ⟨(s.setFull p true).inc (SWX_DROP p), false, none⟩
  | .hold => ⟨s.setFull p true, true, none⟩
  | .charge ch =>
    match s.store ing 0 c false ch 0 with
    | none => ⟨s.setFull p true, true, none⟩
    | some (b, s) => ⟨((s.setFull p false).mirrorEnd b ing).enqueue b p (queueOf c) use, false, some b⟩

/-- A cell given on a ring to an endpoint port. -/
def Chip.placeEndpoint (s : Chip) (ing p : Nat) (c : Cell) : Placed := s.placeLocal ing p c .given

/-- The cluster port that the cells of a ring's bench go out at (Table 6.1). -/
def Chip.clusterOf (s : Chip) (r : Nat) : Nat := if s.get (BCH_RING_BENCH r) < 8 then 10 else 11

/-- Put a kept copy on a queue again with RESENT set, forwarded afresh; nothing is written (R168, R224, R226). -/
def Chip.requeue (s : Chip) (b : Nat) : Chip :=
  let c := (s.block b).cell
  match s.route c with
  | .unreachable => s.countUnreach
  | .noAddress => s
  | r =>
    let p := s.routePort c r
    if s.portOff p ∨ s.onlyMirrors p then s else s.enqueue b p (queueOf c) (r.use true)

/-- The cell that a descriptor sends. -/
def Chip.descCell (s : Chip) (d : Desc) : Cell :=
  let c := (s.block d.blk).cell
  if d.use = .resent ∨ d.use = .tunnel true then c.setFlag 5 true else c

def DescUse.isMirror : DescUse → Bool
  | .mirror _ _ => true
  | _ => false

/-- A descriptor is done with. MIRROR clears with the last mirror copy of its block. -/
def Chip.dropDesc (s : Chip) (d : Desc) : Chip :=
  let s := if d.use.isMirror ∧ (s.queue 5 63).any (fun e => e.blk == d.blk) = false then
    s.setBlock d.blk { s.block d.blk with mirror := false } else s
  s.dropRef d.blk

/-- A link of width and rate: the order of cell rates of Table 2.2, higher for faster. -/
def Chip.cellRate (s : Chip) (p : TPort) : Nat :=
  8 / 2 ^ s.get (TRK_STAT_WIDTH p.num) * 8 / 2 ^ s.get (TRK_STAT_RATE p.num)

/-! ### Port flush (R177, R178) -/

/-- All descriptors queued at a port. -/
def Chip.portDescs (s : Chip) (p : Nat) : List Desc := (List.range 64).flatMap (fun q => s.queue p q)

/-- The rings of a bench cluster port. -/
def Chip.clusterRings (s : Chip) (p : Nat) : List Nat :=
  if p = 10 ∨ p = 11 then (List.range 64).filter (fun r => s.ringValid r && decide (s.clusterOf r = p)) else []

/-- Descriptors of the cells that wait at a cluster port for the take side of their ring. -/
def Chip.ringDescs (s : Chip) (p : Nat) : List Desc :=
  (s.clusterRings p).flatMap (fun r => (s.ring r).queued.filterMap (fun e => e.blk.map (fun b => ⟨b, .tunnel false⟩)))

/-- Detach a port's queues. -/
def Chip.detach (s : Chip) (p : Nat) : Chip :=
  let s := s.setSw { s.sw with queues := s.sw.queues.filter (fun e => e.1 / 64 != p) }
  (s.clusterRings p).foldl (fun (s : Chip) r =>
    s.setRing r { s.ring r with queued := (s.ring r).queued.filter (fun e => e.blk.isNone) }) s

/-- A port goes down: its queues are detached, its deficits fall to 0 (R197), and a walk starts (R178). -/
def Chip.portDown (s : Chip) (p : Nat) (lost : PerVc) : Chip :=
  let w : Walk := { port := p, descs := s.portDescs p ++ s.ringDescs p, lost := lost }
  let s := s.detach p
  let s := s.setSw { s.sw with
    walks := s.sw.walks ++ [w], deficit := s.sw.deficit.filter (fun e => e.1 / 64 != p) }
  s.put SWX_STAT_FLUSH_BUSY 1

/-! ### Commands of the switch -/

/-- A write to RESERVE_p (R166). -/
def swxCarve (p : Fin 16) (value : Word) (s : Chip) : Chip :=
  let v := value.toNat % 2 ^ 18
  let old := s.get (SWX_CARVE_RESERVE p)
  if keepFirst < s.reserved - old + v then s.evt SWX_EVT_CARVE_ERR
  else
    let excess := s.occ p - v
    let spill := ((s.blocks.filter (fun e => e.2.charge = .part p)).take excess).map (·.1)
    let s := spill.foldl (fun (s : Chip) b => s.setBlock b { s.block b with charge := .shared [p] }) s
    s.put (SWX_CARVE_RESERVE p) v

def execSwxCarve (p : Fin 16) (value : Word) (s : State) : Result := s.onChip (swxCarve p value)

/-- A write to SWX_MIR_CTL: setting EN makes ETH1 the analysis port and flushes its queues (R174). -/
def mirCtl (value : Word) (s : Chip) : Chip :=
  let en := value.toNat % 2
  let s := if en = 1 ∧ s.get SWX_MIR_CTL_EN = 0 then s.portDown 5 ⟨0, 0, 0, 0⟩ else s
  (s.put SWX_MIR_CTL_EN en).put SWX_MIR_CTL_FLOW_EN (bits value.toNat 1 4)

def execMirCtlEn (value : Word) (s : State) : Result := s.onChip (mirCtl value)

/-- An uncorrectable word of a block is counted and recorded (R182, R183). -/
def Chip.countUncorr (s : Chip) (b word : Nat) : Chip :=
  (((s.inc SWX_ECC_UNCORR).put SWX_ECC_ADDR_BLOCK b).put SWX_ECC_ADDR_WORD word).evt SWX_EVT_ECC_UNCORR

/-- A word of block metadata beyond correction quarantines the block (R183). -/
def Chip.quarantine (s : Chip) (b word : Nat) : Chip :=
  if 14 ≤ word then s.setBlock b { s.block b with quarantined := some word } else s

end Sys2Proof.Machine
end

