-- ==== Sys2Proof/Machine/Credits.lean ====
section
/-! DEFINITION. The credits of shapers and policers (spec/07_scheduling_and_allotment.md R196, R198). -/

namespace Sys2Proof.Machine
open Sys2Proof Sys2Proof.Machine.Reg

/-- One byte in the units of the credit maps. -/
def byteCredit : Nat := 96000

/-- Credit of a queue's shaper now: what it had when last settled and what it has earned since, capped at BURST. -/
def Chip.shaperCredit (s : Chip) (p q : Nat) : Int :=
  let k := 64 * p + q
  min ((s.get (SCH_QCFG_BURST p q) * 64 * byteCredit : Nat) : Int)
    (mget 0 s.sw.shaper k + ((s.get (SCH_QRATE_RATE p q) * (s.tick - mget 0 s.sw.shaperAt k) : Nat) : Int))

/-- Settle a shaper at now, less a cost in bytes. -/
def Chip.chargeShaper (s : Chip) (p q cost : Nat) : Chip :=
  let k := 64 * p + q
  s.setSw { s.sw with
    shaper := mset 0 s.sw.shaper k (s.shaperCredit p q - ((cost * byteCredit : Nat) : Int)),
    shaperAt := mset 0 s.sw.shaperAt k s.tick }

/-- Reset value of POL_BURST, in the units of the credit maps. -/
def polReset : Int := ((16384 * byteCredit : Nat) : Int)

/-- Credit of a tunnel's policer now. -/
def Chip.polCredit (s : Chip) (t : Nat) : Int :=
  min ((s.get (SCH_POL_BURST_BURST t) * byteCredit : Nat) : Int)
    (polReset + mget 0 s.sw.policer t + ((s.get (SCH_POL_RATE_RATE t) * (s.tick - mget 0 s.sw.policerAt t) : Nat) : Int))

/-- Settle a policer at now, less a cost in bytes. -/
def Chip.chargePol (s : Chip) (t cost : Nat) : Chip :=
  s.setSw { s.sw with
    policer := mset 0 s.sw.policer t (s.polCredit t - ((cost * byteCredit : Nat) : Int) - polReset),
    policerAt := mset 0 s.sw.policerAt t s.tick }

/-- A change of a queue's RATE or BURST keeps the credit and caps it at the new BURST (R196). -/
def Chip.setShaper (s : Chip) (p q rate burst : Nat) : Chip :=
  let s := s.chargeShaper p q 0
  ((s.put (SCH_QRATE_RATE p q) rate).put (SCH_QCFG_BURST p q) burst).chargeShaper p q 0

/-- A change of a tunnel's POL_RATE or POL_BURST (R198). -/
def Chip.setPolicer (s : Chip) (t rate burst : Nat) : Chip :=
  let s := s.chargePol t 0
  ((s.put (SCH_POL_RATE_RATE t) rate).put (SCH_POL_BURST_BURST t) burst).chargePol t 0

end Sys2Proof.Machine
end

