-- ==== Sys2Proof/Machine/Tink.lean ====
section
/-! DEFINITION. What Tinker's perturbations do where they act (spec/24_tinker_and_records.md R567, R568). Nothing here changes a
bit of what is sent: it only delays or withholds. -/

namespace Sys2Proof.Machine
open Sys2Proof Sys2Proof.Machine.Reg

/-- Perturbations act: the stance is TEST and TNK_CTL.EN is 1. -/
def Chip.tinkerOn (s : Chip) : Bool := decide (s.get GLB_STANCE_STANCE = 1) && s.on TNK_CTL_EN

/-- The freed count of a VC that a flit may return: increases that Tinker delays are not yet eligible. -/
def Chip.creditFreed (s : Chip) (p : TPort) (v : Nat) : Nat :=
  let l := s.link p
  let late := if s.tinkerOn then (l.delayed.filter (fun e => decide (s.tick < e.1 ∧ e.2 = v))).length else 0
  (l.freed.get v + 1024 - late % 1024) % 1024

/-- A receive buffer of a VC is freed while its returns are delayed. -/
def Chip.delayCredit (s : Chip) (p : TPort) (v : Nat) : Chip :=
  let d := s.get (TNK_CR_DELAY_DELAY p.num)
  let l := s.link p
  if s.tinkerOn ∧ bit (s.get (TNK_CR_DELAY_VCS p.num)) v ∧ 0 < d then
    s.setLink p { l with delayed := l.delayed.filter (fun e => decide (s.tick < e.1)) ++ [(s.tick + d, v)] }
  else s

/-- The receive sequence number as ACK_SEQ shows it: stretched, as it stood DELAY cycles earlier. -/
def Chip.shownExpect (s : Chip) (p : TPort) : Nat :=
  let l := s.link p
  let d := s.get (TNK_ACK_STRETCH_DELAY p.num)
  if s.tinkerOn ∧ 0 < d then
    match l.ackPast.find? (fun e => decide (s.tick < e.1 + d)) with
    | some e => e.2
    | none => l.expect
  else l.expect

/-- The receive sequence number is about to change. -/
def Chip.stretchAck (s : Chip) (p : TPort) : Chip :=
  let l := s.link p
  let d := s.get (TNK_ACK_STRETCH_DELAY p.num)
  if s.tinkerOn ∧ 0 < d then
    s.setLink p { l with ackPast := l.ackPast.filter (fun e => decide (s.tick < e.1 + d)) ++ [(s.tick, l.expect)] }
  else s

/-- The tick from which a beacon that falls due now may leave. -/
def Chip.beaconFrom (s : Chip) (p : TPort) : Nat :=
  if s.tinkerOn then s.tick + 1200 * s.get (TNK_BEACON_DELAY_DELAY p.num) else s.tick

/-- A beacon is due and may leave. -/
def Chip.beaconReady (s : Chip) (p : TPort) : Bool :=
  (s.link p).beaconDue && (!s.tinkerOn || decide ((s.link p).beaconAt ≤ s.tick))

/-- A HOLD named a virtual channel within the last CREDIT_TMO (spec/03_trunk_link_layer.md R96, Table 3.9). -/
def Chip.heldBy (s : Chip) (p : TPort) (v : Nat) : Bool :=
  let a := (s.link p).holdAt.get v
  decide (a ≠ 0 ∧ s.tick + 1 < a + ticksOfNs (s.get (LNK_TMO_B_CREDIT_TMO p.num) * 1000))

/-- HOLD_RX. -/
def Chip.holdMask (s : Chip) (p : TPort) : Nat :=
  b2n (s.heldBy p 0) + 2 * b2n (s.heldBy p 1) + 4 * b2n (s.heldBy p 2) + 8 * b2n (s.heldBy p 3)

/-- Forced back-pressure withholds a queue at present. -/
def Chip.withheld (s : Chip) (p q : Nat) : Bool :=
  let step := s.get TNK_BP_CTL_STEP
  let i := (s.tick - s.tink.bpFrom) / (1200 * step) % s.get TNK_BP_CTL_LEN
  s.tinkerOn && decide (p = s.get TNK_BP_CTL_PORT) && bit (s.get TNK_BP_PATTERN_PATTERN) i
  && bit (s.get TNK_BP_MASK_LO_MASK + 2 ^ 32 * s.get TNK_BP_MASK_HI_MASK) q

/-- The next state of the 32-bit LFSR x^32 + x^22 + x^2 + x + 1, shifted up by the exclusive or of its taps (DESIGN CHOICE, log entry 7). -/
def lfsrNext (x : Nat) : Nat :=
  let b := (bit x 31 != bit x 21) != (bit x 1 != bit x 0)
  x * 2 % 2 ^ 32 + b2n b

/-- A WAIT with a timeout issued by a core that TNK_JIT names takes the next value of the LFSR. -/
def Chip.jitter (s : Chip) (core : Nat) : Chip :=
  let named := if core < 16 then bit (s.get TNK_JIT_BENCHES) core else if core = 16 then s.on TNK_JIT_PORTER else s.on TNK_JIT_STEWARD
  if s.tinkerOn && named then s.put TNK_SEED_SEED (lfsrNext (s.get TNK_SEED_SEED)) else s

end Sys2Proof.Machine
end

