-- ==== Sys2Proof/Machine/Gates.lean ====
section
/-! DEFINITION. The scheduler (spec/07_scheduling_and_allotment.md R187–R197): time gates and their commands, and the choice of the queue
that a port serves. -/

namespace Sys2Proof.Machine
open Sys2Proof Sys2Proof.Machine.Reg

/-! ### Time gates (R190–R194) -/

def Chip.gateBase (s : Chip) (p b : Nat) : Nat :=
  s.get (SCH_GATE_BASE_LO_BASE p b) + 2 ^ 32 * s.get (SCH_GATE_BASE_HI_BASE p b)

def Chip.gateLen (s : Chip) (p b : Nat) : Nat := if b = 0 then s.get (SCH_GATE_CTL_LEN_0 p) else s.get (SCH_GATE_CTL_LEN_1 p)

/-- The cycle of a bank in force at `now`: its start and its end. -/
def Chip.gateCycle (s : Chip) (p b now : Nat) : Int × Int :=
  let base : Int := s.gateBase p b
  let cycle : Int := s.get (SCH_GATE_CYCLE_CYCLE p b)
  let start := (now : Int) - ((now : Int) - base) % cycle
  (start, start + cycle)

/-- End of entry `e` within its cycle: the sum of the durations up to it; the last entry holds to the cycle's end (R191). -/
def Chip.entryEnd (s : Chip) (p b e : Nat) : Nat :=
  let cycle := s.get (SCH_GATE_CYCLE_CYCLE p b)
  let sum := ((List.range (e + 1)).map (fun i => s.get (SCH_GCL_DUR_DURATION p b i))).sum
  if s.gateLen p b ≤ e + 1 then cycle else min sum cycle

/-- The entry in force at an offset in the cycle. -/
def Chip.entryAt (s : Chip) (p b off : Nat) : Nat :=
  ((List.range (s.gateLen p b)).find? (fun e => decide (off < s.entryEnd p b e))).getD (s.gateLen p b - 1)

/-- Put the entry in force at chain time into SCH_GATE_STAT. -/
def Chip.setGate (s : Chip) (p : Nat) : Chip :=
  let b := s.get (SCH_GATE_CTL_ACT_BANK p)
  let e := s.entryAt p b ((s.ns : Int) - (s.gateCycle p b s.ns).1).toNat
  (s.put (SCH_GATE_STAT_ENTRY p) e).put (SCH_GATE_STAT_OPEN p) (s.get (SCH_GCL_OPEN_OPEN p b e))

/-- A gate entry or a cycle start takes effect at its chain-time instant (R191, R144). -/
def execGateEntry (p : Fin 16) (s : State) : Result := s.onChip (fun c => c.setGate p)

/-- The instant of a pending switch: the first cycle start of the new bank at or after the change time (R194). -/
def Chip.switchAt (s : Chip) (p : Nat) : Int :=
  let b := 1 - s.get (SCH_GATE_CTL_ACT_BANK p)
  let chg : Int := ((s.get (SCH_GATE_CHG_LO_CHG p) + 2 ^ 32 * s.get (SCH_GATE_CHG_HI_CHG p) : Nat) : Int)
  chg + ((s.gateBase p b : Int) - chg) % (s.get (SCH_GATE_CYCLE_CYCLE p b) : Int)

/-- The port switches banks once chain time reaches the instant (R194). -/
def gateSwitch (p : Nat) (s : Chip) : Chip :=
  if s.get (SCH_GATE_CTL_PEND p) = 0 ∨ (s.ns : Int) < s.switchAt p then s
  else
    let s := s.put (SCH_GATE_CTL_ACT_BANK p) (1 - s.get (SCH_GATE_CTL_ACT_BANK p))
    ((s.put (SCH_GATE_CTL_PEND p) 0).evt SCH_EVT_GATE_SWITCH).setGate p

def execGateSwitch (p : Fin 16) (s : State) : Result := s.onChip (gateSwitch p)

/-- A write to SCH_GATE_CTL_p (R194, R5): LEN_0 and LEN_1 take 1–64; while a switch is pending the inactive bank's length is kept,
and a write that would change it is an error; ARM sets a switch pending, unless one is. -/
def gateCtlWrite (p : Nat) (v : Nat) (s : Chip) : Chip :=
  let pend := s.on (SCH_GATE_CTL_PEND p)
  let act := s.get (SCH_GATE_CTL_ACT_BANK p)
  let len (b old : Nat) : Nat := if 1 ≤ bits v (8 * b) 7 ∧ bits v (8 * b) 7 ≤ 64 then bits v (8 * b) 7 else old
  let new0 := len 0 (s.get (SCH_GATE_CTL_LEN_0 p))
  let new1 := len 1 (s.get (SCH_GATE_CTL_LEN_1 p))
  let err := pend && (if act = 0 then decide (new1 ≠ s.get (SCH_GATE_CTL_LEN_1 p)) else decide (new0 ≠ s.get (SCH_GATE_CTL_LEN_0 p)))
  let s := if pend ∧ act = 1 then s else s.put (SCH_GATE_CTL_LEN_0 p) new0
  let s := if pend ∧ act = 0 then s else s.put (SCH_GATE_CTL_LEN_1 p) new1
  let s := if err then s.evt SCH_EVT_GATE_ERR else s
  if bit v 17 ∧ pend = false then s.put (SCH_GATE_CTL_PEND p) 1 else s

def execArm (p : Fin 16) (value : Word) (s : State) : Result := s.onChip (gateCtlWrite p value.toNat)

/-- Which gate bank register an address names: its port, its bank and its offset in the port set. -/
def gateAddr (addr : Nat) : Option (Nat × Nat × Nat) :=
  if addr < 0x88000 ∨ 0x90000 ≤ addr then none
  else
    let p := (addr - 0x88000) / 0x800
    let o := (addr - 0x88000) % 0x800
    if 0x10 ≤ o ∧ o < 0x18 then some (p, (o - 0x10) / 4, o)
    else if 0x20 ≤ o ∧ o < 0x30 then some (p, (o - 0x20) / 8, o)
    else if 0x400 ≤ o then some (p, (o - 0x400) / 0x200, o)
    else none

/-- A write to an entry, the CYCLE or the BASE of a gate bank: while a switch is pending, the inactive bank keeps its value and the
write is an error (R194); a reserved encoding leaves the field (R5). -/
def gateBankSet (addr v : Nat) (s : Chip) : Chip :=
  match gateAddr addr with
  | none => s
  | some (p, b, o) =>
    if s.on (SCH_GATE_CTL_PEND p) ∧ b ≠ s.get (SCH_GATE_CTL_ACT_BANK p) then s.evt SCH_EVT_GATE_ERR
    else if o < 0x18 then
      let n := bits v 0 30
      if 1000 ≤ n ∧ n ≤ 1000000000 then s.put (SCH_GATE_CYCLE_CYCLE p b) n else s
    else if o < 0x30 then
      if o % 8 = 0 then s.put (SCH_GATE_BASE_LO_BASE p b) v else s.put (SCH_GATE_BASE_HI_BASE p b) v
    else
      let e := (o - 0x400) % 0x200 / 8
      if o % 8 = 0 then s.put (SCH_GCL_OPEN_OPEN p b e) v
      else
        let n := bits v 0 30
        if 1 ≤ n ∧ n ≤ 1000000000 then s.put (SCH_GCL_DUR_DURATION p b e) n else s

/-- A write to a gate bank's registers (R194). -/
def execGateBankWrite (addr : BitVec 24) (value : Word) (s : State) : Result :=
  s.onChip (gateBankSet (addr.toNat / 4 * 4) value.toNat)

/-- The open time remaining to a class at a port, in 2^-32 ns, counted to the end of the next entry where that opens the class too
(R192); a pending switch within that entry cuts it short (R194). A gate entry that is overdue leaves nothing. -/
def Chip.gateLeft (s : Chip) (p tc : Nat) : Nat :=
  let b := s.get (SCH_GATE_CTL_ACT_BANK p)
  let e := s.get (SCH_GATE_STAT_ENTRY p)
  let c := s.gateCycle p b s.ns
  let first : Int := c.1 + ((if e = 0 then 0 else s.entryEnd p b (e - 1) : Nat) : Int)
  let last : Int := c.1 + (s.entryEnd p b e : Int)
  let pend := s.on (SCH_GATE_CTL_PEND p) && decide (s.switchAt p ≤ last)
  let nb := 1 - b
  let stop : Int := if pend then max (s.switchAt p) s.ns else last
  let atEnd := decide (c.2 ≤ last)
  let next : Bool × Int :=
    if pend then (bit (s.get (SCH_GCL_OPEN_OPEN p nb 0)) tc, stop + (s.entryEnd p nb 0 : Int))
    else if atEnd then (bit (s.get (SCH_GCL_OPEN_OPEN p b 0)) tc, last + (s.entryEnd p b 0 : Int))
    else (bit (s.get (SCH_GCL_OPEN_OPEN p b (e + 1))) tc, c.1 + (s.entryEnd p b (e + 1) : Int))
  if (s.ns : Int) < first ∨ last ≤ s.ns ∨ bit (s.get (SCH_GATE_STAT_OPEN p)) tc = false then 0
  else
    let cut : Int := if s.on (SCH_GATE_CTL_PEND p) ∧ pend = false then min next.2 (s.switchAt p) else next.2
    let lim := if next.1 then cut else stop
    (lim * 2 ^ 32 - (s.chain.count : Int)).toNat

/-- A flit's duration at a trunk port's width and rate, in 2^-32 ns (R192). -/
def Chip.flitTime (s : Chip) (p : Nat) : Nat :=
  (2 * 2 ^ s.get (TRK_STAT_WIDTH p) * 660 * 2 ^ s.get (TRK_STAT_RATE p) * 2 ^ 32 + 287) / 288

/-! ### Selection (R188, R189, R195) -/

/-- The eligibility of a queue, but for its port's own conditions: not empty, gate open with room, shaper credit, and no forced
back-pressure (R188, spec/24_tinker_and_records.md R567). -/
def Chip.eligible (s : Chip) (p q need : Nat) : Bool :=
  !(s.queue p q).isEmpty && !s.withheld p q
  && (if need = 0 then bit (s.get (SCH_GATE_STAT_OPEN p)) (q / 8) else decide (need ≤ s.gateLeft p (q / 8)))
  && (decide (s.get (SCH_QRATE_RATE p q) = 0) || decide (0 ≤ s.shaperCredit p q))

/-- The first of eight queues from `base` that qualifies, after the one served last. -/
def firstAfter (base last : Nat) (ok : Nat → Bool) : Option Nat :=
  ((List.range 8).map (fun i => base + (last + 1 + i) % 8)).find? ok

/-- Deficit round robin over queues 0–47 (R189): `moves` counts the moves of the pointer still allowed, `fuel` the tests. -/
def Chip.drr (s : Chip) (p : Nat) (ok : Nat → Bool) (cost : Nat → Nat) (moves fuel : Nat) : Option Nat × Chip :=
  match fuel with
  | 0 => (none, s)
  | n + 1 =>
    if moves = 0 then (none, s)
    else
      let q := mget 0 s.sw.drrPtr p
      let k := 64 * p + q
      let def_ := mget 0 s.sw.deficit k
      let on := ok q && !(s.queue p q).isEmpty
      if on ∧ cost q ≤ def_ then (some q, s.setSw { s.sw with deficit := mset 0 s.sw.deficit k (def_ - cost q) })
      else if on ∧ mget false s.sw.visited k = false then
        Chip.drr (s.setSw { s.sw with
          deficit := mset 0 s.sw.deficit k (def_ + s.get (SCH_QCFG_QUANTUM p q)),
          visited := mset false s.sw.visited k true }) p ok cost moves n
      else
        Chip.drr (s.setSw { s.sw with
          deficit := if (s.queue p q).isEmpty then mset 0 s.sw.deficit k 0 else s.sw.deficit,
          visited := mset false s.sw.visited k false,
          drrPtr := mset 0 s.sw.drrPtr p ((q + 1) % 48) }) p ok cost (moves - 1) n

/-- The queue served at a sending opportunity (R189). -/
def Chip.select (s : Chip) (p : Nat) (ok : Nat → Bool) (cost : Nat → Nat) : Option Nat × Chip :=
  let last7 := (mget 0 s.sw.lastTc7 p + 7) % 8
  let last6 := (mget 0 s.sw.lastTc6 p + 7) % 8
  match firstAfter 56 last7 ok with
  | some q => (some q, s.setSw { s.sw with lastTc7 := mset 0 s.sw.lastTc7 p ((q - 56 + 1) % 8) })
  | none =>
    match firstAfter 48 last6 ok with
    | some q => (some q, s.setSw { s.sw with lastTc6 := mset 0 s.sw.lastTc6 p ((q - 48 + 1) % 8) })
    | none => s.drr p ok cost 48 97

/-- Serving a queue takes its head off and deducts the cost from its shaper; a queue that empties loses its deficit (R189). -/
def Chip.serve (s : Chip) (p q cost : Nat) : Option Desc × Chip :=
  match s.queue p q with
  | [] => (none, s)
  | d :: rest =>
    let s := s.setQueue p q rest
    let s := if s.get (SCH_QRATE_RATE p q) = 0 then s else s.chargeShaper p q cost
    (some d, if rest.isEmpty then s.setSw { s.sw with deficit := mset 0 s.sw.deficit (64 * p + q) 0 } else s)

/-! ### Local ports (R188, R189, R192, R195) -/

/-- The queue that a local port of P6 to P15 serves next: a cell costs 112, and no fit check is made. -/
def Chip.nextLocal (s : Chip) (p : Nat) : Option Nat × Chip := s.select p (fun q => s.eligible p q 0) (fun _ => 112)

/-- The scheduler's choice at a local port leaves its queue, where it is a descriptor that is wanted. -/
def Chip.takeLocal (s : Chip) (p : Nat) (want : Desc → Bool) : Option (Desc × Chip) :=
  let r := s.nextLocal p
  match r.1 with
  | none => none
  | some q =>
    match s.queue p q with
    | [] => none
    | d :: _ => if want d then some (d, (r.2.serve p q 112).2.countOut p) else none

end Sys2Proof.Machine
end

