-- ==== Sys2Proof/Machine/Remap.lean ====
section
/-! DEFINITION. Spare rows of the memories, and the remap of a row (spec/23_in_service_repair.md R549–R551). -/

namespace Sys2Proof.Machine
open Sys2Proof Sys2Proof.Machine.Reg

/-- Banks of a memory, for an instance (Table 23.3); 0 where there is no such memory or instance. -/
def memBanks (mem inst : Nat) : Nat :=
  match mem with
  | 0 => if inst = 0 then 64 else 0
  | 1 => if inst < 16 then 16 else 0
  | 2 => if inst < 32 then 8 else 0
  | 3 => if inst = 0 then 80 else 0
  | 4 => if inst = 0 then 14 else if inst = 1 then 16 else 0
  | 5 => if inst = 0 then 4 else 0
  | _ => 0

/-- Rows of a bank. -/
def memRows (mem : Nat) : Nat :=
  match mem with
  | 0 => 4096
  | 1 => 512
  | 2 => 512
  | 3 => 4096
  | 4 => 1024
  | 5 => 1024
  | _ => 0

/-- Spare rows of a bank. -/
def memSpares (mem : Nat) : Nat :=
  match mem with
  | 0 => 8
  | 1 => 4
  | 2 => 2
  | 3 => 8
  | 4 => 4
  | 5 => 2
  | _ => 0

def bankKey (mem inst bank : Nat) : Nat := (mem * 32 + inst) * 128 + bank

/-- Spare rows of a bank in use. -/
def Chip.rowsUsed (s : Chip) (mem inst bank : Nat) : Nat := mget 0 s.rep.used (bankKey mem inst bank)

/-- The bank has a free spare row. -/
def Chip.rowFree (s : Chip) (mem inst bank : Nat) : Bool := decide (s.rowsUsed mem inst bank < memSpares mem)

/-- The row that holds a byte address of a memory, counted through its banks (DESIGN CHOICE, log entry 13). -/
def rowIndex (mem inst addr : Nat) : Nat := Config.rowOf mem inst addr % (memBanks mem inst * memRows mem)

/-- A quarantined block whose row is remapped is freed with zeroed metadata (R551). -/
def Chip.freeQuarantined (s : Chip) (row : Nat) : Chip :=
  let gone := (s.blocks.filter (fun e => e.2.quarantined.isSome && decide (rowIndex 0 0 (128 * e.1) = row))).map (·.1)
  gone.foldl (fun (s : Chip) b => s.setBlock b noBlock) s

/-- Remap a row to the next spare row of its bank, which has one (R550, R551): the log entry, the counts and the events. -/
def Chip.remapRow (s : Chip) (mem inst bank row : Nat) : Chip :=
  let n := s.rowsUsed mem inst bank
  let e := s.rep.remapAt
  let s := { s with rep := { s.rep with used := mset 0 s.rep.used (bankKey mem inst bank) (n + 1), remapAt := (e + 1) % 64 } }
  let s := (s.put (REP_REMAP_LOG_MEM e) mem).put (REP_REMAP_LOG_INST e) inst
  let s := (s.put (REP_REMAP_LOG_BANK e) bank).put (REP_REMAP_LOG_ROW e) row
  let s := ((s.put (REP_REMAP_LOG_SPARE e) n).put (REP_REMAP_LOG_VALID e) 1).put (REP_REMAP_LOG_T_T_LO e) s.ns
  let s := (s.addSat (REP_SPARE_ROWS_USED mem) 1).put (REP_SPARE_ROWS_FREE mem) (s.get (REP_SPARE_ROWS_FREE mem) - 1)
  let s := if mem = 0 then s.freeQuarantined (bank * memRows 0 + row) else s
  let s := (s.inc REP_REMAP_CNT).evt REP_EVT_REMAP_DONE
  if n + 1 = memSpares mem then s.evt REP_EVT_REMAP_FULL else s

/-- An uncorrectable error at a byte address remaps its row at once while AUTO_REMAP is 1 and its bank has a free spare row
(R551). -/
def Chip.autoRemap (s : Chip) (mem inst addr : Nat) : Chip :=
  let i := rowIndex mem inst addr
  let bank := i / memRows mem
  if s.on REP_CTL_AUTO_REMAP ∧ s.rowFree mem inst bank then s.remapRow mem inst bank (i % memRows mem) else s

end Sys2Proof.Machine
end

