-- ==== Sys2Proof/Machine/Tunnels.lean ====
section
/-! DEFINITION. The tunnel layer's operations (spec/08_tunnels_and_ordering.md): control cells, acknowledgement, resends, delivery
to rings and to tunnel 0, breaks, and sending a tunnel 0 message. Tunnel t is at key t; peer entry k of tunnel 0 at key 1024 + k. -/

namespace Sys2Proof.Machine
open Sys2Proof Sys2Proof.Machine.Reg

/-- A key that names a peer entry of tunnel 0. -/
def isPeer (t : Nat) : Bool := decide (1024 ≤ t)

/-- The tunnel number of a key. -/
def tunOf (t : Nat) : Nat := if isPeer t then 0 else t

/-- A sequence number less `n`, modulo 65,536. -/
def seqSub (a n : Nat) : Nat := (a + 65536 - n % 65536) % 65536

/-- A cell that the tunnel layer discards as bad (R211, R217, R220, R222, R618). -/
def Chip.tunBad (s : Chip) : Chip := (s.inc TUN_BAD_CNT).evt TUN_EVT_BAD

/-! ### Control cells (R220) -/

/-- The control cell of a tunnel end (Table 8.6). -/
def Chip.controlCell (s : Chip) (t ctype seqA count reason : Nat) : Cell :=
  let x := s.tun t
  { hdr := mkHdr x.peer x.peerTun 0 7 x.kept true 10 8,
    data := padTo ([BitVec.ofNat 8 ctype, 1] ++ leBytes s.node 2 ++ leBytes seqA 2 ++ leBytes count 2
      ++ [BitVec.ofNat 8 reason, 0]) 104 }

/-- The tunnel layer gives a control cell to the switch at the tunnel's port (R220, R113). -/
def Chip.sendControl (s : Chip) (t ctype seqA count reason : Nat) : Chip :=
  (s.offer (s.tunPort t) 0 none (s.setRail (s.controlCell t ctype seqA count reason))).2

/-- A kept sink acknowledges EXPECT − 1 (R221). -/
def Chip.sendAck (s : Chip) (t : Nat) : Chip :=
  let x := s.tun t
  let a := seqSub x.expect 1
  (s.setTun t { x with lastAck := a, sinceAck := 0 }).sendControl t 1 a 0 0

/-! ### The keep store (R222–R226) -/

/-- Re-enqueue the unacknowledged copies that lie in [first, first + count − 1] (R224); `tally` counts them in TUN_RESENT_t. -/
def Chip.resendRun (s : Chip) (t first count : Nat) (tally : Bool) : Chip :=
  let run := (s.tun t).copies.filter (fun e => decide (seqSub e.1 first < count))
  let s := run.foldl (fun (s : Chip) e => s.requeue e.2) s
  if tally then s.addSat (TUN_RESENT (tunOf t)) run.length else s

/-- Free a peer entry of tunnel 0 (R235). -/
def Chip.freePeer (s : Chip) (t : Nat) : Chip := s.setTun t Tun.closedEnd

/-- Drop the arrival's reference of a block that a held cell keeps. -/
def Chip.dropHeld (s : Chip) (l : List (Nat × Cell × Option Nat)) : Chip :=
  l.foldl (fun (s : Chip) e => match e.2.2 with
    | some b => s.dropRef b
    | none => s) s

/-- The hand bound to a tunnel's ring is told of an event (R232). -/
def Chip.raiseAtRing (s : Chip) (t e : Nat) : Chip :=
  if isPeer t then s
  else
    let r := (s.tun t).ring
    if s.ringValid r then s.raise (s.ringHand r) e else s

/-- Tunnel 0 to a node is Broken: the open accesses to its registers have far error 6 (spec/12_bridge_and_accessory_bus.md Table
12.2), and the cells of the broken stream that still wait are dropped. -/
def Chip.peerBroken (s : Chip) (node : Nat) : Chip :=
  { s with
    cores := { s.cores with tags := s.cores.tags.map (fun e =>
      if e.2.req.kind = 4 ∧ e.2.req.acc = node ∧ e.2.result = none then (e.1, { e.2 with result := some (6, 0) }) else e) }
    mbx := { s.mbx with outWait := s.mbx.outWait.filter (fun e => e.node != node) } }

/-- A tunnel becomes Broken, as a sink or as a source (R232); a peer entry of tunnel 0 is freed (R235). -/
def Chip.tunBroken (s : Chip) (t reason : Nat) (asSink : Bool) : Chip :=
  let x := s.tun t
  let last := if asSink then seqSub x.expect 1 else seqSub x.oldest 1
  let s := x.copies.foldl (fun (s : Chip) e => s.dropKeep e.2) s
  let s := s.dropHeld x.held
  let s := s.setTun t { x with state := .broken, copies := [], held := [] }
  let s := (s.inc TUN_BREAK_CNT).evt TUN_EVT_BREAK
  let s := s.put TUN_BREAK_LOG_TUN (tunOf t)
  let s := s.put TUN_BREAK_LOG_REASON reason
  let s := s.put TUN_BREAK_LOG_ROLE (b2n asSink)
  let s := s.put TUN_BREAK_LOG_LAST last
  let s := s.raiseAtRing t 9
  if isPeer t then (s.peerBroken x.peer).freePeer t else s

/-- A sequence number has reached another. -/
def reached (a q : Nat) : Bool := decide (seqSub a q < 32768)

/-- OLDEST has moved: a Breaking source whose OLDEST has reached the lost copy becomes Broken (R231). -/
def Chip.breakReached (s : Chip) (t : Nat) : Chip :=
  let x := s.tun t
  if x.state = .breaking ∧ x.txBreak.any (reached x.oldest) then s.tunBroken t 2 false else s

/-- A source takes an acknowledgement value (R222). -/
def Chip.takeAck (s : Chip) (t a : Nat) : Chip :=
  let x := s.tun t
  let n := seqSub (a + 1) x.oldest
  if n ≤ seqSub x.next x.oldest then
    let gone := x.copies.filter (fun e => decide (seqSub e.1 x.oldest < n))
    let s := gone.foldl (fun (s : Chip) e => s.dropKeep e.2) s
    let s := s.setTun t { x with
      copies := x.copies.filter (fun e => decide (n ≤ seqSub e.1 x.oldest)), oldest := (a + 1) % 65536,
      expiries := if n = 0 then x.expiries else 0, sync := false }
    s.breakReached t
  else s.tunBad

/-- The tunnel is neither Closed nor Broken: copies of its kept cells are held. -/
def Tun.live (x : Tun) : Bool := x.state == .opened || x.state == .breaking

/-- A copy lost below the one at which a source breaks already makes it break there instead (R231). -/
def Tun.breaksAt (x : Tun) (q : Nat) : Bool :=
  match x.txBreak with
  | none => x.live
  | some b => x.live && decide (seqSub q x.oldest < seqSub b x.oldest)

/-- The keep-store copy of SEQ `q` is lost to an error: the source breaks with REASON 2 (R182, R231). -/
def Chip.copyLost (s : Chip) (t q : Nat) : Chip :=
  let x := s.tun t
  let gone := x.copies.filter (fun e => e.1 = q)
  let s := gone.foldl (fun (s : Chip) e => s.dropKeep e.2) s
  let x := { x with copies := x.copies.filter (fun e => e.1 != q) }
  if x.breaksAt q then ((s.setTun t { x with state := .breaking, txBreak := some q }).sendControl t 3 q 0 2).breakReached t
  else s.setTun t x

/-- The source tunnel that gave a cell: the tunnel whose peer is the cell's destination (DEDUCED, log entry 9). -/
def Chip.sourceOf (s : Chip) (c : Cell) : Option Nat :=
  (s.tuns.find? (fun e => e.2.state != .closed && e.2.peer == c.dest && e.2.peerTun == c.tun
    && (isPeer e.1 || !e.2.sink))).map (·.1)

/-! ### Rings: the take side (spec/09_fungatre_machine.md R256, R258) -/

/-- Delivered cells move to the take side while it has room and the ring is not frozen, and a cell that does gives up its block. Until then
they wait in their blocks in the order of delivery (DEDUCED from R227 and R256, log entry 45). -/
def Chip.refill (s : Chip) (r : Nat) : Chip :=
  let x := s.ring r
  if s.ringFrozen r ∨ s.ringValid r = false then s
  else
    let n := s.get (BCH_RING_TAKE_DEPTH r) - x.take.length
    let moved := x.queued.take n
    let s := s.setRing r { x with queued := x.queued.drop n, take := x.take ++ moved.map (fun e => { e with blk := none }) }
    moved.foldl (fun (s : Chip) e => match e.blk with
      | some b => s.dropRef b
      | none => s) s

/-- A cell delivered to a ring: it waits for the ring's take side, and its hand has WAIT event 0 pending while a cell is there. -/
def Chip.toRing (s : Chip) (r : Nat) (c : Cell) (gap : Nat) (blk : Option Nat) : Chip :=
  let x := s.ring r
  (s.setRing r { x with queued := x.queued ++ [⟨c, gap, blk⟩] }).refill r

/-! ### Tunnel 0 messages (spec/13_management_and_dockets.md R358) -/

/-- A tunnel 0 message: its header and remainder. -/
def message (mtype sess : Nat) (body : List Byte) : List Byte :=
  [BitVec.ofNat 8 mtype, BitVec.ofNat 8 sess] ++ leBytes body.length 2 ++ body

/-- Payload of a tunnel 0 cell: the data bytes after the source's address (R234). -/
def payload (c : Cell) : List Byte := slice c.data 2 (c.vlen - 2)

/-- A tunnel 0 cell delivered to Porter: its payload joins the message under way, and EOM ends the message (R358). A message
shorter than its length is discarded (DESIGN CHOICE, log entry 10). -/
def Chip.toPorter (s : Chip) (t : Nat) (c : Cell) (blk : Option Nat) : Chip :=
  let x := s.tun t
  let m := x.partialMsg ++ payload c
  let s := match blk with
    | some b => s.dropRef b
    | none => s
  if c.eom then
    let s := s.setTun t { s.tun t with partialMsg := [] }
    if 4 ≤ m.length ∧ rd m 2 2 + 4 ≤ m.length then
      { s with mbx := { s.mbx with inbox := s.mbx.inbox ++ [(x.peer, m.take (rd m 2 2 + 4))] } }
    else s
  else s.setTun t { s.tun t with partialMsg := m }

/-! ### Delivery (R227–R230) -/

/-- Deliver one cell at EXPECT. -/
def Chip.deliver (s : Chip) (t : Nat) (c : Cell) (blk : Option Nat) : Chip :=
  let x := s.tun t
  let s := s.setTun t { x with expect := (x.expect + 1) % 65536, sinceAck := x.sinceAck + 1, gap := 0 }
  if isPeer t then s.toPorter t c blk else s.toRing x.ring c x.gap blk

/-- The held cell at EXPECT, if one is. -/
def Tun.nextHeld (x : Tun) : Option (Nat × Cell × Option Nat) := x.held.find? (fun e => decide (e.1 = x.expect))

/-- A sink that breaks at a SEQ delivers nothing from it on (R231). -/
def Tun.stops (x : Tun) : Bool := x.state == .breaking && x.rxBreak.any (reached x.expect)

/-- Deliver held cells that follow EXPECT in unbroken order (R228). -/
def Chip.deliverRun (s : Chip) (t : Nat) (fuel : Nat) : Chip :=
  match fuel with
  | 0 => s
  | n + 1 =>
    let x := s.tun t
    if x.stops then s
    else match x.nextHeld with
    | none => s
    | some e =>
      let s := s.setTun t { x with held := x.held.filter (fun y => y.1 != e.1) }
      Chip.deliverRun (s.deliver t e.2.1 e.2.2) t n

/-- The lowest held SEQ: the one nearest after EXPECT. -/
def Tun.lowestHeld (x : Tun) : Option Nat :=
  (x.held.map (fun e => seqSub e.1 x.expect)).foldl (fun m d => match m with
    | none => some d
    | some k => if d < k then some d else some k) none |>.map (fun d => (x.expect + d) % 65536)

/-- A loose sink declares the gap before its lowest held cell and delivers on (R229). -/
def Chip.declareGap (s : Chip) (t : Nat) : Chip :=
  let x := s.tun t
  match x.lowestHeld with
  | none => s
  | some q =>
    let n := seqSub q x.expect
    let s := s.setTun t { x with expect := q, gap := x.gap + n }
    let s := (s.addSat (TUN_GAP (tunOf t)) n).evt TUN_EVT_GAP
    s.deliverRun t x.held.length

/-- A sink whose EXPECT has reached the SEQ of a REASON 2 BREAK becomes Broken and answers with an ACK (R231). -/
def Chip.sinkBreakReached (s : Chip) (t : Nat) : Chip :=
  let x := s.tun t
  if x.stops then (s.sendAck t).tunBroken t 2 true else s

/-- The cell at EXPECT has come: it and every held cell after it are delivered. A kept sink acknowledges after ACK_EVERY cells, and at once
where the hole before a held cell is filled (R221, R228). Where delivery stops at a further missing SEQ, a new hole opens (R223). -/
def Chip.deliverAt (s : Chip) (t : Nat) (c : Cell) (blk : Option Nat) : Chip :=
  let n := (s.tun t).held.length
  let s := (s.deliver t c blk).deliverRun t n
  let x := s.tun t
  let filled := decide (x.held.length < n)
  let s := if n = 0 then s else s.setTun t { x with resendSent := false }
  let s := if x.kept ∧ (filled ∨ s.get TUN_LIMITS_ACK_EVERY ≤ x.sinceAck) then s.sendAck t else s
  s.sinkBreakReached t

/-- Let go of the block that a cell came in. -/
def Chip.dropBlk (s : Chip) (blk : Option Nat) : Chip :=
  match blk with
  | some b => s.dropRef b
  | none => s

/-- An early cell is held in its block, or discarded (R227). -/
def Chip.holdEarly (s : Chip) (t : Nat) (c : Cell) (blk : Option Nat) : Chip :=
  let x := s.tun t
  let p := s.tunPort t
  if x.held.length < s.get TUN_WINDOWS_RESEQ_DEPTH ∧ s.occ p < s.get (SWX_CARVE_RESERVE p) then
    s.setTun t { x with held := x.held ++ [(c.seq, c, blk)] }
  else
    ((s.inc TUN_EARLY_DROP).evt TUN_EVT_EARLY_DROP).dropBlk blk

/-- A duplicate is discarded and counted; a kept sink acknowledges at once (R221, R228). -/
def Chip.duplicate (s : Chip) (t : Nat) (blk : Option Nat) : Chip :=
  let s := (s.dropBlk blk).inc (TUN_DUP (tunOf t))
  if (s.tun t).kept then s.sendAck t else s

/-- A Broken end answers with a BREAK of REASON 3, at most once in KEEP_TMO (R233). -/
def Chip.answerBreak (s : Chip) (t : Nat) : Chip :=
  let x := s.tun t
  let due := match x.breakTick with
    | none => true
    | some k => decide (k + ticksOfNs (s.get TUN_TMR_B_KEEP_TMO * 100000) ≤ s.tick)
  if due then (s.setTun t { x with breakTick := some s.tick }).sendControl t 3 (seqSub x.expect 1) 0 3 else s

/-! ### Peers of tunnel 0 (R235) -/

def peerKeys : List Nat := (List.range 64).map (fun k => 1024 + k)

/-- The peer entry of a node. -/
def Chip.peerOf (s : Chip) (node : Nat) : Option Nat :=
  peerKeys.find? (fun t => (s.tun t).state != .closed && (s.tun t).peer == node)

/-- A free peer entry. -/
def Chip.freeEntry (s : Chip) : Option Nat := peerKeys.find? (fun t => (s.tun t).state == .closed)

/-- A new peer entry. -/
def newPeer (node : Nat) : Tun :=
  { Tun.closedEnd with state := .opened, kept := true, tc := 5, peer := node, sync := true, lastAck := 65535 }

/-- The entry of a node, allocated where there is none; none where the table is full, which is an event. -/
def Chip.allocPeer (s : Chip) (node : Nat) : Option Nat × Chip :=
  match s.peerOf node with
  | some t => (some t, s)
  | none =>
    match s.freeEntry with
    | some t => (some t, s.setTun t (newPeer node))
    | none => (none, s.evt TUN_EVT_PEER_FULL)

/-- The data cell of a tunnel 0 payload (R234). -/
def Chip.t0Cell (s : Chip) (t : Nat) (body : List Byte) (eom : Bool) : Cell :=
  let x := s.tun t
  { hdr := mkHdr x.peer 0 x.next 5 true eom (2 + body.length) (if x.sync then 16 else 0),
    data := padTo (leBytes s.node 2 ++ body) 104 }

/-- The peer's window lets another cell go (R218). -/
def Tun.roomToSend (x : Tun) (win : Nat) : Bool := x.state == .opened && decide (seqSub x.next x.oldest < win)

/-- The policer of tunnel 0 lets a payload's cell pass, which charges it once (R198). -/
def Chip.passT0 (s : Chip) (e : OutCell) : Option Chip :=
  if e.passed ∨ s.get (SCH_POL_RATE_RATE 0) = 0 then some s
  else if s.polCredit 0 < 0 then none
  else some (s.chargePol 0 104)

/-- Give one tunnel 0 payload at P12: what is left of it to give. It waits where the window is full, where its policer holds it, or where
the keep store has no free block (R168, R200, R218). -/
def Chip.giveT0 (s : Chip) (t : Nat) (e : OutCell) : Option OutCell × Chip :=
  let x := s.tun t
  if x.roomToSend (s.get TUN_WINDOWS_KEEP_WIN) = false then (some e, s)
  else match s.passT0 e with
  | none => (some e, s)
  | some s =>
    let r := s.place 12 0 none (s.setRail (s.t0Cell t e.body e.eom)) true
    if r.held then (some { e with passed := true }, s)
    else
      let copies := match r.blk with
        | some b => x.copies ++ [(x.next, b)]
        | none => x.copies
      (none, r.chip.setTun t { r.chip.tun t with next := (x.next + 1) % 65536, copies := copies })

/-- Give the waiting tunnel 0 payloads whose turn it is: each peer's in order. A payload for a peer that has no entry, and for which none
is free, is discarded (R235). -/
def Chip.pumpT0 (s : Chip) : Chip :=
  let r := s.mbx.outWait.foldl
    (fun (acc : Chip × List OutCell) e =>
      if acc.2.any (fun y => y.node == e.node) then (acc.1, acc.2 ++ [e])
      else
        let a := acc.1.allocPeer e.node
        match a.1 with
        | none => (a.2, acc.2)
        | some t =>
          let g := a.2.giveT0 t e
          match g.1 with
          | none => (g.2, acc.2)
          | some e => (g.2, acc.2 ++ [e]))
    (s, [])
  { r.1 with mbx := { r.1.mbx with outWait := r.2 } }

/-- Cut a message into payloads of at most 102 bytes (R358). -/
def chunks (m : List Byte) (fuel : Nat) : List (List Byte × Bool) :=
  match fuel with
  | 0 => []
  | n + 1 => if m.length ≤ 102 then [(m, true)] else (m.take 102, false) :: chunks (m.drop 102) n

/-- Send a tunnel 0 message to a node. A message to this node itself is delivered at once; a new peer that finds the table full
makes the device discard the message (R235). The answer says whether it was sent. -/
def Chip.sendMsg (s : Chip) (node : Nat) (m : List Byte) : Bool × Chip :=
  if node = s.node then (true, { s with mbx := { s.mbx with inbox := s.mbx.inbox ++ [(node, m)] } })
  else
    let a := s.allocPeer node
    match a.1 with
    | none => (false, a.2)
    | some _ =>
      let s := a.2
      let parts := (chunks m (m.length + 1)).map (fun c => (⟨node, c.1, c.2, false⟩ : OutCell))
      (true, ({ s with mbx := { s.mbx with outWait := s.mbx.outWait ++ parts } } : Chip).pumpT0)

/-- Take a message out of the inbox, where it is there. -/
def Chip.dropInbox (s : Chip) (node : Nat) (m : List Byte) : Chip :=
  { s with mbx := { s.mbx with inbox := s.mbx.inbox.erase (node, m) } }

end Sys2Proof.Machine
end

