-- ==== Sys2Proof/Machine/Local.lean ====
section
/-! DEFINITION. What the switch reports of lost cells (spec/06_switch_core.md R178–R183), and the cells that leave it at a local port
(spec/07_scheduling_and_allotment.md R188, R189): to the tunnel layer, to a ring, or to an endpoint. -/

namespace Sys2Proof.Machine
open Sys2Proof Sys2Proof.Machine.Reg

/-- The copies a Breaking source still sends lie below the lost one (R231). -/
def Tun.sendable (x : Tun) (first count : Nat) : Nat :=
  match x.txBreak with
  | none => count
  | some q => if reached first q then 0 else min count (seqSub q first)

/-! ### Losses reported by the switch (R179, R182, R183, R226) -/

/-- A flush record (Table 6.6), with the source tunnel end that gave the cells, where one is open. -/
structure FlushRecord where
  tun : Option Nat
  kept : Bool
  tc : Nat
  first : Nat
  count : Nat
  port : Nat
  deriving DecidableEq, Repr

/-- The still-unacknowledged copies of a tunnel end in a run of sequence numbers go out again (R226). -/
def Chip.resendFlushed (s : Chip) (t first count : Nat) : Chip :=
  let x := s.tun t
  let n := x.sendable first count
  if x.copies.any (fun e => decide (seqSub e.1 first < n)) then (s.resendRun t first n true).evt TUN_EVT_FLUSH_KEPT else s

/-- A flush record comes to the tunnel layer (R226): loose cells are counted, and kept ones go out again. A record of tunnel 0 names no
peer and is offered to every peer entry. -/
def Chip.flushRecord (s : Chip) (r : FlushRecord) : Chip :=
  if r.kept = false then s.addSat TUN_FLUSH_LOOSE r.count
  else match r.tun with
  | none => s
  | some t =>
    if isPeer t then peerKeys.foldl (fun (s : Chip) t => s.resendFlushed t r.first r.count) s else s.resendFlushed t r.first r.count

/-- The lowest sequence number of a run of cells. -/
def lowestSeq (l : List Nat) : Nat :=
  match l with
  | [] => 0
  | q :: r => r.foldl (fun m x => if seqSub x m < 32768 then m else x) q

/-- What becomes of a lost descriptor's cell (R179): a transit cell, and a notice, control or seed cell made here, is counted; a cell given
here on a tunnel is recorded; a mirror copy, and an endpoint's cell, which is in no tunnel, is neither. -/
inductive LossKind where
  | counted | recorded | neither
  deriving DecidableEq, Repr

def Chip.lossKind (s : Chip) (d : Desc) : LossKind :=
  let x := s.block d.blk
  match d.use with
  | .mirror _ _ | .given | .ring _ => .neither
  | _ => if x.ingress < 4 ∨ x.cell.flag 2 ∨ x.cell.flag 3 then .counted else .recorded

/-- Cells of one record: of one tunnel end, kept or loose. The cells of every peer entry are tunnel 0's. -/
def Chip.recordKey (s : Chip) (d : Desc) : Option Nat × Bool :=
  let c := (s.block d.blk).cell
  ((s.sourceOf c).map (fun t => if isPeer t then 1024 else t), c.kept)

/-- The record of some cells of one tunnel end. -/
def Chip.recordOf (s : Chip) (key : Option Nat × Bool) (l : List Desc) (port : Nat) : FlushRecord :=
  { tun := key.1, kept := key.2, tc := (l.head?.map (fun d => (s.block d.blk).cell.tc)).getD 0,
    first := lowestSeq (l.map (fun d => (s.block d.blk).cell.seq)), count := l.length, port := port }

/-- The descriptors of a port are lost: the cells that make no record are counted, and each tunnel end has its record. -/
def Chip.descsLost (s : Chip) (l : List Desc) (port : Nat) : Chip :=
  let own := l.filter (fun d => s.lossKind d == .recorded)
  let records := (own.map s.recordKey).dedup.map (fun k => s.recordOf k (own.filter (fun d => s.recordKey d == k)) port)
  records.foldl (fun (s : Chip) r => s.flushRecord r)
    (s.addSat SWX_FLUSH_TRANSIT (l.filter (fun d => s.lossKind d == .counted)).length)

/-- The block of a descriptor that has left its queue is read, with what its check bits show: is its cell good? One with an uncorrectable
word, and any of a quarantined block, is lost for this queue and recorded (R181–R183). -/
def Chip.readBlock (s : Chip) (d : Desc) (port : Nat) (ecc : EccFind) : Bool × Chip :=
  match ecc, (s.block d.blk).quarantined with
  | .uncorrectable w, _ =>
    (false, (((s.countUncorr d.blk w.val).quarantine d.blk w.val).autoRemap 0 0 (128 * d.blk + 8 * w.val)).descsLost [d] port)
  | _, some w => (false, (s.countUncorr d.blk w).descsLost [d] port)
  | .corrected, none => (true, (s.inc SWX_ECC_CORR).evt SWX_EVT_ECC_CORR)
  | .clean, none => (true, s)

/-! ### Cells that end here (spec/07_scheduling_and_allotment.md R188, R189) -/

/-- A cell given to a ring by an endpoint reaches it. -/
def Chip.ringCell (s : Chip) (d : Desc) (p : Nat) : Chip :=
  match d.use with
  | .ring r =>
    let x := s.readBlock d p .clean
    if x.1 then x.2.toRing r (s.block d.blk).cell 0 (some d.blk) else x.2.dropDesc d
  | _ => s.dropDesc d

/-- A cell given by an endpoint to a ring. -/
def DescUse.isRing : DescUse → Bool
  | .ring _ => true
  | _ => false

/-- The cells of a cluster port that are for rings move up, as long as the scheduler chooses one. -/
def Chip.pumpPort (s : Chip) (p fuel : Nat) : Chip :=
  match fuel with
  | 0 => s
  | n + 1 =>
    match s.takeLocal p (fun d => d.use.isRing) with
    | none => s
    | some (d, s) => Chip.pumpPort (s.ringCell d p) p n

/-- Both cluster ports. -/
def Chip.pumpClusters (s : Chip) : Chip :=
  let s := s.pumpPort 10 (s.portDescs 10).length
  s.pumpPort 11 (s.portDescs 11).length

/-- A cell is taken at one of some local ports, where the scheduler's choice is a descriptor wanted, and its block is read. Nothing more is
to be done (none) for a cell that is queued and not chosen (DESIGN CHOICE, log entry 11), and for one that the read loses; else the cell's block is
answered, and no block for a cell that no queue holds. -/
def Chip.takeCell (s : Chip) (ports : List Nat) (want : Desc → Bool) (ecc : EccFind) : Option (Option Nat) × Chip :=
  match ports.findSome? (fun p => (s.takeLocal p want).map (fun x => (p, x))) with
  | some (p, d, s) =>
    let r := s.readBlock d p ecc
    if r.1 then (some (some d.blk), r.2) else (none, r.2.dropDesc d)
  | none => (if ports.any (fun p => (s.portDescs p).any want) then none else some none, s)

/-- The tunnel layer takes a cell, at the port of its tunnel's ring or at a port that a copy went to. -/
def Chip.takeTunnel (s : Chip) (c : Cell) (ecc : EccFind) : Option (Option Nat) × Chip :=
  s.takeCell [s.tunPort c.tun, 10, 11, 12, 14, 15].dedup
    (fun d => (d.use == .tunnel false || d.use == .tunnel true) && s.descCell d == c) ecc

end Sys2Proof.Machine
end

