-- ==== Sys2Proof/Machine/Ends.lean ====
section
/-! DEFINITION. What the endpoint ports P4 to P9 share: cells given to a ring, and cells given on a ring to the port
(spec/15_ethernet_and_storage.md R398, R399, R407; spec/16_peripheral_bus.md R418; spec/17_display.md R448). -/

namespace Sys2Proof.Machine
open Sys2Proof Sys2Proof.Machine.Reg

/-- A cell from an endpoint's ingress to a ring: it joins its queue at the cluster port of the ring's bench and goes on to the ring in its
turn (true), or is held (false). A ring that is not bound takes nothing, and the cell is discarded (DESIGN CHOICE, log entry 16). -/
def Chip.tryRing (s : Chip) (ing r : Nat) (c : Cell) : Bool × Chip :=
  if s.ringValid r = false then (true, s)
  else
    let x := s.placeLocal ing (s.clusterOf r) c (.ring r)
    if x.held then (false, s.notPlaced x) else (true, x.chip.pumpClusters)

/-- An endpoint gives a cell to a ring, after those that its ingress holds (R167, R399). -/
def Chip.endToRing (s : Chip) (ing r : Nat) (c : Cell) : Chip :=
  let wait (s : Chip) : Chip := { s with ends := { s.ends with wait := s.ends.wait ++ [(ing, r, c)] } }
  if s.ends.wait.any (fun x => x.1 == ing) then wait s
  else
    let t := s.tryRing ing r c
    if t.1 then t.2 else (wait t.2).evt SWX_EVT_HELD

/-- The cells that an endpoint's ingress holds are offered again in their order, up to the first that is held still. -/
def Chip.retryEnds (s : Chip) (ing : Nat) : Chip :=
  (List.range s.ends.wait.length).foldl (fun (s : Chip) _ =>
    match s.ends.wait.find? (fun x => x.1 == ing) with
    | none => s
    | some x =>
      let t := s.tryRing ing x.2.1 x.2.2
      if t.1 then { t.2 with ends := { t.2.ends with wait := t.2.ends.wait.erase x } } else s) s

/-- The endpoint takes a cell off its port's queue, where it is the scheduler's choice there (spec/07_scheduling_and_allotment.md R188,
R189): is there a cell to act on? -/
def Chip.takeGiven (s : Chip) (p : Nat) (c : Cell) (ecc : EccFind) : Bool × Chip :=
  match s.takeCell [p] (fun d => (d.use == .given || d.use == .plain) && s.descCell d == c) ecc with
  | (none, s) => (false, s)
  | (some blk, s) => (true, s.dropBlk blk)

/-- An endpoint port goes down with nothing of a link layer to report (R177). -/
def Chip.endDown (s : Chip) (p : Nat) : Chip := s.portDown p ⟨0, 0, 0, 0⟩

end Sys2Proof.Machine
end

