-- ==== Sys2Proof/Machine/UsbPipes.lean ====
section
/-! DEFINITION. The pipes of the USB host (spec/16_peripheral_bus.md R417–R420): the transfers that wait on a pipe, the cells that the
host returns, and how a transfer ends. -/

namespace Sys2Proof.Machine
open Sys2Proof Sys2Proof.Machine.Reg

/-! ### Cells (Table 16.2) -/

/-- OP values. -/
def opSetup : Nat := 1
def opOut : Nat := 2
def opInReq : Nat := 3
def opInData : Nat := 4
def opDone : Nat := 5
def opCancel : Nat := 6

def usbOp (c : Cell) : Nat := c.field 26 4
def usbPipeNo (c : Cell) : Nat := c.field 16 5
def usbLen (c : Cell) : Nat := c.field 0 16

/-- STATUS values of DONE. -/
def doneOk : Nat := 0
def doneStall : Nat := 1
def doneNoResponse : Nat := 2
def doneBabble : Nat := 3
def donePortDown : Nat := 4
def doneCancelled : Nat := 5
def doneHalted : Nat := 6
def doneBad : Nat := 7

def usbHdr (len pipe op status : Nat) (eom : Bool) (vlen : Nat) : BitVec 64 :=
  BitVec.ofNat 64 (len % 2 ^ 16 + pipe % 32 * 2 ^ 16 + op * 2 ^ 26 + status * 2 ^ 30 + 2 ^ 42 + b2n eom * 2 ^ 46
    + vlen % 2 ^ 7 * 2 ^ 47)

/-! ### Transfers on a pipe -/

def Chip.pipe (s : Chip) (k : Nat) : UsbPipe := mget {} s.ends.pipes k
def Chip.setPipe (s : Chip) (k : Nat) (x : UsbPipe) : Chip := { s with ends := { s.ends with pipes := mset {} s.ends.pipes k x } }

/-- The setup packet's wLength, and whether its data stage is IN (R419). -/
def setupLen (c : Cell) : Nat := rd c.data 6 2
def setupIn (c : Cell) : Bool := bit (rd c.data 0 1) 7

/-- Cells up to the one with EOM, and the rest. -/
def untilEom (l : List Cell) : List Cell × List Cell :=
  match l with
  | [] => ([], [])
  | c :: r => if usbOp c ≠ opOut then ([], c :: r) else if c.eom then ([c], r) else
      let t := untilEom r
      (c :: t.1, t.2)

/-- A SETUP whose data stage the bench gives. -/
def givesData (c : Cell) : Bool := usbOp c == opSetup && !setupIn c && setupLen c != 0

/-- The first transfer's cells, and the rest of the queue. -/
def firstTransfer (q : List Cell) : List Cell × List Cell :=
  match q with
  | [] => ([], [])
  | c :: r =>
    if usbOp c = opOut then untilEom (c :: r)
    else if givesData c then
      let t := untilEom r
      (c :: t.1, t.2)
    else ([c], r)

/-- The OUT cells of a transfer, their bytes, and whether the last has come. -/
def outCells (cells : List Cell) : List Cell := cells.filter (fun c => usbOp c = opOut)
def outBytes (cells : List Cell) : List Byte := (outCells cells).flatMap (fun c => slice c.data 0 c.vlen)
def outEnded (cells : List Cell) : Bool := (outCells cells).any (fun c => c.eom)

/-- More OUT cells of the transfer are still to come. -/
def moreOut (cells : List Cell) : Bool := match cells with
  | c :: _ => (usbOp c == opOut || givesData c) && !outEnded cells
  | [] => false

/-- VLEN is as its OP says. -/
def vlenOk (c : Cell) : Bool :=
  if usbOp c = opSetup then c.vlen = 8 else if usbOp c = opOut then decide (1 ≤ c.vlen ∧ c.vlen ≤ 104) else c.vlen = 0

/-- A transfer that ends with BAD (R419): a reserved OP, a wrong VLEN, OUT data that disagrees with wLength; and, which the spec does
not state, a transfer that the pipe's type does not run (DESIGN CHOICE, log entry 19). -/
def Chip.badTransfer (s : Chip) (k : Nat) (cells : List Cell) : Bool :=
  match cells with
  | [] => false
  | c :: _ =>
    let kind := s.get (USB_PIPE_A_TYPE k)
    let dir := s.get (USB_PIPE_A_DIR k)
    let fits := if kind = 0 then usbOp c == opSetup else if dir = 0 then usbOp c == opOut else usbOp c == opInReq && usbLen c != 0
    let total := (outBytes cells).length
    !fits || cells.any (fun x => !vlenOk x) || s.get (USB_PIPE_A_EN k) == 0
    || (givesData c && (decide (setupLen c < total) || (outEnded cells && decide (total ≠ setupLen c))))

/-- The host returns a cell on the pipe's RING. -/
def Chip.usbReturn (s : Chip) (k : Nat) (c : Cell) : Chip := s.endToRing 8 (s.get (USB_PIPE_B_RING k)) c

/-- The data read goes back in IN_DATA cells of 104 bytes, the last of what is left. -/
def Chip.returnData (s : Chip) (k : Nat) (got : List Byte) : Chip :=
  (List.range ((got.length + 103) / 104)).foldl (fun (s : Chip) i =>
    let part := (got.drop (104 * i)).take 104
    s.usbReturn k ⟨usbHdr 0 k opInData 0 (decide (got.length ≤ 104 * (i + 1))) part.length, padTo part 104⟩) s

/-- The transfer in progress ends: its data, then one DONE cell; its cells leave the pipe (R419). -/
def Chip.endTransferOf (s : Chip) (k status : Nat) : Chip :=
  let x := s.pipe k
  let t := firstTransfer x.queue
  if t.1.isEmpty then s
  else
    let s := s.setPipe k { queue := t.2, skip := moreOut t.1 }
    (s.returnData k x.got).usbReturn k ⟨usbHdr x.moved k opDone status true 0, padTo [] 104⟩

/-- The three outcomes that halt a pipe (R420). -/
def Chip.haltPipe (s : Chip) (k status : Nat) : Chip :=
  ((s.endTransferOf k status).put (USB_PIPE_A_HALTED k) 1).evt USB_EVT_PIPE_HALT

/-- Transfers that cannot run end at once: on a halted pipe, on a port that is not enabled, or malformed. -/
def Chip.settlePipe (s : Chip) (k fuel : Nat) : Chip :=
  match fuel with
  | 0 => s
  | n + 1 =>
    let cells := (firstTransfer (s.pipe k).queue).1
    if cells.isEmpty then s
    else if s.on (USB_PIPE_A_HALTED k) then (s.endTransferOf k doneHalted).settlePipe k n
    else if s.badTransfer k cells then ((s.endTransferOf k doneBad).inc USB_CELL_BAD).settlePipe k n
    else if s.get (USB_PORT_EN (s.get (USB_PIPE_A_PORT k))) = 0 then (s.endTransferOf k donePortDown).settlePipe k n
    else s

def Chip.settleNow (s : Chip) (k : Nat) : Chip := s.settlePipe k ((s.pipe k).queue.length + 1)

/-- Every transfer of a port's pipes ends with PORT_DOWN, its EN being 0. -/
def Chip.usbPortDown (s : Chip) (port : Nat) : Chip :=
  (List.range 32).foldl (fun (s : Chip) k => if s.get (USB_PIPE_A_PORT k) = port then s.settleNow k else s)
    (s.put (USB_PORT_EN port) 0)

/-- UPWR's PG deasserts: all four ports are disabled (R415). -/
def Chip.upwrLost (s : Chip) : Chip :=
  if s.domainOn 13 = false then s
  else ([1, 2, 3, 4].foldl (fun (s : Chip) p => s.usbPortDown p) s).evt USB_EVT_UPWR_LOST

end Sys2Proof.Machine
end

