-- ==== Sys2Proof/Machine/Field.lean ====
section
/-! DEFINITION. Field I/O and the shutter (spec/18_field_io_and_shutter.md): the sources of doubt, the shutter action and release,
the event queue, the inputs, and the meanings of their commands. -/

namespace Sys2Proof.Machine
open Sys2Proof Sys2Proof.Machine.Reg

/-- Bit numbers of Table 18.1. -/
def causeOrder : Nat := 0
def causeHand : Nat := 1
def causeWdog : Nat := 2
def causePorter : Nat := 3
def causeTime : Nat := 4
def causeHb : Nat := 5
def causeClock : Nat := 6
def causeSupply : Nat := 7
def causeTemp : Nat := 8
def causeTamper : Nat := 9
def causeQueue : Nat := 10
def causeReset : Nat := 11
def causeDomain : Nat := 12

def Chip.shuttered (s : Chip) : Bool := s.on FLD_SHUT_STAT_SHUT

/-- Open an intake channel at once: PG falls, and the channel reads the given STATE (spec/19_harness_intake_and_docks.md R476). -/
def Chip.openChannel (s : Chip) (c st : Nat) : Chip :=
  let pg := s.on (HVI_CH_STAT_PG c)
  let s := ((s.put (HVI_CH_STAT_STATE c) st).put (HVI_CH_STAT_PG c) 0).put (HVI_CH_STAT_FAULT_TMR c) 0
  let s := if st = 3 then s else s.put (HVI_CH_CTL_ON c) 0
  let s := { s with hvi := mset {} s.hvi c { mget {} s.hvi c with timers := [0, 0, 0, 0, 0, 0, 0, 0], uv := 0 } }
  if pg then
    let s := s.evtBit HVI_EVT_PG_CHG c
    if c = 4 then s.upwrLost else s
  else s

/-- Cut field power and dock sourcing: FPWR and the docks that source are opened and Locked (R460, R480). A channel that is
Tripped or Damaged keeps that state. -/
def Chip.lockPower (s : Chip) : Chip :=
  [5, 2, 3].foldl (fun (s : Chip) c =>
    if (c = 5 ∨ s.get (HVI_CH_CTL_DIR c) = 0) ∧ s.get (HVI_CH_STAT_STATE c) ≠ 3 ∧ s.get (HVI_CH_STAT_STATE c) ≠ 4
    then s.openChannel c 5 else s) s

/-- Outputs as driven: FLD_OUT, with an entry of the outbox for each change. -/
def Chip.driveOut (s : Chip) (i : Nat) (level : Bool) : Chip :=
  if bit (s.get FLD_OUT_LEVEL) i = level then s
  else
    (s.put FLD_OUT_LEVEL (if level then setBit (s.get FLD_OUT_LEVEL) i else clrBit (s.get FLD_OUT_LEVEL) i)).emit
      (.pin "FO" i (b2n level))

def Chip.driveAll (s : Chip) (pattern : Nat) : Chip :=
  (List.range 16).foldl (fun (s : Chip) i => s.driveOut i (bit pattern i)) s

/-- A TAT that waits while the node is shuttered places no event (R314). -/
def TatWait.cutOff (w : TatWait) : TatWait := { w with cut := true }

/-- A source of doubt is signalled: its bit of FLD_SHUT_CAUSE sets, and an unshuttered node runs the steps of Table 18.2
(R458, R460). -/
def Chip.shutter (s : Chip) (cause : Nat) : Chip :=
  let s := s.setBitOf FLD_SHUT_CAUSE_CAUSE cause
  if s.shuttered then s
  else
    let dropped := s.field.queue.length
    let s := s.put FLD_SHUT_STAT_SHUT 1
    let s := (s.driveAll (s.get FLD_SAFE_SAFE_PATTERN)).emit (.pin "SHUTTER_N" 0 0)
    let s := s.lockPower
    let s := { s with field := { s.field with queue := [], waiting := s.field.waiting.map TatWait.cutOff } }
    let s := s.addSat FLD_EVQ_DISCARD dropped
    let s := if dropped = 0 then s else s.evt FLD_EVT_EVQ_DISCARD
    let s := (s.put FLD_SHUT_STAT_DONE 1).inc FLD_SHUT_CNT
    let s := (s.put FLD_SHUT_TIME_LO_NS s.ns).put FLD_SHUT_TIME_HI_NS (s.ns / 2 ^ 32)
    s.evtDetail FLD_EVT_SHUT 0 (s.get FLD_SHUT_CAUSE_CAUSE) 0

/-- The condition of a cause persists, or has ended (FLD_SHUT_LIVE). -/
def Chip.live (s : Chip) (cause : Nat) (b : Bool) : Chip :=
  if b then s.setBitOf FLD_SHUT_LIVE_LIVE cause else s.clrBitOf FLD_SHUT_LIVE_LIVE cause

/-- FPWR and dock sourcing become permitted again, with ON left at 0 (R461, R480). -/
def Chip.unlockPower (s : Chip) : Chip :=
  [5, 2, 3].foldl (fun (s : Chip) c =>
    if s.get (HVI_CH_STAT_STATE c) = 5 then (s.put (HVI_CH_STAT_STATE c) 0).put (HVI_CH_CTL_ON c) 0 else s) s

/-! ### The event queue (R451–R453, R314, R315) -/

/-- Insert an event: in order of target, after every event of the same target (R315). -/
def insertEvent (q : List FieldEvent) (e : FieldEvent) : List FieldEvent :=
  match q with
  | [] => [e]
  | x :: r => if x.target ≤ e.target then x :: insertEvent r e else e :: x :: r

/-- Chain time reaching the first queued target drives its output and releases the entry; where a later event has the same output
and target, that one alone is seen at the output (R452). -/
def fieldEventDue (s : Chip) : Chip :=
  match s.field.queue with
  | [] => s
  | e :: r =>
    if s.ns < e.target ∨ s.shuttered then s
    else
      let s : Chip := { s with field := { s.field with queue := r } }
      if r.any (fun x => decide (x.output = e.output ∧ x.target = e.target)) then s else s.driveOut e.output e.level

/-! ### Inputs (R454, R455) -/

/-- The hand an input's edges go to. -/
def Chip.inputHand (s : Chip) (i : Nat) : HandId :=
  if s.get (FLD_IN_CFG_BENCH i) = 16 then 64 else benchHand (s.get (FLD_IN_CFG_BENCH i)) (s.get (FLD_IN_CFG_HAND i))

/-- A transition at an input ball: debouncing starts, or a pulse shorter than DEBOUNCE ends and is counted (R454). -/
def inputTransition (i : Fin 16) (level : Bool) (s : Chip) : Chip :=
  let raw := if level then setBit s.field.raw i else clrBit s.field.raw i
  let s := { s with field := { s.field with raw := raw } }
  if s.get (FLD_IN_CFG_EN i) = 0 ∨ s.domainOn 14 = false then s
  else if bit (s.get FLD_IN_LEVEL) i = level then
    if mget 0 s.field.cand i = 0 then s
    else
      let s := { s with field := { s.field with cand := mset 0 s.field.cand i 0 } }
      (s.addSat (FLD_IN_CNT_GLITCH i) 1).evt FLD_EVT_GLITCH
  else { s with field := { s.field with cand := mset 0 s.field.cand i (s.ns + 1) } }

def execFieldInputTransition (i : Fin 16) (level : Bool) (s : State) : Result := s.onChip (inputTransition i level)

/-- Does an edge to `level` match EDGE? -/
def edgeMatches (edge : Nat) (level : Bool) : Bool := decide (edge = 2) || decide (edge = 0) && level || decide (edge = 1) && !level

/-- A new level has held for DEBOUNCE: it is accepted, and an edge is stamped, counted and routed (R454, R455). -/
def debounce (i : Fin 16) (s : Chip) : Chip :=
  let c := mget 0 s.field.cand i
  if c = 0 ∨ s.get (FLD_IN_CFG_EN i) = 0 ∨ s.domainOn 14 = false then s
  else
    let level := bit s.field.raw i
    let s := { s with field := { s.field with cand := mset 0 s.field.cand i 0 } }
    let s := s.put FLD_IN_LEVEL (if level then setBit (s.get FLD_IN_LEVEL) i else clrBit (s.get FLD_IN_LEVEL) i)
    if edgeMatches (s.get (FLD_IN_CFG_EDGE i)) level then
      let t := (c - 1) / 2 * 2
      let s := (s.put (FLD_IN_STAMP_LO_NS i) t).put (FLD_IN_STAMP_HI_NS i) (t / 2 ^ 32)
      let s := s.addWrap (FLD_IN_CNT_EDGES i) 1
      if s.on (FLD_IN_CFG_ROUTE_EN i) then s.raise (s.inputHand i) 6 else s
    else s

def execDebounce (i : Fin 16) (s : State) : Result := s.onChip (debounce i)

/-- A read of FLD_IN_STAMP_LO_i latches the stamp's high word and the counts (R454). -/
def inStampLo (i : Fin 16) (s : Chip) : Chip :=
  (s.latch (FLD_IN_STAMP_HI_NS i).addr (s.get (FLD_IN_STAMP_HI_NS i))).latch (FLD_IN_CNT_EDGES i).addr
    (s.get (FLD_IN_CNT_EDGES i) + 65536 * s.get (FLD_IN_CNT_GLITCH i))

def execInStampLo (i : Fin 16) (s : State) : Result := s.onChip (inStampLo i)

/-- The input takes its present level as debounced, without an edge (R454). -/
def Chip.takeLevel (s : Chip) (i : Nat) : Chip :=
  let s := { s with field := { s.field with cand := mset 0 s.field.cand i 0 } }
  s.put FLD_IN_LEVEL (if bit s.field.raw i then setBit (s.get FLD_IN_LEVEL) i else clrBit (s.get FLD_IN_LEVEL) i)

/-- A write to FLD_IN_CFG_i; setting EN takes the present level (R454, R5). -/
def fieldInputEnable (i : Fin 16) (value : Word) (s : Chip) : Chip :=
  let v := value.toNat
  let was := s.on (FLD_IN_CFG_EN i)
  let s := s.put (FLD_IN_CFG_EN i) (bits v 0 1)
  let s := if bits v 1 2 = 3 then s else s.put (FLD_IN_CFG_EDGE i) (bits v 1 2)
  let s := s.put (FLD_IN_CFG_ROUTE_EN i) (bits v 3 1)
  let s := if 16 < bits v 4 5 then s else s.put (FLD_IN_CFG_BENCH i) (bits v 4 5)
  let s := (s.put (FLD_IN_CFG_HAND i) (bits v 9 2)).put (FLD_IN_CFG_DEBOUNCE i) (bits v 16 16)
  if was = false ∧ v % 2 = 1 then s.takeLevel i else s

def execFieldInputEnable (i : Fin 16) (value : Word) (s : State) : Result := s.onChip (fieldInputEnable i value)

/-- A write of 1 to FLD_SHUT_CTL.FORCE (R458). -/
def execForce (s : State) : Result := s.onChip (fun c => c.shutter causeOrder)

/-- Every 10 µs the hottest sensor is read and compared (R459, R506): `tj` is in °C as the 12-bit PWR_TEMP code gives it. -/
def temperatureCheck (tj : BitVec 12) (s : Chip) : Chip :=
  let s := s.put PWR_TEMP_TJ tj.toNat
  let lim : Int := s.get FLD_SHUT_TEMP_TSHUT_LIM
  let s := s.live causeTemp (decide (4 * (lim - s.get FLD_SHUT_TEMP_TSHUT_HYST) ≤ tj.toInt))
  if 4 * lim ≤ tj.toInt then s.shutter causeTemp else s

def execTemperatureCheck (tj : BitVec 12) (s : State) : Result := s.onChip (temperatureCheck tj)

end Sys2Proof.Machine
end

