-- ==== Sys2Proof/Machine/Operands.lean ====
section
/-! DEFINITION. What the operand fields of an instruction name (spec/10_fungatre_core_instructions.md R275, R276): the registers of
a hand, immediates, effective addresses, and the words of the formats. -/

namespace Sys2Proof.Machine
open Sys2Proof Sys2Proof.Machine.Reg

/-- A register of a hand; w0 reads 0 (spec/09_fungatre_machine.md R251). -/
def Hand.w (x : Hand) (r : BitVec 5) : Word := if r = 0 then 0 else mget 0 x.regs r.toNat

/-- Write a register; a write to w0 is discarded (R251). -/
def Hand.setW (x : Hand) (r : BitVec 5) (v : Word) : Hand :=
  if r = 0 then x else { x with regs := mset 0 x.regs r.toNat v }

def sext16 (i : BitVec 16) : Word := i.signExtend 32
def zext16 (i : BitVec 16) : Word := i.zeroExtend 32

/-- Bits of pc on a core: 18 on Porter, 16 elsewhere (R245, R268). -/
def pcWidth (h : HandId) : Nat := if h.val = 64 then 18 else 16

/-- An address taken modulo 2^PCW. -/
def wrapPc (h : HandId) (v : BitVec 32) : BitVec 18 := BitVec.ofNat 18 (v.toNat % 2 ^ pcWidth h)

/-- The address of the following instruction. -/
def nextPc (h : HandId) (pc : BitVec 18) : BitVec 18 := wrapPc h (pc.zeroExtend 32 + 4)

/-- Bits that the data memory of a core decodes: 17 on a bench, 18 on Porter, 16 on Steward (R246, R283). -/
def dataWidth (h : HandId) : Nat := if h.val = 64 then 18 else if h.val = 65 then 16 else 17

/-- Where a data address lies in the addressed memories. -/
def dataAddr (h : HandId) (ea : Word) : Nat := dmemBase (coreOf h) + ea.toNat % 2 ^ dataWidth h

/-- The words of formats R and I (Table 10.1), for TVAL of trap 0x01. -/
def fmtR (op : Nat) (d a b : BitVec 5) (func : Nat) : Word :=
  BitVec.ofNat 32 (op * 2 ^ 26 + d.toNat * 2 ^ 21 + a.toNat * 2 ^ 16 + b.toNat * 2 ^ 11 + func)
def fmtI (op : Nat) (d a : BitVec 5) (imm : BitVec 16) : Word :=
  BitVec.ofNat 32 (op * 2 ^ 26 + d.toNat * 2 ^ 21 + a.toNat * 2 ^ 16 + imm.toNat)

/-- SIZE as encoded (spec/11_fungatre_tunnel_instructions.md R298). -/
def sizeCode : AccSize → Nat
  | .byte => 0
  | .half => 1
  | .word => 2

/-- The low bytes of a word, at an access size. -/
def narrow (size : AccSize) (v : Word) : Word := BitVec.ofNat 32 (v.toNat % 256 ^ size.bytes)

/-- Is the hand one of a bench? -/
def onBench (h : HandId) : Bool := decide (h.val < 64)

/-- FIELD_OWNER of a hand (R264); Porter and Steward own no field outputs. -/
def Chip.fieldOwner (s : Chip) (h : HandId) : Bool :=
  onBench h && bit (s.get (BCH_FOWN_OWNER (h.val / 4))) (h.val % 4)

/-- The bench of a hand, and the hand within it. -/
def benchOf (h : HandId) : Nat := h.val / 4
def handOf (h : HandId) : Nat := h.val % 4

/-- A cell register's 112 bytes. -/
def Chip.creg (s : Chip) (b : Nat) (c : Fin 8) : List Byte := padTo (mget [] s.cores.cregs (8 * b + c.val)) 112
def Chip.setCreg (s : Chip) (b : Nat) (c : Fin 8) (v : List Byte) : Chip :=
  { s with cores := { s.cores with cregs := mset [] s.cores.cregs (8 * b + c.val) v } }

/-- Does the hand own the cell register (R252)? -/
def Chip.owns (s : Chip) (h : HandId) (c : Fin 8) : Bool :=
  mget 0 s.cores.cregOwner (8 * benchOf h + c.val) = handOf h + 1

def Chip.setOwner (s : Chip) (b c owner : Nat) : Chip :=
  { s with cores := { s.cores with cregOwner := mset 0 s.cores.cregOwner (8 * b + c) owner } }

/-- CREG_OWN: the cell registers a hand owns, one bit each. -/
def Chip.ownMask (s : Chip) (h : HandId) : Nat :=
  ((List.range 8).map (fun c => if mget 0 s.cores.cregOwner (8 * benchOf h + c) = handOf h + 1 then 2 ^ c else 0)).sum

/-- A hand releases cell registers (R253). -/
def Chip.releaseCregs (s : Chip) (h : HandId) (mask : Nat) : Chip :=
  (List.range 8).foldl (fun (s : Chip) c =>
    if bit mask c ∧ mget 0 s.cores.cregOwner (8 * benchOf h + c) = handOf h + 1 then s.setOwner (benchOf h) c 0 else s) s

end Sys2Proof.Machine
end

