-- ==== Sys2Proof/Machine/Flags.lean ====
section
/-! DEFINITION. The compare word and the branch conditions; the part has no other condition flags
(spec/10_fungatre_core_instructions.md R280, R285). -/

namespace Sys2Proof.Machine
open Sys2Proof

/-- cmpword(x, y) (Table 10.4). -/
def cmpword (x y : Word) : Word :=
  BitVec.ofNat 32 (b2n (x == y) + 2 * b2n (x.slt y) + 4 * b2n (x.ult y) + 8 * b2n (x.sle y) + 16 * b2n (x.ule y))

/-- The BR condition named by d (Table 10.7); none where the code is reserved. -/
def brCond (cond : BitVec 5) (v : Word) : Option Bool :=
  let c := cond.toNat
  if c = 0 then some (v == 0)
  else if c = 1 then some (v != 0)
  else if c = 2 then some v.msb
  else if c = 3 then some (!v.msb)
  else if c = 4 then some (!v.msb && v != 0)
  else if c = 5 then some (v.msb || v == 0)
  else if c = 6 then some true
  else if c < 16 then none
  else if c < 24 then some (v.getLsbD (c - 16))
  else some (!v.getLsbD (c - 24))

end Sys2Proof.Machine
end

