-- ==== Sys2Proof/Machine/EthCells.lean ====
section
/-! DEFINITION. Ethernet frames as endpoint cells (spec/15_ethernet_and_storage.md R398), and the frames that Porter sends on ETH0. -/

namespace Sys2Proof.Machine
open Sys2Proof Sys2Proof.Machine.Reg

/-- The station address: bytes 0–3 in MAC_LO and 4–5 in MAC_HI, little-endian (R3). -/
def Chip.station (s : Chip) (p : Nat) : List Byte := leBytes (s.get (ETH_MAC_LO_ADDR p)) 4 ++ leBytes (s.get (ETH_MAC_HI_ADDR p)) 2

/-- The endpoint header word (Table 15.2). -/
def ethHdr (tc flen tun cookie : Nat) (ts vlan som : Bool) (eom : Bool) (vlen : Nat) : BitVec 64 :=
  BitVec.ofNat 64 (flen % 2 ^ 16 + tun % 2 ^ 10 * 2 ^ 16 + cookie % 256 * 2 ^ 26 + b2n ts * 2 ^ 34 + b2n vlan * 2 ^ 35
    + b2n som * 2 ^ 36 + tc % 8 * 2 ^ 42 + b2n eom * 2 ^ 46 + vlen % 128 * 2 ^ 47)

/-- The cells of a frame without its FCS. -/
def ethCells (tc : Nat) (b : List Byte) (tun : Nat) (ts vlan : Bool) : List Cell :=
  let n := (b.length + 103) / 104
  (List.range n).map (fun i =>
    let part := (b.drop (104 * i)).take 104
    ⟨ethHdr tc (if i = 0 then b.length else 0) tun 0 ts vlan (i == 0) (i + 1 == n) part.length, padTo part 104⟩)

/-- The cells of Porter's frames enter P4's queues from P12, in their order, while it takes them (R398). -/
def Chip.pumpEth (s : Chip) (fuel : Nat) : Chip :=
  match fuel with
  | 0 => s
  | n + 1 =>
    match s.mbx.ethOut with
    | [] => s
    | c :: rest =>
      let x := s.placeEndpoint 12 4 c
      if x.held then s.notPlaced x else Chip.pumpEth { x.chip with mbx := { x.chip.mbx with ethOut := rest } } n

/-- Those that wait are offered again. -/
def Chip.retryEth (s : Chip) : Chip := s.pumpEth s.mbx.ethOut.length

/-- Porter sends a management frame on ETH0 to a station: an untagged frame of EtherType 0x88B5, padded to 60 bytes, in cells of TC 5
(R352, R398, R400, Table 15.2). -/
def Chip.sendEth (s : Chip) (mac : Nat) (bytes : List Byte) : Chip :=
  let b := leBytes mac 6 ++ s.station 0 ++ [0x88, 0xB5] ++ bytes
  let b := b ++ List.replicate (60 - b.length) 0
  ({ s with mbx := { s.mbx with ethOut := s.mbx.ethOut ++ ethCells 5 b 0 false false } } : Chip).retryEth

end Sys2Proof.Machine
end

