-- ==== Sys2Proof/Machine/Keys.lean ====
section
/-! DEFINITION. Using a key of the Vault (spec/21_vault.md R513, R514, R524): the uses of Table 21.2, the use counter, and random
bytes. -/

namespace Sys2Proof.Machine
open Sys2Proof Sys2Proof.Machine.Reg

/-- Bits of USES (Table 21.2). -/
def useDerive : Nat := 0
def useMgmt : Nat := 1
def useImage : Nat := 2
def useSeal : Nat := 3
def useTinker : Nat := 7

def unlimited : Nat := 0xFFFFFFFF

def Chip.vslot (s : Chip) (k : Nat) : VSlot := mget VSlot.none s.vault.slots k
def Chip.setVslot (s : Chip) (k : Nat) (x : VSlot) : Chip :=
  { s with vault := { s.vault with slots := mset VSlot.none s.vault.slots k x } }

/-- The slot holds a key. -/
def Chip.keyValid (s : Chip) (k : Nat) : Bool := s.vslot k != VSlot.none

/-- The slot holds a key that grants a use. -/
def Chip.grants (s : Chip) (k use : Nat) : Bool := s.keyValid k && bit (s.vslot k).uses use

/-- One use of a key: its COUNT falls unless it is unlimited (R514). -/
def Chip.spend (s : Chip) (k : Nat) : Chip :=
  let x := s.vslot k
  if x.count = unlimited then s else s.setVslot k { x with count := x.count - 1 }

/-- Ask for one use of a key; a key whose COUNT is 0 is refused and is an event (R514). -/
def Chip.useKey (s : Chip) (k use : Nat) : Bool × Chip :=
  if s.grants k use = false then (false, s)
  else if (s.vslot k).count = 0 then (false, s.evt VLT_EVT_USE_ZERO)
  else (true, s.spend k)

/-- The key bytes of a slot. -/
def Chip.keyBytes (s : Chip) (k : Nat) : List Byte := (s.vslot k).key

/-- Random bytes from the TRNG: free values (DESIGN CHOICE, log entry 3). -/
def Chip.random (s : Chip) (n : Nat) : List Byte × Chip :=
  ((List.range n).map (fun i => BitVec.ofNat 8 (Config.freeValue (s.free + i)).toNat), { s with free := s.free + n })

end Sys2Proof.Machine
end

