-- ==== Sys2Proof/Machine/Mailbox.lean ====
section
/-! DEFINITION. The mailbox engine (spec/13_management_and_dockets.md): management frames, orders and their acceptance, dockets,
slots, READ, ACK and the heartbeat. -/

namespace Sys2Proof.Machine
open Sys2Proof Sys2Proof.Machine.Reg

/-! ### Status codes (Table 13.6) -/

def stDone : Nat := 0
def stPending : Nat := 1
def stRefused : Nat := 2
def stBadArgs : Nat := 3
def stAuthFail : Nat := 4
def stTimeout : Nat := 5
def stFarError : Nat := 6
def stShuttered : Nat := 7

/-- KEY_SLOT of a plain frame (Table 13.2). -/
def plainSlot : Nat := 255

/-! ### Answers -/

/-- A docket's header and body (Table 13.4). -/
def docketBytes (d : Docket) : List Byte :=
  leBytes d.code 2 ++ leBytes d.tag 2 ++ leBytes d.body.length 2 ++ [BitVec.ofNat 8 d.status, BitVec.ofNat 8 d.gen]
    ++ leBytes d.time 8 ++ d.body

/-- The nonce of a keyed frame (R353). -/
def frameNonce (node sess dir counter : Nat) : List Byte :=
  leBytes node 2 ++ [BitVec.ofNat 8 sess, BitVec.ofNat 8 dir] ++ leBytes counter 8

/-- The device's management frame of KIND 2 around a content (Table 13.2, R353). -/
def Chip.answerFrame (s : Chip) (sess keySlot : Nat) (content : List Byte) : List Byte × Chip :=
  let head (counter : Nat) : List Byte :=
    [1, 2] ++ leBytes s.node 2 ++ [BitVec.ofNat 8 sess, BitVec.ofNat 8 keySlot, 0, 0] ++ leBytes counter 8
  if keySlot = plainSlot then (head 0 ++ content, s)
  else
    let n := mget 0 s.mbx.txCounter sess + 1
    let nonce := frameNonce s.node sess 1 n
    let key := s.keyBytes keySlot
    let c := padTo (Config.gcmCipher key nonce (head n) content) content.length
    (head n ++ c ++ padTo (Config.gcmTag key nonce (head n) c) 16,
      { s with mbx := { s.mbx with txCounter := mset 0 s.mbx.txCounter sess n } })

/-- The frame's key cannot be used any more: a keyed answer under it is refused, which for a management frame is a discard
(spec/21_vault.md R514, R517). -/
def Chip.keyGone (s : Chip) (path : MsgPath) (keySlot : Nat) : Bool :=
  match path with
  | .tunnel0 _ | .jtag => false
  | _ => keySlot != plainSlot && !s.keyValid keySlot

/-- Send a docket's bytes back on the path of its order (R352, R356, R357, R358). -/
def Chip.answer (s : Chip) (path : MsgPath) (sess keySlot : Nat) (content : List Byte) : Chip :=
  if s.keyGone path keySlot then s.inc MBX_AUTH_DROP else match path with
  | .tunnel0 n => (s.sendMsg n.toNat (message 2 sess content)).2
  | .relay h =>
    let f := s.answerFrame sess keySlot content
    let head := match f.2.servingHead with
      | some p => p + 1024 * f.2.get BRD_STAT_ROW
      | none => h.toNat
    (f.2.sendMsg head (message 9 sess f.1)).2
  | .eth0 src =>
    let f := s.answerFrame sess keySlot content
    f.2.sendEth src.toNat f.1
  | .dock =>
    let f := s.answerFrame sess keySlot content
    f.2.emit (.mgmt .dock f.1)
  | .jtag =>
    let f := s.answerFrame sess plainSlot content
    { f.2 with mbx := { f.2.mbx with jtagOut := f.2.mbx.jtagOut ++ [f.1] } }

/-! ### Dockets (R367) -/

/-- The generation after `g`: 1, 2 … 255, then 1 (R367). -/
def nextGen (g : Nat) : Nat := if g = 255 then 1 else g + 1

/-- An order's docket becomes ready (R367): the generation advances, the docket is stored, MBX_EVT.DOCKET sets, and a copy is sent
where PUSH is 1. -/
def Chip.docketReady (s : Chip) (id : SlotId) (status : Nat) (body : List Byte) : Chip :=
  let x := s.slot id
  match x.order with
  | none => s
  | some o =>
    let g := nextGen x.gen
    let d : Docket := { code := rd o.bytes 0 2, tag := rd o.bytes 2 2, status := status, gen := g, time := s.ns, body := body }
    let s := s.setSlot id ⟨g, none, some (d, o.path, o.keySlot)⟩
    let s := s.evt MBX_EVT_DOCKET
    if bit (s.get MBX_CTL_PUSH) id.sess then s.answer o.path id.sess o.keySlot (docketBytes d) else s

/-- The slot of an order: tag[5:0] (R350). -/
def slotOf (sess : Fin 4) (tag : Nat) : SlotId := ⟨sess, ⟨tag % 64, Nat.mod_lt _ (by decide)⟩⟩

/-- An occupied slot: an order is outstanding or its docket has not been consumed (R350). -/
def Slot.occupied (x : Slot) : Bool := x.order.isSome || x.ready.isSome

/-- Slots occupied in a session (MBX_STAT.OUT_s). -/
def Chip.slotsOut (s : Chip) (sess : Nat) : Nat :=
  (s.mbx.slots.filter (fun e => decide (e.1 / 64 = sess) && e.2.occupied)).length

/-! ### Acceptance of orders -/

/-- Is the order's CODE in Table 13.5, its UNIT permitted, and what selects its row in the table of commands not reserved
(R6, R361)? -/
def orderKnown (code unit : Nat) (body : List Byte) : Bool :=
  let sel (i : Nat) := (body.getD i 0).toNat
  match code with
  | 0x01 => decide (unit = 0)
  | 0x02 => decide (unit = 0)
  | 0x03 => decide (unit = 0)
  | 0x10 => decide (unit = 0 ∧ body.length = 8 ∧ sel 0 < 4)
  | 0x20 => decide (unit = 0 ∧ body.length = 16)
  | 0x21 => decide (unit = 0 ∧ body.length = 8)
  | 0x30 => decide (unit ≤ 4)
  | 0x31 => decide (unit ≤ 4)
  | 0x32 => decide (unit = 0)
  | 0x40 => decide (unit = 0 ∧ 16 ≤ body.length ∧ sel 10 < 4)
  | 0x50 => decide (unit = 0 ∧ body.length = 24 ∧ 1 ≤ sel 0 ∧ sel 0 ≤ 3)
  | 0x60 => decide (unit = 0)
  | 0x70 => decide (unit = 3 ∧ 1 ≤ sel 0 ∧ sel 0 ≤ 13)
  | 0x80 => decide (unit = 0 ∧ body.length = 4)
  | 0x90 => decide (unit = 0 ∧ body.length = 8 ∧ 1 ≤ sel 0 ∧ sel 0 ≤ 4)
  | 0xA0 => decide (unit = 0 ∧ body.length = 8 ∧ 1 ≤ sel 0 ∧ sel 0 ≤ 2)
  | _ => false

/-- May a plain frame carry the order (R355, Table 13.5)? What a plain CSR order reaches and which KEY actions are plain is
checked where they are performed (R366, R519). -/
def plainAllowed (code : Nat) (dock : Bool) : Bool :=
  decide (code = 0x01 ∨ code = 0x03 ∨ code = 0x70) || (dock && decide (code = 0x30 ∨ code = 0x31 ∨ code = 0x32))

def onDock : MsgPath → Bool
  | .dock => true
  | _ => false

/-- Do R355 and R366 restrict the order? They restrict plain frames, and session 3 only until the debug port is unlocked
(R356, R526). -/
def Chip.restricted (s : Chip) (path : MsgPath) (keySlot : Nat) : Bool :=
  match path with
  | .tunnel0 _ => false
  | .jtag => !s.on VLT_STAT_DEBUG_OPEN
  | _ => decide (keySlot = plainSlot)

/-- A docket that is sent once and not stored (R351). -/
def Chip.sendOnce (s : Chip) (path : MsgPath) (sess keySlot : Nat) (bytes : List Byte) (status gen : Nat) : Chip :=
  s.answer path sess keySlot (docketBytes
    { code := rd bytes 0 2, tag := rd bytes 2 2, status := status, gen := gen, time := s.ns, body := [] })

/-- The heartbeat timer is reloaded by an ORDER, READ or ACK accepted on session 0 or 1, which clears LOST (R371). -/
def Chip.reloadHb (s : Chip) (sess : Nat) : Chip :=
  if sess < 2 ∧ s.get GLB_HB_HB_TMO ≠ 0 then (s.put GLB_HB_LOST 0).live causeHb false else s

/-- Shugon runs on Porter, and management is absent (spec/22_updates_and_planting.md R537). -/
def Chip.absent (s : Chip) : Bool := s.upd.rewriting.isSome

/-- Tunnel 0 is not terminated here: Porter firmware does not run, or management is absent (spec/01_rows_and_nodes.md R31). -/
def Chip.noTunnel0 (s : Chip) : Bool := s.absent || !s.boot.porter

/-- An ORDER reaches the mailbox (R350, R351, R355, R361, R362). -/
def Chip.acceptOrder (s : Chip) (path : MsgPath) (sess : Fin 4) (keySlot : Nat) (bytes : List Byte) : Chip :=
  if bytes.length < 16 ∨ s.absent then s
  else
    let id := slotOf sess (rd bytes 2 2)
    let x := s.slot id
    if bit (s.get MBX_CTL_EN) sess = false then s.sendOnce path sess keySlot bytes stRefused x.gen
    else if x.occupied then
      ((s.sendOnce path sess keySlot bytes stRefused x.gen).inc MBX_BUSY_CNT).evt MBX_EVT_BUSY
    else
      let s := (s.setSlot id ⟨x.gen, some ⟨bytes, path, keySlot, false, s.mbx.accepted⟩, none⟩).reloadHb sess
      let s := { s with mbx := { s.mbx with accepted := s.mbx.accepted + 1 } }
      let code := rd bytes 0 2
      let body := bytes.drop 16
      let deadline := rd bytes 8 8
      if 1008 < rd bytes 4 2 ∨ rd bytes 4 2 ≠ body.length ∨ rd bytes 6 1 ≠ 0 ∨ orderKnown code (rd bytes 7 1) body = false
      then s.docketReady id stBadArgs []
      else if s.restricted path keySlot ∧ plainAllowed code (onDock path) = false then s.docketReady id stAuthFail []
      else if deadline ≠ 0 ∧ deadline ≤ s.ns then s.docketReady id stTimeout []
      else s

/-- No order of the session that was accepted earlier still waits to be started (R363). -/
def Chip.isNext (s : Chip) (sess num : Nat) : Bool :=
  s.mbx.slots.all (fun e => match e.2.order with
    | some o => e.1 / 64 != sess || o.started || decide (num ≤ o.num)
    | none => true)

/-- The order that waits in a slot to be started, where its code and body are those of a command's row. -/
def Chip.orderAt (s : Chip) (id : SlotId) (code : Nat) (row : List Byte → Bool) : Option Order :=
  match (s.slot id).order with
  | none => none
  | some o => if o.started = false ∧ rd o.bytes 0 2 = code ∧ row (o.bytes.drop 16) = true ∧ s.isNext id.sess o.num = true
    then some o else none

/-- Start an order (R362): past its DEADLINE it returns TIMEOUT; otherwise it is performed on its body. A slot that holds no such
order leaves the state unchanged (DESIGN CHOICE, log entry 11). -/
def Chip.startOrder (s : Chip) (id : SlotId) (code : Nat) (row : List Byte → Bool)
    (perform : Chip → Order → List Byte → Chip) : Chip :=
  match s.orderAt id code row with
  | none => s
  | some o =>
    let deadline := rd o.bytes 8 8
    if deadline ≠ 0 ∧ deadline ≤ s.ns then s.docketReady id stTimeout []
    else perform (s.setSlot id { s.slot id with order := some { o with started := true } }) o (o.bytes.drop 16)

/-- A tag match that every row of an order without variants uses. -/
def anyBody (_ : List Byte) : Bool := true

/-- A body of the given length whose listed bytes are zero. -/
def zeroBytes (body : List Byte) (l : List Nat) : Bool := l.all (fun i => body.getD i 0 == 0)

/-! ### READ and ACK (R368, R369) -/

/-- The docket that a READ of a slot returns (R368). -/
def Chip.readSlot (s : Chip) (id : SlotId) : Docket :=
  let x := s.slot id
  match x.ready, x.order with
  | some d, _ => d.1
  | none, some o => { code := rd o.bytes 0 2, tag := rd o.bytes 2 2, status := stPending, gen := x.gen, time := 0, body := [] }
  | none, none => { code := 0, tag := 0, status := stPending, gen := x.gen, time := 0, body := [] }

/-- A READ is answered on its path (R368). -/
def Chip.serveRead (s : Chip) (path : MsgPath) (id : SlotId) (keySlot : Nat) : Chip :=
  (s.reloadHb id.sess).answer path id.sess keySlot (docketBytes (s.readSlot id))

/-- An MBX_ACK word consumes the slot it names, which reloads the heartbeat timer; any other is stale (R369, R371). -/
def Chip.ackWord (s : Chip) (w : Nat) : Chip :=
  let id : SlotId := ⟨⟨bits w 8 2, Nat.mod_lt _ (by decide)⟩, ⟨bits w 0 6, Nat.mod_lt _ (by decide)⟩⟩
  let x := s.slot id
  if x.ready.isSome ∧ bits w 16 8 = x.gen then (s.setSlot id ⟨x.gen, none, none⟩).reloadHb id.sess else s.inc MBX_ACK_STALE

/-! ### Frames (R353, R357) -/

/-- A frame is dropped for its key, tag or counter (R353). -/
def Chip.authDrop (s : Chip) : Chip := (s.inc MBX_AUTH_DROP).evt MBX_EVT_AUTH
def Chip.replayDrop (s : Chip) : Chip := (s.inc MBX_REPLAY_DROP).evt MBX_EVT_AUTH

/-- The CONTENT of a frame that passes R353, with the state after the check; none where it is discarded. -/
def Chip.checkFrame (s : Chip) (bytes : List Byte) : Option (List Byte) × Chip :=
  let keySlot := rd bytes 5 1
  if keySlot = plainSlot then (some (bytes.drop 16), s)
  else
    let node := rd bytes 2 2
    let sess := rd bytes 4 1
    let counter := rd bytes 8 8
    let aad := bytes.take 16
    let cipher := (bytes.drop 16).take (bytes.length - 32)
    let nonce := frameNonce node sess 0 counter
    if bytes.length < 32 ∨ s.on VLT_STAT_TAMPERED ∨ 127 < keySlot then (none, s.authDrop)
    else
      let u := s.useKey keySlot useMgmt
      if u.1 = false then (none, u.2.authDrop)
      else if padTo (Config.gcmTag (s.keyBytes keySlot) nonce aad cipher) 16 ≠ bytes.drop (bytes.length - 16) then (none, s.authDrop)
      else if counter ≤ mget 0 s.mbx.rxCounter sess then (none, u.2.replayDrop)
      else (some (padTo (Config.gcmPlain (s.keyBytes keySlot) nonce aad cipher) cipher.length),
        { u.2 with mbx := { u.2.mbx with rxCounter := mset 0 u.2.mbx.rxCounter sess counter } })

/-- What a checked frame's content asks for: an order, a READ or an ACK (Table 13.2). -/
def Chip.performFrame (s : Chip) (path : MsgPath) (kind : Nat) (sess : Fin 4) (keySlot : Nat) (content : List Byte) : Chip :=
  match kind with
  | 1 => s.acceptOrder path sess keySlot content
  | 3 => s.serveRead path (slotOf sess (rd content 0 1)) keySlot
  | 4 => s.ackWord (rd content 0 4)
  | _ => s

/-- A frame for this node: checked under R353 and R355, and performed. -/
def Chip.takeFrame (s : Chip) (path : MsgPath) (sess : Fin 4) (bytes : List Byte) : Chip :=
  let r := s.checkFrame bytes
  match r.1 with
  | none => r.2
  | some content => r.2.performFrame path (rd bytes 1 1) sess (rd bytes 5 1) content

/-- The sessions of a path (Table 13.1). -/
def sessionFits (path : MsgPath) (sess : Nat) : Bool :=
  match path with
  | .dock => decide (sess = 2)
  | .jtag => decide (sess = 3)
  | _ => decide (sess < 2)

/-- The content that an order frame's header defines, with up to three trailing bytes ignored on JTAG (R356). -/
def trimJtag (bytes : List Byte) : List Byte :=
  let want := match rd bytes 1 1 with
    | 1 => 32 + rd bytes 20 2
    | _ => 20
  if want ≤ bytes.length ∧ bytes.length ≤ want + 3 then bytes.take want else bytes

def onJtag : MsgPath → Bool
  | .jtag => true
  | _ => false

/-- A management frame reaches the node on ETH0, D0 or JTAG (R353, R356, R357). -/
def Chip.frameIn (s : Chip) (path : MsgPath) (raw : List Byte) : Chip :=
  let bytes := match path with
    | .jtag => trimJtag raw
    | _ => raw
  let node := rd bytes 2 2
  let kind := rd bytes 1 1
  let sess := rd bytes 4 1
  if s.absent ∨ bytes.length < 16 ∨ rd bytes 0 1 ≠ 1 ∨ (kind ≠ 1 ∧ kind ≠ 3 ∧ kind ≠ 4) ∨ sessionFits path sess = false
      ∨ rd bytes 6 2 ≠ 0 then s
  else
    let sessF : Fin 4 := ⟨sess % 4, Nat.mod_lt _ (by decide)⟩
    match path with
    | .eth0 src =>
      if s.headDuty = false then s
      else if node = s.node then s.takeFrame path sessF bytes
      else if node / 1024 = s.get BRD_STAT_ROW then
        let s := { s with mbx := { s.mbx with relay := mset 0 s.mbx.relay (2 * (node % 1024) + sess) (src.toNat + 1) } }
        (s.sendMsg node (message 9 sess bytes)).2
      else s.sendOnce path sess plainSlot (if rd bytes 5 1 = plainSlot then bytes.drop 16 else []) stRefused 0
    | _ => if (onJtag path ∧ rd bytes 5 1 ≠ plainSlot) then s
      else if node ≠ s.node ∧ s.get BRD_STAT_POS_VALID = 1 then s else s.takeFrame path sessF bytes

/-- A node's message sources (R359): its serving head. -/
def Chip.fromServingHead (s : Chip) (node : Nat) : Bool :=
  match s.servingHead with
  | some p => decide (node = p + 1024 * s.get BRD_STAT_ROW)
  | none => false

/-- A node of this row whose position is Member. -/
def Chip.isMember (s : Chip) (node : Nat) : Bool :=
  decide (node / 1024 = s.get BRD_STAT_ROW) && s.present (node % 1024)

/-- A message from a source that R359 does not allow is counted. -/
def Chip.srcDrop (s : Chip) : Chip := s.inc MBX_SRC_DROP

/-! ### Meanings -/

/-- A management frame received on ETH0, D0 or JTAG (R353, R357). On ETH0 it is what an Ethernet frame of EtherType 0x88B5 for the
station carried, whose header the command no longer has (DEDUCED, log entry 17): the port has to be on with its link up, and the frame is
counted (spec/15_ethernet_and_storage.md R397). -/
def execManagementFrame (path : MsgPath) (bytes : List Byte) (s : State) : Result := s.onChip (fun c =>
  match path with
  | .tunnel0 _ => c
  | .relay _ => c
  | .eth0 src => if c.domainOn 11 = false ∨ c.get (ETH_STAT_LINK 0) = 0 then c else (c.inc (ETH_RX_OK 0)).frameIn (.eth0 src) bytes
  | p => c.frameIn p bytes)

/-- A FRAME message is accepted from the serving head, and at the serving head from every Member of its row (R359). -/
def Chip.frameSource (s : Chip) (node : Nat) : Bool := s.fromServingHead node || (s.headDuty && s.isMember node)

/-- A FRAME message (R357, R359): a frame of KIND 2 goes out unchanged from the serving head on ETH0, to the MAC address held for its node
and session; any other is checked and performed at the node that it names. -/
def frameMsg (node : BitVec 16) (bytes : List Byte) (s : Chip) : Chip :=
  if s.noTunnel0 then s
  else
  let s := s.dropInbox node.toNat (message 9 (rd bytes 4 1) bytes)
  let sess := rd bytes 4 1
  if s.frameSource node.toNat = false then s.srcDrop
  else if rd bytes 1 1 = 2 then
    let mac := mget 0 s.mbx.relay (2 * (node.toNat % 1024) + sess)
    if s.headDuty = false ∨ mac = 0 then s else s.sendEth (mac - 1) bytes
  else if bytes.length < 16 ∨ rd bytes 0 1 ≠ 1 ∨ 1 < sess ∨ rd bytes 2 2 ≠ s.node ∨ rd bytes 6 2 ≠ 0 then s
  else s.takeFrame (.relay node) ⟨sess % 4, Nat.mod_lt _ (by decide)⟩ bytes

def execFrame (node : BitVec 16) (bytes : List Byte) (s : State) : Result := s.onChip (frameMsg node bytes)

/-- The slot of a session's scion (R518). -/
def Chip.sessionKey (s : Chip) (sess : Fin 4) : Nat := mget 0 s.vault.scions sess - 1

/-- An ORDER (R361): as a tunnel 0 message it is taken from the serving head alone (R359). -/
def orderIn (path : MsgPath) (sess : Fin 4) (keyed : Bool) (bytes : List Byte) (s : Chip) : Chip :=
  if s.absent then s
  else match path with
  | .tunnel0 n =>
    if s.noTunnel0 then s
    else
    let s := s.dropInbox n.toNat (message 1 sess bytes)
    if s.fromServingHead n.toNat then s.acceptOrder path sess plainSlot bytes else s.srcDrop
  | p => s.acceptOrder p sess (if keyed then s.sessionKey sess else plainSlot) bytes

def execOrder (path : MsgPath) (sess : Fin 4) (keyed : Bool) (bytes : List Byte) (s : State) : Result :=
  s.onChip (orderIn path sess keyed bytes)

/-- A READ (R368): as a tunnel 0 message it is taken from the serving head alone (R359). -/
def readIn (path : MsgPath) (id : SlotId) (s : Chip) : Chip :=
  if s.absent then s
  else match path with
  | .tunnel0 n =>
    if s.noTunnel0 then s
    else
    let s := s.dropInbox n.toNat (message 3 id.sess [BitVec.ofNat 8 id.slot])
    if s.fromServingHead n.toNat then s.serveRead path id plainSlot else s.srcDrop
  | p => s.serveRead p id plainSlot

def execRead (path : MsgPath) (at_ : SlotId) (s : State) : Result := s.onChip (readIn path at_)

/-- A write to MBX_ACK, or an ACK message from a node, applied as such a write where the node is the serving head (R359, R369). -/
def mbxAck (source : Option (BitVec 16)) (value : Word) (s : Chip) : Chip :=
  match source with
  | none => s.ackWord value.toNat
  | some n =>
    if s.noTunnel0 then s
    else
      let s := s.dropInbox n.toNat (message 4 (bits value.toNat 8 2) (leBytes value.toNat 4))
      if s.fromServingHead n.toNat then s.ackWord value.toNat else s.srcDrop

def execMbxAck (source : Option (BitVec 16)) (value : Word) (s : State) : Result := s.onChip (mbxAck source value)

/-- The heartbeat timer, which runs from the end of start-up, expires (R371). -/
def heartbeatExpiry (s : Chip) : Chip :=
  if s.get GLB_HB_HB_TMO = 0 ∨ s.get CLK_BOOT_STEP ≠ 9 then s
  else (((s.put GLB_HB_LOST 1).evt MBX_EVT_HB_LOST).live causeHb true).shutter causeHb

def execHeartbeatExpiry (s : State) : Result := s.onChip heartbeatExpiry

/-- A write to GLB_HB (R371): 0 stops the timer and clears LOST; another value applies from the next reload. -/
def glbHb (value : Word) (s : Chip) : Chip :=
  let v := bits value.toNat 0 13
  if v = 0 then ((s.put GLB_HB_HB_TMO 0).put GLB_HB_LOST 0).live causeHb false
  else if v < 10 ∨ 6000 < v then s
  else s.put GLB_HB_HB_TMO v

def execGlbHb (value : Word) (s : State) : Result := s.onChip (glbHb value)

/-! ### The JTAG port (R356) -/

/-- Update-DR of MBOX_IN appends a word to the session 3 frame; LAST ends it, and the mailbox takes it. -/
def mboxIn (value : Word) (last : Bool) (s : Chip) : Chip :=
  let s := { s with mbx := { s.mbx with jtagIr := 10, jtagIn := s.mbx.jtagIn ++ leBytes value.toNat 4 } }
  if last then
    let f := s.mbx.jtagIn
    ({ s with mbx := { s.mbx with jtagIn := [] } } : Chip).frameIn .jtag f
  else s

def execMboxIn (value : Word) (last : Bool) (s : State) : Result := s.onChip (mboxIn value last)

/-- Capture-DR of MBOX_OUT loads the next word of the oldest waiting answer; the 34-bit register is DATA, LAST and VALID. -/
def mboxOut (s : Chip) : Chip :=
  let s := { s with mbx := { s.mbx with jtagIr := 11 } }
  match s.mbx.jtagOut with
  | [] => s.emit (.jtag 0)
  | f :: rest =>
    let last := decide (f.length ≤ 4)
    let s := { s with mbx := { s.mbx with jtagOut := if last then rest else f.drop 4 :: rest } }
    s.emit (.jtag (rd f 0 4 + b2n last * 2 ^ 32 + 2 ^ 33))

def execMboxOut (s : State) : Result := s.onChip mboxOut

/-- IDCODE selects the identification register, which reads 0x1 in bits [31:28] and 0x7740 in [27:12]
(spec/26_electrical_and_thermal.md R604); the manufacturer's bits [11:1] are not stated: a free value (DESIGN CHOICE, log entry 12). -/
def idcode (s : Chip) : Chip :=
  let f := s.fresh 11
  ({ f.2 with mbx := { f.2.mbx with jtagIr := 1 } } : Chip).emit (.jtag (0x17740000 + 2 * f.1 + 1))

def execIdcode (s : State) : Result := s.onChip idcode

/-- BYPASS, or any unassigned code, selects the bypass register, which captures 0. -/
def execBypass (code : BitVec 4) (s : State) : Result := s.onChip (fun c =>
  let k := code.toNat
  if k = 0 ∨ k = 1 ∨ k = 2 ∨ k = 10 ∨ k = 11 then c
  else ({ c with mbx := { c.mbx with jtagIr := 15 } } : Chip).emit (.jtag 0))

/-- EXTEST selects the boundary scan register for external test. -/
def execExtest (s : State) : Result := s.onChip (fun c => { c with mbx := { c.mbx with jtagIr := 0 } })

/-- SAMPLE/PRELOAD selects the boundary scan register, to sample or preload it. -/
def execSamplePreload (s : State) : Result := s.onChip (fun c => { c with mbx := { c.mbx with jtagIr := 2 } })

end Sys2Proof.Machine
end

