-- ==== Sys2Proof/Machine/Trunk.lean ====
section
/-! DEFINITION. What a trunk port's lane layer does by itself (spec/02_trunk_lanes.md): the BEQ table, training blocks, the start of
an attempt, and a request for a retrain. -/

namespace Sys2Proof.Machine
open Sys2Proof Sys2Proof.Machine.Reg

/-! ### Codes of TRK_port_STAT.STATE (Table 2.13) -/

def laneOff : Nat := 0
def laneWaiting : Nat := 1
def laneClockLock : Nat := 2
def laneLock : Nat := 3
def laneExchange : Nat := 4
def laneVerify : Nat := 5
def laneUp : Nat := 6
def laneParked : Nat := 7
def laneRetryWait : Nat := 8

def Chip.laneState (s : Chip) (p : TPort) : Nat := s.get (TRK_STAT_STATE p.num)

/-- The power domain of a trunk port (spec/20_power_states.md Table 20.3). -/
def Chip.trunkOn (s : Chip) (p : TPort) : Bool := s.domainOn (4 + p.num)

/-- A port that neither trains, is Up nor Parked shows Waiting while its domain is on and EN is 1, and Off otherwise: the spec names the
two states and does not say when each is shown (DESIGN CHOICE, log entry 32). -/
def Chip.showWaiting (s : Chip) (p : TPort) : Chip :=
  if s.laneState p = laneOff ∧ s.trunkOn p ∧ s.on (TRK_CTL_EN p.num) then s.put (TRK_STAT_STATE p.num) laneWaiting
  else if s.laneState p = laneWaiting ∧ (s.trunkOn p = false ∨ s.on (TRK_CTL_EN p.num) = false) then s.put (TRK_STAT_STATE p.num) laneOff
  else s

/-- Physical data lanes of a port: nine on NU and ND, five on SU and SD (R32). -/
def laneCount (p : TPort) : Nat := if p.skip then 5 else 9

/-- All physical data lanes of a port, as a mask. -/
def allLanes (p : TPort) : Nat := 2 ^ laneCount p - 1

/-- Lanes of a width code: 8, 4, 2 or 1. -/
def widthOf (code : Nat) : Nat := 8 / 2 ^ code

/-- The lanes of a mask, lowest first. -/
def lanesOf (mask : Nat) : List Nat := (List.range 9).filter (fun i => bit mask i)

/-! ### The BEQ table (R46–R49, R613) -/

/-- A lane record within its ranges: reserved bits 0 (Table 2.6). -/
def beqLaneOk (b : List Byte) (off : Nat) : Bool :=
  decide (rd b off 1 < 16 ∧ rd b (off + 1) 1 < 32 ∧ rd b (off + 2) 1 < 16 ∧ rd b (off + 3) 1 = 0)

/-- The key of entry `e`. -/
def beqKey (b : List Byte) (e : Nat) : Nat := rd b (32 + 48 * e) 1 * 64 + rd b (33 + 48 * e) 1 * 16 + rd b (34 + 48 * e) 1

/-- Entry `e` has no reserved byte or bit set. -/
def beqEntryOk (b : List Byte) (e : Nat) : Bool :=
  let o := 32 + 48 * e
  decide (rd b o 1 < 4 ∧ rd b (o + 1) 1 < 4 ∧ rd b (o + 2) 1 < 16 ∧ rd b (o + 3) 1 = 0 ∧ rd b (o + 44) 4 = 0)
  && (List.range 10).all (fun n => beqLaneOk b (o + 4 + 4 * n))
  && (decide (rd b o 1 < 2) || decide (rd b (o + 24) 16 = 0))

/-- ENTRY_COUNT. -/
def beqCount (b : List Byte) : Nat := rd b 6 2

/-- The table is valid (R47). -/
def beqValid (b : List Byte) : Bool :=
  let n := beqCount b
  decide (rd b 0 4 = 0x31514542 ∧ rd b 4 2 = 1 ∧ 1 ≤ n ∧ n ≤ 256 ∧ b.length = 32 + 48 * n ∧ rd b 16 12 = 0
    ∧ crc32c (b.take 28 ++ b.drop 32) = rd b 28 4)
  && (List.range n).all (beqEntryOk b)
  && (List.range (n - 1)).all (fun e => decide (beqKey b e < beqKey b (e + 1)))

/-- The main tap of a lane record (R48). -/
def mainTap (pre post : Nat) : Nat := 64 - pre - post

/-- Lane records a port uses: its data lanes and the clock lane, record 9. -/
def usedRecords (p : TPort) : List Nat := List.range (laneCount p) ++ [9]

/-- The lane records of an entry, as pre-cursor, post-cursor and CTLE code. -/
def beqLane (b : List Byte) (e n : Nat) : Nat × Nat × Nat :=
  let o := 36 + 48 * e + 4 * n
  (rd b o 1 % 16, rd b (o + 1) 1 % 32, rd b (o + 2) 1 % 16)

/-- The entry for a port, rate and HID, where the table is valid and the entry is not (R48, R49). -/
def beqFind (b : List Byte) (p : TPort) (rate hid : Nat) : Option Nat :=
  if beqValid b then
    (List.range (beqCount b)).find? (fun e => decide (beqKey b e = p.num * 64 + rate * 16 + hid)
      && (usedRecords p).all (fun n => decide (24 ≤ mainTap (beqLane b e n).1 (beqLane b e n).2.1)))
  else none

/-- The fused default record of a rate (R613, Table 2.22). -/
def beqDefault (rate : Nat) : Nat × Nat × Nat :=
  match rate with
  | 0 => (4, 12, 10)
  | 1 => (2, 8, 6)
  | 2 => (0, 4, 3)
  | _ => (0, 0, 0)

/-- Apply one lane record (TRK_port_EQ_n). -/
def Chip.setEq (s : Chip) (p : TPort) (n : Nat) (r : Nat × Nat × Nat) : Chip :=
  let s := (s.put (TRK_EQ_TX_PRE p.num n) r.1).put (TRK_EQ_TX_POST p.num n) r.2.1
  (s.put (TRK_EQ_RX_CTLE p.num n) r.2.2).put (TRK_EQ_TX_MAIN p.num n) (mainTap r.1 r.2.1)

/-- A training start samples HID and applies the port's entry, or the fused defaults (R49). -/
def Chip.applyBeq (s : Chip) (p : TPort) (rate : Nat) : Chip :=
  let hid := s.boot.hid
  let s := s.setLane p { s.lane p with hid := hid }
  match beqFind s.boot.beq p rate hid with
  | some e =>
    let s := (usedRecords p).foldl (fun (s : Chip) n => s.setEq p n (beqLane s.boot.beq e n)) s
    s.put (TRK_STAT_BEQ_DEFAULT p.num) 0
  | none =>
    let s := (usedRecords p).foldl (fun (s : Chip) n => s.setEq p n (beqDefault rate)) s
    (s.put (TRK_STAT_BEQ_DEFAULT p.num) 1).evt (TRK_EVT_BEQ_MISS p.num)

/-- The on-chip table is replaced: BEQ_STAT and BEQ_REV follow it (Table 2.21). -/
def Chip.setBeq (s : Chip) (b : List Byte) : Chip :=
  let ok := beqValid b
  let s := { s with boot := { s.boot with beq := b } }
  let s := (s.put TRK_BEQ_STAT_VALID (b2n ok)).put TRK_BEQ_STAT_ENTRIES (if ok then beqCount b else 0)
  s.put TRK_BEQ_REV_TABLE_REV (if ok then rd b 12 4 else 0)

/-! ### Training blocks (R57, Table 2.8) -/

/-- The bytes of a training block that one lane carries. -/
def blockBytes (typ plane lead skip rate width hid count mask reason : Nat) : List Byte :=
  let body : List Byte := [typ, plane + 16 * lead + 32 * skip, rate + 4 * width + 16 * hid, count % 256, mask % 256,
    mask / 256, reason].map (BitVec.ofNat 8)
  body ++ [BitVec.ofNat 8 (crc8 body)]

/-- A received block's payload bytes, where its CHECK byte matches and its TYPE is the one given. -/
def blockOf (typ : Nat) (blk : BitVec 64) : Option (List Byte) :=
  let b := leBytes blk.toNat 8
  if rd b 0 1 = typ ∧ crc8 (b.take 7) = rd b 7 1 then some b else none

/-- Send a payload as a scrambled control block on a physical lane (R36, R37). -/
def Chip.sendControl66 (s : Chip) (p : TPort) (lane payload : Nat) : Chip :=
  let l := s.lane p
  let r := scramble (l.scramblers.getD lane 0) payload
  (s.setLane p { l with scramblers := l.scramblers.set lane r.2 }).emit (.tblock p lane (BitVec.ofNat 66 (controlBlock r.1)))

/-- Send a training block on each data lane that has not failed, and step COUNT (R57, R58 step 1). -/
def Chip.sendBlock (s : Chip) (p : TPort) (typ rate width mask reason : Nat) : Chip :=
  let l := s.lane p
  let s := ((lanesOf (allLanes p)).filter (fun n => !bit l.txFailed n)).foldl (fun (s : Chip) n =>
    s.sendControl66 p n (leNat (blockBytes typ n (b2n p.leads) (b2n p.skip) rate width l.hid l.count mask reason))) s
  s.setLane p { s.lane p with count := (l.count + 1) % 256 }

/-- Scrambled zero data blocks go out on the usable lanes for the verify dwell (R58 step 6). How many blocks the dwell holds is
timing: what the scramblers hold after it is a free value (DESIGN CHOICE, log entries 3 and 31). -/
def Chip.sendZeros (s : Chip) (p : TPort) : Chip :=
  let mask := (s.lane p).partnerUsable % 512
  (lanesOf mask).foldl (fun (s : Chip) n =>
    let f := s.fresh 58
    f.2.setLane p { f.2.lane p with scramblers := (f.2.lane p).scramblers.set n f.1 }) (s.emit (.zeros p mask))

/-! ### Receiving blocks (R36, R37, R40, R67) -/

/-- The sync header of a received block. -/
def syncHeader (b : RxBlock) : Nat := b.bits.toNat % 4

/-- A block is received: its descrambled payload. An invalid sync header is counted while the port is Up (R40). -/
def Chip.rxBlock (s : Chip) (p : TPort) (b : RxBlock) : Nat × Chip :=
  let l := s.lane p
  let r := descramble (l.descramblers.getD b.lane.val 0) (b.bits.toNat / 4)
  let s := s.setLane p { l with descramblers := l.descramblers.set b.lane.val r.2 }
  (r.1, if (syncHeader b = 0 ∨ syncHeader b = 3) ∧ s.laneState p = laneUp then s.inc (TRK_BERR_HDR_ERR p.num b.lane.val) else s)

/-- The payload of a control block; a data block, or one with an invalid header, is no training block (R36, R39). -/
def Chip.rxControl (s : Chip) (p : TPort) (b : RxBlock) : Option (BitVec 64) × Chip :=
  let r := s.rxBlock p b
  (if syncHeader b = 2 then some (BitVec.ofNat 64 r.1) else none, r.2)

/-- A training block is received: `f` acts on a control block's payload. -/
def Chip.onBlock (s : Chip) (p : TPort) (b : RxBlock) (f : BitVec 64 → Chip → Chip) : Chip :=
  match s.rxControl p b with
  | (none, s) => s
  | (some x, s) => f x s

/-- Blocks in the order of receipt: the payloads by physical lane. -/
def Chip.rxBlocks (s : Chip) (p : TPort) (blocks : List RxBlock) : List (Nat × Nat) × Chip :=
  match blocks with
  | [] => ([], s)
  | b :: r =>
    let x := s.rxBlock p b
    let y := Chip.rxBlocks x.2 p r
    ((b.lane.val, x.1) :: y.1, y.2)

/-- The 128 bytes of a flit from the payloads of its blocks, by the receive map (R38). -/
def Chip.destripe (s : Chip) (p : TPort) (got : List (Nat × Nat)) : List Byte :=
  let w := widthOf (s.get (TRK_STAT_WIDTH p.num))
  let share (i : Nat) : List Nat := (got.filter (fun e => decide (e.1 = s.get (TRK_LANE_MAP_RX_LOG p.num i)))).map (·.2)
  (List.range 128).map (fun i => BitVec.ofNat 8 ((share (i % w)).getD (i / w / 8) 0 / 256 ^ (i / w % 8)))

/-- A flit is received: its 128 bytes as descrambled and destriped. -/
def Chip.rxFlit (s : Chip) (p : TPort) (blocks : List RxBlock) : List Byte × Chip :=
  let r := s.rxBlocks p blocks
  (s.destripe p r.1, r.2)

/-- A mask of receive lanes in the numbers of the partner's transmit lanes, as training blocks carry it. -/
def LanePort.txMask (l : LanePort) (rx : Nat) : Nat :=
  if l.finds = [] then rx else (l.finds.map (fun f => if bit rx f.rx then 2 ^ f.tx.val else 0)).foldl (· ||| ·) 0

/-- The port's target rate and width. -/
def Chip.tgtRate (s : Chip) (p : TPort) : Nat := s.get (TRK_CTL_TGT_RATE p.num)
def Chip.tgtWidth (s : Chip) (p : TPort) : Nat := s.get (TRK_CTL_TGT_WIDTH p.num)

/-- The rate this end asks for: its target, or the slower rate it has fallen back to, so that the retrain of a lane fault keeps the
rate (DEDUCED from R54 and R60, log entry 30). -/
def Chip.wantRate (s : Chip) (p : TPort) : Nat := max (s.tgtRate p) (s.lane p).fell

/-- New targets of a port: a change of the rate ends what an earlier fallback left, and takes effect at the next retrain or training
(R62). -/
def Chip.setTargets (s : Chip) (p : TPort) (rate width : Nat) : Chip :=
  let s := if s.tgtRate p = rate then s else s.setLane p { s.lane p with fell := 0 }
  (s.put (TRK_CTL_TGT_RATE p.num) rate).put (TRK_CTL_TGT_WIDTH p.num) width

/-! ### Lane sparing given up (spec/23_in_service_repair.md R547) -/

/-- A link control flit waits to be sent. -/
def Chip.sendCtl (s : Chip) (p : TPort) (c : Ctl) : Chip := s.setLink p { s.link p with ctl := (s.link p).ctl ++ [c] }

/-- The REPAIR order that runs is over: REP_STAT and its docket. -/
def Chip.repairOver (s : Chip) (id : SlotId) (status : Nat) (body : List Byte) : Chip :=
  ((s.put REP_STAT_BUSY 0).put REP_STAT_ACTION 0).docketReady id status body

/-- A sparing attempt ends without its move: SPARE_NAK goes out where this end gives it up, and its order returns TIMEOUT. -/
def Chip.endSparing (s : Chip) (p : TPort) (result : Nat) (nak : Bool) : Chip :=
  match s.rep.sparing.get p with
  | none => s
  | some x =>
    let s := { s with rep := { s.rep with sparing := s.rep.sparing.set p none } }
    let s := if nak then s.sendCtl p (.spare 8 x.logical x.src x.dst result) else s
    let s := s.evt REP_EVT_SPARE_FAIL
    match x.at_ with
    | some id => s.repairOver id stTimeout [BitVec.ofNat 8 result]
    | none => s

/-! ### Starting an attempt (R58 step 1) -/

/-- Step 1 of an attempt: HID is sampled, the BEQ entry applied, and the clock lane and TS1 driven with the port's targets and the
cause of the retrain. A fast retrain keeps the DLL locked and the stored interpolator and bit-slip settings (R63, Table 2.23); a full
training tries every lane again. -/
def Chip.stepOne (s : Chip) (p : TPort) : Chip :=
  let l := s.lane p
  let fast := decide (l.attempt = .fast)
  let s := s.setLane p { l with
    step := 1, usable := allLanes p, finds := if fast then l.finds else [], partnerUsable := allLanes p, locked := 0, verdict := none,
    partnerVerdict := none, txOn := true, clkOn := true, txFailed := if fast then l.txFailed else 0 }
  let s := s.applyBeq p l.rate
  let s := if l.attempt = .fast then s.put (TRK_STAT_STATE p.num) laneLock
    else (s.put (TRK_STAT_STATE p.num) laneClockLock).put (TRK_STAT_DLL_LOCK p.num) 0
  s.sendBlock p 0xA1 (s.wantRate p) (s.tgtWidth p) 0 l.cause

/-- A retrain from Up starts at this end (R62, R63): fast where the rate is kept. `partnerRate` is the partner's target, as far as
this end knows it, and `reason` the cause (Table 2.8). A sparing attempt under way is abandoned (R547). -/
def Chip.startRetrain (s : Chip) (p : TPort) (partnerRate reason : Nat) : Chip :=
  let s := s.endSparing p 3 true
  let rate := max (s.wantRate p) partnerRate
  let kind : Attempt := if rate = s.get (TRK_STAT_RATE p.num) then .fast else .rateChange
  let s := s.setLane p { s.lane p with attempt := kind, rate := rate, fails := 0, request := none, cause := reason }
  s.stepOne p

/-- A cause for a retrain of an Up port (R62, R64): the leader starts it, the follower requests it with a REASON of Table 2.8. -/
def Chip.askRetrain (s : Chip) (p : TPort) (reason : Nat) : Chip :=
  if s.laneState p ≠ laneUp then s
  else if p.leads then s.startRetrain p (s.get (TRK_PARTNER_P_RATE p.num)) reason
  else
    let s := s.setLane p { s.lane p with request := some reason }
    s.sendBlock p 0xA6 (s.wantRate p) (s.tgtWidth p) ((s.lane p).txMask (s.lane p).usable) reason

/-- Every Up port asks for a retrain (spec/22_updates_and_planting.md R535, R539). -/
def Chip.retrainAll (s : Chip) (reason : Nat) : Chip :=
  TPort.list.foldl (fun (s : Chip) p => s.askRetrain p reason) s

end Sys2Proof.Machine
end

