-- ==== Sys2Proof/Machine/Bench.lean ====
section
/-! DEFINITION. Cores as wholes (spec/09_fungatre_machine.md): their hands, halting and freezing, the locks a hand gives up, a
core's instruction banks, and the failure of a unit during a health window (spec/22_updates_and_planting.md R538, R539). -/

namespace Sys2Proof.Machine
open Sys2Proof Sys2Proof.Machine.Reg

/-! ### Cores -/

/-- The hands of a core: 0–15 benches, 16 Porter, 17 Steward. -/
def handsOf (core : Nat) : List HandId :=
  if core < 16 then [benchHand core 0, benchHand core 1, benchHand core 2, benchHand core 3]
  else if core = 16 then [64] else [65]

/-- The power domain of a core (spec/20_power_states.md Table 20.3). -/
def coreDomain (core : Nat) : Nat :=
  if core < 8 then 8 else if core < 16 then 9 else if core = 16 then 1 else 2

/-- The domain of a hand's core is on. -/
def Chip.coreOn (s : Chip) (h : HandId) : Bool := s.domainOn (coreDomain (coreOf h))

/-- The active instruction bank of a core; Porter has one. -/
def Chip.bank (s : Chip) (core : Nat) : Nat :=
  if core < 16 then s.get (BCH_STAT_ACT_BANK core) else if core = 17 then s.cores.stewardBank else 0

/-- The default watchdog period of a core's hands. -/
def Chip.wdogDefault (s : Chip) (core : Nat) : Nat :=
  if core < 16 then s.get (BCH_WDOG_PERIOD core) else if core = 16 then s.cores.porterWdog else s.cores.stewardWdog

/-- Tags a hand holds (TAGS.HELD). -/
def Chip.tagsHeld (s : Chip) (h : HandId) : Nat := (s.cores.tags.filter (fun e => decide (e.2.req.hand = h))).length

/-- The instruction that the hand is stalled on holds an open tag (R535): a register-form LDX. -/
def Chip.stalledOnTag (s : Chip) (h : HandId) : Bool :=
  s.cores.tags.any (fun e => decide (e.2.req.hand = h) && match e.2.kind with
    | .ldxReg _ => true
    | _ => false)

/-! ### Locks given up (spec/11_fungatre_tunnel_instructions.md R326) -/

/-- What a sequence on an accessory bus ends with: chip select deasserted, or STOP
(spec/12_bridge_and_accessory_bus.md R339). -/
def Chip.endSequence (s : Chip) (k : Nat) : Chip := if k = 0 then s else s.emit (.pin "BUS_END" k 0)

/-- A hand's requests for a lock are withdrawn. -/
def Chip.withdrawLocks (s : Chip) (h : HandId) : Chip :=
  (List.range 5).foldl (fun (s : Chip) k =>
    let b := s.bus k
    s.setBus k { b with tries := b.tries.filter (fun t => !(decide (t.hand = h) && t.req.isNone)) }) s

/-- A hand releases its lock and withdraws its requests for one. -/
def Chip.releaseLocks (s : Chip) (h : HandId) : Chip :=
  (List.range 5).foldl (fun (s : Chip) k =>
    let b := s.bus k
    if b.lock = some h then (s.setBus k { b with lock := none }).endSequence k else s) (s.withdrawLocks h)

/-! ### Halting and freezing (R241, R253, spec/22_updates_and_planting.md R535) -/

/-- A hand no longer waits for the read that it had open; the tag stays until its completion (R263). -/
def Chip.forgetReads (s : Chip) (h : HandId) : Chip :=
  { s with cores := { s.cores with tags := s.cores.tags.map (fun e =>
      if e.2.req.hand = h then
        match e.2.kind with
        | .ldxReg _ => (e.1, { e.2 with kind := .lost })
        | _ => e
      else e) } }

/-- A TAT of the hand no longer waits for the event queue. -/
def Chip.dropTat (s : Chip) (h : HandId) : Chip :=
  { s with field := { s.field with waiting := s.field.waiting.filter (fun w => !decide (w.hand = h)) } }

/-- A hand enters Halted: it releases its cell registers and its lock (R253, R326). -/
def Chip.haltHand (s : Chip) (h : HandId) : Chip :=
  let s := s.forgetReads h
  let x := s.hand h
  let s := s.setHand h { x with
    state := .halted, stalled := none, waiting := none, yielding := false, haltAsked := false, checkpoint := false, fence := none }
  let s := if onBench h then s.releaseCregs h 255 else s
  (s.dropTat h).releaseLocks h

/-- The hand is at an instruction boundary: in Run or Wait, or in Stall before an instruction that holds no open tag (R311, R535). -/
def Chip.atBoundary (s : Chip) (h : HandId) : Bool :=
  match (s.hand h).state with
  | .run => true
  | .wait => true
  | .stall => !s.stalledOnTag h
  | _ => false

/-- A hand that leaves a stalled LOCK or TAT gives up its request; the instruction issues afresh later. -/
def Chip.withdrawStalled (s : Chip) (h : HandId) : Chip :=
  match (s.hand h).stalled with
  | some (.lock _ _ _ _) => s.withdrawLocks h
  | some (.tat _ _ _ _) => s.dropTat h
  | _ => s

/-- A pending checkpoint freezes its hand at a boundary outside a handler; the watchdog stops counting. -/
def Chip.freezeHand (s : Chip) (h : HandId) : Chip :=
  let x := s.hand h
  if x.checkpoint ∧ x.inTrap = false ∧ s.atBoundary h then
    (s.withdrawStalled h).setHand h { x with
      state := .frozen, frozenFrom := x.state, checkpoint := false, yielding := false, wdogFrom := s.tick - x.wdogFrom }
  else s

/-- A checkpoint is set pending at every hand of a core that is not Halted, and its rings freeze (R535 step 1, R543 step 1). It ends a
YIELD at once, also in a handler, where the checkpoint waits for ERET (spec/10_fungatre_core_instructions.md R292). -/
def Chip.checkpointCore (s : Chip) (core : Nat) : Chip :=
  let s := (List.range 64).foldl (fun (s : Chip) r =>
    if core < 16 ∧ s.ringValid r ∧ s.get (BCH_RING_BENCH r) = core then s.put (BCH_RING_FROZEN r) 1 else s) s
  (handsOf core).foldl (fun (s : Chip) h =>
    if (s.hand h).state = .halted ∨ (s.hand h).state = .frozen then s
    else (s.setHand h { s.hand h with checkpoint := true, yielding := false }).freezeHand h) s

/-- Every hand of a core is Frozen or Halted. -/
def Chip.allFrozen (s : Chip) (core : Nat) : Bool :=
  (handsOf core).all (fun h => (s.hand h).state == .frozen || (s.hand h).state == .halted)

def Chip.allHalted (s : Chip) (core : Nat) : Bool := (handsOf core).all (fun h => (s.hand h).state == .halted)

/-- A Halted hand is started: pc and every register and hand CSR as R242 says. A MOVE that it has issued still ends (R306). -/
def Chip.startHand (s : Chip) (h : HandId) (entry : Nat) : Chip :=
  s.setHand h { state := .run, pc := BitVec.ofNat 18 entry, wdogPeriod := s.wdogDefault (coreOf h), wdogFrom := s.tick,
                cycleFrom := s.tick, move := (s.hand h).move }

/-! ### A change of OWNER to 0 (spec/19_harness_intake_and_docks.md R479) -/

/-- The channels fall back to the Lodge's minimal intake: UPWR, FPWR and sourcing docks open. -/
def Chip.ownerToLodge (s : Chip) : Chip :=
  if s.get HVI_CTL_OWNER = 0 then s
  else
    let s := s.put HVI_CTL_OWNER 0
    let s := [4, 5, 2, 3].foldl (fun (s : Chip) c =>
      if (4 ≤ c ∨ s.get (HVI_CH_CTL_DIR c) = 0) ∧ (s.get (HVI_CH_STAT_STATE c) = 1 ∨ s.get (HVI_CH_STAT_STATE c) = 2)
      then s.openChannel c 0 else s) s
    s.evt HVI_EVT_LODGE_INTAKE

/-! ### A unit fails its condition (R538, R539) -/

/-- Bytes of the flash (spec/00_scope.md). -/
def flashSize : Nat := 2 ^ 26

/-- The 32 bytes of a directory entry (spec/14_clocks_reset_boot.md Table 14.9). -/
def FlashEntry.toBytes (e : FlashEntry) : List Byte :=
  [e.kind, e.bank, b2n e.active + 2 * b2n e.bound, e.inst].map (BitVec.ofNat 8) ++ leBytes e.offset 4 ++ leBytes e.length 4
    ++ leBytes e.itemCrc 4 ++ leBytes e.rev 4 ++ List.replicate 12 0

/-- What the CRC of a directory copy covers: bytes 0–59 of its header and all entries (Table 14.8). -/
def DirCopy.covered (d : DirCopy) : List Byte :=
  leBytes d.magic 4 ++ leBytes d.version 2 ++ leBytes d.count 2 ++ leBytes d.gen 4 ++ List.replicate 48 0
    ++ d.entries.flatMap FlashEntry.toBytes

/-- Two stretches of flash have a byte in common. -/
def FlashEntry.meets (e : FlashEntry) (off len : Nat) : Bool := decide (off < e.offset + e.length ∧ e.offset < off + len)

/-- Entries lie within the flash without overlapping (R392). -/
def entriesApart (l : List FlashEntry) : Bool :=
  match l with
  | [] => true
  | e :: r => decide (e.offset + e.length ≤ flashSize) && !r.any (fun x => x.meets e.offset e.length) && entriesApart r

/-- A copy of the directory is valid (R392). -/
def DirCopy.valid (d : DirCopy) : Bool :=
  decide (d.magic = 0x52494447 ∧ d.version = 1 ∧ d.count = d.entries.length ∧ 1 ≤ d.count ∧ d.count ≤ 126)
    && decide (d.crc = crc32c d.covered) && entriesApart d.entries

/-- A copy that is there and valid. -/
def validCopy (d : Option DirCopy) : Option DirCopy := d.filter DirCopy.valid

/-- The directory in use: of two valid copies the one with the later GEN, modulo 2^32 with a window of 2^31; copy A where they are
equal (R392). -/
def Chip.dir (s : Chip) : Option DirCopy :=
  match validCopy s.upd.dirA, validCopy s.upd.dirB with
  | some a, some b => if (b.gen + 2 ^ 32 - a.gen % 2 ^ 32) % 2 ^ 32 - 1 < 2 ^ 31 - 1 ∧ a.gen % 2 ^ 32 ≠ b.gen % 2 ^ 32 then some b else some a
  | some a, none => some a
  | none, b => b

/-- An item passes its ITEM_CRC, taken over the bytes stored (Table 14.9, R393). -/
def FlashEntry.intact (e : FlashEntry) : Bool := decide (e.stored.length = e.length) && decide (crc32c e.stored = e.itemCrc)

/-- The ACTIVE entry of a unit; an item whose ITEM_CRC fails is treated as missing (R393). -/
def Chip.activeItem (s : Chip) (kind inst : Nat) : Option FlashEntry :=
  match s.dir with
  | none => none
  | some d => d.entries.find? (fun e => decide (e.kind = kind ∧ e.inst = inst) && e.active && e.intact)

/-- A unit is named by the planting in its health window. -/
def Chip.inHealth (s : Chip) (kind inst : Nat) : Bool :=
  decide (s.get UPD_STAT_PHASE = 4) && match s.upd.planting with
  | some p => p.units.contains (kind, inst)
  | none => false

/-- The cores a unit runs on: a bench, or Steward. -/
def unitCore (u : Nat × Nat) : Option Nat := if u.1 = 6 then some u.2 else if u.1 = 5 then some 17 else none

/-- The body of a PLANT docket (spec/22_updates_and_planting.md Table 22.6). -/
def plantBody (outcome kind inst cause : Nat) : List Byte := [outcome, kind, inst, cause].map (BitVec.ofNat 8)

/-- A planting ends with a docket (R538, R539): UPD_LAST, PHASE and ARMED follow. -/
def Chip.endPlanting (s : Chip) (p : Planting) (status : Nat) (body : List Byte) : Chip :=
  let s := ((s.put UPD_LAST_RESULT (leNat body)).put UPD_STAT_PHASE 0).put UPD_STAT_ARMED 0
  { s with upd := { s.upd with planting := none } }.docketReady p.at_ status body

/-- Every unit of the planting is back: the event, the count and the docket (R539). -/
def Chip.rolledBack (s : Chip) (p : Planting) : Chip :=
  let f := p.failed.getD (0, 0, 0)
  let s := (s.endPlanting p stDone (plantBody 1 f.1 f.2.1 f.2.2)).inc UPD_ROLLBACK_CNT
  s.evtDetail UPD_EVT_ROLLBACK 0 (s.get UPD_LAST_RESULT) 0

/-! #### Stored records (spec/22_updates_and_planting.md R529–R531; spec/21_vault.md R522) -/

/-- The image-verification key: the public key of a slot that grants VERIFY. -/
def Chip.verifyKey (s : Chip) : Option (List Byte) :=
  ((List.range 128).find? (fun k => decide ((s.vslot k).kind = 3) && s.grants k 6)).map (fun k => s.keyBytes k)

/-- A signature over a header passes (R529). -/
def Chip.signedOk (s : Chip) (header sig : List Byte) : Bool :=
  match s.verifyKey with
  | some k => Config.ecdsaOk k (Config.sha384 header) sig
  | none => false

/-- The rootstock is there. -/
def Chip.rooted (s : Chip) : Bool := s.on VLT_STAT_ROOTSTOCK

/-- A stored record passes when it is loaded (R531): its item is intact, its signature and ITEM_DIGEST pass, and it is stored plain
or the storage scion can be derived. -/
def Chip.recordOk (s : Chip) (e : FlashEntry) : Bool :=
  e.intact && s.signedOk e.header e.sig && decide (slice e.header 48 48 = padTo (Config.sha384 e.item) 48) && (e.bound || s.rooted)

/-- The ACTIVE record of a unit, where it passes (R531). -/
def Chip.goodItem (s : Chip) (kind inst : Nat) : Option FlashEntry := (s.activeItem kind inst).filter s.recordOk

/-- BEQ tables and trunk microcode are reloaded from their ACTIVE entries and the ports retrained (R539). -/
def Chip.reloadTables (s : Chip) (units : List (Nat × Nat)) : Chip :=
  let s := if units.contains (7, 255) then
      match s.goodItem 7 255 with
      | some e => s.setBeq e.item
      | none => s.setBeq []
    else s
  if units.contains (7, 255) ∨ units.contains (10, 255) then s.retrainAll 1 else s

/-- The first failing unit of a planting rolls back every unit of it (R539). Porter and Vault firmware are rewritten, tables
reloaded; every bench and Steward of the planting takes a checkpoint, and is swapped back once its hands are frozen. -/
def Chip.unitFailed (s : Chip) (kind inst cause : Nat) : Chip :=
  if s.inHealth kind inst then
    match s.upd.planting with
    | none => s
    | some p =>
      let cores := p.units.filterMap unitCore
      let p := { p with failed := some (kind, inst, cause), swapping := cores }
      let rewrite := if p.units.contains (3, 255) ∧ cause ≠ 4 then some 3 else if p.units.contains (4, 255) then some 4 else none
      let s := { s with upd := { s.upd with planting := some p, rewriting := rewrite } }
      let s := (s.put UPD_STAT_PHASE 5).reloadTables p.units
      let s := cores.foldl (fun (s : Chip) c => s.checkpointCore c) s
      if cores.isEmpty ∧ rewrite.isNone then s.rolledBack p else s
  else s

/-- The unit that a hand's program belongs to fails. -/
def Chip.programFailed (s : Chip) (h : HandId) (cause : Nat) : Chip :=
  if h.val < 64 then s.unitFailed 6 (h.val / 4) cause
  else if h.val = 65 then s.unitFailed 5 255 cause else s

/-! ### Porter restart (spec/14_clocks_reset_boot.md R380, R384) -/

/-- Every order outstanding without a docket completes with TIMEOUT (R384). -/
def Chip.endOrders (s : Chip) (keep : Option SlotId) : Chip :=
  (List.range 256).foldl (fun (s : Chip) i =>
    let id : SlotId := ⟨⟨i / 64 % 4, Nat.mod_lt _ (by decide)⟩, ⟨i % 64, Nat.mod_lt _ (by decide)⟩⟩
    if (s.slot id).order.isSome ∧ keep ≠ some id then s.docketReady id stTimeout [] else s) s

/-- Porter restarts from ROM: its core and data memory are reset, the node is shuttered with cause PORTER, and Porter re-runs
start-up from step 3. -/
def Chip.porterRestart (s : Chip) : Chip :=
  let s := (s.forgetReads 64).releaseLocks 64
  let s := s.addSat BCH_PORTER_STAT_RESTARTS 1
  let s := s.logEntry 0x0A 0x41 0 (s.get BCH_PORTER_STAT_CAUSE + 256 * s.get BCH_PORTER_STAT_RESTARTS) 0
  let s := s.setHand 64 { cycleFrom := s.tick }
  let s := { s with cores := { s.cores with restarts := s.cores.restarts + 1 }, boot := { s.boot with porter := false } }
  let s := s.put CLK_BOOT_STEP 3
  let keep := if s.inHealth 3 255 then s.upd.planting.map (·.at_) else none
  let s := s.unitFailed 3 255 4
  let s := s.endOrders keep
  s.shutter causePorter

/-- Steward halts: intake falls back to the Lodge, and the node is shuttered (Table 9.4, R293, spec/18_field_io_and_shutter.md
Table 18.1). -/
def Chip.stewardHalt (s : Chip) : Chip :=
  let s := (s.haltHand 65).put BCH_STEWARD_STAT_HALTED 1
  ((s.programFailed 65 2).ownerToLodge).shutter causeWdog

end Sys2Proof.Machine
end

