-- ==== Sys2Proof/Machine/Hands.lean ====
section
/-! DEFINITION. What happens to a hand: completing an instruction, stalling, trapping, halting, and the boundary at which pending
causes are taken (spec/09_fungatre_machine.md R241–R265). Entering a trap is one operation, `Chip.trap`; issuing an instruction is
one operation, `State.issue`. -/

namespace Sys2Proof.Machine
open Sys2Proof Sys2Proof.Machine.Reg

/-! ### Completing and stalling -/

/-- A hand completes an instruction: pc advances to `pc`, INSTRET counts, and it is in Run (R296). -/
def Hand.done (x : Hand) (pc : BitVec 18) : Hand :=
  { x with pc := pc, instret := (x.instret + 1) % 2 ^ 64, state := .run, stalled := none, waiting := none, fence := none }

/-- An instruction that writes `v` to register `d` completes. -/
def Chip.complete (s : Chip) (h : HandId) (d : BitVec 5) (v : Word) : Chip :=
  let x := s.hand h
  s.setHand h ((x.setW d v).done (nextPc h x.pc))

/-- An instruction that writes no register completes. -/
def Chip.advance (s : Chip) (h : HandId) : Chip :=
  let x := s.hand h
  s.setHand h (x.done (nextPc h x.pc))

/-- A hand stalls on an instruction (Table 9.1). -/
def Chip.stall (s : Chip) (h : HandId) (i : Instr) : Chip :=
  s.setHand h { s.hand h with state := .stall, stalled := some i }

/-! ### Traps (R261–R265) -/

/-- A cause in a field-owning hand that is a source of doubt, and that a planted unit's condition forbids (R264,
spec/22_updates_and_planting.md Table 22.1). -/
def doubtCause (cause : Nat) : Bool := decide ((1 ≤ cause ∧ cause ≤ 7) ∨ cause = 9)

/-- Where a trap's cause is kept outside the hand: BCH_HAND_CAUSE_b_h, BCH_PORTER_STAT or BCH_STEWARD_STAT. -/
def Chip.recordCause (s : Chip) (h : HandId) (cause : Nat) (dbl : Bool) (epc : BitVec 18) : Chip :=
  if onBench h then
    let b := benchOf h
    let k := handOf h
    let s := (s.put (BCH_HAND_CAUSE_CAUSE b k) cause).put (BCH_HAND_CAUSE_DOUBLE b k) (b2n dbl)
    s.put (BCH_HAND_CAUSE_EPC b k) epc.toNat
  else if h.val = 64 then s.put BCH_PORTER_STAT_CAUSE cause
  else s.put BCH_STEWARD_STAT_CAUSE cause

/-- A hand stops for good, as in a double trap: a bench hand halts, Porter restarts, Steward halts (R263, Table 9.4). -/
def Chip.handDown (s : Chip) (h : HandId) : Chip :=
  if onBench h then (s.haltHand h).programFailed h 2
  else if h.val = 64 then s.porterRestart
  else s.stewardHalt

/-- Taking a trap (R263): the trapping instruction has performed nothing; the hand enters its handler, or takes a double trap
where it is in one already or has none. TEPC is `epc`, and BCH_HAND_CAUSE_b_h holds the address of the trapping instruction, which for
TRAP is not the same (R261, Table 9.9). -/
def Chip.trap (s : Chip) (h : HandId) (cause : Nat) (tval : Word) (epc : BitVec 18) : Chip :=
  let x := s.hand h
  let dbl := x.inTrap || decide (x.tvec = 0)
  let owner := s.fieldOwner h
  let s := s.recordCause h cause dbl x.pc
  let s := if onBench h then s.evtBit (BCH_EVT_TRAP (benchOf h)) (handOf h) else s
  if dbl then
    let s := if onBench h then s.evt (BCH_EVT_DOUBLE_TRAP (benchOf h)) else s
    let s := s.handDown h
    if owner then s.shutter causeHand else s
  else
    let s := (s.withdrawStalled h).setHand h { x with
      state := .run, stalled := none, waiting := none, yielding := false, fence := none, tcause := cause, tepc := epc,
      tval := tval, inTrap := true, pc := BitVec.ofNat 18 x.tvec }
    let s := if doubtCause cause then s.programFailed h 1 else s
    if owner ∧ doubtCause cause then s.shutter causeHand else s

/-- A trap of the instruction at the hand's pc. -/
def Chip.trapHere (s : Chip) (h : HandId) (cause : Nat) (tval : Word) : Chip := s.trap h cause tval (s.hand h).pc

/-- The hand watchdog bites (R265). -/
def Chip.bite (s : Chip) (h : HandId) : Chip :=
  let s := s.recordCause h 6 true (s.hand h).pc
  let s := if onBench h then s.evt (BCH_EVT_WDOG_BITE (benchOf h)) else s
  (s.handDown h).shutter causeWdog

/-! ### Boundaries (R262) -/

/-- The hand is halted by a HALT asked for: not one that executes HALT, which enters Halted once its tags are closed (the coincidence of
spec/10_fungatre_core_instructions.md: it enters Halted once, and HALTED is set). -/
def Hand.haltDue (x : Hand) : Bool := x.haltAsked && !(x.state == .stall && match x.stalled with
  | some (.halt _) => true
  | _ => false)

/-- Is something pending that the hand takes at its next boundary? -/
def Hand.pendingCause (x : Hand) : Bool :=
  x.haltDue || x.pend06 || x.pend05.isSome || ((x.checkpoint || x.pend0A) && !x.inTrap)

/-- What a hand takes at a boundary: a HALT asked for, then cause 0x06, then 0x05, then a checkpoint or cause 0x0A, which waits
until ERET has cleared IN_TRAP (R241, R262). -/
def Chip.boundary (s : Chip) (h : HandId) : Chip :=
  let x := s.hand h
  if s.atBoundary h = false ∨ s.coreOn h = false then s
  else if x.haltDue then s.haltHand h
  else if x.pend06 then
    (s.setHand h { x with pend06 := false }).trapHere h 6 (BitVec.ofNat 32 x.wdogPeriod)
  else match x.pend05 with
  | some k => (s.setHand h { x with pend05 := none }).trapHere h 5 (BitVec.ofNat 32 k)
  | none =>
    if x.inTrap then s
    else if x.checkpoint then s.freezeHand h
    else if x.pend0A then (s.setHand h { x with pend0A := false }).trapHere h 10 0
    else s

/-! ### Issue -/

/-- The data memory of Porter is lost when Porter restarts (R380). -/
def Memory.clear (m : Memory) (lo hi : Nat) : Memory := m.filter (fun c => !(decide (lo ≤ c.1) && decide (c.1 < hi)))

/-- A new chip, with Porter's data memory cleared where Porter has restarted. -/
def State.settle (s : State) (c : Chip) : State :=
  { s with chip := c, mem := if c.cores.restarts = s.chip.cores.restarts then s.mem
      else Memory.clear s.mem (dmemBase 16) (dmemBase 17) }

/-- A change of the chip in which a hand may trap. -/
def State.onHand (s : State) (f : Chip → Chip) : Result := .next (s.settle (f s.chip))

/-- The hand is ready to issue: in Run, its core's domain on, and no YIELD under way (R239, R292). -/
def Chip.ready (s : Chip) (h : HandId) : Bool :=
  (s.hand h).state == .run && !(s.hand h).yielding && s.coreOn h

/-- The word number of a hand's pc in the active bank. -/
def Chip.fetchWord (s : Chip) (h : HandId) : Nat :=
  (imemBase (coreOf h) (s.bank (coreOf h)) + (s.hand h).pc.toNat) / 4

/-- The fetch finds a parity error (R248). -/
def Chip.fetchBad (s : Chip) (h : HandId) : Bool := mget false s.cores.imark (s.fetchWord h)

/-- A parity error found by a fetch also remaps its row (spec/23_in_service_repair.md R551). -/
def Chip.fetchTrap (s : Chip) (h : HandId) : Chip :=
  let pc := (s.hand h).pc
  let core := coreOf h
  let s := if core < 16 then s.autoRemap 2 (2 * core + s.bank core) pc.toNat
    else if core = 16 ∧ 0x8000 ≤ pc.toNat then s.autoRemap 4 0 (pc.toNat - 0x8000) else s
  s.trapHere h 9 (pc.zeroExtend 32)

/-- A hand issues an instruction: a hand that is not ready issues nothing, a pending cause is taken instead, and a fetch with a
parity error traps (R239, R248, R262). -/
def State.issue (s : State) (h : HandId) (f : State → State) : Result :=
  if s.chip.ready h = false then .next s
  else if (s.chip.hand h).pendingCause then .next (s.settle (s.chip.boundary h))
  else if s.chip.fetchBad h then .next (s.settle (s.chip.fetchTrap h))
  else .next (f s)

/-- An instruction whose effect is on the chip alone. -/
def State.issueChip (s : State) (h : HandId) (f : Chip → Chip) : Result := s.issue h (fun s => s.settle (f s.chip))

/-- An instruction that only benches have: it raises trap 0x01 on Porter and Steward (R269, R277). -/
def Chip.benchOnly (s : Chip) (h : HandId) (word : Word) (f : Chip → Chip) : Chip :=
  if onBench h then f s else s.trapHere h 1 word

end Sys2Proof.Machine
end

