-- ==== Sys2Proof/Machine/Alu.lean ====
section
/-! DEFINITION. The instructions that compute (spec/10_fungatre_core_instructions.md R278–R282): every one reads its registers
before it writes, and none traps but SHIFTI with a reserved immediate. -/

namespace Sys2Proof.Machine
open Sys2Proof Sys2Proof.Machine.Reg

/-! ### The operations of Table 10.3 -/

def opSll (a b : Word) : Word := a <<< (b.toNat % 32)
def opSrl (a b : Word) : Word := a >>> (b.toNat % 32)
def opSra (a b : Word) : Word := a.sshiftRight (b.toNat % 32)
def opRor (a b : Word) : Word := a.rotateRight (b.toNat % 32)
def opMin (a b : Word) : Word := if a.slt b then a else b
def opMax (a b : Word) : Word := if a.slt b then b else a
def opMinu (a b : Word) : Word := if a.ult b then a else b
def opMaxu (a b : Word) : Word := if a.ult b then b else a
def opMulh (a b : Word) : Word := BitVec.ofInt 32 (a.toInt * b.toInt / 2 ^ 32)
def opMulhu (a b : Word) : Word := BitVec.ofNat 32 (a.toNat * b.toNat / 2 ^ 32)

/-- Signed division, rounded toward zero, with the edge cases of Table 10.5 (R279). -/
def opDiv (a b : Word) : Word := if b = 0 then BitVec.allOnes 32 else BitVec.ofInt 32 (a.toInt.tdiv b.toInt)

/-- Unsigned division with the edge cases of Table 10.5. -/
def opDivu (a b : Word) : Word := if b = 0 then BitVec.allOnes 32 else BitVec.ofNat 32 (a.toNat / b.toNat)

/-- The remainder that goes with DIV. -/
def opRem (a b : Word) : Word := if b = 0 then a else BitVec.ofInt 32 (a.toInt - b.toInt * a.toInt.tdiv b.toInt)

/-- The remainder that goes with DIVU. -/
def opRemu (a b : Word) : Word := if b = 0 then a else BitVec.ofNat 32 (a.toNat % b.toNat)

/-- Leading zero bits, 0–32. -/
def opClz (a : Word) : Word := BitVec.ofNat 32 (if a = 0 then 32 else 31 - Nat.log2 a.toNat)

/-- One bits, 0–32. -/
def opPopc (a : Word) : Word := BitVec.ofNat 32 (popCount a.toNat 32)

/-- Bytes 0–3 in the order 3, 2, 1, 0. -/
def opBswap (a : Word) : Word :=
  BitVec.ofNat 32 (bits a.toNat 24 8 + bits a.toNat 16 8 * 2 ^ 8 + bits a.toNat 8 8 * 2 ^ 16 + bits a.toNat 0 8 * 2 ^ 24)

def opSextb (a : Word) : Word := (a.truncate 8).signExtend 32
def opSexth (a : Word) : Word := (a.truncate 16).signExtend 32

/-- The kinds of SHIFTI (Table 10.6). -/
def opShift (kind : Nat) (a : Word) (n : Nat) : Word :=
  match kind with
  | 0 => opSll a (BitVec.ofNat 32 n)
  | 1 => opSrl a (BitVec.ofNat 32 n)
  | 2 => opSra a (BitVec.ofNat 32 n)
  | _ => opRor a (BitVec.ofNat 32 n)

/-! ### The three forms -/

/-- An instruction of two source registers. -/
def Chip.alu2 (s : Chip) (h : HandId) (d a b : BitVec 5) (f : Word → Word → Word) : Chip :=
  s.complete h d (f ((s.hand h).w a) ((s.hand h).w b))

/-- An instruction of one source register. -/
def Chip.alu1 (s : Chip) (h : HandId) (d a : BitVec 5) (f : Word → Word) : Chip := s.complete h d (f ((s.hand h).w a))

/-! ### Meanings -/

/-- ADD (R278): wd := wa + wb. -/
def execAdd (h : HandId) (d a b : BitVec 5) (s : State) : Result := s.issueChip h (fun c => c.alu2 h d a b (fun x y => x + y))

/-- SUB (R278): wd := wa − wb. -/
def execSub (h : HandId) (d a b : BitVec 5) (s : State) : Result := s.issueChip h (fun c => c.alu2 h d a b (fun x y => x - y))

/-- AND (R278): wd := wa and wb. -/
def execAnd (h : HandId) (d a b : BitVec 5) (s : State) : Result := s.issueChip h (fun c => c.alu2 h d a b (fun x y => x &&& y))

/-- OR (R278): wd := wa or wb. -/
def execOr (h : HandId) (d a b : BitVec 5) (s : State) : Result := s.issueChip h (fun c => c.alu2 h d a b (fun x y => x ||| y))

/-- XOR (R278): wd := wa xor wb. -/
def execXor (h : HandId) (d a b : BitVec 5) (s : State) : Result := s.issueChip h (fun c => c.alu2 h d a b (fun x y => x ^^^ y))

/-- ANDN (R278): wd := wa and not wb. -/
def execAndn (h : HandId) (d a b : BitVec 5) (s : State) : Result := s.issueChip h (fun c => c.alu2 h d a b (fun x y => x &&& ~~~y))

/-- SLL (R278): wd := wa shifted left by wb[4:0]. -/
def execSll (h : HandId) (d a b : BitVec 5) (s : State) : Result := s.issueChip h (fun c => c.alu2 h d a b opSll)

/-- SRL (R278): wd := wa shifted right by wb[4:0], zeros in. -/
def execSrl (h : HandId) (d a b : BitVec 5) (s : State) : Result := s.issueChip h (fun c => c.alu2 h d a b opSrl)

/-- SRA (R278): wd := wa shifted right by wb[4:0], copies of wa[31] in. -/
def execSra (h : HandId) (d a b : BitVec 5) (s : State) : Result := s.issueChip h (fun c => c.alu2 h d a b opSra)

/-- ROR (R278): wd := wa rotated right by wb[4:0]. -/
def execRor (h : HandId) (d a b : BitVec 5) (s : State) : Result := s.issueChip h (fun c => c.alu2 h d a b opRor)

/-- CMP (R278): wd := cmpword(wa, wb) (R280). -/
def execCmp (h : HandId) (d a b : BitVec 5) (s : State) : Result := s.issueChip h (fun c => c.alu2 h d a b cmpword)

/-- MIN (R278): the lesser of s(wa), s(wb). -/
def execMin (h : HandId) (d a b : BitVec 5) (s : State) : Result := s.issueChip h (fun c => c.alu2 h d a b opMin)

/-- MAX (R278): the greater of s(wa), s(wb). -/
def execMax (h : HandId) (d a b : BitVec 5) (s : State) : Result := s.issueChip h (fun c => c.alu2 h d a b opMax)

/-- MINU (R278): the lesser of u(wa), u(wb). -/
def execMinu (h : HandId) (d a b : BitVec 5) (s : State) : Result := s.issueChip h (fun c => c.alu2 h d a b opMinu)

/-- MAXU (R278): the greater of u(wa), u(wb). -/
def execMaxu (h : HandId) (d a b : BitVec 5) (s : State) : Result := s.issueChip h (fun c => c.alu2 h d a b opMaxu)

/-- MUL (R278): bits [31:0] of wa × wb. -/
def execMul (h : HandId) (d a b : BitVec 5) (s : State) : Result := s.issueChip h (fun c => c.alu2 h d a b (fun x y => x * y))

/-- MULH (R278): bits [63:32] of s(wa) × s(wb). -/
def execMulh (h : HandId) (d a b : BitVec 5) (s : State) : Result := s.issueChip h (fun c => c.alu2 h d a b opMulh)

/-- MULHU (R278): bits [63:32] of u(wa) × u(wb). -/
def execMulhu (h : HandId) (d a b : BitVec 5) (s : State) : Result := s.issueChip h (fun c => c.alu2 h d a b opMulhu)

/-- DIV (R278): s(wa) / s(wb), rounded toward zero (R279). -/
def execDiv (h : HandId) (d a b : BitVec 5) (s : State) : Result := s.issueChip h (fun c => c.alu2 h d a b opDiv)

/-- DIVU (R278): u(wa) / u(wb) (R279). -/
def execDivu (h : HandId) (d a b : BitVec 5) (s : State) : Result := s.issueChip h (fun c => c.alu2 h d a b opDivu)

/-- REM (R278): s(wa) − s(wb) × (s(wa) / s(wb)) (R279). -/
def execRem (h : HandId) (d a b : BitVec 5) (s : State) : Result := s.issueChip h (fun c => c.alu2 h d a b opRem)

/-- REMU (R278): u(wa) mod u(wb) (R279). -/
def execRemu (h : HandId) (d a b : BitVec 5) (s : State) : Result := s.issueChip h (fun c => c.alu2 h d a b opRemu)

/-- CLZ (R278): count of leading zero bits of wa. -/
def execClz (h : HandId) (d a : BitVec 5) (s : State) : Result := s.issueChip h (fun c => c.alu1 h d a opClz)

/-- POPC (R278): count of one bits of wa. -/
def execPopc (h : HandId) (d a : BitVec 5) (s : State) : Result := s.issueChip h (fun c => c.alu1 h d a opPopc)

/-- BSWAP (R278): wa with its bytes reversed. -/
def execBswap (h : HandId) (d a : BitVec 5) (s : State) : Result := s.issueChip h (fun c => c.alu1 h d a opBswap)

/-- SEXTB (R278): sext(wa[7:0]). -/
def execSextb (h : HandId) (d a : BitVec 5) (s : State) : Result := s.issueChip h (fun c => c.alu1 h d a opSextb)

/-- SEXTH (R278): sext(wa[15:0]). -/
def execSexth (h : HandId) (d a : BitVec 5) (s : State) : Result := s.issueChip h (fun c => c.alu1 h d a opSexth)

/-- ADDI: wd := wa + sext(imm16) (R281). -/
def execAddi (h : HandId) (d a : BitVec 5) (imm : BitVec 16) (s : State) : Result :=
  s.issueChip h (fun c => c.alu1 h d a (fun x => x + sext16 imm))

/-- ANDI: wd := wa and zext(imm16) (R281). -/
def execAndi (h : HandId) (d a : BitVec 5) (imm : BitVec 16) (s : State) : Result :=
  s.issueChip h (fun c => c.alu1 h d a (fun x => x &&& zext16 imm))

/-- ORI: wd := wa or zext(imm16) (R281). -/
def execOri (h : HandId) (d a : BitVec 5) (imm : BitVec 16) (s : State) : Result :=
  s.issueChip h (fun c => c.alu1 h d a (fun x => x ||| zext16 imm))

/-- XORI: wd := wa xor zext(imm16) (R281). -/
def execXori (h : HandId) (d a : BitVec 5) (imm : BitVec 16) (s : State) : Result :=
  s.issueChip h (fun c => c.alu1 h d a (fun x => x ^^^ zext16 imm))

/-- CMPI: wd := cmpword(wa, sext(imm16)) (R281). -/
def execCmpi (h : HandId) (d a : BitVec 5) (imm : BitVec 16) (s : State) : Result :=
  s.issueChip h (fun c => c.alu1 h d a (fun x => cmpword x (sext16 imm)))

/-- LUI (R281): wd := imm16 << 16. -/
def execLui (h : HandId) (d : BitVec 5) (imm : BitVec 16) (s : State) : Result :=
  s.issueChip h (fun c => c.complete h d (BitVec.ofNat 32 (imm.toNat * 65536)))

/-- SHIFTI (R282): the kind of imm16[6:5] by imm16[4:0]; imm16[15:7] other than 0 raises trap 0x01. -/
def execShifti (h : HandId) (d a : BitVec 5) (imm : BitVec 16) (s : State) : Result :=
  s.issueChip h (fun c =>
    if 128 ≤ imm.toNat then c.trapHere h 1 (fmtI 0x06 d a imm)
    else c.alu1 h d a (fun x => opShift (imm.toNat / 32) x (imm.toNat % 32)))

end Sys2Proof.Machine
end

