-- ==== Sys2Proof/Machine/LoadStore.lean ====
section
/-! DEFINITION. Loads and stores (spec/10_fungatre_core_instructions.md R283, R284; spec/09_fungatre_machine.md R246, R247). -/

namespace Sys2Proof.Machine
open Sys2Proof Sys2Proof.Machine.Reg

/-- ea := wa + sext(imm16). -/
def Chip.ea (s : Chip) (h : HandId) (a : BitVec 5) (imm : BitVec 16) : Word := (s.hand h).w a + sext16 imm

/-- The error that a data memory word holds (R247): 0 none, 1 one bit, 2 beyond correction. -/
def Chip.soft (s : Chip) (at_ : Nat) : Nat := mget 0 s.cores.dmark (at_ / 4)

/-- A word's error is gone: it was corrected, or a store replaced the word. -/
def Chip.heal (s : Chip) (at_ : Nat) : Chip :=
  { s with cores := { s.cores with dmark := mset 0 s.cores.dmark (at_ / 4) 0 } }

/-- A load corrects a word and counts it (R247). -/
def Chip.corrected (s : Chip) (h : HandId) (at_ : Nat) : Chip :=
  let s := s.heal at_
  if onBench h then (s.inc (BCH_ECC_CORR (benchOf h))).evt (BCH_EVT_ECC_CORR (benchOf h)) else s

/-- The row of a core's data address is remapped (spec/23_in_service_repair.md R551). -/
def Chip.remapData (s : Chip) (core addr : Nat) : Chip :=
  if core < 16 then s.autoRemap 1 core addr else if core = 16 then s.autoRemap 4 1 addr else s.autoRemap 5 0 addr

/-- A load finds a word beyond correction: it is counted and traps (R247). -/
def Chip.uncorrectable (s : Chip) (h : HandId) (ea : Word) : Chip :=
  let s := s.remapData (coreOf h) (ea.toNat % 2 ^ dataWidth h)
  let s := if onBench h then
      ((s.inc (BCH_ECC_UNCORR (benchOf h))).put (BCH_ECC_ADDR_ADDR (benchOf h)) ea.toNat).evt (BCH_EVT_ECC_UNCORR (benchOf h))
    else s
  s.trapHere h 9 ea

/-- A load of a size into wd, zero-extended (R283). -/
def State.load (s : State) (h : HandId) (d a : BitVec 5) (imm : BitVec 16) (size : AccSize) : State :=
  let c := s.chip
  let ea := c.ea h a imm
  let at_ := dataAddr h ea
  if ea.toNat % size.bytes ≠ 0 then s.settle (c.trapHere h 2 ea)
  else if c.soft at_ = 2 then s.settle (c.uncorrectable h ea)
  else
    let c := if c.soft at_ = 0 then c else c.corrected h at_
    { s with chip := c.complete h d (BitVec.ofNat 32 (Memory.read s.mem at_ size.bytes)) }

/-- A store of the low bytes of wd (R284); a byte or halfword to a word beyond correction traps (R247). -/
def State.store (s : State) (h : HandId) (d a : BitVec 5) (imm : BitVec 16) (size : AccSize) : State :=
  let c := s.chip
  let ea := c.ea h a imm
  let at_ := dataAddr h ea
  if ea.toNat % size.bytes ≠ 0 then s.settle (c.trapHere h 2 ea)
  else if size.bytes < 4 ∧ c.soft at_ = 2 then s.settle (c.trapHere h 9 ea)
  else { s with chip := (c.heal at_).advance h, mem := Memory.write s.mem at_ size.bytes ((c.hand h).w d).toNat }

/-- LDW: wd := mem32[ea]. -/
def execLdw (h : HandId) (d a : BitVec 5) (imm : BitVec 16) (s : State) : Result := s.issue h (fun s => s.load h d a imm .word)

/-- LDH: wd := zext(mem16[ea]). -/
def execLdh (h : HandId) (d a : BitVec 5) (imm : BitVec 16) (s : State) : Result := s.issue h (fun s => s.load h d a imm .half)

/-- LDB: wd := zext(mem8[ea]). -/
def execLdb (h : HandId) (d a : BitVec 5) (imm : BitVec 16) (s : State) : Result := s.issue h (fun s => s.load h d a imm .byte)

/-- STW: mem32[ea] := wd. -/
def execStw (h : HandId) (d a : BitVec 5) (imm : BitVec 16) (s : State) : Result := s.issue h (fun s => s.store h d a imm .word)

/-- STH: mem16[ea] := wd[15:0]. -/
def execSth (h : HandId) (d a : BitVec 5) (imm : BitVec 16) (s : State) : Result := s.issue h (fun s => s.store h d a imm .half)

/-- STB: mem8[ea] := wd[7:0]. -/
def execStb (h : HandId) (d a : BitVec 5) (imm : BitVec 16) (s : State) : Result := s.issue h (fun s => s.store h d a imm .byte)

end Sys2Proof.Machine
end

