-- ==== Sys2Proof/Machine/Sched.lean ====
section
/-! DEFINITION. The give side of a ring and allotment (spec/07_scheduling_and_allotment.md R198–R204), and the meanings of their commands. -/

namespace Sys2Proof.Machine
open Sys2Proof Sys2Proof.Machine.Reg

/-! ### The give side of a ring (R198–R200, spec/06_switch_core.md R168) -/

/-- Whether a ring's head cell may enter the switch. -/
inductive Police where
  | pass | drop | hold
  deriving DecidableEq, Repr

/-- The policer's check of a cell given on tunnel t. -/
def Chip.police (s : Chip) (t : Nat) (kept : Bool) : Police :=
  if s.get (SCH_POL_RATE_RATE t) = 0 ∨ 0 ≤ s.polCredit t then .pass
  else if kept then .hold else .drop

/-- The head cell leaves the give side; the hand has event 1 where the side was full (spec/11_fungatre_tunnel_instructions.md
Table 11.3). -/
def Chip.popGive (s : Chip) (r : Nat) : Chip :=
  let x := s.ring r
  let full := decide (x.give.length = s.get (BCH_RING_GIVE_DEPTH r))
  let s := s.setRing r { x with give := x.give.tail }
  if full then s.raise (s.ringHand r) 1 else s

/-- The head cell has passed its policer. -/
def Chip.markPassed (s : Chip) (r : Nat) : Chip :=
  let x := s.ring r
  match x.give with
  | [] => s
  | e :: rest => s.setRing r { x with give := { e with passed := true } :: rest }

/-- A kept copy takes its place in the keep store of its tunnel. -/
def Chip.keepCopy (s : Chip) (t seq : Nat) (blk : Option Nat) : Chip :=
  match blk with
  | some b => s.setTun t { s.tun t with copies := (s.tun t).copies ++ [(seq, b)] }
  | none => s

/-- Offer the head cell of a ring to the switch; false where it stays. -/
def Chip.giveHead (s : Chip) (r : Nat) : Bool × Chip :=
  match (s.ring r).give with
  | [] => (false, s)
  | e :: _ =>
    let port := s.get (BCH_RING_PORT r)
    match e.tun with
    | none =>
      let x := s.placeEndpoint (s.clusterOf r) port e.cell
      if x.held then (false, (s.notPlaced x).evt SWX_EVT_HELD) else (true, x.chip.popGive r)
    | some t =>
      let verdict := if e.passed then .pass else s.police t e.cell.kept
      match verdict with
      | .hold => (false, s)
      | .drop => (true, ((s.inc (SCH_POL_DROP t)).evt SCH_EVT_POLICE_DROP).popGive r)
      | .pass =>
        let s := if e.passed ∨ s.get (SCH_POL_RATE_RATE t) = 0 then s else s.chargePol t 104
        let s := s.markPassed r
        let keep := e.cell.kept && (s.tun t).live
        let x := s.place port 0 none (s.setRail e.cell) keep
        if x.held then (false, if e.cell.kept then s.notPlaced x else (s.notPlaced x).evt SWX_EVT_HELD)
        else
          let c := if keep then x.chip.keepCopy t e.cell.seq x.blk else x.chip
          (true, c.popGive r)

/-- Cells leave a ring's give side in order, as long as the switch takes them. -/
def Chip.pumpRing (s : Chip) (r fuel : Nat) : Chip :=
  match fuel with
  | 0 => s
  | n + 1 =>
    let x := s.giveHead r
    if x.1 then Chip.pumpRing x.2 r n else x.2

def Chip.pump (s : Chip) (r : Nat) : Chip :=
  if s.ringValid r ∧ s.domainOn (if s.get (BCH_RING_BENCH r) < 8 then 8 else 9) then s.pumpRing r (s.ring r).give.length else s

/-- A kept cell held by its policer is checked again (R200). -/
def execPolicerRetry (ring : Fin 64) (s : State) : Result := s.onChip (fun c => c.pump ring)

/-! ### Allotment (R201–R204) -/

/-- Fields of an ALLOT body (Table 7.2). -/
def allotEpoch (b : List Byte) : Nat := rd b 0 8
def allotCount (b : List Byte) : Nat := rd b 8 2
def allotPhase (b : List Byte) : Nat := rd b 10 1
def allotRef (b : List Byte) : Nat := rd b 14 2

/-- Entry i of a body (Table 7.3). -/
def allotEntry (b : List Byte) (i : Nat) : AllotEntry :=
  let o := 16 + 16 * i
  { node := rd b o 2, kind := rd b (o + 2) 1, port := rd b (o + 3) 1, index := rd b (o + 4) 2, rate := rd b (o + 8) 4,
    burst := rd b (o + 12) 4 }

def allotEntries (b : List Byte) : List AllotEntry := (List.range (allotCount b)).map (allotEntry b)

/-- The bytes of an entry. -/
def allotBytes (e : AllotEntry) : List Byte :=
  leBytes e.node 2 ++ leBytes e.kind 1 ++ leBytes e.port 1 ++ leBytes e.index 2 ++ [0, 0] ++ leBytes e.rate 4 ++ leBytes e.burst 4

/-- An entry in the ranges of Table 7.3 and of the registers it writes. -/
def AllotEntry.ok (e : AllotEntry) : Bool :=
  match e.kind with
  | 1 => decide (e.port = 0 ∧ e.index < 1024 ∧ e.rate < 2 ^ 24 ∧ e.burst < 2 ^ 24)
  | 2 => decide (e.port < 16 ∧ e.index < 64 ∧ e.rate < 2 ^ 24 ∧ e.burst < 2 ^ 16)
  | 3 => decide (e.port < 16 ∧ e.index < 64 ∧ 1 ≤ e.rate ∧ e.rate < 2 ^ 16 ∧ e.burst = 0)
  | _ => false

/-- The body's length, zero bytes and entries are as Tables 7.2 and 7.3 say. -/
def allotBodyOk (b : List Byte) (withEntries : Bool) : Bool :=
  zeroBytes b [11, 12, 13]
  && (if withEntries then decide (1 ≤ allotCount b ∧ allotCount b ≤ 62 ∧ b.length = 16 + 16 * allotCount b)
        && (List.range (allotCount b)).all (fun i => zeroBytes b [16 + 16 * i + 6, 16 + 16 * i + 7])
      else decide (allotCount b = 0 ∧ b.length = 16))

/-- The ALLOT orders of one phase. -/
def phaseIs (n : Nat) (b : List Byte) : Bool := decide (allotPhase b = n)

/-- Entries and epochs staged (SCH_STAT). -/
def Chip.stagedEntries (s : Chip) : Nat := (s.sw.stages.map (fun x => x.entries.length)).sum
def Chip.stagedEpochs (s : Chip) : List Nat := (s.sw.stages.map (·.epoch)).dedup

/-- An order that the serving head sends a node of an allotment; the head's own references number its tags. -/
def allotOrder (tag epoch count phase ref : Nat) (entries : List Byte) : List Byte :=
  let body := leBytes epoch 8 ++ leBytes count 2 ++ [BitVec.ofNat 8 phase, 0, 0, 0] ++ leBytes ref 2 ++ entries
  leBytes 0x40 2 ++ leBytes tag 2 ++ leBytes body.length 2 ++ [0, 0] ++ leBytes 0 8 ++ body

/-- Tags of a reference's stage order and of its commit or cancel order. -/
def stageTag (ref : Nat) : Nat := 2 * ref % 65536
def commitTag (ref : Nat) : Nat := (2 * ref + 1) % 65536

/-- A request at the serving head (R202 steps 1 and 2): each target node is sent its own entries under a reference. -/
def allotRequest (s : Chip) (id : SlotId) (b : List Byte) : Chip :=
  if allotBodyOk b true = false ∨ allotRef b ≠ 0 ∨ (allotEntries b).all AllotEntry.ok = false then s.docketReady id stBadArgs []
  else if s.headDuty = false then s.docketReady id stRefused []
  else if allotEpoch b * 1000000 < s.ns + s.get SCH_ALLOT_TMR_ALLOT_LEAD * 10000 then s.docketReady id stRefused []
  else
    let ref := s.sw.nextRef
    let es := allotEntries b
    let nodes := (es.map (·.node)).dedup
    let req : AllotReq := ⟨id, ref, allotEpoch b, nodes.map (fun n => ⟨n, none, none⟩), false, false, none⟩
    let s := s.setSw { s.sw with
      nextRef := if ref = 32767 then 1 else ref + 1,
      requests := s.sw.requests ++ [req] }
    nodes.foldl (fun (s : Chip) n =>
      let mine := es.filter (fun e => e.node = n)
      (s.sendMsg n (message 1 id.sess (allotOrder (stageTag ref) (allotEpoch b) mine.length 1 ref (mine.flatMap allotBytes)))).2) s

def execAllotRequest (at_ : SlotId) (s : State) : Result :=
  s.onChip (fun c => c.startOrder at_ 0x40 (phaseIs 0) (fun c _ b => allotRequest c at_ b))

/-- A node's answer to a stage or a commit of a request; the first refusal of a stage is kept (R204). -/
def AllotReq.note (r : AllotReq) (node tag status : Nat) : AllotReq :=
  if tag = stageTag r.ref then
    { r with
      nodes := r.nodes.map (fun n => if n.node = node then { n with staged := some status } else n)
      refusal := if r.refusal.isNone ∧ status ≠ stDone ∧ r.nodes.any (fun n => n.node == node) then some status else r.refusal }
  else if tag = commitTag r.ref then
    { r with nodes := r.nodes.map (fun n => if n.node = node then { n with committed := some status } else n) }
  else r

/-- The serving head takes up the dockets that have come for its allotments, in their order: each is noted and consumed at its node by an
ACK message (spec/13_management_and_dockets.md R358, R369). -/
def Chip.noteDockets (s : Chip) : Chip :=
  let mine := s.mbx.inbox.filter (fun e => decide (rd e.2 0 1 = 2 ∧ rd e.2 4 2 = 0x40))
  mine.foldl (fun (s : Chip) e =>
    let tag := rd e.2 6 2
    let s := s.dropInbox e.1 e.2
    let s := s.setSw { s.sw with requests := s.sw.requests.map (fun r => r.note e.1 tag (rd e.2 10 1)) }
    (s.sendMsg e.1 (message 4 (rd e.2 1 1) (leBytes (tag % 64 + 256 * rd e.2 1 1 + 65536 * rd e.2 11 1) 4))).2) s

/-- ALLOT_GUARD before the epoch of a request has begun. -/
def Chip.inGuard (s : Chip) (r : AllotReq) : Bool := decide (r.epoch * 1000000 ≤ s.ns + s.get SCH_ALLOT_TMR_ALLOT_GUARD * 1000)

/-- The head sends every node of a request PHASE 2 or PHASE 3. -/
def Chip.closeStage (s : Chip) (r : AllotReq) (commit : Bool) : Chip :=
  let s := s.setSw { s.sw with
    requests := s.sw.requests.map (fun x => if x.ref = r.ref then { x with committed := commit, cancelled := !commit } else x) }
  r.nodes.foldl (fun (s : Chip) n =>
    (s.sendMsg n.node (message 1 r.at_.sess (allotOrder (commitTag r.ref) r.epoch 0 (if commit then 2 else 3) r.ref []))).2) s

/-- The head notes the answers that have come, and commits each request whose every node has returned DONE in time (R202 step 3). -/
def Chip.allotReview (s : Chip) : Chip :=
  let s := s.noteDockets
  (s.sw.requests.filter (fun r => !r.committed && !r.cancelled && !s.inGuard r && r.nodes.all (fun n => n.staged == some stDone))).foldl
    (fun (s : Chip) r => s.closeStage r true) s

/-- A node stages entries under REF, or refuses (R202 step 2). -/
def allotStage (s : Chip) (id : SlotId) (b : List Byte) : Chip :=
  let es := allotEntries b
  if allotBodyOk b true = false ∨ es.all AllotEntry.ok = false then s.docketReady id stBadArgs []
  else if s.get SCH_CTL_ALLOT_EN = 0 ∨ 128 < s.stagedEntries + es.length
      ∨ 2 ≤ (s.stagedEpochs.filter (fun e => e != allotEpoch b)).length ∨ allotEpoch b * 1000000 ≤ s.ns then
    (s.evt SCH_EVT_STAGE_REFUSED).docketReady id stRefused []
  else
    (s.setSw { s.sw with stages := s.sw.stages ++ [⟨allotRef b, allotEpoch b, false, es⟩] }).docketReady id stDone []

def execAllotStage (at_ : SlotId) (s : State) : Result :=
  s.onChip (fun c => (c.startOrder at_ 0x40 (phaseIs 1) (fun c _ b => allotStage c at_ b)).allotReview)

/-- A node holds a commit for the entries staged under REF; without such entries it refuses. -/
def allotCommit (s : Chip) (id : SlotId) (b : List Byte) : Chip :=
  if allotBodyOk b false = false then s.docketReady id stBadArgs []
  else if s.sw.stages.any (fun x => x.ref == allotRef b) then
    (s.setSw { s.sw with stages := s.sw.stages.map (fun x => if x.ref = allotRef b then { x with committed := true } else x) }).docketReady
      id stDone []
  else s.docketReady id stRefused []

def execAllotCommit (at_ : SlotId) (s : State) : Result :=
  s.onChip (fun c => (c.startOrder at_ 0x40 (phaseIs 2) (fun c _ b => allotCommit c at_ b)).allotReview)

/-- A node discards the entries staged under REF. -/
def allotCancel (s : Chip) (id : SlotId) (b : List Byte) : Chip :=
  if allotBodyOk b false = false then s.docketReady id stBadArgs []
  else (s.setSw { s.sw with stages := s.sw.stages.filter (fun x => x.ref != allotRef b) }).docketReady id stDone []

def execAllotCancel (at_ : SlotId) (s : State) : Result :=
  s.onChip (fun c => c.startOrder at_ 0x40 (phaseIs 3) (fun c _ b => allotCancel c at_ b))

/-- At E less ALLOT_GUARD the head cancels, at every node, a request that it has not committed (R202 step 3). -/
def allotGuard (ref : Nat) (s : Chip) : Chip :=
  let s := s.allotReview
  match s.sw.requests.find? (fun r => r.ref == ref) with
  | none => s
  | some r => if r.committed ∨ r.cancelled ∨ s.inGuard r = false then s else s.closeStage r false

def execAllotGuard (ref : BitVec 16) (s : State) : Result := s.onChip (allotGuard ref.toNat)

/-- Apply one entry (R203). -/
def Chip.applyEntry (s : Chip) (e : AllotEntry) : Chip :=
  match e.kind with
  | 1 => s.setPolicer e.index e.rate e.burst
  | 2 => s.setShaper e.port e.index e.rate e.burst
  | _ => s.put (SCH_QCFG_QUANTUM e.port e.index) e.rate

/-- Chain time reaches an epoch: every committed entry for it is applied at once, and every other entry for it discarded
(R202, R203). -/
def epochApplied (s : Chip) : Chip :=
  let due := s.sw.stages.filter (fun x => decide (x.epoch * 1000000 ≤ s.ns))
  let now := due.filter (·.committed)
  let s := s.setSw { s.sw with stages := s.sw.stages.filter (fun x => decide (s.ns < x.epoch * 1000000)) }
  (now.map (·.epoch)).dedup.foldl (fun (s : Chip) e =>
    let entries := (now.filter (fun x => x.epoch = e)).flatMap (·.entries)
    let s := entries.foldl (fun (s : Chip) x => s.applyEntry x) s
    let s := (s.put SCH_EPOCH_LO_EPOCH e).put SCH_EPOCH_HI_EPOCH (e / 2 ^ 32)
    (s.inc SCH_ALLOT_CNT).evt SCH_EVT_EPOCH_APPLIED) s

def execEpochApplied (s : State) : Result := s.onChip epochApplied

/-- The status of a request's docket (R204): DONE, the first refusal where it was cancelled, or TIMEOUT. -/
def AllotReq.status (r : AllotReq) : Nat :=
  if r.cancelled then r.refusal.getD stTimeout
  else if r.nodes.all (fun n => n.committed == some stDone) then stDone else stTimeout

/-- When E has begun the head returns the request's docket (R204). -/
def allotDocket (ref : Nat) (s : Chip) : Chip :=
  let s := s.allotReview
  match s.sw.requests.find? (fun r => r.ref == ref) with
  | none => s
  | some r =>
    if s.ns < r.epoch * 1000000 then s
    else (s.setSw { s.sw with requests := s.sw.requests.filter (fun x => x.ref != ref) }).docketReady r.at_ r.status []

def execAllotDocket (ref : BitVec 16) (s : State) : Result := s.onChip (allotDocket ref.toNat)

end Sys2Proof.Machine
end

