-- ==== Sys2Proof/Machine/Cells.lean ====
section
/-! DEFINITION. The instructions that take and give cells, work on cell registers, wait, keep time, read tunnel sequence and order a
hand's effects (spec/11_fungatre_tunnel_instructions.md R299–R319). Each `…Body` is the instruction's effect, run at issue and
again when a stall ends. -/

namespace Sys2Proof.Machine
open Sys2Proof Sys2Proof.Machine.Reg

/-- The ring is bound to the hand (R257). -/
def Chip.bound (s : Chip) (h : HandId) (r : Nat) : Bool := s.ringValid r && s.ringHand r == h

/-- imm16 of TAKE and PEEK, and of GIVE (Table 11.1). -/
def takeImm (ring : Fin 64) (creg : Fin 8) (nb : Bool) : BitVec 16 := BitVec.ofNat 16 (ring.val + 64 * creg.val + 512 * b2n nb)
def giveImm (ring : Fin 64) (creg : Fin 8) (nb eom : Bool) : BitVec 16 :=
  BitVec.ofNat 16 (ring.val + 64 * creg.val + 512 * b2n nb + 1024 * b2n eom)

/-! ### TAKE and PEEK (R299, R300) -/

/-- The take status word (Table 11.2). -/
def takeStatus (e : TakeEntry) : Nat :=
  e.cell.vlen + 128 * b2n e.cell.eom + 256 * b2n e.cell.kept + 512 * b2n (decide (0 < e.gap)) + 2048 * min e.gap 8191

/-- NONE of the take status word. -/
def takeNone : Word := 1024

/-- TAKE, or PEEK, which leaves the cell where it is. -/
def takeBody (h : HandId) (d : BitVec 5) (ring : Fin 64) (creg : Fin 8) (nb peek : Bool) (i : Instr) (s : Chip) : Chip :=
  if s.owns h creg = false then s.trapHere h 7 (BitVec.ofNat 32 creg.val)
  else if s.bound h ring = false then s.trapHere h 4 (BitVec.ofNat 32 ring.val)
  else if s.ringFrozen ring then s.stall h i
  else
    match (s.ring ring).take with
    | [] => if nb then s.complete h d takeNone else s.stall h i
    | e :: rest =>
      let s := s.setCreg (benchOf h) creg e.cell.toBytes
      let s := if peek then s else (s.setRing ring { s.ring ring with take := rest }).refill ring
      s.complete h d (BitVec.ofNat 32 (takeStatus e))

/-- TAKE (R299). -/
def execTake (h : HandId) (d : BitVec 5) (ring : Fin 64) (creg : Fin 8) (nb : Bool) (s : State) : Result :=
  s.issueChip h (fun c => c.benchOnly h (fmtI 0x18 d 0 (takeImm ring creg nb))
    (takeBody h d ring creg nb false (.take h d ring creg nb)))

/-- PEEK (R300). -/
def execPeek (h : HandId) (d : BitVec 5) (ring : Fin 64) (creg : Fin 8) (nb : Bool) (s : State) : Result :=
  s.issueChip h (fun c => c.benchOnly h (fmtI 0x1A d 0 (takeImm ring creg nb))
    (takeBody h d ring creg nb true (.peek h d ring creg nb)))

/-! ### GIVE (R301, R302) -/

/-- A full give side. -/
def Chip.giveFull (s : Chip) (r : Nat) : Bool := decide (s.get (BCH_RING_GIVE_DEPTH r) ≤ (s.ring r).give.length)

/-- A cell joins the give side, and leaves it at once where the switch takes it. -/
def Chip.pushGive (s : Chip) (r : Nat) (e : GiveEntry) : Chip :=
  (s.setRing r { s.ring r with give := (s.ring r).give ++ [e] }).pump r

/-- The header that GIVE writes (R301). -/
def giveHdr (x : Tun) (eom mcast : Bool) (vlen : Nat) : BitVec 64 :=
  mkHdr x.peer x.peerTun x.next x.tc x.kept eom vlen (2 * b2n mcast)

/-- A GIVE on a tunnel that would wait (R301). -/
def Chip.giveWaits (s : Chip) (ring t : Nat) : Bool :=
  let x := s.tun t
  s.giveFull ring || !x.draining.isEmpty || (x.kept && decide (s.get TUN_WINDOWS_KEEP_WIN ≤ seqSub x.next x.oldest))

/-- GIVE, with `wa` the tunnel word. -/
def giveBody (h : HandId) (d : BitVec 5) (wa : Nat) (ring : Fin 64) (creg : Fin 8) (nb eom : Bool) (i : Instr) (s : Chip) : Chip :=
  if s.owns h creg = false then s.trapHere h 7 (BitVec.ofNat 32 creg.val)
  else if s.bound h ring = false then s.trapHere h 4 (BitVec.ofNat 32 ring.val)
  else if s.ringFrozen ring then s.stall h i
  else if s.get (BCH_RING_PORT ring) < 10 then
    if s.giveFull ring then (if nb then s.complete h d 0x10000 else s.stall h i)
    else (s.complete h d 0).pushGive ring ⟨Cell.ofBytes (s.creg (benchOf h) creg), none, false⟩
  else
    let t := bits wa 0 10
    let vlen := bits wa 16 7
    let x := s.tun t
    if x.state = .closed ∨ x.sink ∨ x.ring ≠ ring.val then s.trapHere h 4 (BitVec.ofNat 32 ring.val)
    else if vlen = 0 ∨ 104 < vlen then s.trapHere h 4 (BitVec.ofNat 32 ring.val)
    else if x.state = .broken then s.complete h d 0x20000
    else if s.giveWaits ring t then (if nb then s.complete h d 0x10000 else s.stall h i)
    else
      let c : Cell := ⟨giveHdr x eom (bit wa 24) vlen, (s.creg (benchOf h) creg).drop 8⟩
      let s := (s.complete h d (BitVec.ofNat 32 x.next)).setTun t { x with next := (x.next + 1) % 65536 }
      s.pushGive ring ⟨c, some t, false⟩

/-- GIVE (R301, R302). -/
def execGive (h : HandId) (d a : BitVec 5) (ring : Fin 64) (creg : Fin 8) (nb eom : Bool) (s : State) : Result :=
  s.issueChip h (fun c => c.benchOnly h (fmtI 0x19 d a (giveImm ring creg nb eom))
    (giveBody h d ((c.hand h).w a).toNat ring creg nb eom (.give h d a ring creg nb eom)))

/-! ### Cell registers (R303, R304) -/

/-- func of CELL (Table 11.1). -/
def cellFunc (op sel off : Nat) : Nat := 512 * op + 128 * sel + off

/-- CELL EXTR (R303). -/
def cellExtr (h : HandId) (d : BitVec 5) (creg : Fin 8) (b : BitVec 5) (size : AccSize) (off : BitVec 7) (s : Chip) : Chip :=
  let at_ := off.toNat + ((s.hand h).w b).toNat
  if 112 < at_ + size.bytes then s.trapHere h 2 (BitVec.ofNat 32 at_)
  else if s.owns h creg = false then s.trapHere h 7 (BitVec.ofNat 32 creg.val)
  else s.complete h d (BitVec.ofNat 32 (rd (s.creg (benchOf h) creg) at_ size.bytes))

def execCellExtr (h : HandId) (d : BitVec 5) (creg : Fin 8) (b : BitVec 5) (size : AccSize) (off : BitVec 7) (s : State) : Result :=
  s.issueChip h (fun c => c.benchOnly h (fmtR 0x1B d (BitVec.ofNat 5 creg.val) b (cellFunc 0 (sizeCode size) off.toNat))
    (cellExtr h d creg b size off))

/-- CELL EDIT (R303): d names the source. -/
def cellEdit (h : HandId) (d : BitVec 5) (creg : Fin 8) (b : BitVec 5) (size : AccSize) (off : BitVec 7) (s : Chip) : Chip :=
  let at_ := off.toNat + ((s.hand h).w b).toNat
  if 112 < at_ + size.bytes then s.trapHere h 2 (BitVec.ofNat 32 at_)
  else if s.owns h creg = false then s.trapHere h 7 (BitVec.ofNat 32 creg.val)
  else
    let bytes := s.creg (benchOf h) creg
    let new := leBytes ((s.hand h).w d).toNat size.bytes
    (s.setCreg (benchOf h) creg (bytes.take at_ ++ new ++ bytes.drop (at_ + size.bytes))).advance h

def execCellEdit (h : HandId) (d : BitVec 5) (creg : Fin 8) (b : BitVec 5) (size : AccSize) (off : BitVec 7) (s : State) : Result :=
  s.issueChip h (fun c => c.benchOnly h (fmtR 0x1B d (BitVec.ofNat 5 creg.val) b (cellFunc 1 (sizeCode size) off.toNat))
    (cellEdit h d creg b size off))

/-- CELL CRC (R304): no initial value and no final XOR. -/
def cellCrc (h : HandId) (d : BitVec 5) (creg : Fin 8) (b : BitVec 5) (ieee : Bool) (len : BitVec 7) (s : Chip) : Chip :=
  let n := len.toNat
  if n = 0 ∨ 104 < n then
    s.trapHere h 1 (fmtR 0x1B d (BitVec.ofNat 5 creg.val) b (cellFunc 2 (b2n ieee) n))
  else if s.owns h creg = false then s.trapHere h 7 (BitVec.ofNat 32 creg.val)
  else s.complete h d (BitVec.ofNat 32
    (crcRun (if ieee then polyE else polyC) ((s.hand h).w b).toNat (slice (s.creg (benchOf h) creg) 8 n)))

def execCellCrc (h : HandId) (d : BitVec 5) (creg : Fin 8) (b : BitVec 5) (ieee : Bool) (len : BitVec 7) (s : State) : Result :=
  s.issueChip h (fun c => c.benchOnly h (fmtR 0x1B d (BitVec.ofNat 5 creg.val) b (cellFunc 2 (b2n ieee) len.toNat))
    (cellCrc h d creg b ieee len))

/-! ### MOVE (R305–R307) -/

/-- ea := wa + sext(imm16[15:2]) × 4. -/
def Chip.moveEa (s : Chip) (h : HandId) (a : BitVec 5) (off : BitVec 14) : Word := (s.hand h).w a + off.signExtend 32 * 4

/-- ea is misaligned or runs past the data memory. -/
def moveBad (ea : Word) : Bool := decide (ea.toNat % 4 ≠ 0 ∨ 0x1FF90 < ea.toNat % 2 ^ 17)

def moveWord (creg : Fin 8) (a : BitVec 5) (off : BitVec 14) (dir : Nat) : Word :=
  fmtI 0x1C (BitVec.ofNat 5 creg.val) a (BitVec.ofNat 16 (4 * off.toNat + dir))

/-- MOVE with DIR 0 copies the cell register at issue and writes memory later; a second one waits in Stall (R306). -/
def moveOut (h : HandId) (creg : Fin 8) (a : BitVec 5) (off : BitVec 14) (s : Chip) : Chip :=
  let ea := s.moveEa h a off
  if moveBad ea then s.trapHere h 2 ea
  else if s.owns h creg = false then s.trapHere h 7 (BitVec.ofNat 32 creg.val)
  else if (s.hand h).move.isSome then s.stall h (.moveDir0 h creg a off)
  else
    let s := s.advance h
    s.setHand h { s.hand h with move := some (dataAddr h ea, s.creg (benchOf h) creg) }

def execMoveDir0 (h : HandId) (creg : Fin 8) (a : BitVec 5) (off : BitVec 14) (s : State) : Result :=
  s.issueChip h (fun c => c.benchOnly h (moveWord creg a off 0) (moveOut h creg a off))

/-- The write of a MOVE with DIR 0 completes: event 2 (R306). -/
def State.moveDone (s : State) (h : HandId) : State :=
  match (s.chip.hand h).move with
  | none => s
  | some (at_, bytes) =>
    let c := (List.range 28).foldl (fun (c : Chip) i => c.heal (at_ + 4 * i)) s.chip
    let c := (c.setHand h { c.hand h with move := none }).raise h 2
    { s with chip := c, mem := Memory.setBytes s.mem at_ bytes }

def execMoveDone (h : HandId) (s : State) : Result := .next (s.moveDone h)

/-- MOVE with DIR 1 reads 112 bytes of memory into the cell register; a word beyond correction traps (R307). -/
def State.moveIn (s : State) (h : HandId) (creg : Fin 8) (a : BitVec 5) (off : BitVec 14) : State :=
  let c := s.chip
  let ea := c.moveEa h a off
  let at_ := dataAddr h ea
  if onBench h = false then s.settle (c.trapHere h 1 (moveWord creg a off 1))
  else if moveBad ea then s.settle (c.trapHere h 2 ea)
  else if c.owns h creg = false then s.settle (c.trapHere h 7 (BitVec.ofNat 32 creg.val))
  else
    match (List.range 28).find? (fun i => c.soft (at_ + 4 * i) = 2) with
    | some i => s.settle (c.uncorrectable h (ea + BitVec.ofNat 32 (4 * i)))
    | none =>
      let c := (List.range 28).foldl (fun (c : Chip) i => if c.soft (at_ + 4 * i) = 0 then c else c.corrected h (at_ + 4 * i)) c
      { s with chip := (c.setCreg (benchOf h) creg (Memory.bytes s.mem at_ 112)).advance h }

def execMoveDir1 (h : HandId) (creg : Fin 8) (a : BitVec 5) (off : BitVec 14) (s : State) : Result :=
  s.issue h (fun s => s.moveIn h creg a off)

/-! ### WAIT (R308–R311) -/

/-- A planting waits for the hand (event 8): from the warning on, every hand of a named bench, and Steward; while the planting or its
roll-back freezes the named units, a hand that has not reached its checkpoint (spec/22_updates_and_planting.md R535, R539). -/
def Chip.plantingWaits (s : Chip) (h : HandId) : Bool :=
  match s.upd.planting with
  | some p =>
    let named := (p.units.filterMap unitCore).contains (coreOf h)
    match s.get UPD_STAT_PHASE with
    | 2 => named || decide (h.val = 65)
    | 3 => named && (s.hand h).checkpoint
    | 5 => named && (s.hand h).checkpoint
    | _ => false
  | none => false

/-- A cell is ready on a ring bound to the hand (event 0). -/
def Chip.ringReady (s : Chip) (h : HandId) : Bool :=
  (List.range 64).any (fun r => s.bound h r && !s.ringFrozen r && !(s.ring r).take.isEmpty)

/-- The latched events, by bit (Table 11.3). -/
def latchedEvents : Nat := 0x27E

/-- The pending events of Table 11.3. -/
def Chip.pending (s : Chip) (h : HandId) : Nat :=
  ((s.hand h).events &&& latchedEvents) + b2n (s.ringReady h) + 128 * b2n (s.hand h).dbPend + 256 * b2n (s.plantingWaits h)

/-- WAIT completes: the events reported are cleared where they are latched. -/
def Chip.report (s : Chip) (h : HandId) (d : BitVec 5) (rep : Nat) : Chip :=
  let x := s.hand h
  (s.setHand h { x with events := x.events &&& (1023 - rep) }).complete h d (BitVec.ofNat 32 rep)

/-- WAIT (R308): the hand's mask and whether a timeout is set are kept while it waits. -/
def waitBody (h : HandId) (d a : BitVec 5) (imm : BitVec 16) (s : Chip) : Chip :=
  let timed := decide (imm.toNat % 2 ^ 14 ≠ 0)
  let s := if timed then s.jitter (coreOf h) else s
  let x := s.hand h
  let mask := (x.w a).toNat % 1024
  let rep := s.pending h &&& mask
  if rep ≠ 0 then s.report h d rep
  else if imm = 0 then s.complete h d 0
  else s.setHand h { x with
    state := .wait, waiting := some (d, mask + 1024 * b2n timed) }

def execWait (h : HandId) (d a : BitVec 5) (imm : BitVec 16) (s : State) : Result := s.issueChip h (waitBody h d a imm)

/-- A masked event becomes pending at a hand in Wait (R309, R310). -/
def waitEvent (h : HandId) (s : Chip) : Chip :=
  let x := s.hand h
  match x.waiting with
  | none => s
  | some (d, m) =>
    let rep := s.pending h &&& (m % 1024)
    if x.state = .wait ∧ rep ≠ 0 ∧ s.coreOn h then s.report h d rep else s

def execWaitEvent (h : HandId) (s : State) : Result := s.onChip (waitEvent h)

/-- The timeout of a WAIT ends: an event of the same cycle wins (R308, R310). -/
def waitTimeout (h : HandId) (s : Chip) : Chip :=
  let x := s.hand h
  match x.waiting with
  | none => s
  | some (d, m) =>
    let rep := s.pending h &&& (m % 1024)
    if x.state ≠ .wait ∨ m < 1024 ∨ s.coreOn h = false then s
    else if rep ≠ 0 then s.report h d rep
    else s.complete h d 0x80000000

def execWaitTimeout (h : HandId) (s : State) : Result := s.onChip (waitTimeout h)

/-! ### Chain time (R312–R316) -/

/-- The distance of a 32-bit time value's target from now, in ns (R312). -/
def Chip.ahead (s : Chip) (v : Nat) : Int := signed (v + 2 ^ 32 - s.ns % 2 ^ 32) 32

/-- TNOW (R313): the low word to wd, the high word to the register named by b. -/
def execTnow (h : HandId) (d b : BitVec 5) (s : State) : Result := s.issueChip h (fun c =>
  let x := c.hand h
  let y := (x.setW d (BitVec.ofNat 32 c.ns)).setW b (BitVec.ofNat 32 (c.ns / 2 ^ 32))
  c.setHand h (y.done (nextPc h x.pc)))

/-- Field events that are due take effect in their order (R315). -/
def Chip.drainDue (s : Chip) : Chip := (List.range s.field.queue.length).foldl (fun (s : Chip) _ => fieldEventDue s) s

/-- The field unit takes a TAT (R314): a node that is shuttered, or has been while it waited, discards the event; a target already
reached takes effect at once; any other event is queued. -/
def Chip.acceptTat (s : Chip) (d : BitVec 5) (w : TatWait) : Chip :=
  if w.cut || s.shuttered then ((s.inc FLD_EVQ_DISCARD).evt FLD_EVT_EVQ_DISCARD).complete w.hand d 2
  else if w.event.target ≤ s.ns then
    (((s.drainDue.driveOut w.event.output w.event.level).inc FLD_LATE_CNT).evt FLD_EVT_LATE).complete w.hand d 1
  else
    ({ s with field := { s.field with queue := insertEvent s.field.queue w.event } } : Chip).complete w.hand d 0

/-- TAT (R314): the hand must own field outputs. Its target is resolved at issue (R312); a full queue, or TATs that wait for it, stall
the hand. -/
def tatBody (h : HandId) (d a b : BitVec 5) (s : Chip) : Chip :=
  let x := s.hand h
  let desc := (x.w a).toNat
  let w : TatWait := ⟨h, ⟨desc % 16, bit desc 4, (s.ns + s.ahead (x.w b).toNat).toNat⟩, false⟩
  if s.fieldOwner h = false then s.trapHere h 1 (fmtR 0x21 d a b 1)
  else if s.shuttered = false ∧ (256 ≤ s.field.queue.length ∨ s.field.waiting ≠ []) then
    let s := s.dropTat h
    ({ s with field := { s.field with waiting := s.field.waiting ++ [w] } } : Chip).stall h (.tat h d a b)
  else s.acceptTat d w

def execTat (h : HandId) (d a b : BitVec 5) (s : State) : Result := s.issueChip h (tatBody h d a b)

/-- TATs that wait are accepted in the order in which they issued, while the queue has room (R314). -/
def Chip.acceptTats (s : Chip) : Chip :=
  s.field.waiting.foldl (fun (s : Chip) w =>
    match (s.hand w.hand).state, (s.hand w.hand).stalled with
    | .stall, some (.tat _ d _ _) =>
      if w.cut || s.shuttered || decide (s.field.queue.length < 256) then ((s.dropTat w.hand).acceptTat d w).boundary w.hand else s
    | _, _ => s.dropTat w.hand) s

/-- A stalled TAT tried again. -/
def Chip.tatAgain (s : Chip) (h : HandId) (d a b : BitVec 5) : Chip :=
  if s.field.waiting.any (fun w => decide (w.hand = h)) then s.acceptTats else tatBody h d a b s

/-- FIELD_EVENT_DUE (R452): an entry leaves the queue, and a TAT that waits is accepted in that cycle (R314). bad: the entry read
holds an uncorrectable error, which shutters the node (R458). -/
def execFieldEventDue (bad : Bool) (s : State) : Result :=
  s.onHand (fun c => if bad && decide (c.field.queue ≠ []) then c.shutter causeQueue else (fieldEventDue c).acceptTats)

/-- TALM with CANCEL 0 (R316): the hand's one alarm; a target already reached sets event 5 at once. -/
def talm (h : HandId) (a : BitVec 5) (s : Chip) : Chip :=
  let ahead := s.ahead ((s.hand h).w a).toNat
  let s := s.advance h
  if ahead ≤ 0 then (s.setHand h { s.hand h with alarm := none }).raise h 5
  else s.setHand h { s.hand h with alarm := some (s.ns + ahead.toNat) }

def execTalm (h : HandId) (a : BitVec 5) (s : State) : Result := s.issueChip h (talm h a)

/-- TALM with CANCEL 1 removes the alarm (R316). -/
def execTalmCancel (h : HandId) (s : State) : Result := s.issueChip h (fun c =>
  let c := c.advance h
  c.setHand h { c.hand h with alarm := none })

/-- Chain time reaches a hand's alarm: event 5 (R316, R144). -/
def chainAlarm (h : HandId) (s : Chip) : Chip :=
  match (s.hand h).alarm with
  | none => s
  | some t => if t ≤ s.ns then (s.setHand h { s.hand h with alarm := none }).raise h 5 else s

def execChainTimeAlarm (h : HandId) (s : State) : Result := s.onChip (chainAlarm h)

/-! ### SEQ (R317) -/

/-- NEXT, LAST and STATE of a tunnel; a Closed tunnel, and tunnel 0, read 0. -/
def Chip.seqRead (s : Chip) (t what : Nat) : Nat :=
  let x := s.tun t
  if t = 0 ∨ x.state = .closed then 0
  else match what with
  | 0 => if x.sink then x.expect else x.next
  | 1 => seqSub (if x.sink then x.expect else x.oldest) 1
  | _ =>
    let st := match x.state with
      | .closed => 0
      | .opened => 1
      | .breaking => 2
      | .broken => 3
    st + 8 * b2n x.sink + 16 * b2n x.kept + 32 * x.held.length

def seqBody (h : HandId) (d a : BitVec 5) (what : Nat) (s : Chip) : Chip :=
  s.benchOnly h (fmtR 0x22 d a 0 what) (fun s => s.complete h d (BitVec.ofNat 32 (s.seqRead (((s.hand h).w a).toNat % 1024) what)))

def execSeqNext (h : HandId) (d a : BitVec 5) (s : State) : Result := s.issueChip h (seqBody h d a 0)
def execSeqLast (h : HandId) (d a : BitVec 5) (s : State) : Result := s.issueChip h (seqBody h d a 1)
def execSeqState (h : HandId) (d a : BitVec 5) (s : State) : Result := s.issueChip h (seqBody h d a 2)

/-! ### Fences (R318, R319) -/

/-- FENCE.L completes once no MOVE of the hand is outstanding. -/
def fenceLBody (h : HandId) (s : Chip) : Chip := if (s.hand h).move.isSome then s.stall h (.fenceL h) else s.advance h

def execFenceL (h : HandId) (s : State) : Result := s.issueChip h (fenceLBody h)

/-- Something of the hand is not complete at its far target: an open tag, an access not yet performed, a remote write without
its response, or an attempt at a bus. -/
def Chip.farBusy (s : Chip) (h : HandId) : Bool :=
  s.tagsHeld h != 0 || s.cores.remoteWrites.any (fun e => e.2.hand == h)
  || s.cores.buses.any (fun e => e.2.tries.any (fun t => t.hand == h) || match e.2.busy with
    | some r => r.hand == h
    | none => false)

/-- FENCE.X completes once every far access of the hand has, and then raises trap 0x03 for the earliest failed non-posted write. -/
def fenceXBody (h : HandId) (s : Chip) : Chip :=
  if s.farBusy h then s.stall h (.fenceX h)
  else match (s.hand h).failedWrite with
  | some a => (s.setHand h { s.hand h with failedWrite := none }).trapHere h 3 a.2
  | none => s.advance h

def execFenceX (h : HandId) (s : State) : Result := s.issueChip h (fenceXBody h)

/-- OLDEST has passed a SEQ. -/
def passed (oldest v : Nat) : Bool := decide (seqSub oldest (v + 1) < 32768)

/-- The kept source tunnels whose ring is bound to the hand, in ascending order. -/
def Chip.fenceTunnels (s : Chip) (h : HandId) : List (Nat × Tun) :=
  s.tuns.filter (fun e => !isPeer e.1 && !e.2.sink && e.2.kept && s.bound h e.2.ring)

/-- The values of a fence that OLDEST has not passed; a tunnel drained and closed no longer counts. -/
def Chip.fenceLeft (s : Chip) (l : List (Nat × Nat)) : List (Nat × Nat) :=
  l.filter (fun e => (s.tun e.1).state != .closed && !passed (s.tun e.1).oldest e.2)

/-- The lowest tunnel that abandons a fence: it broke with its value not passed. -/
def Chip.fenceBroken (s : Chip) (l : List (Nat × Nat)) : Option Nat :=
  ((s.fenceLeft l).find? (fun e => (s.tun e.1).state == .broken)).map (·.1)

/-- A waiting FENCE.K: abandoned, it writes the tunnel that caused it; it completes once every value has passed, and else waits. -/
def Chip.fenceStep (s : Chip) (h : HandId) (d : BitVec 5) (f : FenceWait) : Chip :=
  let left := s.fenceLeft f.values
  match f.lost.or (s.fenceBroken f.values) with
  | some t => s.complete h d (BitVec.ofNat 32 (0x80000000 + t))
  | none =>
    if left.isEmpty then s.complete h d 0
    else s.setHand h { s.hand h with state := .stall, stalled := some (.fenceK h d), fence := some ⟨left, none⟩ }

/-- FENCE.K at issue (R319): a tunnel already Broken takes part only where its last acknowledged SEQ lies below NEXT − 1. -/
def fenceKBody (h : HandId) (d : BitVec 5) (s : Chip) : Chip :=
  match (s.hand h).fence with
  | some f => s.fenceStep h d f
  | none => s.fenceStep h d ⟨(s.fenceTunnels h).filterMap (fun e =>
      if e.2.state = .closed then none else some (e.1, seqSub e.2.next 1)), none⟩

def execFenceK (h : HandId) (d : BitVec 5) (s : State) : Result :=
  s.issueChip h (fun c => c.benchOnly h (fmtI 0x23 d 0 2) (fenceKBody h d))

/-- The fence of a Frozen hand is followed for it, and what abandons it is kept until the hand resumes (R319). -/
def Chip.fenceNote (s : Chip) (h : HandId) (f : FenceWait) : Chip :=
  s.setHand h { s.hand h with fence := some ⟨s.fenceLeft f.values, f.lost.or (s.fenceBroken f.values)⟩ }

/-- A step taken at every hand whose FENCE.K waits: `run` where it is in Stall, `note` where it is Frozen. -/
def Chip.eachFence (s : Chip) (run : Chip → HandId → BitVec 5 → FenceWait → Chip) (note : Chip → HandId → FenceWait → Chip) : Chip :=
  s.cores.hands.foldl (fun (s : Chip) e =>
    if hv : e.1 < 66 then
      let h : HandId := ⟨e.1, hv⟩
      match (s.hand h).state, (s.hand h).stalled, (s.hand h).fence with
      | .stall, some (.fenceK _ d), some f => run s h d f
      | .frozen, some (.fenceK _ _), some f => note s h f
      | _, _, _ => s
    else s) s

/-- Every FENCE.K that waits is looked at again (R319). -/
def Chip.checkFences (s : Chip) : Chip := s.eachFence Chip.fenceStep Chip.fenceNote

/-- The fence waits for a value of the tunnel. -/
def Chip.fenceWaits (s : Chip) (t : Nat) (f : FenceWait) : Bool := f.values.any (fun x => decide (x.1 = t) && !passed (s.tun t).oldest x.2)

/-- A tunnel is closed with DRAIN 0: fences whose value it has not passed are abandoned, where nothing has abandoned them before
(R319). -/
def Chip.abandonFences (s : Chip) (t : Nat) : Chip :=
  s.checkFences.eachFence
    (fun s h d f => if s.fenceWaits t f then s.complete h d (BitVec.ofNat 32 (0x80000000 + t)) else s)
    (fun s h f => if s.fenceWaits t f then s.setHand h { s.hand h with fence := some { f with lost := f.lost.or (some t) } } else s)

end Sys2Proof.Machine
end

