-- ==== Sys2Proof/Machine/Benches.lean ====
section
/-! DEFINITION. Register accesses and events of the benches (spec/09_fungatre_machine.md R242–R249, R256, R265, R272–R274). -/

namespace Sys2Proof.Machine
open Sys2Proof Sys2Proof.Machine.Reg

/-- A write of START bits (R242): each named Halted hand starts; the migration spare ignores them (R243). -/
def Chip.startBench (s : Chip) (b mask : Nat) : Chip :=
  if s.domainOn (coreDomain b) = false ∨ s.get BCH_SPARE_BENCH = b then s
  else ((handsOf b).zipIdx).foldl (fun (s : Chip) e =>
    if bit mask e.2 ∧ (s.hand e.1).state = .halted then s.startHand e.1 (s.get (BCH_ENTRY_ENTRY b e.2)) else s) s

def execStart (b : Fin 16) (mask : BitVec 4) (s : State) : Result := s.onChip (fun c => c.startBench b mask.toNat)

/-- A write of HALT bits: each named hand halts at its next boundary (Table 9.8). -/
def Chip.haltBench (s : Chip) (b mask : Nat) : Chip :=
  if s.domainOn (coreDomain b) = false then s
  else ((handsOf b).zipIdx).foldl (fun (s : Chip) e =>
    if bit mask e.2 ∧ (s.hand e.1).state ≠ .halted then
      let s := s.setHand e.1 { s.hand e.1 with haltAsked := true }
      if (s.hand e.1).haltDue then s.boundary e.1 else s
    else s) s

def execHaltRequest (b : Fin 16) (mask : BitVec 4) (s : State) : Result := s.onHand (fun c => c.haltBench b mask.toNat)

/-- A write of 1 to SWAP makes the shadow bank active; it is ignored unless all hands are Halted (Table 9.8). -/
def Chip.swapBank (s : Chip) (b : Nat) : Chip :=
  if s.domainOn (coreDomain b) = true ∧ s.allHalted b then s.put (BCH_STAT_ACT_BANK b) (1 - s.get (BCH_STAT_ACT_BANK b)) else s

def execSwap (b : Fin 16) (s : State) : Result := s.onChip (fun c => c.swapBank b)

/-- A write to BCH_ILOAD_b: the shadow-bank word at ADDR is written, with good parity, and ADDR steps by 4 (Table 9.8). -/
def State.iload (s : State) (b : Nat) (value : Nat) : State :=
  let c := s.chip
  if c.domainOn (coreDomain b) = false then s
  else
    let a := imemBase b (1 - c.bank b) + 4 * c.get (BCH_ILOAD_ADDR_ADDR b)
    let c := { c with cores := { c.cores with imark := mset false c.cores.imark (a / 4) false } }
    { s with chip := c.addWrap (BCH_ILOAD_ADDR_ADDR b) 1, mem := Memory.write s.mem a 4 value }

def execIload (b : Fin 16) (value : Word) (s : State) : Result := .next (s.iload b value.toNat)

/-- The data memory address of BCH_DLOAD_ADDR_b. -/
def Chip.dloadAt (c : Chip) (b : Nat) : Nat := dmemBase b + 4 * c.get (BCH_DLOAD_ADDR_ADDR b)

/-- A read or a write of BCH_DLOAD_b through port B; ADDR steps by 4 (Table 9.8, R250). -/
def State.dload (s : State) (b : Nat) (value : Option Nat) : State :=
  let c := s.chip
  if c.domainOn (coreDomain b) = false then s
  else
    let a := c.dloadAt b
    match value with
    | none => { s with chip := c.addWrap (BCH_DLOAD_ADDR_ADDR b) 1 }
    | some v => { s with chip := (c.heal a).addWrap (BCH_DLOAD_ADDR_ADDR b) 1, mem := Memory.write s.mem a 4 v }

def execDload (b : Fin 16) (value : Option Word) (s : State) : Result := .next (s.dload b (value.map (·.toNat)))

/-- A write to BCH_RING_r (R274, R5): an unfrozen valid ring cannot be rebound, and the migration spare binds no ring (R243); reserved
encodings leave their field. A GIVE_DEPTH over a full give side makes space in it (Table 11.3). A ring that is no longer frozen takes in what waits for it (R258). -/
def Chip.ringWrite (s : Chip) (r v : Nat) : Chip :=
  let bench := bits v 0 4
  let hand := bits v 4 2
  let port := if 4 ≤ bits v 6 4 ∧ bits v 6 4 ≤ 11 then bits v 6 4 else s.get (BCH_RING_PORT r)
  let take := if 1 ≤ bits v 10 7 ∧ bits v 10 7 ≤ 64 then bits v 10 7 else s.get (BCH_RING_TAKE_DEPTH r)
  let give := if 1 ≤ bits v 17 7 ∧ bits v 17 7 ≤ 64 then bits v 17 7 else s.get (BCH_RING_GIVE_DEPTH r)
  if bit v 25 ∧ bench = s.get BCH_SPARE_BENCH ∧ ¬(s.ringValid r ∧ s.get (BCH_RING_BENCH r) = bench) then s
  else if bit v 25 ∧ s.ringValid r ∧ s.ringFrozen r = false
      ∧ (bench ≠ s.get (BCH_RING_BENCH r) ∨ hand ≠ s.get (BCH_RING_HAND r) ∨ port ≠ s.get (BCH_RING_PORT r)) then s
  else
    let full := s.giveFull r
    let s := ((s.put (BCH_RING_BENCH r) bench).put (BCH_RING_HAND r) hand).put (BCH_RING_PORT r) port
    let s := (s.put (BCH_RING_TAKE_DEPTH r) take).put (BCH_RING_GIVE_DEPTH r) give
    let s := (s.put (BCH_RING_FROZEN r) (b2n (bit v 24))).put (BCH_RING_VALID r) (b2n (bit v 25))
    (if full ∧ s.giveFull r = false ∧ s.ringValid r then s.raise (s.ringHand r) 1 else s).refill r

def execRingBind (r : Fin 64) (value : Word) (s : State) : Result := s.onChip (fun c => c.ringWrite r value.toNat)

/-- The hand watchdog expires (R265): the first expiry raises trap 0x06 and reloads, and a second one with no write to WDOG between
bites. -/
def Chip.wdogExpires (s : Chip) (h : HandId) : Chip :=
  let x := s.hand h
  if x.wdogPeriod = 0 ∨ x.state = .halted ∨ x.state = .frozen ∨ s.coreOn h = false then s
  else if x.unfed then s.bite h
  else (s.setHand h { x with expired := true, unfed := true, wdogFrom := s.tick, pend06 := true }).boundary h

def execWdogExpiry (h : HandId) (s : State) : Result := s.onHand (fun c => c.wdogExpires h)

/-- One find of a bench's scrubber (R249): a word beyond correction is marked, is an event, and has its row remapped
(spec/23_in_service_repair.md R551); any other is written back corrected. The find names a word of a 16-byte row. -/
def Chip.benchFind (s : Chip) (b : Nat) (f : ScrubFind) : Chip :=
  let addr := (16 * f.block + 4 * f.word) % 2 ^ 17
  let k := (dmemBase b + addr) / 4
  if f.uncorrectable then
    let s := { s with cores := { s.cores with dmark := mset 0 s.cores.dmark k 2 } }
    (s.evt (BCH_EVT_ECC_UNCORR b)).autoRemap 1 b addr
  else { s with cores := { s.cores with dmark := mset 0 s.cores.dmark k 0 } }

def execBenchScrub (b : Fin 16) (found : List ScrubFind) (s : State) : Result :=
  s.onChip (fun c => if c.domainOn (coreDomain b) = false then c else found.foldl (fun c f => c.benchFind b f) c)

end Sys2Proof.Machine
end

