-- ==== Sys2Proof/Machine/Chain.lean ====
section
/-! DEFINITION. Chain time (spec/05_chain_time.md): the count and its increment, beacons, hop delays, the parent, the origin, the
servo, and the meanings of the commands that touch no trunk. Stamps and delays are in 2^-16 ns, the count in 2^-32 ns. -/

namespace Sys2Proof.Machine
open Sys2Proof Sys2Proof.Machine.Reg

/-! ### Codes of CTM_STAT.STATE (Table 5.5) -/

def ctFree : Nat := 0
def ctAcquire : Nat := 1
def ctLocked : Nat := 2
def ctHoldover : Nat := 3
def ctLost : Nat := 4

def Chip.ctState (s : Chip) : Nat := s.get CTM_STAT_STATE

def Chip.setChain (s : Chip) (x : Chain) : Chip := { s with chain := x }

def Chip.chainPort (s : Chip) (p : TPort) : ChainPort := s.chain.ports.get p
def Chip.setChainPort (s : Chip) (p : TPort) (x : ChainPort) : Chip :=
  s.setChain { s.chain with ports := s.chain.ports.set p x }

/-! ### The increment (R142, R143, R155, R158) -/

/-- The nominal increment, 5/6 ns. -/
def nominalInc : Int := 0xD5555555

/-- SLEW_MAX as a change of increment. -/
def Chip.slewLimit (s : Chip) : Int := nominalInc * s.get CTM_SERVO_SLEW_MAX / 1000000

/-- A value held within ± a limit. -/
def clampTo (lim v : Int) : Int := max (-lim) (min lim v)

/-- CLK_FAB cycles of one BEACON_INT. -/
def Chip.beaconCycles (s : Chip) : Nat := s.get CTM_TIMERS_BEACON_INT * 1200

/-- The part of the pending slew that one cycle takes, at an origin (R158). -/
def Chip.slewStep (s : Chip) : Int := if s.on CTM_STAT_IS_ORIGIN then clampTo s.slewLimit s.chain.slew else 0

/-- The frequency adjustment as a change of increment, at an origin: CTM_ADJ_FREQ in 2^-16 ppb (R158). -/
def Chip.freqStep (s : Chip) : Int :=
  if s.on CTM_STAT_IS_ORIGIN = false then 0 else Int.tdiv (nominalInc * signed (s.get CTM_ADJ_FREQ_FREQ) 32) (65536 * 1000000000)

/-- What the servo and the frequency adjustment change the increment by. -/
def Chip.otherStep (s : Chip) : Int :=
  s.chain.adjust + (if s.chain.phaseLeft = 0 then 0 else s.chain.phaseStep) + s.freqStep

/-- The increment in force: the servo's and the adjustments' corrections never exceed SLEW_MAX. -/
def Chip.increment (s : Chip) : Nat := (nominalInc + clampTo s.slewLimit (s.otherStep + s.slewStep)).toNat

/-- How much of the pending slew one cycle applies: what SLEW_MAX leaves beside the other corrections (R158). -/
def Chip.slewApplied (s : Chip) : Int := clampTo s.slewLimit (s.otherStep + s.slewStep) - clampTo s.slewLimit s.otherStep

/-- One CLK_FAB cycle of chain time; while a step back is caught up the count stands still (R143). -/
def Chip.advanceTime (s : Chip) : Chip :=
  let inc := s.increment
  let x := s.chain
  let base := { x with phaseLeft := x.phaseLeft - 1, slew := x.slew - s.slewApplied }
  match x.target with
  | none => s.setChain { base with count := x.count + inc }
  | some t =>
    if x.count ≤ t + inc then s.setChain { base with count := t + inc, target := none }
    else s.setChain { base with target := some (t + inc) }

/-- Step to a target, in 2^-32 ns: forward at once, or back by standing still (R143). -/
def Chip.stepTo (s : Chip) (t : Int) : Chip :=
  let s :=
    if (s.chain.count : Int) ≤ t then s.setChain { s.chain with count := t.toNat, target := none }
    else s.setChain { s.chain with target := some t.toNat }
  s.evt CTM_EVT_STEP

/-! ### What a beacon says (R145, R146) -/

/-- FLAGS, ORIGIN_POS and ORIGIN_EPOCH as sent. -/
def Chip.beaconFlags (s : Chip) : Nat :=
  s.get CTM_STAT_VALID + 2 * s.get CTM_STAT_ORIGIN_B + 4 * s.get CTM_STAT_IS_ORIGIN + 8 * b2n (decide (s.ctState = ctHoldover))

def Chip.beaconSays (s : Chip) : Nat × Nat × Nat := (s.beaconFlags, s.get CTM_PARENT_ORIGIN_POS, s.get CTM_STAT_EPOCH)

/-- A beacon falls due on a port. -/
def Chip.dueBeacon (s : Chip) (p : TPort) : Chip :=
  if s.laneState p = laneUp then s.setLink p { s.link p with beaconDue := true, beaconAt := s.beaconFrom p } else s

/-- A change of what beacons say sends one on every port that is Up (R145). -/
def Chip.beaconOnChange (s : Chip) (f : Chip → Chip) : Chip :=
  let s' := f s
  if s'.beaconSays = s.beaconSays then s' else TPort.list.foldl (fun (s : Chip) p => s.dueBeacon p) s'

/-- The 112 bytes of the next beacon on a port, leaving now (Table 5.1). -/
def Chip.beaconBytes (s : Chip) (p : TPort) : List Byte :=
  let x := s.chainPort p
  let echo : Nat × Nat × Nat := match x.seen with
    | none => (0, 0, 0)
    | some b => (b.tTx, b.arrival, b.seq)
  let hops := if s.on CTM_STAT_IS_ORIGIN then 0 else s.get CTM_PARENT_HOPS
  padTo ([1, BitVec.ofNat 8 s.beaconFlags] ++ leBytes (s.get CTM_PARENT_ORIGIN_POS) 2 ++ leBytes hops 2
    ++ [BitVec.ofNat 8 (s.get CTM_STAT_EPOCH), BitVec.ofNat 8 x.sent] ++ leBytes s.stamp 10 ++ leBytes echo.1 10
    ++ leBytes echo.2.1 10 ++ [BitVec.ofNat 8 echo.2.2]) 112

/-! ### Validity, states -/

/-- VALID changes; TIME is live while it is 0 (spec/18_field_io_and_shutter.md Table 18.1). -/
def Chip.setValid (s : Chip) (b : Bool) : Chip := (s.put CTM_STAT_VALID (b2n b)).live causeTime (!b)

def Chip.enterLocked (s : Chip) : Chip := ((s.put CTM_STAT_STATE ctLocked).setValid true).evt CTM_EVT_LOCKED

/-- ORIGIN_EPOCH counts a change of origin. -/
def Chip.countOrigin (s : Chip) : Chip := (s.addWrap CTM_STAT_EPOCH 1).evt CTM_EVT_ORIGIN_CHG

/-! ### Candidates and the parent (R149) -/

/-- The partner at a port lies between this node and an origin. -/
def Chip.towardOrigin (s : Chip) (p : TPort) (b : BeaconSeen) : Bool :=
  if s.on BRD_STAT_POS_VALID then
    if p.up then decide (b.originPos < s.get BRD_STAT_POS) else decide (s.get BRD_STAT_POS < b.originPos)
  else p.up != bit b.flags 1

/-- The last beacon at a port, where the port is a candidate. -/
def Chip.candidate (s : Chip) (p : TPort) : Option BeaconSeen :=
  let x := s.chainPort p
  match x.seen with
  | none => none
  | some b =>
    if (s.link p).state = .active ∧ x.fresh ∧ bit b.flags 0 ∧ bit b.flags 3 = false ∧ s.towardOrigin p b then some b else none

/-- The rank of a candidate: A-head origin first, then hops, then the near port. -/
def rank (p : TPort) (b : BeaconSeen) : Nat := (b2n (bit b.flags 1) * 1024 + b.hops) * 2 + b2n p.skip

/-- The parent port under R149. -/
def Chip.bestParent (s : Chip) : Option (TPort × BeaconSeen) :=
  TPort.list.foldl (fun (m : Option (TPort × BeaconSeen)) p =>
    match s.candidate p, m with
    | none, m => m
    | some b, none => some (p, b)
    | some b, some y => if rank p b < rank y.1 y.2 then some (p, b) else m) none

/-- A port has a candidate of A-head rank. -/
def Chip.candidateA (s : Chip) (p : TPort) : Bool := match s.candidate p with
  | some b => !bit b.flags 1
  | none => false

def Chip.hasA (s : Chip) : Bool := TPort.list.any (fun p => s.candidateA p)

/-- A partnered up-facing port whose last beacon is VALID without HOLDOVER. -/
def Chip.upValid (s : Chip) : Bool := [TPort.nu, TPort.su].any (fun p =>
  s.on (TRK_STAT_PARTNERED p.num) && (s.chainPort p).fresh && match (s.chainPort p).seen with
    | some b => bit b.flags 0 && !bit b.flags 3
    | none => false)

/-- Record the parent. -/
def Chip.setParent (s : Chip) (m : Option (TPort × BeaconSeen)) : Chip :=
  match m with
  | none => if s.on CTM_PARENT_NONE then s else (s.put CTM_PARENT_NONE 1).evt CTM_EVT_PARENT_CHG
  | some (p, b) =>
    let changed := s.on CTM_PARENT_NONE || s.get CTM_PARENT_PORT != p.num
    let origin := decide (s.get CTM_PARENT_ORIGIN_POS ≠ b.originPos) || (s.on CTM_STAT_ORIGIN_B != bit b.flags 1)
    let s := (s.put CTM_PARENT_NONE 0).put CTM_PARENT_PORT p.num
    let s := (s.put CTM_PARENT_ORIGIN_POS b.originPos).put CTM_PARENT_HOPS (b.hops + 1)
    let s := s.put CTM_STAT_ORIGIN_B (b2n (bit b.flags 1))
    let s := if changed then s.evt CTM_EVT_PARENT_CHG else s
    if origin then s.countOrigin else s

/-! ### The origin (R150, R151) -/

/-- This head becomes the origin; its VALID becomes 1 at once, or at LOAD with PTP_WAIT. -/
def Chip.becomeOrigin (s : Chip) : Chip :=
  let s := ((s.put CTM_STAT_IS_ORIGIN 1).put CTM_STAT_ALIGNED 1).setParent none
  let s := (s.put CTM_PARENT_ORIGIN_POS (s.get BRD_STAT_POS)).put CTM_PARENT_HOPS 0
  let s := (s.put CTM_STAT_ORIGIN_B (b2n (s.get BRD_STAT_ROLE = 2))).countOrigin
  if (s.get CTM_STAT_VALID = 0 ∧ s.on CTM_CTL_PTP_WAIT) ∨ (s.get CTM_STAT_VALID = 1 ∧ s.ctState = ctLocked) then s else s.enterLocked

/-- A candidate of A-head rank has appeared: one that was not there when a SPLIT notice made this node the origin (R150, R151). -/
def Chip.appearedA (s : Chip) : Bool := TPort.list.any (fun p => s.candidateA p && !s.chain.stale.get p)

/-- Ports that no longer have the A-head candidate they had then. -/
def Chip.reviewStale (s : Chip) : Chip := s.setChain { s.chain with
  stale := TPort.list.foldl (fun (m : PerPort Bool) p => m.set p (s.chain.stale.get p && s.candidateA p)) (.all false) }

/-- A head's conditions for becoming origin (R150); while its VALID is 0 it first acquires from a candidate it has (R151). -/
def Chip.mayOriginate (s : Chip) : Bool :=
  s.on CTM_CTL_ORIGIN_EN && !s.chain.waiting && !s.hasA && (s.on CTM_STAT_VALID || s.bestParent.isNone)
  && (decide (s.get BRD_STAT_ROLE = 1) || (decide (s.get BRD_STAT_ROLE = 2) && !s.upValid))

/-- The phase term ends: what is left is the held increment, without correction (R153, Table 5.2). -/
def Chip.endPhase (s : Chip) : Chip := s.setChain { s.chain with phaseLeft := 0 }

/-- A VALID node that has lost its last candidate (R153). -/
def Chip.enterHoldover (s : Chip) : Chip :=
  ((s.endPhase.put CTM_STAT_STATE ctHoldover).inc CTM_HOLDOVER_CNT).evt CTM_EVT_HOLDOVER

/-- What follows every change of candidates: the wait ends at a candidate, the origin role is given up or taken, the parent is
chosen, and a node without one enters HOLDOVER (R149–R153). -/
def Chip.reviewTime (s : Chip) : Chip :=
  s.beaconOnChange (fun s =>
    let m := s.bestParent
    let s := if m.isSome then s.setChain { s.chain with waiting := false } else s
    let s := s.reviewStale
    let s := if s.on CTM_STAT_IS_ORIGIN ∧ s.get BRD_STAT_ROLE ≠ 1 ∧ s.appearedA then
        (s.put CTM_STAT_IS_ORIGIN 0).setChain { s.chain with slew := 0 } else s
    if s.on CTM_STAT_IS_ORIGIN then s
    else if s.mayOriginate then s.becomeOrigin
    else
      let s := s.setParent m
      if m.isNone ∧ s.ctState = ctLocked then s.enterHoldover else s)

/-- The third end of the wait of R151: every port whose receive clock lane shows no LOS has been Up for LOSS_TMO, and none of them
has received a VALID beacon. While every port shows LOS there is no such port, and the wait goes on (DEDUCED, log entry 35). -/
def Chip.quietPorts (s : Chip) : Bool :=
  let seen := TPort.list.filter (fun p => decide (s.get (TRK_LOS_LOS_CK p.num) = 0))
  !seen.isEmpty && seen.all (fun p => decide (s.laneState p = laneUp) && !(s.chainPort p).heardValid
    && match (s.chainPort p).upAt with
      | some t => decide (t + 4800 * s.get CTM_TIMERS_LOSS_TMO ≤ s.tick)
      | none => false)

/-- The wait of R151 ends. -/
def Chip.endWait (s : Chip) : Chip := (s.setChain { s.chain with waiting := false }).reviewTime

/-! ### The servo (R155) -/

/-- e within LOCK_THR, in 0.25 ns units. -/
def Chip.withinThr (s : Chip) (e : Int) : Bool := decide ((e.natAbs : Int) ≤ (s.get CTM_SERVO_LOCK_THR : Int) * 16384)

/-- The servo takes one e, in 2^-16 ns. -/
def Chip.servo (s : Chip) (e : Int) : Chip :=
  let n : Int := s.beaconCycles
  let phase := Int.tdiv (e * 65536) (2 ^ s.get CTM_SERVO_KP_SHIFT * n)
  let add := Int.tdiv (e * 65536) (2 ^ s.get CTM_SERVO_KI_SHIFT * n)
  s.setChain { s.chain with
    adjust := clampTo s.slewLimit (s.chain.adjust + add), phaseStep := phase, phaseLeft := s.beaconCycles }

/-- ALIGNED follows e in LOCKED. -/
def Chip.alignment (s : Chip) (e : Int) : Chip :=
  if s.withinThr e then
    let g := s.chain.good + 1
    let s := s.setChain { s.chain with good := g }
    if 16 ≤ g then s.put CTM_STAT_ALIGNED 1 else s
  else (((s.setChain { s.chain with good := 0 }).put CTM_STAT_ALIGNED 0).evt CTM_EVT_SLEW)

/-- A beacon of the parent, with its e (Table 5.2). -/
def Chip.parentBeacon (s : Chip) (p : TPort) (e : Int) : Chip :=
  let s := s.put CTM_OFFSET_E (unsigned (e / 256) 32)
  let st := s.ctState
  if st = ctFree ∨ st = ctLost ∨ (st = ctAcquire ∧ s.chain.stepDue) then
    if (s.chainPort p).nMeas < 16 then s
    else ((s.put CTM_STAT_STATE ctAcquire).setChain { s.chain with good := 0, stepDue := false }).stepTo ((s.chain.count : Int) + e * 65536)
  else if st = ctAcquire then
    let s := s.servo e
    let g := if s.withinThr e then s.chain.good + 1 else 0
    let s := s.setChain { s.chain with good := g }
    if 16 ≤ g then s.enterLocked.put CTM_STAT_ALIGNED 1 else s
  else if st = ctHoldover then (s.enterLocked.servo e).alignment e
  else (s.servo e).alignment e

/-! ### Beacons received (R147) -/

/-- The hop delay's filter takes a measurement. The rule divides real numbers; here each quotient is rounded down to the 2^-16 ns in
which the filter is held (DESIGN CHOICE, log entry 33). -/
def ChainPort.measure (x : ChainPort) (d : Int) : ChainPort :=
  if x.nMeas < 16 then { x with dFilt := (x.dFilt * x.nMeas + d) / (x.nMeas + 1), nMeas := x.nMeas + 1 }
  else { x with dFilt := x.dFilt + (d - x.dFilt) / 16 }

/-- A passed beacon of 112 bytes at a port, with its arrival stamp (R146, R147). The spec does not say what a receiver does with a
VERSION other than 0x01: such a beacon is ignored (DESIGN CHOICE, log entry 34). -/
def Chip.takeBeacon (s : Chip) (p : TPort) (b : List Byte) (t4 : Nat) : Chip :=
  if rd b 0 1 ≠ 1 then s
  else s.beaconOnChange (fun s =>
    let x := s.chainPort p
    let t3 := rd b 8 10
    let t1 := rd b 18 10
    let t2 := rd b 28 10
    let named := decide (t1 ≠ 0) && decide (rd b 38 1 < x.sent ∨ 256 ≤ x.sent)
    let x := if named then x.measure ((((t4 : Int) - t1) - ((t3 : Int) - t2)) / 2) else x
    let seen : BeaconSeen :=
      { tTx := t3, arrival := t4, seq := rd b 7 1, flags := rd b 1 1 % 16, originPos := rd b 2 2 % 1024, hops := rd b 4 2 % 1024,
        epoch := rd b 6 1, atTick := s.tick }
    let s := s.setChainPort p { x with seen := some seen, fresh := true, heardValid := x.heardValid || bit seen.flags 0 }
    let s := (s.put (CTM_DELAY_D p.num) (unsigned (x.dFilt / 256) 24)).put (CTM_DELAY_D_VALID p.num) (b2n (decide (x.nMeas = 16)))
    let s := s.reviewTime
    let dIn := x.dFilt + signed (s.get (CTM_ASYM_ASYM p.num)) 16 * 32
    if s.get CTM_PARENT_NONE = 0 ∧ s.get CTM_PARENT_PORT = p.num ∧ s.get CTM_STAT_IS_ORIGIN = 0 ∧ (s.candidate p).isSome then
      s.parentBeacon p ((t3 : Int) + dIn - t4)
    else s)

/-- The beacon's copy of what was sent: the count of beacons on this direction. -/
def Chip.beaconSent (s : Chip) (p : TPort) : Chip :=
  let x := s.chainPort p
  s.setChainPort p { x with sent := x.sent + 1 }

/-- An Init handshake restarts the measurements of a port (R147). -/
def Chip.restartDelay (s : Chip) (p : TPort) : Chip :=
  (s.setChainPort p { s.chainPort p with nMeas := 0, dFilt := 0 }).put (CTM_DELAY_D_VALID p.num) 0

/-- A port that has lost its partner: no candidate (R149), and no beacon to echo, since the next partner's is none of it (Table 5.1). -/
def Chip.chainPortDown (s : Chip) (p : TPort) : Chip :=
  (s.setChainPort p { s.chainPort p with fresh := false, seen := none, upAt := none, heardValid := false }).reviewTime

/-- A port without a beacon for LOSS_TMO is no candidate (R149). -/
def Chip.chainPortLost (s : Chip) (p : TPort) : Chip :=
  (s.setChainPort p { s.chainPort p with fresh := false }).reviewTime

/-- A B head learns that a split edge lies between it and the A head (R150): it becomes the origin whatever candidates it still has,
and those are none that appear later. -/
def Chip.splitSeen (s : Chip) (edge : Nat) : Chip :=
  if s.get BRD_STAT_ROLE = 2 ∧ s.on CTM_CTL_ORIGIN_EN ∧ s.chain.waiting = false ∧ s.get CTM_STAT_IS_ORIGIN = 0
      ∧ edge < s.get BRD_STAT_POS then
    s.beaconOnChange (fun s => (s.setChain { s.chain with
      stale := TPort.list.foldl (fun (m : PerPort Bool) p => m.set p (s.candidateA p)) (.all false) }).becomeOrigin)
  else s

/-! ### Meanings -/

/-- BEACON_INT has passed on a port (R145). -/
def execBeaconDue (p : TPort) (s : State) : Result := s.onChip (fun c => c.dueBeacon p)

/-- No beacon on a port for LOSS_TMO (R149, R153). -/
def execLossTmo (p : TPort) (s : State) : Result := s.onChip (fun c => c.chainPortLost p)

/-- HOLDOVER, ACQUIRE or FREE has been held longer than HOLDOVER_LIM (Table 5.2, R154). -/
def holdoverLim (s : Chip) : Chip :=
  let st := s.ctState
  if s.on CTM_STAT_IS_ORIGIN ∨ (st ≠ ctHoldover ∧ st ≠ ctAcquire ∧ st ≠ ctFree) then s
  else s.beaconOnChange (fun s =>
    ((((s.endPhase.put CTM_STAT_ALIGNED 0).put CTM_STAT_STATE ctLost).setValid false).inc CTM_LOST_CNT).evt CTM_EVT_LOST
      |>.shutter causeTime)

def execHoldoverLim (s : State) : Result := s.onChip holdoverLim

/-- ORIGIN_WAIT has passed since the training gate opened, or since a RESYNC (R151, R155). -/
def execOriginWait (s : State) : Result := s.onChip Chip.endWait

/-- A write of 1 to CTM_CTL.LOAD (R143, R150): a step to CTM_SET, ignored while VALID is 1; an origin that waits for the PTP time
becomes VALID. -/
def loadTime (s : Chip) : Chip :=
  if s.on CTM_STAT_VALID then s
  else
    let t : Nat := (s.get CTM_SET_LO_NS + 2 ^ 32 * s.get CTM_SET_HI_NS) * 2 ^ 32 + s.get CTM_SET_FRAC_FRAC * 2 ^ 16
    s.beaconOnChange (fun s =>
      let s := s.stepTo t
      if s.on CTM_STAT_IS_ORIGIN then s.enterLocked else s)

def execLoad (s : State) : Result := s.onChip loadTime

/-- A write of 1 to CTM_CTL.RESYNC (R155): VALID clears and the node acquires afresh; an origin gives up its role and waits as
R151 says. -/
def resyncTime (s : Chip) : Chip :=
  s.beaconOnChange (fun s =>
    let origin := s.on CTM_STAT_IS_ORIGIN
    let s := ((s.put CTM_STAT_STATE ctAcquire).setValid false).put CTM_STAT_IS_ORIGIN 0
    let s := (s.put CTM_STAT_ALIGNED 0).setChain { s.chain with
      good := 0, stepDue := true, waiting := s.chain.waiting || origin, slew := if origin then 0 else s.chain.slew }
    s.reviewTime)

def execResync (s : State) : Result := s.onChip resyncTime

/-- A write to CTM_ADJ_PHASE at the origin: a phase, in 2^-8 ns, joins the pending slew (R158). -/
def execAdjPhase (value : Word) (s : State) : Result := s.onChip (fun c =>
  if c.on CTM_STAT_IS_ORIGIN then c.setChain { c.chain with slew := c.chain.slew + value.toInt * 2 ^ 24 } else c)

/-- A write to CTM_ADJ_FREQ at the origin (R158). -/
def execAdjFreq (value : Word) (s : State) : Result := s.onChip (fun c =>
  if c.on CTM_STAT_IS_ORIGIN then c.put CTM_ADJ_FREQ_FREQ value.toNat else c)

/-- A read of CTM_NOW_LO latches the rest of the time (R160). -/
def Chip.latchNow (s : Chip) : Chip :=
  (s.latch CTM_NOW_HI_NS.addr (s.ns / 2 ^ 32)).latch CTM_NOW_FRAC_FRAC.addr (s.stamp % 65536)

def execCtmNowLo (s : State) : Result := s.onChip Chip.latchNow

end Sys2Proof.Machine
end

