-- ==== Sys2Proof/Machine/Ports.lean ====
section
/-! DEFINITION. A trunk port as a whole: what its lane layer, link layer and the braid logic do together when it is lost, parked,
put in service or taken out (spec/02_trunk_lanes.md R53–R68, spec/03_trunk_link_layer.md R101–R107, spec/04_braid_and_graft.md
R111–R138). -/

namespace Sys2Proof.Machine
open Sys2Proof Sys2Proof.Machine.Reg

/-! ### The link layer's state (spec/03_trunk_link_layer.md R90, R101, R102, R107) -/

/-- Receive buffers of a virtual channel (Table 3.4). -/
def vcBuffers (v : Nat) : Nat := if v = 0 then 256 else if v = 1 then 128 else if v = 2 then 64 else 32

/-- Free receive buffers. -/
def LinkPort.freeBuffers (l : LinkPort) : PerVc :=
  ⟨vcBuffers 0 - l.used.v0, vcBuffers 1 - l.used.v1, vcBuffers 2 - l.used.v2, vcBuffers 3 - l.used.v3⟩

/-- A received cell leaves its receive buffer. -/
def Chip.freeRx (s : Chip) (p : TPort) (v : Nat) : Chip :=
  let s := s.delayCredit p v
  let l := s.link p
  s.setLink p { l with used := l.used.set v (l.used.get v - 1), freed := l.freed.set v ((l.freed.get v + 1) % 1024) }

/-- Cells of a list on each virtual channel. -/
def countVc (cells : List Cell) : PerVc :=
  let n (v : Nat) := (cells.filter (fun c => decide (vcOf c.tc = v))).length
  ⟨n 0, n 1, n 2, n 3⟩

/-- The replay buffer is discarded and its cells are reported with the port's flush (R107); cells dispatched by cut-through count as
queued and are flushed (spec/06_switch_core.md). -/
def Chip.discardReplay (s : Chip) (p : TPort) : Chip :=
  let l := s.link p
  let n := l.replay.length
  let s := s.addSat (LNK_LOST_CELLS p.num) n
  let s := if n = 0 then s else s.evt (LNK_EVT_LOST p.num)
  let s := s.addSat SWX_FLUSH_TRANSIT (l.cut.filter (fun e => e.2 != some false)).length
  let s := s.setLink p { l with replay := [], replayAt := none, oldest := l.next, replays := 0, cut := [] }
  s.portDown p.num (countVc (l.replay.map (·.2)))

/-- The link layer goes Down with its port. -/
def Chip.linkDown (s : Chip) (p : TPort) : Chip :=
  if (s.link p).state = .down then s
  else
    let s := s.discardReplay p
    s.setLink p { s.link p with
      state := .down, rxWait := false, accepted := false, viaResume := false, ctl := [], beaconDue := false, holdAt := ⟨0, 0, 0, 0⟩ }

/-- The message of a handshake that this end repeats. -/
def LinkPort.handshake (l : LinkPort) : Ctl :=
  match l.state with
  | .resume => .resume l.expect l.epoch l.partnerEpoch l.snapshot
  | _ => .init l.epoch l.snapshot

/-- A pending message is one of a handshake. -/
def Ctl.isHandshake : Ctl → Bool
  | .init _ _ => true
  | .resume _ _ _ _ => true
  | _ => false

/-- Enter Init (R102): the replay buffer is discarded, LOCAL_EPOCH counts, sequence state is reset, and INIT goes out. The spec does not
say what becomes of other link control flits not yet sent: they are dropped (DESIGN CHOICE, log entry 36). The port is no candidate of
chain time until it is Active again (spec/05_chain_time.md R149). -/
def Chip.enterInit (s : Chip) (p : TPort) : Chip :=
  let s := (s.discardReplay p).restartDelay p
  let l := s.link p
  let l := { l with
    state := .init, next := 0, oldest := 0, expect := 0, ackSent := 0xFFF, epoch := (l.epoch + 1) % 256, rxWait := false,
    accepted := false, viaResume := false, freed := ⟨0, 0, 0, 0⟩, freedSent := ⟨0, 0, 0, 0⟩, delayed := [],
    snapshot := l.freeBuffers }
  (s.setLink p { l with ctl := [l.handshake] }).reviewTime

/-- Enter Resume (R101, R102): sequence state is kept, RESUME goes out, and a replay waits for the partner's EXPECT (R103). -/
def Chip.enterResume (s : Chip) (p : TPort) : Chip :=
  let l := s.link p
  let l := { l with
    state := .resume, accepted := false, viaResume := false, replayAt := none, freed := ⟨0, 0, 0, 0⟩, freedSent := ⟨0, 0, 0, 0⟩,
    delayed := [], snapshot := l.freeBuffers }
  (s.setLink p { l with ctl := l.ctl.filter (fun c => !c.isHandshake) ++ [l.handshake] }).reviewTime

/-! ### Positions and the trellis (spec/04_braid_and_graft.md R117–R119) -/

def posAbsent : Nat := 0
def posTraining : Nat := 1
def posAdmitting : Nat := 2
def posMember : Nat := 3
def posGrafted : Nat := 4
def posDormant : Nat := 5
def posPruned : Nat := 6

/-- The position of a port's partner (spec/01_rows_and_nodes.md Table 1.2). -/
def Chip.partnerPos (s : Chip) (p : TPort) : Option Nat :=
  let n := s.get BRD_STAT_POS
  let d := if p.skip then 2 else 1
  if s.get BRD_STAT_POS_VALID = 0 then none
  else if p.up then (if d ≤ n then some (n - d) else none)
  else (if n + d < 1024 then some (n + d) else none)

/-- The port whose partner a position is. -/
def Chip.portTo (s : Chip) (q : Nat) : Option TPort := TPort.list.find? (fun p => s.partnerPos p == some q)

def Chip.posState (s : Chip) (q : Nat) : Nat := s.get (BRD_TRELLIS_STATE q)

/-- A port's partner position has a state. -/
def Chip.partnerIs (s : Chip) (p : TPort) (st : Nat) : Bool := match s.partnerPos p with
  | some q => s.posState q == st
  | none => false

/-- A position's state changes: REFUSED goes with the old state, and a new decision on the position may be applied (R616). -/
def Chip.setPos (s : Chip) (q st : Nat) : Chip :=
  if s.posState q = st then s
  else
    let s := ((s.put (BRD_TRELLIS_STATE q) st).put (BRD_TRELLIS_TGEN q) (s.get BRD_TGEN_TGEN)).put (BRD_TRELLIS_REFUSED q) 0
    match s.portTo q with
    | some p => { s with braid := { s.braid with decided := s.braid.decided.set p false } }
    | none => s

/-! ### Notices (R123, R138, Table 4.5) -/

/-- The fields of a notice or admission cell. -/
structure Notice where
  ntype : Nat
  subject : Nat
  port : Nat := 255
  detail : Nat := 0
  restore : Nat := 0
  state : Nat := 0
  role : Option Nat := none
  uid : List Byte := []
  likeness : Nat := 0
  digest : List Byte := []
  marks : Nat := 0

/-- The 104 data bytes. -/
def Chip.noticeBytes (s : Chip) (n : Notice) : List Byte :=
  [BitVec.ofNat 8 n.ntype, 1] ++ leBytes n.subject 2 ++ leBytes (s.get BRD_STAT_POS) 2
    ++ [BitVec.ofNat 8 n.port, BitVec.ofNat 8 n.detail] ++ leBytes s.ns 8 ++ leBytes n.restore 8
    ++ leBytes (s.get BRD_TGEN_TGEN) 2 ++ [BitVec.ofNat 8 n.state, BitVec.ofNat 8 (n.role.getD (s.get BRD_STAT_ROLE))]
    ++ padTo n.uid 16 ++ leBytes n.likeness 4 ++ padTo n.digest 48 ++ [BitVec.ofNat 8 n.marks] ++ List.replicate 7 0

/-- The cell of a notice: tunnel 0, TC7, NOTICE, near rail (R123). -/
def Chip.noticeCell (s : Chip) (dest : Nat) (n : Notice) : Cell :=
  { hdr := mkHdr (dest + 1024 * s.get BRD_STAT_ROW) 0 0 7 false true 104 4, data := s.noticeBytes n }

/-- The positions a notice goes to: up the row the serving head, or the first Member, and down the row the last Member. -/
def Chip.noticeUp (s : Chip) : Option Nat :=
  let n := s.get BRD_STAT_POS
  match s.servingHead with
  | some q => if q < n then some q else (List.range n).find? (fun i => s.posState i = posMember)
  | none => (List.range n).find? (fun i => s.posState i = posMember)

def Chip.noticeDown (s : Chip) : Option Nat :=
  let n := s.get BRD_STAT_POS
  ((List.range (1023 - n)).map (fun i => 1023 - i)).find? (fun i => s.posState i = posMember)

/-- An admission cell joins its own port's queue, with no forwarding (R123): true where R167 admits or discards it. -/
def Chip.placeOnPort (s : Chip) (p : TPort) (c : Cell) : Bool × Chip :=
  let r := s.placeLocal 12 p.num c .plain
  (!r.held, if r.held then s.notPlaced r else r.chip)

/-- A cell that the braid logic makes is given to the switch at P12: a notice to be forwarded, an admission cell to its port. -/
def Chip.giveBraid (s : Chip) (port : Option TPort) (c : Cell) : Bool × Chip :=
  match port with
  | some p => s.placeOnPort p c
  | none =>
    let r := s.place 12 0 none c false
    (!r.held, if r.held then s.notPlaced r else r.chip)

/-- The braid logic sends a cell, after those that wait (R123). -/
def Chip.sendBraid (s : Chip) (port : Option TPort) (c : Cell) : Chip :=
  let wait (s : Chip) : Chip := { s with braid := { s.braid with outgoing := s.braid.outgoing ++ [(port, c)] } }
  if s.braid.outgoing = [] then
    let r := s.giveBraid port c
    if r.1 then r.2 else (wait r.2).evt SWX_EVT_HELD
  else wait s

/-- The cells that wait are offered again, in their order. -/
def Chip.retryOutgoing (s : Chip) : Chip :=
  (List.range s.braid.outgoing.length).foldl (fun (s : Chip) _ =>
    match s.braid.outgoing with
    | [] => s
    | e :: rest =>
      let r := s.giveBraid e.1 e.2
      if r.1 then { r.2 with braid := { r.2.braid with outgoing := rest } } else r.2) s

/-- A notice goes out in each direction in which a port is in service (R121 step 5). -/
def Chip.sendNotice (s : Chip) (n : Notice) : Chip :=
  if s.get BRD_CTL_NOTICE_EN = 0 then s
  else
    let s := match s.noticeUp with
      | some q => if s.inService .nu ∨ s.inService .su then s.sendBraid none (s.noticeCell q n) else s
      | none => s
    match s.noticeDown with
    | some q => if s.inService .nd ∨ s.inService .sd then s.sendBraid none (s.noticeCell q n) else s
    | none => s

/-- An admission cell is sent on a port. -/
def Chip.sendAdmission (s : Chip) (p : TPort) (c : Cell) : Chip := s.sendBraid (some p) c

/-- The DORMANT notice goes out on every port in service (R136). -/
def Chip.sendDormant (s : Chip) : Chip :=
  if s.get BRD_CTL_NOTICE_EN = 0 then s
  else TPort.list.foldl (fun (s : Chip) p =>
    match if p.up then s.noticeUp else s.noticeDown with
    | some q =>
      if s.inService p then s.sendBraid (some p) (s.noticeCell q { ntype := 6, subject := s.get BRD_STAT_POS, state := posDormant })
      else s
    | none => s) s

/-! ### The row generation (R119) -/

/-- This node holds TGEN: the A head, or the B head of a segment without it. -/
def Chip.holdsTgen (s : Chip) : Bool := decide (s.get BRD_STAT_ROLE ≠ 0) && s.headDuty

/-- The row generation changes. -/
def Chip.setTgen (s : Chip) (g : Nat) : Chip := if s.get BRD_TGEN_TGEN = g % 65536 then s else (s.put BRD_TGEN_TGEN g).evt BRD_EVT_TGEN

/-- The holder of TGEN counts a change that it learns of or orders. -/
def Chip.countChange (s : Chip) : Chip := if s.holdsTgen then s.setTgen (s.get BRD_TGEN_TGEN + 1) else s

/-- The holder of TGEN sends a TRELLIS notice of a run of positions (Table 4.5). -/
def Chip.announce (s : Chip) (detail first last st : Nat) (uid : List Byte) : Chip :=
  if s.holdsTgen then s.sendNotice { ntype := 7, subject := first, detail := detail, restore := last, state := st, uid := uid } else s

/-- A position changes, and the holder of TGEN counts it and announces it. -/
def Chip.changePos (s : Chip) (q st : Nat) : Chip :=
  if s.posState q = st then s else (s.countChange.setPos q st).announce 0 q q st []

/-- A notice reports a position's state (R118): neither a LOCAL entry nor the own one is overwritten, and a Pruned position changes
by order alone (Table 4.2). -/
def Chip.learn (s : Chip) (q st : Nat) : Chip :=
  if s.on (BRD_TRELLIS_LOCAL q) ∨ s.on (BRD_TRELLIS_SELF q) ∨ s.posState q = posPruned then s else s.changePos q st

/-- This node is Member: the A head, or a node whose own entry is. -/
def Chip.selfMember (s : Chip) : Bool := s.on BRD_STAT_POS_VALID && decide (s.posState (s.get BRD_STAT_POS) = posMember)

/-- A port partner's entry is held from this node's own observation. A node that is not yet Member marks none: the trellis copies of its
own admission still bring the states of its partners (R118, R617; DEDUCED, log entry 37). -/
def Chip.markLocal (s : Chip) (q : Nat) : Chip := if s.selfMember then s.put (BRD_TRELLIS_LOCAL q) 1 else s

/-- A port partner's position changes by this node's own observation (R118). -/
def Chip.observe (s : Chip) (p : TPort) (st : Nat) : Chip :=
  match s.partnerPos p with
  | some q => (s.changePos q st).markLocal q
  | none => s

/-! ### Service (R111, R137) -/

/-- A power sequence drains the port before it switches the port's domain off (spec/20_power_states.md R497, R500,
spec/03_trunk_link_layer.md R108). -/
def Chip.draining (s : Chip) (p : TPort) : Bool :=
  match s.power.seq with
  | some q => bit q.off (4 + p.num)
  | none => false

/-- Every condition of R111. -/
def Chip.mayServe (s : Chip) (p : TPort) : Bool :=
  !s.draining p && s.on (TRK_STAT_PARTNERED p.num) && decide ((s.link p).state = .active) && s.partnerIs p posMember
  && (s.braid.restoreAt.get p).isNone

/-- A Member lies beyond this node in a direction. -/
def Chip.memberBeyond (s : Chip) (up : Bool) : Bool :=
  let n := s.get BRD_STAT_POS
  (List.range 1024).any (fun q => decide (s.posState q = posMember) && (if up then decide (q < n) else decide (n < q)))

/-- The split edge in one direction (R137). -/
def Chip.reviewSplit (s : Chip) (up : Bool) : Chip :=
  let f := if up then BRD_STAT_SPLIT_UP else BRD_STAT_SPLIT_DOWN
  let open_ := if up then s.inService .nu || s.inService .su else s.inService .nd || s.inService .sd
  let n := s.get BRD_STAT_POS
  if s.on f then
    if open_ then ((s.put f 0).evt BRD_EVT_REJOIN).sendNotice { ntype := 3, subject := n, state := posMember } else s
  else if open_ = false ∧ s.on BRD_STAT_POS_VALID ∧ s.memberBeyond up then
    let s := ((s.put f 1).evt BRD_EVT_SPLIT).sendNotice { ntype := 2, subject := n, state := posMember }
    s.splitSeen n
  else s

/-- Both directions are looked at for a split edge (R137). -/
def Chip.reviewSplits (s : Chip) : Chip := (s.reviewSplit true).reviewSplit false

/-- A port enters service; it is restored where its restore instant has passed (R132). -/
def Chip.enterService (s : Chip) (p : TPort) : Chip :=
  let s := s.setBitOf BRD_PORT_SVC_IN_SERVICE p.num
  if s.braid.restored.get p then
    ({ s with braid := { s.braid with restored := s.braid.restored.set p false } } : Chip).evt BRD_EVT_RESTORE
  else s

/-- A port's place in service is looked at again. -/
def Chip.reviewService (s : Chip) (p : TPort) : Chip :=
  let now := s.mayServe p
  if s.inService p = now then s
  else
    let s := if now then s.enterService p else s.clrBitOf BRD_PORT_SVC_IN_SERVICE p.num
    (s.reviewSplit p.up)

/-- A port leaves service at once; what its loss or park does to the trellis comes before the split edge is looked at (R121, R137). -/
def Chip.leaveService (s : Chip) (p : TPort) : Chip := if s.inService p then s.clrBitOf BRD_PORT_SVC_IN_SERVICE p.num else s

/-- The ports that a power sequence drains leave service together (spec/20_power_states.md R497 step 2). -/
def Chip.leaveDraining (s : Chip) : Chip :=
  (TPort.list.foldl (fun (s : Chip) p => if s.draining p then s.leaveService p else s) s).reviewSplits

/-- All four. -/
def Chip.reviewAll (s : Chip) : Chip := TPort.list.foldl (fun (s : Chip) p => s.reviewService p) s

/-! ### Hold-off and permission (R125, spec/02_trunk_lanes.md R56) -/

/-- The rejoin hold-off starts, and with it permission to train is withheld. -/
def Chip.startHoldoff (s : Chip) (p : TPort) : Chip :=
  let s := s.setBitOf BRD_PORT_SVC_HOLDOFF_RUN p.num
  { s with braid := { s.braid with permit := s.braid.permit.set p false } }

/-- The braid logic's permission, with R15, R126 and R388. -/
def Chip.permitted (s : Chip) (p : TPort) : Bool :=
  s.braid.permit.get p && s.boot.gate && !s.partnerIs p posPruned && !(p.up && s.on BRD_STAT_HEAD_CONFLICT)

/-- Every condition of R56. -/
def Chip.mayTrain (s : Chip) (p : TPort) : Bool :=
  s.on (TRK_CTL_EN p.num) && s.trunkOn p && decide (s.get (TRK_LOS_LOS_CK p.num) = 0) && s.permitted p

/-! ### Loss and park (R53, R68, R107, R120, R121) -/

/-- The lane maps of a port that carries nothing. -/
def Chip.clearMaps (s : Chip) (p : TPort) : Chip :=
  let s := (List.range 8).foldl (fun (s : Chip) i => (s.put (TRK_LANE_MAP_TX_LOG p.num i) 15).put (TRK_LANE_MAP_RX_LOG p.num i) 15) s
  (s.put (TRK_STAT_SPARE_IN_USE_TX p.num) 0).put (TRK_STAT_SPARE_IN_USE_RX p.num) 0

/-- What ends at a port with its partnership: the lane maps, the link, the beacons, the service, the restore and the sponsor. -/
def Chip.unpartner (s : Chip) (p : TPort) : Chip :=
  let s := (s.put (TRK_STAT_PARTNERED p.num) 0).clearMaps p
  let s := { s with braid := { s.braid with
    restoreAt := s.braid.restoreAt.set p none, restored := s.braid.restored.set p false,
    sponsor := s.braid.sponsor.set p .idle } }
  ((s.linkDown p).leaveService p).chainPortDown p

/-- The graft at this node (R121): recovery, the trellis entry, the notices, and the record. The spec bounds its latency by 20 µs, and no
more: a free value of at most 2,000 units of 10 ns (R122; DESIGN CHOICE, log entry 3). -/
def Chip.graft (s : Chip) (p : TPort) (q cause : Nat) : Chip :=
  let s := s.setBitOf BRD_PORT_SVC_RECOVERY p.num
  let s := s.observe p posGrafted
  let s := s.sendNotice { ntype := 1, subject := q, port := p.num, detail := cause, state := posGrafted }
  let f := s.fresh 16
  let s := f.2.put BRD_LAST_GRAFT_LAT (f.1 % 2001)
  let s := ((s.put BRD_LAST_GRAFT_POS q).put BRD_LAST_GRAFT_PORT p.num).put BRD_LAST_GRAFT_CAUSE cause
  (s.inc BRD_GRAFT_CNT).evt BRD_EVT_GRAFT

/-- A partnered port is lost (R53): cause 0 LOS or LOL, 1 retrain timeout, 2 credit timeout, 3 handshake timeout. -/
def Chip.portLost (s : Chip) (p : TPort) (cause : Nat) : Chip :=
  if s.on (TRK_STAT_PARTNERED p.num) = false then s
  else
    let q := s.partnerPos p
    let st := match q with
      | some q => s.posState q
      | none => 0
    let s := (s.endSparing p 3 false).evt (TRK_EVT_PORT_LOST p.num)
    let s := s.setLane p { s.lane p with
      attempt := .none, step := 0, fails := 0, request := none, verdict := none, partnerVerdict := none,
      pendingTry := none }
    let s := ((s.put (TRK_STAT_STATE p.num) laneWaiting).unpartner p).startHoldoff p
    let s := match q with
      | some q => if st = posTraining ∨ st = posAdmitting ∨ st = posMember then s.graft p q cause else s
      | none => s
    s.reviewSplit p.up

/-- A port enters Parked (R68): no loss is signalled. -/
def Chip.enterParked (s : Chip) (p : TPort) : Chip :=
  let s := s.endSparing p 3 false
  let s := s.setLane p { s.lane p with
    attempt := .none, step := 0, fails := 0, request := none, verdict := none, partnerVerdict := none, txOn := false, leave := false,
    pendingTry := none }
  (s.put (TRK_STAT_STATE p.num) laneParked).unpartner p

/-- This end parks a port: park blocks with a REASON, and then Parked. A port whose domain is off, or one already Parked, has nothing to
park. -/
def Chip.parkPort (s : Chip) (p : TPort) (reason : Nat) : Chip :=
  if s.trunkOn p = false ∨ s.laneState p = laneParked then s
  else (s.sendBlock p 0xA7 (s.tgtRate p) (s.tgtWidth p) 0 reason).enterParked p |>.reviewSplit p.up

/-! ### Admission decisions at a port partner (R130–R132) -/

/-- A port is put back in service at its restore instant (R132). -/
def Chip.restorePort (s : Chip) (p : TPort) : Chip :=
  let s := { s with braid := { s.braid with
    restoreAt := s.braid.restoreAt.set p none, restored := s.braid.restored.set p true } }
  s.reviewService p

/-- ADMIT for a position: a port partner applies the first decision since the position's state last changed (R616). -/
def Chip.applyAdmit (s : Chip) (q restore : Nat) : Chip :=
  match s.portTo q with
  | some p =>
    if s.braid.decided.get p then s
    else
      let s := s.observe p posMember
      let s := { s with braid := { s.braid with
        decided := s.braid.decided.set p true, sponsor := s.braid.sponsor.set p .idle,
        restoreAt := s.braid.restoreAt.set p (some restore) } }
      if restore ≤ s.ns then s.restorePort p else s
  | none => s.learn q posMember

/-- REFUSE for a position: a port partner parks its port, marks the position and restarts the hold-off (R131). -/
def Chip.applyRefuse (s : Chip) (q : Nat) : Chip :=
  match s.portTo q with
  | some p =>
    if s.braid.decided.get p then s
    else
      let s := (s.observe p posGrafted).parkPort p 0
      let s := (s.put (BRD_TRELLIS_REFUSED q) 1).startHoldoff p
      { s with braid := { s.braid with decided := s.braid.decided.set p true, sponsor := s.braid.sponsor.set p .idle } }
  | none => s.learn q posGrafted

/-! ### Sponsoring (R127, R128, R616) -/

/-- The ledger slot of a position: n−2 to n+2 are slots 0 to 4 (spec/23_in_service_repair.md R554). -/
def Chip.ledgerSlot (s : Chip) (q : Nat) : Option Nat :=
  let n := s.get BRD_STAT_POS
  if n ≤ q + 2 ∧ q ≤ n + 2 then some (q + 2 - n) else none

/-- The ledger record held for a position. -/
def Chip.record (s : Chip) (q : Nat) : Option (List Byte) :=
  match s.ledgerSlot q with
  | none => none
  | some k => if mget [] s.boot.ledger k = [] then none else some (mget [] s.boot.ledger k)

/-- The digest that admission compares: SHA-384 of a record, or 0 (R128, R558). -/
def recordDigest (r : Option (List Byte)) : List Byte :=
  match r with
  | some b => padTo (Config.sha384 b) 48
  | none => List.replicate 48 0

/-- Positions earlier in the sponsor order of the candidate at `q` than a port of this node that leads to it (R127). -/
def earlierSponsors (p : TPort) (q : Nat) : List Nat :=
  match p with
  | .nd => []
  | .nu => if 1 ≤ q then [q - 1] else []
  | .sd => (if 1 ≤ q then [q - 1] else []) ++ [q + 1]
  | .su => (if 1 ≤ q then [q - 1] else []) ++ [q + 1] ++ (if 2 ≤ q then [q - 2] else [])

/-- Send QUERY to the candidate at a port (R17, R128). -/
def Chip.becomeSponsor (s : Chip) (p : TPort) (q : Nat) : Chip :=
  let s := { s with braid := { s.braid with sponsor := s.braid.sponsor.set p .queried } }
  s.sendAdmission p (s.noticeCell q { ntype := 0x10, subject := q, port := p.num, state := posAdmitting })

/-- The candidate at a port has an Active link here (R127, R616). -/
def Chip.startSponsor (s : Chip) (p : TPort) : Chip :=
  match s.partnerPos p with
  | none => s
  | some q =>
    if s.selfMember = false ∨ s.get BRD_CTL_SPONSOR_EN = 0 ∨ s.posState q ≠ posAdmitting ∨ s.braid.decided.get p
        ∨ s.braid.sponsor.get p ≠ .idle then s
    else
      let i := ((earlierSponsors p q).filter (fun x => decide (x < 1024) && decide (s.posState x = posMember))).length
      if i = 0 then s.becomeSponsor p q
      else { s with braid := { s.braid with sponsor := s.braid.sponsor.set p (.waiting i) } }

/-- The turn to sponsor is looked at on every port: where this node has become Member, or may sponsor again (R127). -/
def Chip.startSponsors (s : Chip) : Chip := TPort.list.foldl (fun (s : Chip) p => s.startSponsor p) s

/-- Start-up moves on: a port has trained (step 6), and this node is Member (step 7); step 8 starts the benches that start-up
loaded (spec/14_clocks_reset_boot.md R387, R389, Table 14.5). -/
def Chip.bootReview (s : Chip) : Chip :=
  let s := if s.get CLK_BOOT_STEP = 6 ∧ TPort.list.any (fun p => decide ((s.link p).state = .active)) then
    s.put CLK_BOOT_STEP 7 else s
  if s.get CLK_BOOT_STEP = 7 ∧ s.selfMember then s.put CLK_BOOT_STEP 8 else s

/-- Step 8 ends: the benches staged are started, and start-up is over (R387, R389; one CLK_FAB cycle after its beginning, log
entry 15). -/
def Chip.bootEnd (s : Chip) : Chip :=
  if s.get CLK_BOOT_STEP = 8 then
    let s := s.boot.toStart.foldl (fun (s : Chip) e => s.startBench e.1 e.2) s
    { s with boot := { s.boot with toStart := [] } }.put CLK_BOOT_STEP 9
  else s

/-- A failure of start-up (Table 14.5). -/
def Chip.bootFail (s : Chip) (code : Nat) : Chip := (s.put CLK_BOOT_FAIL code).evt CLK_EVT_BOOT_FAIL

/-- A port's link has become Active (Table 4.2, R111, R127). -/
def Chip.linkActive (s : Chip) (p : TPort) : Chip :=
  let s := s.bootReview
  let s := if s.partnerIs p posTraining then s.observe p posAdmitting else if s.partnerIs p posMember then s.observe p posMember else s
  ((s.startSponsor p).reviewService p).reviewTime

/-- What a node that has just become Member observes of a port partner (R118, Table 4.2): an Active link, or training under way. -/
def Chip.seePartner (s : Chip) (p : TPort) : Chip :=
  match s.partnerPos p with
  | none => s
  | some q =>
    let st := s.posState q
    if st = posPruned then s
    else if (s.link p).state = .active then s.observe p (if st = posMember then posMember else posAdmitting)
    else if (s.lane p).attempt ≠ .none ∧ (st = posAbsent ∨ st = posGrafted ∨ st = posDormant) then s.observe p posTraining
    else s

/-- This node is Member: what it observes of its partners counts from now on, its ports are looked at again, and it may sponsor
(R118, R127). -/
def Chip.nowMember (s : Chip) : Chip :=
  let s := TPort.list.foldl (fun (s : Chip) p => s.seePartner p) s
  (s.bootReview.reviewAll.startSponsors).reviewSplits

end Sys2Proof.Machine
end

