-- ==== Sys2Proof/Machine/Ledger.lean ====
section
/-! DEFINITION. The flash directory's rewrite (spec/14_clocks_reset_boot.md R392) and the ledger copy
(spec/23_in_service_repair.md R554–R558). -/

namespace Sys2Proof.Machine
open Sys2Proof Sys2Proof.Machine.Reg

/-- An item as Porter writes it, not yet placed in the flash: its length and CRC are those of the bytes stored (Table 14.9). -/
def FlashEntry.written (e : FlashEntry) (stored : List Byte) : FlashEntry :=
  { e with offset := 0, length := stored.length, itemCrc := crc32c stored, stored := stored }

/-- Where the staging region lies in the flash (R532). -/
def stagingOffset : Nat := 0x03800000

/-- A place for `len` bytes beside the entries placed: the lowest multiple of 4,096 from 0x2000 on at which they fit (the spec leaves
it open: DESIGN CHOICE, log entry 28), short of the staging region, which no entry may cover
(spec/22_updates_and_planting.md R532). -/
def placeOff (l : List FlashEntry) (len : Nat) : Nat :=
  ((0x2000 :: l.map (fun e => (e.offset + e.length + 4095) / 4096 * 4096)).filter (fun o =>
    decide (0x2000 ≤ o ∧ o + len ≤ stagingOffset) && !l.any (fun e => e.meets o len))).min?.getD flashSize

/-- Each new entry gets its place. -/
def placeAll (l : List FlashEntry) : List FlashEntry :=
  l.foldl (fun (done : List FlashEntry) e =>
    done ++ [if e.offset = 0 then { e with offset := placeOff (done ++ l.filter (fun x => x.offset != 0)) e.length } else e]) []

/-- A copy of the directory with its header (Table 14.8). -/
def DirCopy.made (gen : Nat) (l : List FlashEntry) : DirCopy :=
  let d : DirCopy := { magic := 0x52494447, version := 1, count := l.length, gen := gen, crc := 0, entries := l }
  { d with crc := crc32c d.covered }

/-- Porter rewrites the directory: the older copy, with GEN plus 1 (R392). With no valid copy it writes copy A with GEN 1; a rewrite that
would leave no valid copy, of more than 126 entries or beyond the flash, is not made (both DESIGN CHOICE, log entry 28). -/
def Chip.rewriteDir (s : Chip) (f : List FlashEntry → List FlashEntry) : Chip :=
  let new : DirCopy := match s.dir with
    | none => DirCopy.made 1 (placeAll (f []))
    | some d => DirCopy.made ((d.gen + 1) % 2 ^ 32) (placeAll (f d.entries))
  if new.valid = false then s
  else if s.dir.isSome ∧ s.dir = validCopy s.upd.dirA then { s with upd := { s.upd with dirB := some new } }
  else { s with upd := { s.upd with dirA := some new } }

/-- A plain item of one of the two types that use BANK 2 (R393). -/
def plainItem (kind : Nat) (b : List Byte) : FlashEntry :=
  { kind := kind, bank := 2, active := true, bound := false, inst := 255, offset := 0, length := b.length, itemCrc := crc32c b, rev := 0,
    header := [], sig := [], nonce := [], item := b, stored := b }

/-! ### The ledger copy (R554) -/

/-- PRESENT: the slots that hold a record. -/
def Chip.ledgerPresent (s : Chip) : Nat :=
  ((List.range 5).map (fun k => b2n (mget [] s.boot.ledger k != []) * 2 ^ k)).foldl (· + ·) 0

/-- The 8,192 bytes of the copy. -/
def Chip.ledgerBytes (s : Chip) : List Byte :=
  let head := leBytes 0x59504F43 4 ++ leBytes 1 2 ++ leBytes (s.boot.ledgerNode.getD 0) 2 ++ leBytes s.ledgerPresent 1
    ++ List.replicate 179 0
  let recs := (List.range 5).flatMap (fun k => padTo (mget [] s.boot.ledger k) 1600)
  head ++ leBytes (crc32c (head ++ recs)) 4 ++ recs

/-- The copy in an item of flash: its own node address and its records; none where MAGIC, VERSION or CRC fails. -/
def ledgerOf (b : List Byte) : Option (Nat × SMap (List Byte)) :=
  if b.length = 8192 ∧ rd b 0 4 = 0x59504F43 ∧ rd b 4 2 = 1 ∧ rd b 188 4 = crc32c (b.take 188 ++ b.drop 192) then
    some (rd b 6 2, ((List.range 5).filter (fun k => bit (rd b 8 1) k)).map (fun k => (k, slice b (192 + 1600 * k) 1600)))
  else none

/-- The registers that show the copy (Table 23.5). -/
def Chip.showLedger (s : Chip) : Chip :=
  let own := mget [] s.boot.ledger 2
  ((s.put REP_LEDGER_PRESENT s.ledgerPresent).put REP_LEDGER_VALID (b2n s.boot.ledgerNode.isSome)).put REP_LEDGER_RGEN_RGEN (rd own 8 4)

/-- The copy changes: its registers follow, and flash holds it as the item of TYPE 8 (Table 14.9, R393). -/
def Chip.saveLedger (s : Chip) : Chip :=
  let s := s.showLedger
  s.rewriteDir (fun l => l.filter (fun x => x.kind != 8) ++ [plainItem 8 s.ledgerBytes])

/-- The own address goes into the header of the copy at admission (spec/01_rows_and_nodes.md R17). -/
def Chip.storeAddress (s : Chip) : Chip :=
  if s.boot.ledgerNode = some s.node then s
  else { s with boot := { s.boot with ledgerNode := some s.node } }.saveLedger

/-- The marks of a position clear, with the UIDs that they name. -/
def Chip.clearMarks (s : Chip) (q : Nat) : Chip :=
  let s := (s.put (BRD_TRELLIS_OPENED q) 0).put (BRD_TRELLIS_OVERRIDE q) 0
  { s with braid := { s.braid with overrides := mset 0 s.braid.overrides q 0, enrolled := mset 0 s.braid.enrolled q 0 } }

/-- A record goes into the slot of its position; with it a port partner's marks for the position clear (spec/04_braid_and_graft.md
R135). -/
def Chip.storeRecord (s : Chip) (q : Nat) (b : List Byte) : Chip :=
  match s.ledgerSlot q with
  | none => s
  | some k =>
    let s := { s with boot := { s.boot with ledger := mset [] s.boot.ledger k b, ledgerNode := some (s.boot.ledgerNode.getD s.node) } }
    let s := s.saveLedger
    if q = s.get BRD_STAT_POS then s else s.clearMarks q

/-- The own record's RAIL and trunk targets are applied; the fields of RAIL lock (R558, spec/00_scope.md R8). -/
def Chip.applyOwn (s : Chip) : Chip :=
  match s.record (s.get BRD_STAT_POS) with
  | none => s
  | some r =>
    let s := (s.writeOnce BRD_RAIL_SKIP_THR (rd r 36 1)).writeOnce BRD_RAIL_HASH_SEED (rd r 36 4 / 256)
    TPort.list.foldl (fun (s : Chip) p =>
      let t := bits (rd r 40 2) (4 * p.num) 4
      s.setTargets p (t % 4) (if p.skip ∧ t / 4 = 0 then s.tgtWidth p else t / 4)) s

end Sys2Proof.Machine
end

