-- ==== Sys2Proof/Machine/Braid.lean ====
section
/-! DEFINITION. The braid logic's commands: orders on the trellis, notices, admission, restore, hold-off and recovery
(spec/04_braid_and_graft.md R111–R138, R616, R617; spec/01_rows_and_nodes.md R17, R18). -/

namespace Sys2Proof.Machine
open Sys2Proof Sys2Proof.Machine.Reg

/-! ### Actions on the trellis (R133–R135) -/

/-- A mark of an entry changes with the row generation. -/
def Chip.mark (s : Chip) (q : Nat) : Chip := s.put (BRD_TRELLIS_TGEN q) (s.get BRD_TGEN_TGEN)

/-- Admit: a Pruned position becomes Absent, and one without a ledger record is opened for Enrolment, of any unit. On a LOCAL entry,
which is never Pruned, only the mark is set: R135 has it act at the port partners, whose entries are LOCAL (DEDUCED,
log entry 39). -/
def Chip.admitPos (s : Chip) (q : Nat) : Chip :=
  let s := if s.posState q = posPruned then s.setPos q posAbsent else s
  if s.record q = none then
    let s := (s.put (BRD_TRELLIS_OPENED q) 1).mark q
    { s with braid := { s.braid with enrolled := mset 0 s.braid.enrolled q 0 } }
  else s

/-- Prune: the position is Pruned on LOCAL entries too, and its port partner parks its port with REASON 1 (R134). -/
def Chip.prunePos (s : Chip) (q : Nat) : Chip :=
  let s := (s.setPos q posPruned).put (BRD_TRELLIS_LOCAL q) 0
  match s.portTo q with
  | some p => (s.parkPort p 1).evt BRD_EVT_PRUNED
  | none => s

/-- Override: one UID may be admitted despite a differing LIKENESS. -/
def Chip.overridePos (s : Chip) (q uid : Nat) : Chip :=
  let s := (s.put (BRD_TRELLIS_OVERRIDE q) 1).mark q
  { s with braid := { s.braid with overrides := mset 0 s.braid.overrides q (uid + 1) } }

/-- The positions of a run. -/
def runOf (first last : Nat) : List Nat := (List.range (last + 1 - first)).map (fun i => first + i)

/-- An action, by its DETAIL in a TRELLIS notice, on every entry of a run. -/
def Chip.trellisAct (s : Chip) (detail first last uid : Nat) : Chip :=
  (runOf first last).foldl (fun (s : Chip) q =>
    match detail with
    | 1 => s.admitPos q
    | 2 => s.prunePos q
    | _ => s.overridePos q uid) s

/-- The reserved bits of Table 4.6 are 0: FORCE[7:1], FIRST and LAST above their ten bits, bytes 6 and 7, and the UID of an action that
names none (spec/00_scope.md R6). -/
def trellisBodyOk (body : List Byte) : Bool :=
  decide (rd body 1 1 ≤ 1 ∧ rd body 2 2 < 1024 ∧ rd body 4 2 < 1024 ∧ rd body 6 2 = 0) && (decide (rd body 0 1 = 3) || decide (rd body 8 16 = 0))

/-- A TRELLIS order of one action at the serving head (R133, R119). -/
def Chip.trellisOrder (s : Chip) (id : SlotId) (body : List Byte) (refuse : Nat → Nat → Bool) : Chip :=
  let act := rd body 0 1
  let first := rd body 2 2
  let last := rd body 4 2
  if s.headDuty = false then s.docketReady id stRefused []
  else if trellisBodyOk body = false ∨ last < first ∨ (act = 3 ∧ last ≠ first) then s.docketReady id stBadArgs []
  else if refuse first last then s.docketReady id stRefused []
  else
    let s := s.countChange.trellisAct act first last (rd body 8 16)
    (s.announce act first last 0 (if act = 3 then slice body 8 16 else [])).docketReady id stDone []

/-- An ACTION of the body. -/
def actionIs (n : Nat) (body : List Byte) : Bool := rd body 0 1 == n

/-- Members below 1024 outside a run leave two adjacent missing positions between two of them (R134). -/
def Chip.wouldSplit (s : Chip) (first last : Nat) : Bool :=
  let members := (List.range 1024).filter (fun q => decide (s.posState q = posMember) && !(decide (first ≤ q) && decide (q ≤ last)))
  (members.zip members.tail).any (fun e => decide (e.1 + 2 < e.2))

def trellisAdmit (id : SlotId) (s : Chip) : Chip :=
  s.startOrder id 0x50 (actionIs 1) (fun s _ body => s.trellisOrder id body (fun _ _ => false))

def execTrellisAdmit (at_ : SlotId) (s : State) : Result := s.onChip (trellisAdmit at_)

/-- A prune is refused where it names the serving head, or would split the row without FORCE (R134). -/
def trellisPrune (id : SlotId) (s : Chip) : Chip :=
  s.startOrder id 0x50 (actionIs 2) (fun s _ body => s.trellisOrder id body (fun first last =>
    (decide (first ≤ s.get BRD_STAT_POS) && decide (s.get BRD_STAT_POS ≤ last))
      || (!bit (rd body 1 1) 0 && s.wouldSplit first last)))

def execTrellisPrune (at_ : SlotId) (s : State) : Result := s.onChip (trellisPrune at_)

def trellisOverride (id : SlotId) (s : Chip) : Chip :=
  s.startOrder id 0x50 (actionIs 3) (fun s _ body => s.trellisOrder id body (fun _ _ => false))

def execTrellisOverride (at_ : SlotId) (s : State) : Result := s.onChip (trellisOverride at_)

/-! ### Notices received (R118, R123, R138) -/

/-- Fields of a notice's data (Table 4.5). -/
def nSubject (b : List Byte) : Nat := rd b 2 2 % 1024
def nReporter (b : List Byte) : Nat := rd b 4 2 % 1024
def nDetail (b : List Byte) : Nat := rd b 7 1
def nTgen (b : List Byte) : Nat := rd b 24 2
def nState (b : List Byte) : Nat := rd b 26 1
def nRole (b : List Byte) : Nat := rd b 27 1

/-- A cell is a notice or admission cell of a type that a receiver does not ignore (R138). -/
def isNotice (c : Cell) (ntype : Nat) : Bool := c.flag 2 && decide (rd c.data 0 1 = ntype) && decide (rd c.data 1 1 = 1)

/-- A notice is copied to the braid logic, unless it only passes and SNOOP_EN is 0 (R123). Its forwarding is that of its cell. Table 4.5
does not say whose ROLE a notice other than a trellis copy carries: it is the reporter's own, and is stored in the reporter's entry
unless that is LOCAL or this node's (DEDUCED, log entry 40). -/
def Chip.noticeIn (s : Chip) (c : Cell) (ntype : Nat) (f : Chip → List Byte → Chip) : Chip :=
  if isNotice c ntype = false ∨ (s.get BRD_CTL_SNOOP_EN = 0 ∧ c.dest ≠ s.node) then s
  else
    let s := (s.inc BRD_NOTICE_CNT).evt BRD_EVT_NOTICE
    let r := nReporter c.data
    let s := if s.on (BRD_TRELLIS_SELF r) ∨ s.on (BRD_TRELLIS_LOCAL r) then s else s.put (BRD_TRELLIS_ROLE r) (nRole c.data)
    f s c.data

def graftNotice (c : Cell) (s : Chip) : Chip := s.noticeIn c 1 (fun s b => s.learn (nSubject b) (nState b))

def execGraftNotice (p : TPort) (cell : Cell) (s : State) : Result := s.onChip (fun c => (graftNotice cell c).reviewSplits.reviewService p)

/-- SPLIT: a B head beyond the edge may become origin (spec/05_chain_time.md R150). -/
def splitNotice (c : Cell) (s : Chip) : Chip :=
  s.noticeIn c 2 (fun s b => (s.learn (nSubject b) (nState b)).splitSeen (nSubject b))

def execSplitNotice (p : TPort) (cell : Cell) (s : State) : Result := s.onChip (fun c => (splitNotice cell c).reviewSplits.reviewService p)

def rejoinNotice (c : Cell) (s : Chip) : Chip := s.noticeIn c 3 (fun s b => s.learn (nSubject b) (nState b))

def execRejoinNotice (p : TPort) (cell : Cell) (s : State) : Result := s.onChip (fun c => (rejoinNotice cell c).reviewSplits.reviewService p)

/-- ADMIT: the position is Member, and a port partner schedules the restore instant (R130, R132). -/
def admitNotice (c : Cell) (s : Chip) : Chip := s.noticeIn c 4 (fun s b => s.applyAdmit (nSubject b) (rd b 16 8))

def execAdmitNotice (p : TPort) (cell : Cell) (s : State) : Result := s.onChip (fun c => (admitNotice cell c).reviewSplits.reviewService p)

/-- REFUSE: a port partner parks its port (R131). -/
def refuseNotice (c : Cell) (s : Chip) : Chip := s.noticeIn c 5 (fun s b => s.applyRefuse (nSubject b))

def execRefuseNotice (p : TPort) (cell : Cell) (s : State) : Result := s.onChip (fun c => (refuseNotice cell c).reviewSplits.reviewService p)

/-- DORMANT: a port partner waits for the park that follows (R136). -/
def dormantNotice (c : Cell) (s : Chip) : Chip :=
  s.noticeIn c 6 (fun s b =>
    match s.portTo (nSubject b) with
    | some p => { s with braid := { s.braid with dormantSeen := s.braid.dormantSeen.set p true } }
    | none => s.learn (nSubject b) posDormant)

def execDormantNotice (p : TPort) (cell : Cell) (s : State) : Result := s.onChip (fun c => (dormantNotice cell c).reviewSplits.reviewService p)

/-- A TGEN is later than the own one, modulo 65,536 with a window of 32,768 (R119). -/
def Chip.tgenLater (s : Chip) (g : Nat) : Bool :=
  let d := (g + 65536 - s.get BRD_TGEN_TGEN) % 65536
  decide (0 < d ∧ d < 32768)

/-- One entry of a trellis copy: STATE, ROLE and MARKS, with the UID of an override, unless the entry is this node's or LOCAL (R617). -/
def Chip.copyEntry (s : Chip) (b : List Byte) (q : Nat) : Chip :=
  if s.on (BRD_TRELLIS_SELF q) ∨ s.on (BRD_TRELLIS_LOCAL q) then s
  else
    let marks := rd b 96 1
    let s := ((s.setPos q (nState b)).put (BRD_TRELLIS_ROLE q) (nRole b)).clearMarks q
    let s := ((s.put (BRD_TRELLIS_REFUSED q) (bits marks 0 1)).put (BRD_TRELLIS_OPENED q) (bits marks 1 1)).put (BRD_TRELLIS_OVERRIDE q)
      (bits marks 2 1)
    if bit marks 2 then { s with braid := { s.braid with overrides := mset 0 s.braid.overrides q (rd b 28 16 + 1) } } else s

/-- A trellis copy from the sponsor (R617): its entries, then its TGEN. With the copy that reaches position 1023 the run is complete,
and this node is Member (R17; the spec does not say at which copy: DEDUCED, log entry 37). -/
def Chip.trellisCopy (s : Chip) (b : List Byte) : Chip :=
  let last := rd b 16 2 % 1024
  let s := ((runOf (nSubject b) last).foldl (fun (s : Chip) q => s.copyEntry b q) s).setTgen (nTgen b)
  let n := s.get BRD_STAT_POS
  if last ≠ 1023 ∨ s.on BRD_STAT_POS_VALID = false then s
  else (if s.posState n = posMember then s else (s.setPos n posMember).storeAddress).nowMember

/-- TRELLIS: a later TGEN is adopted with its change; a trellis copy is applied whatever its TGEN (R119, R617). -/
def trellisNotice (c : Cell) (s : Chip) : Chip :=
  if isNotice c 7 = true ∧ nDetail c.data = 4 then s.trellisCopy c.data
  else s.noticeIn c 7 (fun s b =>
    if s.tgenLater (nTgen b) = false then s
    else
      let s := s.setTgen (nTgen b)
      let first := nSubject b
      let last := rd b 16 2 % 1024
      match nDetail b with
      | 0 => (runOf first last).foldl (fun (s : Chip) q =>
          if s.on (BRD_TRELLIS_LOCAL q) ∨ s.on (BRD_TRELLIS_SELF q) then s else s.setPos q (nState b)) s
      | 1 => s.trellisAct 1 first last 0
      | 2 => s.trellisAct 2 first last 0
      | 3 => s.trellisAct 3 first last (rd b 28 16)
      | _ => s)

def execTrellisNotice (p : TPort) (cell : Cell) (s : State) : Result :=
  s.onChip (fun c => ((trellisNotice cell c).reviewService p).reviewSplits)

/-! ### Admission: the candidate (R17, R18, R128) -/

/-- The entry at an address taken is this node's; with an address given up, its partners are port partners no longer (R118). -/
def Chip.placeSelf (s : Chip) (v : Nat) : Chip :=
  let s := s.put (BRD_TRELLIS_SELF (s.get BRD_STAT_POS)) v
  if v = 1 then s
  else TPort.list.foldl (fun (s : Chip) p =>
    match s.partnerPos p with
    | some q => s.put (BRD_TRELLIS_LOCAL q) 0
    | none => s) s

/-- The node takes an address. -/
def Chip.setAddress (s : Chip) (a : Nat) : Chip :=
  let s := if s.on BRD_STAT_POS_VALID then s.placeSelf 0 else s
  (((s.put BRD_STAT_POS a).put BRD_STAT_ROW (a / 1024)).put BRD_STAT_POS_VALID 1).placeSelf 1

/-- The UID of this unit. -/
def Chip.uidBytes (s : Chip) : List Byte := (List.range 4).flatMap (fun k => leBytes (s.get (GLB_UID_UID k)) 4)

/-- QUERY: the first gives a node other than the A head its address; one that names the own address is answered with IDENT. -/
def query (p : TPort) (c : Cell) (s : Chip) : Chip :=
  if isNotice c 0x10 = false then s
  else
    let s := if s.get BRD_STAT_ROLE ≠ 1 ∧ s.braid.fromQuery = false then
        { s with braid := { s.braid with fromQuery := true } }.setAddress c.dest
      else s
    if s.get BRD_STAT_POS_VALID = 0 ∨ c.dest ≠ s.node then s
    else
      let n := s.get BRD_STAT_POS
      s.sendAdmission p (s.noticeCell (nReporter c.data)
        { ntype := 0x11, subject := n, port := p.num, state := posAdmitting, uid := s.uidBytes, likeness := s.get GLB_LIKENESS_CLASS,
          digest := recordDigest (s.record n) })

def execQuery (p : TPort) (cell : Cell) (s : State) : Result := s.onChip (query p cell)

/-! ### Admission: the sponsor (R129–R131) -/

/-- The runs of positions whose entries agree; an entry with an override is a run of its own (R617). -/
def Chip.trellisRuns (s : Chip) : List (Nat × Nat) :=
  let key (q : Nat) : List Nat := [s.posState q, s.get (BRD_TRELLIS_ROLE q), s.get (BRD_TRELLIS_REFUSED q), s.get (BRD_TRELLIS_OPENED q),
    s.get (BRD_TRELLIS_OVERRIDE q)]
  ((List.range 1024).foldl (fun (l : List (Nat × Nat)) q =>
    match l with
    | [] => [(q, q)]
    | (a, b) :: r => if key a = key q ∧ s.get (BRD_TRELLIS_OVERRIDE q) = 0 then (a, q) :: r else (q, q) :: (a, b) :: r) []).reverse

/-- The sponsor sends its trellis to the candidate. -/
def Chip.sendTrellis (s : Chip) (p : TPort) (q : Nat) : Chip :=
  s.trellisRuns.foldl (fun (s : Chip) r =>
    let over_ := s.get (BRD_TRELLIS_OVERRIDE r.1)
    s.sendAdmission p (s.noticeCell q
      { ntype := 7, subject := r.1, detail := 4, restore := r.2, state := s.posState r.1, role := some (s.get (BRD_TRELLIS_ROLE r.1)),
        uid := if over_ = 1 then leBytes (mget 0 s.braid.overrides r.1 - 1) 16 else [],
        marks := s.get (BRD_TRELLIS_REFUSED r.1) + 2 * s.get (BRD_TRELLIS_OPENED r.1) + 4 * over_ })) s

/-- Refused: the REFUSE notice, the count and the record; then this partner too parks its port (R131). -/
def Chip.refuse (s : Chip) (p : TPort) (q detail : Nat) : Chip :=
  let s := s.sendNotice { ntype := 5, subject := q, port := p.num, detail := detail, state := posGrafted }
  let s := ((s.inc BRD_REFUSE_CNT).put BRD_LAST_ADMIT_POS q).put BRD_LAST_ADMIT_OUTCOME (4 + detail)
  (s.applyRefuse q).evt BRD_EVT_REFUSED

/-- Return, Replacement or Enrolment: the ADMIT notice with the restore instant, the trellis, and the record where the candidate's
differs; a mark that allowed the admission admits only this UID from now on (R130, R135, R617). -/
def Chip.admitCandidate (s : Chip) (p : TPort) (q outcome uid : Nat) (digest : List Byte) : Chip :=
  let restore := s.ns + 10000 * s.get BRD_TIMERS_RESTORE_DELAY
  let s := s.sendNotice { ntype := 4, subject := q, port := p.num, detail := outcome, restore := restore, state := posMember }
  let s := s.applyAdmit q restore
  let s := if outcome = 3 then { s with braid := { s.braid with enrolled := mset 0 s.braid.enrolled q (uid + 1) } } else s
  let s := s.sendTrellis p q
  let s := match s.record q with
    | some r => if recordDigest (some r) = digest then s else (s.sendMsg (q + 1024 * s.get BRD_STAT_ROW) (message 8 0 r)).2
    | none => s
  ((s.put BRD_LAST_ADMIT_POS q).put BRD_LAST_ADMIT_OUTCOME outcome).evt BRD_EVT_ADMITTED

/-- The outcome of Table 4.4: 0–3 admitted, 4 and 5 refused. -/
def Chip.outcomeOf (s : Chip) (q uid lik : Nat) : Nat :=
  let bound := mget 0 s.braid.enrolled q
  match s.record q with
  | some r =>
    if rd r 28 4 = lik then (if rd r 12 16 = uid then 0 else 1)
    else if s.on (BRD_TRELLIS_OVERRIDE q) ∧ mget 0 s.braid.overrides q = uid + 1 then 2 else 4
  | none => if s.on (BRD_TRELLIS_OPENED q) ∧ (bound = 0 ∨ bound = uid + 1) then 3 else 5

/-- IDENT: the sponsor that sent the QUERY decides. -/
def ident (p : TPort) (c : Cell) (s : Chip) : Chip :=
  match s.partnerPos p with
  | none => s
  | some q =>
    if isNotice c 0x11 = false ∨ s.braid.sponsor.get p ≠ .queried ∨ nSubject c.data ≠ q ∨ s.braid.decided.get p then s
    else
      let uid := rd c.data 28 16
      let o := s.outcomeOf q uid (rd c.data 44 4)
      if o < 4 then s.admitCandidate p q o uid (slice c.data 48 48) else s.refuse p q (o - 4)

def execIdent (p : TPort) (cell : Cell) (s : State) : Result := s.onChip (fun c => (ident p cell c).reviewSplits)

/-- The wait of R616 ends with no decision heard: this partner becomes sponsor, while SPONSOR_EN is 1 (R127). -/
def sponsorWait (p : TPort) (s : Chip) : Chip :=
  match s.partnerPos p, s.braid.sponsor.get p with
  | some q, .waiting _ =>
    if s.braid.decided.get p ∨ s.posState q ≠ posAdmitting ∨ s.selfMember = false ∨ s.get BRD_CTL_SPONSOR_EN = 0 then
      { s with braid := { s.braid with sponsor := s.braid.sponsor.set p .idle } }
    else s.becomeSponsor p q
  | _, _ => s

def execSponsorWait (p : TPort) (s : State) : Result := s.onChip (sponsorWait p)

/-- ADMIT_TMO after QUERY with no IDENT: refused (R131). -/
def admitTmo (p : TPort) (s : Chip) : Chip :=
  match s.partnerPos p with
  | some q => if s.braid.sponsor.get p = .queried ∧ s.braid.decided.get p = false then s.refuse p q 2 else s
  | none => s

def execAdmitTmo (p : TPort) (s : State) : Result := s.onChip (admitTmo p)

/-- Chain time reaches the restore instant set for a port (R132). -/
def restoreDue (p : TPort) (s : Chip) : Chip :=
  match s.braid.restoreAt.get p with
  | some t => if t ≤ s.ns then s.restorePort p else s
  | none => s

def execRestore (p : TPort) (s : State) : Result := s.onChip (restoreDue p)

/-! ### Hold-off and recovery (R124, R125) -/

/-- The partner position of a port is marked REFUSED. -/
def Chip.refusedAt (s : Chip) (p : TPort) : Bool := match s.partnerPos p with
  | some q => s.on (BRD_TRELLIS_REFUSED q)
  | none => false

/-- The hold-off expires: with the clock lane present, permission to train is granted; it also ends the park of a refused partner,
whose admission is retried (R131). -/
def holdoffEnd (p : TPort) (s : Chip) : Chip :=
  if bit (s.get BRD_PORT_SVC_HOLDOFF_RUN) p.num then
    let s := s.clrBitOf BRD_PORT_SVC_HOLDOFF_RUN p.num
    let s := if s.refusedAt p ∧ s.laneState p = laneParked then s.setLane p { s.lane p with leave := true } else s
    if s.get (TRK_LOS_LOS_CK p.num) = 0 then { s with braid := { s.braid with permit := s.braid.permit.set p true } } else s
  else s

def execHoldoff (p : TPort) (s : State) : Result := s.onChip (holdoffEnd p)

/-- The partner has been Member for RECOVERY_HOLD: recovery ends, and Porter firmware ends strict mode
(spec/14_clocks_reset_boot.md R389). -/
def recoveryEnd (p : TPort) (s : Chip) : Chip :=
  if bit (s.get BRD_PORT_SVC_RECOVERY) p.num ∧ s.partnerIs p posMember then
    let s := s.clrBitOf BRD_PORT_SVC_RECOVERY p.num
    if s.boot.porter then s.put (LNK_CTL_STRICT p.num) 0 else s
  else s

def execRecoveryHold (p : TPort) (s : State) : Result := s.onChip (recoveryEnd p)

end Sys2Proof.Machine
end

