-- ==== Sys2Proof/Machine/Images.lean ====
section
/-! DEFINITION. Program images (spec/09_fungatre_machine.md R270–R272) and the checks of stored records
(spec/22_updates_and_planting.md R529–R531). -/

namespace Sys2Proof.Machine
open Sys2Proof Sys2Proof.Machine.Reg

/-! ### The program image (R270, Tables 9.5 and 9.6) -/

def imgHands (b : List Byte) : Nat := rd b 7 1
def imgText (b : List Byte) : Nat := rd b 8 4
def imgData (b : List Byte) : Nat := rd b 12 4
def imgEntry (b : List Byte) (h : Nat) : Nat := rd b (16 + 2 * h) 2
def imgPorterEntry (b : List Byte) : Nat := rd b 16 4
def imgFown (b : List Byte) : Nat := rd b 27 1
def imgRings (b : List Byte) : Nat := rd b 28 2
def imgWdog (b : List Byte) : Nat := rd b 30 2

/-- The data section, padded to a multiple of 4, and where the ring table starts. -/
def imgDataOff (b : List Byte) : Nat := 64 + imgText b
def imgRingOff (b : List Byte) : Nat := imgDataOff b + (imgData b + 3) / 4 * 4

def imgTextBytes (b : List Byte) : List Byte := (b.drop 64).take (imgText b)
def imgDataBytes (b : List Byte) : List Byte := (b.drop (imgDataOff b)).take (imgData b)

/-- Ring record `i`. -/
def imgRing (b : List Byte) (i : Nat) : List Byte := slice b (imgRingOff b + 8 * i) 8

/-- The owner of each cell register that the image gives: 0 free, h + 1 hand h. -/
def imgOwner (b : List Byte) (i : Nat) : Nat := if bit (rd b 26 1) i then bits (rd b 24 2) (2 * i) 2 + 1 else 0

/-- Largest text and data of a KIND. -/
def textMax (kind : Nat) : Nat := if kind = 2 then 229376 else 65536
def dataMax (kind : Nat) : Nat := if kind = 1 then 131072 else if kind = 2 then 262144 else 65536

/-- A ring record's fields are in range and its reserved bits are 0. -/
def ringRecordOk (r : List Byte) : Bool :=
  decide (rd r 0 1 ≤ 63) && decide (rd r 1 1 ≤ 3) && decide (4 ≤ rd r 2 1 ∧ rd r 2 1 ≤ 10)
    && decide (1 ≤ rd r 3 1 ∧ rd r 3 1 ≤ 64) && decide (1 ≤ rd r 4 1 ∧ rd r 4 1 ≤ 64) && decide (rd r 5 3 = 0)

/-- The header alone: MAGIC, VERSION, KIND, sizes, reserved bits and start addresses (R271). -/
def imgHeaderOk (kind : Nat) (b : List Byte) : Bool :=
  decide (rd b 0 4 = 0x47465042) && decide (rd b 4 2 = 1) && decide (rd b 6 1 = kind)
    && (if kind = 1 then decide (imgHands b < 16) else decide (imgHands b = 1))
    && decide (imgText b % 4 = 0 ∧ imgText b ≤ textMax kind) && decide (imgData b ≤ dataMax kind) && decide (imgRings b ≤ 64)
    && decide (imgFown b < 16) && decide (rd b 44 16 = 0)
    && (if kind = 2 then decide (imgPorterEntry b < 2 ^ 18 ∧ imgPorterEntry b % 4 = 0 ∧ rd b 20 4 = 0)
        else (List.range 4).all (fun h => decide (imgEntry b h % 4 = 0)))

/-- Porter accepts the image for a target: a bench for KIND 1 (R271). -/
def Chip.imageOk (s : Chip) (kind target : Nat) (b : List Byte) : Bool :=
  imgHeaderOk kind b && decide (b.length = imgRingOff b + 8 * imgRings b)
    && decide (rd b 60 4 = crc32c (b.take 60 ++ b.drop 64))
    && decide (rd b 32 4 = 0 ∨ rd b 32 4 = s.get GLB_LIKENESS_CLASS)
    && (List.range (imgRings b)).all (fun i =>
      let r := imgRing b i
      ringRecordOk r && (decide (kind ≠ 1) || !s.ringValid (rd r 0 1) || decide (s.get (BCH_RING_BENCH (rd r 0 1)) = target)))
    && (decide (kind ≠ 1) || decide (s.get BCH_SPARE_BENCH ≠ target))

/-! ### Loading (R272) -/

/-- The ring records of a bench image: the bench's own cluster port is P10 or P11. A ring that is frozen stays frozen. -/
def Chip.applyRings (s : Chip) (b : Nat) (img : List Byte) : Chip :=
  (List.range (imgRings img)).foldl (fun (s : Chip) i =>
    let r := imgRing img i
    let port := if rd r 2 1 = 10 then (if b < 8 then 10 else 11) else rd r 2 1
    s.ringWrite (rd r 0 1) (b + 16 * rd r 1 1 + 64 * port + 1024 * rd r 3 1 + 2 ^ 17 * rd r 4 1
      + 2 ^ 24 * b2n (s.ringFrozen (rd r 0 1)) + 2 ^ 25)) s

/-- Cell-register ownership of a bench image: BCH_CREG_b is written with CREG_MAP and CREG_VALID. -/
def Chip.applyOwners (s : Chip) (b : Nat) (img : List Byte) : Chip :=
  (List.range 8).foldl (fun (s : Chip) i => s.setOwner b i (imgOwner img i)) (s.put (BCH_CREG_OWNER b) (rd img 24 2))

def Chip.applyEntries (s : Chip) (b : Nat) (img : List Byte) : Chip :=
  (List.range 4).foldl (fun (s : Chip) h => s.put (BCH_ENTRY_ENTRY b h) (imgEntry img h)) s

/-- No error mark remains on the words of a stretch of memory that is written whole. -/
def Chip.unmark (s : Chip) (lo hi : Nat) : Chip :=
  let keep (k : Nat) : Bool := !(decide (lo / 4 ≤ k) && decide (k < hi / 4))
  { s with cores := { s.cores with
    dmark := s.cores.dmark.filter (fun e => keep e.1), imark := s.cores.imark.filter (fun e => keep e.1) } }

/-- A core's instruction bank takes the text of an image. -/
def State.loadText (s : State) (core bank at_ : Nat) (img : List Byte) : State :=
  let base := imemBase core bank + at_
  { s with mem := Memory.setBytes s.mem base (imgTextBytes img), chip := s.chip.unmark base (base + imgText img) }

/-- A core's data memory takes the data of an image, and the rest of it is zeroed. -/
def State.loadData (s : State) (core : Nat) (img : List Byte) : State :=
  let base := dmemBase core
  { s with mem := Memory.setBytes (Memory.clear s.mem base (base + 2 ^ 20)) base (imgDataBytes img),
           chip := s.chip.unmark base (base + 2 ^ 20) }

/-- A bench image is loaded at start-up (R272), short of the write of START. Porter's writes lock BCH_FOWN_b, or find it locked (R8), and
step the load addresses: the text from 0 on, and the whole data memory, after which BCH_DLOAD_ADDR_b has wrapped to 0. -/
def State.loadBench (s : State) (b : Nat) (img : List Byte) : State :=
  let s := { s with chip := (handsOf b).foldl (fun (s : Chip) h => s.haltHand h) s.chip }
  let s := (s.loadText b (1 - s.chip.bank b) 0 img)
  let s := { s with chip := s.chip.put (BCH_STAT_ACT_BANK b) (1 - s.chip.bank b) }.loadData b img
  let c := ((s.chip.applyEntries b img).put (BCH_WDOG_PERIOD b) (imgWdog img)).applyOwners b img
  let c := (c.writeOnce (BCH_FOWN_OWNER b) (imgFown img)).applyRings b img
  { s with chip := (c.put (BCH_ILOAD_ADDR_ADDR b) (imgText img / 4)).put (BCH_DLOAD_ADDR_ADDR b) 0 }

/-- Porter firmware is copied into instruction memory from 0x8000 on and entered (spec/22_updates_and_planting.md R537). -/
def State.loadPorter (s : State) (img : List Byte) : State :=
  let s := (s.loadText 16 0 0x8000 img).loadData 16 img
  let c := { s.chip with cores := { s.chip.cores with porterWdog := imgWdog img }, boot := { s.chip.boot with porter := true } }
  { s with chip := c.startHand 64 (imgPorterEntry img) }

/-- Steward's image goes into its shadow bank, which becomes active, and Steward starts. -/
def State.loadSteward (s : State) (img : List Byte) : State :=
  let k := 1 - s.chip.cores.stewardBank
  let s := (s.loadText 17 k 0 img).loadData 17 img
  let c := { s.chip with cores := { s.chip.cores with
    stewardBank := k, stewardEntry := imgEntry img 0, stewardWdog := imgWdog img } }
  { s with chip := (c.put BCH_STEWARD_STAT_HALTED 0).startHand 65 (imgEntry img 0) }

/-! ### Records that start-up and returning benches take -/

/-- A program record passes, and its image too (R271). -/
def Chip.programOk (s : Chip) (e : FlashEntry) : Bool :=
  s.recordOk e && (if e.kind = 3 then s.imageOk 2 0 e.item else if e.kind = 5 then s.imageOk 3 0 e.item
    else if e.kind = 6 then s.imageOk 1 e.inst e.item else true)

/-- The record of a unit that start-up takes: the one in the active bank, or else the other (spec/14_clocks_reset_boot.md
Table 14.5 step 4). -/
def Chip.pickRecord (s : Chip) (kind inst : Nat) : Option FlashEntry :=
  match s.dir with
  | none => none
  | some d =>
    let l := d.entries.filter (fun e => decide (e.kind = kind ∧ e.inst = inst) && s.programOk e)
    match l.find? (·.active) with
    | some e => some e
    | none => l.head?

end Sys2Proof.Machine
end

