-- ==== Sys2Proof/Machine/Domains.lean ====
section
/-! DEFINITION. Power domains as parts of the state: which registers and which other state a reset of a domain reaches
(spec/14_clocks_reset_boot.md R380, spec/13_management_and_dockets.md R372, spec/20_power_states.md Tables 20.2 and 20.3). -/

namespace Sys2Proof.Machine
open Sys2Proof Sys2Proof.Machine.Reg

/-- The power domain of a register address (Table 13.9; R69, R273, R456). -/
def domainOf (a : Nat) : Nat :=
  let off := a % 65536
  match a / 65536 with
  | 0x00 => 0
  | 0x01 => 0
  | 0x02 => 0
  | 0x03 => if off < 0x4000 then 4 + off / 4096 else 3
  | 0x04 => if off < 0x4000 then 4 + off / 4096 else 3
  | 0x0A => if off % 4096 < 0x800 then (if off / 4096 < 8 then 8 else 9) else 3
  | 0x0C => 11
  | 0x0D => 12
  | 0x0E => 13
  | 0x0F => 10
  | 0x10 => if off < 0x100 then 0 else 14
  | 0x11 => 0
  | 0x12 => 0
  | 0x13 => 15
  | 0x14 => 1
  | 0x16 => 1
  | n => if 0x18 < n then 0 else 3

/-- Bit numbers of the domains that a mask names. -/
def domainsOf (mask : Nat) : List Nat := (List.range 16).filter (fun d => bit mask d)

/-- The fields whose reset value is fused (R9): the unit's identity, the station addresses, SAFE_PATTERN, the intake of HA and HB, the
tamper enables and the key digest. The fused lane records, classes and part number are the same in every B0 unit (R613, R561, R2), and
stand as reset values. What a unit's fuses hold the spec does not give: START_UP brings the values, and a field for which it brings
none keeps the constant of Machine/Regs.lean (DESIGN CHOICE, log entry 26). -/
def fusedFields : List Fld :=
  (List.range 4).map GLB_UID_UID ++ (List.range 2).flatMap (fun p => [ETH_MAC_LO_ADDR p, ETH_MAC_HI_ADDR p])
    ++ [FLD_SAFE_SAFE_PATTERN, VLT_TAMPER_EN] ++ (List.range 12).map VLT_VKEY_HASH_HASH
    ++ (List.range 2).flatMap (fun c =>
      [HVI_CH_CTL_RAMP c, HVI_CH_SCALE_I_FS c, HVI_CH_SCALE_V_FS c, HVI_CH_LIMITS_UV c, HVI_CH_LIMITS_OV c, HVI_CH_HARD_HARD c]
        ++ (List.range 8).flatMap (fun k => [HVI_BRK_I c k, HVI_BRK_T c k, HVI_BRK_UNIT c k]))

/-- The fused fields of the domains take their values from the fuse shadow, once it is loaded (R9). -/
def Chip.loadFuses (s : Chip) (mask : Nat) : Chip :=
  match s.boot.fuses with
  | none => s
  | some l => fusedFields.zipIdx.foldl (fun (s : Chip) e =>
      match l[e.2]? with
      | some v => if bit mask (domainOf e.1.addr) then s.put e.1 v else s
      | none => s) s

/-- The fused value of a field, whatever software has written since (R9); the constant of Machine/Regs.lean where the fuses bring none. -/
def Chip.fused (s : Chip) (f : Fld) : Nat :=
  match s.boot.fuses.bind (fun l => (fusedFields.idxOf? f).bind (fun i => l[i]?)) with
  | some v => v % 2 ^ f.width
  | none => f.rst

/-- The levels at PERST_N and PCIE_REFCLK follow their registers and PD-PCIE (R376; spec/20_power_states.md Table 20.3): an entry of the
outbox for each change between two states. -/
def Chip.pins (old new : Chip) : Chip :=
  let perst (s : Chip) : Nat := b2n (s.on PCI_CTL_PERST_REL && s.domainOn 12)
  let refclk (s : Chip) : Nat := b2n (s.on CLK_CTL_PCIE_REFCLK_EN && s.domainOn 12)
  let new := if perst old = perst new then new else new.emit (.pin "PERST_N" 0 (perst new))
  if refclk old = refclk new then new else new.emit (.pin "PCIE_REFCLK" 0 (refclk new))

/-- The registers of the domains return to their reset values, with their locks and latches, and fused fields to their fuses (R9,
R380). -/
def Chip.resetRegs (s : Chip) (mask : Nat) : Chip :=
  Chip.loadFuses { s with
    csr := s.csr.filter (fun e => !bit mask (domainOf (e.1 / 32)))
    locks := s.locks.filter (fun e => !bit mask (domainOf (e.1 / 32)))
    latches := s.latches.filter (fun e => !bit mask (domainOf e.1)) } mask

/-- Cores in a set of domains. -/
def coresIn (mask : Nat) : List Nat := (List.range 18).filter (fun c => bit mask (coreDomain c))

/-- The hands, cell registers and error marks of the cores in the domains. -/
def Chip.resetCores (s : Chip) (mask : Nat) : Chip :=
  let goneCore (c : Nat) : Bool := decide (c < 18) && bit mask (coreDomain c)
  let goneHand (h : Nat) : Bool := decide (h < 66) && goneCore (if h < 64 then h / 4 else h - 48)
  let goneWord (w : Nat) : Bool := if w < 2 ^ 23 then goneCore (w / 2 ^ 18) else goneCore ((w - 2 ^ 23) / 2 ^ 19)
  let c := s.cores
  { s with cores := { c with
    hands := c.hands.filter (fun e => !goneHand e.1)
    cregs := c.cregs.filter (fun e => !goneCore (e.1 / 8))
    cregOwner := c.cregOwner.filter (fun e => !goneCore (e.1 / 8))
    dmark := c.dmark.filter (fun e => !goneWord e.1)
    imark := c.imark.filter (fun e => !goneWord e.1) } }

/-- Spare rows of a memory are free again when its domain is reset (spec/23_in_service_repair.md R552). -/
def Chip.freeRows (s : Chip) (mask : Nat) : Chip :=
  let gone (key : Nat) : Bool :=
    let m := key / 128 / 32
    let inst := key / 128 % 32
    bit mask (if m = 0 then 3 else if m = 1 then coreDomain inst else if m = 2 then coreDomain (inst / 2) else if m = 3 then 10
      else if m = 4 then 1 else 2)
  let s := { s with rep := { s.rep with used := s.rep.used.filter (fun e => !gone e.1) } }
  (List.range 6).foldl (fun (s : Chip) m =>
    let n := ((s.rep.used.filter (fun e => decide (e.1 / 128 / 32 = m))).map (·.2)).foldl (· + ·) 0
    (s.put (REP_SPARE_ROWS_USED m) n).put (REP_SPARE_ROWS_FREE m) (spareRowsTotal m - n)) s

/-- PD-FABRIC: the switch, the tunnels, the rings, the bridge, the braid, chain time and the records. -/
def Chip.resetFabric (s : Chip) : Chip :=
  let c := s.cores
  { s with
    sw := {}, tuns := [], braid := {}, chain := {}, log := {}, rep := {}, tink := {}
    cores := { c with
      rings := [], tags := [], tagLast := [], buses := [], lines := [], remoteWrites := [], nextRid := 0 } }

/-- One trunk port's domain. No reset reaches the scramblers (spec/02_trunk_lanes.md R37). -/
def Chip.resetTrunk (s : Chip) (p : TPort) : Chip :=
  let l := s.lane p
  let s := (s.setLane p { scramblers := l.scramblers, descramblers := l.descramblers }).setLink p {}
  { s with chain := { s.chain with ports := s.chain.ports.set p {} } }

/-- PD-PORTER: the mailbox and the updates under way; flash stays. -/
def Chip.resetPorter (s : Chip) : Chip :=
  { s with mbx := {}, upd := { dirA := s.upd.dirA, dirB := s.upd.dirB }, cores := { s.cores with porterWdog := 0 },
           boot := { s.boot with porter := false } }

def Chip.resetSteward (s : Chip) : Chip :=
  { s with cores := { s.cores with stewardBank := 0, stewardEntry := 0, stewardWdog := 0 } }

/-- The endpoint ports whose domains are reset lose what they hold. -/
def Chip.resetEnds (s : Chip) (mask : Nat) : Chip :=
  let e := s.ends
  let goneIng (i : Nat) : Bool :=
    bit mask (if i = 4 ∨ i = 5 then 11 else if i = 6 then 12 else if i = 7 then 10 else if i = 8 then 13 else if i = 9 then 14 else 3)
  { s with ends := { e with
    wait := e.wait.filter (fun x => !goneIng x.1)
    eth := if bit mask 11 then [] else e.eth
    blockTags := if bit mask 12 then [] else e.blockTags
    pipes := if bit mask 13 then [] else e.pipes
    usbLast := if bit mask 13 then 31 else e.usbLast
    usbReset := if bit mask 13 then 0 else e.usbReset
    usbResume := if bit mask 13 then 0 else e.usbResume
    usbWake := if bit mask 13 then 0 else e.usbWake
    heads := if bit mask 10 then [] else e.heads
    frameBad := if bit mask 10 then [] else e.frameBad } }

/-- PD-FIELD: the queue and the inputs that debounce; the levels at the balls are not the part's. The drivers lie in PD-LODGE, and the
outputs of a node that is shuttered stay at SAFE_PATTERN: FLD_OUT goes on showing the levels driven (R382, R456). -/
def Chip.resetField (s : Chip) : Chip :=
  { s with field := { queue := [], raw := s.field.raw, cand := [] } }.put FLD_OUT_LEVEL (s.get FLD_SAFE_SAFE_PATTERN)

/-- What a reset of a set of domains, none of them PD-LODGE, does to the chip. -/
def Chip.resetDomains (s : Chip) (mask : Nat) : Chip :=
  let s := (s.resetRegs mask).resetCores mask
  let s := if bit mask 3 then s.resetFabric else s
  let s := TPort.list.foldl (fun (s : Chip) p => if bit mask (4 + p.num) then s.resetTrunk p else s) s
  let s := if bit mask 1 then s.resetPorter else s
  let s := if bit mask 2 then s.resetSteward else s
  let s := if bit mask 14 then s.resetField else s
  let s := if bit mask 15 then { s with vault := {} } else s
  (s.resetEnds mask).freeRows mask

/-- The stretches of addressed memory in a domain. -/
def domainMemory (d : Nat) : List (Nat × Nat) :=
  if d = 13 then [(epmemBase, epmemBase + 2 ^ 20)]
  else if d = 12 then [(sbufBase, sbufBase + 2 ^ 28)]
  else if d = 10 then [(frameBase, sbufBase)]
  else ((List.range 18).filter (fun c => decide (coreDomain c = d))).flatMap (fun c =>
    [(dmemBase c, dmemBase (c + 1)), (imemBase c 0, imemBase (c + 1) 0)])

/-- The memories of a set of domains are lost. -/
def State.clearDomains (s : State) (mask : Nat) : State :=
  { s with mem := (domainsOf mask).foldl (fun (m : Memory) d =>
      (domainMemory d).foldl (fun (m : Memory) r => Memory.clear m r.1 r.2) m) s.mem }

/-- A reset of a set of domains. -/
def State.resetDomains (s : State) (mask : Nat) : State :=
  State.clearDomains { s with chip := s.chip.resetDomains mask } mask

end Sys2Proof.Machine
end

