-- ==== Sys2Proof/Machine/Kdf.lean ====
section
/-! DEFINITION. The Vault's slots and derivations (spec/21_vault.md R510–R518, R521, R523; spec/22_updates_and_planting.md R531;
spec/23_in_service_repair.md R556). -/

namespace Sys2Proof.Machine
open Sys2Proof Sys2Proof.Machine.Reg

/-- Big-endian bytes of a number. -/
def beBytes (n k : Nat) : List Byte := (leBytes n k).reverse

/-- The number that big-endian bytes carry. -/
def beNat (bs : List Byte) : Nat := leNat bs.reverse

/-- A LABEL or CONTEXT given as text: its ASCII bytes, zero up to `k` bytes (R516). -/
def label (text : List Nat) : List Byte := padTo (text.map (BitVec.ofNat 8)) 16

/-- IMAGE-KS, SEAL-KS, ATTEST-KS, LEDGER-KS, DEBUG-UNLOCK and MGMT-SESSION-KS. -/
def labelImage : List Byte := label [0x49, 0x4D, 0x41, 0x47, 0x45, 0x2D, 0x4B, 0x53]
def labelSeal : List Byte := label [0x53, 0x45, 0x41, 0x4C, 0x2D, 0x4B, 0x53]
def labelAttest : List Byte := label [0x41, 0x54, 0x54, 0x45, 0x53, 0x54, 0x2D, 0x4B, 0x53]
def labelLedger : List Byte := label [0x4C, 0x45, 0x44, 0x47, 0x45, 0x52, 0x2D, 0x4B, 0x53]
def labelDebug : List Byte := label [0x44, 0x45, 0x42, 0x55, 0x47, 0x2D, 0x55, 0x4E, 0x4C, 0x4F, 0x43, 0x4B]
def labelSession : List Byte :=
  label [0x4D, 0x47, 0x4D, 0x54, 0x2D, 0x53, 0x45, 0x53, 0x53, 0x49, 0x4F, 0x4E, 0x2D, 0x4B, 0x53]

/-- The KDF of R516: the fixed input of iteration i is [i] ‖ LABEL ‖ 0x00 ‖ CONTEXT ‖ [L], and the output the first L / 8 bytes of
the outputs in order. -/
def kdf (key lab ctx : List Byte) (lbits : Nat) : List Byte :=
  padTo ((List.range ((lbits + 127) / 128)).flatMap (fun i =>
    padTo (Config.cmac key (beBytes (i + 1) 4 ++ padTo lab 16 ++ [0] ++ padTo ctx 32 ++ beBytes lbits 4)) 16)) (lbits / 8)

/-- A scion: L = 256 (R516). -/
def scion (key lab ctx : List Byte) : List Byte := kdf key lab ctx 256

/-- The order of the base point of P-384 (FIPS 186-5). -/
def p384Order : Nat :=
  0xFFFFFFFFFFFFFFFFFFFFFFFFFFFFFFFFFFFFFFFFFFFFFFFFC7634D81F4372DDF581A0DB248B0A77AECEC196ACCC52973

/-- The attestation key of a rootstock: the method of FIPS 186-5 Appendix A.2.1 on 56 bytes of KDF output (R523). -/
def attestKey (root : List Byte) : List Byte :=
  beBytes (beNat (kdf root labelAttest (List.replicate 32 0) 448) % (p384Order - 1) + 1) 48

/-- The CHECK value of a rootstock (R510). -/
def rootCheck (root : List Byte) : List Byte := padTo (Config.cmac root (List.replicate 16 0)) 16

/-- UID ‖ LIKENESS ‖ 12 zero bytes. -/
def Chip.unitContext (s : Chip) : List Byte := padTo (s.uidBytes ++ leBytes (s.get GLB_LIKENESS_CLASS) 4) 32

/-- The storage and seal scions, which the Vault derives from slot 0 at each start; LIKENESS is then the class of the end of step 1
(R521, R531, R561). -/
def Chip.startContext (s : Chip) : List Byte := padTo (s.uidBytes ++ leBytes (s.get (REP_LIKE_CAP_CLASS 0)) 4) 32
def Chip.storageKey (s : Chip) : List Byte := scion (s.keyBytes 0) labelImage s.startContext
def Chip.sealKey (s : Chip) : List Byte := scion (s.keyBytes 0) labelSeal s.startContext

/-! ### Slots -/

/-- The lowest free slot a destination of 0xFF takes: neither valid nor waiting for its scrub (R517, R519). -/
def Chip.freeSlot (s : Chip) : Option Nat :=
  ((List.range 126).map (· + 2)).find? (fun k => !s.keyValid k && !s.vault.scrub.contains k)

/-- FREE_SLOTS follows the slots. -/
def Chip.showSlots (s : Chip) : Chip :=
  s.put VLT_STAT_FREE_SLOTS
    (((List.range 126).map (· + 2)).filter (fun k => !s.keyValid k && !s.vault.scrub.contains k)).length

/-- A key goes into a slot. -/
def Chip.takeSlot (s : Chip) (k : Nat) (x : VSlot) : Chip := (s.setVslot k x).showSlots

/-- A new rootstock: slot 0, and with it the attestation key in slot 1 (R513, R523; DESIGN CHOICE, log entry 14). -/
def Chip.root (s : Chip) (key : List Byte) : Chip :=
  let s := s.takeSlot 0 { kind := 1, uses := 9, parent := 0, installed := false, count := unlimited, expire := false, key := key }
  let s := s.takeSlot 1 { kind := 2, uses := 32, parent := 0, installed := false, count := unlimited, expire := false, key := attestKey key }
  s.put VLT_STAT_ROOTSTOCK 1

/-- The image-verification key of Porter ROM goes into a slot where its digest is the fused one (R522). -/
def Chip.loadVkey (s : Chip) : Chip :=
  let hash := (List.range 12).flatMap (fun k => leBytes (s.get (VLT_VKEY_HASH_HASH k)) 4)
  match s.freeSlot with
  | none => s
  | some k =>
    if s.verifyKey.isNone ∧ padTo (Config.sha384 Config.vkey) 48 = hash then
      s.takeSlot k { kind := 3, uses := 64, parent := 0, installed := true, count := unlimited, expire := false, key := Config.vkey }
    else s

/-! ### Records as stored (spec/22_updates_and_planting.md R531) -/

/-- The bytes of a record in flash: header, signature, and the item plain where it is bound, else under the storage scion. -/
def Chip.recordBytes (s : Chip) (e : FlashEntry) : List Byte :=
  let k := s.storageKey
  let cipher := padTo (Config.gcmCipher k e.nonce [] e.item) e.item.length
  e.header ++ e.sig ++ (if e.bound then e.item else e.nonce ++ cipher ++ padTo (Config.gcmTag k e.nonce [] cipher) 16)

end Sys2Proof.Machine
end

