-- ==== Sys2Proof/Machine/Boot.lean ====
section
/-! DEFINITION. Resets, start-up, net seeding, the head decision and the clock monitors (spec/14_clocks_reset_boot.md;
spec/01_rows_and_nodes.md R13–R18; spec/23_in_service_repair.md R553, R561). One START_UP command runs steps 1 to 5 from the step
that CLK_BOOT shows (DESIGN CHOICE, log entry 15). -/

namespace Sys2Proof.Machine
open Sys2Proof Sys2Proof.Machine.Reg

/-- A change of the chip within a change of the state. -/
def State.withChip (s : State) (f : Chip → Chip) : State := { s with chip := f s.chip }

/-! ### Residency (spec/20_power_states.md R507) -/

/-- The residency of the present power state up to now. -/
def Chip.settleRes (s : Chip) : Chip :=
  let st := s.get PWR_STAT_STATE
  let p := s.power
  { s with power := { p with res := mset 0 p.res st (mget 0 p.res st + (s.tick - p.resAt)), resAt := s.tick } }

/-! ### Resets (R380–R386) -/

def kindResetN : Nat := 1
def kindClock : Nat := 2
def kindBrown : Nat := 3
def kindWrite : Nat := 4
def kindWake : Nat := 5

/-- The straps are sampled when a cold or node reset ends (R386). -/
def Chip.sampleStraps (s : Chip) (straps : Nat) : Chip := (s.put CLK_STRAP_ROWHEAD (straps % 2)).put CLK_STRAP_BOOTMODE (straps / 2)

/-- An enabled tamper source is active. -/
def Chip.tampering (s : Chip) : Bool := s.get VLT_TAMPER_EN &&& s.get VLT_TAMPER_ACTIVE ≠ 0

/-- A node reset on the chip: every domain except PD-LODGE; the node is shuttered, field power falls to the Lodge's minimal intake,
TAMPERED outlives it only while an enabled source is active, and the log of a node that leaves TEST begins with LEAVE (R380, R382, R385;
spec/21_vault.md R525; spec/24_tinker_and_records.md R564). -/
def Chip.nodeReset (s : Chip) (kind : Nat) : Chip :=
  let active := s.get VLT_TAMPER_ACTIVE
  let tampered := s.on VLT_STAT_TAMPERED && s.tampering
  let test := s.get GLB_STANCE_STANCE
  let slot := s.get TNK_STAT_SLOT
  let s := (s.shutter causeReset).ownerToLodge.settleRes
  let s := s.resetDomains 0xFFFE
  let s := (s.put VLT_TAMPER_ACTIVE active).put VLT_STAT_TAMPERED (b2n tampered)
  let s := { s with
    boot := { held := s.boot.held, clockFail := s.boot.clockFail, hid := s.boot.hid, fuses := s.boot.fuses }
    power := { s.power with gate := 0, seq := none } }
  let s := ((s.put PWR_STAT_STATE 0).put PWR_STAT_BUSY 0).put PWR_STAT_DOM_ON (if s.get CLK_BOOT_FAIL = 1 then 1 else 0xFFFF)
  let s := (s.put CLK_BOOT_STEP 1).put GLB_STANCE_STANCE 0
  let s := s.put GLB_LIKENESS_CLASS (s.get (REP_LIKE_CAP_CLASS 0))
  let s := ((s.put CLK_RST_CAUSE_KIND kind).inc CLK_RESET_CNT).live causeTime true
  if test = 1 then s.logEntry 0x17 1 0 slot 3 else s

/-- A node reset: what the domains' memories held is lost. -/
def State.nodeReset (s : State) (kind : Nat) : State :=
  State.clearDomains (s.withChip (fun c => c.pins (c.nodeReset kind))) 0xFFFE

/-- The outputs of the field fall, and SHUTTER_N is asserted (R382; spec/25_package_and_balls.md: the outputs are low until the fuse
shadow loads). -/
def Chip.fieldLow (s : Chip) : Chip :=
  let s := s.driveAll 0
  if s.shuttered then s else s.emit (.pin "SHUTTER_N" 0 0)

/-- VAO power-on, or VAO below 1.62 V (Table 14.4): all of the part, the fuse shadow with it, but the flash, and what lies outside it. -/
def State.coldReset (s : State) (straps : Nat) : State :=
  let c := s.chip.fieldLow
  let new : Chip :=
    { upd := { dirA := c.upd.dirA, dirB := c.upd.dirB }, field := { raw := c.field.raw }, power := { resAt := c.tick },
      boot := { hid := c.boot.hid }, tick := c.tick, free := c.free, outbox := c.outbox }
  { s with mem := Memory.clear s.mem 0 stagingBase, chip := c.pins (new.sampleStraps straps) }

def execColdReset (straps : BitVec 3) (s : State) : Result := .next (s.coldReset straps.toNat)

/-- RESET_N goes low: the node reset is held (R380, R381). -/
def execResetNAsserted (s : State) : Result :=
  .next (if s.chip.boot.held then s
    else (s.nodeReset kindResetN).withChip (fun c => { c with boot := { c.boot with held := true } }))

/-- RESET_N low and then high again: the hold ends, and start-up goes on at step 2 (R381). -/
def execResetN (straps : BitVec 3) (s : State) : Result :=
  let s := if s.chip.boot.held then s else s.nodeReset kindResetN
  .next (s.withChip (fun c =>
    ({ c with boot := { c.boot with held := false } }.sampleStraps straps.toNat).put CLK_BOOT_STEP (if c.boot.fuses.isSome then 2 else 1)))

def execNodeReset (straps : BitVec 3) (s : State) : Result :=
  .next ((s.nodeReset kindWrite).withChip (fun c => c.sampleStraps straps.toNat))

/-- VDD_CORE below 0.68 V (R380, R505). -/
def execBrownOut (straps : BitVec 3) (s : State) : Result :=
  .next ((s.nodeReset kindBrown).withChip (fun c => c.sampleStraps straps.toNat))

/-! ### Clock monitors and roots (R377–R379, R553) -/

/-- The lock of a root. -/
def Chip.rootLock (s : Chip) (root : Nat) : Bool := if root = 0 then s.on CLK_STAT_LOCK_A else s.on CLK_STAT_LOCK_B

/-- CLOCK is live while REF_OK is 0 or the active root is unlocked (spec/18_field_io_and_shutter.md Table 18.1). -/
def Chip.reviewClock (s : Chip) : Chip :=
  s.live causeClock (decide (s.get CLK_STAT_REF_OK = 0) || !s.rootLock (s.get CLK_STAT_ROOT_ACT))

/-- The core clocks move to the standby root (R553). -/
def Chip.swapRoots (s : Chip) : Chip :=
  let s := (s.put CLK_STAT_ROOT_ACT (1 - s.get CLK_STAT_ROOT_ACT)).put CLK_STAT_ALIGNED 0
  (s.inc CLK_SWAP_CNT).evt CLK_EVT_SWAP

/-- The standby root is locked and aligned. -/
def Chip.standbyReady (s : Chip) : Bool := s.rootLock (1 - s.get CLK_STAT_ROOT_ACT) && s.on CLK_STAT_ALIGNED

/-- A clock failure: a node reset held until the clocks recover (R379). -/
def State.clockFailure (s : State) : State :=
  (s.nodeReset kindClock).withChip (fun c => { c with boot := { c.boot with clockFail := true } })

/-- A trip of LOCK or FREQ on a root, whose event and lock are already recorded: the active root is swapped for the standby where
AUTO_SWAP permits, else the clock has failed. -/
def State.rootTrip (s : State) (root : Nat) (ready : Bool) : State :=
  let s := s.withChip (fun c => c.shutter causeClock)
  if s.chip.get CLK_STAT_ROOT_ACT = root then
    if s.chip.on CLK_CTL_AUTO_SWAP ∧ ready then s.withChip (fun c => c.swapRoots.reviewClock)
    else (s.withChip Chip.reviewClock).clockFailure
  else s

def execRefMonitorTrip (s : State) : Result :=
  .next (s.withChip (fun c => (((c.evt CLK_EVT_REF_FAIL).put CLK_STAT_REF_OK 0).shutter causeClock).reviewClock)).clockFailure

/-- A root's lock detector deasserts. -/
def Chip.lockTrip (s : Chip) (root : Nat) : Chip :=
  let s := if root = 0 then (s.evt CLK_EVT_LOCK_A_LOST).put CLK_STAT_LOCK_A 0 else (s.evt CLK_EVT_LOCK_B_LOST).put CLK_STAT_LOCK_B 0
  s.put CLK_STAT_ALIGNED 0

def execLockMonitorTrip (root : Fin 2) (s : State) : Result :=
  .next ((s.withChip (fun c => c.lockTrip root.val)).rootTrip root.val s.chip.standbyReady)

def execFreqMonitorTrip (root : Fin 2) (s : State) : Result :=
  .next ((s.withChip (fun c => c.evt (if root.val = 0 then CLK_EVT_FREQ_A else CLK_EVT_FREQ_B))).rootTrip root.val s.chip.standbyReady)

/-- The standby root locks and is aligned (R378). -/
def standbyAligned (s : Chip) : Chip :=
  let s := if s.get CLK_STAT_ROOT_ACT = 0 then s.put CLK_STAT_LOCK_B 1 else s.put CLK_STAT_LOCK_A 1
  s.put CLK_STAT_ALIGNED 1

def execStandbyRootAligned (s : State) : Result := s.onChip standbyAligned

/-- REFCLK and a root have held for 1 ms: the reset of a clock failure ends (R379). -/
def clockRecovery (straps : Nat) (lockA lockB : Bool) (s : Chip) : Chip :=
  if s.boot.clockFail = false ∨ (lockA = false ∧ lockB = false) then s
  else
    let s := { s with boot := { s.boot with clockFail := false } }
    let s := ((s.put CLK_STAT_REF_OK 1).put CLK_STAT_LOCK_A (b2n lockA)).put CLK_STAT_LOCK_B (b2n lockB)
    let s := s.put CLK_STAT_ROOT_ACT (b2n (!lockA))
    ((s.put CLK_BOOT_STEP 1).sampleStraps straps).reviewClock

def execClockRecovery (straps : BitVec 3) (lockA lockB : Bool) (s : State) : Result :=
  s.onChip (clockRecovery straps.toNat lockA lockB)

/-! ### The training gate and the ledger copy (R388; spec/01_rows_and_nodes.md R18, R31) -/

/-- The ledger copy is read from flash: its records, the address until a QUERY brings one, and the own record's settings. -/
def Chip.loadLedger (s : Chip) : Chip :=
  match s.activeItem 8 255 with
  | none => s
  | some e =>
    match ledgerOf e.item with
    | none => s
    | some (node, recs) =>
      let s := { s with boot := { s.boot with ledger := recs, ledgerNode := some node } }.showLedger
      let s := if s.get BRD_STAT_ROLE = 1 ∨ s.on BRD_STAT_POS_VALID then s else s.setAddress node
      s.applyOwn

/-- The gate opens: permission to train is no longer withheld, and each port whose domain is on drives its clock lane (R388). -/
def Chip.openGate (s : Chip) : Chip :=
  if s.boot.gate then s
  else
    let s := if s.boot.ledgerNode.isNone then s.loadLedger else s
    let s := { s with boot := { s.boot with gate := true } }
    let s := s.put CLK_BOOT_DEFAULT_BEQ (b2n (!beqValid s.boot.beq))
    TPort.list.foldl (fun (s : Chip) p => if s.trunkOn p then s.setLane p { s.lane p with clkOn := true } else s) s

def execTrainingGateOpen (s : State) : Result :=
  s.onChip (fun c => if c.boot.held ∨ c.boot.clockFail then c else c.openGate)

/-! ### Net seeding (R390, R391) -/

/-- A seed cell (Table 14.7). -/
def Chip.seedCell (s : Chip) (p : TPort) (ntype item count off total lik : Nat) (data : List Byte) : Cell :=
  { hdr := mkHdr ((s.partnerPos p).getD 0 + 1024 * s.get BRD_STAT_ROW) 0 0 7 false true 104 4
    data := [ntype, 1, item, count].map (BitVec.ofNat 8) ++ leBytes off 4 ++ leBytes total 4 ++ leBytes lik 4 ++ padTo data 64
      ++ List.replicate 24 0 }

/-- The port that seed requests leave on: NU, or SU while NU is not Up. -/
def Chip.seedPort (s : Chip) : TPort := if s.laneState .nu = laneUp then .nu else .su

/-- The pieces received without a gap from the start. -/
def piecesRun (m : SMap (List Byte)) (from_ : Nat) : Nat :=
  match m with
  | [] => from_
  | (k, _) :: r => if k = from_ then piecesRun r (from_ + 1) else from_

/-- Ask for the next cells of the item that is being seeded. -/
def Chip.askSeed (s : Chip) : Chip :=
  match s.boot.seed with
  | none => s
  | some (item, _, pieces) =>
    let p := s.seedPort
    s.sendAdmission p (s.seedCell p 0x20 item 64 (64 * piecesRun pieces 0) 0 (s.get GLB_LIKENESS_CLASS) [])

/-- An item that a seeding node still lacks: with BOOTMODE 1 one not yet seeded, else one without a record that passes. -/
def Chip.lacks (s : Chip) (item : Nat) : Bool :=
  if s.get CLK_STRAP_BOOTMODE = 1 then !s.boot.seeded.contains item else (s.pickRecord item 255).isNone

/-- Seeding of the first missing item begins; with none missing nothing is asked for. -/
def Chip.startSeed (s : Chip) : Chip :=
  match [2, 3, 7].find? (fun i => s.lacks i) with
  | some i => { s.put CLK_BOOT_STEP 5 with boot := { s.boot with seed := some (i, 0, []) } }.askSeed
  | none => s

/-- SEED_TMO after an attempt that has failed (Table 14.5 step 5): it starts again. -/
def seedRetry (s : Chip) : Chip :=
  match s.boot.seed with
  | some (item, _, _) => ({ s with boot := { s.boot with seed := some (item, 0, []) } }.bootFail 7).askSeed
  | none => s

def execSeedRetry (s : State) : Result := s.onChip seedRetry

/-- A seed request is answered from the active bank while Porter firmware runs and the classes are equal (R390). -/
def seedReq (p : TPort) (c : Cell) (s : Chip) : Chip :=
  let b := c.data
  let count := rd b 3 1
  let off := rd b 4 4
  if isNotice c 0x20 = false ∨ s.boot.porter = false ∨ rd b 12 4 ≠ s.get GLB_LIKENESS_CLASS ∨ off % 64 ≠ 0 ∨ count = 0 ∨ 64 < count
      ∨ [2, 3, 7].contains (rd b 2 1) = false then s
  else match s.activeItem (rd b 2 1) 255 with
    | none => s
    | some e =>
      let rec_ := e.stored
      (List.range count).foldl (fun (s : Chip) i =>
        let o := off + 64 * i
        if o < rec_.length then s.sendAdmission p (s.seedCell p 0x21 (rd b 2 1) 0 o rec_.length 0 ((rec_.drop o).take 64)) else s) s

def execSeedReq (p : TPort) (cell : Cell) (s : State) : Result := s.onChip (seedReq p cell)

/-- A bound record as seeded: header, signature and plain item. -/
def boundRecord (kind : Nat) (b : List Byte) : FlashEntry :=
  let e : FlashEntry :=
    { kind := kind, bank := 0, active := true, bound := true, inst := 255, offset := 0, length := 0, itemCrc := 0, rev := rd b 32 4,
      header := slice b 0 160, sig := slice b 160 96, nonce := [], item := b.drop 256, stored := [] }
  e.written b

/-- The update header of a bound image for this unit (spec/22_updates_and_planting.md Table 22.2, R530, R533 step 3). -/
def Chip.boundOk (s : Chip) (kind : Nat) (h : List Byte) : Bool :=
  decide (rd h 0 4 = 0x47495055 ∧ rd h 4 2 = 1 ∧ rd h 6 1 = kind ∧ rd h 7 1 = 255) && decide (rd h 8 1 = 2 ∧ rd h 9 3 = 0)
    && decide (rd h 12 4 = s.get GLB_LIKENESS_CLASS) && decide (rd h 16 16 = 0 ∨ slice h 16 16 = s.uidBytes)
    && decide (rd h 156 4 = 0)

/-- Porter ROM takes a seeded item that passes: both banks and the directory (R391). -/
def Chip.acceptSeed (s : Chip) (e : FlashEntry) : Chip :=
  let s := s.rewriteDir (fun l => l.filter (fun x => !decide (x.kind = e.kind ∧ x.inst = 255)) ++ [e, { e with bank := 1, active := false }])
  ({ s with boot := { s.boot with seed := none, seeded := e.kind :: s.boot.seeded } }.put CLK_BOOT_SEEDED 1).put CLK_BOOT_STEP 3

/-! ### Start-up (Table 14.5) -/

/-- The fuse shadow is loaded: the fused fields take their values, and the outputs SAFE_PATTERN (R9, R382). -/
def Chip.takeFuses (s : Chip) (l : List Nat) : Chip :=
  let s := { s with boot := { s.boot with fuses := some l } }.loadFuses 0xFFFF
  if s.shuttered then s.driveAll (s.get FLD_SAFE_SAFE_PATTERN) else s

/-- The head of step 1: the fuse shadow, the roots, the domains, and the record in the event log. -/
def Chip.bootLodge (s : Chip) (f : StartFind) : Chip :=
  let s := s.takeFuses f.fuses
  let s := ((s.put CLK_STAT_REF_OK 1).put CLK_STAT_LOCK_A (b2n f.lockA)).put CLK_STAT_LOCK_B (b2n f.lockB)
  let s := s.pins ((s.put CLK_STAT_ROOT_ACT (b2n (!f.lockA))).put PWR_STAT_DOM_ON 0xFFFF)
  let s := (s.live causeDomain false).reviewClock
  let s := s.put GLB_LIKENESS_CLASS (s.get (REP_LIKE_CAP_CLASS 0))
  let s := TPort.list.foldl (fun (s : Chip) p => s.showWaiting p) s
  (s.logEntry 0x01 0x40 0 (s.get CLK_RST_CAUSE_KIND) (s.get CLK_RESET_CNT)).put CLK_BOOT_STEP 2

/-- Step 2 fails: start-up continues without a rootstock (spec/21_vault.md R511). -/
def Chip.noRoot (s : Chip) (code : Nat) : Chip :=
  (((s.put VLT_STAT_PUF_FAIL code).evt VLT_EVT_PUF_FAIL).put CLK_BOOT_NO_ROOTSTOCK 1).bootFail 3

/-- Helper data is laid out as Table 21.1 says. -/
def helperOk (h : List Byte) : Bool :=
  decide (h.length = 4096 ∧ rd h 0 4 = 0x46504C48 ∧ rd h 4 2 = 1 ∧ rd h 4092 4 = crc32c (h.take 4092))

/-- Step 2: the rootstock is regenerated and checked (spec/21_vault.md R510, R511). -/
def Chip.bootPuf (s : Chip) (f : StartFind) : Chip :=
  let s := (s.put CLK_BOOT_STEP 3).showSlots
  match s.activeItem 1 255 with
  | none => s.noRoot 1
  | some e =>
    let key := (Config.sha384 f.puf).take 32
    if helperOk e.item = false then s.noRoot 1
    else if slice e.item 8 16 ≠ s.uidBytes then s.noRoot 2
    else if f.puf = [] ∨ slice e.item 24 16 ≠ rootCheck key then s.noRoot 3
    else ((s.put VLT_PUF_ERR_BITS f.pufBits.toNat).put CLK_BOOT_NO_ROOTSTOCK 0).root key

/-- The class presented from the end of step 5 on (spec/23_in_service_repair.md R561). -/
def Chip.chooseLikeness (s : Chip) : Chip :=
  let listed (c : Nat) : Bool := decide (c ≠ 0) && (List.range 4).any (fun k => decide (s.get (REP_LIKE_CAP_CLASS k) = c))
  let own := match s.record (s.get BRD_STAT_POS) with
    | some r => rd r 28 4
    | none => 0
  let next := s.get REP_LIKE_NEXT_CLASS
  s.put GLB_LIKENESS_CLASS (if listed own then own else if listed next then next else s.get (REP_LIKE_CAP_CLASS 0))

/-- A bench image is read, checked and loaded into its halted bench; a refused one leaves the bench Halted (R389, step 8). -/
def State.loadBenchItem (s : State) (b : Nat) : State :=
  match s.chip.activeItem 6 b with
  | none => s
  | some e =>
    if s.chip.programOk e then
      (s.loadBench b e.item).withChip (fun c => { c with boot := { c.boot with toStart := c.boot.toStart ++ [(b, imgHands e.item)] } })
    else s.withChip (fun c => c.bootFail 10)

/-- Steward's program is loaded and started. -/
def State.loadStewardItem (s : State) : State :=
  match s.chip.activeItem 5 255 with
  | none => s
  | some e => if s.chip.programOk e then s.loadSteward e.item else s

/-- The end of step 5: the tables, the class, the gate, the images; then steps 6 to 8 follow. -/
def State.bootTables (s : State) : State :=
  let s := s.withChip (fun c =>
    let c := match c.activeItem 7 255 with
      | some e => if c.recordOk e then c.setBeq e.item else c
      | none => c
    (c.loadLedger.chooseLikeness.openGate).put CLK_BOOT_STEP 6)
  let s := if s.chip.boot.loaded then s
    else
      let s := s.withChip (fun c => { c with boot := { c.boot with loaded := true } })
      ((List.range 16).foldl (fun (s : State) b => s.loadBenchItem b) s).loadStewardItem
  s.withChip Chip.bootReview

/-- Steps 3 to 5, which seeding and a Porter restart come back to (R384, R391). -/
def State.bootPorter (s : State) : State :=
  let s := s.withChip (fun c => (c.put CLK_BOOT_STEP 3).loadVkey)
  let mode := s.chip.get CLK_STRAP_BOOTMODE
  if mode = 2 then s
  else if mode = 1 ∧ [2, 3].any (fun i => s.chip.lacks i) then s.withChip Chip.startSeed
  else if s.chip.dir.isNone then s.withChip (fun c => (c.bootFail 4).startSeed)
  else
    let s := s.withChip (fun c => c.put CLK_BOOT_STEP 4)
    match s.chip.pickRecord 2 255 with
    | none => s.withChip (fun c => (c.bootFail 5).startSeed)
    | some _ =>
      match s.chip.pickRecord 3 255 with
      | none => s.withChip (fun c => (c.bootFail 6).startSeed)
      | some e =>
        let s := (s.loadPorter e.item).withChip (fun c => c.put CLK_BOOT_STEP 5)
        if s.chip.boot.seeded ≠ [] ∧ s.chip.lacks 7 then s.withChip Chip.startSeed else s.bootTables

/-- Start-up from the step that CLK_BOOT shows (R387). A fuse shadow that failed waits for the next cold reset; a reset that is held
does not start. -/
def State.startUp (s : State) (f : StartFind) : State :=
  let step := s.chip.get CLK_BOOT_STEP
  if s.chip.boot.held ∨ s.chip.boot.clockFail ∨ step = 0 ∨ 3 < step ∨ s.chip.get CLK_BOOT_FAIL = 1 then s
  else if step = 1 ∧ f.fuseOk = false then s.withChip (fun c => (c.put PWR_STAT_DOM_ON 1).bootFail 1)
  else if step = 1 ∧ f.lockA = false ∧ f.lockB = false then
    s.withChip (fun c => { c.bootFail 2 with boot := { c.boot with clockFail := true } })
  else
    let s := if step = 1 then s.withChip (fun c => c.bootLodge f) else s
    let s := if step ≤ 2 then s.withChip (fun c => c.bootPuf f) else s
    s.bootPorter

def execStartUp (found : StartFind) (s : State) : Result := .next (s.startUp found)

/-- A seed cell of the item that is being seeded: a whole item that passes is stored, and start-up returns to step 3 (R391). -/
def State.seedData (s : State) (c : Cell) : State :=
  let b := c.data
  match s.chip.boot.seed with
  | none => s
  | some (item, total, pieces) =>
    let off := rd b 4 4
    let len := rd b 8 4
    if isNotice c 0x21 = false ∨ rd b 2 1 ≠ item ∨ off % 64 ≠ 0 ∨ len ≤ off ∨ (total ≠ 0 ∧ total ≠ len) then s
    else
      let pieces := mset [] pieces (off / 64) (slice b 16 64)
      let n := piecesRun pieces 0
      let s := s.withChip (fun c => { c with boot := { c.boot with seed := some (item, len, pieces) } })
      if len ≤ 64 * n then
        let bytes := (pieces.flatMap (·.2)).take len
        let e := boundRecord item bytes
        if s.chip.boundOk item e.header ∧ s.chip.programOk e then (s.withChip (fun c => c.acceptSeed e)).bootPorter
        else s.withChip (fun c => c.bootFail 7)
      else if n % 64 = 0 ∧ n ≠ 0 ∧ off / 64 + 1 = n then s.withChip Chip.askSeed
      else s

def execSeedData (p : TPort) (cell : Cell) (s : State) : Result :=
  .next (if p = .nu ∨ p = .su then s.seedData cell else s)

/-! ### The head decision (spec/01_rows_and_nodes.md R13, R14) -/

/-- The head decision window ends. The spec gives an A head no row number where it holds no ledger copy: it takes row 0, even over a row
that a QUERY has brought (DESIGN CHOICE, log entry 38). -/
def headDecision (s : Chip) : Chip :=
  if s.braid.window = false then s
  else
    let s := { s with braid := { s.braid with window := false } }
    if s.get CLK_STRAP_ROWHEAD = 0 then s
    else if s.braid.losNu ∧ s.braid.losSu then
      let row := s.boot.ledgerNode.getD 0 / 1024
      let s := (s.setAddress (1024 * row)).put BRD_STAT_ROLE 1
      let s := (s.put (BRD_TRELLIS_ROLE 0) 1).setPos 0 posMember
      (s.storeAddress.applyOwn).nowMember.reviewTime
    else
      let s := s.put BRD_STAT_ROLE 2
      let s := if s.on BRD_STAT_POS_VALID then s.put (BRD_TRELLIS_ROLE (s.get BRD_STAT_POS)) 2 else s
      s.reviewTime

def execHeadDecision (s : State) : Result := s.onChip headDecision

end Sys2Proof.Machine
end

