-- ==== Sys2Proof/Machine/Control.lean ====
section
/-! DEFINITION. Branches, jumps, hand CSRs, traps, yielding and halting (spec/10_fungatre_core_instructions.md R285–R293,
spec/09_fungatre_machine.md R251–R255, R265), and the words that are no instruction (R276–R278, R298). -/

namespace Sys2Proof.Machine
open Sys2Proof Sys2Proof.Machine.Reg

/-! ### Branches and jumps -/

/-- A taken branch or jump. -/
def Chip.goto (s : Chip) (h : HandId) (pc : BitVec 18) : Chip := s.setHand h ((s.hand h).done pc)

/-- BR (R285): a reserved condition, or ALWAYS with a non-zero a field, raises trap 0x01. -/
def Chip.br (s : Chip) (h : HandId) (cond a : BitVec 5) (imm : BitVec 16) : Chip :=
  let x := s.hand h
  match brCond cond (x.w a) with
  | none => s.trapHere h 1 (fmtI 0x10 cond a imm)
  | some taken =>
    if cond = 6 ∧ a ≠ 0 then s.trapHere h 1 (fmtI 0x10 cond a imm)
    else if taken then s.goto h (wrapPc h (x.pc.zeroExtend 32 + sext16 imm * 4))
    else s.advance h

def execBr (h : HandId) (cond a : BitVec 5) (imm : BitVec 16) (s : State) : Result := s.issueChip h (fun c => c.br h cond a imm)

/-- JAL (R286): the link register takes next_pc, and pc moves by the signed word offset. -/
def Chip.jal (s : Chip) (h : HandId) (d : BitVec 5) (off : BitVec 21) : Chip :=
  let x := s.hand h
  let y := x.setW d ((nextPc h x.pc).zeroExtend 32)
  s.setHand h (y.done (wrapPc h (x.pc.zeroExtend 32 + off.signExtend 32 * 4)))

def execJal (h : HandId) (d : BitVec 5) (off : BitVec 21) (s : State) : Result := s.issueChip h (fun c => c.jal h d off)

/-- JALR (R287): wa is read before wd is written. -/
def Chip.jalr (s : Chip) (h : HandId) (d a : BitVec 5) (imm : BitVec 16) : Chip :=
  let x := s.hand h
  let t := x.w a + sext16 imm
  if t.toNat % 4 ≠ 0 then s.trapHere h 2 t
  else s.setHand h ((x.setW d ((nextPc h x.pc).zeroExtend 32)).done (wrapPc h t))

def execJalr (h : HandId) (d a : BitVec 5) (imm : BitVec 16) (s : State) : Result := s.issueChip h (fun c => c.jalr h d a imm)

/-! ### Hand CSRs (Table 9.2) -/

/-- The number names a CSR of the hand (R254, R269). -/
def csrKnown (h : HandId) (n : Nat) : Bool :=
  decide (n ≤ 6 ∨ n = 0x10 ∨ n = 0x11 ∨ n = 0x30 ∨ n = 0x31 ∨ (0x40 ≤ n ∧ n ≤ 0x43) ∨ n = 0x50)
  || (onBench h && decide (0x20 ≤ n ∧ n ≤ 0x22))

/-- HINFO: own hand, bench and core. -/
def hinfo (h : HandId) : Nat :=
  if h.val < 64 then handOf h + 4 * benchOf h else if h.val = 64 then 64 else 128

/-- Clock cycles of the hand's core since START: CLK_BENCH on a bench, the core's own clock on Porter and Steward. -/
def Chip.cycles (s : Chip) (h : HandId) : Nat :=
  let t := s.tick - (s.hand h).cycleFrom
  (if h.val < 64 then t * 4 / 3 else if h.val = 64 then t * 2 / 3 else t / 12) % 2 ^ 64

/-- Ticks of a watchdog period unit of 10 µs. -/
def wdogUnit : Nat := 12000

/-- Time to the watchdog's expiry, in units of 10 µs (R265). -/
def Chip.wdogLeft (s : Chip) (h : HandId) : Nat :=
  let x := s.hand h
  let elapsed := if x.state = .frozen then x.wdogFrom else s.tick - x.wdogFrom
  x.wdogPeriod - elapsed / wdogUnit

/-- The value a CSRR reads. -/
def Chip.csrValue (s : Chip) (h : HandId) (n : Nat) : Nat :=
  let x := s.hand h
  match n with
  | 0x00 => hinfo h
  | 0x01 => b2n x.inTrap + 2 * b2n (s.fieldOwner h)
  | 0x02 => x.tvec
  | 0x03 => x.tcause
  | 0x04 => x.tepc.toNat
  | 0x05 => x.tval.toNat
  | 0x06 => x.tscratch.toNat
  | 0x10 => x.wdogPeriod
  | 0x11 => s.wdogLeft h + 65536 * b2n x.expired
  | 0x20 => s.ownMask h
  | 0x31 => b2n x.dbPend
  | 0x40 => s.cycles h % 2 ^ 32
  | 0x41 => x.cycleHi.getD (s.cycles h / 2 ^ 32)
  | 0x42 => x.instret % 2 ^ 32
  | 0x43 => x.instretHi.getD (x.instret / 2 ^ 32)
  | 0x50 => s.tagsHeld h
  | _ => 0

/-- A CSRR of a LO word latches the matching HI word, which the next CSRR of that word returns (R255). -/
def Chip.csrLatch (s : Chip) (h : HandId) (n : Nat) : Chip :=
  let x := s.hand h
  match n with
  | 0x40 => s.setHand h { x with cycleHi := some (s.cycles h / 2 ^ 32) }
  | 0x41 => s.setHand h { x with cycleHi := none }
  | 0x42 => s.setHand h { x with instretHi := some (x.instret / 2 ^ 32) }
  | 0x43 => s.setHand h { x with instretHi := none }
  | _ => s

/-- CSRR (R288). -/
def Chip.csrr (s : Chip) (h : HandId) (d : BitVec 5) (num : BitVec 16) : Chip :=
  if csrKnown h num.toNat then (s.csrLatch h num.toNat).complete h d (BitVec.ofNat 32 (s.csrValue h num.toNat))
  else s.trapHere h 1 (fmtI 0x28 d 0 num)

def execCsrr (h : HandId) (d : BitVec 5) (num : BitVec 16) (s : State) : Result := s.issueChip h (fun c => c.csrr h d num)

/-- A CSRR of CYCLE_LO or INSTRET_LO (R255). -/
def execCycleLo (h : HandId) (d : BitVec 5) (instret : Bool) (s : State) : Result :=
  s.issueChip h (fun c => c.csrr h d (if instret then 0x42 else 0x40))

/-- A write to WDOG reloads the watchdog; 0 disables it, but a field-owning hand's write of 0 is ignored (R265). -/
def Chip.feedWdog (s : Chip) (h : HandId) (v : Nat) : Chip :=
  let p := v % 65536
  if p = 0 ∧ s.fieldOwner h then s
  else s.setHand h { s.hand h with wdogPeriod := p, wdogFrom := s.tick, unfed := false }

/-- A claim takes every named cell register that is free (R253). -/
def Chip.claimCregs (s : Chip) (h : HandId) (mask : Nat) : Chip :=
  (List.range 8).foldl (fun (s : Chip) c =>
    if bit mask c ∧ mget 0 s.cores.cregOwner (8 * benchOf h + c) = 0 then s.setOwner (benchOf h) c (handOf h + 1) else s) s

/-- DOORBELL sets DB_PEND at the named hands of the core (R289). -/
def Chip.ringBells (s : Chip) (h : HandId) (mask : Nat) : Chip :=
  ((handsOf (coreOf h)).zipIdx).foldl (fun (s : Chip) e =>
    if bit mask e.2 then s.setHand e.1 { s.hand e.1 with dbPend := true } else s) s

/-- What a CSRW writes; a write to a read-only field is ignored (R254). -/
def Chip.csrWriteValue (s : Chip) (h : HandId) (n v : Nat) : Chip :=
  let x := s.hand h
  match n with
  | 0x01 => s.setHand h { x with inTrap := bit v 0 }
  | 0x02 => s.setHand h { x with tvec := v % 65536 / 4 * 4 }
  | 0x04 => s.setHand h { x with tepc := BitVec.ofNat 18 (v % 2 ^ pcWidth h) }
  | 0x06 => s.setHand h { x with tscratch := BitVec.ofNat 32 v }
  | 0x10 => s.feedWdog h v
  | 0x21 => s.claimCregs h v
  | 0x22 => s.releaseCregs h v
  | 0x30 => s.ringBells h v
  | 0x31 => if bit v 0 then s.setHand h { x with dbPend := false } else s
  | _ => s

/-- CSRW (R288). -/
def Chip.csrw (s : Chip) (h : HandId) (a : BitVec 5) (num : BitVec 16) : Chip :=
  if csrKnown h num.toNat then (s.csrWriteValue h num.toNat ((s.hand h).w a).toNat).advance h
  else s.trapHere h 1 (fmtI 0x29 0 a num)

def execCsrw (h : HandId) (a : BitVec 5) (num : BitVec 16) (s : State) : Result := s.issueChip h (fun c => c.csrw h a num)

/-- A CSRW to CREG_CLAIM (R253). -/
def execCregClaim (h : HandId) (a : BitVec 5) (s : State) : Result := s.issueChip h (fun c => c.csrw h a 0x21)

/-- A CSRW to CREG_FREE (R253). -/
def execCregFree (h : HandId) (a : BitVec 5) (s : State) : Result := s.issueChip h (fun c => c.csrw h a 0x22)

/-- A CSRW to DOORBELL (R289). -/
def execDoorbell (h : HandId) (a : BitVec 5) (s : State) : Result := s.issueChip h (fun c => c.csrw h a 0x30)

/-- A CSRW to WDOG (R265). -/
def execWdog (h : HandId) (a : BitVec 5) (s : State) : Result := s.issueChip h (fun c => c.csrw h a 0x10)

/-! ### Traps, yielding, halting (R290–R293) -/

/-- One more instruction completed (R296). -/
def Hand.count (x : Hand) : Hand := { x with instret := (x.instret + 1) % 2 ^ 64 }

/-- TRAP raises trap 0x08 with TVAL zext(imm16) and TEPC next_pc; it counts once (R290, R296). -/
def Chip.trapInstr (s : Chip) (h : HandId) (imm : BitVec 16) : Chip :=
  let x := s.hand h
  (s.setHand h x.count).trap h 8 (zext16 imm) (nextPc h x.pc)

def execTrap (h : HandId) (imm : BitVec 16) (s : State) : Result := s.issueChip h (fun c => c.trapInstr h imm)

/-- ERET (R291): back to TEPC with IN_TRAP clear, and what is pending is taken at the boundary there; with IN_TRAP 0 it raises
trap 0x01. -/
def Chip.eret (s : Chip) (h : HandId) : Chip :=
  let x := s.hand h
  if x.inTrap then (s.setHand h { x.done x.tepc with inTrap := false }).boundary h
  else s.trapHere h 1 (fmtI 0x2B 0 0 0)

def execEret (h : HandId) (s : State) : Result := s.issueChip h (fun c => c.eret h)

/-- YIELD (R292): the hand is not ready for imm16 cycles; YIELD 0 only advances. -/
def Chip.yieldInstr (s : Chip) (h : HandId) (imm : BitVec 16) : Chip :=
  let s := s.advance h
  if imm = 0 then s else s.setHand h { s.hand h with yielding := true }

def execYield (h : HandId) (imm : BitVec 16) (s : State) : Result := s.issueChip h (fun c => c.yieldInstr h imm)

/-- The cycles of a YIELD have passed (R292). -/
def execYieldEnd (h : HandId) (s : State) : Result := s.onHand (fun c => (c.setHand h { c.hand h with yielding := false }).boundary h)

/-- HALT (R293): a bench hand waits in Stall until it holds no tag, then halts; Steward halts with the consequences of a bite;
Porter traps. -/
def Chip.haltInstr (s : Chip) (h : HandId) : Chip :=
  let x := s.hand h
  if h.val = 64 then s.trapHere h 1 (fmtI 0x2D 0 0 0)
  else if h.val = 65 then (s.setHand h (x.done (nextPc h x.pc))).stewardHalt
  else if s.tagsHeld h ≠ 0 then s.stall h (.halt h)
  else ((s.setHand h (x.done (nextPc h x.pc))).haltHand h).evt (BCH_EVT_HALTED (benchOf h))

def execHalt (h : HandId) (s : State) : Result := s.issueChip h (fun c => c.haltInstr h)

/-! ### Words that are no instruction (R276–R278, R298) -/

/-- A func of Table 10.3, with b unused where the table says so. -/
def aluLegal (func b : Nat) : Bool :=
  decide (func ≤ 0x0E ∨ (0x10 ≤ func ∧ func ≤ 0x12) ∨ (0x14 ≤ func ∧ func ≤ 0x17) ∨ (0x20 ≤ func ∧ func ≤ 0x24 ∧ b = 0))

/-- A func of CELL (Table 11.1). -/
def cellLegal (a func : Nat) : Bool :=
  decide (a < 8) && match func / 512 with
  | 0 => decide (func / 128 % 4 ≠ 3)
  | 1 => decide (func / 128 % 4 ≠ 3)
  | 2 => decide (func / 128 % 4 < 2 ∧ 1 ≤ func % 128 ∧ func % 128 ≤ 104)
  | _ => false

/-- A func of TIME (Table 11.1). -/
def timeLegal (d a b func : Nat) : Bool :=
  decide (func < 8) && match func with
  | 0 => decide (a = 0)
  | 1 => true
  | 2 => decide (d = 0 ∧ b = 0)
  | 6 => decide (d = 0 ∧ b = 0 ∧ a = 0)
  | _ => false

/-- The word is an instruction of the hand's core. -/
def legalWord (h : HandId) (w : Word) : Bool :=
  let n := w.toNat
  let d := bits n 21 5
  let a := bits n 16 5
  let b := bits n 11 5
  let func := n % 2048
  let imm := n % 65536
  match n / 2 ^ 26 with
  | 0x00 => aluLegal func b
  | 0x01 => true
  | 0x02 => true
  | 0x03 => true
  | 0x04 => true
  | 0x05 => decide (a = 0)
  | 0x06 => decide (imm < 128)
  | 0x07 => true
  | 0x08 => true
  | 0x09 => true
  | 0x0A => true
  | 0x0C => true
  | 0x0D => true
  | 0x0E => true
  | 0x10 => decide (d ≤ 6 ∨ 16 ≤ d) && (decide (d ≠ 6) || decide (a = 0))
  | 0x11 => true
  | 0x12 => true
  | 0x14 => decide (func < 8 ∧ func % 4 ≠ 3) && (if func / 4 = 0 then decide (b = 0) else decide (d = 0))
  | 0x15 => decide (func < 3 ∧ b = 0)
  | 0x16 => decide (imm < 4)
  | 0x18 => onBench h && decide (a = 0 ∧ imm < 1024)
  | 0x19 => onBench h && decide (imm < 2048)
  | 0x1A => onBench h && decide (a = 0 ∧ imm < 1024)
  | 0x1B => onBench h && cellLegal a func
  | 0x1C => onBench h && decide (d < 8 ∧ imm / 2 % 2 = 0)
  | 0x20 => true
  | 0x21 => timeLegal d a b func
  | 0x22 => onBench h && decide (b = 0 ∧ func < 3)
  | 0x23 => decide (a = 0 ∧ imm < 3) && (decide (imm = 2) && onBench h || decide (imm < 2 ∧ d = 0))
  | 0x28 => decide (a = 0) && csrKnown h imm
  | 0x29 => decide (d = 0) && csrKnown h imm
  | 0x2A => decide (d = 0 ∧ a = 0)
  | 0x2B => decide (d = 0 ∧ a = 0 ∧ imm = 0)
  | 0x2C => decide (d = 0 ∧ a = 0)
  | 0x2D => decide (d = 0 ∧ a = 0 ∧ imm = 0 ∧ h.val ≠ 64)
  | _ => false

/-- A word that is no instruction raises trap 0x01 with the word in TVAL (R276–R278). A word that is one is the event of its own
command, and leaves the state unchanged here (DESIGN CHOICE, log entry 11). -/
def execIllegalInstruction (h : HandId) (word : Word) (s : State) : Result :=
  if legalWord h word then .next s else s.issueChip h (fun c => c.trapHere h 1 word)

end Sys2Proof.Machine
end

