-- ==== Sys2Proof/Machine/Display.lean ====
section
/-! DEFINITION. The display heads (spec/17_display.md): main link training and HPD, the frame store and its surfaces, timing, commits,
underrun, Panel Self Refresh, display cells and the AUX channel. -/

namespace Sys2Proof.Machine
open Sys2Proof Sys2Proof.Machine.Reg

def frameOn (s : Chip) : Bool := s.domainOn 10

/-- Bytes of the frame store (R438). -/
def frameSize : Nat := 41943040

def Chip.head (s : Chip) (h : Nat) : Head := mget {} s.ends.heads h
def Chip.setHead (s : Chip) (h : Nat) (x : Head) : Chip := { s with ends := { s.ends with heads := mset {} s.ends.heads h x } }

/-! ### The main link (R436, R437) -/

/-- Kilobits per second of a RATE code, lanes of a LANES code. -/
def rateKb (r : Nat) : Nat := if r = 0 then 1620000 else if r = 1 then 2700000 else 5400000
def laneNumber (l : Nat) : Nat := 2 ^ l

def Chip.bpc (s : Chip) (h : Nat) : Nat := if s.on (DSP_HCTL_BPC h) then 8 else 6

/-- The payload rate carries the pixels. -/
def Chip.carries (s : Chip) (h rate lanes : Nat) : Bool :=
  decide (s.get (DSP_PCLK_KHZ h) * 3 * s.bpc h ≤ laneNumber lanes * rateKb rate * 8 / 10)

/-- The combinations tried in turn: each lower rate, and below the lowest half the lanes, from RATE again (DESIGN CHOICE, log entry 20). -/
def combos (rate lanes : Nat) : List (Nat × Nat) :=
  ((List.range (lanes + 1)).map (fun i => lanes - i)).flatMap (fun l => (List.range (rate + 1)).map (fun i => (rate - i, l)))

/-- Link training; `passes` lists the combinations of rate and lanes at which both phases pass within 5 attempts. -/
def dspTrain (h : Nat) (passes : List (Nat × Nat)) (s : Chip) : Chip :=
  if frameOn s = false then s
  else
    match (combos (s.get (DSP_HCTL_RATE h)) (s.get (DSP_HCTL_LANES h))).find? (fun c => s.carries h c.1 c.2 && passes.contains c) with
    | some c => ((s.put (DSP_HSTAT_LINK h) 1).put (DSP_HSTAT_RATE h) c.1).put (DSP_HSTAT_LANES h) c.2
    | none => (s.put (DSP_HSTAT_LINK h) 0).evt (DSP_EVT_TRAIN_FAIL h)

def execDspTrain (h : Fin 2) (passes : List (Fin 3 × Fin 3)) (s : State) : Result :=
  s.onChip (dspTrain h (passes.map (fun p => (p.1.val, p.2.val))))

def hpdPlug (h : Nat) (s : Chip) : Chip := if frameOn s then s.put (DSP_HSTAT_HPD h) 1 else s

def execHpdPlug (h : Fin 2) (s : State) : Result := s.onChip (hpdPlug h)

/-- HPD low for more than 2 ms: an unplug. -/
def hpdUnplug (h : Nat) (s : Chip) : Chip :=
  if frameOn s = false ∨ s.get (DSP_HSTAT_HPD h) = 0 then s
  else ((s.put (DSP_HSTAT_HPD h) 0).put (DSP_HSTAT_LINK h) 0).evt (DSP_EVT_HPD_CHG h)

def execHpdUnplug (h : Fin 2) (s : State) : Result := s.onChip (hpdUnplug h)

/-- An HPD pulse low for 0.5–1 ms. -/
def hpdIrq (h : Nat) (s : Chip) : Chip := if frameOn s && s.on (DSP_HSTAT_HPD h) then s.evt (DSP_EVT_HPD_IRQ h) else s

def execHpdIrq (h : Fin 2) (s : State) : Result := s.onChip (hpdIrq h)

/-! ### Surfaces (R439, R440, Table 17.2) -/

/-- Bytes of a pixel. -/
def pixelBytes (fmt : Nat) : Nat := fmt + 2

/-- Where pixel (x, y) of a surface starts. -/
def pixelAt (base stride fmt x y : Nat) : Nat := base * 4096 + y * stride + x * pixelBytes fmt

/-- A component of 5 or 6 bits widened to 8 by its top bits. -/
def widen (v w : Nat) : Nat := v * 2 ^ (8 - w) + v / 2 ^ (2 * w - 8)

/-- Red, green and blue of a pixel's bytes. -/
def components (fmt v : Nat) : Nat × Nat × Nat :=
  if fmt = 0 then (widen (bits v 11 5) 5, widen (bits v 5 6) 6, widen (bits v 0 5) 5)
  else (bits v 16 8, bits v 8 8, bits v 0 8)

/-- A frame store byte as scanout shows it: zero in a word beyond correction (R438). -/
def State.scanned (s : State) (a : Nat) : Byte := if mget false s.chip.ends.frameBad (a / 8) then 0 else Memory.byte s.mem (frameBase + a)

/-- The pixel that head `h` shows at (x, y): at 6 bits per component the top 6 bits of each. -/
def State.pixel (s : State) (h x y : Nat) : Nat × Nat × Nat :=
  let c := s.chip
  let fmt := c.get (DSP_ACT_SURF_FMT h)
  let at_ := pixelAt (c.get (DSP_ACT_SURF_BASE h)) (c.get (DSP_ACT_SURF_STRIDE h)) fmt x y
  let p := components fmt (leNat ((List.range (pixelBytes fmt)).map (fun i => s.scanned (at_ + i))))
  if c.on (DSP_HCTL_BPC h) then p else (p.1 / 4, p.2.1 / 4, p.2.2 / 4)

/-! ### Self-refresh (R446, R447) and commits (R443) -/

def Chip.selfRefresh (s : Chip) (h : Nat) : Bool := decide (s.get (DSP_HSTAT_PSR_STATE h) = 2)

/-- The shadow registers become the active ones. -/
def Chip.copySurface (s : Chip) (h : Nat) : Chip :=
  let s := (s.put (DSP_ACT_SURF_BASE h) (s.get (DSP_SURF_BASE_BASE h))).put (DSP_ACT_SURF_FMT h) (s.get (DSP_SURF_FMT_FMT h))
  s.put (DSP_ACT_SURF_STRIDE h) (s.get (DSP_SURF_STRIDE_STRIDE h))

/-- A pending commit takes effect; one that passed over a blank counts as late. -/
def Chip.flip (s : Chip) (h : Nat) : Chip :=
  let late := (s.head h).late = 2
  let s := (((s.copySurface h).put (DSP_COMMIT_PEND h) 0).evt (DSP_EVT_FLIP h)).inc (DSP_FLIP_CNT h)
  let s := s.setHead h { s.head h with late := 0 }
  if late then s.inc (DSP_LATE_CNT h) else s

/-- The head leaves self-refresh: its timing starts at the beginning of vertical blank, where a pending commit is applied without
being late; a capture is cancelled. -/
def Chip.leavePsr (s : Chip) (h : Nat) : Chip :=
  let s := s.setHead h { s.head h with idle := 0 }
  if s.selfRefresh h then
    let s := (s.put (DSP_HSTAT_PSR_STATE h) 0).setHead h { s.head h with blankAt := s.tick, late := 0 }
    let s := s.evt (DSP_EVT_PSR_CHG h)
    if s.on (DSP_COMMIT_PEND h) then s.flip h else s
  else s.put (DSP_HSTAT_PSR_STATE h) 0

/-- Pixel clocks until the next start of vertical blank. -/
def Chip.toBlank (s : Chip) (h : Nat) : Nat :=
  let frame := s.get (DSP_TIME_H_TOTAL h) * s.get (DSP_TIME_V_TOTAL h)
  frame - (s.tick - (s.head h).blankAt) * s.get (DSP_PCLK_KHZ h) / 1200000 % frame

/-- The current line (R442). -/
def Chip.lineNow (s : Chip) (h : Nat) : Nat :=
  let t := s.get (DSP_TIME_H_TOTAL h)
  let v := s.get (DSP_TIME_V_TOTAL h)
  if s.get (DSP_HCTL_EN h) = 0 ∨ t = 0 ∨ v = 0 then 0
  else (s.get (DSP_TIME_V_ACT h) + (s.tick - (s.head h).blankAt) * s.get (DSP_PCLK_KHZ h) / 1200000 / t) % v

/-- The shadow surface ends within the frame store (R444). -/
def Chip.surfaceFits (s : Chip) (h : Nat) : Bool :=
  let v := s.get (DSP_TIME_V_ACT h)
  let fmt := s.get (DSP_SURF_FMT_FMT h)
  decide (pixelAt (s.get (DSP_SURF_BASE_BASE h)) (s.get (DSP_SURF_STRIDE_STRIDE h)) fmt (s.get (DSP_TIME_H_ACT h)) (v - 1) ≤ frameSize)

/-- A commit (R443, R444): at once while EN is 0, else pending until the blank; it ends self-refresh. -/
def Chip.commit (s : Chip) (h : Nat) : Chip :=
  if s.on (DSP_COMMIT_PEND h) then s
  else if s.surfaceFits h = false then s.evt DSP_EVT_CFG_ERR
  else if s.get (DSP_HCTL_EN h) = 0 then (s.copySurface h).evt (DSP_EVT_FLIP h)
  else
    let late := b2n (decide (s.toBlank h < 2 * s.get (DSP_TIME_H_TOTAL h)))
    let s := (s.put (DSP_COMMIT_PEND h) 1).setHead h { s.head h with late := late }
    s.leavePsr h

/-- A write of 1 to GO. -/
def execGo (h : Fin 2) (s : State) : Result := s.onChip (fun c => if frameOn c then c.commit h else c)

/-- A soft error that scanout finds in a 64-bit word (R438): corrected and counted, or counted, marked and its row remapped
(spec/23_in_service_repair.md R551). The find names a word of a 16-byte row. -/
def Chip.scanFind (s : Chip) (f : ScrubFind) : Chip :=
  let a := (16 * f.block + 4 * f.word) % frameSize
  if f.uncorrectable then
    let s : Chip := { s with ends := { s.ends with frameBad := mset false s.ends.frameBad (a / 8) true } }
    ((s.inc DSP_ECC_UNCORR).evt DSP_EVT_ECC_UNCORR).autoRemap 3 0 a
  else s.inc DSP_ECC_CORR

/-- The start of vertical blank (R443, R446): the frame scanned out has ended, with what its scanout found; a capture has been taken; a
commit that is due takes effect. -/
def verticalBlank (h : Nat) (found : List ScrubFind) (s : Chip) : Chip :=
  if frameOn s = false ∨ s.get (DSP_HCTL_EN h) = 0 ∨ s.selfRefresh h then s
  else
    let s := found.foldl (fun (s : Chip) f => s.scanFind f) s
    let s := s.setHead h { s.head h with blankAt := s.tick, idle := (s.head h).idle + 1 }
    let s := if s.get (DSP_HSTAT_PSR_STATE h) = 1 then (s.put (DSP_HSTAT_PSR_STATE h) 2).evt (DSP_EVT_PSR_CHG h) else s
    if s.get (DSP_COMMIT_PEND h) = 0 then s
    else if (s.head h).late = 1 then (s.setHead h { s.head h with late := 2 }).evt (DSP_EVT_COMMIT_LATE h)
    else s.flip h

def execVerticalBlank (h : Fin 2) (found : List ScrubFind) (s : State) : Result := s.onChip (verticalBlank h found)

/-- PSR_IDLE whole idle frames have passed on a panel that reports PSR support: one further frame is captured (R446). -/
def psrEntry (h : Nat) (s : Chip) : Chip :=
  if frameOn s && s.on (DSP_HCTL_EN h) && s.on (DSP_HCTL_MODE h) && s.on (DSP_HCTL_PSR_EN h)
    && decide (s.get (DSP_HSTAT_PSR_STATE h) = 0 ∧ s.get (DSP_HCTL_PSR_IDLE h) < (s.head h).idle)
  then s.put (DSP_HSTAT_PSR_STATE h) 1 else s

def execPsrEntry (h : Fin 2) (s : State) : Result := s.onChip (psrEntry h)

/-- A write of 1 to EXIT, or another cause of R447. -/
def execPsrExit (h : Fin 2) (s : State) : Result := s.onChip (fun c => if frameOn c then c.leavePsr h else c)

/-- A line with a pixel that came too late (R445). -/
def underrun (h : Nat) (s : Chip) : Chip :=
  if frameOn s && s.on (DSP_HCTL_EN h) && !s.selfRefresh h then (s.inc (DSP_UNDERRUN h)).evt (DSP_EVT_UNDERRUN h) else s

def execUnderrun (h : Fin 2) (s : State) : Result := s.onChip (underrun h)

/-! ### Timing and enable (R441) -/

/-- HSYNC, or VSYNC, lies within the blanking. -/
def syncOk (act total start width : Nat) : Bool :=
  decide (1 ≤ act ∧ act < total ∧ act ≤ start ∧ 1 ≤ width ∧ start + width ≤ total)

/-- The timing that an enable needs (Table 17.1). -/
def Chip.timingOk (s : Chip) (h : Nat) : Bool :=
  let hAct := s.get (DSP_TIME_H_ACT h)
  let vAct := s.get (DSP_TIME_V_ACT h)
  decide (hAct ≤ 2560 ∧ vAct ≤ 1600 ∧ 25000 ≤ s.get (DSP_PCLK_KHZ h) ∧ s.get (DSP_PCLK_KHZ h) ≤ 300000)
  && syncOk hAct (s.get (DSP_TIME_H_TOTAL h)) (s.get (DSP_TIME_HS_START h)) (s.get (DSP_TIME_HS_WIDTH h))
  && syncOk vAct (s.get (DSP_TIME_V_TOTAL h)) (s.get (DSP_TIME_VS_START h)) (s.get (DSP_TIME_VS_WIDTH h))

def cfgErr (s : Chip) : Chip := s.evt DSP_EVT_CFG_ERR

/-- A write to DSP_HCTL_h, but for TRAIN, whose outcome is a command of its own. A head that is enabled starts at vertical blank
(DESIGN CHOICE, log entry 20). -/
def Chip.hctl (s : Chip) (h v : Nat) : Chip :=
  if bit v 0 ∧ s.timingOk h = false then cfgErr s
  else
    let was := s.on (DSP_HCTL_EN h)
    let psr := s.on (DSP_HCTL_PSR_EN h)
    let s := ((s.put (DSP_HCTL_EN h) (bits v 0 1)).put (DSP_HCTL_MODE h) (bits v 1 1)).put (DSP_HCTL_BPC h) (bits v 2 1)
    let s := if bits v 3 2 = 3 then s else s.put (DSP_HCTL_LANES h) (bits v 3 2)
    let s := if bits v 5 2 = 3 then s else s.put (DSP_HCTL_RATE h) (bits v 5 2)
    let s := s.put (DSP_HCTL_PSR_EN h) (bits v 8 1)
    let s := if bits v 9 8 < 2 then s else s.put (DSP_HCTL_PSR_IDLE h) (bits v 9 8)
    let s := if was = false ∧ bit v 0 then s.setHead h { blankAt := s.tick } else s
    let s := if was ∧ bit v 0 = false then s.put (DSP_HSTAT_PSR_STATE h) 0 else s
    if psr ∧ bit v 8 = false then s.leavePsr h else s

/-- A write to a timing register: 0 HCTL, 1 TIME_H, 2 TIME_HS, 3 TIME_V, 4 TIME_VS, 5 PCLK. -/
def Chip.timingWrite (s : Chip) (h reg v : Nat) : Chip :=
  if frameOn s = false then s
  else if reg = 0 then s.hctl h v
  else if s.on (DSP_HCTL_EN h) then cfgErr s
  else match reg with
  | 1 => (s.put (DSP_TIME_H_ACT h) (bits v 0 12)).put (DSP_TIME_H_TOTAL h) (bits v 16 12)
  | 2 => ((s.put (DSP_TIME_HS_START h) (bits v 0 12)).put (DSP_TIME_HS_WIDTH h) (bits v 16 8)).put (DSP_TIME_HS_POL h) (bits v 24 1)
  | 3 => (s.put (DSP_TIME_V_ACT h) (bits v 0 12)).put (DSP_TIME_V_TOTAL h) (bits v 16 12)
  | 4 => ((s.put (DSP_TIME_VS_START h) (bits v 0 12)).put (DSP_TIME_VS_WIDTH h) (bits v 16 8)).put (DSP_TIME_VS_POL h) (bits v 24 1)
  | _ => s.put (DSP_PCLK_KHZ h) (bits v 0 19)

def execDspTiming (h : Fin 2) (reg : Fin 6) (value : Word) (s : State) : Result :=
  s.onChip (fun c => c.timingWrite h reg value.toNat)

/-- A write to a shadow register (R444): 0 BASE, 1 STRIDE, 2 FMT; reserved encodings leave their field. -/
def Chip.shadowWrite (s : Chip) (h reg v : Nat) : Chip :=
  if frameOn s = false then s
  else if s.on (DSP_COMMIT_PEND h) then cfgErr s
  else match reg with
  | 0 => if bits v 0 14 < 10240 then s.put (DSP_SURF_BASE_BASE h) (bits v 0 14) else s
  | 1 => s.put (DSP_SURF_STRIDE_STRIDE h) (bits v 0 14 / 64 * 64)
  | _ => if bits v 0 2 = 3 then s else s.put (DSP_SURF_FMT_FMT h) (bits v 0 2)

def execDspShadow (h : Fin 2) (reg : Fin 3) (value : Word) (s : State) : Result :=
  s.onChip (fun c => c.shadowWrite h reg value.toNat)

/-! ### Display cells (R448, R449) -/

def dspOp (c : Cell) : Nat := c.field 26 4
def dspAddr (c : Cell) : Nat := c.field 0 16 + 2 ^ 16 * c.field 32 10

/-- A cell that is not performed: a reserved OP, a wrong VLEN or bytes beyond the store. -/
def dspBad (c : Cell) : Bool :=
  if dspOp c = 1 then decide (c.vlen = 0 ∨ 104 < c.vlen ∨ frameSize < dspAddr c + c.vlen)
  else decide (dspOp c ≠ 2 ∧ dspOp c ≠ 3) || decide (c.vlen ≠ 0)

/-- Bytes `[a, a + n)` touch the active surface of a head. -/
def Chip.touches (s : Chip) (h a n : Nat) : Bool :=
  let fmt := s.get (DSP_ACT_SURF_FMT h)
  let row (y : Nat) : Nat := pixelAt (s.get (DSP_ACT_SURF_BASE h)) (s.get (DSP_ACT_SURF_STRIDE h)) fmt 0 y
  (List.range (s.get (DSP_TIME_V_ACT h))).any (fun y =>
    decide (a < row y + s.get (DSP_TIME_H_ACT h) * pixelBytes fmt ∧ row y < a + n))

/-- A WRITE that touches an active surface ends its head's idle time, and its self-refresh. -/
def Chip.touched (s : Chip) (a n : Nat) : Chip :=
  [0, 1].foldl (fun (s : Chip) h => if s.on (DSP_HCTL_EN h) ∧ s.touches h a n then s.leavePsr h else s) s

/-- Words of the frame store that a WRITE fills whole hold no error any more. -/
def Chip.healFrame (s : Chip) (a n : Nat) : Chip :=
  { s with ends := { s.ends with frameBad := s.ends.frameBad.filter (fun e => !decide (a ≤ 8 * e.1 ∧ 8 * e.1 + 8 ≤ a + n)) } }

/-- A cell that P7 performs. -/
def State.dspCell (s : State) (cell : Cell) (ecc : EccFind) : State :=
  if frameOn s.chip = false then s
  else
    let r := s.chip.takeGiven 7 cell ecc
    let c := r.2
    if r.1 = false then { s with chip := c }
    else if dspBad cell then { s with chip := (c.inc DSP_CELL_BAD).evt DSP_EVT_CELL_BAD }
    else if dspOp cell = 1 then
      { s with
        chip := (c.touched (dspAddr cell) cell.vlen).healFrame (dspAddr cell) cell.vlen
        mem := Memory.setBytes s.mem (frameBase + dspAddr cell) (slice cell.data 0 cell.vlen) }
    else if dspOp cell = 2 then { s with chip := c.commit (cell.field 30 1) }
    else { s with chip := c.endToRing 7 (c.get DSP_CTL_RING) cell }

/-- DSP_WRITE: a WRITE cell, or one whose OP is reserved. -/
def execDspWrite (_ring : Fin 64) (cell : Cell) (ecc : EccFind) (s : State) : Result :=
  if dspOp cell = 2 ∨ dspOp cell = 3 then .next s else .next (s.dspCell cell ecc)

def execDspCommit (_ring : Fin 64) (cell : Cell) (ecc : EccFind) (s : State) : Result :=
  if dspOp cell = 2 then .next (s.dspCell cell ecc) else .next s

def execDspSync (_ring : Fin 64) (cell : Cell) (ecc : EccFind) (s : State) : Result :=
  if dspOp cell = 3 then .next (s.dspCell cell ecc) else .next s

/-! ### The AUX channel (R435, Table 17.5) -/

/-- Bytes of a transaction, and the data registers' bytes. -/
def Chip.auxLen (s : Chip) (h : Nat) : Nat := s.get (DSP_AUX_CTL_LEN h) + 1
def Chip.auxData (s : Chip) (h : Nat) : List Byte := (List.range 4).flatMap (fun k => leBytes (s.get (DSP_AUX_DATA_DATA h k)) 4)

/-- GO starts a transaction: its command and address go out, and the bytes of a write. -/
def auxGo (h : Nat) (s : Chip) : Chip :=
  if frameOn s = false ∨ s.on (DSP_AUX_STAT_BUSY h) then s
  else
    let cmd := s.get (DSP_AUX_CTL_CMD h)
    let data := if cmd % 2 = 1 then (s.auxData h).take (s.auxLen h) else []
    (s.put (DSP_AUX_STAT_BUSY h) 1).emit
      (.bytes "AUX" h (BitVec.ofNat 8 cmd :: leBytes (s.get (DSP_AUX_CTL_ADDR h)) 3 ++ [BitVec.ofNat 8 (s.auxLen h)] ++ data))

def execAuxGo (h : Fin 2) (s : State) : Result := s.onChip (auxGo h)

/-- The transaction ends with a reply; the bytes of an acknowledged read go to the data registers. -/
def auxDone (h reply : Nat) (data : List Byte) (s : Chip) : Chip :=
  if frameOn s = false ∨ s.get (DSP_AUX_STAT_BUSY h) = 0 then s
  else
    let s := (s.put (DSP_AUX_STAT_BUSY h) 0).put (DSP_AUX_STAT_REPLY h) reply
    let n := s.auxLen h
    let s := if reply = 0 ∧ s.get (DSP_AUX_CTL_CMD h) % 2 = 0 then
        let b := data.take n ++ (s.auxData h).drop (min n data.length)
        (List.range 4).foldl (fun (s : Chip) k => s.put (DSP_AUX_DATA_DATA h k) (rd b (4 * k) 4)) s
      else s
    s.evt (DSP_EVT_AUX_DONE h)

def execAuxDone (h : Fin 2) (reply : Fin 4) (data : List Byte) (s : State) : Result := s.onChip (auxDone h reply data)

end Sys2Proof.Machine
end

