-- ==== Sys2Proof/Machine/Intake.lean ====
section
/-! DEFINITION. Supply monitors, the shutter's release, and the intake channels: ramps, breakers, trips, power good, damaged pass
elements and the channels' owner (spec/18_field_io_and_shutter.md R463; spec/19_harness_intake_and_docks.md R466–R481;
spec/20_power_states.md R505). -/

namespace Sys2Proof.Machine
open Sys2Proof Sys2Proof.Machine.Reg

/-! ### Supply monitors (spec/20_power_states.md R505) -/

/-- A rail has lain outside its limits for 2 µs. -/
def supplyTrip (rail : Fin 6) (s : Chip) : Chip :=
  if bit (s.get PWR_MON_TRIP) rail then s
  else ((((s.setBitOf PWR_MON_TRIP rail).evt PWR_EVT_SUPPLY).live causeSupply true).shutter causeSupply)

def execSupplyTrip (rail : Fin 6) (s : State) : Result := s.onChip (supplyTrip rail)

/-- A tripped rail lies within its limits again. -/
def supplyRailRestored (rail : Fin 6) (s : Chip) : Chip :=
  let s := s.clrBitOf PWR_MON_TRIP rail
  if s.get PWR_MON_TRIP = 0 then s.live causeSupply false else s

def execSupplyRailRestored (rail : Fin 6) (s : State) : Result := s.onChip (supplyRailRestored rail)

/-! ### Release of the shutter (spec/18_field_io_and_shutter.md R463, R464) -/

/-- The release of a shuttered node whose causes are all acknowledged and none of which is live. -/
def Chip.release (s : Chip) : Chip :=
  let s := (((s.put FLD_SHUT_CAUSE_CAUSE 0).put FLD_SHUT_STAT_SHUT 0).put FLD_SHUT_STAT_DONE 0).emit (.pin "SHUTTER_N" 0 1)
  (s.evt FLD_EVT_RELEASE).unlockPower

/-- SHUTTER_RELEASE with ACK in bits [12:0] (R463). -/
def shutterRelease (id : SlotId) (s : Chip) : Chip :=
  s.startOrder id 0x60 anyBody (fun s _ body =>
    let cause := s.get FLD_SHUT_CAUSE_CAUSE
    let live := s.get FLD_SHUT_LIVE_LIVE
    let ack := rd body 0 4
    if body.length ≠ 4 ∨ 8192 ≤ ack then s.docketReady id stBadArgs []
    else if s.shuttered = false then s.docketReady id stDone [0, 0, 0, 0]
    else if live ≠ 0 ∨ cause &&& ack ≠ cause then s.docketReady id stRefused (leBytes cause 4 ++ leBytes live 4)
    else s.release.docketReady id stDone (leBytes cause 4))

def execShutterRelease (at_ : SlotId) (s : State) : Result := s.onChip (shutterRelease at_)

/-! ### Channels -/

/-- D0 and D1 are channels 2 and 3. -/
def isDock (c : Nat) : Bool := c == 2 || c == 3

/-- A channel that the shutter locks: FPWR, and a dock in the source direction (R480). -/
def Chip.lockable (s : Chip) (c : Nat) : Bool := c == 5 || isDock c && s.get (HVI_CH_CTL_DIR c) == 0

/-- The channel's pass element is driven: it ramps or is on. -/
def Chip.chanOn (s : Chip) (c : Nat) : Bool := s.get (HVI_CH_STAT_STATE c) == 1 || s.get (HVI_CH_STAT_STATE c) == 2

/-- STATE of a channel that is open and neither Tripped nor Damaged (R480). -/
def Chip.offState (s : Chip) (c : Nat) : Nat := if s.shuttered && s.lockable c then 5 else 0

/-- Neither harness feed is good while a dock sinks: field power and dock sourcing stay open (R481). -/
def Chip.onDockPower (s : Chip) : Bool :=
  !s.on (HVI_CH_STAT_PG 0) && !s.on (HVI_CH_STAT_PG 1)
    && [2, 3].any (fun d => s.get (HVI_CH_CTL_DIR d) == 1 && s.chanOn d)

/-- A limit or a breaker field of a channel: while the Lodge runs the channels, HA and HB use their fused ones (R479). -/
def Chip.chanLimit (s : Chip) (c : Nat) (f : Fld) : Nat :=
  if c < 2 ∧ s.get HVI_CTL_OWNER = 0 then s.fused f else s.get f

/-- T_k of a breaker point, in samples of 1 µs (R472). -/
def Chip.pointTime (s : Chip) (c k : Nat) : Nat :=
  if s.chanLimit c (HVI_BRK_UNIT c k) = 1 then 1000 * s.chanLimit c (HVI_BRK_T c k) else s.chanLimit c (HVI_BRK_T c k)

/-- Enabled breaker points: current, and time in samples (R472). -/
def Chip.points (s : Chip) (c : Nat) : List (Nat × Nat) :=
  ((List.range 8).filter (fun k => s.chanLimit c (HVI_BRK_I c k) != 0xFFFF)).map (fun k => (s.chanLimit c (HVI_BRK_I c k), s.pointTime c k))

/-- Strictly ascending currents with non-increasing times (R471). -/
def pointsOrdered (l : List (Nat × Nat)) : Bool :=
  match l with
  | a :: b :: r => decide (a.1 < b.1) && decide (b.2 ≤ a.2) && pointsOrdered (b :: r)
  | _ => true

/-- May the channel be switched on (R471, R480, R481)? -/
def Chip.mayClose (s : Chip) (c : Nat) : Bool :=
  let st := s.get (HVI_CH_STAT_STATE c)
  !(st == 3 || st == 4 || st == 5) && !(s.shuttered && s.lockable c) && !(s.onDockPower && s.lockable c)
    && !(s.points c).isEmpty && pointsOrdered (s.points c)

/-- The ramp starts (R470). -/
def Chip.startRamp (s : Chip) (c : Nat) : Chip := (s.put (HVI_CH_CTL_ON c) 1).put (HVI_CH_STAT_STATE c) 1

/-- A channel's limits: UV and OV, or ±5 % about the contract voltage at a sourcing dock (R474, R477), in 10 mV. -/
def Chip.limits (s : Chip) (c : Nat) : Nat × Nat :=
  if isDock c ∧ s.get (HVI_CH_CTL_DIR c) = 0 then
    let v := [500, 900, 1500, 2000].getD (s.get (DCK_TC_STAT_VSEL (c - 2))) 500
    (v * 95 / 100, v * 105 / 100)
  else (s.chanLimit c (HVI_CH_LIMITS_UV c), s.chanLimit c (HVI_CH_LIMITS_OV c))

def Chip.chan (s : Chip) (c : Nat) : Chan := mget {} s.hvi c
def Chip.setChan (s : Chip) (c : Nat) (x : Chan) : Chip := { s with hvi := mset {} s.hvi c x }

/-- PG takes a value; a change sets its event (R476). -/
def Chip.setPg (s : Chip) (c : Nat) (b : Bool) : Chip :=
  if s.on (HVI_CH_STAT_PG c) = b then s
  else
    let s := (s.put (HVI_CH_STAT_PG c) (b2n b)).evtBit HVI_EVT_PG_CHG c
    if c = 4 ∧ b = false then s.upwrLost else s

/-- A trip (R475). -/
def Chip.trip (s : Chip) (c cause : Nat) : Chip :=
  let s := (s.openChannel c 3).put (HVI_CH_STAT_CAUSE c) cause
  (s.inc (HVI_TRIP_CNT c)).evtBit HVI_EVT_TRIP c

/-- Field power and dock sourcing are opened where R481 keeps them so. -/
def Chip.enforceDockPower (s : Chip) : Chip :=
  if s.onDockPower then
    [5, 2, 3].foldl (fun (s : Chip) c => if s.lockable c && s.chanOn c then s.openChannel c 0 else s) s
  else s

/-! ### Writes of CH_CTL (R470, R471, R475) -/

/-- ON is written while Steward owns the channels. -/
def Chip.writeOn (s : Chip) (c v : Nat) : Chip :=
  if v = 0 then
    if s.chanOn c then s.openChannel c (s.offState c) else s.put (HVI_CH_CTL_ON c) 0
  else if s.chanOn c then s
  else if s.mayClose c then s.startRamp c
  else s.evt HVI_EVT_CFG_ERR

/-- CLEAR of a Tripped channel: Off, ON 0, RETRIES 0 (R475). -/
def Chip.clearTrip (s : Chip) (c : Nat) : Chip :=
  if s.get (HVI_CH_STAT_STATE c) = 3 then
    ((s.put (HVI_CH_STAT_STATE c) (s.offState c)).put (HVI_CH_CTL_ON c) 0).put (HVI_CH_STAT_RETRIES c) 0
  else s

/-- DIR of a dock: a channel that is driven is opened before its direction changes, and an open one is Locked or not as its new
direction is (R480). -/
def Chip.writeDir (s : Chip) (c v : Nat) : Chip :=
  if isDock c = false ∨ s.get (HVI_CH_CTL_DIR c) = v then s
  else
    let s := if s.chanOn c then s.openChannel c 0 else s
    let s := s.put (HVI_CH_CTL_DIR c) v
    if s.get (HVI_CH_STAT_STATE c) = 0 ∨ s.get (HVI_CH_STAT_STATE c) = 5 then s.put (HVI_CH_STAT_STATE c) (s.offState c) else s

/-- A write of CH_CTL_c. While the Lodge owns the channels it keeps ON and DIR (R479). -/
def chCtl (c v : Nat) (s : Chip) : Chip :=
  let s := if 1 ≤ bits v 2 6 ∧ bits v 2 6 ≤ 40 then s.put (HVI_CH_CTL_RAMP c) (bits v 2 6) else s
  let s := s.put (HVI_CH_CTL_RETRY_LIM c) (bits v 8 3)
  let s := if bits v 11 8 = 0 then s else s.put (HVI_CH_CTL_RETRY_INT c) (bits v 11 8)
  let s := if s.get HVI_CTL_OWNER = 0 then s else (s.writeDir c (bits v 1 1)).writeOn c (bits v 0 1)
  if bits v 19 1 = 1 then s.clearTrip c else s

def execOn (c : Fin 6) (value : Word) (s : State) : Result := s.onChip (chCtl c value.toNat)

def execClear (c : Fin 6) (s : State) : Result := s.onChip (fun s => s.clearTrip c)

/-! ### Samples (R469, R472, R474, R476, R477) -/

/-- A 12-bit code scaled to a full-scale value: the highest code is full scale. -/
def scaled (code fs : Nat) : Nat := code * fs / 4095

/-- The breaker timers after a sample with a current. -/
def Chip.runTimers (s : Chip) (c cur : Nat) (t : List Nat) : List Nat :=
  (List.range 8).map (fun k =>
    if s.chanLimit c (HVI_BRK_I c k) ≠ 0xFFFF ∧ s.chanLimit c (HVI_BRK_I c k) ≤ cur then t.getD k 0 + 1 else 0)

/-- A sample of a channel that ramps or is on: faults before PG. -/
def Chip.sampleOn (s : Chip) (c vout cur : Nat) : Chip :=
  let lim := s.limits c
  let x := s.chan c
  if lim.2 < vout ∧ lim.2 ≠ 0xFFFF then s.trip c 3
  else
    let past := s.get (HVI_CH_STAT_STATE c) = 2
    let timers := s.runTimers c cur x.timers
    let uv := if past ∧ vout < lim.1 ∧ x.changing = false then x.uv + 1 else 0
    let s := s.setChan c { x with timers := timers, uv := uv }
    let fault := decide (uv ≠ 0) || timers.any (fun t => t != 0)
    let s := s.put (HVI_CH_STAT_FAULT_TMR c) (b2n fault)
    let s := if past ∨ vout < lim.1 then s else (s.put (HVI_CH_STAT_STATE c) 2).put (HVI_CH_STAT_RETRIES c) 0
    s.setPg c (decide (s.get (HVI_CH_STAT_STATE c) = 2) && decide (lim.1 ≤ vout) && !fault && !x.changing)

/-- A sample of one channel. A harness channel that the Lodge keeps on starts its ramp (R479), but
in Dormant (spec/20_power_states.md R500). -/
def Chip.sampleChannel (s : Chip) (c : Nat) (x : ChSample) : Chip :=
  let vout := scaled x.vout.toNat (s.get (HVI_CH_SCALE_V_FS c))
  let cur := scaled x.cur.toNat (s.get (HVI_CH_SCALE_I_FS c))
  let s := (s.put (HVI_CH_MEAS_VOUT c) vout).put (HVI_CH_MEAS_I c) cur
  let s := if isDock c then s.put (DCK_TC_STAT_VBUS_PRES (c - 2)) (b2n (decide (400 < vout))) else s
  let s := if c < 2 ∧ s.get HVI_CTL_OWNER = 0 ∧ s.get (HVI_CH_STAT_STATE c) = 0 ∧ s.get PWR_STAT_STATE ≠ 3 then s.startRamp c else s
  if s.chanOn c then s.sampleOn c vout cur else s

def hviSample (channels : List ChSample) (vinA vinB : BitVec 12) (s : Chip) : Chip :=
  let s := (s.put HVI_VIN_A_VIN (scaled vinA.toNat 6600)).put HVI_VIN_B_VIN (scaled vinB.toNat 6600)
  ((List.range 6).foldl (fun (s : Chip) c => s.sampleChannel c (channels.getD c ⟨0, 0⟩)) s).enforceDockPower

def execHviSample (channels : List ChSample) (vinA vinB : BitVec 12) (s : State) : Result :=
  s.onChip (hviSample channels vinA vinB)

/-! ### Trips and retries (R470, R472, R473, R475) -/

/-- The lowest enabled point whose timer has run its time. -/
def Chip.reachedPoint (s : Chip) (c : Nat) : Option Nat :=
  (List.range 8).find? (fun k =>
    let t := (s.chan c).timers.getD k 0
    t != 0 && decide (s.pointTime c k ≤ t))

def breakerTrip (c : Fin 6) (s : Chip) : Chip :=
  if s.chanOn c then
    match s.reachedPoint c with
    | some k => ((s.trip c 1).put (HVI_CH_STAT_POINT c) k).enforceDockPower
    | none => s
  else s

def execBreakerTrip (c : Fin 6) (s : State) : Result := s.onChip (breakerTrip c)

def hardTrip (c : Fin 6) (s : Chip) : Chip := if s.chanOn c then (s.trip c 2).enforceDockPower else s

def execHardTrip (c : Fin 6) (s : State) : Result := s.onChip (hardTrip c)

def rampTimeout (c : Fin 6) (s : Chip) : Chip :=
  if s.get (HVI_CH_STAT_STATE c) = 1 then (s.trip c 4).enforceDockPower else s

def execRampTimeout (c : Fin 6) (s : State) : Result := s.onChip (rampTimeout c)

/-- A channel that the Lodge keeps open while it runs the channels: UPWR, FPWR and a dock's source direction (R479). -/
def Chip.lodgeHolds (s : Chip) (c : Nat) : Bool :=
  s.get HVI_CTL_OWNER == 0 && (c == 4 || c == 5 || isDock c && s.get (HVI_CH_CTL_DIR c) == 0)

/-- RETRY_INT after a trip the ramp is restarted, unless the channel is locked or held open (R475, R479, R480, R481). -/
def tripRetry (c : Fin 6) (s : Chip) : Chip :=
  if s.get (HVI_CH_STAT_STATE c) = 3 ∧ s.get (HVI_CH_STAT_RETRIES c) < s.get (HVI_CH_CTL_RETRY_LIM c)
      ∧ s.on (HVI_CH_CTL_ON c) ∧ s.lodgeHolds c = false ∧ (s.lockable c && (s.shuttered || s.onDockPower)) = false
  then (s.inc (HVI_CH_STAT_RETRIES c)).put (HVI_CH_STAT_STATE c) 1
  else s

def execTripRetry (c : Fin 6) (s : State) : Result := s.onChip (tripRetry c)

/-! ### Damaged pass elements (R478) -/

def damaged (c : Fin 6) (s : Chip) : Chip :=
  if s.get (HVI_CH_CTL_ON c) = 0 ∧ s.get (HVI_CH_STAT_STATE c) ≠ 4
      ∧ (isDock c = false ∨ s.get (DCK_TC_STAT_STATE (c - 2)) ≠ 5)
  then (s.put (HVI_CH_STAT_STATE c) 4).evtBit HVI_EVT_DAMAGED c
  else s

def execDamaged (c : Fin 6) (s : State) : Result := s.onChip (damaged c)

def damageCleared (c : Fin 6) (s : Chip) : Chip :=
  if s.get (HVI_CH_STAT_STATE c) = 4 then s.put (HVI_CH_STAT_STATE c) (s.offState c) else s

def execDamageCleared (c : Fin 6) (s : State) : Result := s.onChip (damageCleared c)

/-! ### Owner, dock voltage changes (R477, R479) -/

/-- A write of OWNER: 1 is taken while Steward is alive (spec/20_power_states.md Table 20.3). -/
def Chip.writeOwner (s : Chip) (v : Bool) : Chip :=
  if v then (if s.domainOn 2 then s.put HVI_CTL_OWNER 1 else s) else s.ownerToLodge

def execOwner (value : Bool) (s : State) : Result := s.onChip (fun s => s.writeOwner value)

/-- VOUT enters the new window, or 275 ms have passed (R477). -/
def voltageChangeEnd (d : Fin 2) (s : Chip) : Chip := s.setChan (2 + d) { s.chan (2 + d) with changing := false }

def execVoltageChangeEnd (d : Fin 2) (s : State) : Result := s.onChip (voltageChangeEnd d)

end Sys2Proof.Machine
end

