-- ==== Sys2Proof/Machine/Docks.lean ====
section
/-! DEFINITION. The docks: Type-C attach and detach, moisture, and USB Power Delivery
(spec/19_harness_intake_and_docks.md R482–R491). The contract, roles and supply voltage follow the messages as log entry 21 says
(PRESUMED). -/

namespace Sys2Proof.Machine
open Sys2Proof Sys2Proof.Machine.Reg

def dckDisabled : Nat := 0
def dckSnk : Nat := 1
def dckSrc : Nat := 2
def dckAttachedSnk : Nat := 5
def dckAttachedSrc : Nat := 6
def dckWet : Nat := 7
def dckDischarging : Nat := 8

def Chip.dck (s : Chip) (d : Nat) : Dock := mget {} s.docks d
def Chip.setDck (s : Chip) (d : Nat) (x : Dock) : Chip := { s with docks := mset {} s.docks d x }
def Chip.dckState (s : Chip) (d : Nat) : Nat := s.get (DCK_TC_STAT_STATE d)

/-- The port is attached. -/
def Chip.attached (s : Chip) (d : Nat) : Bool := s.dckState d == dckAttachedSnk || s.dckState d == dckAttachedSrc

/-- What an unattached port presents: Rp alone under POLICY 1, Rd first otherwise (R482), and Rd while the Lodge owns the channels
(R479). -/
def Chip.unattached (s : Chip) (d : Nat) : Nat :=
  if s.get (DCK_TC_CTL_EN d) = 0 then dckDisabled
  else if s.on HVI_CTL_OWNER ∧ s.get (DCK_TC_CTL_POLICY d) = 1 then dckSrc else dckSnk

/-- The channel opens in both directions; one that is Tripped or Damaged stays so. -/
def Chip.openDock (s : Chip) (d : Nat) : Chip :=
  if s.chanOn (2 + d) then s.openChannel (2 + d) (s.offState (2 + d)) else s.put (HVI_CH_CTL_ON (2 + d)) 0

/-- Dd_VSEL takes a code (R484). -/
def Chip.setVsel (s : Chip) (d v : Nat) : Chip := (s.put (DCK_TC_STAT_VSEL d) v).emit (.pin "VSEL" d v)

/-- The dock's discharge switch (R484). -/
def Chip.setVdis (s : Chip) (d : Nat) (b : Bool) : Chip :=
  (s.setDck d { s.dck d with discharging := b }).emit (.pin "VDIS" d (b2n b))

/-- Any contract of the port ends, with what it had to send; VSEL returns to 5 V (R483, R490). -/
def Chip.endContract (s : Chip) (d : Nat) : Chip :=
  let s := (s.setVsel d 0).put (DCK_TC_STAT_CONTRACT d) 0
  let s := s.setDck d { fifo := (s.dck d).fifo, discharging := (s.dck d).discharging }
  s.setChan (2 + d) { s.chan (2 + d) with changing := false }

/-! ### Type-C (R482, R483, R486, R487) -/

/-- Half of a 75 ms period has passed (R482). -/
def drpToggle (d : Fin 2) (s : Chip) : Chip :=
  let st := s.dckState d
  if st ≠ dckSnk ∧ st ≠ dckSrc then s
  else if s.get (DCK_TC_CTL_POLICY d) = 0 ∧ s.on HVI_CTL_OWNER
    then s.put (DCK_TC_STAT_STATE d) (if st = dckSnk then dckSrc else dckSnk)
  else s.put (DCK_TC_STAT_STATE d) (s.unattached d)

def execDrpToggle (d : Fin 2) (s : State) : Result := s.onChip (drpToggle d)

/-- A source on a dock powers the Lodge: its channel closes in the sink direction (R479, R486). -/
def Chip.deadBattery (s : Chip) (d : Nat) : Chip :=
  if s.get HVI_CTL_OWNER = 0 ∧ s.get (HVI_CH_STAT_PG 0) = 0 ∧ s.get (HVI_CH_STAT_PG 1) = 0
  then ((s.writeDir (2 + d) 1).startRamp (2 + d)).put (DCK_TC_STAT_DEAD_BATT d) 1
  else s

/-- A detach can be decided: the port is attached, or became wet while attached (Coincidences: it then discharges). -/
def Chip.detachable (s : Chip) (d : Nat) : Bool := s.attached d || s.dckState d == dckWet && (s.dck d).wetAttached

/-- The detach of a port (R483); what waited to be sent is discarded (R490). -/
def detachPort (d : Fin 2) (s : Chip) : Chip :=
  if s.detachable d = false then s
  else
    let s := ((s.openDock d).endContract d).setVdis d true
    ((s.evt (DCK_EVT_VOID d)).evt (DCK_EVT_DETACH d)).put (DCK_TC_STAT_STATE d) dckDischarging

def execDetach (d : Fin 2) (s : State) : Result := s.onChip (detachPort d)

/-- VOUT reads at or below 0.8 V: the discharge ends, and a port in Discharging is Unattached (R483). -/
def dischargeDone (d : Fin 2) (s : Chip) : Chip :=
  let s := if (s.dck d).discharging then s.setVdis d false else s
  if s.dckState d = dckDischarging then s.put (DCK_TC_STAT_STATE d) (s.unattached d) else s

def execDischargeDone (d : Fin 2) (s : State) : Result := s.onChip (dischargeDone d)

/-- 600 ms after the detach VOUT is still above 0.8 V (R483). -/
def dischFail (d : Fin 2) (s : Chip) : Chip := if s.dckState d = dckDischarging then s.evt (DCK_EVT_DISCH_FAIL d) else s

def execDischFail (d : Fin 2) (s : State) : Result := s.onChip (dischFail d)

/-- A measurement, with its lowest reading in 10 kΩ units (R487). -/
def moistureCheck (d : Fin 2) (lowest : BitVec 8) (s : Chip) : Chip :=
  let st := s.dckState d
  if s.get (DCK_TC_CTL_MOIST_EN d) = 0 ∨ st = dckDisabled then s
  else
    let s := s.put (DCK_MOIST_LAST_MIN d) lowest.toNat
    let wet := decide (lowest.toNat < s.get (DCK_MOIST_WET_THR d))
    if st = dckWet then
      if wet then s else (s.put (DCK_TC_STAT_STATE d) (s.unattached d)).evt (DCK_EVT_DRY d)
    else if wet then
      let s := (s.openDock d).setDck d { s.dck d with wetAttached := s.attached d }
      ((s.put (DCK_TC_STAT_STATE d) dckWet).evt (DCK_EVT_WET d)).inc (DCK_WET_CNT d)
    else s

def execMoistureCheck (d : Fin 2) (lowest : BitVec 8) (s : State) : Result := s.onChip (moistureCheck d lowest)

/-- A write of TC_CTL_d (Table 19.4): EN 0 disables the port, whose contract then ends (DESIGN CHOICE, log entry 124), and a change of
POLICY changes what an unattached port presents. -/
def Chip.tcCtl (s : Chip) (d v : Nat) : Chip :=
  let was := s.get (DCK_TC_CTL_EN d)
  let old := s.get (DCK_TC_CTL_POLICY d)
  let s := s.put (DCK_TC_CTL_EN d) (bits v 0 1)
  let s := if bits v 1 2 = 3 then s else s.put (DCK_TC_CTL_POLICY d) (bits v 1 2)
  let s := if bits v 3 2 = 3 then s else s.put (DCK_TC_CTL_RP_LEVEL d) (bits v 3 2)
  let s := (s.put (DCK_TC_CTL_PD_EN d) (bits v 5 1)).put (DCK_TC_CTL_MOIST_EN d) (bits v 6 1)
  if s.get (DCK_TC_CTL_EN d) = 0 then (if was = 0 then s else ((s.openDock d).endContract d).put (DCK_TC_STAT_STATE d) dckDisabled)
  else if s.dckState d = dckDisabled ∨ (old ≠ s.get (DCK_TC_CTL_POLICY d) ∧ s.dckState d ≤ dckSrc)
    then s.put (DCK_TC_STAT_STATE d) (s.unattached d)
  else s

/-! ### Power Delivery messages (R488–R491) -/

/-- Message types of the PD specification that the supported messages have (PRESUMED, log entry 21): control messages carry no objects. -/
def pdGoodCrc : Nat := 1
def pdAccept : Nat := 3
def pdReject : Nat := 4
def pdDrSwap : Nat := 9
def pdPrSwap : Nat := 10
def pdWait : Nat := 12
def pdSoftReset : Nat := 13
def pdNotSupported : Nat := 16
def pdSourceCaps : Nat := 1
def pdRequest : Nat := 2

/-- Header fields. -/
def pdType (h : Nat) : Nat := bits h 0 5
def pdId (h : Nat) : Nat := bits h 9 3
def pdCount (h : Nat) : Nat := bits h 12 3
def pdIsControl (h t : Nat) : Bool := pdCount h == 0 && pdType h == t
def pdIsData (h t : Nat) : Bool := pdCount h != 0 && pdType h == t
def pdIsSwap (h : Nat) : Bool := pdIsControl h pdDrSwap || pdIsControl h pdPrSwap

/-- A message on the wire: header and objects, with their CRC (R489). -/
def pdBytes (h : Nat) (objs : List Nat) : List Byte :=
  let b := leBytes h 2 ++ objs.flatMap (fun o => leBytes o 4)
  b ++ leBytes (crc32e b) 4

def Chip.pdSend (s : Chip) (d h : Nat) (objs : List Nat) : Chip := s.emit (.bytes "PD" d (pdBytes h objs))

/-- GoodCRC to a message with the given MessageID, with the port's roles (R489). -/
def Chip.goodCrc (s : Chip) (d id : Nat) : Chip :=
  s.pdSend d (pdGoodCrc + 32 * s.get (DCK_TC_STAT_DROLE d) + 64 * 2 + 256 * s.get (DCK_TC_STAT_PROLE d) + 512 * id) []

/-- The VSEL code of the supply that a Request names among the source capabilities. -/
def requestVsel (caps objs : List Nat) : Nat :=
  let v := bits (caps.getD (bits (objs.getD 0 0) 28 3 - 1) 100) 10 10
  if v < 180 then 0 else if v < 300 then 1 else if v < 400 then 2 else 3

/-- An Accept of the last proposal: a Request makes an explicit contract, at whose voltage a sourcing dock sets Dd_VSEL, and a swap
changes a role (PRESUMED, log entry 21). -/
def Chip.accepted (s : Chip) (d : Nat) (offer : Nat × Nat) : Chip :=
  if offer.1 = pdRequest then
    let changed := decide (s.get (DCK_TC_STAT_VSEL d) ≠ offer.2)
    let s := ((s.put (DCK_TC_STAT_CONTRACT d) 1).evt (DCK_EVT_CONTRACT d)).setVsel d offer.2
    if changed ∧ s.on (DCK_TC_STAT_PROLE d) then s.setChan (2 + d) { s.chan (2 + d) with changing := true, uv := 0 } else s
  else if offer.1 = pdDrSwap then s.put (DCK_TC_STAT_DROLE d) (1 - s.get (DCK_TC_STAT_DROLE d))
  else
    let s := s.put (DCK_TC_STAT_PROLE d) (1 - s.get (DCK_TC_STAT_PROLE d))
    s.put (DCK_TC_STAT_STATE d) (if s.on (DCK_TC_STAT_PROLE d) then dckAttachedSrc else dckAttachedSnk)

/-- A message has passed either way. -/
def Chip.pdTrack (s : Chip) (d h : Nat) (objs : List Nat) : Chip :=
  let x := s.dck d
  if pdIsData h pdSourceCaps then s.setDck d { x with caps := objs }
  else if pdIsData h pdRequest then s.setDck d { x with offer := some (pdRequest, requestVsel x.caps objs) }
  else if pdIsSwap h then s.setDck d { x with offer := some (pdType h, 0) }
  else if pdIsControl h pdAccept then
    let s := s.setDck d { x with offer := none, swapOut := false }
    match x.offer with
    | some o => s.accepted d o
    | none => s
  else if pdIsControl h pdReject ∨ pdIsControl h pdWait ∨ pdIsControl h pdNotSupported
    then s.setDck d { x with offer := none, swapOut := false }
  else s

/-- A message that leaves with the next MessageID, one at a time (R489). -/
def Chip.pdStart (s : Chip) (d h : Nat) : Chip :=
  let x := s.dck d
  if s.attached d = false ∨ s.get (DCK_TC_CTL_PD_EN d) = 0 ∨ x.sent.isSome then s
  else
    let h := h - 512 * pdId h + 512 * x.txId
    let objs := (List.range (pdCount h)).map (fun k => s.get (DCK_PD_TXDO_DO d k))
    (s.setDck d { x with sent := some (h, objs), tries := 0, swapOut := x.swapOut || pdIsSwap h }).pdSend d h objs

/-- Hard Reset signalling, sent by an attached port. -/
def Chip.pdReset (s : Chip) (d : Nat) : Chip :=
  if s.attached d = false ∨ s.get (DCK_TC_CTL_PD_EN d) = 0 then s
  else (s.emit (.pin "HARD_RESET" d 1)).inc (DCK_HARD_RESET_CNT d)

/-- A request that waits while CC reads open (R490); there is nothing to hold without an attached port. -/
def Chip.pdHold (s : Chip) (d : Nat) (r : Option Nat) : Chip :=
  if s.attached d = false ∨ s.get (DCK_TC_CTL_PD_EN d) = 0 then s
  else s.setDck d { s.dck d with held := (s.dck d).held ++ [r] }

/-- A held request is sent. -/
def Chip.pdHeld (s : Chip) (d : Nat) (r : Option Nat) : Chip :=
  match r with
  | none => s.pdReset d
  | some h => s.pdStart d h

/-- How CC reads at an attached port. When it returns, what was held is sent (R490). -/
def Chip.readCc (s : Chip) (d : Nat) (isOpen : Bool) : Chip :=
  if s.attached d = false then s
  else
    let was := (s.dck d).held
    let s := s.setDck d { s.dck d with ccOpen := isOpen, held := if isOpen then was else [] }
    if isOpen then s else was.foldl (fun (s : Chip) r => s.pdHeld d r) s

/-- GO: the message in HEADER and the data objects is sent; a Soft_Reset waits while CC reads open (R489, R490). -/
def Chip.pdGo (s : Chip) (d : Nat) : Chip :=
  let h := s.get (DCK_PD_TXHDR_HEADER d)
  if (s.dck d).ccOpen && pdIsControl h pdSoftReset then s.pdHold d (some h) else s.pdStart d h

/-- HARD_RESET: sent by an attached port, or held while CC reads open (R490). -/
def Chip.pdHardReset (s : Chip) (d : Nat) : Chip := if (s.dck d).ccOpen then s.pdHold d none else s.pdReset d

/-- A write of PD_TXHDR_d. -/
def pdTxhdr (d v : Nat) (s : Chip) : Chip :=
  let s := s.put (DCK_PD_TXHDR_HEADER d) (bits v 0 16)
  let s := if bit v 16 then s.pdGo d else s
  if bit v 17 then s.pdHardReset d else s

/-- PD_TX_GO, with how CC reads at the write. -/
def execPdTxGo (d : Fin 2) (value : Word) (ccOpen : Bool) (s : State) : Result :=
  s.onChip (fun c => pdTxhdr d value.toNat (c.readCc d ccOpen))

/-- CC levels have stood for 150 ms: the port attaches as source or as sink, as it presented itself (R482).
At a port that is attached they say that CC no longer reads open (R490). -/
def attach (d : Fin 2) (orient source : Bool) (rp : Fin 3) (s : Chip) : Chip :=
  if s.attached d then s.readCc d false
  else if s.dckState d ≠ (if source then dckSrc else dckSnk) then s
  else
    let s := s.put (DCK_TC_STAT_STATE d) (if source then dckAttachedSrc else dckAttachedSnk)
    let s := (s.put (DCK_TC_STAT_ORIENT d) (b2n orient)).put (DCK_TC_STAT_PROLE d) (b2n source)
    let s := (s.put (DCK_TC_STAT_DROLE d) (b2n source)).put (DCK_TC_STAT_PARTNER_RP d) (if source then 0 else rp)
    let s := (s.evt (DCK_EVT_ATTACH d)).inc (DCK_ATTACH_CNT d)
    if source then s else s.deadBattery d

def execAttach (d : Fin 2) (orient source : Bool) (rp : Fin 3) (s : State) : Result := s.onChip (attach d orient source rp)

/-- No GoodCRC within 1.0 ms: two retries, and then TX_FAIL (R489). A Soft_Reset is not sent again while CC reads open (R490). -/
def goodcrcTimeout (d : Fin 2) (s : Chip) : Chip :=
  let x := s.dck d
  match x.sent with
  | none => s
  | some m =>
    if x.ccOpen && pdIsControl m.1 pdSoftReset then (s.setDck d { x with sent := none, tries := 0 }).pdHold d (some m.1)
    else if x.tries < 2 then (s.setDck d { x with tries := x.tries + 1 }).pdSend d m.1 m.2
    else
      let s := s.setDck d { x with sent := none, tries := 0, swapOut := x.swapOut && !pdIsSwap m.1 }
      (s.evt (DCK_EVT_TX_FAIL d)).inc (DCK_TX_FAIL_CNT d)

def execGoodcrcTimeout (d : Fin 2) (s : State) : Result := s.onChip (goodcrcTimeout d)

/-- A GoodCRC with the MessageID of the message that waits for it. -/
def Chip.pdAcked (s : Chip) (d id : Nat) : Chip :=
  let x := s.dck d
  match x.sent with
  | none => s
  | some m =>
    if pdId m.1 ≠ id then s
    else
      let s := s.setDck d { x with sent := none, tries := 0, txId := (x.txId + 1) % 8 }
      (s.evt (DCK_EVT_TX_DONE d)).pdTrack d m.1 m.2

/-- A message that is accepted into the FIFO (R489, R491). -/
def Chip.pdQueue (s : Chip) (d h : Nat) (objs : List Nat) : Chip :=
  let x := s.dck d
  let s := (s.goodCrc d (pdId h)).setDck d { x with fifo := x.fifo ++ [(h, objs)], lastRx := pdId h + 1 }
  let s := s.evt (DCK_EVT_RX d)
  let s := if pdIsSwap h && x.swapOut then s.evt (DCK_EVT_COLLISION d) else s
  s.pdTrack d h objs

def pdMessageRx (d : Fin 2) (header : BitVec 16) (objects : List Word) (s : Chip) : Chip :=
  let h := header.toNat
  let x := s.dck d
  if s.attached d = false ∨ s.get (DCK_TC_CTL_PD_EN d) = 0 then s
  else if pdIsControl h pdGoodCrc then s.pdAcked d (pdId h)
  else if x.lastRx = pdId h + 1 ∧ pdIsControl h pdSoftReset = false then s.goodCrc d (pdId h)
  else if 4 ≤ x.fifo.length then s
  else s.pdQueue d h ((objects.take (pdCount h)).map (·.toNat))

def execPdMessageRx (d : Fin 2) (header : BitVec 16) (objects : List Word) (s : State) : Result :=
  s.onChip (fun c => pdMessageRx d header objects (c.readCc d false))

/-- HARD_RESET, with how CC reads at the request. -/
def execHardReset (d : Fin 2) (ccOpen : Bool) (s : State) : Result := s.onChip (fun c => (c.readCc d ccOpen).pdHardReset d)

/-- Hard Reset signalling is received (R488). -/
def hardResetRx (d : Fin 2) (s : Chip) : Chip :=
  if s.attached d ∧ s.on (DCK_TC_CTL_PD_EN d) then (s.evt (DCK_EVT_HARD_RESET_RX d)).inc (DCK_HARD_RESET_CNT d) else s

def execHardResetRx (d : Fin 2) (s : State) : Result := s.onChip (fun c => hardResetRx d (c.readCc d false))

/-- A read of PD_RXHDR_d pops the FIFO and latches the data objects (Table 19.4). -/
def pdRxhdr (d : Fin 2) (s : Chip) : Chip :=
  let x := s.dck d
  match x.fifo with
  | [] => ((s.put (DCK_PD_RXHDR_HEADER d) 0).put (DCK_PD_RXHDR_FILL d) 0).put (DCK_PD_RXHDR_VALID d) 0
  | m :: r =>
    let s := s.setDck d { x with fifo := r }
    let s := ((s.put (DCK_PD_RXHDR_HEADER d) m.1).put (DCK_PD_RXHDR_FILL d) r.length).put (DCK_PD_RXHDR_VALID d) 1
    (List.range 7).foldl (fun (s : Chip) k => s.put (DCK_PD_RXDO_DO d k) (m.2.getD k 0)) s

def execPdRxhdr (d : Fin 2) (s : State) : Result := s.onChip (pdRxhdr d)

end Sys2Proof.Machine
end

