-- ==== Sys2Proof/Machine/Eth.lean ====
section
/-! DEFINITION. The Ethernet ports (spec/15_ethernet_and_storage.md R395–R403, R412) and the mirror frames of ETH1
(spec/06_switch_core.md R176). -/

namespace Sys2Proof.Machine
open Sys2Proof Sys2Proof.Machine.Reg

def ethOn (s : Chip) : Bool := s.domainOn 11

def Chip.ethPort (s : Chip) (p : Nat) : EthPort := mget {} s.ends.eth p
def Chip.setEth (s : Chip) (p : Nat) (x : EthPort) : Chip := { s with ends := { s.ends with eth := mset {} s.ends.eth p x } }

/-! ### The link (R396) -/

/-- PCS lock, and FEC lock where FEC is on, have held for LINK_FILT. -/
def ethUp (p : Nat) (s : Chip) : Chip :=
  if ethOn s = false ∨ s.get (ETH_CTL_EN p) = 0 ∨ s.on (ETH_STAT_LINK p) then s
  else
    let s := ((s.put (ETH_STAT_LINK p) 1).put (ETH_STAT_BLOCK_LOCK p) 1).put (ETH_STAT_FEC_LOCK p) (b2n (s.get (ETH_CTL_FEC p) ≠ 0))
    s.evt (ETH_EVT_LINK_UP p)

def execEthLinkUp (p : Fin 2) (s : State) : Result := s.onChip (ethUp p.val)

/-- A descriptor that is a frame of its own: a mirror copy, or a cell for another row. -/
def DescUse.alone : DescUse → Bool
  | .mirror _ _ | .row => true
  | _ => false

/-- Frames whose last cell is queued at a port: what a flush of the port loses (R401). -/
def Chip.ethFrames (s : Chip) (p : Nat) : Nat :=
  ((s.portDescs (4 + p)).filter (fun d => d.use.alone || (s.block d.blk).cell.eom)).length

/-- A bad frame, or frames that a flush loses (R400, R401). -/
def Chip.ethBad (s : Chip) (p n : Nat) : Chip := if n = 0 then s else (s.addSat (ETH_TX_BAD p) n).evt (ETH_EVT_TX_BAD p)

def Chip.ethDrop (s : Chip) (p : Nat) : Chip := (s.inc (ETH_RX_DROP p)).evt (ETH_EVT_RX_DROP p)

/-- The port goes down under R177; `part` says that a frame was partly received, which is discarded and counted (R396). -/
def Chip.ethDown (s : Chip) (p : Nat) (part : Bool) : Chip :=
  if s.get (ETH_STAT_LINK p) = 0 then s
  else
    let s := if part then s.ethDrop p else s
    let s := (((s.put (ETH_STAT_LINK p) 0).put (ETH_STAT_BLOCK_LOCK p) 0).put (ETH_STAT_FEC_LOCK p) 0).put (ETH_STAT_PAUSED p) 0
    ((s.ethBad p (s.ethFrames p)).endDown (4 + p)).evt (ETH_EVT_LINK_DOWN p)

/-- Lock has been lost for LINK_FILT, or EN is cleared (R396). -/
def execEthLinkDown (p : Fin 2) (part : Bool) (s : State) : Result := s.onChip (fun c => c.ethDown p.val part)

/-- The pause time of a received PAUSE frame runs out (R395). -/
def execPauseTimerExpiry (p : Fin 2) (s : State) : Result := s.onChip (fun c => c.put (ETH_STAT_PAUSED p.val) 0)

/-! ### Frame fields -/

/-- A big-endian field of a frame. -/
def wire (b : List Byte) (off k : Nat) : Nat := leNat (slice b off k).reverse

/-- The frame carries one 802.1Q tag; where its EtherType lies. -/
def tagged (b : List Byte) : Bool := decide (wire b 12 2 = 0x8100 ∧ wire b 16 2 ≠ 0x8100)
def typeAt (b : List Byte) : Nat := if wire b 12 2 = 0x8100 then 16 else 12

/-- The PTP message of a frame (R403): EtherType 0x88F7, or UDP over IPv4 to port 319. -/
def ptpOf (b : List Byte) : Option (List Byte) :=
  let t := typeAt b
  let ip := t + 2
  let ihl := 4 * (rd b ip 1 % 16)
  if wire b t 2 = 0x88F7 then some (b.drop (t + 2))
  else if wire b t 2 = 0x0800 ∧ rd b ip 1 / 16 = 4 ∧ rd b (ip + 9) 1 = 17 ∧ wire b (ip + ihl + 2) 2 = 319 then
    some (b.drop (ip + ihl + 8))
  else none

/-- The event message of a frame: type and sequenceId. -/
def eventOf (b : List Byte) : Option (Nat × Nat) :=
  match ptpOf b with
  | none => none
  | some m => if rd m 0 1 % 16 ≤ 3 then some (rd m 0 1 % 16, wire m 30 2) else none

/-- A stamp enters its FIFO, or is lost. -/
def Chip.tsLost (s : Chip) (p : Nat) : Chip := (s.inc (ETH_TS_OVF p)).evt (ETH_EVT_TS_OVF p)

/-- The receive stamp of a recognised message, and whether one was recorded. -/
def Chip.stampRx (s : Chip) (p : Nat) (b : List Byte) : Bool × Chip :=
  match eventOf b with
  | none => (false, s)
  | some (ty, seq) =>
    let x := s.ethPort p
    if 16 ≤ x.rxStamps.length then (false, s.tsLost p) else (true, s.setEth p { x with rxStamps := x.rxStamps ++ [(ty, seq, s.ns)] })

/-- The transmit stamp of a frame sent with TS 1. -/
def Chip.stampTx (s : Chip) (p cookie : Nat) : Chip :=
  let x := s.ethPort p
  if 16 ≤ x.txStamps.length then s.tsLost p else s.setEth p { x with txStamps := x.txStamps ++ [(cookie, s.ns)] }

/-! ### Receive (R397–R399, R402) -/

/-- Frame bytes that the receive buffer holds. -/
def Chip.ethHeld (s : Chip) (p : Nat) : Nat := ((s.ends.wait.filter (fun x => x.1 == 4 + p)).map (fun x => x.2.2.vlen)).foldl (· + ·) 0

/-- A frame for a ring: split into cells, or dropped whole where the buffer has no room. -/
def Chip.ethToRing (s : Chip) (p r : Nat) (b : List Byte) (tun : Nat) (ts vlan : Bool) : Chip :=
  if 32768 < s.ethHeld p + b.length then s.ethDrop p
  else (ethCells 2 b tun ts vlan).foldl (fun (s : Chip) c => s.endToRing (4 + p) r c) (s.inc (ETH_RX_OK p))

/-- The pseudo-wire entry that a tagged frame matches: the lowest (R402). -/
def Chip.pwOf (s : Chip) (p : Nat) (b : List Byte) : Option Nat :=
  if s.on (ETH_CTL_PW_EN p) ∧ tagged b then
    (List.range 1024).find? (fun t => s.on (ETH_PW_EN t) && decide (s.get (ETH_PW_VID t) = wire b 14 2 % 4096))
  else none

/-- The destination address matches (R397). -/
def Chip.ethMatch (s : Chip) (p : Nat) (b : List Byte) : Bool :=
  decide (slice b 0 6 = s.station p) || decide (rd b 0 6 = 2 ^ 48 - 1) || (s.on (ETH_CTL_ALLMULTI p) && decide (rd b 0 1 % 2 = 1))
    || s.on (ETH_CTL_PROMISC p)

/-- A PAUSE frame (Annex 31B), to its own multicast address or to the station: consumed, and honoured while PAUSE_RX is 1 (R395). -/
def Chip.isPause (s : Chip) (p : Nat) (b : List Byte) : Bool :=
  decide ((wire b 0 6 = 0x0180C2000001 ∨ slice b 0 6 = s.station p) ∧ wire b 12 2 = 0x8808 ∧ wire b 14 2 = 1)

def Chip.takePause (s : Chip) (p : Nat) (b : List Byte) : Chip :=
  let s := s.inc (ETH_PAUSE p)
  if s.on (ETH_CTL_PAUSE_RX p) then s.put (ETH_STAT_PAUSED p) (b2n (wire b 16 2 ≠ 0)) else s

/-- The management frame that an Ethernet frame carries (R352). A frame of 64 bytes may be padded: what is past the length that KIND, and
in a plain ORDER its LEN, gives is no part of it; the content of a keyed ORDER alone fills such a frame (DEDUCED, log entry 17). -/
def mgmtOf (b : List Byte) : List Byte :=
  let m := b.drop (typeAt b + 2)
  let tag := if rd m 5 1 = plainSlot then 0 else 16
  let want := if rd m 1 1 = 1 then (if tag = 0 then 32 + rd m 20 2 else m.length) else 20 + tag
  if b.length ≤ 60 ∧ want ≤ m.length then m.take want else m

/-- Whose management frame it is: of EtherType 0x88B5 for the station. -/
def Chip.isMgmt (s : Chip) (p : Nat) (b : List Byte) : Bool := decide (wire b (typeAt b) 2 = 0x88B5 ∧ slice b 0 6 = s.station p)

/-- An accepted frame goes to Porter, to its pseudo-wire's ring or to RXRING. Management travels on ETH0 alone (R352). An analysis port
gives no frame to a ring (spec/06_switch_core.md R174). -/
def Chip.ethAccept (s : Chip) (p : Nat) (b : List Byte) (pw : Option Nat) (stamped : Bool) : Chip :=
  if s.isMgmt p b then
    let s := s.inc (ETH_RX_OK p)
    if p = 0 then s.frameIn (.eth0 (BitVec.ofNat 48 (rd b 6 6))) (mgmtOf b) else s
  else if s.onlyMirrors (4 + p) then s.ethDrop p
  else match pw with
    | some e => s.ethToRing p (s.get (ETH_PW_RING e)) (b.take 12 ++ b.drop 16) e stamped true
    | none => if s.on (ETH_CFG_RXRING_EN p) then s.ethToRing p (s.get (ETH_CFG_RXRING p)) b 0 stamped false else s.ethDrop p

/-- A received frame with its FCS (R395, R397, R402). -/
def ethRx (p : Nat) (frame : List Byte) (s : Chip) : Chip :=
  let n := frame.length
  let b := frame.take (n - 4)
  if ethOn s = false ∨ s.get (ETH_STAT_LINK p) = 0 ∨ n < 64 ∨ s.get (ETH_CFG_MAXF p) < n then s
  else if rd frame (n - 4) 4 ≠ crc32e b then s.inc (ETH_RX_FCS p)
  else if s.isPause p b then s.takePause p b
  else
    let pw := if s.isMgmt p b then none else s.pwOf p b
    if pw.isNone ∧ s.ethMatch p b = false then s
    else
      let t := s.stampRx p b
      t.2.ethAccept p b pw t.1

def execEthFrameRx (p : Fin 2) (frame : List Byte) (s : State) : Result := s.onChip (ethRx p.val frame)

/-! ### Transmit (R400, R401; spec/06_switch_core.md R176) -/

/-- The descriptors of the first frame of a queue, up to its EOM cell; a mirror copy and a cell for another row are frames of their own. -/
def Chip.firstFrame (s : Chip) (l : List Desc) : Option (List Desc) :=
  match l with
  | [] => none
  | d :: r =>
    match d.use with
    | .tunnel _ => none
    | u =>
      if u.alone ∨ (s.block d.blk).cell.eom then some [d]
      else match s.firstFrame r with
        | some f => some (d :: f)
        | none => none

/-- The frame bytes of a run of cells. -/
def Chip.frameBytes (s : Chip) (l : List Desc) : List Byte :=
  l.flatMap (fun d => (s.block d.blk).cell.data.take ((s.block d.blk).cell.vlen))

/-- Fit and cost: the frame bytes with FCS and tag, never fewer than 64, and 20 more on the wire (R401, R192, R195). -/
def Chip.frameCost (s : Chip) (f : List Desc) : Nat :=
  match f with
  | [] => 84
  | d :: _ =>
    let h := (s.block d.blk).cell
    if d.use.isMirror then 166
    else if d.use = .row then max 64 Config.rowFrameBytes + 20
    else max 64 (h.field 0 16 + 4 + (if h.field 35 1 = 1 then 4 else 0)) + 20

/-- The cost of the first frame of a queue. -/
def Chip.queueCost (s : Chip) (p q : Nat) : Nat := s.frameCost ((s.firstFrame (s.queue (4 + p) q)).getD [])

/-- A frame's duration on the wire, in 2^-32 ns. -/
def Chip.frameTime (s : Chip) (p cost : Nat) : Nat :=
  let r := if s.get (ETH_CTL_SPEED p) = 0 then 25 else 10
  (cost * 8 * 2 ^ 32 + r - 1) / r

/-- A queue has a whole frame that may be sent (R188, R401). -/
def Chip.frameReady (s : Chip) (p q : Nat) : Bool :=
  (s.firstFrame (s.queue (4 + p) q)).isSome && s.eligible (4 + p) q (s.frameTime p (s.queueCost p q))

/-- The bytes on the wire: padded to 60, tagged, and the FCS appended. -/
def Chip.wireFrame (s : Chip) (b : List Byte) (tag : Option Nat) : List Byte :=
  let b := b ++ List.replicate (60 - b.length) 0
  let b := match tag with
    | some t => b.take 12 ++ [0x81, 0x00] ++ (leBytes (s.get (ETH_PW_PCP t) * 8192 + s.get (ETH_PW_VID t)) 2).reverse ++ b.drop 12
    | none => b
  b ++ leBytes (crc32e b) 4

/-- The frame of a mirror copy of a block seen at a port (Table 6.5). -/
def Chip.mirrorFrame (s : Chip) (x : Block) (port : Nat) (egress : Bool) : List Byte :=
  let da := leBytes (s.get SWX_MIR_DA_LO_DA) 4 ++ leBytes (s.get SWX_MIR_DA_HI_DA) 2
  s.wireFrame (da ++ s.station 1 ++ [0x88, 0xB6] ++ [BitVec.ofNat 8 (port + 16 * b2n egress), BitVec.ofNat 8 x.vc]
    ++ leBytes s.sw.mseq 2 ++ leBytes s.node 2 ++ leBytes x.tArr 10 ++ x.cell.toBytes) none

/-- The cells of a frame leave their queue. -/
def Chip.takeFrameCells (s : Chip) (p q cost : Nat) (f : List Desc) : Chip :=
  let s := (s.serve (4 + p) q cost).2
  let s := s.setQueue (4 + p) q ((s.queue (4 + p) q).drop (f.length - 1))
  f.foldl (fun (s : Chip) _ => s.countOut (4 + p)) s

/-- The blocks of a frame are read: is every cell good? `ecc` is what the first read shows (spec/06_switch_core.md R181–R183). -/
def Chip.readFrame (s : Chip) (p : Nat) (f : List Desc) (ecc : EccFind) : Bool × Chip :=
  match f with
  | [] => (true, s)
  | d :: r =>
    let x := s.readBlock d (4 + p) ecc
    let y := Chip.readFrame x.2 p r .clean
    (x.1 && y.1, y.2)

/-- A frame whose cells say that it is bad (R400). -/
def badFrame (cells : List Cell) (len : Nat) : Bool :=
  match cells with
  | [] => true
  | h :: rest => cells.any (fun c => c.field 37 1 == 1) || decide (h.field 36 1 = 0) || rest.any (fun c => c.field 36 1 == 1)
      || decide (h.field 0 16 ≠ len)

/-- Send a frame whose cells have been read, or discard it as bad. A frame that has lost a cell is bad. -/
def Chip.wireOut (s : Chip) (p : Fin 2) (f : List Desc) (good : Bool) : Chip :=
  match f with
  | [] => s
  | d :: _ =>
    let x := s.block d.blk
    match d.use with
    | .mirror port egress =>
      if good then
        ((s.setSw { s.sw with mseq := (s.sw.mseq + 1) % 65536 }).emit (.eth p (s.mirrorFrame x port egress))).inc (ETH_TX_OK p.val)
      else s
    | .row => if good then (s.emit (.row x.cell)).inc (ETH_TX_OK p.val) else s
    | _ =>
      let b := s.frameBytes f
      if good = false ∨ badFrame (f.map (fun d => (s.block d.blk).cell)) b.length then s.ethBad p.val 1
      else
        let h := x.cell
        let tag := if h.field 35 1 = 1 then some (h.field 16 10) else none
        let s := (s.emit (.eth p (s.wireFrame b tag))).inc (ETH_TX_OK p.val)
        if h.field 34 1 = 1 then s.stampTx p.val (h.field 26 8) else s

/-- The first frame of a queue leaves it: it is read, sent or discarded, and its descriptors are done with. -/
def Chip.sendFrame (s : Chip) (p : Fin 2) (q : Nat) (f : List Desc) (ecc : EccFind) : Chip :=
  let r := (s.takeFrameCells p.val q (s.frameCost f) f).readFrame p.val f ecc
  f.foldl (fun (s : Chip) d => s.dropDesc d) (r.2.wireOut p f r.1)

/-- A whole frame is queued and the scheduler serves its queue: it is sent unless the link is down or paused. -/
def ethTx (p : Fin 2) (q : Nat) (ecc : EccFind) (s : Chip) : Chip :=
  if ethOn s = false ∨ s.get (ETH_STAT_LINK p.val) = 0 ∨ s.on (ETH_STAT_PAUSED p.val) then s
  else
    let r := s.select (4 + p.val) (fun q => s.frameReady p.val q) (fun q => s.queueCost p.val q)
    if r.1 = some q then
      match s.firstFrame (s.queue (4 + p.val) q) with
      | some f => r.2.sendFrame p q f ecc
      | none => s
    else s

def execEthFrameTx (p : Fin 2) (queue : Fin 64) (ecc : EccFind) (s : State) : Result := s.onChip (ethTx p queue.val ecc)

/-! ### Stamps read (R403, Table 15.6) -/

/-- A read of TSRX_INF_p pops the receive FIFO. -/
def Chip.popRx (s : Chip) (p : Nat) : Chip :=
  let x := s.ethPort p
  match x.rxStamps with
  | [] => (((s.put (ETH_TSRX_INF_VALID p) 0).put (ETH_TSRX_INF_FILL p) 0).put (ETH_TSRX_INF_MSGTYPE p) 0).put (ETH_TSRX_INF_SEQID p) 0
  | (ty, seq, t) :: r =>
    let s := s.setEth p { x with rxStamps := r }
    let s := ((s.put (ETH_TSRX_INF_VALID p) 1).put (ETH_TSRX_INF_FILL p) r.length).put (ETH_TSRX_INF_MSGTYPE p) ty
    ((s.put (ETH_TSRX_INF_SEQID p) seq).put (ETH_TSRX_LO_NS p) t).put (ETH_TSRX_HI_NS p) (t / 2 ^ 32)

/-- A read of TSTX_INF_p pops the transmit FIFO. -/
def Chip.popTx (s : Chip) (p : Nat) : Chip :=
  let x := s.ethPort p
  match x.txStamps with
  | [] => ((s.put (ETH_TSTX_INF_VALID p) 0).put (ETH_TSTX_INF_FILL p) 0).put (ETH_TSTX_INF_COOKIE p) 0
  | (cookie, t) :: r =>
    let s := s.setEth p { x with txStamps := r }
    let s := ((s.put (ETH_TSTX_INF_VALID p) 1).put (ETH_TSTX_INF_FILL p) r.length).put (ETH_TSTX_INF_COOKIE p) cookie
    (s.put (ETH_TSTX_LO_NS p) t).put (ETH_TSTX_HI_NS p) (t / 2 ^ 32)

def tsInf (p : Nat) (tx : Bool) (s : Chip) : Chip := if ethOn s = false then s else if tx then s.popTx p else s.popRx p

def execTsrxInf (p : Fin 2) (tx : Bool) (s : State) : Result := s.onChip (tsInf p.val tx)

/-! ### Register writes (Table 15.6) -/

/-- A write to ETH_CTL_p: FEC 2 goes with SPEED 0 only, a PAUSE is honoured no longer than PAUSE_RX is 1 (R395), and clearing EN takes the
link down; whether a frame is partly received at that moment is a free value (R396; DESIGN CHOICE, log entry 3). -/
def ethCtl (p v : Nat) (s : Chip) : Chip :=
  let fec := bits v 2 2
  let s := if fec = 3 then s.put (ETH_CTL_SPEED p) (if s.get (ETH_CTL_FEC p) = 2 then s.get (ETH_CTL_SPEED p) else bits v 1 1)
    else if fec = 2 ∧ bits v 1 1 = 1 then s
    else (s.put (ETH_CTL_SPEED p) (bits v 1 1)).put (ETH_CTL_FEC p) fec
  let s := ((s.put (ETH_CTL_PROMISC p) (bits v 4 1)).put (ETH_CTL_ALLMULTI p) (bits v 5 1)).put (ETH_CTL_PAUSE_RX p) (bits v 6 1)
  let s := (s.put (ETH_CTL_PW_EN p) (bits v 7 1)).put (ETH_CTL_EN p) (bits v 0 1)
  let s := if bits v 6 1 = 0 then s.put (ETH_STAT_PAUSED p) 0 else s
  if bits v 0 1 = 0 then
    let f := s.fresh 1
    f.2.ethDown p (f.1 == 1)
  else s

end Sys2Proof.Machine
end

