-- ==== Sys2Proof/Machine/Lanes.lean ====
section
/-! DEFINITION. Events of the trunk lanes (spec/02_trunk_lanes.md R44, R51–R68): signal loss, training, retrain and parking. A
training block whose CHECK byte does not match is ignored (R57). -/

namespace Sys2Proof.Machine
open Sys2Proof Sys2Proof.Machine.Reg

/-! ### Signal loss (R51–R54) -/

/-- Receive lanes in use: those of the receive map. -/
def Chip.activeRx (s : Chip) (p : TPort) : List Nat :=
  (List.range (widthOf (s.get (TRK_STAT_WIDTH p.num)))).map (fun i => s.get (TRK_LANE_MAP_RX_LOG p.num i)) |>.filter (fun x => decide (x < 9))

/-- A presence edge on the receive clock lane (R125): the hold-off restarts, and a park may end (R68). -/
def Chip.presenceEdge (s : Chip) (p : TPort) : Chip :=
  let s := s.startHoldoff p
  if s.laneState p = laneParked then s.setLane p { s.lane p with leave := true } else s

/-- A lane fault (R54): a retrain with REASON 3 is started or requested. -/
def Chip.laneFault (s : Chip) (p : TPort) (lane : Nat) : Chip :=
  let s := s.setLane p { s.lane p with usable := clrBit (s.lane p).usable lane }
  (s.evt (TRK_EVT_LANE_FAULT p.num)).askRetrain p 3

/-- LOS asserts on a receive lane, 9 being the clock lane (R51, R53, R54). -/
def losAssert (p : TPort) (lane : Nat) (s : Chip) : Chip :=
  if lane = 9 then
    let s := ((s.put (TRK_LOS_LOS_CK p.num) 1).evt (TRK_EVT_LOS_CK p.num)).presenceEdge p
    s.portLost p 0
  else
    let s := (s.setBitOf (TRK_LOS_LOS_LANE p.num) lane).evtBit (TRK_EVT_LOS_LANE p.num) lane
    let act := s.activeRx p
    if s.on (TRK_STAT_PARTNERED p.num) = false ∨ act.contains lane = false then s
    else if act.all (fun i => bit (s.get (TRK_LOS_LOS_LANE p.num)) i) then s.portLost p 0
    else if s.laneState p = laneUp then s.laneFault p lane else s

def execLosAssert (p : TPort) (lane : Fin 10) (s : State) : Result := s.onChip (losAssert p lane)

/-- An upstream port's clock has been seen (R61). -/
def Chip.seenUp (s : Chip) (p : TPort) : Chip :=
  let nu := s.braid.losNu && !decide (p = .nu)
  let su := s.braid.losSu && !decide (p = .su)
  { s with braid := { s.braid with losNu := nu, losSu := su } }

/-- LOS deasserts on a receive lane (R51). On the clock lane it is a presence edge; within the head decision window it shows an
upstream neighbour (R61), and an A head that sees it is in conflict (spec/01_rows_and_nodes.md R15). -/
def losDeassert (p : TPort) (lane : Nat) (s : Chip) : Chip :=
  if lane = 9 then
    let s := (s.put (TRK_LOS_LOS_CK p.num) 0).presenceEdge p
    let s := s.seenUp p
    if p.up ∧ s.get BRD_STAT_ROLE = 1 then (s.put BRD_STAT_HEAD_CONFLICT 1).evt BRD_EVT_HEAD_CONFLICT else s
  else s.clrBitOf (TRK_LOS_LOS_LANE p.num) lane

def execLosDeassert (p : TPort) (lane : Fin 10) (s : State) : Result := s.onChip (losDeassert p lane)

/-- The phase error of the forwarded-clock DLL has been out of bound, or within it, for LOL_FILT: LOL asserts and the port is lost, or
LOL deasserts. While no clock is received nothing is measured, and LOL keeps its value (R52, R53). -/
def lolAssert (p : TPort) (out : Bool) (s : Chip) : Chip :=
  if s.on (TRK_LOS_LOS_CK p.num) then s
  else if out then (((s.put (TRK_LOS_LOL p.num) 1).evt (TRK_EVT_LOL p.num)).put (TRK_STAT_DLL_LOCK p.num) 0).portLost p 0
  else s.put (TRK_LOS_LOL p.num) 0

def execLol (p : TPort) (out : Bool) (s : State) : Result := s.onChip (lolAssert p out)

/-- Invalid sync headers on a lane, of 64 that bring no other command (R40): they are counted while the port is Up, and 16 of 64 lose
block lock. -/
def lockLost (p : TPort) (lane bad : Nat) (s : Chip) : Chip :=
  let up := decide (s.laneState p = laneUp)
  let s := if up then s.addSat (TRK_BERR_HDR_ERR p.num lane) bad else s
  if bad < 16 then s
  else
    let s := s.setLane p { s.lane p with locked := clrBit (s.lane p).locked lane }
    if up ∧ (s.activeRx p).contains lane then (s.evt (TRK_EVT_LOCK_LOST p.num)).laneFault p lane else s

def execLockLost (p : TPort) (lane : Fin 9) (bad : Nat) (s : State) : Result := s.onChip (lockLost p lane bad)

/-- A lane's sampling phase one interpolator step later or earlier; 64 steps are one UI of bit-slip (R42). At the end of the range
the lane stays where it is (DESIGN CHOICE, log entry 31). -/
def stepFind (f : LaneFind) (later : Bool) : LaneFind :=
  let n := f.slip.val * 64 + f.interp.val
  let m := if later then min (n + 1) 8191 else n - 1
  { f with slip := ⟨m / 64 % 128, Nat.mod_lt _ (by decide)⟩, interp := ⟨m % 64, Nat.mod_lt _ (by decide)⟩ }

/-- Drift tracking moves a lane by one step (R44). -/
def driftTrack (p : TPort) (lane : Nat) (later : Bool) (s : Chip) : Chip :=
  if s.get (TRK_CTL_DRIFT_EN p.num) = 0 then s
  else
    let l := s.lane p
    s.setLane p { l with finds := l.finds.map (fun f => if f.rx.val = lane then stepFind f later else f) }

def execDriftTrack (p : TPort) (lane : Fin 9) (later : Bool) (s : State) : Result := s.onChip (driftTrack p lane later)

/-- HID[3:0] changes: a port that is Up keeps its settings and sets an event (R65). -/
def hidChanged (hid : Nat) (s : Chip) : Chip :=
  TPort.list.foldl (fun (s : Chip) p =>
    if s.laneState p = laneUp ∧ (s.lane p).hid ≠ hid then s.evt (TRK_EVT_HID_CHANGED p.num) else s)
    { s with boot := { s.boot with hid := hid } }

def execHidChanged (hid : Fin 16) (s : State) : Result := s.onChip (hidChanged hid)

/-! ### Training (R56–R60) -/

/-- Begin a full attempt at a rate. -/
def Chip.beginAttempt (s : Chip) (p : TPort) (rate fails : Nat) : Chip :=
  let s := s.setLane p { s.lane p with
    attempt := .full, rate := rate, fails := fails, fell := if s.tgtRate p < rate then rate else 0, leave := false, request := none,
    cause := 0, pendingTry := none }
  s.stepOne p

/-- Training starts when R56 is met: on a port that waits, or one whose park has been ended (R68). An attempt that R56 has kept waiting
goes on at its rate and with its count of failures (R60). -/
def trainingStart (p : TPort) (s : Chip) : Chip :=
  let st := s.laneState p
  if s.mayTrain p ∧ (st = laneOff ∨ st = laneWaiting ∨ (st = laneParked ∧ (s.lane p).leave)) then
    let s := if s.partnerIs p posAbsent ∨ s.partnerIs p posGrafted ∨ s.partnerIs p posDormant then s.observe p posTraining else s
    match (s.lane p).pendingTry with
    | some t => s.beginAttempt p t.1 t.2
    | none => s.beginAttempt p (s.tgtRate p) 0
  else s

def execTrainingStart (p : TPort) (s : State) : Result := s.onChip (trainingStart p)

/-- Fields of a training block (Table 2.8). -/
def tbRate (b : List Byte) : Nat := bits (rd b 2 1) 0 2
def tbWidth (b : List Byte) : Nat := bits (rd b 2 1) 2 2
def tbHid (b : List Byte) : Nat := bits (rd b 2 1) 4 4
def tbMask (b : List Byte) : Nat := rd b 4 2 % 512
def tbReason (b : List Byte) : Nat := rd b 6 1

/-- The largest width permitted by both targets that both directions can fill, as its code (R59). -/
def chooseWidth (p : TPort) (targets n : Nat) : Option Nat :=
  (List.range 4).find? (fun c => decide (targets ≤ c) && decide (widthOf c ≤ n) && (!p.skip || decide (1 ≤ c)))

/-- Steps 2 and 3: with no lane found yet the DLL is locked and the lanes are not; else the receiver has locked its lanes (64 valid
headers each, R40), corrected polarity, aligned them and learnt the partner's lanes, and sends TS2 (R58 step 4). -/
def Chip.lanesFound (s : Chip) (p : TPort) (found : List LaneFind) : Chip :=
  let l := s.lane p
  let mine := found.filter (fun f => decide (f.rx.val < laneCount p ∧ f.tx.val < laneCount p)
    && !bit (s.get (TRK_LOS_LOS_LANE p.num)) f.rx && decide (64 ≤ f.headers))
  if mine = [] then
    if (s.lane p).step = 1 then ((s.put (TRK_STAT_STATE p.num) laneLock).put (TRK_STAT_DLL_LOCK p.num) 1).put (TRK_LOS_LOL p.num) 0 else s
  else
    let usable := (mine.map (fun f => 2 ^ f.rx.val)).foldl (· ||| ·) 0
    let l := { l with step := 4, finds := mine, usable := usable, locked := usable }
    let s := ((s.setLane p l).put (TRK_STAT_DLL_LOCK p.num) 1).put (TRK_LOS_LOL p.num) 0
    (s.put (TRK_STAT_STATE p.num) laneExchange).sendBlock p 0xA2 (s.wantRate p) (s.tgtWidth p) (l.txMask usable) 0

/-- Step 1 again within an attempt (R58). A fast retrain whose chosen rate is not the present one turns out to change the rate, and
goes on as a full training attempt from Up (R63). -/
def Chip.again (s : Chip) (p : TPort) (rate : Nat) : Chip :=
  let l := s.lane p
  if l.attempt = .fast ∧ rate ≠ l.rate then (s.setLane p { l with attempt := .rateChange, rate := rate }).stepOne p
  else s.stepOne p

/-- TS1 (R58, R62, R68, R126): an Up port retrains, a Parked one may leave its park, a later step returns to step 1, and a port in
steps 1 to 3 goes on with the lanes it has found. A Pruned partner is parked. -/
def ts1 (p : TPort) (found : List LaneFind) (blk : BitVec 64) (s : Chip) : Chip :=
  match blockOf 0xA1 blk with
  | none => s
  | some b =>
    if s.partnerIs p posPruned then s.sendBlock p 0xA7 (s.tgtRate p) (s.tgtWidth p) 0 1
    else if s.laneState p = laneUp then (s.startRetrain p (tbRate b) 0).lanesFound p found
    else if s.laneState p = laneParked then s.setLane p { s.lane p with leave := true }
    else if (s.lane p).attempt = .none then s
    else if 4 ≤ (s.lane p).step then (s.again p (max (s.wantRate p) (tbRate b))).lanesFound p found
    else s.lanesFound p found

def execTs1 (p : TPort) (found : List LaneFind) (blk : RxBlock) (s : State) : Result := s.onChip (fun c => c.onBlock p blk (ts1 p found))

/-- Failures are counted at one rate: the count starts again where the rate changes (R60). -/
def LanePort.failsAt (l : LanePort) (rate : Nat) : Nat := if rate = l.rate then l.fails else 0

/-- The leader chooses the slower of the two ends' rates, and the width, and sends TS3 (R58 step 5, R59). -/
def Chip.decide3 (s : Chip) (p : TPort) (n : Nat) : Chip :=
  let rate := max (s.wantRate p) (s.get (TRK_PARTNER_P_RATE p.num))
  if (s.lane p).attempt = .fast ∧ rate ≠ (s.lane p).rate then s.again p rate
  else match chooseWidth p (max (s.tgtWidth p) (s.get (TRK_PARTNER_P_WIDTH p.num))) n with
  | none => s
  | some w =>
    let s := s.setLane p { s.lane p with
      step := 5, rate := rate, width := w, fails := (s.lane p).failsAt rate, verdict := none, partnerVerdict := none }
    s.sendBlock p 0xA3 rate w 0 0

/-- TS2 (R58 steps 4 and 5). -/
def ts2 (p : TPort) (blk : BitVec 64) (s : Chip) : Chip :=
  match blockOf 0xA2 blk with
  | none => s
  | some b =>
    if (s.lane p).step ≠ 4 then s
    else
      let s := ((s.put (TRK_PARTNER_P_HID p.num) (tbHid b)).put (TRK_PARTNER_P_RATE p.num) (tbRate b)).put
        (TRK_PARTNER_P_WIDTH p.num) (tbWidth b)
      let s := s.setLane p { s.lane p with partnerUsable := tbMask b, step := 5 }
      if p.leads then s.decide3 p (min (popCount (s.lane p).usable 9) (popCount (tbMask b) 9)) else s

def execTs2 (p : TPort) (blk : RxBlock) (s : State) : Result := s.onChip (fun c => c.onBlock p blk (ts2 p))

/-- TS3 (R58 steps 5 and 6): the follower takes the decision and echoes it, the leader takes the echo; both begin to verify. -/
def ts3 (p : TPort) (blk : BitVec 64) (s : Chip) : Chip :=
  match blockOf 0xA3 blk with
  | none => s
  | some b =>
    let l := s.lane p
    if l.step < 5 then s
    else
      let s := s.put (TRK_STAT_STATE p.num) laneVerify
      if p.leads then (if l.step = 5 then (s.setLane p { s.lane p with step := 6 }).sendZeros p else s)
      else
        let s := s.setLane p { l with
          step := 6, rate := tbRate b, width := tbWidth b, fails := l.failsAt (tbRate b), verdict := none, partnerVerdict := none }
        (s.sendBlock p 0xA3 (tbRate b) (tbWidth b) 0 0).sendZeros p

def execTs3 (p : TPort) (blk : RxBlock) (s : State) : Result := s.onChip (fun c => c.onBlock p blk (ts3 p))

/-- The lane maps under R34: logical lane i is the i-th lowest lane, in the transmitter's numbers, that its receiver passed. -/
def Chip.buildMaps (s : Chip) (p : TPort) (w own partner : Nat) : Chip :=
  let l := s.lane p
  let tx := (lanesOf partner).take w
  let rx := (lanesOf (l.txMask own)).take w
  let s := s.clearMaps p
  let s := tx.zipIdx.foldl (fun (s : Chip) e => s.put (TRK_LANE_MAP_TX_LOG p.num e.2) e.1) s
  let s := rx.zipIdx.foldl (fun (s : Chip) e =>
    let phys := match l.finds.find? (fun f => decide (f.tx.val = e.1)) with
      | some f => f.rx.val
      | none => e.1
    s.put (TRK_LANE_MAP_RX_LOG p.num e.2) phys) s
  let spare := laneCount p - 1
  (s.put (TRK_STAT_SPARE_IN_USE_TX p.num) (b2n (tx.contains spare))).put (TRK_STAT_SPARE_IN_USE_RX p.num)
    (b2n ((s.activeRx p).contains spare))

/-- The port is Up (R58 step 8): maps, rate and width take effect, and the link layer enters Resume after a retrain and Init
otherwise (spec/03_trunk_link_layer.md R101). A lane that has failed since its verdict is a fault at once (R54, R65). -/
def Chip.goUp (s : Chip) (p : TPort) (own partner : Nat) : Chip :=
  let l := s.lane p
  let s := (s.put (TRK_STAT_RATE p.num) l.rate).put (TRK_STAT_WIDTH p.num) l.width
  let s := s.buildMaps p (widthOf l.width) own partner
  let s := s.setChainPort p { s.chainPort p with upAt := some s.tick }
  let s := (s.put (TRK_STAT_STATE p.num) laneUp).put (TRK_STAT_PARTNERED p.num) 1
  let s := s.setLane p { s.lane p with
    attempt := .none, step := 0, fails := 0, request := none, cause := 0,
    txFailed := allLanes p - (allLanes p &&& partner) }
  let s := (s.inc (TRK_TRAIN_CNT_UPS p.num)).evt (TRK_EVT_LINK_UP p.num)
  let s := if l.attempt = .full then s.enterInit p else s.enterResume p
  let s := s.reviewService p
  match (s.activeRx p).find? (fun i => bit (s.get (TRK_LOS_LOS_LANE p.num)) i || !bit (s.lane p).locked i) with
  | some i => s.laneFault p i
  | none => s

/-- Step 7 at the leader: too few passed lanes return to step 5, otherwise TS5 goes out and the port is Up. -/
def Chip.conclude (s : Chip) (p : TPort) : Chip :=
  let l := s.lane p
  match l.verdict, l.partnerVerdict with
  | some own, some partner =>
    if p.leads = false then s
    else
      let n := min (popCount own 9) (popCount partner 9)
      if n < widthOf l.width then s.decide3 p n
      else (s.sendBlock p 0xA5 l.rate l.width 0 0).goUp p own partner
  | _, _ => s

/-- The verify dwell ends, with the descrambled bit errors of each physical receive lane and the last 58 bits received on it (R58
steps 6 and 7): a lane in block lock passes by ERR_THR, and TS4 carries the lanes passed. -/
def verifyDwellEnd (p : TPort) (errors : List Nat) (tails : List (BitVec 58)) (s : Chip) : Chip :=
  let l := s.lane p
  if l.step ≠ 6 then s
  else
    let l := { l with descramblers := l.descramblers.mapIdx (fun i d => match tails[i]? with
      | some t => t.toNat
      | none => d) }
    let thr := s.get (TRK_VERIFY_ERR_THR p.num)
    let pass := (lanesOf l.usable).filter (fun i =>
      decide (errors.getD i 0 ≤ thr) && bit l.locked i && !bit (s.get (TRK_LOS_LOS_LANE p.num)) i)
    let mask := (pass.map (fun i => 2 ^ i)).foldl (· ||| ·) 0
    let s := (s.setLane p { l with step := 7, verdict := some mask }).put (TRK_STAT_GOOD_MASK p.num) mask
    (s.sendBlock p 0xA4 l.rate l.width (l.txMask mask) 0).conclude p

def execVerifyDwellEnd (p : TPort) (errors : List Nat) (tails : List (BitVec 58)) (s : State) : Result :=
  s.onChip (verifyDwellEnd p errors tails)

/-- TS4: the partner's verdict (R58 step 7). -/
def ts4 (p : TPort) (blk : BitVec 64) (s : Chip) : Chip :=
  match blockOf 0xA4 blk with
  | none => s
  | some b =>
    let l := s.lane p
    if l.step ≠ 6 ∧ l.step ≠ 7 then s
    else ((s.setLane p { l with partnerVerdict := some (tbMask b) }).put (TRK_PARTNER_P_MASK p.num) (tbMask b)).conclude p

def execTs4 (p : TPort) (blk : RxBlock) (s : State) : Result := s.onChip (fun c => c.onBlock p blk (ts4 p))

/-- TS5 at the follower: Up from the next block boundary (R58 step 8). -/
def ts5 (p : TPort) (blk : BitVec 64) (s : Chip) : Chip :=
  match blockOf 0xA5 blk with
  | none => s
  | some b =>
    let l := s.lane p
    match l.verdict, l.partnerVerdict with
    | some own, some partner =>
      if p.leads ∨ l.step ≠ 7 then s
      else (s.setLane p { l with rate := tbRate b, width := tbWidth b }).goUp p own partner
    | _, _ => s

def execTs5 (p : TPort) (blk : RxBlock) (s : State) : Result := s.onChip (fun c => c.onBlock p blk (ts5 p))

/-- A failed attempt's successor: at once where R56 still holds, else as soon as it does (R60). -/
def Chip.nextAttempt (s : Chip) (p : TPort) (rate fails : Nat) : Chip :=
  if s.mayTrain p then s.beginAttempt p rate fails
  else (s.setLane p { s.lane p with attempt := .none, step := 0, fails := fails, pendingTry := some (rate, fails) }).put
    (TRK_STAT_STATE p.num) laneWaiting

/-- TRAIN_TMO in an attempt (R60, R66). -/
def trainTmo (p : TPort) (s : Chip) : Chip :=
  let l := s.lane p
  match l.attempt with
  | .full =>
    let s := s.inc (TRK_FAIL_CNT_FAILS p.num)
    let s := if 6 ≤ s.get CLK_BOOT_STEP ∧ s.get CLK_BOOT_STEP ≤ 8 then s.bootFail 8 else s
    let n := l.fails + 1
    if n < s.get (TRK_RETRY_RETRY_LIM p.num) then s.nextAttempt p l.rate n
    else if s.on (TRK_CTL_FALLBACK_EN p.num) ∧ l.rate < 3 then s.nextAttempt p (l.rate + 1) 0
    else
      let s := s.setLane p { l with attempt := .none, step := 0, fails := 0 }
      (s.put (TRK_STAT_STATE p.num) laneRetryWait).evt (TRK_EVT_TRAIN_FAIL p.num)
  | .rateChange => s.portLost p 1
  | _ => s

def execTrainTmo (p : TPort) (s : State) : Result := s.onChip (trainTmo p)

/-- RETRY_INT has passed: the port starts again at its target rate (R60). -/
def retryInt (p : TPort) (s : Chip) : Chip :=
  if s.laneState p = laneRetryWait then s.nextAttempt p (s.tgtRate p) 0 else s

def execRetryInt (p : TPort) (s : State) : Result := s.onChip (retryInt p)

/-- FAST_TMO in a fast retrain: a port loss (R66). -/
def fastTmo (p : TPort) (s : Chip) : Chip := if (s.lane p).attempt = .fast then s.portLost p 1 else s

def execFastTmo (p : TPort) (s : State) : Result := s.onChip (fastTmo p)

/-! ### Retrain and park (R62–R65, R68) -/

/-- A retrain request block (R64, R65): the leader starts a retrain, or discards it during an attempt. -/
def retrainRequest (p : TPort) (blk : BitVec 64) (s : Chip) : Chip :=
  match blockOf 0xA6 blk with
  | none => s
  | some b =>
    if p.leads = false then s
    else if (s.lane p).attempt ≠ .none then s.evt (TRK_EVT_COLLISION p.num)
    else if s.laneState p = laneUp then
      let l := s.lane p
      let s := s.setLane p { l with txFailed := l.txFailed ||| (allLanes p - (allLanes p &&& tbMask b)) }
      s.startRetrain p (tbRate b) (tbReason b)
    else s

def execRetrainRequest (p : TPort) (blk : RxBlock) (s : State) : Result := s.onChip (fun c => c.onBlock p blk (retrainRequest p))

/-- A park block (R68): the port is Parked; a Member that has announced itself Dormant becomes a Dormant-spare
(spec/04_braid_and_graft.md R136). -/
def parkBlock (p : TPort) (blk : BitVec 64) (s : Chip) : Chip :=
  match blockOf 0xA7 blk with
  | none => s
  | some b =>
    if s.trunkOn p = false then s
    else if s.laneState p = laneParked then s.evt (TRK_EVT_PARKED_BY_PARTNER p.num)
    else
      let dormant := s.braid.dormantSeen.get p && decide (tbReason b = 5) && s.partnerIs p posMember
      let s := (s.enterParked p).evt (TRK_EVT_PARKED_BY_PARTNER p.num)
      let s := if s.get CLK_BOOT_STEP = 7 ∧ tbReason b = 0 then s.bootFail 9 else s
      let s := { s with braid := { s.braid with dormantSeen := s.braid.dormantSeen.set p false } }
      (if dormant then s.observe p posDormant else s).reviewSplit p.up

def execParkBlock (p : TPort) (blk : RxBlock) (s : State) : Result := s.onChip (fun c => c.onBlock p blk (parkBlock p))

/-- A write of 1 to TRK_port_CTL.RETRAIN (R62, R64, R68). -/
def retrainWrite (p : TPort) (s : Chip) : Chip :=
  if s.laneState p = laneParked then s.setLane p { s.lane p with leave := true } else s.askRetrain p 1

def execRetrain (p : TPort) (s : State) : Result := s.onChip (retrainWrite p)

/-- A write of 1 to TRK_port_CTL.PARK (R68). -/
def execPark (p : TPort) (s : State) : Result := s.onChip (fun c => c.parkPort p 1)

end Sys2Proof.Machine
end

