-- ==== Sys2Proof/Machine/Far.lean ====
section
/-! DEFINITION. Far access up to the far target (spec/12_bridge_and_accessory_bus.md): windows, tags, the far log, prefetched lines,
the five far buses with their arbiters and locks, and the meanings of their commands. A command that also reads or writes device CSR
space stands in Machine/Bridge.lean. -/

namespace Sys2Proof.Machine
open Sys2Proof Sys2Proof.Machine.Reg

/-! ### Windows (R328, R329) -/

/-- The window and the offset of a far address (spec/11_fungatre_tunnel_instructions.md R320). -/
def winOf (far : Word) : Nat := far.toNat / 2 ^ 26
def offOf (far : Word) : Nat := far.toNat % 2 ^ 26

/-- The lock resource of a KIND and BUS, which is also the far bus (Table 12.1, R338). -/
def busFor (kind bus : Nat) : Option Nat :=
  if kind = 1 then some 0 else if kind = 2 then some (1 + bus) else if kind = 3 then some (3 + bus) else none

/-- A window's far bus, whether or not the window is enabled. -/
def Chip.winBus (s : Chip) (n : Nat) : Option Nat := busFor (s.get (BRG_WIN_CFG_KIND n)) (s.get (BRG_WIN_CFG_BUS n))

/-- Bytes of a prefetched line (R332). -/
def lineBytes (kind : Nat) : Nat := if kind = 1 then 64 else 16

/-- The cause with which an access to an enabled window's offset traps at issue (R320, R330); 0 where it does not. -/
def Chip.farTrap (s : Chip) (h : HandId) (far : Word) (size : AccSize) : Nat :=
  let n := winOf far
  if far.toNat % size.bytes ≠ 0 then 2
  else if s.get (BRG_WIN_CFG_EN n) = 0 ∨ 2 ^ s.get (BRG_WIN_CFG_SIZE n) ≤ offOf far
      ∨ (h.val = 65 ∧ s.get (BRG_WIN_CFG_KIND n) = 4) then 3
  else 0

/-- BRG_WIN_ACC_n with fields that are given a reserved encoding kept (Table 12.8). -/
def accValue (kind old v : Nat) : Nat :=
  if kind = 2 then (if 4 < bits v 16 3 then v - bits v 16 3 * 2 ^ 16 + bits old 16 3 * 2 ^ 16 else v)
  else if kind = 3 then
    let v := if bits v 7 2 = 3 then v - 3 * 2 ^ 7 + bits old 7 2 * 2 ^ 7 else v
    if bits v 9 2 = 3 then v - 3 * 2 ^ 9 + bits old 9 2 * 2 ^ 9 else v
  else v

/-- What a window's register 1 BASE_LO, 2 BASE_HI or 3 ACC shows and means while the window has a KIND: bits that Table 12.7 or
12.8 reserves for that KIND read 0 and act as 0, and so does a field left with an encoding that it reserves (DEDUCED, log entry 29). -/
def winShown (reg kind v : Nat) : Nat :=
  match reg with
  | 1 => if kind = 1 then v else if kind = 4 then v % 65536 else 0
  | 2 => if kind = 1 then v else 0
  | _ => if kind = 2 then accValue 2 0 v else if kind = 3 then accValue 3 0 (v % 2 ^ 12) else 0

/-- The access as the bridge accepts it; a read through a prefetch window is of the whole line that holds it (R332). -/
def Chip.farReq (s : Chip) (h : HandId) (far : Word) (size : AccSize) (write : Option Word) (tag : Option Nat) : FarReq :=
  let n := winOf far
  let kind := s.get (BRG_WIN_CFG_KIND n)
  let base := s.get (BRG_WIN_BASE_LO_BASE n) + 2 ^ 32 * s.get (BRG_WIN_BASE_HI_BASE n)
  let span := 2 ^ s.get (BRG_WIN_CFG_SIZE n)
  let line := decide (s.get (BRG_WIN_CFG_PREFETCH n) = 1) && write.isNone
  let off := if line then offOf far / lineBytes kind * lineBytes kind else offOf far
  { hand := h, far := far, size := size, write := write, tag := tag, kind := kind
    addr := if kind = 1 then base / span * span + off else off
    acc := if kind = 4 then s.get (BRG_WIN_BASE_LO_BASE n) % 65536 else winShown 3 kind (s.get (BRG_WIN_ACC_ACC n))
    line := line }

/-- The far bus an accepted access is for. -/
def Chip.reqBus (s : Chip) (r : FarReq) : Option Nat := busFor r.kind (s.get (BRG_WIN_CFG_BUS (winOf r.far)))

/-! ### Tags (spec/09_fungatre_machine.md R259) -/

def Chip.tagAt (s : Chip) (t : Nat) : Option Tag := (s.cores.tags.find? (fun e => decide (e.1 = t))).map (·.2)

def Chip.dropTag (s : Chip) (t : Nat) : Chip := { s with cores := { s.cores with tags := mdel s.cores.tags t } }

/-- The far bus that performs an access of a tag. -/
def Chip.busOfTag (s : Chip) (t : Nat) : Option Nat := (List.range 5).find? (fun k => match (s.bus k).busy with
  | some r => r.tag == some t
  | none => false)

/-- Free tags (BCH_TAG_STAT). -/
def Chip.tagsFree (s : Chip) : Nat := 2048 - s.cores.tags.length - s.ends.blockTags.length

/-- The lowest free tag of a range, and none whose late transfer is still at a bus (DESIGN CHOICE, log entry 18). -/
def Chip.freeTagIn (s : Chip) (lo hi : Nat) : Option Nat :=
  ((List.range (hi - lo)).map (· + lo)).find? (fun t =>
    (s.tagAt t).isNone && !mget false s.ends.blockTags t && (s.busOfTag t).isNone)

/-- A tag for a requester: Porter's own are 0–127, the others share 128–2,047. -/
def Chip.newTag (s : Chip) (h : HandId) : Option Nat := if h.val = 64 then s.freeTagIn 0 128 else s.freeTagIn 128 2048

/-- A tag that a hand may take now: it holds less than TAG_QUOTA. -/
def Chip.handTag (s : Chip) (h : HandId) : Option Nat :=
  if s.tagsHeld h < s.get BCH_TAG_QUOTA_QUOTA then s.newTag h else none

/-- A tag is taken. -/
def Chip.openTag (s : Chip) (t : Nat) (x : Tag) : Chip :=
  { s with cores := { s.cores with
    tags := mput s.cores.tags t x, tagLast := mput s.cores.tagLast t ⟨x.req.hand, x.req.far, s.cores.issued⟩, issued := s.cores.issued + 1 } }

/-- The last use of a tag. -/
def Chip.tagUse (s : Chip) (t : Nat) : Option TagUse := (s.cores.tagLast.find? (fun e => decide (e.1 = t))).map (·.2)

/-- The result of an open access is known, and waits for the completion (R331). -/
def Chip.settleTag (s : Chip) (t code : Nat) (v : Word) : Chip :=
  match s.tagAt t with
  | none => s
  | some x => { s with cores := { s.cores with tags := mput s.cores.tags t { x with result := some (code, v) } } }

/-! ### The far log (R337) -/

/-- The hand's number within its core. -/
def handNo (h : HandId) : Nat := if h.val < 64 then handOf h else 0

/-- BRG_FAR_LOG_INFO. -/
def farInfo (h : HandId) (code : Nat) (opened : Bool) : Nat := code + 16 * coreOf h + 512 * handNo h + 2048 * b2n opened

/-- A far error, or a bite, is logged. -/
def Chip.farLog (s : Chip) (h : HandId) (far : Nat) (code : Nat) (opened : Bool) : Chip :=
  let s := (s.put BRG_FAR_LOG_ADDR_ADDR far).put BRG_FAR_LOG_INFO_CODE code
  let s := (s.put BRG_FAR_LOG_INFO_REQ (coreOf h)).put BRG_FAR_LOG_INFO_HAND (handNo h)
  let s := (s.put BRG_FAR_LOG_INFO_OPEN (b2n opened)).inc BRG_FAR_CNT
  s.evtDetail BRG_EVT_FAR_ERR 0 far (farInfo h code opened)

/-! ### Completion (R336; spec/11_fungatre_tunnel_instructions.md R321–R323) -/

/-- The body of a CSR order's docket: WRITE_CSR counts the entries performed, the others return the words read
(spec/13_management_and_dockets.md R365). -/
def csrBody (code done : Nat) (got : List Byte) : List Byte := if code = 2 then leBytes done 2 else got

/-- The order in a slot. -/
def Chip.orderCode (s : Chip) (id : SlotId) : Nat := match (s.slot id).order with
  | some o => rd o.bytes 0 2
  | none => 0

/-- An access made for an order fails: the docket returns FAR_ERROR (R336). -/
def Chip.orderFails (s : Chip) (id : SlotId) (done : Nat) (got : List Byte) : Chip :=
  s.docketReady id stFarError (csrBody (s.orderCode id) done got)

/-- The two words that a memory-form LDX writes at completion (R322), in a data memory of `2 ^ w` bytes. -/
def Memory.ldxWords (m : Memory) (w a code v : Nat) : Memory :=
  let st := a / 2 ^ w * 2 ^ w + (a + 4) % 2 ^ w
  if code = 0 then Memory.write (Memory.write m a 4 v) st 4 1 else Memory.write m st 4 3

/-- A failed non-posted write is recorded where no failed write issued before it is (R318). -/
def Hand.noteFailed (x : Hand) (no : Nat) (far : Word) : Hand :=
  match x.failedWrite with
  | some w => if w.1 < no then x else { x with failedWrite := some (no, far) }
  | none => { x with failedWrite := some (no, far) }

/-- An open access ends: its tag is freed, an error is returned and logged, and its operation completes. -/
def State.endAccess (s : State) (t : Nat) (x : Tag) (code : Nat) (v : Word) : State :=
  let h := x.req.hand
  let c := s.chip.dropTag t
  let c := if code = 0 then c else c.farLog h x.req.far.toNat code true
  match x.kind with
  | .ldxReg d =>
    if code = 0 then s.settle ((c.complete h d v).boundary h) else s.settle (c.trapHere h 3 x.req.far)
  | .ldxMem a =>
    let w := dataWidth h
    let st := a / 2 ^ w * 2 ^ w + (a + 4) % 2 ^ w
    let c := if code = 0 then (c.heal a).heal st else c.heal st
    { s with chip := c.raise h 3, mem := Memory.ldxWords s.mem w a code v.toNat }
  | .stx =>
    let no := ((c.tagUse t).map (·.no)).getD 0
    let c := if code = 0 then c else c.setHand h ((c.hand h).noteFailed no x.req.far)
    { s with chip := c.raise h 3 }
  | .order id done got =>
    if code = 0 then { s with chip := s.chip.settleTag t 0 v } else { s with chip := c.orderFails id done got }
  | .lost => { s with chip := c }

/-- An access that has not been performed ends with an error: returned where it is open, logged where it is posted. -/
def State.failReq (s : State) (r : FarReq) (code : Nat) : State :=
  match r.tag with
  | none => { s with chip := s.chip.farLog r.hand r.far.toNat code false }
  | some t => match s.chip.tagAt t with
    | none => s
    | some x => s.endAccess t x code 0

/-- An accepted access is refused at once: a tagged one waits for its completion with the error, a posted one is logged. -/
def Chip.refuseReq (s : Chip) (r : FarReq) (code : Nat) : Chip :=
  match r.tag with
  | some t => s.settleTag t code 0
  | none => s.farLog r.hand r.far.toNat code false

/-- A response for a tag that is no longer open (spec/09_fungatre_machine.md R260). -/
def Chip.lateResponse (s : Chip) (t : Nat) : Chip :=
  (s.inc BCH_TAG_LATE).logEntry 0x0A 0x40 0 t (((s.tagUse t).map (fun u => coreOf u.hand)).getD 0)

/-- A late response that reports an error is logged as one too (R337). -/
def Chip.lateError (s : Chip) (t code : Nat) : Chip :=
  let s := s.lateResponse t
  match s.tagUse t with
  | some u => if code = 0 then s else s.farLog u.hand u.far.toNat code false
  | none => s

/-! ### Prefetched lines and the discard log (R332–R334) -/

def Chip.lineOf (s : Chip) (n : Nat) : Option Line := (s.cores.lines.find? (fun e => decide (e.1 = n))).map (·.2)
def Chip.setLines (s : Chip) (l : SMap Line) : Chip := { s with cores := { s.cores with lines := l } }

/-- An entry of the discard log at HEAD. -/
def Chip.logDiscard (s : Chip) (n : Nat) (l : Line) (cause : Nat) : Chip :=
  let e := s.get BRG_DLOG_STAT_HEAD
  let wrapped := s.on BRG_DLOG_STAT_WRAPPED
  let s := (s.put (BRG_DLOG_ADDR_ADDR e) (2 ^ 26 * n + l.off)).put (BRG_DLOG_T_LO_T_LO e) s.ns
  let s := (s.put (BRG_DLOG_T_HI_T_HI e) (s.ns / 2 ^ 32)).put (BRG_DLOG_INFO_UNREAD e) l.unread
  let s := (s.put (BRG_DLOG_INFO_CAUSE e) cause).put BRG_DLOG_STAT_HEAD (e + 1)
  let s := if e = 255 then s.put BRG_DLOG_STAT_WRAPPED 1 else s
  let s := if wrapped then (s.inc BRG_DLOG_OVR).evt BRG_EVT_DLOG_OVR else s
  s.evt BRG_EVT_DISCARD

/-- Bytes that leave the buffer are logged where a word of them was never delivered. -/
def Chip.lineGone (s : Chip) (n : Nat) (l : Line) (cause : Nat) : Chip := if l.unread = 0 then s else s.logDiscard n l cause

/-- A window's line leaves the buffer (R333). -/
def Chip.discardLine (s : Chip) (n cause : Nat) : Chip :=
  match s.lineOf n with
  | none => s
  | some l => (s.setLines (mdel s.cores.lines n)).lineGone n l cause

/-- Does the window's line hold the access? -/
def Chip.lineHit (s : Chip) (r : FarReq) : Option Line :=
  match s.lineOf (winOf r.far) with
  | some l => if r.line ∧ l.off = offOf r.far / lineBytes r.kind * lineBytes r.kind then some l else none
  | none => none

/-- The value that an access takes from a line. -/
def Line.value (l : Line) (r : FarReq) : Word := BitVec.ofNat 32 (rd l.bytes (offOf r.far - l.off) r.size.bytes)

/-- A word of the line has been delivered. -/
def Line.deliver (l : Line) (r : FarReq) : Line := { l with unread := clrBit l.unread ((offOf r.far - l.off) / 4) }

/-- An access is served from a line: its result is known. -/
def Chip.serveLine (s : Chip) (r : FarReq) (l : Line) : Chip :=
  (s.setLines (mput s.cores.lines (winOf r.far) (l.deliver r))).settleTag (r.tag.getD 0) 0 (l.value r)

/-- An access to be tried at a bus is an STX through the window. -/
def BusTry.stores (t : BusTry) (n : Nat) : Bool := decide (t.window = n) && match t.req with
  | some r => r.write.isSome
  | none => false

/-- A line arrives (R332, R333, "STX arrives as a prefetch line fills"): it replaces the buffer, or is discarded for an STX that
waits. -/
def Chip.fillLine (s : Chip) (k : Nat) (r : FarReq) (bytes : List Byte) : Chip :=
  let n := winOf r.far
  let w := lineBytes r.kind
  let l := Line.deliver ⟨offOf r.far / w * w, padTo bytes w, 2 ^ (w / 4) - 1⟩ r
  if (s.bus k).tries.any (fun t => t.stores n) then s.lineGone n l 1
  else (s.discardLine n 0).setLines (mput (s.discardLine n 0).cores.lines n l)

/-! ### The accessory bus (R339–R341) -/

/-- The lowest `k` bytes of a number, most significant first. -/
def msbBytes (v k : Nat) : List Byte := (leBytes v k).reverse

/-- What an access sends: the SPI command, address and data, or the I²C phases, each after a START. -/
def farFrame (k : Nat) (r : FarReq) : List Out :=
  let data (msb : Bool) : List Byte := match r.write with
    | some v => if msb then msbBytes v.toNat r.size.bytes else leBytes v.toNat r.size.bytes
    | none => []
  if k = 1 ∨ k = 2 then
    let cmd := if r.write.isSome then bits r.acc 8 8 else bits r.acc 0 8
    [.bytes "SPI" (k - 1) (BitVec.ofNat 8 cmd :: msbBytes r.addr (bits r.acc 16 3) ++ data (bit r.acc 28))]
  else if k = 3 ∨ k = 4 then
    let target := 2 * bits r.acc 0 7
    let reg := msbBytes r.addr (bits r.acc 7 2)
    match r.write with
    | some _ => [.bytes "I2C" (k - 3) (BitVec.ofNat 8 target :: reg ++ data (bit r.acc 11))]
    | none =>
      (if reg = [] then [] else [.bytes "I2C" (k - 3) (BitVec.ofNat 8 target :: reg)])
        ++ [.bytes "I2C" (k - 3) [BitVec.ofNat 8 (target + 1)]]
  else []

/-! ### Buses and arbitration (R344–R346) -/

/-- An earlier attempt must be performed before a later one: accesses of one requester to one window (R331), and a hand's LOCK among
its own accesses (spec/11_fungatre_tunnel_instructions.md R324). -/
def BusTry.blocks (e t : BusTry) : Bool :=
  decide (e.window = t.window) &&
  (if e.req.isNone ∨ t.req.isNone then decide (e.hand = t.hand) else decide (coreOf e.hand = coreOf t.hand))

/-- The attempts whose turn it is. -/
def frontOf (seen l : List BusTry) : List BusTry :=
  match l with
  | [] => []
  | t :: r => if seen.any (fun e => e.blocks t) then frontOf (seen ++ [t]) r else t :: frontOf (seen ++ [t]) r

/-- The bus is held: by a lock, or by a transfer. -/
def Bus.held (b : Bus) : Bool := b.lock.isSome || b.busy.isSome

/-- A requester loses: its losses count, and it backs off (R346). -/
def Chip.lose (s : Chip) (k : Nat) (t : BusTry) : Chip :=
  let b := s.bus k
  let q := coreOf t.hand
  (s.setBus k { b with
    losses := mset 0 b.losses q (mget 0 b.losses q + 1)
    tries := b.tries.map (fun x => if x = t then { x with backedOff := true } else x) }).inc BRG_ARB_LOSS

/-- The data of a read in order of its bytes, as MSB_FIRST says of the bytes on the bus (R340, Table 12.8). -/
def FarReq.received (r : FarReq) (bytes : List Byte) : List Byte :=
  let msb := (decide (r.kind = 2) && bit r.acc 28) || (decide (r.kind = 3) && bit r.acc 11)
  if msb then (padTo bytes (if r.line then lineBytes r.kind else r.size.bytes)).reverse else bytes

/-- A transfer starts; an access whose line has come meanwhile needs none (R332). -/
def Chip.startTransfer (s : Chip) (k : Nat) (r : FarReq) : Chip :=
  match s.lineHit r with
  | some l => s.serveLine r l
  | none => (farFrame k r).foldl (fun (s : Chip) o => s.emit o) ((s.setBus k { s.bus k with busy := some r }).emit (.far k r))

/-- A transfer ends: without a lock the sequence on the bus ends with it (R339, R345). -/
def Chip.endTransfer (s : Chip) (k : Nat) : Chip :=
  let s := s.setBus k { s.bus k with busy := none }
  if (s.bus k).lock.isSome then s else s.endSequence k

/-- An attempt leaves the bus's list. -/
def Chip.dropTry (s : Chip) (k : Nat) (t : BusTry) : Chip := s.setBus k { s.bus k with tries := (s.bus k).tries.erase t }

/-- A lock is granted: lines read through its bus leave their buffers (R333, R338). -/
def Chip.holdLock (s : Chip) (k : Nat) (h : HandId) (n : Nat) : Chip :=
  let s := s.setBus k { s.bus k with lock := some h, lockWin := n }
  s.cores.lines.foldl (fun (s : Chip) e => if s.winBus e.1 = some k then s.discardLine e.1 2 else s) s

/-- A queued request is granted: a waiting hand completes its LOCK, another gets event 4
(spec/11_fungatre_tunnel_instructions.md R325). -/
def Chip.grantLock (s : Chip) (k : Nat) (h : HandId) (n : Nat) : Chip :=
  let s := s.holdLock k h n
  match (s.hand h).state, (s.hand h).stalled with
  | .stall, some (.lock _ d _ false) => (s.complete h d 1).boundary h
  | _, _ => s.raise h 4

/-- The attempt that the arbiter grants: the first requester after the last one granted, in number order (R344). -/
def winner (last : Nat) (l : List BusTry) : Option BusTry :=
  let far (t : BusTry) : Nat := (coreOf t.hand + 18 - last % 19) % 19
  l.foldl (fun (w : Option BusTry) t => match w with
    | none => some t
    | some x => if far t < far x then some t else some x) none

/-- The attempts present at a free bus. -/
def Bus.present (b : Bus) : List BusTry := (frontOf [] b.tries).filter (fun t => !t.backedOff)

/-- A free bus grants one attempt, and the others lose; a locked bus performs its holder's next access (R338, R344). -/
def Chip.arbitrate (s : Chip) (k : Nat) : Chip :=
  let b := s.bus k
  if b.busy.isSome then s
  else match b.lock with
  | some h =>
    match frontOf [] (b.tries.filter (fun t => decide (t.hand = h) && t.req.isSome)) with
    | t :: _ => match t.req with
      | some r => (s.dropTry k t).startTransfer k r
      | none => s
    | [] => s
  | none =>
    match winner b.last b.present with
    | none => s
    | some w =>
      let s := (b.present.erase w).foldl (fun (s : Chip) t => s.lose k t) s
      let s := s.dropTry k w
      let s := s.setBus k { s.bus k with last := coreOf w.hand, losses := mset 0 (s.bus k).losses (coreOf w.hand) 0 }
      match w.req with
      | some r => s.startTransfer k r
      | none => s.grantLock k w.hand w.window

/-- An attempt is made: one whose turn it is loses at once at a held bus, and the holder of its lock goes ahead when the bus is
still (R338, R344). -/
def Chip.attempt (s : Chip) (k : Nat) (t : BusTry) : Chip :=
  let b := s.bus k
  let s := s.setBus k { b with tries := b.tries ++ [t] }
  if b.lock = some t.hand then (if b.busy.isSome then s else s.arbitrate k)
  else if b.held ∧ (frontOf [] (b.tries ++ [t])).contains t then s.lose k t
  else s

/-! ### Submitting an access -/

/-- An access to a bus that cannot be reached ends at once (R335, R343, R349). -/
def Chip.busError (s : Chip) (k : Nat) : Nat :=
  if k = 0 then (if s.on PCI_STAT_LINK then 0 else 3)
  else if s.domainOn 14 = false then 1
  else if 3 ≤ k ∧ bit (s.get BRG_STAT_I2C_STUCK) (k - 3) then 5
  else 0

/-- Earlier accesses of the requester through the window, or a LOCK of the hand's, are still to be performed (R331,
spec/11_fungatre_tunnel_instructions.md R324). -/
def Chip.behind (s : Chip) (k : Nat) (t : BusTry) : Bool :=
  (s.bus k).tries.any (fun e => e.blocks t) || match (s.bus k).busy with
  | some r => decide (winOf r.far = t.window ∧ coreOf r.hand = coreOf t.hand)
  | none => false

/-- An access through a window of KIND 1, 2 or 3: an STX makes the window's line leave its buffer, and an LDX of the line is served from
it, target or no target, in its turn (R332). -/
def Chip.submit (s : Chip) (k : Nat) (r : FarReq) : Chip :=
  let s := if r.write.isSome then s.discardLine (winOf r.far) 1 else s
  let t : BusTry := ⟨r.hand, some r, winOf r.far, false⟩
  if s.busError k = 1 then s.refuseReq r 1
  else match s.lineHit r with
  | some l => if s.behind k t then s.attempt k t else s.serveLine r l
  | none => if s.busError k = 0 then s.attempt k t else s.refuseReq r (s.busError k)

/-- Can tunnel 0 reach the node (Table 12.2, code 6)? -/
def Chip.reaches (s : Chip) (node : Nat) : Bool :=
  decide (node = s.node) || match s.route ⟨mkHdr node 0 0 5 true true 0 0, []⟩ with
  | .here => true
  | .out _ => true
  | _ => false

/-- The RID of an access to another node: its tag, or for a posted write 0x8000 and above (DESIGN CHOICE, log entry 18). -/
def ridOf (r : FarReq) (next : Nat) : Nat := match r.tag with
  | some t => t
  | none => 0x8000 + next

/-- An access through a window of KIND 4 becomes one tunnel 0 message (R619). -/
def Chip.submitRemote (s : Chip) (r : FarReq) : Chip :=
  if r.size ≠ .word then s.refuseReq r 7
  else if s.reaches r.acc = false then s.refuseReq r 6
  else
    let rid := ridOf r s.cores.nextRid
    let m := match r.write with
      | none => message 5 0 (leBytes rid 2 ++ leBytes r.addr 4)
      | some v => message 6 0 (leBytes rid 2 ++ leBytes r.addr 4 ++ leBytes v.toNat 4)
    let a := s.sendMsg r.acc m
    if a.1 = false then a.2.refuseReq r 6
    else if r.tag.isSome then a.2
    else { a.2 with cores := { a.2.cores with
      remoteWrites := mput a.2.cores.remoteWrites rid r, nextRid := (a.2.cores.nextRid + 1) % 32768 } }

/-- May the bridge take another posted write to a KIND 4 window (R619)? -/
def Chip.postedRoom (s : Chip) : Bool := decide (s.cores.remoteWrites.length < 256)

/-! ### Completion of a transfer -/

/-- The transfer at a bus ends with a completion; a read through a prefetch window fills its line. -/
def State.transferDone (s : State) (k : Nat) (r : FarReq) (code : Nat) (bytes : List Byte) : State :=
  let c := s.chip.endTransfer k
  match r.tag with
  | none => { s with chip := if code = 0 then c else c.farLog r.hand r.far.toNat code false }
  | some t => match c.tagAt t with
    | none =>
      let c := c.lateResponse t
      { s with chip := if code = 0 then c else c.farLog r.hand r.far.toNat code false }
    | some x =>
      let bytes := r.received bytes
      let c := if code = 0 ∧ r.line then c.fillLine k r bytes else c
      let off := if r.line then offOf r.far % lineBytes r.kind else 0
      State.endAccess { s with chip := c } t x code (BitVec.ofNat 32 (rd bytes off r.size.bytes))

/-- An open access to another node fails where tunnel 0 to it is Broken, or it cannot be reached (Table 12.2, code 6). -/
def Chip.remoteGone (s : Chip) (x : Tag) : Bool :=
  decide (x.req.kind = 4) && ((s.peerOf x.req.acc).isNone && decide (x.req.acc ≠ s.node) || !s.reaches x.req.acc)

/-- FAR_COMPLETION (R322, R336): an access with a known result completes with it; one being performed at a bus ends with the
operands' code and data, in the order of the bus and the whole line where it reads one; any other open access cannot complete yet. -/
def State.farComplete (s : State) (a : FarAccess) (code : Nat) (bytes : List Byte) : State :=
  match a with
  | .posted k => match (s.chip.bus k).busy with
    | some r => if r.tag.isNone then s.transferDone k r code bytes else s
    | none => s
  | .tag t => match s.chip.busOfTag t with
    | some k => match (s.chip.bus k).busy with
      | some r => s.transferDone k r code bytes
      | none => s
    | none => match s.chip.tagAt t with
      | none => { s with chip := s.chip.lateError t code }
      | some x => match x.result with
        | some r => s.endAccess t x r.1 r.2
        | none => if s.chip.remoteGone x then s.endAccess t x 6 0 else s

/-- Everything at a bus but its lock and the requests for it ends with an error. -/
def State.failBus (s : State) (k code : Nat) : State :=
  let b := s.chip.bus k
  let reqs := b.busy.toList ++ b.tries.filterMap (·.req)
  let c := s.chip.setBus k { b with busy := none, tries := b.tries.filter (fun t => t.req.isNone) }
  reqs.foldl (fun (s : State) r => s.failReq r code) { s with chip := c }

/-! ### Commands -/

/-- The attempts of an access whose tag is reclaimed are withdrawn from the buses. -/
def Chip.withdrawTag (s : Chip) (tag : Nat) : Chip :=
  (List.range 5).foldl (fun (c : Chip) k =>
    let b := c.bus k
    c.setBus k { b with tries := b.tries.filter (fun t => match t.req with
      | some r => r.tag != some tag
      | none => true) }) s

/-- TAG_TIMEOUT (R260): the access completes with code 8; one not yet at its bus is withdrawn, and a block tag is reclaimed
(spec/15_ethernet_and_storage.md R410). -/
def execTagTimeout (tag : Fin 2048) (s : State) : Result := .next (
  match s.chip.tagAt tag with
  | some x =>
    State.endAccess { s with chip := s.chip.withdrawTag tag.val } tag x 8 0
  | none =>
    { s with chip := { s.chip with ends := { s.chip.ends with blockTags := mset false s.chip.ends.blockTags tag false } } })

/-- ARBITRATION (R344). -/
def execArbitration (k : Fin 5) (s : State) : Result := s.onHand (fun c => c.arbitrate k)

/-- BACK_OFF (R346): the hand's first attempt that backs off is made again, and loses again at a held bus. -/
def backOff (k : Nat) (h : HandId) (s : Chip) : Chip :=
  let b := s.bus k
  match b.tries.find? (fun t => decide (t.hand = h) && t.backedOff) with
  | none => s
  | some t =>
    if b.held ∧ b.lock ≠ some h then s.lose k t
    else s.setBus k { b with tries := b.tries.map (fun x => if x = t then { x with backedOff := false } else x) }

def execBackOff (k : Fin 5) (h : HandId) (s : State) : Result := s.onChip (backOff k h)

/-- PREFETCH_DISCARD (R333): PF_LIFE has passed. -/
def execPrefetchDiscard (n : Fin 64) (s : State) : Result := s.onChip (fun c => c.discardLine n 4)

/-- The hand holds a lock, or waits for one. -/
def Chip.lockUse (s : Chip) (h : HandId) : Bool := (List.range 5).any (fun k =>
  (s.bus k).lock == some h || (s.bus k).tries.any (fun t => decide (t.hand = h) && t.req.isNone))

/-- imm16 of LOCK and UNLOCK: bit 0 is OP, bit 1 NB. -/
def lockWord (d a : BitVec 5) (op nb : Bool) : Word := fmtI 0x16 d a (BitVec.ofNat 16 (b2n op + 2 * b2n nb))

/-- LOCK (R325): a free bus at which no other attempt is present, one in back-off being none (R344, R346), is granted at once. -/
def lockBody (h : HandId) (d a : BitVec 5) (nb : Bool) (s : Chip) : Chip :=
  let far := (s.hand h).w a
  let n := winOf far
  if s.lockUse h then s.trapHere h 1 (lockWord d a false nb)
  else match s.winBus n with
  | none => s.trapHere h 3 far
  | some k =>
    if s.get (BRG_WIN_CFG_LOCKABLE n) = 0 ∨ s.get (BRG_WIN_CFG_EN n) = 0 then s.trapHere h 3 far
    else
      let b := s.bus k
      if b.held = false ∧ b.present = [] ∧ s.behind k ⟨h, none, n, false⟩ = false then
        let s := s.setBus k { b with last := coreOf h, losses := mset 0 b.losses (coreOf h) 0 }
        (s.holdLock k h n).complete h d 1
      else
        let s := s.attempt k ⟨h, none, n, false⟩
        if nb then s.complete h d 0 else s.stall h (.lock h d a nb)

def execLock (h : HandId) (d a : BitVec 5) (nb : Bool) (s : State) : Result := s.issueChip h (lockBody h d a nb)

/-- LOCK_GRANTED (R325): the arbiter's next grant is a lock's. -/
def lockGranted (k : Nat) (s : Chip) : Chip :=
  let b := s.bus k
  match winner b.last b.present with
  | some w => if b.held = false ∧ w.req.isNone then s.arbitrate k else s
  | none => s

def execLockGranted (k : Fin 5) (s : State) : Result := s.onHand (lockGranted k)

/-- Accesses of the hand through a window that have not completed. -/
def Chip.windowBusy (s : Chip) (h : HandId) (n : Nat) : Bool :=
  s.cores.tags.any (fun e => decide (e.2.req.hand = h ∧ winOf e.2.req.far = n))
  || s.cores.remoteWrites.any (fun e => decide (e.2.hand = h ∧ winOf e.2.far = n))
  || s.cores.buses.any (fun e => e.2.tries.any (fun t => decide (t.hand = h ∧ t.window = n) && t.req.isSome)
    || match e.2.busy with
      | some r => decide (r.hand = h ∧ winOf r.far = n)
      | none => false)

/-- UNLOCK (R326). -/
def unlockBody (h : HandId) (d a : BitVec 5) (s : Chip) : Chip :=
  let n := winOf ((s.hand h).w a)
  if s.windowBusy h n then s.stall h (.unlock h d a)
  else match s.winBus n with
  | none => s.complete h d 0
  | some k =>
    let b := s.bus k
    if b.lock = some h then ((s.setBus k { b with lock := none }).endSequence k).complete h d 1
    else if b.tries.any (fun t => decide (t.hand = h) && t.req.isNone) then
      (s.setBus k { b with tries := b.tries.filter (fun t => !(decide (t.hand = h) && t.req.isNone)) }).complete h d 1
    else s.complete h d 0

def execUnlock (h : HandId) (d a : BitVec 5) (s : State) : Result := s.issueChip h (unlockBody h d a)

/-- An I²C transfer is aborted (R343): SDA is released, and where a target holds it low, `sda` clock pulses and a STOP follow. -/
def Chip.abortI2c (s : Chip) (k sda : Nat) : Chip :=
  let s := s.emit (.pin "I2C_SDA" (k - 3) 1)
  if sda = 0 then s else (s.emit (.pin "I2C_SCL_PULSES" (k - 3) sda)).endSequence k

/-- A bus is freed by its watchdog: no lock, no transfer (R347). -/
def Chip.freeBus (s : Chip) (k sda : Nat) : Chip :=
  let aborted := (s.bus k).busy.isSome
  let s := s.setBus k { s.bus k with lock := none, busy := none }
  if 3 ≤ k ∧ aborted then s.abortI2c k sda else s.endSequence k

/-- The bite reaches its holder: trap 0x05 at its next boundary, the event, and the source of doubt
(R347, spec/18_field_io_and_shutter.md Table 18.1). -/
def Chip.lockBite (s : Chip) (k : Nat) (h : HandId) (atOnce : Bool) : Chip :=
  let s := s.setHand h { s.hand h with pend05 := some k }
  let s := (s.evt BRG_EVT_LOCK_BITE).shutter causeWdog
  if atOnce then s.boundary h else s

/-- LOCK_WDOG (R347): the access in progress ends with code 9 where it is open, and the bite alone is logged where it is not. `sda` is the
number of clock pulses after which a target lets SDA go. -/
def State.lockWdog (s : State) (k sda : Nat) : State :=
  let b := s.chip.bus k
  match b.lock, b.busy with
  | none, none => s
  | some h, none =>
    let c := (s.chip.freeBus k sda).farLog h (2 ^ 26 * b.lockWin) 9 false
    s.settle (c.lockBite k h true)
  | l, some r =>
    let h := l.getD r.hand
    let reading := s.chip.stalledOnTag h
    let c := s.chip.freeBus k sda
    let s := match r.tag with
      | some t => if (c.tagAt t).isSome then State.failReq { s with chip := c } r 9 else { s with chip := c.farLog r.hand r.far.toNat 9 false }
      | none => State.failReq { s with chip := c } r 9
    s.settle (s.chip.lockBite k h (!reading))

def execLockWdog (k : Fin 5) (sda : Fin 10) (s : State) : Result := .next (s.lockWdog k sda)

/-- I2C_STUCK (R343): every access to the bus ends with code 5. -/
def execI2cStuck (bus : Fin 2) (s : State) : Result := .next (
  let c := (s.chip.setBitOf BRG_STAT_I2C_STUCK bus).evt BRG_EVT_I2C_STUCK
  State.failBus { s with chip := c } (3 + bus.val) 5)

/-- I2C_UNSTUCK (R343): SCL has been high for 10 bit times. -/
def execI2cUnstuck (bus : Fin 2) (s : State) : Result := s.onChip (fun c => c.clrBitOf BRG_STAT_I2C_STUCK bus)

/-- RCSR_RECORD_TIMEOUT (R619). -/
def execRcsrRecordTimeout (rid : BitVec 16) (s : State) : Result := s.onChip (fun c =>
  match c.cores.remoteWrites.find? (fun e => decide (e.1 = rid.toNat)) with
  | none => c
  | some e =>
    ({ c with cores := { c.cores with remoteWrites := mdel c.cores.remoteWrites e.1 } } : Chip).farLog e.2.hand e.2.far.toNat 8 false)

/-! ### Window registers (R329, R5) -/

/-- A combination that Table 12.1 allows. -/
def winAllowed (kind prefetch lockable bus size : Nat) : Bool :=
  decide (12 ≤ size ∧ size ≤ (if kind = 0 ∨ kind = 4 then 24 else 26))
  && decide (prefetch = 0 ∨ kind = 1 ∨ kind = 2) && decide (lockable = 0 ∨ (1 ≤ kind ∧ kind ≤ 3))
  && decide (bus = 0 ∨ kind = 2 ∨ kind = 3)

/-- The rejected write (R329). -/
def Chip.cfgErr (s : Chip) : Chip := s.evt BRG_EVT_CFG_ERR

/-- A write to BRG_WIN_CFG_n. -/
def Chip.winCfg (s : Chip) (n v : Nat) : Chip :=
  let en := s.get (BRG_WIN_CFG_EN n)
  let oldKind := s.get (BRG_WIN_CFG_KIND n)
  let kind := if bits v 1 3 ≤ 4 then bits v 1 3 else oldKind
  let old := [oldKind, s.get (BRG_WIN_CFG_POSTED n), s.get (BRG_WIN_CFG_PREFETCH n), s.get (BRG_WIN_CFG_LOCKABLE n),
    s.get (BRG_WIN_CFG_BUS n), s.get (BRG_WIN_CFG_SIZE n)]
  let new := [kind, bits v 4 1, bits v 5 1, bits v 6 1, bits v 7 1, bits v 8 5]
  if en = 1 ∧ bits v 0 1 = 1 ∧ new ≠ old then s.cfgErr
  else if winAllowed kind (bits v 5 1) (bits v 6 1) (bits v 7 1) (bits v 8 5) = false then s.cfgErr
  else
    let s := ((s.put (BRG_WIN_CFG_EN n) (bits v 0 1)).put (BRG_WIN_CFG_KIND n) kind).put (BRG_WIN_CFG_POSTED n) (bits v 4 1)
    let s := (s.put (BRG_WIN_CFG_PREFETCH n) (bits v 5 1)).put (BRG_WIN_CFG_LOCKABLE n) (bits v 6 1)
    let s := (s.put (BRG_WIN_CFG_BUS n) (bits v 7 1)).put (BRG_WIN_CFG_SIZE n) (bits v 8 5)
    if en = 1 ∧ bits v 0 1 = 0 then s.discardLine n 3 else s

/-- A write to a window's register 1 BASE_LO, 2 BASE_HI or 3 ACC: while EN is 1 it changes nothing, and one that would change what
the register shows sets CFG_ERR (R329). While EN is 0 the word is kept whatever the KIND, so that a base may be written before the
write of CFG that gives the KIND and sets EN (DEDUCED, log entry 29). -/
def Chip.winField (s : Chip) (n reg : Nat) (f : Fld) (v : Nat) : Chip :=
  let kind := s.get (BRG_WIN_CFG_KIND n)
  if s.on (BRG_WIN_CFG_EN n) then (if winShown reg kind v = winShown reg kind (s.get f) then s else s.cfgErr) else s.put f v

/-- A write to a window's register: 0 CFG, 1 BASE_LO, 2 BASE_HI, 3 ACC. -/
def Chip.windowWrite (s : Chip) (n reg v : Nat) : Chip :=
  match reg with
  | 0 => s.winCfg n v
  | 1 => s.winField n 1 (BRG_WIN_BASE_LO_BASE n) v
  | 2 => s.winField n 2 (BRG_WIN_BASE_HI_BASE n) v
  | _ => s.winField n 3 (BRG_WIN_ACC_ACC n) (accValue (s.get (BRG_WIN_CFG_KIND n)) (s.get (BRG_WIN_ACC_ACC n)) v)

def execWindowConfig (n : Fin 64) (reg : Fin 4) (value : Word) (s : State) : Result :=
  s.onChip (fun c => c.windowWrite n reg value.toNat)

end Sys2Proof.Machine
end

