-- ==== Sys2Proof/Machine/Pci.lean ====
section
/-! DEFINITION. The storage port P6 (spec/15_ethernet_and_storage.md R404–R411, R413): the PCI Express link, configuration accesses,
inbound requests, the cells of the storage buffer, and block tags. -/

namespace Sys2Proof.Machine
open Sys2Proof Sys2Proof.Machine.Reg

def pciOn (s : Chip) : Bool := s.domainOn 12

/-- Bytes of the storage buffer (R406). -/
def sbufSize : Nat := 2 ^ 20

/-! ### The link (R404, R405, R408) -/

/-- Writing PERST_REL 1 releases PERST_N. -/
def perstRel (s : Chip) : Chip :=
  if pciOn s = false ∨ s.on PCI_CTL_PERST_REL then s else (s.put PCI_CTL_PERST_REL 1).emit (.pin "PERST_N" 0 1)

def execPerstRel (s : State) : Result := s.onChip perstRel

/-- The link completes training at a rate and width, neither above its target (Table 15.7). -/
def pciLinkUp (gen width : Nat) (s : Chip) : Chip :=
  if pciOn s = false ∨ s.get PCI_CTL_EN = 0 ∨ s.get PCI_CTL_PERST_REL = 0 ∨ s.on PCI_STAT_LINK
      ∨ s.get PCI_CTL_TGT_GEN < gen ∨ width < s.get PCI_CTL_TGT_WIDTH then s
  else (((s.put PCI_STAT_LINK 1).put PCI_STAT_GEN gen).put PCI_STAT_WIDTH width).evt PCI_EVT_LINK_UP

def execPciLinkUp (gen : Fin 4) (width : Fin 3) (s : State) : Result := s.onChip (pciLinkUp gen width)

/-- A link-down ends open outbound accesses with far error 3; P6 and SBUF stay in service (R408). -/
def State.pciDown (s : State) : State :=
  if s.chip.on PCI_STAT_LINK then
    State.failBus { s with chip := (s.chip.put PCI_STAT_LINK 0).evt PCI_EVT_LINK_DOWN } 0 3
  else s

def execPciLinkDown (s : State) : Result := .next s.pciDown

/-- EN is cleared: the link goes down, P6 goes down under R177, and the SBUF contents are discarded (R408). -/
def State.pciDisable (s : State) : State :=
  if s.chip.get PCI_CTL_EN = 0 then s
  else
    let s := State.pciDown { s with chip := s.chip.put PCI_CTL_EN 0 }
    { s with chip := s.chip.endDown 6, mem := Memory.clear s.mem sbufBase (sbufBase + sbufSize) }

def execPciDisable (s : State) : Result := .next s.pciDisable

/-- A completion timeout (R405): the access of the tag, which the bus performs, ends with far error 3. -/
def State.pciCplTmo (s : State) (t : Nat) : State :=
  if s.chip.busOfTag t = some 0 then
    match s.chip.tagAt t with
    | none => s
    | some x =>
      let c := ((s.chip.endTransfer 0).inc PCI_CPL_TMO_CNT).evt PCI_EVT_CPL_TMO
      State.endAccess { s with chip := c } t x 3 0
  else s

def execPciCplTmo (tag : Fin 2048) (s : State) : Result := .next (s.pciCplTmo tag)

/-! ### Configuration accesses (R405) -/

/-- An access to PCI_CFG_DATA: a read gives what the device answers. What the root port's own configuration space holds, and what a
read gives while the link is down, the spec does not state: free values (DESIGN CHOICE, log entry 3). -/
def pciCfgData (write : Option Nat) (value : Nat) (s : Chip) : Chip :=
  if pciOn s = false then s
  else
    let away := s.on PCI_STAT_LINK && decide (s.get PCI_CFG_ADDR_SELF = 0)
    match write with
    | some v => if away then s.emit (.bytes "PCI_CFG" (s.get PCI_CFG_ADDR_REG) (leBytes v 4)) else s
    | none =>
      if away then s.put PCI_CFG_DATA_DATA value
      else
        let f := s.fresh 32
        f.2.put PCI_CFG_DATA_DATA f.1

def execPciCfgData (write : Option Word) (value : Word) (s : State) : Result :=
  s.onChip (pciCfgData (write.map (·.toNat)) value.toNat)

/-! ### Endpoint cells (R406, R407, Table 15.4) -/

/-- A storage endpoint header: offset, LEN, VLEN, OP. -/
def sbufHdr (off len vlen op : Nat) : BitVec 64 :=
  BitVec.ofNat 64 (off % 2 ^ 16 + len % 2 ^ 16 * 2 ^ 26 + 3 * 2 ^ 42 + vlen % 2 ^ 7 * 2 ^ 47 + off / 2 ^ 16 % 16 * 2 ^ 54
    + op * 2 ^ 58)

/-- A cell's SBUF offset. -/
def sbufOff (c : Cell) : Nat := c.field 0 16 + 2 ^ 16 * c.field 54 4

/-- An inbound request (R406): SBUF, an MSI-X message, or Unsupported Request. -/
def State.inbound (s : State) (addr len : Nat) (write : Option (List Byte)) : State :=
  let c := s.chip
  if pciOn c = false ∨ c.get PCI_STAT_LINK = 0 then s
  else
    let base := (c.get PCI_SBUF_BASE_LO_BASE + 2 ^ 32 * c.get PCI_SBUF_BASE_HI_BASE) / 2 ^ 21 * 2 ^ 21
    let n := match write with
      | some b => b.length
      | none => len
    let inside := decide (base ≤ addr ∧ addr + n ≤ base + sbufSize)
    let unsupported : State := { s with chip := (c.inc PCI_UR_CNT).evt PCI_EVT_UR_INBOUND }
    match write with
    | none =>
      if inside then { s with chip := c.emit (.bytes "PCI_CPL" 0 (Memory.bytes s.mem (sbufBase + (addr - base)) n)) }
      else { unsupported with chip := unsupported.chip.emit (.bytes "PCI_UR" 0 []) }
    | some b =>
      if inside then { s with mem := Memory.setBytes s.mem (sbufBase + (addr - base)) b }
      else
        let v := leNat b
        if addr = base + sbufSize ∧ v < 16 then
          if c.on (PCI_MSIX_RING_EN v) then
            { s with chip := c.endToRing 6 (c.get (PCI_MSIX_RING_RING v)) ⟨sbufHdr 0 v 0 5, padTo [] 104⟩ }
          else s
        else unsupported

def execInboundRequest (addr : BitVec 64) (len : BitVec 13) (write : Option (List Byte)) (s : State) : Result :=
  .next (s.inbound addr.toNat len.toNat write)

/-- P6 is in service. -/
def p6Up (s : Chip) : Bool := pciOn s && s.on PCI_CTL_EN

/-- A cell's OP. -/
def sbufOp (c : Cell) : Nat := c.field 58 4

/-- SBUF_WR: the bytes reach SBUF, and WR_ACK is returned where it is asked for; an access beyond SBUF is not performed. A cell whose OP
no ring may give, or whose VLEN is none, is taken and does nothing (DESIGN CHOICE, log entry 48). -/
def State.sbufWr (s : State) (ring : Nat) (x : Cell) (ecc : EccFind) : State :=
  if p6Up s.chip = false ∨ sbufOp x = 2 then s
  else
    let r := s.chip.takeGiven 6 x ecc
    let c := r.2
    let off := sbufOff x
    if r.1 = false ∨ sbufOp x ≠ 1 ∨ x.vlen = 0 ∨ 104 < x.vlen then { s with chip := c }
    else if sbufSize < off + x.vlen then { s with chip := c.evt PCI_EVT_SBUF_ERR }
    else
      { s with
        chip := if x.field 62 1 = 1 then c.endToRing 6 ring ⟨sbufHdr off 0 0 4, padTo [] 104⟩ else c
        mem := Memory.setBytes s.mem (sbufBase + off) (slice x.data 0 x.vlen) }

def execSbufWr (ring : Fin 64) (cell : Cell) (ecc : EccFind) (s : State) : Result := .next (s.sbufWr ring cell ecc)

/-- SBUF_RD: SBUF_DATA cells of 104 bytes, the last of what is left, each with its own offset. -/
def State.sbufRd (s : State) (ring : Nat) (x : Cell) (ecc : EccFind) : State :=
  if p6Up s.chip = false ∨ sbufOp x ≠ 2 then s
  else
    let r := s.chip.takeGiven 6 x ecc
    let c := r.2
    let off := sbufOff x
    let len := x.field 26 16
    if r.1 = false ∨ len = 0 then { s with chip := c }
    else if sbufSize < off + len then { s with chip := c.evt PCI_EVT_SBUF_ERR }
    else
      { s with chip := (List.range ((len + 103) / 104)).foldl (fun (c : Chip) i =>
          let n := min 104 (len - 104 * i)
          let at_ := off + 104 * i
          c.endToRing 6 ring ⟨sbufHdr at_ 0 n 3, padTo (Memory.bytes s.mem (sbufBase + at_) n) 104⟩) c }

def execSbufRd (ring : Fin 64) (cell : Cell) (ecc : EccFind) (s : State) : Result := .next (s.sbufRd ring cell ecc)

/-! ### Block tags (R410) -/

/-- PCI_BT_STAT.HELD. -/
def Chip.blockHeld (s : Chip) : Nat := s.ends.blockTags.length

/-- The block tag that a read of PCI_BT_ALLOC gives. -/
def Chip.blockTag (s : Chip) : Option Nat := if s.blockHeld < s.get PCI_BT_QUOTA_QUOTA then s.freeTagIn 128 2048 else none

/-- A read of PCI_BT_ALLOC takes a tag, which TAG shows, or shows NONE. -/
def btAlloc (s : Chip) : Chip :=
  if pciOn s = false then s
  else match s.blockTag with
  | none => (s.put PCI_BT_ALLOC_TAG 0).put PCI_BT_ALLOC_NONE 1
  | some t =>
    ((({ s with ends := { s.ends with blockTags := mset false s.ends.blockTags t true } } : Chip).put PCI_BT_ALLOC_TAG t).put
      PCI_BT_ALLOC_NONE 0)

def execBtAlloc (s : State) : Result := s.onChip btAlloc

/-- A read of PCI_BT_FREE_t frees tag t; of one already reclaimed the response is late, and the event log's entry of it names a requester
that the spec does not state: a free value (R260, Table 24.4, DESIGN CHOICE, log entry 3). -/
def btFree (t : Nat) (s : Chip) : Chip :=
  if pciOn s = false then s
  else if mget false s.ends.blockTags t then
    { s with ends := { s.ends with blockTags := mset false s.ends.blockTags t false } }
  else
    let f := (s.inc BCH_TAG_LATE).fresh 5
    f.2.logEntry 0x0A 0x40 0 t f.1

def execBtFree (tag : Fin 2048) (s : State) : Result := s.onChip (btFree tag)

end Sys2Proof.Machine
end

