-- ==== Sys2Proof/Machine/Usb.lean ====
section
/-! DEFINITION. The USB host and the dock device function (spec/16_peripheral_bus.md): ports, pipes, micro-frames, endpoints, the
carve, bus reset, suspend and remote wake, and the meanings of their commands. -/

namespace Sys2Proof.Machine
open Sys2Proof Sys2Proof.Machine.Reg

def usbOn (s : Chip) : Bool := s.domainOn 13

/-- The host runs. -/
def hostRuns (s : Chip) : Bool := usbOn s && s.on USB_HOST_CTL_EN

/-! ### Ports (R416) -/

/-- RESET is written 1: the port is reset for 50 ms, and its transfers end with PORT_DOWN. -/
def usbPortReset (k : Nat) (s : Chip) : Chip :=
  if hostRuns s = false then s
  else (({ s with ends := { s.ends with usbReset := setBit s.ends.usbReset k } } : Chip).usbPortDown (k + 1)).emit (.pin "USB_RESET" (k + 1) 1)

def execUsbPortReset (k : Fin 4) (s : State) : Result := s.onChip (usbPortReset k)

/-- The reset ends: SPEED is recorded and the port enabled, while a device is there. -/
def usbPortResetEnd (k speed : Nat) (s : Chip) : Chip :=
  if usbOn s = false ∨ bit s.ends.usbReset k = false then s
  else
    let s := ({ s with ends := { s.ends with usbReset := clrBit s.ends.usbReset k } } : Chip).emit (.pin "USB_RESET" (k + 1) 0)
    if s.on (USB_PORT_CONNECTED (k + 1)) ∧ speed ≠ 0 then (s.put (USB_PORT_SPEED (k + 1)) speed).put (USB_PORT_EN (k + 1)) 1 else s

def execUsbPortResetEnd (k : Fin 4) (speed : Fin 4) (s : State) : Result := s.onChip (usbPortResetEnd k speed)

def usbConnect (k : Nat) (s : Chip) : Chip :=
  if hostRuns s = false ∨ s.on (USB_PORT_CONNECTED (k + 1)) then s else (s.put (USB_PORT_CONNECTED (k + 1)) 1).evt USB_EVT_CONNECT

def execUsbConnect (k : Fin 4) (s : State) : Result := s.onChip (usbConnect k)

def usbDisconnect (k : Nat) (s : Chip) : Chip :=
  if hostRuns s = false ∨ s.get (USB_PORT_CONNECTED (k + 1)) = 0 then s
  else ((s.put (USB_PORT_CONNECTED (k + 1)) 0).usbPortDown (k + 1)).evt USB_EVT_DISCONNECT

def execUsbDisconnect (k : Fin 4) (s : State) : Result := s.onChip (usbDisconnect k)

/-- SUSPEND (Table 16.5): 1 suspends the port; 0 drives resume for 20 ms. -/
def usbPortSuspend (k : Nat) (value : Bool) (s : Chip) : Chip :=
  if usbOn s = false then s
  else
    let was := s.on (USB_PORT_SUSPEND (k + 1))
    let s := s.put (USB_PORT_SUSPEND (k + 1)) (b2n value)
    if was ∧ value = false then { s with ends := { s.ends with usbResume := setBit s.ends.usbResume k } } else s

def execUsbPortSuspend (k : Fin 4) (value : Bool) (s : State) : Result := s.onChip (usbPortSuspend k value)

/-- A downstream device signals remote wake on a suspended port. -/
def execPortResume (k : Fin 4) (s : State) : Result := s.onChip (fun c =>
  if hostRuns c && c.on (USB_PORT_SUSPEND (k.val + 1)) then c.evt USB_EVT_PORT_RESUME else c)

/-- The 20 ms of resume end. -/
def execPortResumeEnd (k : Fin 4) (s : State) : Result := s.onChip (fun c =>
  { c with ends := { c.ends with usbResume := clrBit c.ends.usbResume k } })

/-- EN is cleared (R416): P8 goes down, the pipe table is kept, and a pipe that had a transfer in progress is HALTED. -/
def usbHostDisable (s : Chip) : Chip :=
  if s.get USB_HOST_CTL_EN = 0 then s
  else
    let s := s.put USB_HOST_CTL_EN 0
    let s := s.ends.pipes.foldl (fun (s : Chip) e => if e.2.queue.isEmpty then s else s.put (USB_PIPE_A_HALTED e.1) 1) s
    ({ s with ends := { s.ends with pipes := [] } } : Chip).endDown 8

def execUsbHostDisable (s : State) : Result := s.onChip usbHostDisable

/-- EN is set: the host runs, and counts its micro-frames afresh (Table 16.5). -/
def usbHostEnable (s : Chip) : Chip :=
  if s.on USB_HOST_CTL_EN then s
  else (((s.put USB_HOST_CTL_EN 1).put USB_UFRAME_CNT 0).put USB_FRAME_UFRAME 0).put USB_FRAME_FRAME 0

/-! ### The periodic budget (R422) -/

/-- What a pipe asks of the schedule: port speed, port, MPS, PERIOD_EXP and PHASE. -/
structure Periodic where
  speed : Nat
  port : Nat
  mps : Nat
  exp : Nat
  phase : Nat

def Chip.periodic (s : Chip) (k : Nat) : Periodic :=
  let p := s.get (USB_PIPE_A_PORT k)
  ⟨s.get (USB_PORT_SPEED p), p, s.get (USB_PIPE_A_MPS k), s.get (USB_PIPE_B_PERIOD_EXP k), s.get (USB_PIPE_B_PHASE k)⟩

/-- Due in a micro-frame. -/
def Periodic.due (x : Periodic) (m : Nat) : Bool := decide (m % 2 ^ x.exp = x.phase % 2 ^ x.exp)

/-- Due in a frame of eight micro-frames. -/
def Periodic.dueFrame (x : Periodic) (f : Nat) : Bool := (List.range 8).any (fun i => x.due (8 * f + i))

/-- Bytes that a pipe charges. -/
def Periodic.cost (x : Periodic) : Nat := if x.speed = 1 then 8 * (x.mps + 32) else x.mps + 32

/-- No micro-frame above 6,000 bytes, and no translator frame above 1,350. The micro-frames in which a pipe is due are a residue class
modulo a power of two, so the fullest micro-frame is one at some pipe's PHASE. -/
def budgetOk (l : List Periodic) : Bool :=
  let high := l.filter (fun x => x.speed = 3)
  let low := l.filter (fun x => x.speed = 1 ∨ x.speed = 2)
  high.all (fun p => decide (((high.filter (fun x => x.due p.phase)).map Periodic.cost).sum ≤ 6000))
  && low.all (fun p =>
    decide (((low.filter (fun x => x.port == p.port && x.dueFrame (p.phase / 8))).map Periodic.cost).sum ≤ 1350))

/-- The interrupt pipes in use. -/
def Chip.interruptPipes (s : Chip) : List Nat :=
  (List.range 32).filter (fun k => s.on (USB_PIPE_A_EN k) && decide (s.get (USB_PIPE_A_TYPE k) = 2))

/-- A write to USB_PIPE_A_k (R417, R422, R5): TOGGLE and HALTED always take it, the rest only as R417 and the budget allow. -/
def Chip.pipeA (s : Chip) (k v : Nat) : Chip :=
  let old := s
  let port := if 1 ≤ bits v 0 3 ∧ bits v 0 3 ≤ 4 then bits v 0 3 else s.get (USB_PIPE_A_PORT k)
  let kind := if bits v 15 2 = 3 then s.get (USB_PIPE_A_TYPE k) else bits v 15 2
  let mps := if 8 ≤ bits v 17 11 ∧ bits v 17 11 ≤ 1024 then bits v 17 11 else s.get (USB_PIPE_A_MPS k)
  let same := decide ([port, bits v 3 7, bits v 10 4, bits v 14 1, kind, mps] =
    [s.get (USB_PIPE_A_PORT k), s.get (USB_PIPE_A_ADDR k), s.get (USB_PIPE_A_EP k), s.get (USB_PIPE_A_DIR k),
     s.get (USB_PIPE_A_TYPE k), s.get (USB_PIPE_A_MPS k)])
  let s := s.put (USB_PIPE_A_TOGGLE k) (bits v 28 1)
  let s := if bit v 29 then s.put (USB_PIPE_A_HALTED k) 0 else s
  if s.on (USB_PIPE_A_EN k) ∧ bit v 30 ∧ same = false then s
  else
    let s := ((s.put (USB_PIPE_A_PORT k) port).put (USB_PIPE_A_ADDR k) (bits v 3 7)).put (USB_PIPE_A_EP k) (bits v 10 4)
    let s := ((s.put (USB_PIPE_A_DIR k) (bits v 14 1)).put (USB_PIPE_A_TYPE k) kind).put (USB_PIPE_A_MPS k) mps
    let s := s.put (USB_PIPE_A_EN k) (bits v 30 1)
    if bit v 30 ∧ kind = 2 ∧ budgetOk (s.interruptPipes.map (fun i => s.periodic i)) = false then old.evt USB_EVT_BUDGET_ERR
    else s.settleNow k

/-- A write to USB_PIPE_B_k: ignored while EN is 1 where it changes a field. -/
def Chip.pipeB (s : Chip) (k v : Nat) : Chip :=
  if s.on (USB_PIPE_A_EN k) then s
  else ((s.put (USB_PIPE_B_RING k) (bits v 0 6)).put (USB_PIPE_B_PERIOD_EXP k) (bits v 8 4)).put (USB_PIPE_B_PHASE k) (bits v 16 15)

def Chip.pipeWrite (s : Chip) (k : Nat) (b : Bool) (v : Nat) : Chip :=
  if usbOn s = false then s else if b then s.pipeB k v else s.pipeA k v

def execUsbPipeConfig (k : Fin 32) (b : Bool) (value : Word) (s : State) : Result :=
  s.onChip (fun c => c.pipeWrite k b value.toNat)

/-! ### Cells given to the host (R419) -/

/-- A cell joins its pipe's transfers. The rest of a transfer that has ended is discarded; a CANCEL ends the one in progress. -/
def usbCell (cell : Cell) (ecc : EccFind) (s : Chip) : Chip :=
  if hostRuns s = false then s
  else
    let r := s.takeGiven 8 cell ecc
    let s := r.2
    let k := usbPipeNo cell
    let x := s.pipe k
    if r.1 = false then s
    else if usbOp cell = opCancel then (s.endTransferOf k doneCancelled).settleNow k
    else if x.skip ∧ usbOp cell = opOut then s.setPipe k { x with skip := !cell.eom }
    else (s.setPipe k { x with queue := x.queue ++ [cell], skip := false }).settleNow k

/-- SETUP: a SETUP cell, or one whose OP the host does not take, which ends with BAD. -/
def execSetup (_ring : Fin 64) (cell : Cell) (ecc : EccFind) (s : State) : Result :=
  if usbOp cell = opOut ∨ usbOp cell = opInReq ∨ usbOp cell = opCancel then .next s else s.onChip (usbCell cell ecc)

def execOut (_ring : Fin 64) (cell : Cell) (ecc : EccFind) (s : State) : Result :=
  if usbOp cell = opOut then s.onChip (usbCell cell ecc) else .next s

def execInReq (_ring : Fin 64) (cell : Cell) (ecc : EccFind) (s : State) : Result :=
  if usbOp cell = opInReq then s.onChip (usbCell cell ecc) else .next s

def execCancel (_ring : Fin 64) (cell : Cell) (ecc : EccFind) (s : State) : Result :=
  if usbOp cell = opCancel then s.onChip (usbCell cell ecc) else .next s

/-! ### Transactions (R419–R421) -/

/-- What a pipe's next transaction is. -/
inductive Move where
  /-- the setup packet, a data packet of the given bytes, or the status stage's empty packet -/
  | sendSetup | send (bytes : List Byte) | sendStatus
  /-- a read of the data stage or of the status stage -/
  | receive (left : Nat) | receiveStatus
  /-- the bench has not yet given the data -/
  | blocked

/-- The next transaction of the transfer in progress. -/
def Chip.nextMove (s : Chip) (k : Nat) : Move :=
  let x := s.pipe k
  let cells := (firstTransfer x.queue).1
  let mps := s.get (USB_PIPE_A_MPS k)
  let given := outBytes cells
  match cells with
  | [] => .blocked
  | c :: _ =>
    let supply (total : Nat) (ended : Bool) : Move :=
      let n := min mps (total - x.moved)
      if given.length < x.moved + n ∨ (ended = false ∧ given.length < x.moved + mps) then .blocked
      else .send ((given.drop x.moved).take n)
    if usbOp c = opSetup then
      if x.stage = 0 then .sendSetup
      else if x.stage = 1 then (if setupIn c then .receive (setupLen c - x.moved) else supply (setupLen c) true)
      else if setupIn c ∧ setupLen c ≠ 0 then .sendStatus
      else .receiveStatus
    else if usbOp c = opInReq then .receive (usbLen c - x.moved)
    else supply given.length (outEnded cells)

/-- A good transaction of a pipe: errors are no longer in a row, and data flips the toggle. -/
def Chip.goodTxn (s : Chip) (k : Nat) (x : UsbPipe) (flip : Bool) : Chip :=
  let s := s.setPipe k { x with errors := 0 }
  if flip then s.put (USB_PIPE_A_TOGGLE k) (1 - s.get (USB_PIPE_A_TOGGLE k)) else s

/-- The transfer in progress is a control transfer. -/
def Chip.controlling (s : Chip) (k : Nat) : Bool := match (s.pipe k).queue with
  | c :: _ => usbOp c == opSetup
  | [] => false

/-- OUT data has been acknowledged: the transfer ends at EOM, after a zero-length packet where ZLP asks for one. -/
def Chip.sent (s : Chip) (k n : Nat) : Chip :=
  let x := s.pipe k
  let cells := (firstTransfer x.queue).1
  let total := (outBytes cells).length
  let s := s.goodTxn k { x with moved := x.moved + n } true
  if s.controlling k then
    match cells with
    | c :: _ => if x.moved + n = setupLen c then s.setPipe k { s.pipe k with stage := 2 } else s
    | [] => s
  else
    let zlp := (outCells cells).any (fun c => c.eom && c.field 34 1 == 1) && decide (total % s.get (USB_PIPE_A_MPS k) = 0)
    if outEnded cells ∧ x.moved + n = total ∧ (zlp = false ∨ n = 0) then s.endTransferOf k doneOk else s

/-- Data has been read: a short packet, or the last byte wanted, ends the stage. -/
def Chip.received (s : Chip) (k left : Nat) (b : List Byte) : Chip :=
  let x := s.pipe k
  let part := b.take left
  let s := s.goodTxn k { x with moved := x.moved + part.length, got := x.got ++ part } true
  if b.length < s.get (USB_PIPE_A_MPS k) ∨ left ≤ b.length then
    if s.controlling k then s.setPipe k { s.pipe k with stage := 2 } else s.endTransferOf k doneOk
  else s

/-- A transaction error: the third in a row ends the transfer with NO_RESPONSE (R420). -/
def Chip.txnError (s : Chip) (k : Nat) : Chip :=
  let s := s.inc USB_HOST_ERR
  let x := s.pipe k
  if 2 ≤ x.errors then s.haltPipe k doneNoResponse else s.setPipe k { x with errors := x.errors + 1 }

/-- Bytes that a transaction sends. -/
def Move.packet (m : Move) (c : Option Cell) : Option (List Byte) :=
  match m with
  | .sendSetup => c.map (fun c => slice c.data 0 8)
  | .send b => some b
  | .sendStatus => some []
  | _ => none

/-- One transaction of a pipe and the device's answer. An answer that the transaction does not allow is a PID error. -/
def Chip.transact (s : Chip) (k : Nat) (r : UsbReply) : Chip :=
  let x := s.pipe k
  let m := s.nextMove k
  let s := match m.packet x.queue.head? with
    | some b => s.emit (.bytes "USB" k b)
    | none => s
  match m, r with
  | .blocked, _ => s
  | _, .stall => s.haltPipe k doneStall
  | _, .babble => s.haltPipe k doneBabble
  | _, .error => s.txnError k
  | _, .nak => s.goodTxn k x false
  | .sendSetup, .ack =>
    let c := x.queue.headD ⟨0, []⟩
    (s.goodTxn k { x with stage := if setupLen c = 0 then 2 else 1 } false).put (USB_PIPE_A_TOGGLE k) 1
  | .send b, .ack => s.sent k b.length
  | .sendStatus, .ack => s.endTransferOf k doneOk
  | .receive left, .data b => if s.get (USB_PIPE_A_MPS k) < b.length then s.haltPipe k doneBabble else s.received k left b
  | .receiveStatus, .data [] => s.endTransferOf k doneOk
  | _, _ => s.txnError k

/-- A pipe has a transfer that its port can run now. -/
def Chip.pipeActive (s : Chip) (k : Nat) : Bool :=
  let p := s.get (USB_PIPE_A_PORT k)
  !(s.pipe k).queue.isEmpty && s.on (USB_PIPE_A_EN k) && s.on (USB_PORT_EN p) && !s.on (USB_PORT_SUSPEND p)
  && !bit s.ends.usbResume (p - 1)

def Chip.isInterrupt (s : Chip) (k : Nat) : Bool := decide (s.get (USB_PIPE_A_TYPE k) = 2)

/-- The next control or bulk pipe in the round robin. -/
def Chip.nextPipe (s : Chip) : Option Nat :=
  ((List.range 32).map (fun i => (s.ends.usbLast + 1 + i) % 32)).find? (fun k => s.pipeActive k && !s.isInterrupt k)

/-- SOF goes to every high-speed port in each micro-frame, and to full-speed ports in the first of a frame (R421). -/
def Chip.sendSof (s : Chip) : Chip :=
  [1, 2, 3, 4].foldl (fun (s : Chip) p =>
    let sp := s.get (USB_PORT_SPEED p)
    if s.on (USB_PORT_EN p) ∧ s.get (USB_PORT_SUSPEND p) = 0 ∧ (sp = 3 ∨ (sp = 2 ∧ s.get USB_FRAME_UFRAME = 0)) then
      s.emit (.pin "USB_SOF" p (s.get USB_FRAME_FRAME))
    else s) s

/-- A micro-frame (R421): the interrupt pipes that are due, in pipe order, then the others in round robin, each with the answer that the
operand gives for it. A transaction that the host does not make at its place is passed over. -/
def microFrame (txns : List UsbTxn) (s : Chip) : Chip :=
  if hostRuns s = false then s
  else
    let n := (s.get USB_UFRAME_CNT + 1) % 2 ^ 32
    let s := ((s.put USB_UFRAME_CNT n).put USB_FRAME_UFRAME n).put USB_FRAME_FRAME (n / 8)
    let s := s.sendSof
    let s := (List.range 32).foldl (fun (s : Chip) k =>
      match txns.find? (fun t => decide (t.pipe.val = k)) with
      | some t => if s.isInterrupt k ∧ s.pipeActive k ∧ (s.periodic k).due n then (s.transact k t.reply).settleNow k else s
      | none => s) s
    txns.foldl (fun (s : Chip) t =>
      if s.nextPipe = some t.pipe.val then
        let s := { s with ends := { s.ends with usbLast := t.pipe.val } }
        (s.transact t.pipe t.reply).settleNow t.pipe
      else s) s

def execMicroFrame (txns : List UsbTxn) (s : State) : Result := s.onChip (microFrame txns)

/-! ### The device function (R423–R430) -/

/-- The device function is on D0's pair: it is connected, and D0's data role is UFP (spec/19_harness_intake_and_docks.md R485).
Directions of an endpoint are 0 OUT and 1 IN. -/
def devUp (s : Chip) : Bool := usbOn s && s.on USB_DEV_CTL_EN && decide (s.get (DCK_TC_STAT_DROLE 0) = 0)

/-- Where an endpoint's buffer lies. -/
def Chip.epAt (s : Chip) (d e : Nat) : Nat := epmemBase + 64 * s.get (USB_CARVE_BASE d e)

/-- A handshake that the device answers with. -/
inductive Handshake where
  | ack | nak | stall

def Handshake.code : Handshake → Nat
  | .ack => 0
  | .nak => 1
  | .stall => 2

/-- The host has acknowledged the status stage's empty IN: an address that waits is applied (R430). -/
def Chip.applyAddr (s : Chip) : Chip :=
  if s.on USB_DEV_CTL_ADDR_PEND then
    let a := s.get USB_DEV_CTL_NEW_ADDR
    ((s.put USB_DEV_STAT_ADDR a).put USB_DEV_STAT_STATE (if a = 0 then 1 else 2)).put USB_DEV_CTL_ADDR_PEND 0
  else s

/-- Bus activity ends suspend (R431). -/
def Chip.usbAwake (s : Chip) : Chip :=
  if s.on USB_DEV_STAT_SUSPENDED then (s.put USB_DEV_STAT_SUSPENDED 0).evt USB_EVT_RESUME else s

def Chip.setWake (s : Chip) (n : Nat) : Chip := { s with ends := { s.ends with usbWake := n } }

/-- Bus activity, or the host's resume: with a remote wake under way the device stops driving, and counts its wake as done. -/
def usbResume (s : Chip) : Chip :=
  if devUp s = false ∨ s.get USB_DEV_STAT_SUSPENDED = 0 then s
  else
    let w := s.ends.usbWake
    let s := s.usbAwake
    if w = 0 then s
    else
      let s := (s.setWake 0).evt USB_EVT_WAKE_DONE
      if w = 2 then s.emit (.pin "USB_K" 0 0) else s

/-- A token to an endpoint (R426, R428): bus activity, which ends suspend (R431). An OUT packet longer than MPS is no packet that the endpoint takes (DESIGN CHOICE, log entry 19). -/
def State.usbToken (s : State) (isIn : Bool) (e : Nat) (data : List Byte) (acked : Bool) : State :=
  let s := { s with chip := usbResume s.chip }
  let c := s.chip
  let d := b2n isIn
  if devUp c = false ∨ c.get USB_DEV_STAT_STATE = 0 ∨ c.get (USB_DEP_EN d e) = 0 then s
  else if c.on (USB_DEP_HALT d e) then
    { s with chip := (c.put (USB_DEP_SILENT d e) 0).emit (.pin "USB_DEV" e Handshake.stall.code) }
  else if c.on (USB_DEP_READY d e) then
    let c := c.put (USB_DEP_SILENT d e) 0
    let flip (c : Chip) : Chip := c.put (USB_DEP_TOGGLE d e) (1 - c.get (USB_DEP_TOGGLE d e))
    if isIn then
      let n := c.get (USB_DEP_LEN 1 e)
      let c := c.emit (.bytes "USB_DEV" e (Memory.bytes s.mem (c.epAt 1 e) n))
      if acked then
        let c := (flip c).put (USB_DEP_READY 1 e) 0
        { s with chip := if e = 0 ∧ n = 0 then c.applyAddr else c }
      else { s with chip := c }
    else if c.get (USB_DEP_MPS 0 e) < data.length then s
    else
      let c := (((flip c).put (USB_DEP_LEN 0 e) data.length).put (USB_DEP_READY 0 e) 0).evt USB_EVT_EP_DONE
      { s with
        chip := c.emit (.pin "USB_DEV" e Handshake.ack.code)
        mem := Memory.setBytes s.mem (c.epAt 0 e) data }
  else if c.on USB_DEV_CTL_SILENT_EN ∧ c.get (USB_DEP_SILENT d e) < 2 then
    { s with chip := (c.put (USB_DEP_SILENT d e) (c.get (USB_DEP_SILENT d e) + 1)).inc USB_DEV_SILENT }
  else { s with chip := (c.put (USB_DEP_SILENT d e) 0).emit (.pin "USB_DEV" e Handshake.nak.code) }

def execUsbToken (isIn : Bool) (e : Fin 16) (data : List Byte) (acked : Bool) (s : State) : Result :=
  .next (s.usbToken isIn e data acked)

/-- A SETUP packet (R427). -/
def State.setupRx (s : State) (packet : Nat) : State :=
  let s := { s with chip := usbResume s.chip }
  let c := s.chip
  if devUp c = false ∨ c.get USB_DEV_STAT_STATE = 0 then s
  else
    let c := ((c.put (USB_DEP_LEN 0 0) 8).put (USB_DEP_READY 1 0) 0).put (USB_DEP_HALT 0 0) 0
    { s with
      chip := ((c.put (USB_DEP_HALT 1 0) 0).evt USB_EVT_SETUP_RX).emit (.pin "USB_DEV" 0 Handshake.ack.code)
      mem := Memory.setBytes s.mem (c.epAt 0 0) (leBytes packet 8) }

def execSetupRx (packet : BitVec 64) (s : State) : Result := .next (s.setupRx packet.toNat)

/-- A bus reset (R429). -/
def busReset (hs : Bool) (s : Chip) : Chip :=
  if devUp s = false then s
  else
    let s := (s.usbAwake.setWake 0).put USB_DEV_STAT_ADDR 0
    let s := ((s.put USB_DEV_CTL_ADDR_PEND 0).put USB_DEV_CTL_CONFIGURED 0).put USB_DEV_CTL_RWAKE_EN 0
    let s := (s.put USB_DEV_STAT_STATE 1).put USB_DEV_STAT_HS (b2n hs)
    let s := (List.range 32).foldl (fun (s : Chip) i =>
      let d := i / 16
      let e := i % 16
      let s := if e = 0 then s else s.put (USB_DEP_EN d e) 0
      (s.put (USB_DEP_READY d e) 0).put (USB_DEP_SILENT d e) 0) s
    (s.evt USB_EVT_BUS_RESET).inc USB_DEV_RESET_CNT

def execBusReset (hs : Bool) (s : State) : Result := s.onChip (busReset hs)

/-! ### Suspend and wake (R431–R433) -/

def execUsbSuspend (s : State) : Result := s.onChip (fun c =>
  if devUp c && !c.on USB_DEV_STAT_SUSPENDED then (c.put USB_DEV_STAT_SUSPENDED 1).evt USB_EVT_SUSPEND else c)

def execUsbResume (s : State) : Result := s.onChip usbResume

/-- WAKE is written 1. -/
def wake (s : Chip) : Chip :=
  if devUp s && s.on USB_DEV_STAT_SUSPENDED && s.on USB_DEV_CTL_RWAKE_EN && s.ends.usbWake == 0 then s.setWake 1 else s

def execWake (s : State) : Result := s.onChip wake

/-- 5 ms of suspend have passed: the device drives K. -/
def execWakeKStart (s : State) : Result := s.onChip (fun c =>
  if c.ends.usbWake = 1 then (c.setWake 2).emit (.pin "USB_K" 0 1) else c)

/-- 2 ms of K have passed: the device releases the bus. -/
def execWakeKEnd (s : State) : Result := s.onChip (fun c =>
  if c.ends.usbWake = 2 then (c.setWake 3).emit (.pin "USB_K" 0 0) else c)

/-! ### The carve (R425) -/

/-- A carve write; a reserved UNITS leaves UNITS as it was (R5). -/
def Chip.carveWrite (s : Chip) (d e v : Nat) : Chip :=
  if usbOn s = false then s
  else
    let base := bits v 0 9
    let units := if bits v 16 5 ≤ 16 then bits v 16 5 else s.get (USB_CARVE_UNITS d e)
    let clash := (List.range 32).any (fun i =>
      let d' := i / 16
      let e' := i % 16
      let b' := s.get (USB_CARVE_BASE d' e')
      decide ((d', e') ≠ (d, e)) && s.on (USB_DEP_EN d' e') && decide (base < b' + s.get (USB_CARVE_UNITS d' e') ∧ b' < base + units))
    if s.on (USB_DEP_EN d e) ∨ 512 < base + units ∨ units * 64 < s.get (USB_DEP_MPS d e) ∨ clash then s.evt USB_EVT_CARVE_ERR
    else (s.put (USB_CARVE_BASE d e) base).put (USB_CARVE_UNITS d e) units

def execUsbCarve (isIn : Bool) (e : Fin 16) (value : Word) (s : State) : Result :=
  s.onChip (fun c => c.carveWrite (b2n isIn) e value.toNat)

/-! ### Register writes (Table 16.6) -/

/-- A write to USB_DEV_CTL: WAKE, the Configured state, and EN, which disconnects the device where it is cleared. -/
def Chip.devCtl (s : Chip) (v : Nat) : Chip :=
  let s := ((s.put USB_DEV_CTL_EN (bits v 0 1)).put USB_DEV_CTL_SILENT_EN (bits v 1 1)).put USB_DEV_CTL_CONFIGURED (bits v 3 1)
  let s := ((s.put USB_DEV_CTL_RWAKE_EN (bits v 4 1)).put USB_DEV_CTL_NEW_ADDR (bits v 5 7)).put USB_DEV_CTL_ADDR_PEND (bits v 12 1)
  let st := s.get USB_DEV_STAT_STATE
  let s := if bits v 0 1 = 0 then
      let s := if s.ends.usbWake = 2 then s.emit (.pin "USB_K" 0 0) else s
      ((s.setWake 0).put USB_DEV_STAT_STATE 0).put USB_DEV_STAT_SUSPENDED 0
    else if st = 2 ∧ bit v 3 then s.put USB_DEV_STAT_STATE 3
    else if st = 3 ∧ bit v 3 = false then s.put USB_DEV_STAT_STATE 2
    else s
  if bit v 2 then wake s else s

end Sys2Proof.Machine
end

