-- ==== Sys2Proof/Machine/Power.lean ====
section
/-! DEFINITION. Power states: the order SET_POWER_STATE, draining and switching domains off and on, Banked and Dormant, waking and
residency (spec/20_power_states.md R494–R507). A domain that is switched on is reset (spec/14_clocks_reset_boot.md Table 14.4). -/

namespace Sys2Proof.Machine
open Sys2Proof Sys2Proof.Machine.Reg

def pwrRun : Nat := 0
def pwrTrim : Nat := 1
def pwrBanked : Nat := 2
def pwrDormant : Nat := 3

/-- The wake order of Table 20.2, by domain code. -/
def wakeOrder : List Nat := [3, 1, 15, 2, 4, 5, 6, 7, 14, 8, 9, 11, 12, 13, 10]

/-- Domains that TRIM may gate (Table 20.3). -/
def gateable : Nat := 0x7FC0

/-- This node is a head. -/
def Chip.isHead (s : Chip) : Bool := s.get BRD_STAT_ROLE != 0

/-- The domains that a state keeps on (Table 20.1). -/
def Chip.domainsIn (s : Chip) (st gate : Nat) : Nat :=
  if st = pwrRun then 0xFFFF
  else if st = pwrTrim then 0xFFFF - gate
  else if st = pwrBanked then (if s.isHead then 0x883F else 0x803F)
  else 1

/-- PWR_STAT. -/
def Chip.pwrStat (s : Chip) : Nat :=
  s.get PWR_STAT_STATE + 4 * s.get PWR_STAT_BUSY + 65536 * s.get PWR_STAT_DOM_ON

/-! ### Draining (R497 steps 1 and 2) -/

/-- Every hand of the bench domains in a set is asked to halt. -/
def Chip.haltDomains (s : Chip) (mask : Nat) : Chip :=
  (List.range 16).foldl (fun (s : Chip) b => if bit mask (coreDomain b) then s.haltBench b 15 else s) s

/-- Those hands are Halted and hold no tag. -/
def Chip.handsDrained (s : Chip) (mask : Nat) : Bool :=
  (List.range 16).all (fun b => !bit mask (coreDomain b)
    || (handsOf b).all (fun h => (s.hand h).state == .halted && s.tagsHeld h == 0))

/-- A trunk port's queues are empty and its replay buffer holds nothing (R108). -/
def Chip.portDrained (s : Chip) (p : TPort) : Bool :=
  s.portEmpty p.num && (s.link p).replay.isEmpty && (s.link p).cut.isEmpty

/-- This node's DORMANT notice no longer waits for the switch: on each port's queue it is one of the cells that draining waits for
(spec/04_braid_and_graft.md R136). -/
def Chip.dormantSent (s : Chip) : Bool :=
  !s.braid.outgoing.any (fun x => x.2.flag 2 && rd x.2.data 0 1 == 6 && rd x.2.data 2 2 == s.get BRD_STAT_POS)

/-- Everything that R497 and R136 wait for. -/
def Chip.drained (s : Chip) (q : PowerSeq) : Bool :=
  s.handsDrained q.off && (q.target != pwrDormant || s.dormantSent)
    && TPort.list.all (fun p => !bit q.off (4 + p.num) || s.portDrained p)

/-! ### Switching off (R497 step 3, R504) -/

/-- What switching a domain off does beyond its own loss: its switch ports go down (R177), its external buses and links end, and
PD-FIELD shutters the node (Table 18.1). -/
def State.domainDown (s : State) (d : Nat) : State :=
  match d with
  | 4 => s.withChip (fun c => c.endDown 0)
  | 5 => s.withChip (fun c => c.endDown 1)
  | 6 => s.withChip (fun c => c.endDown 2)
  | 7 => s.withChip (fun c => c.endDown 3)
  | 8 => s.withChip (fun c => c.endDown 10)
  | 9 => s.withChip (fun c => c.endDown 11)
  | 10 => s.withChip (fun c => c.endDown 7)
  | 11 => s.withChip (fun c => ((c.ethDown 0 false).ethDown 1 false |>.endDown 4).endDown 5)
  | 12 => (s.failBus 0 3).withChip (fun c => c.endDown 6)
  | 13 => s.withChip (fun c => (usbHostDisable c).endDown 8)
  | 14 =>
    let s := s.withChip (fun c => ((c.shutter causeDomain).live causeDomain true).endDown 9)
    (((s.failBus 1 1).failBus 2 1).failBus 3 1).failBus 4 1
  | 2 => s.withChip Chip.ownerToLodge
  | _ => s

/-- The pipe table of the USB host. -/
def pipeTable : List Fld := (List.range 32).flatMap (fun k =>
  [USB_PIPE_A_PORT k, USB_PIPE_A_ADDR k, USB_PIPE_A_EP k, USB_PIPE_A_DIR k, USB_PIPE_A_TYPE k, USB_PIPE_A_MPS k, USB_PIPE_A_TOGGLE k,
   USB_PIPE_A_HALTED k, USB_PIPE_A_EN k, USB_PIPE_B_RING k, USB_PIPE_B_PERIOD_EXP k, USB_PIPE_B_PHASE k])

/-- Switching PD-USB off, and on again, keeps the pipe table (spec/16_peripheral_bus.md R416). -/
def Chip.keepPipes (old : Chip) (d : Nat) (new : Chip) : Chip :=
  if d = 13 then pipeTable.foldl (fun (s : Chip) f => s.put f (old.get f)) new else new

/-- A domain goes off: what it held is lost. -/
def State.domainOff (s : State) (d : Nat) : State :=
  let down := s.domainDown d
  (down.resetDomains (2 ^ d)).withChip (fun c => s.chip.pins ((down.chip.keepPipes d c).clrBitOf PWR_STAT_DOM_ON d))

def State.switchOff (s : State) (mask : Nat) : State :=
  (wakeOrder.reverse.filter (fun d => bit mask d)).foldl State.domainOff s

/-! ### Switching on (R499, R503) -/

/-- Porter loads a returning bench again and starts the hands of its image (spec/09_fungatre_machine.md R272). -/
def State.reloadBench (s : State) (b : Nat) : State :=
  match s.chip.activeItem 6 b with
  | none => s
  | some e =>
    if s.chip.boot.porter ∧ s.chip.programOk e then (s.loadBench b e.item).withChip (fun c => c.startBench b (imgHands e.item)) else s

/-- A returning trunk port drives its clock lane and leaves Parked (spec/02_trunk_lanes.md R68). -/
def Chip.trunkReturns (s : Chip) (p : TPort) : Chip :=
  (s.setLane p { s.lane p with clkOn := s.boot.gate, leave := true }).showWaiting p

/-- What follows a domain's return. -/
def State.domainUp (s : State) (d : Nat) : State :=
  match d with
  | 4 => s.withChip (fun c => c.trunkReturns .nu)
  | 5 => s.withChip (fun c => c.trunkReturns .nd)
  | 6 => s.withChip (fun c => c.trunkReturns .su)
  | 7 => s.withChip (fun c => c.trunkReturns .sd)
  | 8 => (List.range 8).foldl State.reloadBench s
  | 9 => ((List.range 8).map (· + 8)).foldl State.reloadBench s
  | 14 => s.withChip (fun c =>
      (List.range 16).foldl (fun (c : Chip) i => if c.on (FLD_IN_CFG_EN i) then c.takeLevel i else c) (c.live causeDomain false))
  | _ => s

def State.domainOn (s : State) (d : Nat) : State :=
  (((s.withChip (fun c => c.setBitOf PWR_STAT_DOM_ON d)).resetDomains (2 ^ d)).withChip
    (fun c => s.chip.pins (s.chip.keepPipes d c))).domainUp d

def State.switchOn (s : State) (mask : Nat) : State :=
  (wakeOrder.filter (fun d => bit mask d)).foldl State.domainOn s

/-! ### Targets of the near links (R498, R499) -/

def Chip.askNear (s : Chip) : Chip := (s.askRetrain .nu 5).askRetrain .nd 5

/-- Banked: the targets are saved, and become 1 lane at 3.6 Gb/s. -/
def Chip.bankTargets (s : Chip) : Chip :=
  let s := (s.put PWR_SAVE_NU_TGT (s.tgtRate .nu + 4 * s.tgtWidth .nu)).put PWR_SAVE_ND_TGT (s.tgtRate .nd + 4 * s.tgtWidth .nd)
  ((s.setTargets .nu 3 3).setTargets .nd 3 3).askNear

/-- Leaving Banked: the saved targets return. -/
def Chip.restoreTargets (s : Chip) : Chip :=
  let u := s.get PWR_SAVE_NU_TGT
  let d := s.get PWR_SAVE_ND_TGT
  ((s.setTargets .nu (u % 4) (u / 4)).setTargets .nd (d % 4) (d / 4)).askNear

/-! ### The end of a sequence -/

/-- A port has no retrain outstanding: a port lost meanwhile, which trains anew, has none ("Port lost during the Banked retrain"). -/
def Chip.trained (s : Chip) (p : TPort) : Bool :=
  ((s.lane p).attempt == .none || (s.lane p).attempt == .full) && (s.lane p).request.isNone

/-- The sequence is over: PWR_STAT reads the new state. -/
def Chip.powerOver (s : Chip) (q : PowerSeq) : Chip :=
  let s := s.settleRes
  let s := { s with power := { s.power with gate := q.gate, seq := none } }
  ((s.put PWR_STAT_STATE q.target).put PWR_STAT_BUSY 0).evt PWR_EVT_DONE

/-- A sequence completes with its docket (R495). -/
def Chip.powerEnd (s : Chip) (q : PowerSeq) : Chip :=
  let s := (s.powerOver q).reviewAll
  s.docketReady q.at_ stDone (leBytes s.pwrStat 4)

/-- A sequence whose retrains have ended, in whichever way, completes. -/
def Chip.powerSettle (s : Chip) : Chip :=
  match s.power.seq with
  | none => s
  | some q =>
    if q.retraining && s.trained .nu && s.trained .nd then s.powerEnd q else s

/-- The wake from Dormant (R502). -/
def State.wakeNow (s : State) (src straps : Nat) : State :=
  ((s.withChip (fun c => (c.put PWR_WAKE_CAUSE (2 ^ src)).evt PWR_EVT_WOKE)).nodeReset kindWake).withChip
    (fun c => c.sampleStraps straps)

/-- The last step of an entry to Dormant (R500): every channel opens, and the Lodge owns them. -/
def State.dormantNow (s : State) (q : PowerSeq) : State :=
  let s := s.withChip (fun c =>
    ((List.range 6).foldl (fun (c : Chip) k => if c.chanOn k then c.openChannel k 0 else c) c.ownerToLodge).powerOver q)
  match q.wake with
  | some w => s.wakeNow w.1 w.2
  | none => s

/-- The switching of a sequence, once what it leaves is drained. -/
def State.powerApply (s : State) (q : PowerSeq) : State :=
  let was := s.chip.get PWR_STAT_STATE
  let want := s.chip.domainsIn q.target q.gate
  let s := s.withChip (fun c => TPort.list.foldl (fun (c : Chip) p =>
    if bit q.off (4 + p.num) then c.parkPort p (if q.target = pwrDormant then 5 else 1) else c) c)
  let s := s.switchOff q.off
  let have_ := s.chip.get PWR_STAT_DOM_ON
  let s := s.switchOn (want - (want &&& have_))
  if q.target = pwrDormant then s.dormantNow q
  else s.withChip (fun c =>
    let wait (c : Chip) : Chip := ({ c with power := { c.power with seq := some { q with retraining := true } } } : Chip).powerSettle
    if q.target = pwrBanked ∧ was ≠ pwrBanked then wait c.bankTargets
    else if was = pwrBanked ∧ q.target ≠ pwrBanked then wait c.restoreTargets
    else c.powerEnd q)

/-! ### The order (R495, R496, R500) -/

/-- A dock is sinking. -/
def Chip.dockSinks (s : Chip) : Bool := [2, 3].any (fun c => s.get (HVI_CH_CTL_DIR c) == 1 && s.chanOn c)

/-- A position at distance 1 is not Member (R496). -/
def Chip.neighbourGone (s : Chip) : Bool :=
  let n := s.get BRD_STAT_POS
  s.on BRD_STAT_POS_VALID
    && ((n != 0 && s.posState (n - 1) != posMember) || (n != 1023 && s.posState (n + 1) != posMember))

/-- R496's refusals of an order that is well formed. -/
def Chip.powerRefused (s : Chip) (st gate : Nat) : Bool :=
  (st == pwrDormant && (s.on CLK_STRAP_ROWHEAD || s.neighbourGone || s.dockSinks)) || (bit gate 11 && s.isHead)

/-- The sequence starts. -/
def Chip.startPower (s : Chip) (id : SlotId) (st gate : Nat) : Chip :=
  let want := s.domainsIn st gate
  let have_ := s.get PWR_STAT_DOM_ON
  let off := have_ - (have_ &&& want)
  let s := if st = pwrDormant then
      (s.docketReady id stDone []).sendDormant
    else s
  let s := { s with power := { s.power with seq := some ⟨id, st, gate, off, false, none⟩ } }
  ((s.put PWR_STAT_BUSY 1).haltDomains off).leaveDraining

/-- SET_POWER_STATE with a STATE. -/
def Chip.setPower (s : Chip) (id : SlotId) (st : Nat) : Chip :=
  s.startOrder id 0x10 (fun b => rd b 0 1 == st) (fun s _ body =>
    let gate := rd body 2 2
    if zeroBytes body [1, 4, 5, 6, 7] = false ∨ (gate ≠ 0 ∧ st ≠ pwrTrim) ∨ gate &&& gateable ≠ gate then s.docketReady id stBadArgs []
    else if s.power.seq.isSome then s.docketReady id stRefused []
    else if s.get PWR_STAT_STATE = st ∧ s.power.gate = gate then
      s.docketReady id stDone (leBytes s.pwrStat 4)
    else if s.powerRefused st gate then s.docketReady id stRefused []
    else s.startPower id st gate)

/-- A sequence that switches nothing off goes on at once. -/
def State.powerGo (s : State) : State :=
  match s.chip.power.seq with
  | some q => if q.off = 0 ∧ q.retraining = false then s.powerApply q else s
  | none => s

def State.setPower (s : State) (id : SlotId) (st : Nat) : State :=
  State.powerGo (s.settle (s.chip.setPower id st))

def execSetPowerStateRun (at_ : SlotId) (s : State) : Result := .next (s.setPower at_ pwrRun)
def execSetPowerStateTrim (at_ : SlotId) (s : State) : Result := .next (s.setPower at_ pwrTrim)
def execSetPowerStateBanked (at_ : SlotId) (s : State) : Result := .next (s.setPower at_ pwrBanked)
def execSetPowerStateDormant (at_ : SlotId) (s : State) : Result := .next (s.setPower at_ pwrDormant)

/-- Everything is drained: the ports park and the domains switch. -/
def State.drainDone (s : State) : State :=
  match s.chip.power.seq with
  | some q => if q.retraining = false ∧ s.chip.drained q then s.powerApply q else s
  | none => s

def execDomainDrainDone (s : State) : Result := .next s.drainDone

/-! ### Waking (R502) -/

/-- An enabled wake source wakes a Dormant node; during an entry to Dormant the wake follows the entry. -/
def State.wakeFrom (s : State) (src straps : Nat) : State :=
  if bit (s.chip.get PWR_WAKE_EN) src = false then s
  else if s.chip.get PWR_STAT_STATE = pwrDormant then s.wakeNow src straps
  else match s.chip.power.seq with
  | some q =>
    if q.target = pwrDormant ∧ q.wake.isNone then
      s.withChip (fun c => { c with power := { c.power with seq := some { q with wake := some (src, straps) } } })
    else s
  | none => s

def execHarnessWake (straps : BitVec 3) (s : State) : Result := .next (s.wakeFrom 0 straps.toNat)
def execWakeN (straps : BitVec 3) (s : State) : Result := .next (s.wakeFrom 1 straps.toNat)
def execDockWake (straps : BitVec 3) (s : State) : Result := .next (s.wakeFrom 2 straps.toNat)

/-! ### Residency (R507) -/

/-- A residency in µs, of 1,200 CLK_FAB cycles each. -/
def Chip.residency (s : Chip) (st : Nat) : Nat := mget 0 s.settleRes.power.res st / 1200 % 2 ^ 48

/-- A read of PWR_RES_LO_s takes the count and latches the high word. -/
def pwrResLo (st : Nat) (s : Chip) : Chip :=
  let n := s.residency st
  let s := (s.put (PWR_RES_LO_US st) n).put (PWR_RES_HI_US st) (n / 2 ^ 32)
  s.latch (PWR_RES_HI_US st).addr (n / 2 ^ 32)

def execPwrResLo (st : Fin 4) (s : State) : Result := s.onChip (pwrResLo st)

end Sys2Proof.Machine
end

