-- ==== Sys2Proof/Machine/Records.lean ====
section
/-! DEFINITION. The TEST stance, the event log's reads and the byte counters (spec/24_tinker_and_records.md R564–R577). -/

namespace Sys2Proof.Machine
open Sys2Proof Sys2Proof.Machine.Reg

/-! ### The stance (R564–R566) -/

/-- Seconds of DURATION left, rounded up; 0 without a limit (Table 24.6). -/
def Chip.secondsLeft (s : Chip) : Nat :=
  match s.tink.until_ with
  | some t => (t - s.tick + 1199999999) / 1200000000
  | none => 0

/-- TNK_STAT. -/
def Chip.tnkStat (s : Chip) : Nat := s.get TNK_STAT_TEST + 256 * s.get TNK_STAT_SLOT + 65536 * s.secondsLeft

/-- The stance returns to SERVICE and every TNK register to its reset value, with a LEAVE entry (R564); the cause is 0 order,
1 duration, 2 slot (Table 24.4). -/
def Chip.leaveTest (s : Chip) (cause : Nat) : Chip :=
  if s.get GLB_STANCE_STANCE = 0 then s
  else
    let slot := s.get TNK_STAT_SLOT
    let s := (s.put GLB_STANCE_STANCE 0).logEntry 0x17 1 0 slot cause
    { s with csr := s.csr.filter (fun e => e.1 / 32 / 65536 != 0x17), tink := {} }

/-- The unlocking slot has been invalidated or erased (R564). -/
def Chip.reviewStance (s : Chip) : Chip :=
  if s.get GLB_STANCE_STANCE = 1 ∧ s.keyValid (s.get TNK_STAT_SLOT) = false then s.leaveTest 2 else s

/-- TINKER ENTER is refused (R566). -/
def Chip.enterRefused (s : Chip) (slot : Nat) : Bool :=
  s.get GLB_STANCE_STANCE == 1 || !s.grants slot useTinker || !(s.vslot slot).expire || (s.vslot slot).count == 0

/-- An accepted ENTER. -/
def Chip.enterTest (s : Chip) (slot duration seed : Nat) : Chip :=
  let s := (s.spend slot).put GLB_STANCE_STANCE 1
  let s := ((s.put TNK_STAT_TEST 1).put TNK_STAT_SLOT slot).put TNK_SEED_SEED (if seed = 0 then 1 else seed)
  let s := { s with tink := { s.tink with until_ := if duration = 0 then none else some (s.tick + 1200000000 * duration) } }
  s.logEntry 0x17 0 0 slot 0

def enter (id : SlotId) (s : Chip) : Chip :=
  s.startOrder id 0xA0 (fun b => rd b 0 1 == 1) (fun s _ body =>
    let slot := rd body 1 1
    if 127 < slot then s.docketReady id stBadArgs []
    else if s.enterRefused slot then
      -- a key that grants the use and has none left is an event (spec/21_vault.md R514)
      (if s.grants slot useTinker ∧ (s.vslot slot).count = 0 then s.evt VLT_EVT_USE_ZERO else s).docketReady id stRefused []
    else
      let s := s.enterTest slot (rd body 2 2) (rd body 4 4)
      s.docketReady id stDone (leBytes s.tnkStat 4))

def execEnter (at_ : SlotId) (s : State) : Result := s.onChip (enter at_)

def leave (id : SlotId) (s : Chip) : Chip :=
  s.startOrder id 0xA0 (fun b => rd b 0 1 == 2) (fun s _ body =>
    if zeroBytes body [1, 2, 3, 4, 5, 6, 7] = false then s.docketReady id stBadArgs []
    else
      let s := s.leaveTest 0
      s.docketReady id stDone (leBytes s.tnkStat 4))

def execLeave (at_ : SlotId) (s : State) : Result := s.onChip (leave at_)

/-- The end of DURATION (R564). -/
def duration (s : Chip) : Chip := if s.tink.until_.isSome then s.leaveTest 1 else s

def execDuration (s : State) : Result := s.onChip duration

/-! ### The event log (R569–R572) -/

/-- The 32 bytes of an entry (Table 24.3). -/
def LogEntry.toBytes (e : LogEntry) : List Byte :=
  leBytes e.time 10 ++ leBytes e.source 1 ++ leBytes e.code 1 ++ leBytes e.seq 2 ++ leBytes e.flags 1 ++ leBytes e.inst 1
    ++ leBytes e.d0 4 ++ leBytes e.d1 4 ++ leBytes 0 8

def Chip.logAt (s : Chip) (i : Nat) : LogEntry := mget ⟨0, 0, 0, 0, 0, 0, 0, 0⟩ s.log.entries (i % 4096)

/-- Unread entries. -/
def Chip.unread (s : Chip) : Nat :=
  if s.on LOG_STAT_FULL then 4096 else (s.get LOG_STAT_HEAD + 4096 - s.get LOG_STAT_TAIL) % 4096

/-- LOG_STAT. -/
def Chip.logStat (s : Chip) : Nat := s.get LOG_STAT_HEAD + 4096 * s.get LOG_STAT_TAIL + 2 ^ 24 * s.get LOG_STAT_FULL

/-- TAIL moves past entries. -/
def Chip.logTail (s : Chip) (tail : Nat) : Chip := (s.put LOG_STAT_TAIL tail).put LOG_STAT_FULL 0

def readLog (id : SlotId) (s : Chip) : Chip :=
  s.startOrder id 0x80 anyBody (fun s _ body =>
    let from_ := rd body 0 2
    let count := rd body 2 1
    let flags := rd body 3 1
    if count = 0 ∨ 31 < count ∨ 1 < flags ∨ (4096 ≤ from_ ∧ from_ ≠ 0xFFFF) then s.docketReady id stBadArgs []
    else
      let first := if from_ = 0xFFFF then s.get LOG_STAT_TAIL else from_
      let n := min count (s.unread - (first + 4096 - s.get LOG_STAT_TAIL) % 4096)
      let out := leBytes s.logStat 4 ++ leBytes (s.get LOG_OVERRUN) 4 ++ leBytes first 2 ++ leBytes n 1 ++ leBytes 0 5
        ++ (List.range n).flatMap (fun i => (s.logAt (first + i)).toBytes)
      let s := if flags = 1 ∧ n ≠ 0 then s.logTail (first + n) else s
      s.docketReady id stDone out)

def execReadLog (at_ : SlotId) (s : State) : Result := s.onChip (readLog at_)

/-- A write to LOG_CONSUME sets TAIL within the unread range (Table 24.7). -/
def logConsume (v : Nat) (s : Chip) : Chip :=
  let d := (v % 4096 + 4096 - s.get LOG_STAT_TAIL) % 4096
  if 0 < d ∧ d ≤ s.unread then s.logTail v else s

def execLogConsume (value : Word) (s : State) : Result := s.onChip (logConsume value.toNat)

/-! ### Byte counters (R573) -/

/-- A read of LOG_RXB_LO_p or LOG_TXB_LO_p takes the count and latches its high word. -/
def logBytesLo (p : Nat) (tx : Bool) (s : Chip) : Chip :=
  let n := (if tx then mget 0 s.log.txBytes p else mget 0 s.log.rxBytes p) % 2 ^ 64
  let lo := if tx then LOG_TXB_LO_BYTES p else LOG_RXB_LO_BYTES p
  let hi := if tx then LOG_TXB_HI_BYTES p else LOG_RXB_HI_BYTES p
  (((s.put lo n).put hi (n / 2 ^ 32)).latch hi.addr (n / 2 ^ 32))

def execLogRxbLo (p : Fin 16) (tx : Bool) (s : State) : Result := s.onChip (logBytesLo p.val tx)

end Sys2Proof.Machine
end

