-- ==== Sys2Proof/Machine/TunnelOps.lean ====
section
/-! DEFINITION. The commands of the tunnel layer (spec/08_tunnels_and_ordering.md R212–R235) and the end of a port flush
(spec/06_switch_core.md R178, R179). -/

namespace Sys2Proof.Machine
open Sys2Proof Sys2Proof.Machine.Reg

/-! ### Opening and closing (R212–R214) -/

/-- A tunnel end as TUNNEL_OPEN's body describes it (Table 8.4). -/
def openedTun (b : List Byte) : Tun :=
  let mode := rd b 2 1
  let start := rd b 8 2
  { Tun.closedEnd with
    state := .opened, sink := bit mode 0, kept := bit mode 1, tc := bits mode 2 3, ring := rd b 3 1 % 64, peer := rd b 4 2,
    peerTun := rd b 6 2 % 1024, next := start, oldest := start, expect := start, lastAck := seqSub start 1 }

/-- TUNNEL_OPEN (R213): BAD_ARGS for tunnel 0 or a field out of its range, REFUSED unless Closed. -/
def tunnelOpen (s : Chip) (id : SlotId) (b : List Byte) : Chip :=
  let t := rd b 0 2
  if t = 0 ∨ 1023 < t ∨ 31 < rd b 2 1 ∨ 63 < rd b 3 1 ∨ 1023 < rd b 6 2 ∨ rd b 10 6 ≠ 0 then s.docketReady id stBadArgs []
  else if (s.tun t).state ≠ .closed then s.docketReady id stRefused []
  else (s.setTun t (openedTun b)).docketReady id stDone []

def execTunnelOpen (at_ : SlotId) (s : State) : Result :=
  s.onChip (fun c => c.startOrder at_ 0x20 anyBody (fun c _ b => tunnelOpen c at_ b))

/-- A source is Closed: every copy lets go of its block, and the dockets of its closes return DONE with the last acknowledged SEQ
(R214). -/
def Chip.closeSource (s : Chip) (t : Nat) (ids : List SlotId) : Chip :=
  let x := s.tun t
  let s := x.copies.foldl (fun (s : Chip) e => s.dropKeep e.2) s
  let s := s.setTun t Tun.closedEnd
  ids.foldl (fun (s : Chip) id => s.docketReady id stDone (leBytes (seqSub x.oldest 1) 2)) s

/-- A draining source is Closed once every kept cell is acknowledged or the tunnel has broken (R214). -/
def Chip.drainEnd (s : Chip) (t : Nat) : Chip :=
  let x := s.tun t
  if x.draining ≠ [] ∧ (x.state = .broken ∨ x.kept = false ∨ x.oldest = x.next) then s.closeSource t x.draining else s

/-- What every change of a source's acknowledgement state is followed by. -/
def Chip.afterAck (s : Chip) (t : Nat) : Chip := (s.checkFences).drainEnd t

/-- TUNNEL_CLOSE (R214). -/
def tunnelClose (s : Chip) (id : SlotId) (b : List Byte) : Chip :=
  let t := rd b 0 2
  let x := s.tun t
  if t = 0 ∨ 1023 < t ∨ 1 < rd b 2 1 ∨ rd b 3 5 ≠ 0 then s.docketReady id stBadArgs []
  else if x.state = .closed then s.docketReady id stRefused []
  else if x.sink then
    ((s.dropHeld x.held).setTun t Tun.closedEnd).docketReady id stDone (leBytes (seqSub x.expect 1) 2)
  else if rd b 2 1 = 1 then (s.setTun t { x with draining := x.draining ++ [id] }).drainEnd t
  else (s.abandonFences t).closeSource t (x.draining ++ [id])

def execTunnelClose (at_ : SlotId) (s : State) : Result :=
  s.onChip (fun c => c.startOrder at_ 0x21 anyBody (fun c _ b => tunnelClose c at_ b))

/-! ### Cells that end here -/

/-- A cell for a Closed tunnel (R215). -/
def Chip.unknownTun (s : Chip) : Chip := (s.inc TUN_UNKNOWN_CNT).evt TUN_EVT_UNKNOWN

/-- A SYNC cell sets EXPECT, unless it is behind at an entry that has been heard before (R235); held cells that are no longer early
are let go. -/
def Chip.sync (s : Chip) (t : Nat) (c : Cell) : Chip :=
  let x := s.tun t
  if isPeer t = false then s
  else if c.flag 4 ∧ (x.heard = false ∨ seqSub c.seq x.expect < 57344) then
    let early := fun (e : Nat × Cell × Option Nat) => decide (1 ≤ seqSub e.1 c.seq ∧ seqSub e.1 c.seq ≤ 8191)
    let kept := x.held.filter early
    let gone := x.held.filter (fun e => !early e)
    (s.dropHeld gone).setTun t { x with expect := c.seq, heard := true, held := kept }
  else s.setTun t { x with heard := true }

/-- A data cell at an Open or Breaking sink end (R217, R227–R230). -/
def Chip.sinkCell (s : Chip) (t : Nat) (c : Cell) (blk : Option Nat) : Chip :=
  let s := s.sync t c
  let x := s.tun t
  let d := seqSub c.seq x.expect
  if d = 0 then s.deliverAt t c blk
  else if d ≤ 8191 then
    if x.held.any (fun e => e.1 == c.seq) then s.duplicate t blk
    else
      let s := if x.held = [] then s.setTun t { x with resendSent := false } else s
      let s := s.holdEarly t c blk
      let n := (s.tun t).held.length
      if x.kept = false ∧ n ≠ 0 ∧ s.get TUN_WINDOWS_RESEQ_DEPTH ≤ n then s.declareGap t else s
  else if 57344 ≤ d then
    if x.kept then s.duplicate t blk else ((s.dropBlk blk).inc TUN_LATE_DROP).evt TUN_EVT_LATE
  else (s.dropBlk blk).tunBad

/-- A data cell with a VLEN or FLAGS that R211 does not allow. -/
def badData (c : Cell) : Bool := decide (c.vlen = 0 ∨ 104 < c.vlen) || decide (c.flags / 64 ≠ 0)

/-- A tunnel 0 data cell at Porter (R211, R215, R235). A node whose Porter firmware does not run has no end of tunnel 0, as if it were
Closed (spec/01_rows_and_nodes.md R31; DEDUCED, log entry 46). -/
def Chip.dataT0 (s : Chip) (c : Cell) (blk : Option Nat) : Chip :=
  if s.boot.porter = false then (s.dropBlk blk).unknownTun
  else if badData c then (s.dropBlk blk).tunBad
  else
    let a := s.allocPeer (rd c.data 0 2)
    match a.1 with
    | none => a.2.dropBlk blk
    | some t => a.2.sinkCell t c blk

/-- A data cell at the end of a tunnel that it names (R211, R215, R217, R233, R618). -/
def Chip.dataAt (s : Chip) (c : Cell) (blk : Option Nat) : Chip :=
  let x := s.tun c.tun
  if x.state = .closed then (s.dropBlk blk).unknownTun
  else if x.sink = false ∨ badData c then (s.dropBlk blk).tunBad
  else if x.state = .broken then (s.dropBlk blk).answerBreak c.tun
  else s.sinkCell c.tun c blk

/-- A data cell. While a rewrite holds Porter, a tunnel 0 cell waits in P12's queues (spec/22_updates_and_planting.md R537). -/
def dataCell (c : Cell) (ecc : EccFind) (s : Chip) : Chip :=
  if c.flag 2 ∨ c.flag 3 ∨ (c.tun = 0 ∧ s.upd.rewriting.isSome) then s
  else match s.takeTunnel c ecc with
  | (none, s) => s.pumpClusters
  | (some blk, s) => ((if c.tun = 0 then s.dataT0 c blk else s.dataAt c blk).pumpClusters).allotReview

def execDataCell (cell : Cell) (ecc : EccFind) (s : State) : Result := s.onChip (dataCell cell ecc)

/-- Fields of a control cell (Table 8.6). -/
def ctlType (c : Cell) : Nat := rd c.data 0 1
def ctlSeq (c : Cell) : Nat := rd c.data 4 2
def ctlCount (c : Cell) : Nat := rd c.data 6 2
def ctlReason (c : Cell) : Nat := rd c.data 8 1

/-- A control cell that the receiver ignores (R220). -/
def badControl (c : Cell) : Bool :=
  decide (rd c.data 1 1 ≠ 1 ∨ (ctlType c) = 0 ∨ 3 < (ctlType c) ∨ ((ctlType c) = 3 ∧ ((ctlReason c) = 0 ∨ 3 < (ctlReason c))))

/-- A control cell of a CTYPE comes in: `f` acts on the tunnel end it names. A cell with NOTICE set is not the tunnel layer's (R236). -/
def Chip.controlIn (s : Chip) (c : Cell) (ctype : Nat) (ecc : EccFind) (f : Chip → Nat → Chip) : Chip :=
  if c.flag 2 ∨ c.flag 3 = false ∨ (badControl c = false ∧ (ctlType c) ≠ ctype) then s
  else match s.takeTunnel c ecc with
  | (none, s) => s.pumpClusters
  | (some blk, s) =>
    let s := s.dropBlk blk
    let s :=
      if badControl c then s.tunBad
      else if c.tun = 0 then
        if s.boot.porter = false then s.unknownTun
        else
          let a := s.allocPeer (rd c.data 2 2)
          match a.1 with
          | none => a.2
          | some t => f a.2 t
      else if (s.tun c.tun).state = .closed then s.unknownTun
      else f s c.tun
    s.pumpClusters

/-- An ACK at a tunnel end (R222, R233, R618). -/
def ackAt (c : Cell) (s : Chip) (t : Nat) : Chip :=
  let x := s.tun t
  if x.state = .broken then s.answerBreak t
  else if x.sink then s.tunBad
  else
    let s := (s.takeAck t (ctlSeq c)).afterAck t
    if isPeer t then s.pumpT0 else s

def execAck (cell : Cell) (ecc : EccFind) (s : State) : Result := s.onChip (fun c => c.controlIn cell 1 ecc (ackAt cell))

/-- A RESEND at a tunnel end (R224, R233, R618). -/
def resendAt (c : Cell) (s : Chip) (t : Nat) : Chip :=
  let x := s.tun t
  if x.state = .broken then s.answerBreak t
  else if x.sink then s.tunBad
  else (s.resendRun t (ctlSeq c) (x.sendable (ctlSeq c) (ctlCount c)) true).evt TUN_EVT_RESEND_RX

def execResend (cell : Cell) (ecc : EccFind) (s : State) : Result := s.onChip (fun c => c.controlIn cell 2 ecc (resendAt cell))

/-- The role in which a BREAK reaches a tunnel end: an entry of tunnel 0 has both. REASON 1 and 2 come from a source; what a REASON 3 answers
the spec does not say: it breaks the source while cells of it are unacknowledged, and else the sink (DEDUCED, log entry 47). -/
def Tun.brokenSink (x : Tun) (peer : Bool) (reason : Nat) : Bool :=
  if peer then (if reason = 3 then decide (x.oldest = x.next) else true) else x.sink

/-- A BREAK at a tunnel end (R231, R233, R618): a sink with REASON 2 goes on up to the lost SEQ, and every other end becomes Broken
at once. Loose tunnels never break (R230). -/
def breakAt (c : Cell) (s : Chip) (t : Nat) : Chip :=
  let x := s.tun t
  if x.kept = false then s
  else if x.state = .broken then (if x.sink then s.answerBreak t else s)
  else if (ctlReason c) = 2 ∧ (x.sink ∨ isPeer t) then
    (s.setTun t { x with state := .breaking, rxBreak := some (ctlSeq c) }).sinkBreakReached t
  else (s.tunBroken t (ctlReason c) (x.brokenSink (isPeer t) (ctlReason c))).afterAck t

def execBreakCell (cell : Cell) (ecc : EccFind) (s : State) : Result :=
  s.onChip (fun c => c.controlIn cell 3 ecc (breakAt cell))

/-! ### Timers -/

/-- The tunnel end is a kept sink that delivers: a sink end, or a peer entry. -/
def Chip.keptSink (s : Chip) (t : Nat) : Bool := (s.tun t).kept && ((s.tun t).sink || isPeer t) && (s.tun t).live

/-- ACK_INT has passed since the last ACK with delivery having advanced (R221). -/
def ackInt (t : Nat) (s : Chip) : Chip := if s.keptSink t ∧ (s.tun t).sinceAck ≠ 0 then s.sendAck t else s

def execAckInt (t : Fin 1088) (s : State) : Result := s.onChip (ackInt t)

/-- A hole has been open for HOLE_TMO, or for KEEP_TMO after its RESEND: a RESEND is sent (R223). -/
def holeTmo (t : Nat) (s : Chip) : Chip :=
  let x := s.tun t
  match x.lowestHeld with
  | none => s
  | some q =>
    if s.keptSink t then
      ((s.setTun t { x with resendSent := true }).sendControl t 2 x.expect (seqSub q x.expect) 0).evt TUN_EVT_RESEND_TX
    else s

def execHoleTmo (t : Fin 1088) (s : State) : Result := s.onChip (holeTmo t)

/-- The keep timer expires (R225). -/
def keepTmo (t : Nat) (s : Chip) : Chip :=
  let x := s.tun t
  if x.kept = false ∨ x.sink ∨ x.live = false ∨ x.oldest = x.next then s
  else
    let s := (s.setTun t { x with expiries := x.expiries + 1 }).evt TUN_EVT_KEEP_TMO
    if s.get TUN_LIMITS_RESEND_LIM ≤ x.expiries + 1 then
      ((s.sendControl t 3 (seqSub x.oldest 1) 0 1).tunBroken t 1 false).afterAck t
    else s.resendRun t x.oldest (x.sendable x.oldest (seqSub x.next x.oldest)) false

def execKeepTmo (t : Fin 1088) (s : State) : Result := s.onChip (keepTmo t)

/-- A loose sink's hole has been open for LOOSE_HOLD: a gap is declared (R229). -/
def looseHold (t : Nat) (s : Chip) : Chip :=
  let x := s.tun t
  if x.kept = false ∧ x.sink ∧ x.state = .opened then s.declareGap t else s

def execLooseHold (t : Fin 1088) (s : State) : Result := s.onChip (looseHold t)

/-- A peer entry with nothing unacknowledged has seen no traffic for PEER_IDLE (R235). -/
def peerIdle (k : Nat) (s : Chip) : Chip :=
  let t := 1024 + k
  let x := s.tun t
  if x.oldest = x.next ∧ s.mbx.outWait.all (fun e => e.node != x.peer) then (s.dropHeld x.held).freePeer t else s

def execPeerIdle (k : Fin 64) (s : State) : Result := s.onChip (peerIdle k)

/-- The flush walk of a port is done (R178, R179): every descriptor gives up its block, each tunnel has its record, and the rest is
counted. -/
def flushDone (p : Nat) (s : Chip) : Chip :=
  match s.sw.walks.find? (fun w => w.port == p) with
  | none => s
  | some w =>
    let s := s.setSw { s.sw with walks := s.sw.walks.erase w }
    let s := s.descsLost w.descs p
    let s := w.descs.foldl (fun (s : Chip) d => s.dropDesc d) s
    let s := (s.put SWX_FLUSH_STAT_PORT p).put SWX_FLUSH_STAT_CELLS w.descs.length
    let s := if s.sw.walks = [] then s.put SWX_STAT_FLUSH_BUSY 0 else s
    s.evt SWX_EVT_FLUSH_DONE

def execFlushDone (p : Fin 16) (s : State) : Result := s.onChip (flushDone p)

/-- A keep-store copy that the scrubber finds beyond correction is lost to its tunnel (R182, R231). -/
def Chip.keptLost (s : Chip) (x : Block) : Chip :=
  match s.sourceOf x.cell with
  | none => s
  | some t => if (s.tun t).copies.any (fun e => e.1 == x.cell.seq) then (s.copyLost t x.cell.seq).afterAck t else s

/-- One find of the packet buffer's scrubber (R181–R183): a corrected word, or one beyond correction, which is recorded, quarantines
the block where it is metadata, and loses a kept copy. -/
def Chip.scrubFind (s : Chip) (f : ScrubFind) : Chip :=
  let b := f.block % blockEnd
  let w := f.word % 16
  if f.uncorrectable = false then (s.inc SWX_ECC_CORR).evt SWX_EVT_ECC_CORR
  else
    let s := (s.countUncorr b w).quarantine b w
    let x := s.block b
    if x.keepHold then (s.evt SWX_EVT_KEEP_ECC).keptLost x else s

/-- The scrubber's pass finds soft errors, while SCRUB_EN is 1 (R181); a row beyond correction is remapped where that is on
(spec/23_in_service_repair.md R551). -/
def scrub (found : List ScrubFind) (s : Chip) : Chip :=
  if s.get SWX_CTL_SCRUB_EN = 0 then s
  else found.foldl (fun (s : Chip) f =>
    let s := s.scrubFind f
    if f.uncorrectable then s.autoRemap 0 0 (128 * (f.block % blockEnd) + 8 * (f.word % 16)) else s) s

def execScrub (found : List ScrubFind) (s : State) : Result := s.onChip (scrub found)

end Sys2Proof.Machine
end

