-- ==== Sys2Proof/Machine/Link.lean ====
section
/-! DEFINITION. The Dameicen link layer (spec/03_trunk_link_layer.md) and the trunk side of the switch core
(spec/06_switch_core.md R169–R171): receiving a flit, the verdict on its cell, the handshake, replay, credits, and sending a flit. -/

namespace Sys2Proof.Machine
open Sys2Proof Sys2Proof.Machine.Reg

/-! ### Sequence arithmetic, credits -/

/-- A sequence number less another, modulo 4,096. -/
def seq12 (a b : Nat) : Nat := (a + 4096 - b % 4096) % 4096

/-- avail[v] (R91). -/
def LinkPort.avail (l : LinkPort) (v : Nat) : Nat :=
  l.limit.get v - (l.sent.get v + 1024 - l.returned.get v % 1024) % 1024

/-- Strict mode (R97). -/
def Chip.strict (s : Chip) (p : TPort) : Bool :=
  s.on (LNK_CTL_STRICT p.num) || decide (s.get GLB_STANCE_STANCE = 1) || bit (s.get BRD_PORT_SVC_RECOVERY) p.num

/-! ### Replay (R83, R85–R88) -/

/-- Free the entries before `e`; the count of replays clears when OLDEST advances. -/
def Chip.freeBefore (s : Chip) (p : TPort) (e : Nat) : Chip :=
  let l := s.link p
  let n := seq12 e l.oldest
  if n = 0 then s
  else
    let at_ := match l.replayAt with
      | none => none
      | some q => if seq12 q l.oldest < n then (if e = l.next then none else some e) else some q
    s.setLink p { l with replay := l.replay.drop n, oldest := e % 4096, replays := 0, replayAt := at_ }

/-- A value is valid for this transmitter (R83, R85). -/
def LinkPort.covers (l : LinkPort) (e : Nat) : Bool := decide (seq12 e l.oldest ≤ seq12 l.next l.oldest)

/-- A replay starts from OLDEST (R86, R88). -/
def Chip.startReplay (s : Chip) (p : TPort) : Chip :=
  let l := s.link p
  if l.replay = [] then s
  else
    let n := l.replays + 1
    let s := s.setLink p { l with replayAt := some l.oldest, replays := n }
    let s := (s.inc (LNK_REPLAY_CNT p.num)).evt (LNK_EVT_REPLAY p.num)
    if s.get (LNK_CTL_REPLAY_LIM p.num) ≤ n then
      ((s.setLink p { s.link p with replays := 0 }).evt (LNK_EVT_REPLAY_LIM p.num)).askRetrain p 4
    else s

/-- An ACK_SEQ value (R83). -/
def Chip.ackSeq (s : Chip) (p : TPort) (a : Nat) : Chip :=
  let l := s.link p
  if l.covers ((a + 1) % 4096) then s.freeBefore p ((a + 1) % 4096)
  else (s.inc (LNK_ACK_ERR p.num)).evt (LNK_EVT_ACK_ERR p.num)

/-- A NAK's sequence, or the EXPECT of a RESUME (R85). -/
def Chip.nakSeq (s : Chip) (p : TPort) (e : Nat) : Chip :=
  let l := s.link p
  if l.covers e then (s.freeBefore p e).startReplay p
  else (s.inc (LNK_ACK_ERR p.num)).evt (LNK_EVT_ACK_ERR p.num)

/-- A credit return (R94). -/
def Chip.creditReturn (s : Chip) (p : TPort) (v c : Nat) : Chip :=
  let l := s.link p
  let back := l.returned.get v
  if (c + 1024 - back) % 1024 ≤ (l.sent.get v + 1024 - back) % 1024 then s.setLink p { l with returned := l.returned.set v c }
  else (s.inc (LNK_CR_ERR p.num)).evt (LNK_EVT_CR_ERR p.num)

/-! ### Receiving (R73–R84) -/

/-- Fields of the link header (Table 3.2). -/
def hdrVc (w : List Byte) : Nat := bits (rd w 0 4) 0 2
def hdrKind (w : List Byte) : Nat := bits (rd w 0 4) 2 2
def hdrCrVc (w : List Byte) : Nat := bits (rd w 0 4) 4 2
def hdrCrCnt (w : List Byte) : Nat := bits (rd w 0 4) 6 10
def hdrAck (w : List Byte) : Nat := bits (rd w 0 4) 16 12

/-- The CRC of a flit under an implicit sequence number (R75). -/
def flitCrc (q : Nat) (w : List Byte) : Nat := crc32c (leBytes q 2 ++ w.take 116)

/-- CTYPE of a link control flit. -/
def ctlOf (w : List Byte) : Nat := rd w 4 1

/-- A receiver that a flit or a full buffer has failed enters replay wait with one NAK (R84). -/
def Chip.enterWait (s : Chip) (p : TPort) : Chip :=
  let l := s.link p
  if l.rxWait then s else (s.setLink p { l with rxWait := true }).sendCtl p (.nak l.expect)

/-- The handshake is complete (R103). -/
def Chip.activate (s : Chip) (p : TPort) : Chip :=
  let l := s.link p
  let resumed := decide (l.state = .resume)
  let s := s.setLink p { l with state := .active, ctl := l.ctl.filter (fun c => !c.isHandshake) }
  let s := if resumed then s.evt (LNK_EVT_RESUME p.num)
    else (s.inc (LNK_INIT_CNT p.num)).evt (LNK_EVT_INIT p.num)
  s.linkActive p

/-- The partner's credits of a handshake (R91). -/
def Chip.takeFree (s : Chip) (p : TPort) (w : List Byte) : Chip :=
  let f (v : Nat) := rd w (10 + 2 * v) 2 % 512
  s.setLink p { s.link p with limit := ⟨f 0, f 1, f 2, f 3⟩, sent := ⟨0, 0, 0, 0⟩, returned := ⟨0, 0, 0, 0⟩ }

/-- INIT received (R101, R103): a copy is ignored; any but the first of the present Init makes this end enter Init. -/
def Chip.initIn (s : Chip) (p : TPort) (w : List Byte) : Chip :=
  let l := s.link p
  let e := rd w 8 1
  if l.accepted ∧ e = l.partnerEpoch then s
  else
    let s := if l.state = .init ∧ l.accepted = false then s else s.enterInit p
    let s := s.setLink p { s.link p with accepted := true, viaResume := false, partnerEpoch := e }
    s.takeFree p w

/-- RESUME received (R103, R104). -/
def Chip.resumeIn (s : Chip) (p : TPort) (w : List Byte) : Chip :=
  let l := s.link p
  let ok := decide (rd w 8 1 = l.partnerEpoch ∧ rd w 9 1 = l.epoch)
  if l.state = .init then s
  else if ok ∧ l.accepted ∧ l.viaResume then s
  else if ok ∧ l.state = .resume ∧ l.accepted = false then
    let s := s.setLink p { l with accepted := true, viaResume := true }
    (s.takeFree p w).nakSeq p (rd w 6 2 % 4096)
  else s.enterInit p

/-- The cut-through target of a cell at a trunk ingress (R169), if it is eligible. -/
def Chip.cutTarget (s : Chip) (p : TPort) (c : Cell) : Option TPort :=
  if (s.link p).rxWait ∨ (c.flag 1 ∧ c.kept = false) ∨ s.get SWX_CTL_CT_GLOBAL_EN = 0 then none
  else match s.route c with
  | .out t =>
    let l := s.link t
    if s.mirrored p.num t.num c = false ∧ bit (s.get SWX_CT_EN_EN) t.num ∧ s.portEmpty t.num ∧ l.state = .active
        ∧ l.replayAt = none ∧ l.replay.length < 512 ∧ 0 < l.avail (vcOf c.tc) ∧ s.flitTime t.num ≤ s.gateLeft t.num c.tc
        ∧ s.cellRate t ≤ s.cellRate p then some t else none
  | _ => none

/-- An admission cell: no node passes it on (R123, spec/14_clocks_reset_boot.md R390). -/
def admissionCell (c : Cell) : Bool :=
  c.flag 2 && (decide (rd c.data 0 1 = 0x10 ∨ rd c.data 0 1 = 0x11 ∨ rd c.data 0 1 = 0x20 ∨ rd c.data 0 1 = 0x21)
    || decide (rd c.data 0 1 = 7 ∧ rd c.data 7 1 = 4))

/-- The switch receives a cell as soon as Reed-Solomon correction ends, before its verdict: it is cut through, or written to a block (R78,
R169, R170). -/
def Chip.switchCell (s : Chip) (p : TPort) (c : Cell) (vc : Nat) (accepted : Bool) (cut : Option TPort) : Chip :=
  let r : Option Nat × Chip :=
    match cut with
    | some t => (none, (s.setLink t { s.link t with cut := (s.link t).cut ++ [(c, none)] }).addWrap (SWX_CT_CNT t.num) 1)
    | none =>
      match s.store p.num vc c false .none 0 with
      | some (b, s) => (some b, s)
      | none => (none, s)
  r.2.setLink p { r.2.link p with inflight := (r.2.link p).inflight ++ [⟨c, vc, accepted, cut, r.1⟩] }

/-- The cell of a corrected flit. -/
def flitCell (w : List Byte) : Cell := Cell.ofBytes (slice w 4 112)

/-- A passed cell flit ends replay wait, and is accepted while its VC has a free receive buffer (R82, R84); its eligibility for
cut-through was judged before (R169). -/
def Chip.cellIn (s : Chip) (p : TPort) (w : List Byte) (cut : Option TPort) : Chip :=
  let s := (s.setLink p { s.link p with rxWait := false }).stretchAck p
  let l := s.link p
  let v := hdrVc w
  if l.used.get v < vcBuffers v then
    (s.setLink p { l with expect := (l.expect + 1) % 4096, used := l.used.set v (l.used.get v + 1) }).switchCell p (flitCell w) v
      true cut
  else (((s.switchCell p (flitCell w) v false cut).inc (LNK_OVF p.num)).evt (LNK_EVT_OVF p.num)).enterWait p

/-- The header of a passed flit: its acknowledgement and its credit return. -/
def Chip.headerIn (s : Chip) (p : TPort) (w : List Byte) : Chip :=
  (s.ackSeq p (hdrAck w)).creditReturn p (hdrCrVc w) (hdrCrCnt w)

/-- A passed link control flit that is no handshake message (R100). -/
def Chip.controlFlit (s : Chip) (p : TPort) (w : List Byte) : Chip :=
  let ct := ctlOf w
  if rd w 5 1 ≠ 1 ∨ ct = 0 ∨ 8 < ct then s.inc (LNK_PROTO_ERR p.num)
  else if ct = 3 then (s.inc (LNK_NAK_RX p.num)).nakSeq p (rd w 6 2 % 4096)
  else if ct = 4 then
    let l := s.link p
    let m := rd w 18 1
    let at_ (v : Nat) : Nat := if bit m v then s.tick + 1 else l.holdAt.get v
    s.setLink p { l with holdAt := ⟨at_ 0, at_ 1, at_ 2, at_ 3⟩ }
  else s

/-- A passed flit: what it carries, and the corrected bytes. -/
def Chip.passFlit (s : Chip) (p : TPort) (w : List Byte) : Chip :=
  let s := s.addWrap64 (LNK_FLIT_RX_LO p.num) (LNK_FLIT_RX_HI p.num) 1
  let kind := hdrKind w
  let ct := ctlOf w
  if kind = 1 ∧ (ct = 1 ∨ ct = 2) ∧ rd w 5 1 = 1 then
    let s := s.setLink p { s.link p with rxWait := false }
    let s := if ct = 1 then s.initIn p w else s.resumeIn p w
    (s.headerIn p w).reviewService p
  else
    let s := s.headerIn p w
    let s :=
      if kind = 0 then s.cellIn p w (if admissionCell (flitCell w) then none else s.cutTarget p (flitCell w))
      else
        let s := s.setLink p { s.link p with rxWait := false }
        if kind = 1 then s.controlFlit p w else s
    let l := s.link p
    if l.accepted ∧ (l.state = .init ∨ l.state = .resume) then s.activate p else s

/-- A flit of 128 bytes reaches a port that is Up (R67, R73–R84): the new state, and its corrected bytes where it passes. -/
def Chip.receive (s : Chip) (p : TPort) (flit : List Byte) : Option (List Byte) × Chip :=
  let l := s.link p
  if s.laneState p ≠ laneUp ∨ l.state = .down then (none, s)
  else match rsDecode (padTo flit 128) with
  | none => (none, ((s.inc (LNK_RS_FAIL p.num)).evt (LNK_EVT_RS_FAIL p.num)).enterWait p)
  | some w =>
    let s := if w = padTo flit 128 then s else s.inc (LNK_RS_CORR p.num)
    let stored := rd w 116 4
    let kind := hdrKind w
    let handshake := decide (kind = 1 ∧ (ctlOf w = 1 ∨ ctlOf w = 2))
    if stored = flitCrc l.expect w ∨ (handshake ∧ stored = flitCrc 0 w) then (some w, s.passFlit p w)
    else
      let cell := flitCell w
      let cut := if l.rxWait ∨ admissionCell cell then none else s.cutTarget p cell
      let s := if kind = 0 then s.switchCell p cell (hdrVc w) false cut else s
      if stored = flitCrc l.expect w ^^^ 0xFFFFFFFF then
        (none, (s.setLink p { s.link p with rxWait := false }).inc (LNK_POISON_RX p.num))
      else
        let s := if l.rxWait then s else (s.inc (LNK_CRC_FAIL p.num)).evt (LNK_EVT_CRC_FAIL p.num)
        (none, s.enterWait p)

/-- A flit whose kind asks for nothing more than the link layer does, as its blocks come in (spec/02_trunk_lanes.md R36–R38, R67). -/
def flitIn (p : TPort) (flit : List RxBlock) (s : Chip) : Chip :=
  let x := s.rxFlit p flit
  (x.2.receive p x.1).2

def execCellFlit (p : TPort) (flit : List RxBlock) (s : State) : Result := s.onChip (flitIn p flit)
def execFlitFail (p : TPort) (flit : List RxBlock) (s : State) : Result := s.onChip (flitIn p flit)
def execPoisonFlit (p : TPort) (flit : List RxBlock) (s : State) : Result := s.onChip (flitIn p flit)
def execIdleFlit (p : TPort) (flit : List RxBlock) (s : State) : Result := s.onChip (flitIn p flit)
def execInit (p : TPort) (flit : List RxBlock) (s : State) : Result := s.onChip (flitIn p flit)
def execResume (p : TPort) (flit : List RxBlock) (s : State) : Result := s.onChip (flitIn p flit)
def execNak (p : TPort) (flit : List RxBlock) (s : State) : Result := s.onChip (flitIn p flit)
def execHold (p : TPort) (flit : List RxBlock) (s : State) : Result := s.onChip (flitIn p flit)

/-- A beacon flit, with its arrival stamp (spec/05_chain_time.md R146). -/
def beaconIn (p : TPort) (flit : List RxBlock) (stamp : Nat) (s : Chip) : Chip :=
  let x := s.rxFlit p flit
  let r := x.2.receive p x.1
  match r.1 with
  | some w => if hdrKind w = 2 then r.2.takeBeacon p (slice w 4 112) stamp else r.2
  | none => r.2

def execBeacon (p : TPort) (flit : List RxBlock) (stamp : BitVec 80) (s : State) : Result := s.onChip (beaconIn p flit stamp.toNat)

/-! ### The verdict (R78, R170, R171) -/

/-- What became of the oldest cell cut through to a port that has no verdict yet and equals a cell. -/
def decideCut (l : List (Cell × Option Bool)) (c : Cell) (ok : Bool) : List (Cell × Option Bool) :=
  match l with
  | [] => []
  | e :: r => if e.1 = c ∧ e.2 = none then (c, some ok) :: r else e :: decideCut r c ok

/-- A cell written on the store path has passed its verdict, and its port has accepted it: it is mirrored at its ingress, and linked, held or
discarded. An admission cell is the braid logic's, and no queue takes it. -/
def Chip.linkStored (s : Chip) (p : TPort) (x : InFlight) : Chip :=
  let s := match x.blk with
    | some b => s.mirrorIn b p.num x.cell
    | none => s
  if admissionCell x.cell then ((s.countIn p.num).giveUp x.blk).freeRx p x.vc
  else
    let r := s.offer p.num x.vc x.blk x.cell
    if r.1 then r.2.freeRx p x.vc else r.2

/-- The verdict on the oldest cell received: a cut-through cell goes out or is poisoned, unless its port has gone down and flushed it; a
stored one is linked or freed. -/
def crcVerdict (p : TPort) (s : Chip) : Chip :=
  match (s.link p).inflight with
  | [] => s
  | x :: rest =>
    let s := s.setLink p { s.link p with inflight := rest }
    match x.cut with
    | some t =>
      let there := (s.link t).cut.any (fun e => e.1 == x.cell && e.2.isNone)
      let s := s.setLink t { s.link t with cut := decideCut (s.link t).cut x.cell x.accepted }
      if x.accepted then ((s.countIn p.num).countKept x.cell).freeRx p x.vc
      else if there then (s.inc SWX_POISON_CNT).evt SWX_EVT_POISON
      else s
    | none => if x.accepted then s.linkStored p x else s.giveUp x.blk

def execCrcVerdict (p : TPort) (s : State) : Result := s.onChip (crcVerdict p)

/-! ### Held cells (R167) -/

/-- The cells held at an ingress are offered again in their order, one held ahead of them in their queue going first; at a trunk port one
that is placed leaves its receive buffer. -/
def Chip.retryHeld (s : Chip) (ing : Nat) : Chip :=
  ((s.sw.held.filter (fun x => x.ingress == ing)).foldl (fun (a : Chip × List Cell) x =>
    let s := a.1
    let r := s.place ing x.vc x.blk x.cell false
    if a.2.any (s.sameQueue x.cell) ∧ s.sheds x.cell = false then (s, a.2 ++ [x.cell])
    else if r.held then (s.notPlaced r, a.2 ++ [x.cell])
    else
      let s := r.chip.setSw { r.chip.sw with held := r.chip.sw.held.erase x }
      (if ing < 4 then s.freeRx (tport ing) x.vc else s, a.2)) (s, [])).1

/-- Cells held at an ingress are retried against buffer admission (R167): those of a trunk port or a local port, on a bench cluster the rings
bound to it, on an endpoint port the cells that wait for rings, and at P12 the waiting tunnel 0 and admission cells and Porter's Ethernet frames. -/
def heldRetry (ing : Nat) (s : Chip) : Chip :=
  let s := s.retryHeld ing
  let s := (List.range 64).foldl (fun (s : Chip) r => if s.get (BCH_RING_PORT r) = ing then s.pump r else s) s
  let s := (s.retryEnds ing).pumpClusters
  if ing = 12 then ((s.pumpT0).retryOutgoing).retryEth else s

def execHeldCellRetry (ingress : Fin 16) (s : State) : Result := s.onChip (heldRetry ingress)

/-! ### Timers and register commands -/

/-- A VC without a free receive buffer is named in a HOLD every HOLD_INT (R95). -/
def holdInt (p : TPort) (s : Chip) : Chip :=
  let f := (s.link p).freeBuffers
  let mask := b2n (decide (f.v0 = 0)) + 2 * b2n (decide (f.v1 = 0)) + 4 * b2n (decide (f.v2 = 0)) + 8 * b2n (decide (f.v3 = 0))
  if mask = 0 ∨ (s.link p).state = .down then s else s.sendCtl p (.hold mask)

def execHoldInt (p : TPort) (s : State) : Result := s.onChip (holdInt p)

/-- The message of the handshake is sent again (R102, R103). -/
def handshakeRepeat (p : TPort) (s : Chip) : Chip :=
  let l := s.link p
  if l.state = .init ∨ l.state = .resume then
    s.setLink p { l with ctl := l.ctl.filter (fun c => !c.isHandshake) ++ [l.handshake] }
  else s

def execHandshakeRepeat (p : TPort) (s : State) : Result := s.onChip (handshakeRepeat p)

/-- The replay timer expires: a replay from OLDEST (R87). -/
def execReplayTmo (p : TPort) (s : State) : Result := s.onChip (fun c => c.startReplay p)

/-- NAK_TMO in replay wait: the NAK again (R84). -/
def nakTmo (p : TPort) (s : Chip) : Chip :=
  let l := s.link p
  if l.rxWait ∧ l.state ≠ .down then s.sendCtl p (.nak l.expect) else s

def execNakTmo (p : TPort) (s : State) : Result := s.onChip (nakTmo p)

/-- A cell waits on a virtual channel of a trunk port. -/
def Chip.vcWaits (s : Chip) (p : TPort) (v : Nat) : Bool :=
  (List.range 64).any (fun q => decide (vcOf (q / 8) = v) && !(s.queue p.num q).isEmpty)
  || (s.link p).cut.any (fun e => decide (vcOf e.1.tc = v))

/-- The link is declared broken (R98, R105): the port is lost. -/
def Chip.linkBroken (s : Chip) (p : TPort) (cause : Nat) : Chip := (s.evt (LNK_EVT_CREDIT_TMO p.num)).portLost p cause

/-- A credit timeout (R96, R98), which a HOLD that names the channel puts off: strict mode declares the link broken, service mode only records it. -/
def creditTmo (p : TPort) (v : Nat) (s : Chip) : Chip :=
  let l := s.link p
  if l.state ≠ .active ∨ 0 < l.avail v ∨ s.vcWaits p v = false ∨ s.heldBy p v then s
  else
    let s := s.inc (LNK_CREDIT_STALL_CNT p.num)
    if s.strict p then s.linkBroken p 2
    else
      let s := s.evt (LNK_EVT_CREDIT_STALL p.num)
      if s.on (LNK_CTL_AUDIT_ON_STALL p.num) then s.askRetrain p 4 else s

def execCreditTmo (p : TPort) (vc : Fin 4) (s : State) : Result := s.onChip (creditTmo p vc)

/-- The handshake has not reached Active within HANDSHAKE_TMO (R105). -/
def handshakeTmo (p : TPort) (s : Chip) : Chip :=
  if (s.link p).state = .init ∨ (s.link p).state = .resume then s.linkBroken p 3 else s

def execHandshakeTmo (p : TPort) (s : State) : Result := s.onChip (handshakeTmo p)

/-- A write of 1 to LNK_port_CTL.FORCE_INIT (R101). The rule does not say what it does on Down: it has no effect there (DESIGN CHOICE, log
entry 41). -/
def forceInit (p : TPort) (s : Chip) : Chip := if (s.link p).state = .down then s else (s.enterInit p).reviewService p

def execForceInit (p : TPort) (s : State) : Result := s.onChip (forceInit p)

/-- A read of FLIT_TX_LO, or of FLIT_RX_LO, latches its HI word (R110). -/
def flitTxLo (p : TPort) (rx : Bool) (s : Chip) : Chip :=
  let hi := if rx then LNK_FLIT_RX_HI p.num else LNK_FLIT_TX_HI p.num
  s.latch hi.addr (s.get hi)

def execFlitTxLo (p : TPort) (rx : Bool) (s : State) : Result := s.onChip (flitTxLo p rx)

/-! ### Transmitting (R71–R76, R79, R93, R106) -/

/-- The virtual channel whose credit return the next flit carries (R93). -/
def Chip.creditTurn (s : Chip) (p : TPort) : Nat :=
  let l := s.link p
  let order := [1, 2, 3, 4].map (fun i => (l.crVc + i) % 4)
  match order.find? (fun v => decide (s.creditFreed p v ≠ l.freedSent.get v)) with
  | some v => v
  | none => (l.crVc + 1) % 4

/-- Send a flit: header, 112 bytes, CRC under its implicit sequence number, parity; striped and scrambled on the lanes in use. -/
def Chip.sendFlit (s : Chip) (p : TPort) (vc kind : Nat) (body : List Byte) (implicit : Nat) (poison : Bool) : Chip :=
  let l := s.link p
  let v := s.creditTurn p
  let ack := (s.shownExpect p + 4095) % 4096
  let head := leBytes (vc + 4 * kind + 16 * v + 64 * s.creditFreed p v + 65536 * ack) 4
  let m := head ++ padTo body 112
  let crc := flitCrc implicit m
  let msg := m ++ leBytes (if poison then crc ^^^ 0xFFFFFFFF else crc) 4
  let flit := msg ++ rsParity msg
  let s := s.setLink p { l with crVc := v, freedSent := l.freedSent.set v (s.creditFreed p v), ackSent := ack }
  let w := widthOf (s.get (TRK_STAT_WIDTH p.num))
  let phys := (List.range w).map (fun i => s.get (TRK_LANE_MAP_TX_LOG p.num i))
  let sent := phys.zipIdx.map (fun e => scrambleAll ((s.lane p).scramblers.getD e.1 0) (laneShare flit w e.2))
  let scr := (phys.zip sent).foldl (fun (m : List Nat) e => m.set e.1 e.2.2) (s.lane p).scramblers
  let s := s.setLane p { s.lane p with scramblers := scr }
  (s.addWrap64 (LNK_FLIT_TX_LO p.num) (LNK_FLIT_TX_HI p.num) 1).emit
    (.flit p flit (sent.map (fun e => e.1.map dataBlock)))

/-- CTYPE, payload and implicit sequence number of a link control flit (Table 3.5, R76,
spec/23_in_service_repair.md R545). -/
def Ctl.bytes : Ctl → List Byte
  | .init e f => [1, 1, 0, 0, BitVec.ofNat 8 e, 0] ++ leBytes f.v0 2 ++ leBytes f.v1 2 ++ leBytes f.v2 2 ++ leBytes f.v3 2
  | .resume x e q f => [2, 1] ++ leBytes x 2 ++ [BitVec.ofNat 8 e, BitVec.ofNat 8 q] ++ leBytes f.v0 2 ++ leBytes f.v1 2
      ++ leBytes f.v2 2 ++ leBytes f.v3 2
  | .nak x => [3, 1] ++ leBytes x 2
  | .hold m => [4, 1] ++ List.replicate 12 0 ++ [BitVec.ofNat 8 m]
  | .spare ct lg a b r => [BitVec.ofNat 8 ct, 1, 0, 0, BitVec.ofNat 8 lg, BitVec.ofNat 8 a, BitVec.ofNat 8 b, BitVec.ofNat 8 r]

/-- A cell flit of a sequence number. -/
def Chip.sendCell (s : Chip) (p : TPort) (c : Cell) (q : Nat) : Chip := s.sendFlit p (vcOf c.tc) 0 c.toBytes q false

/-- A new cell takes the next sequence number, enters the replay buffer and uses a credit (R80, R92). -/
def Chip.newCell (s : Chip) (p : TPort) (c : Cell) : Chip :=
  let l := s.link p
  let v := vcOf c.tc
  let s := s.setLink p { l with
    replay := l.replay ++ [(l.next, c)], next := (l.next + 1) % 4096, sent := l.sent.set v ((l.sent.get v + 1) % 1024) }
  (s.sendCell p c l.next).countOut p.num

/-- The sequence number that the next cell flit will carry: a replayed one's while a replay runs (R76). -/
def LinkPort.nextSeq (l : LinkPort) : Nat := l.replayAt.getD l.next

/-- An idle flit. -/
def Chip.sendIdle (s : Chip) (p : TPort) : Chip := s.sendFlit p 0 3 [] (s.link p).nextSeq false

/-- Send the head of a queue, read with `ecc` (spec/06_switch_core.md R181–R183): a cell beyond correction is lost, and the boundary
goes to an idle flit. -/
def Chip.sendStored (s : Chip) (p : TPort) (q : Nat) (ecc : EccFind) : Chip :=
  let r := s.serve p.num q 128
  match r.1 with
  | none => s.sendIdle p
  | some d =>
    let x := r.2.readBlock d p.num ecc
    (if x.1 then x.2.newCell p (s.descCell d) else x.2.sendIdle p).dropDesc d

/-- A new cell flit, if one may go: a cell cut through first, whose gate is checked again at its boundary (spec/07_scheduling_and_allotment.md
R193), then the scheduler's choice (R81, R92, R106 item 4). -/
def Chip.sendNew (s : Chip) (p : TPort) (ecc : EccFind) : Chip :=
  let l := s.link p
  if l.state ≠ .active ∨ 512 ≤ l.replay.length then s.sendIdle p
  else match l.cut with
  | (c, some false) :: rest =>
    -- a poisoned flit: no sequence number, no replay entry, no credit (R79, R171)
    let s := s.setLink p { l with cut := rest }
    s.sendFlit p (vcOf c.tc) 0 c.toBytes l.next true
  | (c, some true) :: rest =>
    if l.avail (vcOf c.tc) = 0 ∨ s.gateLeft p.num c.tc < s.flitTime p.num then s.sendIdle p
    else (s.setLink p { l with cut := rest }).newCell p c
  | (_, none) :: _ => s.sendIdle p
  | [] =>
    let need := s.flitTime p.num
    let ok (q : Nat) : Bool := s.eligible p.num q need && decide (0 < l.avail (vcOf (q / 8)))
    let r := s.select p.num ok (fun _ => 128)
    match r.1 with
    | none => r.2.sendIdle p
    | some q => r.2.sendStored p q ecc

/-- A flit boundary (R106): a beacon that is due, the oldest pending link control flit, the next replayed cell, a new cell, or an
idle flit. -/
def flitTransmit (p : TPort) (ecc : EccFind) (s : Chip) : Chip :=
  let l := s.link p
  if s.laneState p ≠ laneUp ∨ l.state = .down then s
  else if s.beaconReady p then
    let body := s.beaconBytes p
    let s := s.setLink p { l with beaconDue := false }
    (s.sendFlit p 3 2 body l.nextSeq false).beaconSent p
  else match l.ctl with
  | c :: rest =>
    let s := s.setLink p { l with ctl := rest }
    let s := match c with
      | .nak _ => s.inc (LNK_NAK_TX p.num)
      | _ => s
    s.sendFlit p 0 1 c.bytes (if c.isHandshake then 0 else l.nextSeq) false
  | [] =>
    match l.replayAt with
    | some q =>
      match l.replay.find? (fun e => e.1 == q) with
      | some e =>
        let q' := (q + 1) % 4096
        let s := s.setLink p { l with replayAt := if q' = l.next then none else some q' }
        (s.inc (LNK_REPLAY_FLITS p.num)).sendCell p e.2 q
      | none => (s.setLink p { l with replayAt := none }).sendIdle p
    | none => s.sendNew p ecc

def execFlitTransmit (p : TPort) (ecc : EccFind) (s : State) : Result := s.onChip (flitTransmit p ecc)

end Sys2Proof.Machine
end

