-- ==== Sys2Proof/Machine/RegTable.lean ====
section
/-! DEFINITION. The CSR map as data (spec/13_management_and_dockets.md R372 and every block's register tables): one row per register,
with its base address, its index strides and counts, and its fields with their access codes (Table 0.3) and the encodings that
are not reserved (R5). A list of fields is given for one choice of the row's indices. -/

namespace Sys2Proof.Machine
open Sys2Proof.Machine.Reg

def rowsTRK0 : List RegRow := [
  ⟨0x30000, [(0x1000, 4)], fun ix => let p := ix.getD 0 0; [⟨TRK_CTL_EN p, .rw, []⟩, ⟨TRK_CTL_RETRAIN p, .wo, []⟩, ⟨TRK_CTL_TGT_RATE p, .rw, []⟩, ⟨TRK_CTL_TGT_WIDTH p, .rw, if p < 2 then [(0, 3)] else [(1, 3)]⟩, ⟨TRK_CTL_FALLBACK_EN p, .rw, []⟩, ⟨TRK_CTL_DRIFT_EN p, .rw, []⟩, ⟨TRK_CTL_PARK p, .wo, []⟩]⟩,
  ⟨0x30004, [(0x1000, 4)], fun ix => let p := ix.getD 0 0; [⟨TRK_STAT_STATE p, .ro, []⟩, ⟨TRK_STAT_RATE p, .ro, []⟩, ⟨TRK_STAT_WIDTH p, .ro, []⟩, ⟨TRK_STAT_LEADER p, .ro, []⟩, ⟨TRK_STAT_PARTNERED p, .ro, []⟩, ⟨TRK_STAT_SPARE_IN_USE_TX p, .ro, []⟩, ⟨TRK_STAT_SPARE_IN_USE_RX p, .ro, []⟩, ⟨TRK_STAT_BEQ_DEFAULT p, .ro, []⟩, ⟨TRK_STAT_DLL_LOCK p, .ro, []⟩, ⟨TRK_STAT_GOOD_MASK p, .ro, []⟩]⟩,
  ⟨0x30008, [(0x1000, 4)], fun ix => let p := ix.getD 0 0; (List.range 8).map (fun i => ⟨TRK_LANE_MAP_TX_LOG p i, .ro, []⟩)⟩,
  ⟨0x3000c, [(0x1000, 4)], fun ix => let p := ix.getD 0 0; (List.range 8).map (fun i => ⟨TRK_LANE_MAP_RX_LOG p i, .ro, []⟩)⟩,
  ⟨0x30010, [(0x1000, 4)], fun ix => let p := ix.getD 0 0; [⟨TRK_LOS_LOS_LANE p, .ro, []⟩, ⟨TRK_LOS_LOS_CK p, .ro, []⟩, ⟨TRK_LOS_LOL p, .ro, []⟩]⟩,
  ⟨0x30014, [(0x1000, 4)], fun ix => let p := ix.getD 0 0; [⟨TRK_EVT_LOS_LANE p, .w1c, []⟩, ⟨TRK_EVT_LOS_CK p, .w1c, []⟩, ⟨TRK_EVT_LOL p, .w1c, []⟩, ⟨TRK_EVT_LOCK_LOST p, .w1c, []⟩, ⟨TRK_EVT_LANE_FAULT p, .w1c, []⟩, ⟨TRK_EVT_PORT_LOST p, .w1c, []⟩, ⟨TRK_EVT_LINK_UP p, .w1c, []⟩, ⟨TRK_EVT_TRAIN_FAIL p, .w1c, []⟩, ⟨TRK_EVT_COLLISION p, .w1c, []⟩, ⟨TRK_EVT_HID_CHANGED p, .w1c, []⟩, ⟨TRK_EVT_BEQ_MISS p, .w1c, []⟩, ⟨TRK_EVT_PARKED_BY_PARTNER p, .w1c, []⟩]⟩,
  ⟨0x30018, [(0x1000, 4)], fun ix => let p := ix.getD 0 0; [⟨TRK_IRQ_EN_LOS_LANE p, .rw, []⟩, ⟨TRK_IRQ_EN_LOS_CK p, .rw, []⟩, ⟨TRK_IRQ_EN_LOL p, .rw, []⟩, ⟨TRK_IRQ_EN_LOCK_LOST p, .rw, []⟩, ⟨TRK_IRQ_EN_LANE_FAULT p, .rw, []⟩, ⟨TRK_IRQ_EN_PORT_LOST p, .rw, []⟩, ⟨TRK_IRQ_EN_LINK_UP p, .rw, []⟩, ⟨TRK_IRQ_EN_TRAIN_FAIL p, .rw, []⟩, ⟨TRK_IRQ_EN_COLLISION p, .rw, []⟩, ⟨TRK_IRQ_EN_HID_CHANGED p, .rw, []⟩, ⟨TRK_IRQ_EN_BEQ_MISS p, .rw, []⟩, ⟨TRK_IRQ_EN_PARKED_BY_PARTNER p, .rw, []⟩]⟩,
  ⟨0x3001c, [(0x1000, 4)], fun ix => let p := ix.getD 0 0; [⟨TRK_FILT_LOS_FILT p, .rw, []⟩, ⟨TRK_FILT_LOL_FILT p, .rw, []⟩, ⟨TRK_FILT_LOS_THR p, .rw, []⟩]⟩,
  ⟨0x30020, [(0x1000, 4)], fun ix => let p := ix.getD 0 0; [⟨TRK_TRAIN_TMO_TRAIN_TMO p, .rw, [(10, 10000)]⟩, ⟨TRK_TRAIN_TMO_FAST_TMO p, .rw, [(10, 1000)]⟩]⟩,
  ⟨0x30024, [(0x1000, 4)], fun ix => let p := ix.getD 0 0; [⟨TRK_RETRY_RETRY_LIM p, .rw, [(1, 15)]⟩, ⟨TRK_RETRY_RETRY_INT p, .rw, [(1, 1000)]⟩]⟩,
  ⟨0x30028, [(0x1000, 4)], fun ix => let p := ix.getD 0 0; [⟨TRK_VERIFY_DWELL p, .rw, [(1, 1000)]⟩, ⟨TRK_VERIFY_ERR_THR p, .rw, []⟩, ⟨TRK_VERIFY_FAST_DWELL p, .rw, [(1, 255)]⟩]⟩,
  ⟨0x3002c, [(0x1000, 4)], fun ix => let p := ix.getD 0 0; [⟨TRK_PARTNER_P_HID p, .ro, []⟩, ⟨TRK_PARTNER_P_RATE p, .ro, []⟩, ⟨TRK_PARTNER_P_WIDTH p, .ro, []⟩, ⟨TRK_PARTNER_P_MASK p, .ro, []⟩]⟩]

def rowsTRK1 : List RegRow := [
  ⟨0x30030, [(0x1000, 4)], fun ix => let p := ix.getD 0 0; [⟨TRK_TRAIN_CNT_UPS p, .rw, []⟩]⟩,
  ⟨0x30034, [(0x1000, 4)], fun ix => let p := ix.getD 0 0; [⟨TRK_FAIL_CNT_FAILS p, .rw, []⟩]⟩,
  ⟨0x30080, [(0x1000, 4), (0x4, 9)], fun ix => let p := ix.getD 0 0; let n := ix.getD 1 0; [⟨TRK_BERR_HDR_ERR p n, .rw, []⟩]⟩,
  ⟨0x30040, [(0x1000, 4), (0x4, 10)], fun ix => let p := ix.getD 0 0; let n := ix.getD 1 0; [⟨TRK_EQ_TX_PRE p n, .ro, []⟩, ⟨TRK_EQ_TX_POST p n, .ro, []⟩, ⟨TRK_EQ_RX_CTLE p n, .ro, []⟩, ⟨TRK_EQ_TX_MAIN p n, .ro, []⟩]⟩,
  ⟨0x34000, [], fun _ => [⟨TRK_BEQ_STAT_VALID, .ro, []⟩, ⟨TRK_BEQ_STAT_ENTRIES, .ro, []⟩]⟩,
  ⟨0x34004, [], fun _ => [⟨TRK_BEQ_REV_TABLE_REV, .ro, []⟩]⟩,
  ⟨0x34008, [], fun _ => [⟨TRK_HID_HID, .ro, []⟩]⟩]

def rowsLNK0 : List RegRow := [
  ⟨0x40000, [(0x1000, 4)], fun ix => let p := ix.getD 0 0; [⟨LNK_CTL_STRICT p, .rw, []⟩, ⟨LNK_CTL_AUDIT_ON_STALL p, .rw, []⟩, ⟨LNK_CTL_FORCE_INIT p, .wo, []⟩, ⟨LNK_CTL_REPLAY_LIM p, .rw, [(2, 255)]⟩]⟩,
  ⟨0x40004, [(0x1000, 4)], fun ix => let p := ix.getD 0 0; [⟨LNK_STAT_STATE p, .ro, []⟩, ⟨LNK_STAT_RX_WAIT p, .ro, []⟩, ⟨LNK_STAT_TX_REPLAY p, .ro, []⟩, ⟨LNK_STAT_TX_STALL p, .ro, []⟩, ⟨LNK_STAT_STRICT_EFF p, .ro, []⟩, ⟨LNK_STAT_HOLD_RX p, .ro, []⟩, ⟨LNK_STAT_CREDIT_ZERO p, .ro, []⟩, ⟨LNK_STAT_REPLAY_OCC p, .ro, []⟩]⟩,
  ⟨0x40008, [(0x1000, 4)], fun ix => let p := ix.getD 0 0; [⟨LNK_SEQ_TX_NEXT p, .ro, []⟩, ⟨LNK_SEQ_TX_OLDEST p, .ro, []⟩]⟩,
  ⟨0x4000c, [(0x1000, 4)], fun ix => let p := ix.getD 0 0; [⟨LNK_SEQ_RX_EXPECT p, .ro, []⟩, ⟨LNK_SEQ_RX_ACK_SENT p, .ro, []⟩]⟩,
  ⟨0x40010, [(0x1000, 4)], fun ix => let p := ix.getD 0 0; [⟨LNK_EPOCH_LOCAL p, .ro, []⟩, ⟨LNK_EPOCH_PARTNER p, .ro, []⟩]⟩,
  ⟨0x40030, [(0x1000, 4), (0x4, 4)], fun ix => let p := ix.getD 0 0; let v := ix.getD 1 0; [⟨LNK_CREDIT_AVAIL p v, .ro, []⟩, ⟨LNK_CREDIT_LIMIT p v, .ro, []⟩]⟩,
  ⟨0x40014, [(0x1000, 4)], fun ix => let p := ix.getD 0 0; [⟨LNK_EVT_RS_FAIL p, .w1c, []⟩, ⟨LNK_EVT_CRC_FAIL p, .w1c, []⟩, ⟨LNK_EVT_REPLAY p, .w1c, []⟩, ⟨LNK_EVT_REPLAY_LIM p, .w1c, []⟩, ⟨LNK_EVT_CREDIT_STALL p, .w1c, []⟩, ⟨LNK_EVT_CREDIT_TMO p, .w1c, []⟩, ⟨LNK_EVT_CR_ERR p, .w1c, []⟩, ⟨LNK_EVT_ACK_ERR p, .w1c, []⟩, ⟨LNK_EVT_OVF p, .w1c, []⟩, ⟨LNK_EVT_INIT p, .w1c, []⟩, ⟨LNK_EVT_RESUME p, .w1c, []⟩, ⟨LNK_EVT_LOST p, .w1c, []⟩]⟩,
  ⟨0x40018, [(0x1000, 4)], fun ix => let p := ix.getD 0 0; [⟨LNK_IRQ_EN_RS_FAIL p, .rw, []⟩, ⟨LNK_IRQ_EN_CRC_FAIL p, .rw, []⟩, ⟨LNK_IRQ_EN_REPLAY p, .rw, []⟩, ⟨LNK_IRQ_EN_REPLAY_LIM p, .rw, []⟩, ⟨LNK_IRQ_EN_CREDIT_STALL p, .rw, []⟩, ⟨LNK_IRQ_EN_CREDIT_TMO p, .rw, []⟩, ⟨LNK_IRQ_EN_CR_ERR p, .rw, []⟩, ⟨LNK_IRQ_EN_ACK_ERR p, .rw, []⟩, ⟨LNK_IRQ_EN_OVF p, .rw, []⟩, ⟨LNK_IRQ_EN_INIT p, .rw, []⟩, ⟨LNK_IRQ_EN_RESUME p, .rw, []⟩, ⟨LNK_IRQ_EN_LOST p, .rw, []⟩]⟩,
  ⟨0x4001c, [(0x1000, 4)], fun ix => let p := ix.getD 0 0; [⟨LNK_TMO_A_REPLAY_TMO p, .rw, [(5, 500)]⟩, ⟨LNK_TMO_A_NAK_TMO p, .rw, [(2, 100)]⟩]⟩,
  ⟨0x40020, [(0x1000, 4)], fun ix => let p := ix.getD 0 0; [⟨LNK_TMO_B_CREDIT_TMO p, .rw, [(10, 1000)]⟩, ⟨LNK_TMO_B_HOLD_INT p, .rw, [(2, 25)]⟩, ⟨LNK_TMO_B_HANDSHAKE_TMO p, .rw, [(5, 255)]⟩]⟩,
  ⟨0x40040, [(0x1000, 4)], fun ix => let p := ix.getD 0 0; [⟨LNK_FLIT_TX_LO p, .ro, []⟩]⟩,
  ⟨0x40044, [(0x1000, 4)], fun ix => let p := ix.getD 0 0; [⟨LNK_FLIT_TX_HI p, .ro, []⟩]⟩]

def rowsLNK1 : List RegRow := [
  ⟨0x40048, [(0x1000, 4)], fun ix => let p := ix.getD 0 0; [⟨LNK_FLIT_RX_LO p, .ro, []⟩]⟩,
  ⟨0x4004c, [(0x1000, 4)], fun ix => let p := ix.getD 0 0; [⟨LNK_FLIT_RX_HI p, .ro, []⟩]⟩,
  ⟨0x40050, [(0x1000, 4)], fun ix => let p := ix.getD 0 0; [⟨LNK_RS_CORR p, .rw, []⟩]⟩,
  ⟨0x40054, [(0x1000, 4)], fun ix => let p := ix.getD 0 0; [⟨LNK_RS_FAIL p, .rw, []⟩]⟩,
  ⟨0x40058, [(0x1000, 4)], fun ix => let p := ix.getD 0 0; [⟨LNK_CRC_FAIL p, .rw, []⟩]⟩,
  ⟨0x4005c, [(0x1000, 4)], fun ix => let p := ix.getD 0 0; [⟨LNK_POISON_RX p, .rw, []⟩]⟩,
  ⟨0x40060, [(0x1000, 4)], fun ix => let p := ix.getD 0 0; [⟨LNK_NAK_TX p, .rw, []⟩]⟩,
  ⟨0x40064, [(0x1000, 4)], fun ix => let p := ix.getD 0 0; [⟨LNK_NAK_RX p, .rw, []⟩]⟩,
  ⟨0x40068, [(0x1000, 4)], fun ix => let p := ix.getD 0 0; [⟨LNK_REPLAY_CNT p, .rw, []⟩]⟩,
  ⟨0x4006c, [(0x1000, 4)], fun ix => let p := ix.getD 0 0; [⟨LNK_REPLAY_FLITS p, .rw, []⟩]⟩,
  ⟨0x40070, [(0x1000, 4)], fun ix => let p := ix.getD 0 0; [⟨LNK_CR_ERR p, .rw, []⟩]⟩,
  ⟨0x40074, [(0x1000, 4)], fun ix => let p := ix.getD 0 0; [⟨LNK_ACK_ERR p, .rw, []⟩]⟩]

def rowsLNK2 : List RegRow := [
  ⟨0x40078, [(0x1000, 4)], fun ix => let p := ix.getD 0 0; [⟨LNK_OVF p, .rw, []⟩]⟩,
  ⟨0x4007c, [(0x1000, 4)], fun ix => let p := ix.getD 0 0; [⟨LNK_CREDIT_STALL_CNT p, .rw, []⟩]⟩,
  ⟨0x40080, [(0x1000, 4)], fun ix => let p := ix.getD 0 0; [⟨LNK_LOST_CELLS p, .rw, []⟩]⟩,
  ⟨0x40084, [(0x1000, 4)], fun ix => let p := ix.getD 0 0; [⟨LNK_PROTO_ERR p, .rw, []⟩]⟩,
  ⟨0x40088, [(0x1000, 4)], fun ix => let p := ix.getD 0 0; [⟨LNK_INIT_CNT p, .rw, []⟩]⟩]

def rowsBRD0 : List RegRow := [
  ⟨0x50000, [], fun _ => [⟨BRD_CTL_NOTICE_EN, .rw, []⟩, ⟨BRD_CTL_SNOOP_EN, .rw, []⟩, ⟨BRD_CTL_SPONSOR_EN, .rw, []⟩]⟩,
  ⟨0x50004, [], fun _ => [⟨BRD_STAT_POS, .ro, []⟩, ⟨BRD_STAT_ROW, .ro, []⟩, ⟨BRD_STAT_POS_VALID, .ro, []⟩, ⟨BRD_STAT_ROLE, .ro, []⟩, ⟨BRD_STAT_SPLIT_UP, .ro, []⟩, ⟨BRD_STAT_SPLIT_DOWN, .ro, []⟩, ⟨BRD_STAT_HEAD_CONFLICT, .ro, []⟩]⟩,
  ⟨0x50008, [], fun _ => [⟨BRD_RAIL_SKIP_THR, .rwl, []⟩, ⟨BRD_RAIL_HASH_SEED, .rwl, []⟩]⟩,
  ⟨0x5000c, [], fun _ => [⟨BRD_PORT_SVC_IN_SERVICE, .ro, []⟩, ⟨BRD_PORT_SVC_RECOVERY, .ro, []⟩, ⟨BRD_PORT_SVC_HOLDOFF_RUN, .ro, []⟩]⟩,
  ⟨0x50010, [], fun _ => [⟨BRD_EVT_GRAFT, .w1c, []⟩, ⟨BRD_EVT_RESTORE, .w1c, []⟩, ⟨BRD_EVT_SPLIT, .w1c, []⟩, ⟨BRD_EVT_REJOIN, .w1c, []⟩, ⟨BRD_EVT_ADMITTED, .w1c, []⟩, ⟨BRD_EVT_REFUSED, .w1c, []⟩, ⟨BRD_EVT_PRUNED, .w1c, []⟩, ⟨BRD_EVT_NOTICE, .w1c, []⟩, ⟨BRD_EVT_UNREACH, .w1c, []⟩, ⟨BRD_EVT_TGEN, .w1c, []⟩, ⟨BRD_EVT_HEAD_CONFLICT, .w1c, []⟩]⟩,
  ⟨0x50014, [], fun _ => [⟨BRD_IRQ_EN_GRAFT, .rw, []⟩, ⟨BRD_IRQ_EN_RESTORE, .rw, []⟩, ⟨BRD_IRQ_EN_SPLIT, .rw, []⟩, ⟨BRD_IRQ_EN_REJOIN, .rw, []⟩, ⟨BRD_IRQ_EN_ADMITTED, .rw, []⟩, ⟨BRD_IRQ_EN_REFUSED, .rw, []⟩, ⟨BRD_IRQ_EN_PRUNED, .rw, []⟩, ⟨BRD_IRQ_EN_NOTICE, .rw, []⟩, ⟨BRD_IRQ_EN_UNREACH, .rw, []⟩, ⟨BRD_IRQ_EN_TGEN, .rw, []⟩, ⟨BRD_IRQ_EN_HEAD_CONFLICT, .rw, []⟩]⟩,
  ⟨0x50018, [], fun _ => [⟨BRD_HOLDOFF_HOLDOFF, .rw, [(10, 60000)]⟩]⟩,
  ⟨0x5001c, [], fun _ => [⟨BRD_TIMERS_ADMIT_TMO, .rw, [(1, 255)]⟩, ⟨BRD_TIMERS_RESTORE_DELAY, .rw, [(1, 255)]⟩, ⟨BRD_TIMERS_RECOVERY_HOLD, .rw, []⟩]⟩,
  ⟨0x50020, [], fun _ => [⟨BRD_TGEN_TGEN, .ro, []⟩]⟩,
  ⟨0x50024, [], fun _ => [⟨BRD_GRAFT_CNT, .rw, []⟩]⟩,
  ⟨0x50028, [], fun _ => [⟨BRD_UNREACH_CNT, .rw, []⟩]⟩,
  ⟨0x5002c, [], fun _ => [⟨BRD_NOTICE_CNT, .rw, []⟩]⟩]

def rowsBRD1 : List RegRow := [
  ⟨0x50030, [], fun _ => [⟨BRD_REFUSE_CNT, .rw, []⟩]⟩,
  ⟨0x50034, [], fun _ => [⟨BRD_LAST_GRAFT_POS, .ro, []⟩, ⟨BRD_LAST_GRAFT_PORT, .ro, []⟩, ⟨BRD_LAST_GRAFT_CAUSE, .ro, []⟩, ⟨BRD_LAST_GRAFT_LAT, .ro, []⟩]⟩,
  ⟨0x50038, [], fun _ => [⟨BRD_LAST_ADMIT_POS, .ro, []⟩, ⟨BRD_LAST_ADMIT_OUTCOME, .ro, []⟩]⟩,
  ⟨0x51000, [(0x4, 1024)], fun ix => let p := ix.getD 0 0; [⟨BRD_TRELLIS_STATE p, .ro, []⟩, ⟨BRD_TRELLIS_ROLE p, .ro, []⟩, ⟨BRD_TRELLIS_SELF p, .ro, []⟩, ⟨BRD_TRELLIS_REFUSED p, .ro, []⟩, ⟨BRD_TRELLIS_LOCAL p, .ro, []⟩, ⟨BRD_TRELLIS_OPENED p, .ro, []⟩, ⟨BRD_TRELLIS_OVERRIDE p, .ro, []⟩, ⟨BRD_TRELLIS_TGEN p, .ro, []⟩]⟩]

def rowsCTM0 : List RegRow := [
  ⟨0x60000, [], fun _ => [⟨CTM_CTL_ORIGIN_EN, .rw, []⟩, ⟨CTM_CTL_PTP_WAIT, .rw, []⟩, ⟨CTM_CTL_LOAD, .wo, []⟩, ⟨CTM_CTL_RESYNC, .wo, []⟩]⟩,
  ⟨0x60004, [], fun _ => [⟨CTM_STAT_STATE, .ro, []⟩, ⟨CTM_STAT_VALID, .ro, []⟩, ⟨CTM_STAT_IS_ORIGIN, .ro, []⟩, ⟨CTM_STAT_ORIGIN_B, .ro, []⟩, ⟨CTM_STAT_ALIGNED, .ro, []⟩, ⟨CTM_STAT_EPOCH, .ro, []⟩]⟩,
  ⟨0x60040, [], fun _ => [⟨CTM_PARENT_PORT, .ro, []⟩, ⟨CTM_PARENT_NONE, .ro, []⟩, ⟨CTM_PARENT_ORIGIN_POS, .ro, []⟩, ⟨CTM_PARENT_HOPS, .ro, []⟩]⟩,
  ⟨0x60008, [], fun _ => [⟨CTM_EVT_LOCKED, .w1c, []⟩, ⟨CTM_EVT_HOLDOVER, .w1c, []⟩, ⟨CTM_EVT_LOST, .w1c, []⟩, ⟨CTM_EVT_PARENT_CHG, .w1c, []⟩, ⟨CTM_EVT_ORIGIN_CHG, .w1c, []⟩, ⟨CTM_EVT_SLEW, .w1c, []⟩, ⟨CTM_EVT_STEP, .w1c, []⟩]⟩,
  ⟨0x6000c, [], fun _ => [⟨CTM_IRQ_EN_LOCKED, .rw, []⟩, ⟨CTM_IRQ_EN_HOLDOVER, .rw, []⟩, ⟨CTM_IRQ_EN_LOST, .rw, []⟩, ⟨CTM_IRQ_EN_PARENT_CHG, .rw, []⟩, ⟨CTM_IRQ_EN_ORIGIN_CHG, .rw, []⟩, ⟨CTM_IRQ_EN_SLEW, .rw, []⟩, ⟨CTM_IRQ_EN_STEP, .rw, []⟩]⟩,
  ⟨0x60010, [], fun _ => [⟨CTM_NOW_LO_NS, .ro, []⟩]⟩,
  ⟨0x60014, [], fun _ => [⟨CTM_NOW_HI_NS, .ro, []⟩]⟩,
  ⟨0x60018, [], fun _ => [⟨CTM_NOW_FRAC_FRAC, .ro, []⟩]⟩,
  ⟨0x60020, [], fun _ => [⟨CTM_SET_LO_NS, .rw, []⟩]⟩,
  ⟨0x60024, [], fun _ => [⟨CTM_SET_HI_NS, .rw, []⟩]⟩,
  ⟨0x60028, [], fun _ => [⟨CTM_SET_FRAC_FRAC, .rw, []⟩]⟩,
  ⟨0x60030, [], fun _ => [⟨CTM_ADJ_FREQ_FREQ, .rw, []⟩]⟩]

def rowsCTM1 : List RegRow := [
  ⟨0x60034, [], fun _ => [⟨CTM_ADJ_PHASE_PHASE, .wo, []⟩]⟩,
  ⟨0x60044, [], fun _ => [⟨CTM_OFFSET_E, .ro, []⟩]⟩,
  ⟨0x60050, [(0x4, 4)], fun ix => let p := ix.getD 0 0; [⟨CTM_DELAY_D p, .ro, []⟩, ⟨CTM_DELAY_D_VALID p, .ro, []⟩]⟩,
  ⟨0x60060, [(0x4, 4)], fun ix => let p := ix.getD 0 0; [⟨CTM_ASYM_ASYM p, .rw, []⟩]⟩,
  ⟨0x60070, [], fun _ => [⟨CTM_LOST_CNT, .rw, []⟩]⟩,
  ⟨0x60074, [], fun _ => [⟨CTM_HOLDOVER_CNT, .rw, []⟩]⟩,
  ⟨0x60038, [], fun _ => [⟨CTM_TIMERS_BEACON_INT, .rw, [(2, 64)]⟩, ⟨CTM_TIMERS_LOSS_TMO, .rw, [(4, 255)]⟩, ⟨CTM_TIMERS_HOLDOVER_LIM, .rw, [(10, 1000)]⟩]⟩,
  ⟨0x6003c, [], fun _ => [⟨CTM_SERVO_KP_SHIFT, .rw, [(0, 10)]⟩, ⟨CTM_SERVO_KI_SHIFT, .rw, [(2, 15)]⟩, ⟨CTM_SERVO_SLEW_MAX, .rw, [(1, 1000)]⟩, ⟨CTM_SERVO_LOCK_THR, .rw, [(1, 255)]⟩]⟩,
  ⟨0x60078, [], fun _ => [⟨CTM_ORIGIN_WAIT_ORIGIN_WAIT, .rw, [(1, 65535)]⟩]⟩]

def rowsSWX0 : List RegRow := [
  ⟨0x70000, [], fun _ => [⟨SWX_CTL_CT_GLOBAL_EN, .rw, []⟩, ⟨SWX_CTL_LOOSE_DROP, .rw, []⟩, ⟨SWX_CTL_SCRUB_EN, .rw, []⟩]⟩,
  ⟨0x70004, [], fun _ => [⟨SWX_STAT_SHARED_FREE, .ro, []⟩, ⟨SWX_STAT_FLUSH_BUSY, .ro, []⟩, ⟨SWX_STAT_OVERDRAWN, .ro, []⟩]⟩,
  ⟨0x70010, [], fun _ => [⟨SWX_CT_EN_EN, .rw, []⟩]⟩,
  ⟨0x70014, [], fun _ => [⟨SWX_KEEP_KEEP_FREE, .ro, []⟩]⟩,
  ⟨0x70018, [], fun _ => [⟨SWX_DESC_FREE_FREE, .ro, []⟩]⟩,
  ⟨0x7001c, [], fun _ => [⟨SWX_SCRUB_SCRUB_INT, .rw, [(1, 255)]⟩]⟩,
  ⟨0x70008, [], fun _ => [⟨SWX_EVT_POISON, .w1c, []⟩, ⟨SWX_EVT_ECC_CORR, .w1c, []⟩, ⟨SWX_EVT_ECC_UNCORR, .w1c, []⟩, ⟨SWX_EVT_FLUSH_DONE, .w1c, []⟩, ⟨SWX_EVT_MIR_DROP, .w1c, []⟩, ⟨SWX_EVT_CARVE_ERR, .w1c, []⟩, ⟨SWX_EVT_KEEP_ECC, .w1c, []⟩, ⟨SWX_EVT_HELD, .w1c, []⟩]⟩,
  ⟨0x7000c, [], fun _ => [⟨SWX_IRQ_EN_POISON, .rw, []⟩, ⟨SWX_IRQ_EN_ECC_CORR, .rw, []⟩, ⟨SWX_IRQ_EN_ECC_UNCORR, .rw, []⟩, ⟨SWX_IRQ_EN_FLUSH_DONE, .rw, []⟩, ⟨SWX_IRQ_EN_MIR_DROP, .rw, []⟩, ⟨SWX_IRQ_EN_CARVE_ERR, .rw, []⟩, ⟨SWX_IRQ_EN_KEEP_ECC, .rw, []⟩, ⟨SWX_IRQ_EN_HELD, .rw, []⟩]⟩,
  ⟨0x70030, [], fun _ => [⟨SWX_MIR_CTL_EN, .rw, []⟩, ⟨SWX_MIR_CTL_FLOW_EN, .rw, []⟩]⟩,
  ⟨0x70034, [], fun _ => [⟨SWX_MIR_PORTS_ING, .rw, []⟩, ⟨SWX_MIR_PORTS_EGR, .rw, []⟩]⟩,
  ⟨0x70038, [], fun _ => [⟨SWX_MIR_DA_LO_DA, .rw, []⟩]⟩,
  ⟨0x7003c, [], fun _ => [⟨SWX_MIR_DA_HI_DA, .rw, []⟩]⟩]

def rowsSWX1 : List RegRow := [
  ⟨0x70040, [(0x8, 4)], fun ix => let f := ix.getD 0 0; [⟨SWX_MIR_FLOW_NODE f, .rw, []⟩, ⟨SWX_MIR_FLOW_TUN f, .rw, []⟩]⟩,
  ⟨0x70044, [(0x8, 4)], fun ix => let f := ix.getD 0 0; [⟨SWX_MIR_MASK_MASK f, .rw, []⟩]⟩,
  ⟨0x70400, [(0x4, 64)], fun ix => let g := ix.getD 0 0; [⟨SWX_MCG_LOCAL g, .rw, []⟩]⟩,
  ⟨0x70100, [(0x20, 16)], fun ix => let p := ix.getD 0 0; [⟨SWX_CARVE_RESERVE p, .rw, []⟩]⟩,
  ⟨0x70104, [(0x20, 16)], fun ix => let p := ix.getD 0 0; [⟨SWX_LIMIT_SHARED_MAX p, .rw, []⟩, ⟨SWX_LIMIT_CTL_RES p, .rw, []⟩]⟩,
  ⟨0x70108, [(0x20, 16)], fun ix => let p := ix.getD 0 0; [⟨SWX_OCC_OCC p, .ro, []⟩, ⟨SWX_OCC_FULL p, .ro, []⟩]⟩,
  ⟨0x7010c, [(0x20, 16)], fun ix => let p := ix.getD 0 0; [⟨SWX_SHR_SHARED p, .ro, []⟩]⟩,
  ⟨0x70110, [(0x20, 16)], fun ix => let p := ix.getD 0 0; [⟨SWX_DROP p, .rw, []⟩]⟩,
  ⟨0x70114, [(0x20, 16)], fun ix => let p := ix.getD 0 0; [⟨SWX_CT_CNT p, .rw, []⟩]⟩,
  ⟨0x70020, [], fun _ => [⟨SWX_ECC_CORR, .rw, []⟩]⟩,
  ⟨0x70024, [], fun _ => [⟨SWX_ECC_UNCORR, .rw, []⟩]⟩,
  ⟨0x70028, [], fun _ => [⟨SWX_ECC_ADDR_BLOCK, .ro, []⟩, ⟨SWX_ECC_ADDR_WORD, .ro, []⟩]⟩]

def rowsSWX2 : List RegRow := [
  ⟨0x7002c, [], fun _ => [⟨SWX_POISON_CNT, .rw, []⟩]⟩,
  ⟨0x70060, [], fun _ => [⟨SWX_MIR_DROP, .rw, []⟩]⟩,
  ⟨0x70064, [], fun _ => [⟨SWX_FLUSH_STAT_PORT, .ro, []⟩, ⟨SWX_FLUSH_STAT_CELLS, .ro, []⟩]⟩,
  ⟨0x70068, [], fun _ => [⟨SWX_FLUSH_TRANSIT, .rw, []⟩]⟩,
  ⟨0x7006c, [], fun _ => [⟨SWX_MCAST_KEPT, .rw, []⟩]⟩]

def rowsSCH0 : List RegRow := [
  ⟨0x80000, [], fun _ => [⟨SCH_CTL_ALLOT_EN, .rw, []⟩]⟩,
  ⟨0x80004, [], fun _ => [⟨SCH_STAT_STAGED, .ro, []⟩, ⟨SCH_STAT_PEND_EPOCHS, .ro, []⟩]⟩,
  ⟨0x80008, [], fun _ => [⟨SCH_EVT_EPOCH_APPLIED, .w1c, []⟩, ⟨SCH_EVT_STAGE_REFUSED, .w1c, []⟩, ⟨SCH_EVT_GATE_SWITCH, .w1c, []⟩, ⟨SCH_EVT_GATE_ERR, .w1c, []⟩, ⟨SCH_EVT_POLICE_DROP, .w1c, []⟩]⟩,
  ⟨0x8000c, [], fun _ => [⟨SCH_IRQ_EN_EPOCH_APPLIED, .rw, []⟩, ⟨SCH_IRQ_EN_STAGE_REFUSED, .rw, []⟩, ⟨SCH_IRQ_EN_GATE_SWITCH, .rw, []⟩, ⟨SCH_IRQ_EN_GATE_ERR, .rw, []⟩, ⟨SCH_IRQ_EN_POLICE_DROP, .rw, []⟩]⟩,
  ⟨0x80010, [], fun _ => [⟨SCH_ALLOT_TMR_ALLOT_LEAD, .rw, [(30, 1000)]⟩, ⟨SCH_ALLOT_TMR_ALLOT_GUARD, .rw, [(20, 1000)]⟩]⟩,
  ⟨0x80018, [], fun _ => [⟨SCH_EPOCH_LO_EPOCH, .ro, []⟩]⟩,
  ⟨0x8001c, [], fun _ => [⟨SCH_EPOCH_HI_EPOCH, .ro, []⟩]⟩,
  ⟨0x80020, [], fun _ => [⟨SCH_ALLOT_CNT, .rw, []⟩]⟩,
  ⟨0x80024, [], fun _ => [⟨SCH_TCVC_VC_0, .ro, []⟩, ⟨SCH_TCVC_VC_1, .ro, []⟩, ⟨SCH_TCVC_VC_2, .ro, []⟩, ⟨SCH_TCVC_VC_3, .ro, []⟩, ⟨SCH_TCVC_VC_4, .ro, []⟩, ⟨SCH_TCVC_VC_5, .ro, []⟩, ⟨SCH_TCVC_VC_6, .ro, []⟩, ⟨SCH_TCVC_VC_7, .ro, []⟩]⟩,
  ⟨0x88000, [(0x800, 16)], fun ix => let p := ix.getD 0 0; [⟨SCH_GATE_CTL_LEN_0 p, .rw, [(1, 64)]⟩, ⟨SCH_GATE_CTL_LEN_1 p, .rw, [(1, 64)]⟩, ⟨SCH_GATE_CTL_ACT_BANK p, .ro, []⟩, ⟨SCH_GATE_CTL_ARM p, .wo, []⟩, ⟨SCH_GATE_CTL_PEND p, .ro, []⟩]⟩,
  ⟨0x88010, [(0x800, 16), (0x4, 2)], fun ix => let p := ix.getD 0 0; let b := ix.getD 1 0; [⟨SCH_GATE_CYCLE_CYCLE p b, .rw, [(1000, 1000000000)]⟩]⟩,
  ⟨0x88020, [(0x800, 16), (0x8, 2)], fun ix => let p := ix.getD 0 0; let b := ix.getD 1 0; [⟨SCH_GATE_BASE_LO_BASE p b, .rw, []⟩]⟩]

def rowsSCH1 : List RegRow := [
  ⟨0x88024, [(0x800, 16), (0x8, 2)], fun ix => let p := ix.getD 0 0; let b := ix.getD 1 0; [⟨SCH_GATE_BASE_HI_BASE p b, .rw, []⟩]⟩,
  ⟨0x88030, [(0x800, 16)], fun ix => let p := ix.getD 0 0; [⟨SCH_GATE_CHG_LO_CHG p, .rw, []⟩]⟩,
  ⟨0x88034, [(0x800, 16)], fun ix => let p := ix.getD 0 0; [⟨SCH_GATE_CHG_HI_CHG p, .rw, []⟩]⟩,
  ⟨0x88038, [(0x800, 16)], fun ix => let p := ix.getD 0 0; [⟨SCH_GATE_STAT_ENTRY p, .ro, []⟩, ⟨SCH_GATE_STAT_OPEN p, .ro, []⟩]⟩,
  ⟨0x88400, [(0x800, 16), (0x200, 2), (0x8, 64)], fun ix => let p := ix.getD 0 0; let b := ix.getD 1 0; let e := ix.getD 2 0; [⟨SCH_GCL_OPEN_OPEN p b e, .rw, []⟩]⟩,
  ⟨0x88404, [(0x800, 16), (0x200, 2), (0x8, 64)], fun ix => let p := ix.getD 0 0; let b := ix.getD 1 0; let e := ix.getD 2 0; [⟨SCH_GCL_DUR_DURATION p b e, .rw, [(1, 1000000000)]⟩]⟩,
  ⟨0x88100, [(0x800, 16), (0x4, 64)], fun ix => let p := ix.getD 0 0; let q := ix.getD 1 0; [⟨SCH_QCFG_QUANTUM p q, .rw, [(1, 65535)]⟩, ⟨SCH_QCFG_BURST p q, .rw, []⟩]⟩,
  ⟨0x88200, [(0x800, 16), (0x4, 64)], fun ix => let p := ix.getD 0 0; let q := ix.getD 1 0; [⟨SCH_QRATE_RATE p q, .rw, []⟩]⟩,
  ⟨0x88300, [(0x800, 16), (0x4, 64)], fun ix => let p := ix.getD 0 0; let q := ix.getD 1 0; [⟨SCH_QSTAT_CREDIT p q, .ro, []⟩]⟩,
  ⟨0x82000, [(0x8, 1024)], fun ix => let t := ix.getD 0 0; [⟨SCH_POL_RATE_RATE t, .rw, []⟩]⟩,
  ⟨0x82004, [(0x8, 1024)], fun ix => let t := ix.getD 0 0; [⟨SCH_POL_BURST_BURST t, .rw, []⟩]⟩,
  ⟨0x84000, [(0x8, 1024)], fun ix => let t := ix.getD 0 0; [⟨SCH_POL_CREDIT_CREDIT t, .ro, []⟩]⟩]

def rowsSCH2 : List RegRow := [
  ⟨0x84004, [(0x8, 1024)], fun ix => let t := ix.getD 0 0; [⟨SCH_POL_DROP t, .rw, []⟩]⟩]

def rowsTUN0 : List RegRow := [
  ⟨0x90004, [], fun _ => [⟨TUN_STAT_OPEN, .ro, []⟩, ⟨TUN_STAT_BROKEN, .ro, []⟩, ⟨TUN_STAT_PEERS, .ro, []⟩]⟩,
  ⟨0x90008, [], fun _ => [⟨TUN_EVT_BREAK, .w1c, []⟩, ⟨TUN_EVT_GAP, .w1c, []⟩, ⟨TUN_EVT_RESEND_TX, .w1c, []⟩, ⟨TUN_EVT_RESEND_RX, .w1c, []⟩, ⟨TUN_EVT_KEEP_TMO, .w1c, []⟩, ⟨TUN_EVT_EARLY_DROP, .w1c, []⟩, ⟨TUN_EVT_LATE, .w1c, []⟩, ⟨TUN_EVT_UNKNOWN, .w1c, []⟩, ⟨TUN_EVT_PEER_FULL, .w1c, []⟩, ⟨TUN_EVT_BAD, .w1c, []⟩, ⟨TUN_EVT_FLUSH_KEPT, .w1c, []⟩]⟩,
  ⟨0x9000c, [], fun _ => [⟨TUN_IRQ_EN_BREAK, .rw, []⟩, ⟨TUN_IRQ_EN_GAP, .rw, []⟩, ⟨TUN_IRQ_EN_RESEND_TX, .rw, []⟩, ⟨TUN_IRQ_EN_RESEND_RX, .rw, []⟩, ⟨TUN_IRQ_EN_KEEP_TMO, .rw, []⟩, ⟨TUN_IRQ_EN_EARLY_DROP, .rw, []⟩, ⟨TUN_IRQ_EN_LATE, .rw, []⟩, ⟨TUN_IRQ_EN_UNKNOWN, .rw, []⟩, ⟨TUN_IRQ_EN_PEER_FULL, .rw, []⟩, ⟨TUN_IRQ_EN_BAD, .rw, []⟩, ⟨TUN_IRQ_EN_FLUSH_KEPT, .rw, []⟩]⟩,
  ⟨0x90030, [], fun _ => [⟨TUN_BREAK_LOG_TUN, .ro, []⟩, ⟨TUN_BREAK_LOG_REASON, .ro, []⟩, ⟨TUN_BREAK_LOG_ROLE, .ro, []⟩, ⟨TUN_BREAK_LOG_LAST, .ro, []⟩]⟩,
  ⟨0x90010, [], fun _ => [⟨TUN_TMR_A_ACK_INT, .rw, [(1, 1000)]⟩, ⟨TUN_TMR_A_HOLE_TMO, .rw, [(1, 1000)]⟩]⟩,
  ⟨0x90014, [], fun _ => [⟨TUN_TMR_B_KEEP_TMO, .rw, [(1, 1000)]⟩, ⟨TUN_TMR_B_LOOSE_HOLD, .rw, [(1, 1000)]⟩]⟩,
  ⟨0x90018, [], fun _ => [⟨TUN_LIMITS_ACK_EVERY, .rw, [(1, 1024)]⟩, ⟨TUN_LIMITS_RESEND_LIM, .rw, [(1, 255)]⟩, ⟨TUN_LIMITS_PEER_IDLE, .rw, [(1, 255)]⟩]⟩,
  ⟨0x9001c, [], fun _ => [⟨TUN_WINDOWS_KEEP_WIN, .rw, [(64, 8192)]⟩, ⟨TUN_WINDOWS_RESEQ_DEPTH, .rw, [(0, 8192)]⟩]⟩,
  ⟨0x91000, [(0x20, 1024)], fun ix => let t := ix.getD 0 0; [⟨TUN_CFG_STATE t, .ro, []⟩, ⟨TUN_CFG_ROLE t, .ro, []⟩, ⟨TUN_CFG_KEPT t, .ro, []⟩, ⟨TUN_CFG_TC t, .ro, []⟩, ⟨TUN_CFG_RING t, .ro, []⟩]⟩,
  ⟨0x91004, [(0x20, 1024)], fun ix => let t := ix.getD 0 0; [⟨TUN_PEER_NODE t, .ro, []⟩, ⟨TUN_PEER_PTUN t, .ro, []⟩]⟩,
  ⟨0x91008, [(0x20, 1024)], fun ix => let t := ix.getD 0 0; [⟨TUN_SEQ_NEXT t, .ro, []⟩, ⟨TUN_SEQ_OLDEST t, .ro, []⟩]⟩,
  ⟨0x9100c, [(0x20, 1024)], fun ix => let t := ix.getD 0 0; [⟨TUN_HOLD_HELD t, .ro, []⟩, ⟨TUN_HOLD_HOLE t, .ro, []⟩]⟩]

def rowsTUN1 : List RegRow := [
  ⟨0x91010, [(0x20, 1024)], fun ix => let t := ix.getD 0 0; [⟨TUN_GAP t, .rw, []⟩]⟩,
  ⟨0x91014, [(0x20, 1024)], fun ix => let t := ix.getD 0 0; [⟨TUN_DUP t, .rw, []⟩]⟩,
  ⟨0x91018, [(0x20, 1024)], fun ix => let t := ix.getD 0 0; [⟨TUN_RESENT t, .rw, []⟩]⟩,
  ⟨0x90800, [(0x10, 64)], fun ix => let k := ix.getD 0 0; [⟨TUN_PEER0_A_NODE k, .ro, []⟩, ⟨TUN_PEER0_A_VALID k, .ro, []⟩]⟩,
  ⟨0x90804, [(0x10, 64)], fun ix => let k := ix.getD 0 0; [⟨TUN_PEER0_B_NEXT k, .ro, []⟩, ⟨TUN_PEER0_B_OLDEST k, .ro, []⟩]⟩,
  ⟨0x90808, [(0x10, 64)], fun ix => let k := ix.getD 0 0; [⟨TUN_PEER0_C_EXPECT k, .ro, []⟩]⟩,
  ⟨0x90034, [], fun _ => [⟨TUN_BREAK_CNT, .rw, []⟩]⟩,
  ⟨0x90038, [], fun _ => [⟨TUN_UNKNOWN_CNT, .rw, []⟩]⟩,
  ⟨0x9003c, [], fun _ => [⟨TUN_EARLY_DROP, .rw, []⟩]⟩,
  ⟨0x90040, [], fun _ => [⟨TUN_LATE_DROP, .rw, []⟩]⟩,
  ⟨0x90044, [], fun _ => [⟨TUN_BAD_CNT, .rw, []⟩]⟩,
  ⟨0x90048, [], fun _ => [⟨TUN_FLUSH_LOOSE, .rw, []⟩]⟩]

def rowsBCH0 : List RegRow := [
  ⟨0xa0000, [(0x1000, 16)], fun ix => let b := ix.getD 0 0; [⟨BCH_CTL_START b, .w1s, []⟩, ⟨BCH_CTL_HALT b, .w1s, []⟩, ⟨BCH_CTL_SWAP b, .wo, []⟩]⟩,
  ⟨0xa0004, [(0x1000, 16)], fun ix => let b := ix.getD 0 0; [⟨BCH_STAT_STATE b, .ro, []⟩, ⟨BCH_STAT_ACT_BANK b, .ro, []⟩, ⟨BCH_STAT_SPARE b, .ro, []⟩]⟩,
  ⟨0xa0008, [(0x1000, 16)], fun ix => let b := ix.getD 0 0; [⟨BCH_EVT_TRAP b, .w1c, []⟩, ⟨BCH_EVT_DOUBLE_TRAP b, .w1c, []⟩, ⟨BCH_EVT_WDOG_BITE b, .w1c, []⟩, ⟨BCH_EVT_HALTED b, .w1c, []⟩, ⟨BCH_EVT_ECC_CORR b, .w1c, []⟩, ⟨BCH_EVT_ECC_UNCORR b, .w1c, []⟩]⟩,
  ⟨0xa000c, [(0x1000, 16)], fun ix => let b := ix.getD 0 0; [⟨BCH_IRQ_EN_TRAP b, .rw, []⟩, ⟨BCH_IRQ_EN_DOUBLE_TRAP b, .rw, []⟩, ⟨BCH_IRQ_EN_WDOG_BITE b, .rw, []⟩, ⟨BCH_IRQ_EN_HALTED b, .rw, []⟩, ⟨BCH_IRQ_EN_ECC_CORR b, .rw, []⟩, ⟨BCH_IRQ_EN_ECC_UNCORR b, .rw, []⟩]⟩,
  ⟨0xa0010, [(0x1000, 16)], fun ix => let b := ix.getD 0 0; [⟨BCH_WDOG_PERIOD b, .rw, []⟩]⟩,
  ⟨0xa0020, [(0x1000, 16)], fun ix => let b := ix.getD 0 0; [⟨BCH_ILOAD_ADDR_ADDR b, .rw, []⟩]⟩,
  ⟨0xa0024, [(0x1000, 16)], fun ix => let b := ix.getD 0 0; [⟨BCH_ILOAD_DATA b, .wo, []⟩]⟩,
  ⟨0xa0028, [(0x1000, 16)], fun ix => let b := ix.getD 0 0; [⟨BCH_DLOAD_ADDR_ADDR b, .rw, []⟩]⟩,
  ⟨0xa002c, [(0x1000, 16)], fun ix => let b := ix.getD 0 0; [⟨BCH_DLOAD_DATA b, .rw, []⟩]⟩,
  ⟨0xa0030, [(0x1000, 16)], fun ix => let b := ix.getD 0 0; [⟨BCH_CREG_OWNER b, .rw, []⟩, ⟨BCH_CREG_VALID b, .rw, []⟩]⟩,
  ⟨0xa0040, [(0x1000, 16)], fun ix => let b := ix.getD 0 0; [⟨BCH_ECC_CORR b, .rw, []⟩]⟩,
  ⟨0xa0044, [(0x1000, 16)], fun ix => let b := ix.getD 0 0; [⟨BCH_ECC_UNCORR b, .rw, []⟩]⟩]

def rowsBCH1 : List RegRow := [
  ⟨0xa0048, [(0x1000, 16)], fun ix => let b := ix.getD 0 0; [⟨BCH_ECC_ADDR_ADDR b, .ro, []⟩]⟩,
  ⟨0xa0050, [(0x1000, 16)], fun ix => let b := ix.getD 0 0; [⟨BCH_FOWN_OWNER b, .rwl, []⟩]⟩,
  ⟨0xa0054, [(0x1000, 16)], fun ix => let b := ix.getD 0 0; [⟨BCH_SCRUB_SCRUB_INT b, .rw, [(1, 255)]⟩]⟩,
  ⟨0xa0100, [(0x1000, 16), (0x10, 4)], fun ix => let b := ix.getD 0 0; let h := ix.getD 1 0; [⟨BCH_ENTRY_ENTRY b h, .rw, []⟩]⟩,
  ⟨0xa0104, [(0x1000, 16), (0x10, 4)], fun ix => let b := ix.getD 0 0; let h := ix.getD 1 0; [⟨BCH_HAND_PC_PC b h, .ro, []⟩]⟩,
  ⟨0xa0108, [(0x1000, 16), (0x10, 4)], fun ix => let b := ix.getD 0 0; let h := ix.getD 1 0; [⟨BCH_HAND_CAUSE_CAUSE b h, .ro, []⟩, ⟨BCH_HAND_CAUSE_DOUBLE b h, .ro, []⟩, ⟨BCH_HAND_CAUSE_EPC b h, .ro, []⟩]⟩,
  ⟨0xa0800, [(0x4, 64)], fun ix => let r := ix.getD 0 0; [⟨BCH_RING_BENCH r, .rw, []⟩, ⟨BCH_RING_HAND r, .rw, []⟩, ⟨BCH_RING_PORT r, .rw, [(4, 11)]⟩, ⟨BCH_RING_TAKE_DEPTH r, .rw, [(1, 64)]⟩, ⟨BCH_RING_GIVE_DEPTH r, .rw, [(1, 64)]⟩, ⟨BCH_RING_FROZEN r, .rw, []⟩, ⟨BCH_RING_VALID r, .rw, []⟩]⟩,
  ⟨0xa0900, [], fun _ => [⟨BCH_SPARE_BENCH, .rwl, [(0, 15), (31, 31)]⟩]⟩,
  ⟨0xa0904, [], fun _ => [⟨BCH_TAG_STAT_FREE, .ro, []⟩]⟩,
  ⟨0xa0908, [], fun _ => [⟨BCH_TAG_TMO_TMO, .rw, [(1, 10000)]⟩]⟩,
  ⟨0xa090c, [], fun _ => [⟨BCH_TAG_LATE, .rw, []⟩]⟩,
  ⟨0xa0910, [], fun _ => [⟨BCH_TAG_QUOTA_QUOTA, .rw, [(1, 1920)]⟩]⟩]

def rowsBCH2 : List RegRow := [
  ⟨0xa0914, [], fun _ => [⟨BCH_PORTER_STAT_CAUSE, .ro, []⟩, ⟨BCH_PORTER_STAT_RESTARTS, .ro, []⟩]⟩,
  ⟨0xa0918, [], fun _ => [⟨BCH_STEWARD_STAT_CAUSE, .ro, []⟩, ⟨BCH_STEWARD_STAT_HALTED, .ro, []⟩]⟩]

def rowsBRG0 : List RegRow := [
  ⟨0xb0000, [], fun _ => [⟨BRG_CTL_PF_LIFE, .rw, [(1, 255)]⟩]⟩,
  ⟨0xb0004, [], fun _ => [⟨BRG_STAT_BUSY, .ro, []⟩, ⟨BRG_STAT_LOCKED, .ro, []⟩, ⟨BRG_STAT_I2C_STUCK, .ro, []⟩]⟩,
  ⟨0xb0008, [], fun _ => [⟨BRG_EVT_FAR_ERR, .w1c, []⟩, ⟨BRG_EVT_DISCARD, .w1c, []⟩, ⟨BRG_EVT_DLOG_OVR, .w1c, []⟩, ⟨BRG_EVT_LOCK_BITE, .w1c, []⟩, ⟨BRG_EVT_CFG_ERR, .w1c, []⟩, ⟨BRG_EVT_I2C_STUCK, .w1c, []⟩]⟩,
  ⟨0xb000c, [], fun _ => [⟨BRG_IRQ_EN_FAR_ERR, .rw, []⟩, ⟨BRG_IRQ_EN_DISCARD, .rw, []⟩, ⟨BRG_IRQ_EN_DLOG_OVR, .rw, []⟩, ⟨BRG_IRQ_EN_LOCK_BITE, .rw, []⟩, ⟨BRG_IRQ_EN_CFG_ERR, .rw, []⟩, ⟨BRG_IRQ_EN_I2C_STUCK, .rw, []⟩]⟩,
  ⟨0xb0010, [], fun _ => [⟨BRG_LOCK_WDOG_LOCK_WDOG, .rw, [(1, 1000)]⟩]⟩,
  ⟨0xb0014, [], fun _ => [⟨BRG_FAR_LOG_ADDR_ADDR, .ro, []⟩]⟩,
  ⟨0xb0018, [], fun _ => [⟨BRG_FAR_LOG_INFO_CODE, .ro, []⟩, ⟨BRG_FAR_LOG_INFO_REQ, .ro, []⟩, ⟨BRG_FAR_LOG_INFO_HAND, .ro, []⟩, ⟨BRG_FAR_LOG_INFO_OPEN, .ro, []⟩]⟩,
  ⟨0xb001c, [], fun _ => [⟨BRG_FAR_CNT, .rw, []⟩]⟩,
  ⟨0xb0020, [], fun _ => [⟨BRG_ARB_LOSS, .rw, []⟩]⟩,
  ⟨0xb0028, [], fun _ => [⟨BRG_DLOG_OVR, .rw, []⟩]⟩,
  ⟨0xb0024, [], fun _ => [⟨BRG_DLOG_STAT_HEAD, .ro, []⟩, ⟨BRG_DLOG_STAT_WRAPPED, .ro, []⟩]⟩,
  ⟨0xb0040, [(0x4, 5)], fun ix => let k := ix.getD 0 0; [⟨BRG_LOCK_OWNER_REQ k, .ro, []⟩, ⟨BRG_LOCK_OWNER_HAND k, .ro, []⟩, ⟨BRG_LOCK_OWNER_HELD k, .ro, []⟩]⟩]

def rowsBRG1 : List RegRow := [
  ⟨0xb0400, [(0x10, 64)], fun ix => let n := ix.getD 0 0; [⟨BRG_WIN_CFG_EN n, .rw, []⟩, ⟨BRG_WIN_CFG_KIND n, .rw, [(0, 4)]⟩, ⟨BRG_WIN_CFG_POSTED n, .rw, []⟩, ⟨BRG_WIN_CFG_PREFETCH n, .rw, []⟩, ⟨BRG_WIN_CFG_LOCKABLE n, .rw, []⟩, ⟨BRG_WIN_CFG_BUS n, .rw, []⟩, ⟨BRG_WIN_CFG_SIZE n, .rw, [(12, 26)]⟩]⟩,
  ⟨0xb0404, [(0x10, 64)], fun ix => let n := ix.getD 0 0; [⟨BRG_WIN_BASE_LO_BASE n, .rw, []⟩]⟩,
  ⟨0xb0408, [(0x10, 64)], fun ix => let n := ix.getD 0 0; [⟨BRG_WIN_BASE_HI_BASE n, .rw, []⟩]⟩,
  ⟨0xb040c, [(0x10, 64)], fun ix => let n := ix.getD 0 0; [⟨BRG_WIN_ACC_ACC n, .rw, []⟩]⟩,
  ⟨0xb1000, [(0x10, 256)], fun ix => let e := ix.getD 0 0; [⟨BRG_DLOG_ADDR_ADDR e, .ro, []⟩]⟩,
  ⟨0xb1004, [(0x10, 256)], fun ix => let e := ix.getD 0 0; [⟨BRG_DLOG_T_LO_T_LO e, .ro, []⟩]⟩,
  ⟨0xb1008, [(0x10, 256)], fun ix => let e := ix.getD 0 0; [⟨BRG_DLOG_T_HI_T_HI e, .ro, []⟩]⟩,
  ⟨0xb100c, [(0x10, 256)], fun ix => let e := ix.getD 0 0; [⟨BRG_DLOG_INFO_UNREAD e, .ro, []⟩, ⟨BRG_DLOG_INFO_CAUSE e, .ro, []⟩]⟩]

def rowsGLB0 : List RegRow := [
  ⟨0x0, [], fun _ => [⟨GLB_ID_PART, .ro, []⟩, ⟨GLB_ID_STEP, .ro, []⟩]⟩,
  ⟨0x4, [], fun _ => [⟨GLB_LIKENESS_CLASS, .ro, []⟩]⟩,
  ⟨0x10, [(0x4, 4)], fun ix => let k := ix.getD 0 0; [⟨GLB_UID_UID k, .ro, []⟩]⟩,
  ⟨0x20, [], fun _ => [⟨GLB_STANCE_STANCE, .ro, []⟩]⟩,
  ⟨0x24, [], fun _ => [⟨GLB_RCSR_RD_EN, .rw, []⟩, ⟨GLB_RCSR_WR_ANY, .rw, []⟩]⟩,
  ⟨0x28, [], fun _ => [⟨GLB_HB_HB_TMO, .rw, [(0, 0), (10, 6000)]⟩, ⟨GLB_HB_LOST, .ro, []⟩]⟩,
  ⟨0x30, [], fun _ => [⟨GLB_SCRATCH_DATA, .rw, []⟩]⟩]

def rowsMBX0 : List RegRow := [
  ⟨0x160000, [], fun _ => [⟨MBX_CTL_EN, .rw, []⟩, ⟨MBX_CTL_PUSH, .rw, []⟩]⟩,
  ⟨0x160004, [], fun _ => [⟨MBX_STAT_OUT_s, .ro, []⟩]⟩,
  ⟨0x160008, [], fun _ => [⟨MBX_EVT_DOCKET, .w1c, []⟩, ⟨MBX_EVT_BUSY, .w1c, []⟩, ⟨MBX_EVT_AUTH, .w1c, []⟩, ⟨MBX_EVT_HB_LOST, .w1c, []⟩]⟩,
  ⟨0x16000c, [], fun _ => [⟨MBX_IRQ_EN_DOCKET, .rw, []⟩, ⟨MBX_IRQ_EN_BUSY, .rw, []⟩, ⟨MBX_IRQ_EN_AUTH, .rw, []⟩, ⟨MBX_IRQ_EN_HB_LOST, .rw, []⟩]⟩,
  ⟨0x160010, [], fun _ => [⟨MBX_SEL_SLOT, .rw, []⟩, ⟨MBX_SEL_SESSION, .rw, []⟩]⟩,
  ⟨0x160014, [], fun _ => [⟨MBX_ACK_SLOT, .wo, []⟩, ⟨MBX_ACK_SESSION, .wo, []⟩, ⟨MBX_ACK_GENERATION, .wo, []⟩]⟩,
  ⟨0x160020, [], fun _ => [⟨MBX_BUSY_CNT, .rw, []⟩]⟩,
  ⟨0x160024, [], fun _ => [⟨MBX_AUTH_DROP, .rw, []⟩]⟩,
  ⟨0x160028, [], fun _ => [⟨MBX_REPLAY_DROP, .rw, []⟩]⟩,
  ⟨0x16002c, [], fun _ => [⟨MBX_ACK_STALE, .rw, []⟩]⟩,
  ⟨0x160030, [], fun _ => [⟨MBX_SRC_DROP, .rw, []⟩]⟩,
  ⟨0x160400, [(0x4, 256)], fun ix => let w := ix.getD 0 0; [⟨MBX_DKT_DATA w, .ro, []⟩]⟩]

def rowsCLK0 : List RegRow := [
  ⟨0x10000, [], fun _ => [⟨CLK_CTL_AUTO_SWAP, .rw, []⟩, ⟨CLK_CTL_PCIE_REFCLK_EN, .rw, []⟩, ⟨CLK_CTL_NODE_RESET, .wo, []⟩]⟩,
  ⟨0x10004, [], fun _ => [⟨CLK_STAT_ROOT_ACT, .ro, []⟩, ⟨CLK_STAT_LOCK_A, .ro, []⟩, ⟨CLK_STAT_LOCK_B, .ro, []⟩, ⟨CLK_STAT_REF_OK, .ro, []⟩, ⟨CLK_STAT_ALIGNED, .ro, []⟩]⟩,
  ⟨0x10008, [], fun _ => [⟨CLK_EVT_REF_FAIL, .w1c, []⟩, ⟨CLK_EVT_LOCK_A_LOST, .w1c, []⟩, ⟨CLK_EVT_LOCK_B_LOST, .w1c, []⟩, ⟨CLK_EVT_FREQ_A, .w1c, []⟩, ⟨CLK_EVT_FREQ_B, .w1c, []⟩, ⟨CLK_EVT_SWAP, .w1c, []⟩, ⟨CLK_EVT_BOOT_FAIL, .w1c, []⟩]⟩,
  ⟨0x1000c, [], fun _ => [⟨CLK_IRQ_EN_REF_FAIL, .rw, []⟩, ⟨CLK_IRQ_EN_LOCK_A_LOST, .rw, []⟩, ⟨CLK_IRQ_EN_LOCK_B_LOST, .rw, []⟩, ⟨CLK_IRQ_EN_FREQ_A, .rw, []⟩, ⟨CLK_IRQ_EN_FREQ_B, .rw, []⟩, ⟨CLK_IRQ_EN_SWAP, .rw, []⟩, ⟨CLK_IRQ_EN_BOOT_FAIL, .rw, []⟩]⟩,
  ⟨0x10010, [], fun _ => [⟨CLK_RST_CAUSE_KIND, .ro, []⟩]⟩,
  ⟨0x10014, [], fun _ => [⟨CLK_BOOT_STEP, .ro, []⟩, ⟨CLK_BOOT_FAIL, .ro, []⟩, ⟨CLK_BOOT_SEEDED, .ro, []⟩, ⟨CLK_BOOT_NO_ROOTSTOCK, .ro, []⟩, ⟨CLK_BOOT_DEFAULT_BEQ, .ro, []⟩]⟩,
  ⟨0x10018, [], fun _ => [⟨CLK_BOOT_TMR_GATE_TMO, .rw, [(1, 255)]⟩, ⟨CLK_BOOT_TMR_SEED_TMO, .rw, [(1, 255)]⟩]⟩,
  ⟨0x1001c, [], fun _ => [⟨CLK_STRAP_ROWHEAD, .ro, []⟩, ⟨CLK_STRAP_BOOTMODE, .ro, []⟩]⟩,
  ⟨0x10020, [], fun _ => [⟨CLK_RESET_CNT, .rw, []⟩]⟩,
  ⟨0x10024, [], fun _ => [⟨CLK_SWAP_CNT, .rw, []⟩]⟩]

def rowsETH0 : List RegRow := [
  ⟨0xc0000, [(0x1000, 2)], fun ix => let p := ix.getD 0 0; [⟨ETH_CTL_EN p, .rw, []⟩, ⟨ETH_CTL_SPEED p, .rw, []⟩, ⟨ETH_CTL_FEC p, .rw, [(0, 2)]⟩, ⟨ETH_CTL_PROMISC p, .rw, []⟩, ⟨ETH_CTL_ALLMULTI p, .rw, []⟩, ⟨ETH_CTL_PAUSE_RX p, .rw, []⟩, ⟨ETH_CTL_PW_EN p, .rw, []⟩]⟩,
  ⟨0xc0004, [(0x1000, 2)], fun ix => let p := ix.getD 0 0; [⟨ETH_STAT_LINK p, .ro, []⟩, ⟨ETH_STAT_BLOCK_LOCK p, .ro, []⟩, ⟨ETH_STAT_FEC_LOCK p, .ro, []⟩, ⟨ETH_STAT_PAUSED p, .ro, []⟩]⟩,
  ⟨0xc0008, [(0x1000, 2)], fun ix => let p := ix.getD 0 0; [⟨ETH_EVT_LINK_UP p, .w1c, []⟩, ⟨ETH_EVT_LINK_DOWN p, .w1c, []⟩, ⟨ETH_EVT_RX_DROP p, .w1c, []⟩, ⟨ETH_EVT_TX_BAD p, .w1c, []⟩, ⟨ETH_EVT_TS_OVF p, .w1c, []⟩]⟩,
  ⟨0xc000c, [(0x1000, 2)], fun ix => let p := ix.getD 0 0; [⟨ETH_IRQ_EN_LINK_UP p, .rw, []⟩, ⟨ETH_IRQ_EN_LINK_DOWN p, .rw, []⟩, ⟨ETH_IRQ_EN_RX_DROP p, .rw, []⟩, ⟨ETH_IRQ_EN_TX_BAD p, .rw, []⟩, ⟨ETH_IRQ_EN_TS_OVF p, .rw, []⟩]⟩,
  ⟨0xc0010, [(0x1000, 2)], fun ix => let p := ix.getD 0 0; [⟨ETH_MAC_LO_ADDR p, .rw, []⟩]⟩,
  ⟨0xc0014, [(0x1000, 2)], fun ix => let p := ix.getD 0 0; [⟨ETH_MAC_HI_ADDR p, .rw, []⟩]⟩,
  ⟨0xc0018, [(0x1000, 2)], fun ix => let p := ix.getD 0 0; [⟨ETH_CFG_MAXF p, .rw, [(64, 9216)]⟩, ⟨ETH_CFG_RXRING p, .rw, []⟩, ⟨ETH_CFG_RXRING_EN p, .rw, []⟩, ⟨ETH_CFG_LINK_FILT p, .rw, [(1, 255)]⟩]⟩,
  ⟨0xc0020, [(0x1000, 2)], fun ix => let p := ix.getD 0 0; [⟨ETH_TSRX_INF_MSGTYPE p, .ro, []⟩, ⟨ETH_TSRX_INF_SEQID p, .ro, []⟩, ⟨ETH_TSRX_INF_FILL p, .ro, []⟩, ⟨ETH_TSRX_INF_VALID p, .ro, []⟩]⟩,
  ⟨0xc0024, [(0x1000, 2)], fun ix => let p := ix.getD 0 0; [⟨ETH_TSRX_LO_NS p, .ro, []⟩]⟩,
  ⟨0xc0028, [(0x1000, 2)], fun ix => let p := ix.getD 0 0; [⟨ETH_TSRX_HI_NS p, .ro, []⟩]⟩,
  ⟨0xc0030, [(0x1000, 2)], fun ix => let p := ix.getD 0 0; [⟨ETH_TSTX_INF_COOKIE p, .ro, []⟩, ⟨ETH_TSTX_INF_FILL p, .ro, []⟩, ⟨ETH_TSTX_INF_VALID p, .ro, []⟩]⟩,
  ⟨0xc0034, [(0x1000, 2)], fun ix => let p := ix.getD 0 0; [⟨ETH_TSTX_LO_NS p, .ro, []⟩]⟩]

def rowsETH1 : List RegRow := [
  ⟨0xc0038, [(0x1000, 2)], fun ix => let p := ix.getD 0 0; [⟨ETH_TSTX_HI_NS p, .ro, []⟩]⟩,
  ⟨0xc0040, [(0x1000, 2)], fun ix => let p := ix.getD 0 0; [⟨ETH_RX_OK p, .rw, []⟩]⟩,
  ⟨0xc0044, [(0x1000, 2)], fun ix => let p := ix.getD 0 0; [⟨ETH_RX_DROP p, .rw, []⟩]⟩,
  ⟨0xc0048, [(0x1000, 2)], fun ix => let p := ix.getD 0 0; [⟨ETH_RX_FCS p, .rw, []⟩]⟩,
  ⟨0xc004c, [(0x1000, 2)], fun ix => let p := ix.getD 0 0; [⟨ETH_TX_OK p, .rw, []⟩]⟩,
  ⟨0xc0050, [(0x1000, 2)], fun ix => let p := ix.getD 0 0; [⟨ETH_TX_BAD p, .rw, []⟩]⟩,
  ⟨0xc0054, [(0x1000, 2)], fun ix => let p := ix.getD 0 0; [⟨ETH_PAUSE p, .rw, []⟩]⟩,
  ⟨0xc0058, [(0x1000, 2)], fun ix => let p := ix.getD 0 0; [⟨ETH_TS_OVF p, .rw, []⟩]⟩,
  ⟨0xc4000, [(0x4, 1024)], fun ix => let t := ix.getD 0 0; [⟨ETH_PW_VID t, .rw, []⟩, ⟨ETH_PW_PCP t, .rw, []⟩, ⟨ETH_PW_EN t, .rw, []⟩, ⟨ETH_PW_RING t, .rw, []⟩]⟩]

def rowsPCI0 : List RegRow := [
  ⟨0xd0000, [], fun _ => [⟨PCI_CTL_EN, .rw, []⟩, ⟨PCI_CTL_PERST_REL, .rw, []⟩, ⟨PCI_CTL_TGT_GEN, .rw, []⟩, ⟨PCI_CTL_TGT_WIDTH, .rw, [(0, 2)]⟩, ⟨PCI_CTL_ASPM_L1, .rw, []⟩]⟩,
  ⟨0xd0004, [], fun _ => [⟨PCI_STAT_LINK, .ro, []⟩, ⟨PCI_STAT_GEN, .ro, []⟩, ⟨PCI_STAT_WIDTH, .ro, []⟩]⟩,
  ⟨0xd0008, [], fun _ => [⟨PCI_EVT_LINK_UP, .w1c, []⟩, ⟨PCI_EVT_LINK_DOWN, .w1c, []⟩, ⟨PCI_EVT_AER_CORR, .w1c, []⟩, ⟨PCI_EVT_AER_UNCORR, .w1c, []⟩, ⟨PCI_EVT_UR_INBOUND, .w1c, []⟩, ⟨PCI_EVT_SBUF_ERR, .w1c, []⟩, ⟨PCI_EVT_CPL_TMO, .w1c, []⟩]⟩,
  ⟨0xd000c, [], fun _ => [⟨PCI_IRQ_EN_LINK_UP, .rw, []⟩, ⟨PCI_IRQ_EN_LINK_DOWN, .rw, []⟩, ⟨PCI_IRQ_EN_AER_CORR, .rw, []⟩, ⟨PCI_IRQ_EN_AER_UNCORR, .rw, []⟩, ⟨PCI_IRQ_EN_UR_INBOUND, .rw, []⟩, ⟨PCI_IRQ_EN_SBUF_ERR, .rw, []⟩, ⟨PCI_IRQ_EN_CPL_TMO, .rw, []⟩]⟩,
  ⟨0xd0010, [], fun _ => [⟨PCI_CFG_ADDR_REG, .rw, []⟩, ⟨PCI_CFG_ADDR_SELF, .rw, []⟩]⟩,
  ⟨0xd0014, [], fun _ => [⟨PCI_CFG_DATA_DATA, .rw, []⟩]⟩,
  ⟨0xd0018, [], fun _ => [⟨PCI_SBUF_BASE_LO_BASE, .rw, []⟩]⟩,
  ⟨0xd001c, [], fun _ => [⟨PCI_SBUF_BASE_HI_BASE, .rw, []⟩]⟩,
  ⟨0xd0020, [], fun _ => [⟨PCI_CPL_TMO_TMO, .rw, [(5, 5000)]⟩]⟩,
  ⟨0xd0024, [], fun _ => [⟨PCI_BT_ALLOC_TAG, .ro, []⟩, ⟨PCI_BT_ALLOC_NONE, .ro, []⟩]⟩,
  ⟨0xd0028, [], fun _ => [⟨PCI_BT_QUOTA_QUOTA, .rw, [(1, 1920)]⟩]⟩,
  ⟨0xd002c, [], fun _ => [⟨PCI_BT_STAT_HELD, .ro, []⟩]⟩]

def rowsPCI1 : List RegRow := [
  ⟨0xd0030, [], fun _ => [⟨PCI_AER_CORR, .rw, []⟩]⟩,
  ⟨0xd0034, [], fun _ => [⟨PCI_AER_UNCORR, .rw, []⟩]⟩,
  ⟨0xd0038, [], fun _ => [⟨PCI_UR_CNT, .rw, []⟩]⟩,
  ⟨0xd003c, [], fun _ => [⟨PCI_CPL_TMO_CNT, .rw, []⟩]⟩,
  ⟨0xd0040, [(0x4, 16)], fun ix => let v := ix.getD 0 0; [⟨PCI_MSIX_RING_RING v, .rw, []⟩, ⟨PCI_MSIX_RING_EN v, .rw, []⟩]⟩,
  ⟨0xd2000, [(0x4, 2048)], fun ix => let t := ix.getD 0 0; [⟨PCI_BT_FREE_OPEN t, .ro, []⟩]⟩]

def rowsUSB0 : List RegRow := [
  ⟨0xe0000, [], fun _ => [⟨USB_HOST_CTL_EN, .rw, []⟩]⟩,
  ⟨0xe0004, [], fun _ => [⟨USB_FRAME_UFRAME, .ro, []⟩, ⟨USB_FRAME_FRAME, .ro, []⟩]⟩,
  ⟨0xe0008, [], fun _ => [⟨USB_EVT_CONNECT, .w1c, []⟩, ⟨USB_EVT_DISCONNECT, .w1c, []⟩, ⟨USB_EVT_UPWR_LOST, .w1c, []⟩, ⟨USB_EVT_PIPE_HALT, .w1c, []⟩, ⟨USB_EVT_BUDGET_ERR, .w1c, []⟩, ⟨USB_EVT_PORT_RESUME, .w1c, []⟩, ⟨USB_EVT_BUS_RESET, .w1c, []⟩, ⟨USB_EVT_SUSPEND, .w1c, []⟩, ⟨USB_EVT_RESUME, .w1c, []⟩, ⟨USB_EVT_WAKE_DONE, .w1c, []⟩, ⟨USB_EVT_SETUP_RX, .w1c, []⟩, ⟨USB_EVT_EP_DONE, .w1c, []⟩, ⟨USB_EVT_CARVE_ERR, .w1c, []⟩]⟩,
  ⟨0xe000c, [], fun _ => [⟨USB_IRQ_EN_CONNECT, .rw, []⟩, ⟨USB_IRQ_EN_DISCONNECT, .rw, []⟩, ⟨USB_IRQ_EN_UPWR_LOST, .rw, []⟩, ⟨USB_IRQ_EN_PIPE_HALT, .rw, []⟩, ⟨USB_IRQ_EN_BUDGET_ERR, .rw, []⟩, ⟨USB_IRQ_EN_PORT_RESUME, .rw, []⟩, ⟨USB_IRQ_EN_BUS_RESET, .rw, []⟩, ⟨USB_IRQ_EN_SUSPEND, .rw, []⟩, ⟨USB_IRQ_EN_RESUME, .rw, []⟩, ⟨USB_IRQ_EN_WAKE_DONE, .rw, []⟩, ⟨USB_IRQ_EN_SETUP_RX, .rw, []⟩, ⟨USB_IRQ_EN_EP_DONE, .rw, []⟩, ⟨USB_IRQ_EN_CARVE_ERR, .rw, []⟩]⟩,
  ⟨0xe0010, [], fun _ => [⟨USB_UFRAME_CNT, .ro, []⟩]⟩,
  ⟨0xe0024, [(0x4, 4)], fun ix => let k := ix.getD 0 0 + 1; [⟨USB_PORT_EN k, .ro, []⟩, ⟨USB_PORT_RESET k, .wo, []⟩, ⟨USB_PORT_SUSPEND k, .rw, []⟩, ⟨USB_PORT_CONNECTED k, .ro, []⟩, ⟨USB_PORT_SPEED k, .ro, []⟩]⟩,
  ⟨0xe0100, [(0x8, 32)], fun ix => let k := ix.getD 0 0; [⟨USB_PIPE_A_PORT k, .rw, [(1, 4)]⟩, ⟨USB_PIPE_A_ADDR k, .rw, []⟩, ⟨USB_PIPE_A_EP k, .rw, []⟩, ⟨USB_PIPE_A_DIR k, .rw, []⟩, ⟨USB_PIPE_A_TYPE k, .rw, [(0, 2)]⟩, ⟨USB_PIPE_A_MPS k, .rw, [(8, 1024)]⟩, ⟨USB_PIPE_A_TOGGLE k, .rw, []⟩, ⟨USB_PIPE_A_HALTED k, .w1c, []⟩, ⟨USB_PIPE_A_EN k, .rw, []⟩]⟩,
  ⟨0xe0104, [(0x8, 32)], fun ix => let k := ix.getD 0 0; [⟨USB_PIPE_B_RING k, .rw, []⟩, ⟨USB_PIPE_B_PERIOD_EXP k, .rw, []⟩, ⟨USB_PIPE_B_PHASE k, .rw, []⟩]⟩,
  ⟨0xe0200, [], fun _ => [⟨USB_DEV_CTL_EN, .rw, []⟩, ⟨USB_DEV_CTL_SILENT_EN, .rw, []⟩, ⟨USB_DEV_CTL_WAKE, .wo, []⟩, ⟨USB_DEV_CTL_CONFIGURED, .rw, []⟩, ⟨USB_DEV_CTL_RWAKE_EN, .rw, []⟩, ⟨USB_DEV_CTL_NEW_ADDR, .rw, []⟩, ⟨USB_DEV_CTL_ADDR_PEND, .rw, []⟩]⟩,
  ⟨0xe0204, [], fun _ => [⟨USB_DEV_STAT_ADDR, .ro, []⟩, ⟨USB_DEV_STAT_STATE, .ro, []⟩, ⟨USB_DEV_STAT_SUSPENDED, .ro, []⟩, ⟨USB_DEV_STAT_HS, .ro, []⟩]⟩,
  ⟨0xe0300, [(0x40, 2), (0x4, 16)], fun ix => let d := ix.getD 0 0; let e := ix.getD 1 0; [⟨USB_DEP_EN d e, .rw, []⟩, ⟨USB_DEP_READY d e, .rw, []⟩, ⟨USB_DEP_HALT d e, .rw, []⟩, ⟨USB_DEP_TOGGLE d e, .rw, []⟩, ⟨USB_DEP_TYPE d e, .rw, [(0, 2)]⟩, ⟨USB_DEP_MPS d e, .rw, [(8, 1024)]⟩, ⟨USB_DEP_LEN d e, .rw, []⟩, ⟨USB_DEP_SILENT d e, .ro, []⟩]⟩,
  ⟨0xe0380, [(0x40, 2), (0x4, 16)], fun ix => let d := ix.getD 0 0; let e := ix.getD 1 0; [⟨USB_CARVE_BASE d e, .rw, []⟩, ⟨USB_CARVE_UNITS d e, .rw, [(0, 16)]⟩]⟩]

def rowsUSB1 : List RegRow := [
  ⟨0xe8000, [(0x4, 8192)], fun ix => let w := ix.getD 0 0; [⟨USB_EPMEM_DATA w, .rw, []⟩]⟩,
  ⟨0xe0400, [], fun _ => [⟨USB_HOST_ERR, .rw, []⟩]⟩,
  ⟨0xe0404, [], fun _ => [⟨USB_CELL_BAD, .rw, []⟩]⟩,
  ⟨0xe0408, [], fun _ => [⟨USB_DEV_SILENT, .rw, []⟩]⟩,
  ⟨0xe040c, [], fun _ => [⟨USB_DEV_RESET_CNT, .rw, []⟩]⟩]

def rowsDSP0 : List RegRow := [
  ⟨0xf0000, [], fun _ => [⟨DSP_CTL_RING, .rw, []⟩]⟩,
  ⟨0xf0008, [], fun _ => [⟨DSP_EVT_CFG_ERR, .w1c, []⟩, ⟨DSP_EVT_CELL_BAD, .w1c, []⟩, ⟨DSP_EVT_ECC_UNCORR, .w1c, []⟩] ++ (List.range 2).map (fun h => ⟨DSP_EVT_FLIP h, .w1c, []⟩) ++ (List.range 2).map (fun h => ⟨DSP_EVT_COMMIT_LATE h, .w1c, []⟩) ++ (List.range 2).map (fun h => ⟨DSP_EVT_UNDERRUN h, .w1c, []⟩) ++ (List.range 2).map (fun h => ⟨DSP_EVT_HPD_CHG h, .w1c, []⟩) ++ (List.range 2).map (fun h => ⟨DSP_EVT_HPD_IRQ h, .w1c, []⟩) ++ (List.range 2).map (fun h => ⟨DSP_EVT_PSR_CHG h, .w1c, []⟩) ++ (List.range 2).map (fun h => ⟨DSP_EVT_TRAIN_FAIL h, .w1c, []⟩) ++ (List.range 2).map (fun h => ⟨DSP_EVT_AUX_DONE h, .w1c, []⟩)⟩,
  ⟨0xf000c, [], fun _ => [⟨DSP_IRQ_EN_CFG_ERR, .rw, []⟩, ⟨DSP_IRQ_EN_CELL_BAD, .rw, []⟩, ⟨DSP_IRQ_EN_ECC_UNCORR, .rw, []⟩] ++ (List.range 2).map (fun h => ⟨DSP_IRQ_EN_FLIP h, .rw, []⟩) ++ (List.range 2).map (fun h => ⟨DSP_IRQ_EN_COMMIT_LATE h, .rw, []⟩) ++ (List.range 2).map (fun h => ⟨DSP_IRQ_EN_UNDERRUN h, .rw, []⟩) ++ (List.range 2).map (fun h => ⟨DSP_IRQ_EN_HPD_CHG h, .rw, []⟩) ++ (List.range 2).map (fun h => ⟨DSP_IRQ_EN_HPD_IRQ h, .rw, []⟩) ++ (List.range 2).map (fun h => ⟨DSP_IRQ_EN_PSR_CHG h, .rw, []⟩) ++ (List.range 2).map (fun h => ⟨DSP_IRQ_EN_TRAIN_FAIL h, .rw, []⟩) ++ (List.range 2).map (fun h => ⟨DSP_IRQ_EN_AUX_DONE h, .rw, []⟩)⟩,
  ⟨0xf0010, [], fun _ => [⟨DSP_ECC_CORR, .rw, []⟩]⟩,
  ⟨0xf0014, [], fun _ => [⟨DSP_ECC_UNCORR, .rw, []⟩]⟩,
  ⟨0xf0018, [], fun _ => [⟨DSP_CELL_BAD, .rw, []⟩]⟩,
  ⟨0xf0100, [(0x80, 2)], fun ix => let h := ix.getD 0 0; [⟨DSP_HCTL_EN h, .rw, []⟩, ⟨DSP_HCTL_MODE h, .rw, []⟩, ⟨DSP_HCTL_BPC h, .rw, []⟩, ⟨DSP_HCTL_LANES h, .rw, [(0, 2)]⟩, ⟨DSP_HCTL_RATE h, .rw, [(0, 2)]⟩, ⟨DSP_HCTL_TRAIN h, .wo, []⟩, ⟨DSP_HCTL_PSR_EN h, .rw, []⟩, ⟨DSP_HCTL_PSR_IDLE h, .rw, [(2, 255)]⟩]⟩,
  ⟨0xf0104, [(0x80, 2)], fun ix => let h := ix.getD 0 0; [⟨DSP_HSTAT_LINK h, .ro, []⟩, ⟨DSP_HSTAT_HPD h, .ro, []⟩, ⟨DSP_HSTAT_LANES h, .ro, []⟩, ⟨DSP_HSTAT_RATE h, .ro, []⟩, ⟨DSP_HSTAT_PSR_STATE h, .ro, []⟩, ⟨DSP_HSTAT_LINE h, .ro, []⟩]⟩,
  ⟨0xf0108, [(0x80, 2)], fun ix => let h := ix.getD 0 0; [⟨DSP_TIME_H_ACT h, .rw, []⟩, ⟨DSP_TIME_H_TOTAL h, .rw, []⟩]⟩,
  ⟨0xf0110, [(0x80, 2)], fun ix => let h := ix.getD 0 0; [⟨DSP_TIME_V_ACT h, .rw, []⟩, ⟨DSP_TIME_V_TOTAL h, .rw, []⟩]⟩,
  ⟨0xf010c, [(0x80, 2)], fun ix => let h := ix.getD 0 0; [⟨DSP_TIME_HS_START h, .rw, []⟩, ⟨DSP_TIME_HS_WIDTH h, .rw, []⟩, ⟨DSP_TIME_HS_POL h, .rw, []⟩]⟩,
  ⟨0xf0114, [(0x80, 2)], fun ix => let h := ix.getD 0 0; [⟨DSP_TIME_VS_START h, .rw, []⟩, ⟨DSP_TIME_VS_WIDTH h, .rw, []⟩, ⟨DSP_TIME_VS_POL h, .rw, []⟩]⟩]

def rowsDSP1 : List RegRow := [
  ⟨0xf0118, [(0x80, 2)], fun ix => let h := ix.getD 0 0; [⟨DSP_PCLK_KHZ h, .rw, []⟩]⟩,
  ⟨0xf0120, [(0x80, 2)], fun ix => let h := ix.getD 0 0; [⟨DSP_SURF_BASE_BASE h, .rw, [(0, 10239)]⟩]⟩,
  ⟨0xf0124, [(0x80, 2)], fun ix => let h := ix.getD 0 0; [⟨DSP_SURF_STRIDE_STRIDE h, .rw, []⟩]⟩,
  ⟨0xf0128, [(0x80, 2)], fun ix => let h := ix.getD 0 0; [⟨DSP_SURF_FMT_FMT h, .rw, [(0, 2)]⟩]⟩,
  ⟨0xf012c, [(0x80, 2)], fun ix => let h := ix.getD 0 0; [⟨DSP_ACT_SURF_BASE h, .ro, []⟩, ⟨DSP_ACT_SURF_FMT h, .ro, []⟩, ⟨DSP_ACT_SURF_STRIDE h, .ro, []⟩]⟩,
  ⟨0xf0130, [(0x80, 2)], fun ix => let h := ix.getD 0 0; [⟨DSP_COMMIT_GO h, .wo, []⟩, ⟨DSP_COMMIT_PEND h, .ro, []⟩]⟩,
  ⟨0xf0134, [(0x80, 2)], fun ix => let h := ix.getD 0 0; [⟨DSP_PSR_EXIT h, .wo, []⟩]⟩,
  ⟨0xf0140, [(0x80, 2)], fun ix => let h := ix.getD 0 0; [⟨DSP_AUX_CTL_ADDR h, .rw, []⟩, ⟨DSP_AUX_CTL_LEN h, .rw, []⟩, ⟨DSP_AUX_CTL_CMD h, .rw, []⟩, ⟨DSP_AUX_CTL_GO h, .wo, []⟩]⟩,
  ⟨0xf0144, [(0x80, 2)], fun ix => let h := ix.getD 0 0; [⟨DSP_AUX_STAT_REPLY h, .ro, []⟩, ⟨DSP_AUX_STAT_BUSY h, .ro, []⟩]⟩,
  ⟨0xf0148, [(0x80, 2), (0x4, 4)], fun ix => let h := ix.getD 0 0; let k := ix.getD 1 0; [⟨DSP_AUX_DATA_DATA h k, .rw, []⟩]⟩,
  ⟨0xf0160, [(0x80, 2)], fun ix => let h := ix.getD 0 0; [⟨DSP_UNDERRUN h, .rw, []⟩]⟩,
  ⟨0xf0164, [(0x80, 2)], fun ix => let h := ix.getD 0 0; [⟨DSP_FLIP_CNT h, .rw, []⟩]⟩]

def rowsDSP2 : List RegRow := [
  ⟨0xf0168, [(0x80, 2)], fun ix => let h := ix.getD 0 0; [⟨DSP_LATE_CNT h, .rw, []⟩]⟩]

def rowsFLD0 : List RegRow := [
  ⟨0x100000, [], fun _ => [⟨FLD_SHUT_CTL_FORCE, .wo, []⟩]⟩,
  ⟨0x100004, [], fun _ => [⟨FLD_SHUT_STAT_SHUT, .ro, []⟩, ⟨FLD_SHUT_STAT_DONE, .ro, []⟩]⟩,
  ⟨0x100008, [], fun _ => [⟨FLD_SHUT_CAUSE_CAUSE, .ro, []⟩]⟩,
  ⟨0x10000c, [], fun _ => [⟨FLD_SHUT_LIVE_LIVE, .ro, []⟩]⟩,
  ⟨0x100010, [], fun _ => [⟨FLD_SHUT_TEMP_TSHUT_LIM, .rwl, [(80, 125)]⟩, ⟨FLD_SHUT_TEMP_TSHUT_HYST, .rwl, [(1, 15)]⟩]⟩,
  ⟨0x100014, [], fun _ => [⟨FLD_SAFE_SAFE_PATTERN, .ro, []⟩]⟩,
  ⟨0x100018, [], fun _ => [⟨FLD_SHUT_CNT, .rw, []⟩]⟩,
  ⟨0x10001c, [], fun _ => [⟨FLD_SHUT_TIME_LO_NS, .ro, []⟩]⟩,
  ⟨0x100020, [], fun _ => [⟨FLD_SHUT_TIME_HI_NS, .ro, []⟩]⟩,
  ⟨0x100100, [], fun _ => [⟨FLD_EVT_SHUT, .w1c, []⟩, ⟨FLD_EVT_RELEASE, .w1c, []⟩, ⟨FLD_EVT_LATE, .w1c, []⟩, ⟨FLD_EVT_EVQ_DISCARD, .w1c, []⟩, ⟨FLD_EVT_GLITCH, .w1c, []⟩]⟩,
  ⟨0x100104, [], fun _ => [⟨FLD_IRQ_EN_SHUT, .rw, []⟩, ⟨FLD_IRQ_EN_RELEASE, .rw, []⟩, ⟨FLD_IRQ_EN_LATE, .rw, []⟩, ⟨FLD_IRQ_EN_EVQ_DISCARD, .rw, []⟩, ⟨FLD_IRQ_EN_GLITCH, .rw, []⟩]⟩,
  ⟨0x100108, [], fun _ => [⟨FLD_OUT_LEVEL, .ro, []⟩]⟩]

def rowsFLD1 : List RegRow := [
  ⟨0x10010c, [], fun _ => [⟨FLD_IN_LEVEL, .ro, []⟩]⟩,
  ⟨0x100110, [], fun _ => [⟨FLD_EVQ_FILL, .ro, []⟩]⟩,
  ⟨0x100114, [], fun _ => [⟨FLD_EVQ_DISCARD, .rw, []⟩]⟩,
  ⟨0x100118, [], fun _ => [⟨FLD_LATE_CNT, .rw, []⟩]⟩,
  ⟨0x100200, [(0x10, 16)], fun ix => let i := ix.getD 0 0; [⟨FLD_IN_CFG_EN i, .rw, []⟩, ⟨FLD_IN_CFG_EDGE i, .rw, [(0, 2)]⟩, ⟨FLD_IN_CFG_ROUTE_EN i, .rw, []⟩, ⟨FLD_IN_CFG_BENCH i, .rw, [(0, 16)]⟩, ⟨FLD_IN_CFG_HAND i, .rw, []⟩, ⟨FLD_IN_CFG_DEBOUNCE i, .rw, []⟩]⟩,
  ⟨0x100204, [(0x10, 16)], fun ix => let i := ix.getD 0 0; [⟨FLD_IN_STAMP_LO_NS i, .ro, []⟩]⟩,
  ⟨0x100208, [(0x10, 16)], fun ix => let i := ix.getD 0 0; [⟨FLD_IN_STAMP_HI_NS i, .ro, []⟩]⟩,
  ⟨0x10020c, [(0x10, 16)], fun ix => let i := ix.getD 0 0; [⟨FLD_IN_CNT_EDGES i, .ro, []⟩, ⟨FLD_IN_CNT_GLITCH i, .ro, []⟩]⟩]

def rowsHVI0 : List RegRow := [
  ⟨0x110000, [], fun _ => [⟨HVI_CTL_OWNER, .rw, []⟩]⟩,
  ⟨0x110008, [], fun _ => [⟨HVI_EVT_TRIP, .w1c, []⟩, ⟨HVI_EVT_PG_CHG, .w1c, []⟩, ⟨HVI_EVT_DAMAGED, .w1c, []⟩, ⟨HVI_EVT_CFG_ERR, .w1c, []⟩, ⟨HVI_EVT_LODGE_INTAKE, .w1c, []⟩]⟩,
  ⟨0x11000c, [], fun _ => [⟨HVI_IRQ_EN_TRIP, .rw, []⟩, ⟨HVI_IRQ_EN_PG_CHG, .rw, []⟩, ⟨HVI_IRQ_EN_DAMAGED, .rw, []⟩, ⟨HVI_IRQ_EN_CFG_ERR, .rw, []⟩, ⟨HVI_IRQ_EN_LODGE_INTAKE, .rw, []⟩]⟩,
  ⟨0x110010, [], fun _ => [⟨HVI_VIN_A_VIN, .ro, []⟩]⟩,
  ⟨0x110014, [], fun _ => [⟨HVI_VIN_B_VIN, .ro, []⟩]⟩,
  ⟨0x110100, [(0x40, 6)], fun ix => let c := ix.getD 0 0; [⟨HVI_CH_CTL_ON c, .rw, []⟩, ⟨HVI_CH_CTL_DIR c, .rw, if c = 2 ∨ c = 3 then [(0, 1)] else [(0, 0)]⟩, ⟨HVI_CH_CTL_RAMP c, .rw, [(1, 40)]⟩, ⟨HVI_CH_CTL_RETRY_LIM c, .rw, []⟩, ⟨HVI_CH_CTL_RETRY_INT c, .rw, [(1, 255)]⟩, ⟨HVI_CH_CTL_CLEAR c, .wo, []⟩]⟩,
  ⟨0x110104, [(0x40, 6)], fun ix => let c := ix.getD 0 0; [⟨HVI_CH_STAT_STATE c, .ro, []⟩, ⟨HVI_CH_STAT_PG c, .ro, []⟩, ⟨HVI_CH_STAT_FAULT_TMR c, .ro, []⟩, ⟨HVI_CH_STAT_CAUSE c, .ro, []⟩, ⟨HVI_CH_STAT_POINT c, .ro, []⟩, ⟨HVI_CH_STAT_RETRIES c, .ro, []⟩]⟩,
  ⟨0x110108, [(0x40, 6)], fun ix => let c := ix.getD 0 0; [⟨HVI_CH_MEAS_VOUT c, .ro, []⟩, ⟨HVI_CH_MEAS_I c, .ro, []⟩]⟩,
  ⟨0x11010c, [(0x40, 6)], fun ix => let c := ix.getD 0 0; [⟨HVI_CH_SCALE_I_FS c, .rwl, []⟩, ⟨HVI_CH_SCALE_V_FS c, .rwl, []⟩]⟩,
  ⟨0x110110, [(0x40, 6)], fun ix => let c := ix.getD 0 0; [⟨HVI_CH_LIMITS_UV c, .rw, []⟩, ⟨HVI_CH_LIMITS_OV c, .rw, []⟩]⟩,
  ⟨0x110114, [(0x40, 6)], fun ix => let c := ix.getD 0 0; [⟨HVI_CH_HARD_HARD c, .rw, []⟩]⟩,
  ⟨0x110118, [(0x40, 6)], fun ix => let c := ix.getD 0 0; [⟨HVI_TRIP_CNT c, .rw, []⟩]⟩]

def rowsHVI1 : List RegRow := [
  ⟨0x110120, [(0x40, 6), (0x4, 8)], fun ix => let c := ix.getD 0 0; let k := ix.getD 1 0; [⟨HVI_BRK_I c k, .rw, []⟩, ⟨HVI_BRK_T c k, .rw, []⟩, ⟨HVI_BRK_UNIT c k, .rw, []⟩]⟩]

def rowsDCK0 : List RegRow := [
  ⟨0x120000, [(0x100, 2)], fun ix => let d := ix.getD 0 0; [⟨DCK_TC_CTL_EN d, .rw, []⟩, ⟨DCK_TC_CTL_POLICY d, .rw, [(0, 2)]⟩, ⟨DCK_TC_CTL_RP_LEVEL d, .rw, [(0, 2)]⟩, ⟨DCK_TC_CTL_PD_EN d, .rw, []⟩, ⟨DCK_TC_CTL_MOIST_EN d, .rw, []⟩]⟩,
  ⟨0x120004, [(0x100, 2)], fun ix => let d := ix.getD 0 0; [⟨DCK_TC_STAT_STATE d, .ro, []⟩, ⟨DCK_TC_STAT_ORIENT d, .ro, []⟩, ⟨DCK_TC_STAT_VBUS_PRES d, .ro, []⟩, ⟨DCK_TC_STAT_PROLE d, .ro, []⟩, ⟨DCK_TC_STAT_DROLE d, .ro, []⟩, ⟨DCK_TC_STAT_CONTRACT d, .ro, []⟩, ⟨DCK_TC_STAT_VSEL d, .ro, []⟩, ⟨DCK_TC_STAT_PARTNER_RP d, .ro, []⟩, ⟨DCK_TC_STAT_DEAD_BATT d, .ro, []⟩]⟩,
  ⟨0x120008, [(0x100, 2)], fun ix => let d := ix.getD 0 0; [⟨DCK_EVT_ATTACH d, .w1c, []⟩, ⟨DCK_EVT_DETACH d, .w1c, []⟩, ⟨DCK_EVT_WET d, .w1c, []⟩, ⟨DCK_EVT_DRY d, .w1c, []⟩, ⟨DCK_EVT_CONTRACT d, .w1c, []⟩, ⟨DCK_EVT_VOID d, .w1c, []⟩, ⟨DCK_EVT_RX d, .w1c, []⟩, ⟨DCK_EVT_TX_DONE d, .w1c, []⟩, ⟨DCK_EVT_TX_FAIL d, .w1c, []⟩, ⟨DCK_EVT_HARD_RESET_RX d, .w1c, []⟩, ⟨DCK_EVT_COLLISION d, .w1c, []⟩, ⟨DCK_EVT_DISCH_FAIL d, .w1c, []⟩]⟩,
  ⟨0x12000c, [(0x100, 2)], fun ix => let d := ix.getD 0 0; [⟨DCK_IRQ_EN_ATTACH d, .rw, []⟩, ⟨DCK_IRQ_EN_DETACH d, .rw, []⟩, ⟨DCK_IRQ_EN_WET d, .rw, []⟩, ⟨DCK_IRQ_EN_DRY d, .rw, []⟩, ⟨DCK_IRQ_EN_CONTRACT d, .rw, []⟩, ⟨DCK_IRQ_EN_VOID d, .rw, []⟩, ⟨DCK_IRQ_EN_RX d, .rw, []⟩, ⟨DCK_IRQ_EN_TX_DONE d, .rw, []⟩, ⟨DCK_IRQ_EN_TX_FAIL d, .rw, []⟩, ⟨DCK_IRQ_EN_HARD_RESET_RX d, .rw, []⟩, ⟨DCK_IRQ_EN_COLLISION d, .rw, []⟩, ⟨DCK_IRQ_EN_DISCH_FAIL d, .rw, []⟩]⟩,
  ⟨0x120010, [(0x100, 2)], fun ix => let d := ix.getD 0 0; [⟨DCK_PD_TXHDR_HEADER d, .rw, []⟩, ⟨DCK_PD_TXHDR_GO d, .wo, []⟩, ⟨DCK_PD_TXHDR_HARD_RESET d, .wo, []⟩]⟩,
  ⟨0x120020, [(0x100, 2), (0x4, 7)], fun ix => let d := ix.getD 0 0; let k := ix.getD 1 0; [⟨DCK_PD_TXDO_DO d k, .rw, []⟩]⟩,
  ⟨0x120040, [(0x100, 2)], fun ix => let d := ix.getD 0 0; [⟨DCK_PD_RXHDR_HEADER d, .ro, []⟩, ⟨DCK_PD_RXHDR_FILL d, .ro, []⟩, ⟨DCK_PD_RXHDR_VALID d, .ro, []⟩]⟩,
  ⟨0x120044, [(0x100, 2), (0x4, 7)], fun ix => let d := ix.getD 0 0; let k := ix.getD 1 0; [⟨DCK_PD_RXDO_DO d k, .ro, []⟩]⟩,
  ⟨0x120060, [(0x100, 2)], fun ix => let d := ix.getD 0 0; [⟨DCK_MOIST_WET_THR d, .rw, [(1, 255)]⟩, ⟨DCK_MOIST_LAST_MIN d, .ro, []⟩, ⟨DCK_MOIST_MOIST_INT d, .rw, [(1, 255)]⟩]⟩,
  ⟨0x120064, [(0x100, 2)], fun ix => let d := ix.getD 0 0; [⟨DCK_TIMERS_CC_DETACH d, .rw, [(10, 20)]⟩]⟩,
  ⟨0x120070, [(0x100, 2)], fun ix => let d := ix.getD 0 0; [⟨DCK_ATTACH_CNT d, .rw, []⟩]⟩,
  ⟨0x120074, [(0x100, 2)], fun ix => let d := ix.getD 0 0; [⟨DCK_HARD_RESET_CNT d, .rw, []⟩]⟩]

def rowsDCK1 : List RegRow := [
  ⟨0x120078, [(0x100, 2)], fun ix => let d := ix.getD 0 0; [⟨DCK_TX_FAIL_CNT d, .rw, []⟩]⟩,
  ⟨0x12007c, [(0x100, 2)], fun ix => let d := ix.getD 0 0; [⟨DCK_WET_CNT d, .rw, []⟩]⟩]

def rowsPWR0 : List RegRow := [
  ⟨0x20004, [], fun _ => [⟨PWR_STAT_STATE, .ro, []⟩, ⟨PWR_STAT_BUSY, .ro, []⟩, ⟨PWR_STAT_DOM_ON, .ro, []⟩]⟩,
  ⟨0x20008, [], fun _ => [⟨PWR_EVT_DONE, .w1c, []⟩, ⟨PWR_EVT_SUPPLY, .w1c, []⟩, ⟨PWR_EVT_WOKE, .w1c, []⟩]⟩,
  ⟨0x2000c, [], fun _ => [⟨PWR_IRQ_EN_DONE, .rw, []⟩, ⟨PWR_IRQ_EN_SUPPLY, .rw, []⟩, ⟨PWR_IRQ_EN_WOKE, .rw, []⟩]⟩,
  ⟨0x20010, [], fun _ => [⟨PWR_WAKE_EN, .rw, []⟩, ⟨PWR_WAKE_CAUSE, .ro, []⟩]⟩,
  ⟨0x20014, [], fun _ => [⟨PWR_SAVE_NU_TGT, .ro, []⟩, ⟨PWR_SAVE_ND_TGT, .ro, []⟩]⟩,
  ⟨0x20018, [], fun _ => [⟨PWR_MON_TRIP, .ro, []⟩]⟩,
  ⟨0x2001c, [], fun _ => [⟨PWR_TEMP_TJ, .ro, []⟩]⟩,
  ⟨0x20040, [(0x8, 4)], fun ix => let s := ix.getD 0 0; [⟨PWR_RES_LO_US s, .ro, []⟩]⟩,
  ⟨0x20044, [(0x8, 4)], fun ix => let s := ix.getD 0 0; [⟨PWR_RES_HI_US s, .ro, []⟩]⟩]

def rowsVLT0 : List RegRow := [
  ⟨0x130004, [], fun _ => [⟨VLT_STAT_ROOTSTOCK, .ro, []⟩, ⟨VLT_STAT_TAMPERED, .ro, []⟩, ⟨VLT_STAT_DEBUG_OPEN, .ro, []⟩, ⟨VLT_STAT_SCRUB_BUSY, .ro, []⟩, ⟨VLT_STAT_PUF_FAIL, .ro, []⟩, ⟨VLT_STAT_FREE_SLOTS, .ro, []⟩]⟩,
  ⟨0x130008, [], fun _ => [⟨VLT_EVT_TAMPER, .w1c, []⟩, ⟨VLT_EVT_ORPHAN, .w1c, []⟩, ⟨VLT_EVT_USE_ZERO, .w1c, []⟩, ⟨VLT_EVT_TRNG_FAIL, .w1c, []⟩, ⟨VLT_EVT_PUF_FAIL, .w1c, []⟩, ⟨VLT_EVT_BAD_REQ, .w1c, []⟩]⟩,
  ⟨0x13000c, [], fun _ => [⟨VLT_IRQ_EN_TAMPER, .rw, []⟩, ⟨VLT_IRQ_EN_ORPHAN, .rw, []⟩, ⟨VLT_IRQ_EN_USE_ZERO, .rw, []⟩, ⟨VLT_IRQ_EN_TRNG_FAIL, .rw, []⟩, ⟨VLT_IRQ_EN_PUF_FAIL, .rw, []⟩, ⟨VLT_IRQ_EN_BAD_REQ, .rw, []⟩]⟩,
  ⟨0x130010, [], fun _ => [⟨VLT_TAMPER_EN, .rwl, []⟩, ⟨VLT_TAMPER_ACTIVE, .ro, []⟩]⟩,
  ⟨0x130014, [], fun _ => [⟨VLT_PUF_ERR_BITS, .ro, []⟩]⟩,
  ⟨0x130040, [(0x4, 12)], fun ix => let k := ix.getD 0 0; [⟨VLT_VKEY_HASH_HASH k, .ro, []⟩]⟩,
  ⟨0x130020, [], fun _ => [⟨VLT_BAD_REQ, .rw, []⟩]⟩,
  ⟨0x130024, [], fun _ => [⟨VLT_REFUSE_CNT, .rw, []⟩]⟩,
  ⟨0x130028, [], fun _ => [⟨VLT_TAMPER_CNT, .rw, []⟩]⟩,
  ⟨0x13002c, [], fun _ => [⟨VLT_OP_CNT, .rw, []⟩]⟩,
  ⟨0x130100, [(0x8, 128)], fun ix => let s := ix.getD 0 0; [⟨VLT_SLOT_ATTR_USES s, .ro, []⟩, ⟨VLT_SLOT_ATTR_PARENT s, .ro, []⟩, ⟨VLT_SLOT_ATTR_INSTALLED s, .ro, []⟩, ⟨VLT_SLOT_ATTR_VALID s, .ro, []⟩, ⟨VLT_SLOT_ATTR_EXPIRE s, .ro, []⟩, ⟨VLT_SLOT_ATTR_KIND s, .ro, []⟩]⟩,
  ⟨0x130104, [(0x8, 128)], fun ix => let s := ix.getD 0 0; [⟨VLT_SLOT_CNT s, .ro, []⟩]⟩]

def rowsUPD0 : List RegRow := [
  ⟨0x140004, [], fun _ => [⟨UPD_STAT_ARMED, .ro, []⟩, ⟨UPD_STAT_PHASE, .ro, []⟩]⟩,
  ⟨0x140008, [], fun _ => [⟨UPD_EVT_BLOCK_BAD, .w1c, []⟩, ⟨UPD_EVT_VERIFY_FAIL, .w1c, []⟩, ⟨UPD_EVT_PLANTED, .w1c, []⟩, ⟨UPD_EVT_KEPT, .w1c, []⟩, ⟨UPD_EVT_ROLLBACK, .w1c, []⟩, ⟨UPD_EVT_NOT_PLANTED, .w1c, []⟩]⟩,
  ⟨0x14000c, [], fun _ => [⟨UPD_IRQ_EN_BLOCK_BAD, .rw, []⟩, ⟨UPD_IRQ_EN_VERIFY_FAIL, .rw, []⟩, ⟨UPD_IRQ_EN_PLANTED, .rw, []⟩, ⟨UPD_IRQ_EN_KEPT, .rw, []⟩, ⟨UPD_IRQ_EN_ROLLBACK, .rw, []⟩, ⟨UPD_IRQ_EN_NOT_PLANTED, .rw, []⟩]⟩,
  ⟨0x140010, [], fun _ => [⟨UPD_TMR_HEALTH_WIN, .rw, [(1, 600)]⟩, ⟨UPD_TMR_PLANT_WARN, .rw, [(1, 255)]⟩, ⟨UPD_TMR_PLANT_LEAD, .rw, [(1, 255)]⟩]⟩,
  ⟨0x140018, [], fun _ => [⟨UPD_INSTANT_LO_NS, .ro, []⟩]⟩,
  ⟨0x14001c, [], fun _ => [⟨UPD_INSTANT_HI_NS, .ro, []⟩]⟩,
  ⟨0x140020, [], fun _ => [⟨UPD_HEALTH_OK, .w1s, []⟩]⟩,
  ⟨0x140024, [], fun _ => [⟨UPD_RX_TYPE, .ro, []⟩, ⟨UPD_RX_INSTANCE, .ro, []⟩, ⟨UPD_RX_MISSING, .ro, []⟩]⟩,
  ⟨0x140028, [], fun _ => [⟨UPD_LAST_RESULT, .ro, []⟩]⟩,
  ⟨0x140030, [], fun _ => [⟨UPD_BLOCK_BAD_CNT, .rw, []⟩]⟩,
  ⟨0x140034, [], fun _ => [⟨UPD_VERIFY_FAIL_CNT, .rw, []⟩]⟩,
  ⟨0x140038, [], fun _ => [⟨UPD_PLANT_CNT, .rw, []⟩]⟩]

def rowsUPD1 : List RegRow := [
  ⟨0x14003c, [], fun _ => [⟨UPD_ROLLBACK_CNT, .rw, []⟩]⟩]

def rowsREP0 : List RegRow := [
  ⟨0x150000, [], fun _ => [⟨REP_CTL_AUTO_SPARE, .rw, []⟩, ⟨REP_CTL_AUTO_REMAP, .rw, []⟩, ⟨REP_CTL_SPARE_DWELL, .rw, [(1, 255)]⟩, ⟨REP_CTL_SPARE_THR, .rw, [(1, 65535)]⟩]⟩,
  ⟨0x150004, [], fun _ => [⟨REP_STAT_BUSY, .ro, []⟩, ⟨REP_STAT_ACTION, .ro, []⟩]⟩,
  ⟨0x150008, [], fun _ => [⟨REP_EVT_MIG_DONE, .w1c, []⟩, ⟨REP_EVT_SPARE_DONE, .w1c, []⟩, ⟨REP_EVT_SPARE_FAIL, .w1c, []⟩, ⟨REP_EVT_REMAP_DONE, .w1c, []⟩, ⟨REP_EVT_REMAP_FULL, .w1c, []⟩, ⟨REP_EVT_LEDGER_RX, .w1c, []⟩, ⟨REP_EVT_LEDGER_BAD, .w1c, []⟩]⟩,
  ⟨0x15000c, [], fun _ => [⟨REP_IRQ_EN_MIG_DONE, .rw, []⟩, ⟨REP_IRQ_EN_SPARE_DONE, .rw, []⟩, ⟨REP_IRQ_EN_SPARE_FAIL, .rw, []⟩, ⟨REP_IRQ_EN_REMAP_DONE, .rw, []⟩, ⟨REP_IRQ_EN_REMAP_FULL, .rw, []⟩, ⟨REP_IRQ_EN_LEDGER_RX, .rw, []⟩, ⟨REP_IRQ_EN_LEDGER_BAD, .rw, []⟩]⟩,
  ⟨0x150010, [], fun _ => [⟨REP_MIG_FROM, .ro, []⟩, ⟨REP_MIG_TO, .ro, []⟩, ⟨REP_MIG_LAT, .ro, []⟩]⟩,
  ⟨0x150014, [], fun _ => [⟨REP_TMR_SPARE_TMO, .rw, [(1, 255)]⟩]⟩,
  ⟨0x150018, [], fun _ => [⟨REP_LIKE_NEXT_CLASS, .rw, []⟩]⟩,
  ⟨0x150020, [(0x4, 4)], fun ix => let k := ix.getD 0 0; [⟨REP_LIKE_CAP_CLASS k, .ro, []⟩]⟩,
  ⟨0x150030, [], fun _ => [⟨REP_LEDGER_PRESENT, .ro, []⟩, ⟨REP_LEDGER_VALID, .ro, []⟩, ⟨REP_LEDGER_SCION, .ro, []⟩]⟩,
  ⟨0x150034, [], fun _ => [⟨REP_LEDGER_RGEN_RGEN, .ro, []⟩]⟩,
  ⟨0x150040, [(0x4, 6)], fun ix => let m := ix.getD 0 0; [⟨REP_SPARE_ROWS_USED m, .ro, []⟩, ⟨REP_SPARE_ROWS_FREE m, .ro, []⟩]⟩,
  ⟨0x150060, [], fun _ => [⟨REP_MIG_CNT, .rw, []⟩]⟩]

def rowsREP1 : List RegRow := [
  ⟨0x150064, [], fun _ => [⟨REP_LANE_SPARE_CNT, .rw, []⟩]⟩,
  ⟨0x150068, [], fun _ => [⟨REP_REMAP_CNT, .rw, []⟩]⟩,
  ⟨0x15006c, [], fun _ => [⟨REP_LEDGER_BAD_CNT, .rw, []⟩]⟩,
  ⟨0x150100, [(0x8, 64)], fun ix => let e := ix.getD 0 0; [⟨REP_REMAP_LOG_MEM e, .ro, []⟩, ⟨REP_REMAP_LOG_INST e, .ro, []⟩, ⟨REP_REMAP_LOG_BANK e, .ro, []⟩, ⟨REP_REMAP_LOG_ROW e, .ro, []⟩, ⟨REP_REMAP_LOG_SPARE e, .ro, []⟩, ⟨REP_REMAP_LOG_VALID e, .ro, []⟩]⟩,
  ⟨0x150104, [(0x8, 64)], fun ix => let e := ix.getD 0 0; [⟨REP_REMAP_LOG_T_T_LO e, .ro, []⟩]⟩]

def rowsTNK0 : List RegRow := [
  ⟨0x170000, [], fun _ => [⟨TNK_CTL_EN, .rw, []⟩]⟩,
  ⟨0x170004, [], fun _ => [⟨TNK_STAT_TEST, .ro, []⟩, ⟨TNK_STAT_SLOT, .ro, []⟩, ⟨TNK_STAT_LEFT, .ro, []⟩]⟩,
  ⟨0x170010, [], fun _ => [⟨TNK_SEED_SEED, .rw, [(1, 4294967295)]⟩]⟩,
  ⟨0x170020, [(0x4, 4)], fun ix => let p := ix.getD 0 0; [⟨TNK_CR_DELAY_DELAY p, .rw, []⟩, ⟨TNK_CR_DELAY_VCS p, .rw, []⟩]⟩,
  ⟨0x170030, [(0x4, 4)], fun ix => let p := ix.getD 0 0; [⟨TNK_ACK_STRETCH_DELAY p, .rw, []⟩]⟩,
  ⟨0x170040, [(0x4, 4)], fun ix => let p := ix.getD 0 0; [⟨TNK_BEACON_DELAY_DELAY p, .rw, []⟩]⟩,
  ⟨0x170050, [], fun _ => [⟨TNK_BP_CTL_PORT, .rw, []⟩, ⟨TNK_BP_CTL_STEP, .rw, [(1, 255)]⟩, ⟨TNK_BP_CTL_LEN, .rw, [(1, 32)]⟩]⟩,
  ⟨0x170054, [], fun _ => [⟨TNK_BP_MASK_LO_MASK, .rw, []⟩]⟩,
  ⟨0x170058, [], fun _ => [⟨TNK_BP_MASK_HI_MASK, .rw, []⟩]⟩,
  ⟨0x17005c, [], fun _ => [⟨TNK_BP_PATTERN_PATTERN, .rw, []⟩]⟩,
  ⟨0x170060, [], fun _ => [⟨TNK_JIT_BENCHES, .rw, []⟩, ⟨TNK_JIT_PORTER, .rw, []⟩, ⟨TNK_JIT_STEWARD, .rw, []⟩, ⟨TNK_JIT_MAX, .rw, []⟩]⟩]

def rowsLOG0 : List RegRow := [
  ⟨0x180000, [], fun _ => [⟨LOG_CTL_EN, .rw, []⟩]⟩,
  ⟨0x180004, [], fun _ => [⟨LOG_STAT_HEAD, .ro, []⟩, ⟨LOG_STAT_TAIL, .ro, []⟩, ⟨LOG_STAT_FULL, .ro, []⟩]⟩,
  ⟨0x180008, [], fun _ => [⟨LOG_MASK_BLOCK, .rw, []⟩]⟩,
  ⟨0x18000c, [], fun _ => [⟨LOG_OVERRUN, .rw, []⟩]⟩,
  ⟨0x180010, [], fun _ => [⟨LOG_CONSUME_TAIL, .wo, []⟩]⟩,
  ⟨0x180014, [], fun _ => [⟨LOG_SEL_ENTRY, .rw, []⟩]⟩,
  ⟨0x180020, [(0x4, 8)], fun ix => let w := ix.getD 0 0; [⟨LOG_DATA_DATA w, .ro, []⟩]⟩,
  ⟨0x180100, [(0x10, 16)], fun ix => let p := ix.getD 0 0; [⟨LOG_RXB_LO_BYTES p, .ro, []⟩]⟩,
  ⟨0x180104, [(0x10, 16)], fun ix => let p := ix.getD 0 0; [⟨LOG_RXB_HI_BYTES p, .ro, []⟩]⟩,
  ⟨0x180108, [(0x10, 16)], fun ix => let p := ix.getD 0 0; [⟨LOG_TXB_LO_BYTES p, .ro, []⟩]⟩,
  ⟨0x18010c, [(0x10, 16)], fun ix => let p := ix.getD 0 0; [⟨LOG_TXB_HI_BYTES p, .ro, []⟩]⟩]

/-- The registers of a CSR block, by block number (address bits [23:16], Table 13.9). -/
def regRows (block : Nat) : List RegRow :=
  match block with
  | 0x0 => rowsGLB0
  | 0x1 => rowsCLK0
  | 0x2 => rowsPWR0
  | 0x3 => rowsTRK0 ++ rowsTRK1
  | 0x4 => rowsLNK0 ++ rowsLNK1 ++ rowsLNK2
  | 0x5 => rowsBRD0 ++ rowsBRD1
  | 0x6 => rowsCTM0 ++ rowsCTM1
  | 0x7 => rowsSWX0 ++ rowsSWX1 ++ rowsSWX2
  | 0x8 => rowsSCH0 ++ rowsSCH1 ++ rowsSCH2
  | 0x9 => rowsTUN0 ++ rowsTUN1
  | 0xa => rowsBCH0 ++ rowsBCH1 ++ rowsBCH2
  | 0xb => rowsBRG0 ++ rowsBRG1
  | 0xc => rowsETH0 ++ rowsETH1
  | 0xd => rowsPCI0 ++ rowsPCI1
  | 0xe => rowsUSB0 ++ rowsUSB1
  | 0xf => rowsDSP0 ++ rowsDSP1 ++ rowsDSP2
  | 0x10 => rowsFLD0 ++ rowsFLD1
  | 0x11 => rowsHVI0 ++ rowsHVI1
  | 0x12 => rowsDCK0 ++ rowsDCK1
  | 0x13 => rowsVLT0
  | 0x14 => rowsUPD0 ++ rowsUPD1
  | 0x15 => rowsREP0 ++ rowsREP1
  | 0x16 => rowsMBX0
  | 0x17 => rowsTNK0
  | 0x18 => rowsLOG0
  | _ => []

end Sys2Proof.Machine
end

