-- ==== Sys2Proof/Machine/Rows.lean ====
section
/-! DEFINITION. Finding the register at an address of CSR space, and its fields as one word (spec/00_scope.md R4, Table 0.3). -/

namespace Sys2Proof.Machine
open Sys2Proof Sys2Proof.Machine.Reg

/-- Offsets 0x800–0xFFF of every bench's register set reach one common set (spec/09_fungatre_machine.md R273). -/
def unalias (addr : Nat) : Nat := if addr / 65536 = 0x0A ∧ 0x800 ≤ addr % 4096 then 0x0A0000 + addr % 4096 else addr

/-- The indices of an offset within a row, stride by stride. -/
def rowIndexOf (dims : List (Nat × Nat)) (off : Nat) : Option (List Nat) :=
  match dims with
  | [] => if off = 0 then some [] else none
  | (stride, count) :: r =>
    if off / stride < count then (rowIndexOf r (off % stride)).map (off / stride :: ·) else none

/-- The row of a register and its indices, among the rows of a block. -/
def findRow (rows : List RegRow) (addr : Nat) : Option (RegRow × List Nat) :=
  match rows with
  | [] => none
  | r :: rest =>
    if addr < r.base then findRow rest addr
    else match rowIndexOf r.dims (addr - r.base) with
      | some ix => some (r, ix)
      | none => findRow rest addr

def rowAt (addr : Nat) : Option (RegRow × List Nat) := findRow (regRows (addr / 65536)) addr

/-- A register as its fields stand; WO fields read 0 (Table 0.3). -/
def Chip.fieldsWord (s : Chip) (fs : List FieldRow) : Nat :=
  (fs.map (fun f => match f.acc with
    | .wo => 0
    | .w1s => if f.fld.addr / 65536 = 0x0A then 0 else s.get f.fld * 2 ^ f.fld.lo
    | _ => s.get f.fld * 2 ^ f.fld.lo)).sum

end Sys2Proof.Machine
end

