-- ==== Sys2Proof/Machine/Vault.lean ====
section
/-! DEFINITION. The KEY order, tamper and the TRNG (spec/21_vault.md R509–R526). PROVISION and UNSEAL, after which Porter may derive the
ledger scion, have their meanings in Machine/Firmware.lean. What the order's counters count and how a body that breaks Table 21.3 is
answered is log entry 22 (DESIGN CHOICE). -/

namespace Sys2Proof.Machine
open Sys2Proof Sys2Proof.Machine.Reg

/-! ### What every KEY action checks (R519, R525) -/

/-- A KEY action ends with its docket; VLT_OP_CNT counts those performed and VLT_REFUSE_CNT those refused. -/
def Chip.keyOver (s : Chip) (id : SlotId) (status : Nat) (body : List Byte) : Chip :=
  let s := if status = stDone then s.inc VLT_OP_CNT else if status = stRefused then s.inc VLT_REFUSE_CNT else s
  s.docketReady id status body

/-- A KEY order of an action: its body has the length of Table 21.3 with the named bytes zero, a plain frame carries it only where it is
plain, and a tampered Vault refuses it. -/
def Chip.keyOrder (s : Chip) (id : SlotId) (action len : Nat) (zeros : List Nat) (plain : Bool)
    (perform : Chip → Order → List Byte → Chip) : Chip :=
  s.startOrder id 0x70 (fun b => rd b 0 1 == action) (fun s o body =>
    if body.length ≠ len ∨ zeroBytes body zeros = false then s.docketReady id stBadArgs []
    else if plain = false ∧ s.restricted o.path o.keySlot then s.docketReady id stAuthFail []
    else if s.on VLT_STAT_TAMPERED then s.keyOver id stRefused []
    else perform s o body)

/-- A destination: a free slot that is named, or the lowest free one for 0xFF; none where there is none, or for a slot that holds a key
or cannot be written (R513, R519). -/
def Chip.destination (s : Chip) (dest : Nat) : Option Nat :=
  if dest = 255 then s.freeSlot
  else if 2 ≤ dest ∧ dest ≤ 127 ∧ s.keyValid dest = false ∧ s.vault.scrub.contains dest = false then some dest
  else none

/-- DEST has no encoding of a slot (R6). -/
def badSlot (k : Nat) : Bool := decide (127 < k)
def badDest (k : Nat) : Bool := decide (127 < k ∧ k ≠ 255)

/-! ### Invalidation (R517, R518) -/

/-- One step down from a set of slots: those whose stock is in it. Slots 0 and 1 are never reached (R513). -/
def Chip.children (s : Chip) (l : List Nat) : List Nat :=
  (s.vault.slots.filter (fun e => decide (2 ≤ e.1) && !e.2.installed && l.contains e.2.parent && !l.contains e.1)).map (·.1)

/-- A slot and every slot descended from it. -/
def Chip.descent (s : Chip) (k : Nat) : List Nat :=
  (List.range 128).foldl (fun l _ => l ++ s.children l) [k]

/-- Slots are no longer usable: sessions and the ledger lose the scions that were among them. -/
def Chip.loseSlots (s : Chip) (l : List Nat) : Chip :=
  let v := s.vault
  let lostLedger := v.ledgerKey != 0 && l.contains (v.ledgerKey - 1)
  let s := { s with vault := { v with
    slots := v.slots.filter (fun e => !l.contains e.1)
    scions := v.scions.filter (fun e => !l.contains (e.2 - 1))
    ledgerKey := if lostLedger then 0 else v.ledgerKey } }
  let s := if lostLedger then s.put REP_LEDGER_SCION 0 else s
  s.reviewStance

/-- Invalidate a slot with its descendants; the Vault scrubs them one by one. -/
def Chip.invalidateSlot (s : Chip) (k : Nat) : Nat × Chip :=
  if s.keyValid k = false then (0, s)
  else
    let l := s.descent k
    let s := s.loseSlots l
    let s := ({ s with vault := { s.vault with scrub := s.vault.scrub ++ l } } : Chip).evt VLT_EVT_ORPHAN
    (l.length, s.put VLT_STAT_SCRUB_BUSY 1)

/-- The next slot is zeroed and free again (R517). -/
def slotScrubDone (s : Chip) : Chip :=
  match s.vault.scrub with
  | [] => s
  | _ :: r =>
    let s := ({ s with vault := { s.vault with scrub := r } } : Chip).showSlots
    if r.isEmpty then s.put VLT_STAT_SCRUB_BUSY 0 else s

def execSlotScrubDone (s : State) : Result := s.onChip slotScrubDone

def invalidate (id : SlotId) (s : Chip) : Chip :=
  s.keyOrder id 3 2 [] false (fun s _ body =>
    let k := rd body 1 1
    if badSlot k then s.docketReady id stBadArgs []
    else if k < 2 then s.keyOver id stRefused []
    else
      let n := (s.invalidateSlot k).1
      ((s.keyOver id stDone (leBytes n 1)).invalidateSlot k).2)

def execInvalidate (at_ : SlotId) (s : State) : Result := s.onChip (invalidate at_)

/-! ### Derivation (R516, R518) -/

def derive (id : SlotId) (s : Chip) : Chip :=
  s.keyOrder id 1 57 [] false (fun s _ body =>
    let stock := rd body 1 1
    let dest := rd body 2 1
    if badSlot stock ∨ badDest dest ∨ 1 < rd body 4 1 then s.docketReady id stBadArgs []
    else match s.destination dest with
    | none => s.keyOver id stRefused []
    | some k =>
      let u := s.useKey stock useDerive
      if u.1 = false then u.2.keyOver id stRefused []
      else
        let key := scion (s.keyBytes stock) (slice body 9 16) (slice body 25 32)
        let s := u.2.takeSlot k ⟨1, rd body 3 1, stock, false, rd body 5 4, decide (rd body 4 1 = 1), key⟩
        s.keyOver id stDone (leBytes k 1))

def execDerive (at_ : SlotId) (s : State) : Result := s.onChip (derive at_)

/-- Both COUNTERs of a session restart at 0 with its new scion (spec/13_management_and_dockets.md R354). -/
def Chip.newScion (s : Chip) (sess k : Nat) : Chip :=
  { s with
    vault := { s.vault with scions := mset 0 s.vault.scions sess (k + 1) }
    mbx := { s.mbx with rxCounter := mset 0 s.mbx.rxCounter sess 0, txCounter := mset 0 s.mbx.txCounter sess 0 } }

/-- SESSION: the earlier scion of the session is invalidated, and a new one is derived. The docket is protected before the earlier scion
goes, which may be the one that carries the order (DESIGN CHOICE, log entry 22). -/
def session (id : SlotId) (s : Chip) : Chip :=
  s.keyOrder id 2 17 [3, 4, 5, 6, 7, 8] true (fun s _ body =>
    let stock := rd body 1 1
    let sess := rd body 2 1
    let old := mget 0 s.vault.scions sess
    if badSlot stock ∨ 3 < sess then s.docketReady id stBadArgs []
    else if s.vault.trngBad ∨ s.grants stock useDerive = false then s.keyOver id stRefused []
    else
      let cut (s : Chip) : Chip := if old = 0 then s else (s.invalidateSlot (old - 1)).2
      let u := (cut s).useKey stock useDerive
      match (cut s).freeSlot with
      | none => (cut s).keyOver id stRefused []
      | some k =>
        if u.1 = false then u.2.keyOver id stRefused []
        else
          let r := s.random 16
          let ctx := leBytes s.node 2 ++ leBytes sess 1 ++ leBytes 0 5 ++ slice body 9 8 ++ r.1
          let key := scion (s.keyBytes stock) labelSession ctx
          let x : VSlot := { kind := 1, uses := 2, parent := stock, installed := false, count := unlimited, expire := true, key := key }
          let s := r.2.keyOver id stDone (leBytes k 1 ++ leBytes 0 7 ++ r.1)
          (((cut s).useKey stock useDerive).2.takeSlot k x).newScion sess k)

def execSession (at_ : SlotId) (s : State) : Result := s.onChip (session at_)

/-! ### Sealed keys (R521) -/

/-- The 72 bytes of a sealed key (Table 21.4). -/
def sealBlob (key : List Byte) (x : VSlot) (nonce : List Byte) : List Byte :=
  let head := leBytes 0x4C454153 4 ++ leBytes 1 2 ++ leBytes x.uses 1 ++ [0] ++ leBytes x.count 4 ++ nonce
  let cipher := padTo (Config.gcmCipher key nonce head x.key) 32
  head ++ cipher ++ padTo (Config.gcmTag key nonce head cipher) 16

def sealKeySlot (id : SlotId) (s : Chip) : Chip :=
  s.keyOrder id 5 2 [] false (fun s _ body =>
    let k := rd body 1 1
    let x := s.vslot k
    if badSlot k then s.docketReady id stBadArgs []
    else if s.keyValid k = false ∨ x.kind ≠ 1 ∨ x.expire ∨ s.keyValid 0 = false ∨ s.vault.trngBad then s.keyOver id stRefused []
    else
      let r := s.random 12
      r.2.keyOver id stDone (sealBlob s.sealKey x r.1))

def execSeal (at_ : SlotId) (s : State) : Result := s.onChip (sealKeySlot at_)

/-! ### Public keys, attestation and information (R522, R523) -/

def loadPub (id : SlotId) (s : Chip) : Chip :=
  s.keyOrder id 7 101 [2, 3, 4] false (fun s _ body =>
    let dest := rd body 1 1
    let pub := slice body 5 96
    let hash := (List.range 12).flatMap (fun k => leBytes (s.get (VLT_VKEY_HASH_HASH k)) 4)
    if badDest dest then s.docketReady id stBadArgs []
    else match s.destination dest with
    | none => s.keyOver id stRefused []
    | some k =>
      if padTo (Config.sha384 pub) 48 ≠ hash then s.keyOver id stRefused []
      else
        (s.takeSlot k { kind := 3, uses := 64, parent := 0, installed := true, count := unlimited, expire := false, key := pub }).keyOver
          id stDone (leBytes k 1))

def execLoadPub (at_ : SlotId) (s : State) : Result := s.onChip (loadPub at_)

/-- REV of the active item of a type. -/
def Chip.activeRev (s : Chip) (kind : Nat) : Nat :=
  match s.activeItem kind 255 with
  | some e => e.rev
  | none => 0

/-- VLT_STAT[7:0]. -/
def Chip.vltStat (s : Chip) : Nat :=
  s.get VLT_STAT_ROOTSTOCK + 2 * s.get VLT_STAT_TAMPERED + 4 * s.get VLT_STAT_DEBUG_OPEN + 8 * s.get VLT_STAT_SCRUB_BUSY
    + 16 * s.get VLT_STAT_PUF_FAIL

/-- The report of Table 21.5, before its signature. -/
def Chip.attestReport (s : Chip) (nonce : List Byte) : List Byte :=
  nonce ++ s.uidBytes ++ leBytes (s.get GLB_LIKENESS_CLASS) 4 ++ leBytes (s.get GLB_STANCE_STANCE) 1 ++ leBytes s.vltStat 1 ++ leBytes 0 2
    ++ leBytes (s.activeRev 3) 4 ++ leBytes (s.activeRev 2) 4 ++ leBytes (s.activeRev 4) 4 ++ leBytes s.ns 8

def attest (id : SlotId) (s : Chip) : Chip :=
  s.keyOrder id 8 36 [1, 2, 3] true (fun s _ body =>
    if s.keyValid 1 = false ∨ s.vault.trngBad then s.keyOver id stRefused []
    else
      let r := s.random 48
      let report := s.attestReport (slice body 4 32)
      r.2.keyOver id stDone (report ++ padTo (Config.ecdsaSign (s.keyBytes 1) (Config.sha384 report) r.1) 96))

def execAttest (at_ : SlotId) (s : State) : Result := s.onChip (attest at_)

def attestPub (id : SlotId) (s : Chip) : Chip :=
  s.keyOrder id 9 1 [] true (fun s _ _ =>
    if s.keyValid 1 = false then s.keyOver id stRefused []
    else s.keyOver id stDone (padTo (Config.ecdsaPub (s.keyBytes 1)) 96))

def execAttestPub (at_ : SlotId) (s : State) : Result := s.onChip (attestPub at_)

/-- VLT_SLOT_ATTR_s (Table 21.7). -/
def Chip.slotAttr (s : Chip) (k : Nat) : Nat :=
  let x := s.vslot k
  if s.keyValid k then
    x.uses + 256 * x.parent + 2 ^ 15 * b2n x.installed + 2 ^ 16 + 2 ^ 17 * b2n x.expire + 2 ^ 18 * x.kind
  else 0

def info (id : SlotId) (s : Chip) : Chip :=
  s.keyOrder id 10 2 [] true (fun s _ body =>
    let k := rd body 1 1
    if badSlot k then s.docketReady id stBadArgs []
    else s.keyOver id stDone (leBytes (s.slotAttr k) 4 ++ leBytes (s.vslot k).count 4))

def execInfo (at_ : SlotId) (s : State) : Result := s.onChip (info at_)

/-! ### Enrolment (R512) -/

/-- Helper data for a rootstock (Table 21.1). -/
def Chip.helperData (s : Chip) (root syndrome : List Byte) : List Byte :=
  let h := leBytes 0x46504C48 4 ++ leBytes 1 2 ++ leBytes 0 2 ++ s.uidBytes ++ rootCheck root ++ leBytes 0 24 ++ padTo syndrome 4000
    ++ leBytes 0 28
  h ++ leBytes (crc32c h) 4

/-- Porter firmware writes the helper data to flash, as directory TYPE 1 in BANK 2 (R511, R512). -/
def Chip.storeHelper (s : Chip) (h : List Byte) : Chip :=
  s.rewriteDir (fun l => l.filter (fun e => e.kind != 1) ++ [plainItem 1 h])

/-- A fresh rootstock, drawn from the PUF response and the TRNG, and the code-offset data for it: free values. -/
def enrolPuf (id : SlotId) (s : Chip) : Chip :=
  s.keyOrder id 11 1 [] false (fun s _ _ =>
    if s.on VLT_STAT_ROOTSTOCK ∨ s.get VLT_STAT_PUF_FAIL = 0 ∨ 2 < s.get VLT_STAT_PUF_FAIL ∨ s.vault.trngBad then s.keyOver id stRefused []
    else
      let r := s.random 32
      let y := r.2.random 4000
      let h := s.helperData r.1 y.1
      let s := ({ y.2 with vault := { y.2.vault with helper := h } } : Chip).root r.1
      (s.storeHelper h).keyOver id stDone (leBytes 4096 2 ++ slice h 4092 4))

def execEnrolPuf (at_ : SlotId) (s : State) : Result := s.onChip (enrolPuf at_)

def helperRead (id : SlotId) (s : Chip) : Chip :=
  s.keyOrder id 13 6 [1] false (fun s _ body =>
    let off := rd body 2 2
    let len := rd body 4 2
    if len = 0 ∨ 1000 < len ∨ 4096 < off + len then s.docketReady id stBadArgs []
    else if s.vault.helper.isEmpty then s.keyOver id stRefused []
    else s.keyOver id stDone (slice s.vault.helper off len))

def execHelperRead (at_ : SlotId) (s : State) : Result := s.onChip (helperRead at_)

/-! ### JTAG unlock (R526) -/

/-- Installed slots that grant DERIVE and may still be used. -/
def Chip.debugStocks (s : Chip) : List Nat :=
  (s.vault.slots.filter (fun e => e.2.installed && bit e.2.uses useDerive && e.2.count != 0)).map (·.1)

/-- The response to a challenge under the debug key of a slot. -/
def Chip.debugResponse (s : Chip) (k : Nat) (challenge : List Byte) : List Byte :=
  padTo (Config.cmac (scion (s.keyBytes k) labelDebug (padTo s.uidBytes 32)) challenge) 16

/-- A response: every stock is tried, and one match unlocks the port; a challenge serves once. -/
def Chip.debugTry (s : Chip) (id : SlotId) (resp : List Byte) : Chip :=
  let match_ := match s.vault.challenge with
    | some c => s.debugStocks.any (fun k => s.debugResponse k c == resp)
    | none => false
  let tried := if s.vault.challenge.isSome then s.debugStocks else []
  let s := tried.foldl (fun (s : Chip) k => s.spend k) s
  let s := { s with vault := { s.vault with challenge := none } }
  if match_ then (s.put VLT_STAT_DEBUG_OPEN 1).keyOver id stDone []
  else (s.inc VLT_REFUSE_CNT).docketReady id stAuthFail []

def debug (id : SlotId) (s : Chip) : Chip :=
  s.keyOrder id 12 20 [2, 3] true (fun s _ body =>
    if 1 < rd body 1 1 then s.docketReady id stBadArgs []
    else if rd body 1 1 = 1 then s.debugTry id (slice body 4 16)
    else if s.vault.trngBad then s.keyOver id stRefused []
    else
      let r := s.random 16
      ({ r.2 with vault := { r.2.vault with challenge := some r.1 } } : Chip).keyOver id stDone r.1)

def execDebug (at_ : SlotId) (s : State) : Result := s.onChip (debug at_)

/-! ### Tamper and the TRNG (R524, R525) -/

/-- An enabled source is active: LIVE of TAMPER follows. -/
def Chip.tamperActive (s : Chip) : Bool := s.get VLT_TAMPER_EN &&& s.get VLT_TAMPER_ACTIVE != 0

/-- Every slot is erased at once. -/
def Chip.eraseSlots (s : Chip) : Chip :=
  let s := { s with vault := { s.vault with slots := [], scrub := [], scions := [], ledgerKey := 0 } }
  let s := ((s.put VLT_STAT_SCRUB_BUSY 0).put VLT_STAT_ROOTSTOCK 0).put REP_LEDGER_SCION 0
  s.showSlots.reviewStance

def tamper (src : Fin 4) (s : Chip) : Chip :=
  let s := s.setBitOf VLT_TAMPER_ACTIVE src
  if bit (s.get VLT_TAMPER_EN) src = false ∨ s.domainOn 15 = false then s
  else
    let s := ((s.eraseSlots.put VLT_STAT_TAMPERED 1).evt VLT_EVT_TAMPER).inc VLT_TAMPER_CNT
    let s := (s.live causeTamper true).shutter causeTamper
    s.unitFailed 4 255 5

def execTamper (src : Fin 4) (s : State) : Result := s.onChip (tamper src)

def tamperSourceInactive (src : Fin 4) (s : Chip) : Chip :=
  let s := s.clrBitOf VLT_TAMPER_ACTIVE src
  s.live causeTamper s.tamperActive

def execTamperSourceInactive (src : Fin 4) (s : State) : Result := s.onChip (tamperSourceInactive src)

/-- A health test fails. -/
def trngFail (s : Chip) : Chip :=
  (({ s with vault := { s.vault with trngBad := true } } : Chip).evt VLT_EVT_TRNG_FAIL).unitFailed 4 255 5

def execTrngFail (s : State) : Result := s.onChip trngFail

/-- 1,024 consecutive samples have passed. -/
def execTrngSamplesPassed (s : State) : Result := s.onChip (fun s => { s with vault := { s.vault with trngBad := false } })

end Sys2Proof.Machine
end

