-- ==== Sys2Proof/Machine/Settings.lean ====
section
/-! DEFINITION. A node's own ledger record: the ledger scion, the record's plain header and sealed settings, and its spread to the
partners (spec/23_in_service_repair.md R554–R559). Which CSRs a record lists is log entry 24 (DESIGN CHOICE). -/

namespace Sys2Proof.Machine
open Sys2Proof Sys2Proof.Machine.Reg

/-! ### The ledger scion (R556) -/

/-- The row key: the installed key with USES DERIVE. -/
def Chip.rowKey (s : Chip) : Option Nat := (s.vault.slots.find? (fun e => e.2.installed && bit e.2.uses useDerive)).map (·.1)

/-- Porter firmware derives the ledger scion from the row key, where it has none and there is a slot for it. -/
def Chip.deriveLedger (s : Chip) : Chip :=
  match s.rowKey, s.freeSlot with
  | some r, some k =>
    if s.vault.ledgerKey ≠ 0 then s
    else
      let u := s.useKey r useDerive
      if u.1 = false then u.2
      else
        let key := scion (s.keyBytes r) labelLedger (padTo [BitVec.ofNat 8 (s.get BRD_STAT_ROW)] 32)
        let s := u.2.takeSlot k
          { kind := 1, uses := 8, parent := r, installed := false, count := unlimited, expire := true, key := key }
        ({ s with vault := { s.vault with ledgerKey := k + 1 } } : Chip).put REP_LEDGER_SCION 1
  | _, _ => s

/-- The ledger scion's key. -/
def Chip.ledgerScion (s : Chip) : List Byte := s.keyBytes (s.vault.ledgerKey - 1)

/-! ### Records (Table 23.4, R555) -/

def recNode (r : List Byte) : Nat := rd r 6 2
def recPos (r : List Byte) : Nat := recNode r % 1024
def recGen (r : List Byte) : Nat := rd r 8 4

/-- MAGIC, VERSION and length of a record. -/
def recShaped (r : List Byte) : Bool := decide (r.length = 1600 ∧ rd r 0 4 = 0x4744454C ∧ rd r 4 2 = 1)

/-- The plain body of a record, where the scion is held and the tag passes. -/
def Chip.openRecord (s : Chip) (r : List Byte) : Option (List Byte) :=
  let nonce := slice r 48 12
  let cipher := slice r 64 1520
  if s.vault.ledgerKey = 0 ∨ padTo (Config.gcmTag s.ledgerScion nonce (r.take 64) cipher) 16 ≠ slice r 1584 16 then none
  else some (padTo (Config.gcmPlain s.ledgerScion nonce (r.take 64) cipher) 1520)

/-- The CSR entries of a plain body, address and value, as far as the body reaches. -/
def bodyCsrs (b : List Byte) : List (Nat × Nat) :=
  let at_ := 4 + 24 * rd b 0 2
  ((List.range (min (rd b 2 2) 190)).filter (fun i => decide (at_ + 8 * i + 8 ≤ 1520))).map (fun i =>
    (rd b (at_ + 8 * i) 4, rd b (at_ + 8 * i + 4) 4))

/-- One image entry: TYPE, INSTANCE, REV and the head of ITEM_DIGEST. -/
def imageEntry (e : FlashEntry) : List Byte := leBytes e.kind 1 ++ leBytes e.inst 1 ++ [0, 0] ++ leBytes e.rev 4 ++ slice e.header 48 16

/-- The images in use: the ACTIVE entries of the types that updates carry. -/
def Chip.imagesInUse (s : Chip) : List FlashEntry :=
  match s.dir with
  | none => []
  | some d => d.entries.filter (fun e => e.active && e.intact && [2, 3, 4, 5, 6, 7, 9, 10].contains e.kind)

/-- The value that a CSR entry of the own record holds: the register's fields as they stand. -/
def Chip.settingNow (s : Chip) (e : Nat × Nat) : Nat × Nat :=
  match rowAt (unalias e.1) with
  | some (r, ix) => (e.1, s.fieldsWord (r.fields ix))
  | none => e

/-- The settings of this node as a plain body: its images, and the CSRs that its record lists with their present values, as far as they
fit. -/
def Chip.ownBody (s : Chip) : List Byte :=
  let imgs := s.imagesInUse.take 63
  let old := match s.record (s.get BRD_STAT_POS) with
    | some r => match s.openRecord r with
      | some b => bodyCsrs b
      | none => []
    | none => []
  let csrs := (old.take ((1516 - 24 * imgs.length) / 8)).map s.settingNow
  padTo (leBytes imgs.length 2 ++ leBytes csrs.length 2 ++ imgs.flatMap imageEntry
    ++ csrs.flatMap (fun e => leBytes e.1 4 ++ leBytes e.2 4)) 1520

/-- TGT: rate and width of each port. -/
def Chip.tgtWord (s : Chip) : Nat :=
  (TPort.list.map (fun p => (s.tgtRate p + 4 * s.tgtWidth p) * 16 ^ p.num)).sum

/-- The plain header of the own record. -/
def Chip.ownHeader (s : Chip) (rgen : Nat) (nonce : List Byte) : List Byte :=
  leBytes 0x4744454C 4 ++ leBytes 1 2 ++ leBytes s.node 2 ++ leBytes rgen 4 ++ s.uidBytes ++ leBytes (s.get GLB_LIKENESS_CLASS) 4
    ++ leBytes (s.get BRD_TGEN_TGEN) 2 ++ leBytes (s.get BRD_STAT_ROLE) 1 ++ [0]
    ++ leBytes (s.get BRD_RAIL_SKIP_THR + 256 * s.get BRD_RAIL_HASH_SEED) 4 ++ leBytes s.tgtWord 2 ++ leBytes 0 6 ++ nonce ++ leBytes 0 4

/-- A record goes to each partner that is Member. -/
def Chip.spreadRecord (s : Chip) (r : List Byte) : Chip :=
  TPort.list.foldl (fun (s : Chip) p =>
    match s.partnerPos p with
    | some q => if s.partnerIs p posMember then (s.sendMsg (q + 1024 * s.get BRD_STAT_ROW) (message 8 0 r)).2 else s
    | none => s) s

/-- The node's settings have changed: its record is built with RGEN plus 1, sealed, stored and spread (R557). -/
def Chip.publish (s : Chip) : Chip :=
  if s.vault.ledgerKey = 0 ∨ s.get BRD_STAT_POS_VALID = 0 ∨ s.vault.trngBad then s
  else
    let rgen := match s.record (s.get BRD_STAT_POS) with
      | some r => (recGen r + 1) % 2 ^ 32
      | none => 1
    let r := s.random 12
    let head := s.ownHeader rgen r.1
    let cipher := padTo (Config.gcmCipher s.ledgerScion r.1 head s.ownBody) 1520
    let rec_ := head ++ cipher ++ padTo (Config.gcmTag s.ledgerScion r.1 head cipher) 16
    (r.2.storeRecord (s.get BRD_STAT_POS) rec_).spreadRecord rec_

/-! ### Received records (R557) -/

/-- RGEN is later than that of the record held, modulo 2^32 with a window of 2^31, or none is held. -/
def Chip.recordLater (s : Chip) (r : List Byte) : Bool :=
  match s.record (recPos r) with
  | none => true
  | some h =>
    let d := (recGen r + 2 ^ 32 - recGen h) % 2 ^ 32
    decide (d ≠ 0 ∧ d < 2 ^ 31)

/-- This node's own record from its sponsor, during its own admission and up to the first derivation of its ledger scion, until which
no tag can be checked (R559 steps 3 to 5). -/
def Chip.fromSponsor (s : Chip) (node : Nat) (r : List Byte) : Bool :=
  decide (recPos r = s.get BRD_STAT_POS) && decide (s.vault.ledgerKey = 0)
    && TPort.list.any (fun p => match s.partnerPos p with
      | some q => decide (node = q + 1024 * s.get BRD_STAT_ROW)
      | none => false)

/-- A received record is stored. -/
def Chip.recordFits (s : Chip) (node : Nat) (r : List Byte) : Bool :=
  recShaped r && decide (recNode r / 1024 = s.get BRD_STAT_ROW) && (s.ledgerSlot (recPos r)).isSome && s.recordLater r
    && (s.fromSponsor node r || (decide (node = recNode r) && (s.openRecord r).isSome))

/-- A LEDGER message (R557). The braid logic takes the own record that a sponsor sends even in bare transit, and applies its RAIL and
targets (R558, spec/01_rows_and_nodes.md R31); every other record is Porter firmware's. -/
def ledgerIn (node : Nat) (r : List Byte) (s : Chip) : Chip :=
  if s.absent ∨ (s.boot.porter = false ∧ s.fromSponsor node r = false) then s
  else
    let own := s.fromSponsor node r
    let s := s.dropInbox node (message 8 0 r)
    if s.recordFits node r then
      let s := s.storeRecord (recPos r) r
      (if own then s.applyOwn else s).evt REP_EVT_LEDGER_RX
    else (s.inc REP_LEDGER_BAD_CNT).evt REP_EVT_LEDGER_BAD

def execLedger (node : BitVec 16) (record : List Byte) (s : State) : Result := s.onChip (ledgerIn node.toNat record)

end Sys2Proof.Machine
end

