-- ==== Sys2Proof/Machine/Orders.lean ====
section
/-! DEFINITION. Starting an order whose performance reaches the addressed memories (spec/13_management_and_dockets.md R362). -/

namespace Sys2Proof.Machine
open Sys2Proof Sys2Proof.Machine.Reg

/-- An order's docket becomes ready. -/
def State.docketReady (s : State) (id : SlotId) (status : Nat) (body : List Byte) : State :=
  s.withChip (fun c => c.docketReady id status body)

/-- As `Chip.startOrder`, on the whole state. -/
def State.startOrder (s : State) (id : SlotId) (code : Nat) (row : List Byte → Bool)
    (perform : State → Order → List Byte → State) : State :=
  match s.chip.orderAt id code row with
  | none => s
  | some o =>
    let deadline := rd o.bytes 8 8
    if deadline ≠ 0 ∧ deadline ≤ s.chip.ns then s.docketReady id stTimeout []
    else perform (s.withChip (fun c => c.setSlot id { c.slot id with order := some { o with started := true } })) o (o.bytes.drop 16)

/-- A frame that R355 restricts. -/
def Chip.isPlain (s : Chip) (o : Order) : Bool := s.restricted o.path o.keySlot

end Sys2Proof.Machine
end

