-- ==== Sys2Proof/Machine/Updates.lean ====
section
/-! DEFINITION. Updates and planting (spec/22_updates_and_planting.md R528–R540): transfer, verification, PLANT, the instant, the swap,
Shugon's rewrite, the health window and rollback. How cases that the chapter does not name are answered is log entry 23 (DESIGN CHOICE). -/

namespace Sys2Proof.Machine
open Sys2Proof Sys2Proof.Machine.Reg

/-! ### Units (Table 22.1) -/

/-- The UNIT of a TYPE; none for a type that no image updates (R528). -/
def unitOf (kind : Nat) : Option Nat :=
  match kind with
  | 2 => some 2
  | 3 => some 2
  | 4 => some 2
  | 5 => some 1
  | 6 => some 4
  | 7 => some 0
  | 9 => some 0
  | 10 => some 0
  | _ => none

/-- INSTANCE is the one a TYPE takes (Table 22.2). -/
def instOk (kind inst : Nat) : Bool := if kind = 6 then decide (inst < 16) else inst == 255

/-- The entry of a unit in its inactive bank: the staged record. -/
def Chip.stagedItem (s : Chip) (kind inst : Nat) : Option FlashEntry :=
  match s.dir with
  | none => none
  | some d => d.entries.find? (fun e => decide (e.kind = kind ∧ e.inst = inst) && !e.active && e.intact)

/-- A unit is named in an armed planting. -/
def Chip.planted (s : Chip) (kind inst : Nat) : Bool :=
  match s.upd.planting with
  | some p => p.units.contains (kind, inst)
  | none => false

/-! ### Transfer (R532) -/

/-- How far bytes are present without a hole from `pos` on. -/
def reachFrom (segs : List (Nat × Nat)) (pos : Nat) : Nat :=
  segs.foldl (fun pos _ =>
    match segs.find? (fun g => decide (g.1 ≤ pos ∧ pos < g.1 + g.2)) with
    | some g => g.1 + g.2
    | none => pos) pos

/-- The end of a block in the file. -/
def blockEndAt (total b : Nat) : Nat := min total (4096 * (b + 1))

/-- A block is complete. Segments of other blocks play no part, as none crosses a 4 KiB boundary. -/
def Reception.has (r : Reception) (b : Nat) : Bool :=
  decide (blockEndAt r.total b ≤ reachFrom (r.segs.filter (fun g => g.1 / 4096 == b)) (4096 * b))

/-- Blocks still missing. -/
def Reception.missing (r : Reception) : Nat :=
  ((List.range ((r.total + 4095) / 4096)).filter (fun b => !r.has b)).length

/-- UPD_RX follows the reception. -/
def Chip.showRx (s : Chip) : Chip :=
  match s.upd.reception with
  | some r => ((s.put UPD_RX_TYPE r.kind).put UPD_RX_INSTANCE r.inst).put UPD_RX_MISSING r.missing
  | none => ((s.put UPD_RX_TYPE 0).put UPD_RX_INSTANCE 0).put UPD_RX_MISSING 0

def Chip.setReception (s : Chip) (r : Option Reception) : Chip := ({ s with upd := { s.upd with reception := r } } : Chip).showRx

/-- The docket of a PUT_BLOCK: the number of blocks still missing. -/
def State.putOver (s : State) (id : SlotId) (status : Nat) : State :=
  s.docketReady id status (leBytes (match s.chip.upd.reception with
    | some r => r.missing
    | none => 0) 2)

/-- The body of Table 22.4 is well formed for the order's UNIT. -/
def putOk (unit : Nat) (body : List Byte) : Bool :=
  let off := rd body 4 4
  let total := rd body 8 4
  let n := body.length - 16
  decide (17 ≤ body.length) && (unitOf (rd body 0 1) == some unit) && instOk (rd body 0 1) (rd body 1 1) && zeroBytes body [2, 3]
    && decide (257 ≤ total ∧ total ≤ 8388608) && decide (off + n ≤ total) && decide (off % 4096 + n ≤ 4096) && decide (n ≤ 992)

/-- A plain segment carries the FORM byte of an image that is not bound. -/
def showsUnbound (body : List Byte) : Bool :=
  rd body 4 4 == 0 && decide (9 ≤ body.length - 16) && !bit (rd body 24 1) 1

/-- A segment joins its reception. -/
def State.takeSegment (s : State) (id : SlotId) (body : List Byte) : State :=
  let kind := rd body 0 1
  let inst := rd body 1 1
  let off := rd body 4 4
  let total := rd body 8 4
  let data := body.drop 16
  let r := match s.chip.upd.reception with
    | some r => if r.kind = kind ∧ r.inst = inst ∧ r.total = total then r else ⟨kind, inst, total, []⟩
    | none => ⟨kind, inst, total, []⟩
  let b := off / 4096
  let had := r.has b
  let mem := Memory.setBytes s.mem (stagingBase + off) data
  let r := { r with segs := (off, data.length) :: r.segs.filter (fun g => decide (g.1 ≠ off ∨ g.2 ≠ data.length)) }
  let s := { s with mem := mem }
  let blk := Memory.bytes mem (stagingBase + 4096 * b) (blockEndAt total b - 4096 * b)
  if had = false ∧ r.has b ∧ crc32c blk ≠ rd body 12 4 then
    (s.withChip (fun c => ((c.setReception (some { r with segs := r.segs.filter (fun g => g.1 / 4096 != b) })).inc
      UPD_BLOCK_BAD_CNT).evt UPD_EVT_BLOCK_BAD)).putOver id stBadArgs
  else (s.withChip (fun c => c.setReception (some r))).putOver id stDone

def State.putBlock (s : State) (id : SlotId) : State :=
  s.startOrder id 0x30 anyBody (fun s o body =>
    if putOk (rd o.bytes 7 1) body = false then s.putOver id stBadArgs
    else if s.chip.isPlain o ∧ showsUnbound body then s.putOver id stAuthFail
    else if s.chip.planted (rd body 0 1) (rd body 1 1) then s.putOver id stRefused
    else s.takeSegment id body)

def execPutBlock (at_ : SlotId) (s : State) : Result := .next (s.putBlock at_)

/-! ### Verification (R529–R531, R533) -/

/-- Header fields (Table 22.2). -/
def updForm (h : List Byte) : Nat := rd h 8 1
def updDelta (h : List Byte) : Bool := bit (updForm h) 0
def updBound (h : List Byte) : Bool := bit (updForm h) 1
def updLen (h : List Byte) : Nat := rd h 40 4

/-- Step 1: the header is laid out as Table 22.2 says and the file has the length it gives. -/
def updHeaderOk (kind inst keySlot total : Nat) (h : List Byte) : Bool :=
  decide (rd h 0 4 = 0x47495055 ∧ rd h 4 2 = 1 ∧ rd h 6 1 = kind ∧ rd h 7 1 = inst) && decide (updForm h < 4)
    && zeroBytes h [9, 10, 11, 156, 157, 158, 159] && decide (total = 160 + updLen h + 96)
    && (updDelta h || rd h 36 4 == 0) && (!updBound h || (rd h 144 12 == 0 && rd h 12 4 != 0)) && (updBound h == (keySlot == 255))

/-- The output of a delta stream over the active item (Table 22.3): `out` so far; none where the stream is not one. -/
def runDelta (base : List Byte) (len : Nat) : Nat → List Byte → List Byte → Option (List Byte)
  | 0, _, _ => none
  | fuel + 1, p, out =>
    let n := rd p 4 4
    if rd p 1 3 ≠ 0 ∨ p.length < 8 then none
    else match rd p 0 1 with
    | 1 =>
      let src := rd p 8 4
      if p.length < 12 ∨ base.length < src + n then none else runDelta base len fuel (p.drop 12) (out ++ slice base src n)
    | 2 => if p.length < 8 + n then none else runDelta base len fuel (p.drop (8 + (n + 3) / 4 * 4)) (out ++ slice p 8 n)
    | 3 => if rd p 1 7 = 0 ∧ out.length = len then some out else none
    | _ => none

/-- The plain item of a plain payload: itself, or the delta applied to the active item; none where there is none. -/
def Chip.itemOf (s : Chip) (kind inst : Nat) (h payload : List Byte) : Option (List Byte) :=
  if updDelta h then
    match s.activeItem kind inst with
    | some e => runDelta e.item (rd h 44 4) payload.length payload []
    | none => none
  else if payload.length = rd h 44 4 then some payload else none

/-- The largest Shugon (R536). -/
def shugonMax : Nat := 65536

/-- Step 4's check of a program image, and of Shugon's size (R536). -/
def Chip.itemImageOk (s : Chip) (kind inst : Nat) (item : List Byte) : Bool :=
  if kind = 3 then s.imageOk 2 0 item else if kind = 5 then s.imageOk 3 0 item else if kind = 6 then s.imageOk 1 inst item
  else decide (kind ≠ 2 ∨ item.length ≤ shugonMax)

/-- Step 3: LIKENESS, UID and BASE_REV. -/
def Chip.fits (s : Chip) (kind inst : Nat) (h : List Byte) : Bool :=
  decide (rd h 12 4 = 0 ∨ rd h 12 4 = s.get GLB_LIKENESS_CLASS) && decide (rd h 16 16 = 0 ∨ slice h 16 16 = s.uidBytes)
    && (!updDelta h || (match s.activeItem kind inst with
      | some e => e.rev == rd h 36 4
      | none => false))

/-- Only a bound image is accepted (R530): there is no rootstock, or BOOTMODE is 2. -/
def Chip.boundOnly (s : Chip) : Bool := !s.rooted || s.get CLK_STRAP_BOOTMODE == 2

/-- Step 4's plain payload, with the state after the use of its key: a status of its own where it fails. -/
def Chip.openPayload (s : Chip) (keySlot : Nat) (h payload : List Byte) : (Nat ⊕ List Byte) × Chip :=
  if updBound h then (.inr payload, s)
  else
    let u := s.useKey keySlot useImage
    let key := s.keyBytes keySlot
    let n := payload.length - 16
    let nonce := slice h 144 12
    if u.1 = false then (.inl stRefused, u.2)
    else if payload.length < 16 ∨ padTo (Config.gcmTag key nonce h (payload.take n)) 16 ≠ payload.drop n then (.inl stAuthFail, u.2)
    else (.inr (padTo (Config.gcmPlain key nonce h (payload.take n)) n), u.2)

/-- Steps 1 to 4 on a received file: the new entry but for its nonce, or the status of the first failure. -/
def Chip.checkImage (s : Chip) (kind inst keySlot : Nat) (plain : Bool) (file : List Byte) : (Nat ⊕ FlashEntry) × Chip :=
  let h := slice file 0 160
  let payload := slice file 160 (updLen h)
  let sig := slice file (160 + updLen h) 96
  if updHeaderOk kind inst keySlot file.length h = false then (.inl stBadArgs, s)
  else if plain ∧ updBound h = false then (.inl stAuthFail, s)
  else if s.signedOk h sig = false ∨ padTo (Config.sha384 payload) 48 ≠ slice h 96 48 then (.inl stAuthFail, s)
  else if s.fits kind inst h = false ∨ (s.boundOnly ∧ updBound h = false) then (.inl stRefused, s)
  else
    let r := s.openPayload keySlot h payload
    match r.1 with
    | .inl st => (.inl st, r.2)
    | .inr p =>
      match s.itemOf kind inst h p with
      | none => (.inl stAuthFail, r.2)
      | some item =>
        if padTo (Config.sha384 item) 48 ≠ slice h 48 48 then (.inl stAuthFail, r.2)
        else if s.itemImageOk kind inst item = false then (.inl stRefused, r.2)
        else
          let bank := match s.activeItem kind inst with
            | some e => if e.bank = 0 then 1 else 0
            | none => 0
          (.inr { kind := kind, bank := bank, active := false, bound := updBound h, inst := inst, offset := 0, length := 0, itemCrc := 0,
                  rev := rd h 32 4, header := h, sig := sig, nonce := [], item := item, stored := [] }, r.2)

/-- Step 5: the record goes into the inactive bank and the directory. -/
def Chip.stageRecord (s : Chip) (e : FlashEntry) : Chip :=
  let r := s.random 12
  let s := if e.bound then s else r.2
  let e := { e with nonce := if e.bound then [] else r.1 }
  let e := e.written (s.recordBytes e)
  s.rewriteDir (fun l => l.filter (fun x => !(decide (x.kind = e.kind ∧ x.inst = e.inst) && !x.active)) ++ [e])

/-- The unit is staged. -/
def Chip.stage (s : Chip) (kind inst : Nat) : Chip :=
  { s with upd := { s.upd with staged := (kind, inst) :: s.upd.staged.filter (fun u => u != (kind, inst)) } }

def Chip.verifyFailed (s : Chip) (id : SlotId) (status : Nat) : Chip :=
  ((s.inc UPD_VERIFY_FAIL_CNT).evt UPD_EVT_VERIFY_FAIL).docketReady id status []

/-- The received file of a unit; none while a block is missing or another file is being received. -/
def State.received (s : State) (kind inst : Nat) : Option (List Byte) :=
  match s.chip.upd.reception with
  | some r => if r.kind = kind ∧ r.inst = inst ∧ r.missing = 0 then some (Memory.bytes s.mem stagingBase r.total) else none
  | none => none

/-- A reception of the unit is under way. -/
def Chip.receiving (s : Chip) (kind inst : Nat) : Bool :=
  match s.upd.reception with
  | some r => decide (r.kind = kind ∧ r.inst = inst)
  | none => false

/-- Without a transfer the unit is staged again from its record. -/
def Chip.verifyStored (s : Chip) (id : SlotId) (kind inst : Nat) : Chip :=
  match s.stagedItem kind inst with
  | some e => if s.programOk e then (s.stage kind inst).docketReady id stDone (leBytes e.rev 4) else s.verifyFailed id stAuthFail
  | none => s.verifyFailed id stBadArgs

def State.verifyImage (s : State) (id : SlotId) : State :=
  s.startOrder id 0x31 anyBody (fun s o body =>
    let kind := rd body 0 1
    let inst := rd body 1 1
    let keySlot := rd body 2 1
    let plain := s.chip.isPlain o
    s.withChip (fun c =>
      if body.length ≠ 4 ∨ rd body 3 1 ≠ 0 ∨ unitOf kind ≠ some (rd o.bytes 7 1) ∨ instOk kind inst = false
          ∨ (127 < keySlot ∧ keySlot ≠ 255) then c.verifyFailed id stBadArgs
      else if plain ∧ keySlot ≠ 255 then c.verifyFailed id stAuthFail
      else match s.received kind inst with
      | none => if c.receiving kind inst then c.verifyFailed id stBadArgs else c.verifyStored id kind inst
      | some file =>
        let r := c.checkImage kind inst keySlot plain file
        match r.1 with
        | .inl st => r.2.verifyFailed id st
        | .inr e =>
          if e.bound = false ∧ c.vault.trngBad then r.2.verifyFailed id stRefused
          else (((r.2.stageRecord e).setReception none).stage kind inst).docketReady id stDone (leBytes e.rev 4)))

def execVerifyImage (at_ : SlotId) (s : State) : Result := .next (s.verifyImage at_)

/-! ### PLANT (R534) -/

/-- The units of a PLANT body (Table 22.5). -/
def plantUnits (body : List Byte) : List (Nat × Nat) :=
  (List.range (rd body 8 1)).map (fun i => (rd body (12 + 2 * i) 1, rd body (13 + 2 * i) 1))

def isCancel (body : List Byte) : Bool := bit (rd body 9 1) 1

def plantOk (unit : Nat) (body : List Byte) : Bool :=
  unit == 0 && decide (body.length = 12 + 2 * rd body 8 1) && decide (1 ≤ rd body 8 1 ∧ rd body 8 1 ≤ 20) && decide (rd body 9 1 < 4)
    && zeroBytes body [10, 11] && (plantUnits body).all (fun u => (unitOf u.1).isSome && instOk u.1 u.2)

/-- A bench of the planting is in a repair. -/
def Chip.migrating (s : Chip) (b : Nat) : Bool :=
  match s.rep.migration with
  | some m => decide (m.src = b ∨ m.dst = b)
  | none => false

def Chip.plantRefused (s : Chip) (t : Nat) (units : List (Nat × Nat)) : Bool :=
  s.upd.planting.isSome || units.any (fun u => !s.upd.staged.contains u)
    || decide (t < s.ns + 1000000 * s.get UPD_TMR_PLANT_LEAD) || decide (s.ns + 60000000000 < t)
    || units.any (fun u => u.1 == 6 && s.migrating u.2)

/-- A plain PLANT names bound images alone (spec/13_management_and_dockets.md Table 13.5). -/
def Chip.namesUnbound (s : Chip) (units : List (Nat × Nat)) : Bool :=
  units.any (fun u => match s.stagedItem u.1 u.2 with
    | some e => !e.bound
    | none => false)

def plant (id : SlotId) (s : Chip) : Chip :=
  s.startOrder id 0x32 (fun b => !isCancel b) (fun s o body =>
    let t := rd body 0 8
    let units := plantUnits body
    if plantOk (rd o.bytes 7 1) body = false then s.docketReady id stBadArgs []
    else if s.isPlain o ∧ s.namesUnbound units then s.docketReady id stAuthFail []
    else if s.plantRefused t units then s.docketReady id stRefused []
    else
      let p : Planting := ⟨id, t, bit (rd body 9 1) 0, units, [], [], [], none⟩
      let s := { s with upd := { s.upd with planting := some p } }
      ((s.put UPD_STAT_ARMED 1).put UPD_STAT_PHASE 1).put UPD_INSTANT_LO_NS t |>.put UPD_INSTANT_HI_NS (t / 2 ^ 32))

def execPlant (at_ : SlotId) (s : State) : Result := s.onChip (plant at_)

/-- A planting that never reaches its instant, or finds chain time invalid there: its units stay staged. -/
def Chip.disarm (s : Chip) (p : Planting) : Chip :=
  let s := { s with upd := { s.upd with planting := none } }
  ((s.put UPD_STAT_ARMED 0).put UPD_STAT_PHASE 0).docketReady p.at_ stRefused []

def Chip.beforeInstant (s : Chip) : Bool := s.get UPD_STAT_PHASE == 1 || s.get UPD_STAT_PHASE == 2

/-- PLANT with CANCEL 1. -/
def plantCancel (id : SlotId) (s : Chip) : Chip :=
  s.startOrder id 0x32 isCancel (fun s o body =>
    if body.length ≠ 12 ∨ rd body 0 8 ≠ 0 ∨ rd body 8 1 ≠ 0 ∨ 3 < rd body 9 1 ∨ zeroBytes body [10, 11] = false ∨ rd o.bytes 7 1 ≠ 0 then
      s.docketReady id stBadArgs []
    else match s.upd.planting with
    | some p => if s.beforeInstant then (s.docketReady id stDone []).disarm p else s.docketReady id stRefused []
    | none => s.docketReady id stRefused [])

def execPlantCancel (at_ : SlotId) (s : State) : Result := s.onChip (plantCancel at_)

/-- INSTANT less PLANT_WARN has come: WAIT event 8 is pending at the named benches' hands and at Steward (R535, R144). -/
def plantWarn (s : Chip) : Chip :=
  match s.upd.planting with
  | none => s
  | some p =>
    if s.get UPD_STAT_PHASE ≠ 1 ∨ s.ns + 100000 * s.get UPD_TMR_PLANT_WARN < p.instant then s
    else
      s.put UPD_STAT_PHASE 2

def execPlantWarn (s : State) : Result := s.onChip plantWarn

/-! ### The instant (R535, R537) -/

/-- BCH_RING_r as one word. -/
def Chip.ringWord (s : Chip) (r : Nat) : Nat :=
  s.get (BCH_RING_BENCH r) + 16 * s.get (BCH_RING_HAND r) + 64 * s.get (BCH_RING_PORT r) + 2 ^ 10 * s.get (BCH_RING_TAKE_DEPTH r)
    + 2 ^ 17 * s.get (BCH_RING_GIVE_DEPTH r) + 2 ^ 24 * s.get (BCH_RING_FROZEN r) + 2 ^ 25 * s.get (BCH_RING_VALID r)

/-- Rings bound to a bench. -/
def Chip.ringsOf (s : Chip) (core : Nat) : List Nat :=
  (List.range 64).filter (fun r => decide (core < 16) && s.ringValid r && s.get (BCH_RING_BENCH r) == core)

/-- The cell-register owners of a bench as one number: 3 bits each, 0 free. -/
def Chip.ownersOf (s : Chip) (core : Nat) : Nat :=
  ((List.range 8).map (fun i => mget 0 s.cores.cregOwner (8 * core + i) * 8 ^ i)).sum

/-- What a rollback restores of a core. -/
def Chip.saveUnit (s : Chip) (core : Nat) : UnitSave :=
  let img := match s.stagedItem (if core = 17 then 5 else 6) (if core = 17 then 255 else core) with
    | some e => (List.range (imgRings e.item)).map (fun i => rd (imgRing e.item i) 0 1)
    | none => []
  let rings := s.ringsOf core ++ img.filter (fun r => !(s.ringsOf core).contains r)
  { core := core
    ran := (((handsOf core).zipIdx).map (fun e => if (s.hand e.1).state = .halted then 0 else 2 ^ e.2)).sum
    entries := if core = 17 then [s.cores.stewardEntry] else (List.range 4).map (fun h => s.get (BCH_ENTRY_ENTRY core h))
    rings := if core = 17 then [] else rings.map (fun r => (r, s.ringWord r))
    cregs := s.ownersOf core
    cregMap := if core = 17 then 0 else s.get (BCH_CREG_OWNER core)
    fown := if core = 17 then 0 else s.get (BCH_FOWN_OWNER core) }

/-- Ports that are Up, with rate and width. -/
def Chip.portsUp (s : Chip) : List (Nat × Nat × Nat) :=
  (TPort.list.filter (fun p => s.laneState p == laneUp)).map (fun p =>
    (p.num, s.get (TRK_STAT_RATE p.num), s.get (TRK_STAT_WIDTH p.num)))

/-- The directory entries of a unit change places. -/
def Chip.flipItem (s : Chip) (u : Nat × Nat) : Chip :=
  s.rewriteDir (fun l => l.map (fun e => if e.kind = u.1 ∧ e.inst = u.2 then { e with active := !e.active } else e))

/-- The health window runs; a planting of Shugon alone has none. -/
def Chip.enterWindow (s : Chip) (p : Planting) : Chip :=
  if p.units.all (fun u => u.1 == 2) then
    ((s.evt UPD_EVT_KEPT).publish).endPlanting p stDone (plantBody 0 0 0 0)
  else s.put UPD_STAT_PHASE 4

/-- New BEQ table and trunk microcode: the on-chip copy is replaced and every Up port asks for a retrain. -/
def Chip.plantTables (s : Chip) (units : List (Nat × Nat)) : Chip :=
  let s := if units.contains (7, 255) then
      match s.stagedItem 7 255 with
      | some e => s.setBeq e.item
      | none => s
    else s
  if units.contains (7, 255) ∨ units.contains (10, 255) then s.retrainAll 1 else s

/-- The units are activated. -/
def Chip.activate_ (s : Chip) (p : Planting) : Chip :=
  let cores := p.units.filterMap unitCore
  let p := { p with saves := cores.map s.saveUnit, ports := s.portsUp, swapping := cores }
  let rewrite := if p.units.contains (3, 255) then some 3 else if p.units.contains (4, 255) then some 4 else none
  let s := { s with upd := { s.upd with
    planting := some p, staged := s.upd.staged.filter (fun u => !p.units.contains u), rewriting := rewrite } }
  let s := ((s.put UPD_HEALTH_OK 0).inc UPD_PLANT_CNT).evt UPD_EVT_PLANTED
  let s := if rewrite.isSome then s.endOrders (some p.at_) else s
  let s := (p.units.filter (fun u => u.1 == 2)).foldl (fun (s : Chip) u => s.flipItem u) s
  let s := s.plantTables p.units
  let s := cores.foldl (fun (s : Chip) c => s.checkpointCore c) (s.put UPD_STAT_PHASE 3)
  if cores.isEmpty then s.enterWindow p else s

/-- INSTANT has come (R144, R535). -/
def plantInstant (s : Chip) : Chip :=
  match s.upd.planting with
  | none => s
  | some p =>
    if s.beforeInstant = false ∨ s.ns < p.instant then s
    else if s.on CTM_STAT_VALID then s.activate_ p
    else (s.evt UPD_EVT_NOT_PLANTED).disarm p

/-- The record that Shugon rewrites its unit from: the staged one, and in a rollback the ACTIVE one (R537, R539). -/
def Chip.rewriteSource (s : Chip) (kind : Nat) : Option FlashEntry :=
  if s.get UPD_STAT_PHASE = 5 then s.goodItem kind 255 else s.stagedItem kind 255

/-- Steps 2 and 3 of a rewrite (R536, R537): Porter ROM loads Shugon from its ACTIVE record into 0x3_0000–0x3_FFFF and enters it there;
Shugon takes the record that it rewrites from into Porter's data memory, at a place that the spec leaves open (a free value; the entry at
the first byte is DEDUCED; log entry 23). -/
def State.loadShugon (s : State) : State :=
  match s.chip.upd.rewriting, s.chip.goodItem 2 255 with
  | some k, some e =>
    let base := imemBase 16 0 + 0x30000
    let s := { s with mem := Memory.setBytes s.mem base (e.item.take shugonMax), chip := s.chip.unmark base (base + shugonMax) }
    let work := match s.chip.rewriteSource k with
      | some r => (r.header ++ r.sig ++ r.item).take (2 ^ 18)
      | none => []
    let f := s.chip.fresh 18
    let at_ := dmemBase 16 + f.1 % (2 ^ 18 - work.length + 1)
    { s with mem := Memory.setBytes s.mem at_ work, chip := (f.2.unmark at_ (at_ + work.length)).startHand 64 0x30000 }
  | _, _ => s

def State.plantInstant (s : State) : State :=
  let t := s.withChip Sys2Proof.Machine.plantInstant
  if s.chip.upd.rewriting.isNone then t.loadShugon else t

def execPlantInstant (s : State) : Result := .next s.plantInstant

/-! ### Swaps (R535 steps 3 and 4, R539) -/

/-- A core's frozen hands give up their locks and cell registers, and are Halted until they start. -/
def Chip.parkHands (s : Chip) (core : Nat) : Chip := (handsOf core).foldl (fun (s : Chip) h => s.haltHand h) s

/-- The instruction banks of a core change places. -/
def Chip.swapCore (s : Chip) (core : Nat) : Chip :=
  if core = 17 then { s with cores := { s.cores with stewardBank := 1 - s.cores.stewardBank } }
  else s.put (BCH_STAT_ACT_BANK core) (1 - s.get (BCH_STAT_ACT_BANK core))

/-- Rings bound to a bench are unfrozen and take in what waits. -/
def Chip.unfreezeRings (s : Chip) (core : Nat) : Chip :=
  (s.ringsOf core).foldl (fun (s : Chip) r => (s.put (BCH_RING_FROZEN r) 0).refill r) s

/-- A hand of a swapped core starts. Events latched before the swap stay pending (R535). -/
def Chip.startSwapped (s : Chip) (h : HandId) (entry : Nat) : Chip :=
  let x := s.hand h
  let s := s.startHand h entry
  s.setHand h { s.hand h with events := x.events, dbPend := x.dbPend }

/-- Hands of a mask start at the core's ENTRY values. -/
def Chip.startCore (s : Chip) (core mask : Nat) : Chip :=
  if core = 17 then (if mask % 2 = 1 then (s.put BCH_STEWARD_STAT_HALTED 0).startSwapped 65 s.cores.stewardEntry else s)
  else ((handsOf core).zipIdx).foldl (fun (s : Chip) e =>
    if bit mask e.2 then s.startSwapped e.1 (s.get (BCH_ENTRY_ENTRY core e.2)) else s) s

/-- A core is swapped to its new image. -/
def State.swapIn (s : State) (core : Nat) (keep : Bool) : State :=
  match s.chip.stagedItem (if core = 17 then 5 else 6) (if core = 17 then 255 else core) with
  | none => s
  | some e =>
    let img := e.item
    let s := s.withChip (fun c => c.parkHands core)
    let s := (s.loadText core (1 - s.chip.bank core) 0 img).withChip (fun c => c.swapCore core)
    let s := s.withChip (fun c =>
      if core = 17 then { c with cores := { c.cores with stewardEntry := imgEntry img 0 } }
      else ((((c.applyRings core img).applyOwners core img).put (BCH_FOWN_OWNER core) (imgFown img)).unfreezeRings core).applyEntries core img)
    let s := if keep then s else s.loadData core img
    s.withChip (fun c => c.startCore core (imgHands img))

/-- A core is swapped back: the old image, ENTRY values, ring records, ownership and field owners. -/
def State.swapBack (s : State) (v : UnitSave) (keep : Bool) : State :=
  let core := v.core
  let s := s.withChip (fun c => (c.parkHands core).swapCore core)
  let s := s.withChip (fun c =>
    if core = 17 then { c with cores := { c.cores with stewardEntry := v.entries.getD 0 0 } }
    else
      let c := v.rings.foldl (fun (c : Chip) e => (c.put (BCH_RING_FROZEN e.1) 1).ringWrite e.1 (e.2 - 2 ^ 24 * (e.2 / 2 ^ 24 % 2))) c
      let c := (List.range 8).foldl (fun (c : Chip) i => c.setOwner core i (v.cregs / 8 ^ i % 8)) (c.put (BCH_CREG_OWNER core) v.cregMap)
      let c := (c.put (BCH_FOWN_OWNER core) v.fown).unfreezeRings core
      (List.range 4).foldl (fun (c : Chip) h => c.put (BCH_ENTRY_ENTRY core h) (v.entries.getD h 0)) c)
  let s := if keep then s
    else match s.chip.activeItem (if core = 17 then 5 else 6) (if core = 17 then 255 else core) with
    | some e => if s.chip.recordOk e then s.loadData core e.item else s
    | none => s
  s.withChip (fun c => c.startCore core v.ran)

/-- Every core whose hands are all Frozen or Halted is swapped, forward or back. -/
def State.plantFrozen (s : State) : State :=
  match s.chip.upd.planting with
  | none => s
  | some p =>
    let phase := s.chip.get UPD_STAT_PHASE
    if phase ≠ 3 ∧ phase ≠ 5 then s
    else
      let ready := p.swapping.filter (fun c => s.chip.allFrozen c)
      let s := ready.foldl (fun (s : State) c =>
        if phase = 3 then s.swapIn c p.keepData
        else match p.saves.find? (fun v => v.core == c) with
        | some v => s.swapBack v p.keepData
        | none => s) s
      let p := { p with swapping := p.swapping.filter (fun c => !ready.contains c) }
      let s := s.withChip (fun c => { c with upd := { c.upd with planting := some p } })
      if ready.isEmpty ∨ p.swapping ≠ [] then s
      else s.withChip (fun c =>
        if phase = 3 then c.enterWindow p else if c.upd.rewriting.isNone then c.rolledBack p else c)

def execPlantFrozen (s : State) : Result := .next s.plantFrozen

/-! ### Shugon's rewrite (R537) -/

/-- A Vault restart erases every slot whose EXPIRE is 1 (spec/21_vault.md R515). -/
def Chip.vaultRestart (s : Chip) : Chip :=
  (s.loseSlots ((s.vault.slots.filter (fun e => e.2.expire)).map (·.1))).showSlots

/-- Porter's record: the staged one while a new Porter is planted, and the ACTIVE one otherwise. -/
def Chip.porterRecord (s : Chip) (staged : Bool) : Option FlashEntry :=
  match s.stagedItem 3 255 with
  | some e => if staged && s.programOk e then some e else s.goodItem 3 255
  | none => s.goodItem 3 255

/-- Shugon has rewritten its unit and enters Porter firmware, which derives the ledger scion and continues the planting. -/
def State.shugonDone (s : State) : State :=
  match s.chip.upd.rewriting with
  | none => s
  | some k =>
    let back := s.chip.get UPD_STAT_PHASE = 5
    let s := s.loadShugon
    let s := if k = 4 then s.withChip Chip.vaultRestart else s
    let newPorter := match s.chip.upd.planting with
      | some p => !decide back && p.units.contains (3, 255)
      | none => false
    let s := match s.chip.porterRecord newPorter with
      | some e => s.loadPorter e.item
      | none => s
    let more := match s.chip.upd.planting with
      | some p => decide (k = 3) && p.units.contains (4, 255)
      | none => false
    let s := s.withChip (fun c => { c with upd := { c.upd with rewriting := if more then some 4 else none } })
    let s := s.withChip Chip.deriveLedger
    match s.chip.upd.planting with
    | some p => if back ∧ more = false ∧ p.swapping = [] then s.withChip (fun c => c.rolledBack p) else s
    | none => s

def execShugonRewriteDone (s : State) : Result := .next s.shugonDone

/-! ### The end of the health window (R538, R539) -/

/-- Bit of UPD_HEALTH.OK that a unit writes (Table 22.1). -/
def okBit (u : Nat × Nat) : Option Nat :=
  match u.1 with
  | 3 => some 17
  | 4 => some 18
  | 5 => some 16
  | 6 => some u.2
  | 9 => some 19
  | _ => none

/-- The CAUSE with which a unit fails at the end of the window; 0 for a healthy one. -/
def Chip.unitCause (s : Chip) (p : Planting) (u : Nat × Nat) : Nat :=
  match okBit u with
  | some b =>
    if bit (s.get UPD_HEALTH_OK) b = false then 3
    else if u.1 = 4 ∧ s.rooted = false then 5 else 0
  | none =>
    if (u.1 = 7 ∨ u.1 = 10) ∧ p.ports.any (fun e => !(s.portsUp.contains e)) then 6 else 0

def healthWindowEnd (s : Chip) : Chip :=
  match s.upd.planting with
  | none => s
  | some p =>
    if s.get UPD_STAT_PHASE ≠ 4 then s
    else match p.units.find? (fun u => s.unitCause p u != 0) with
    | some u => s.unitFailed u.1 u.2 (s.unitCause p u)
    | none =>
      let s := (p.units.filter (fun u => u.1 != 2)).foldl (fun (s : Chip) u => s.flipItem u) s
      ((s.evt UPD_EVT_KEPT).publish).endPlanting p stDone (plantBody 0 0 0 0)

def execHealthWindowEnd (s : State) : Result := s.onChip healthWindowEnd

end Sys2Proof.Machine
end

