-- ==== Sys2Proof/Machine/Repair.lean ====
section
/-! DEFINITION. The REPAIR order and what it starts: bench migration, lane sparing, remap and root swap
(spec/23_in_service_repair.md R541–R553). -/

namespace Sys2Proof.Machine
open Sys2Proof Sys2Proof.Machine.Reg

/-! ### The order (R541, R542) -/

/-- A REPAIR order of an action: BAD_ARGS for a body out of range, REFUSED while another repair or a power sequence runs or in the
action's own cases; otherwise BUSY and ACTION show it while it runs. -/
def State.repairOrder (s : State) (id : SlotId) (action : Nat) (bad : List Byte → Bool) (refused : Chip → List Byte → Bool)
    (perform : State → List Byte → State) : State :=
  s.startOrder id 0x90 (fun b => rd b 0 1 == action) (fun s _ body =>
    if bad body then s.docketReady id stBadArgs []
    else if s.chip.on REP_STAT_BUSY ∨ s.chip.power.seq.isSome ∨ refused s.chip body then s.docketReady id stRefused []
    else perform (s.withChip (fun c => (c.put REP_STAT_BUSY 1).put REP_STAT_ACTION action)) body)

/-! ### Bench migration (R543, R544) -/

def migrateBad (b : List Byte) : Bool := decide (15 < rd b 1 1 ∨ 1 < rd b 2 1) || !zeroBytes b [3, 4, 5, 6, 7]

def Chip.migrateRefused (s : Chip) (b : List Byte) : Bool :=
  let src := rd b 1 1
  let dst := s.get BCH_SPARE_BENCH
  decide (15 < dst ∨ src = dst) || !s.domainOn (coreDomain src) || !s.domainOn (coreDomain dst) || s.planted 6 src

/-- Steps 1 and 2 begin: the bench's rings freeze, and a checkpoint is pending at each hand. -/
def State.migrate (s : State) (id : SlotId) : State :=
  s.repairOrder id 1 migrateBad Chip.migrateRefused (fun s body => s.withChip (fun c =>
    let src := rd body 1 1
    let m : Migration := ⟨id, src, c.get BCH_SPARE_BENCH, bit (rd body 2 1) 0⟩
    ({ c with rep := { c.rep with migration := some m } } : Chip).checkpointCore src))

def execMigrate (at_ : SlotId) (s : State) : Result := .next (s.migrate at_)

/-- A hand of the bench that moves becomes the same hand of the spare; any other stays. -/
def movedHand (src dst : Nat) (h : HandId) : HandId := if h.val < 64 ∧ h.val / 4 = src then benchHand dst (h.val % 4) else h

/-- The instruction before which a hand stalls, issued by another hand. -/
def retarget (i : Instr) (h : HandId) : Instr :=
  match i with
  | .take _ d r c nb => .take h d r c nb
  | .peek _ d r c nb => .peek h d r c nb
  | .give _ d a r c nb eom => .give h d a r c nb eom
  | .moveDir0 _ c a off => .moveDir0 h c a off
  | .tat _ d a b => .tat h d a b
  | .halt _ => .halt h
  | .fenceL _ => .fenceL h
  | .fenceX _ => .fenceX h
  | .fenceK _ d => .fenceK h d
  | .ldx _ d a z => .ldx h d a z
  | .ldxMemoryForm _ a b z => .ldxMemoryForm h a b z
  | .stx _ d a z => .stx h d a z
  | .lock _ d a nb => .lock h d a nb
  | .unlock _ d a => .unlock h d a
  | i => i

/-- A frozen hand as it resumes on the spare (steps 4 and 7, R544). -/
def Hand.resumed (x : Hand) (h : HandId) (tick : Nat) (notify : Bool) : Hand :=
  if x.state = .frozen then
    { x with
      state := x.frozenFrom, wdogFrom := tick - x.wdogFrom, stalled := x.stalled.map (fun i => retarget i h),
      pend0A := x.pend0A || (notify && (x.frozenFrom == .run || x.frozenFrom == .wait) && decide (x.tvec ≠ 0)) }
  else x

/-- What is left of a hand that has moved: Halted, and nothing of it still acts. -/
def Hand.left (x : Hand) : Hand :=
  { x with
    state := .halted, stalled := none, waiting := none, yielding := false, haltAsked := false, checkpoint := false, fence := none,
    alarm := none, failedWrite := none, events := 0, pend05 := none, pend06 := false, pend0A := false }

/-- The hands change benches. -/
def Chip.moveHands (s : Chip) (src dst : Nat) (notify : Bool) : Chip :=
  (List.range 4).foldl (fun (s : Chip) k =>
    let a := benchHand src k
    let b := benchHand dst k
    let x := s.hand a
    (s.setHand b (x.resumed b s.tick notify)).setHand a x.left) s

/-- Cell registers with their ownership. -/
def Chip.moveCregs (s : Chip) (src dst : Nat) : Chip :=
  (List.range 8).foldl (fun (s : Chip) i =>
    let v := mget [] s.cores.cregs (8 * src + i)
    let o := mget 0 s.cores.cregOwner (8 * src + i)
    let s := { s with cores := { s.cores with cregs := mset [] s.cores.cregs (8 * dst + i) v } }
    (s.setOwner dst i o).setOwner src i 0) s

/-- The entries of a map whose keys lie in `[a, a + n)`, moved to `[b, b + n)`, where nothing else is left. -/
def moveKeys {α : Type} [DecidableEq α] (d : α) (m : SMap α) (a b n : Nat) : SMap α :=
  let here (lo k : Nat) : Bool := decide (lo ≤ k) && decide (k < lo + n)
  (m.filter (fun e => here a e.1)).foldl (fun m e => mset d m (e.1 - a + b) e.2) (m.filter (fun e => !here a e.1 && !here b e.1))

/-- The entries of `[a, a + n)` copied to `[b, b + n)`, in place of what is there. -/
def copyKeys {α : Type} [DecidableEq α] (d : α) (m : SMap α) (a b n : Nat) : SMap α :=
  let here (lo k : Nat) : Bool := decide (lo ≤ k) && decide (k < lo + n)
  (m.filter (fun e => here a e.1)).foldl (fun m e => mset d m (e.1 - a + b) e.2) (m.filter (fun e => !here b e.1))

/-- The stores: the active instruction bank is copied, and data memory moved with its error marks, which leaves the old one zeroed. -/
def State.moveStores (s : State) (src dst : Nat) : State :=
  let ia := imemBase src (s.chip.bank src)
  let ib := imemBase dst (s.chip.bank dst)
  let c := s.chip.cores
  { s with
    mem := moveKeys Memory.blank (copyKeys Memory.blank s.mem ia ib (2 ^ 20)) (dmemBase src) (dmemBase dst) (2 ^ 20)
    chip := { s.chip with cores := { c with
      dmark := moveKeys 0 c.dmark (dmemBase src / 4) (dmemBase dst / 4) (2 ^ 18)
      imark := copyKeys false c.imark (ia / 4) (ib / 4) (2 ^ 18) } } }

/-- Locks, requests and posted accesses of the hands follow them (step 6). -/
def Chip.moveAccesses (s : Chip) (src dst : Nat) : Chip :=
  let f := movedHand src dst
  let g (r : FarReq) : FarReq := { r with hand := f r.hand }
  let bus (b : Bus) : Bus :=
    { b with
      lock := b.lock.map f, busy := b.busy.map g, tries := b.tries.map (fun t => { t with hand := f t.hand, req := t.req.map g }) }
  { s with cores := { s.cores with
    buses := s.cores.buses.map (fun e => (e.1, bus e.2))
    remoteWrites := s.cores.remoteWrites.map (fun e => (e.1, g e.2)) } }

/-- BENCH and PORT of the bench's rings (step 5); descriptors queued for them are relinked onto the same-numbered queues of
the new port, in order. -/
def Chip.moveRings (s : Chip) (src dst : Nat) : Chip :=
  let rings := s.ringsOf src
  let old := if src < 8 then 10 else 11
  let new := if dst < 8 then 10 else 11
  let mine (d : Desc) : Bool :=
    match d.use with
    | .ring r => rings.contains r
    | .tunnel _ =>
      let t := (s.block d.blk).cell.tun
      t != 0 && (s.tun t).state != .closed && rings.contains (s.tun t).ring
    | _ => false
  let s := if old = new then s else (List.range 64).foldl (fun (s : Chip) q =>
    let l := s.queue old q
    (s.setQueue new q (s.queue new q ++ l.filter mine)).setQueue old q (l.filter (fun d => !mine d))) s
  rings.foldl (fun (s : Chip) r =>
    let s := s.put (BCH_RING_BENCH r) dst
    if s.get (BCH_RING_PORT r) = old then s.put (BCH_RING_PORT r) new else s) s

/-- Every hand of the bench is Frozen or Halted, and no tag and no MOVE of it is open (step 3). -/
def Chip.mayCopy (s : Chip) (src : Nat) : Bool :=
  s.allFrozen src && (handsOf src).all (fun h => s.tagsHeld h == 0 && (s.hand h).move.isNone)

/-- Steps 4 to 7, and the docket. -/
def State.migrateCopy (s : State) : State :=
  match s.chip.rep.migration with
  | none => s
  | some m =>
    if s.chip.mayCopy m.src = false then s
    else
      let s := s.moveStores m.src m.dst
      s.withChip (fun c =>
        let c := ((c.moveCregs m.src m.dst).moveHands m.src m.dst m.notify).moveAccesses m.src m.dst
        let c := c.moveRings m.src m.dst
        let c := ((c.put (BCH_FOWN_OWNER m.dst) (c.get (BCH_FOWN_OWNER m.src))).put (BCH_FOWN_OWNER m.src) 0).put BCH_SPARE_BENCH m.src
        let c := (c.unfreezeRings m.dst)
        let c := (handsOf m.dst).foldl (fun (c : Chip) h => c.boundary h) c
        let lat := c.fresh 32
        let c := { lat.2 with rep := { lat.2.rep with migration := none } }
        let c := ((c.put REP_MIG_FROM m.src).put REP_MIG_TO m.dst).put REP_MIG_LAT (min (lat.1 / 10) 65535)
        ((c.inc REP_MIG_CNT).evt REP_EVT_MIG_DONE).repairOver m.at_ stDone
          (leBytes m.src 1 ++ leBytes m.dst 1 ++ leBytes 0 2 ++ leBytes lat.1 4))

def execMigrateCopy (s : State) : Result := .next s.migrateCopy

/-! ### Lane sparing (R545–R548). Lanes are named by their numbers at the transmitter -/

/-- The lowest lane of a mask that is not in use. -/
def lowestIdle (mask : Nat) (used : List Nat) : Option Nat := (lanesOf mask).find? (fun n => !used.contains n)

/-- Transmit lanes in use, by logical lane. -/
def Chip.txLanes (s : Chip) (p : TPort) : List Nat :=
  (List.range (widthOf (s.get (TRK_STAT_WIDTH p.num)))).map (fun i => s.get (TRK_LANE_MAP_TX_LOG p.num i))

/-- The transmitter's lane that a receive lane sees. -/
def LanePort.txOf (l : LanePort) (rx : Nat) : Nat := match l.finds.find? (fun f => f.rx.val == rx) with
  | some f => f.tx.val
  | none => rx

/-- The receive lane that sees a transmitter's lane. -/
def LanePort.rxOf (l : LanePort) (tx : Nat) : Nat := match l.finds.find? (fun f => f.tx.val == tx) with
  | some f => f.rx.val
  | none => tx

/-- Lanes p and q of a sparing of logical lane L in this node's transmit direction, or its receive direction; none where L is not in
use or the direction has no passed idle lane. -/
def Chip.sparePair (s : Chip) (p : TPort) (own : Bool) (logical : Nat) : Option (Nat × Nat) :=
  let l := s.lane p
  let lanes := if own then s.txLanes p else (s.activeRx p).map l.txOf
  let mask := if own then l.partnerVerdict.getD 0 else l.txMask (l.verdict.getD 0)
  match lanes[logical]?, lowestIdle mask lanes with
  | some a, some q => some (a, q)
  | _, _ => none

/-- The port is Up and no training runs. -/
def Chip.steady (s : Chip) (p : TPort) : Bool := s.laneState p == laneUp && (s.lane p).attempt == .none

def Chip.setSparing (s : Chip) (p : TPort) (x : Option Sparing) : Chip :=
  { s with rep := { s.rep with sparing := s.rep.sparing.set p x } }

/-- A sparing attempt begins at this end: the transmitter mirrors the lane and sends SPARE, the receiver asks with SPARE_ASK. -/
def Chip.beginSparing (s : Chip) (p : TPort) (id : Option SlotId) (own : Bool) (logical a q : Nat) : Chip :=
  (s.setSparing p (some ⟨id, own, own, logical, a, q⟩)).sendCtl p (.spare (if own then 6 else 5) logical a q 0)

def spareBad (b : List Byte) : Bool := decide (3 < rd b 1 1 ∨ 1 < rd b 2 1 ∨ 7 < rd b 3 1) || !zeroBytes b [4, 5, 6, 7]

def Chip.spareRefused (s : Chip) (p : TPort) (own : Bool) (logical : Nat) : Bool :=
  !s.steady p || (s.sparePair p own logical).isNone || (s.rep.sparing.get p).isSome

/-- REPAIR SPARE_LANE. -/
def State.spareLane (s : State) (id : SlotId) : State :=
  s.repairOrder id 2 spareBad (fun c b => c.spareRefused (tport (rd b 1 1)) (rd b 2 1 == 0) (rd b 3 1)) (fun s body =>
    s.withChip (fun c =>
      let p := tport (rd body 1 1)
      match c.sparePair p (rd body 2 1 == 0) (rd body 3 1) with
      | some x => c.beginSparing p (some id) (rd body 2 1 == 0) (rd body 3 1) x.1 x.2
      | none => c))

def execSpareLane (at_ : SlotId) (s : State) : Result := .next (s.spareLane at_)

/-- AUTO_SPARE (R548): a receive lane in use has logged SPARE_THR header errors within a second. -/
def autoSpare (p : TPort) (lane : Nat) (s : Chip) : Chip :=
  match (s.activeRx p).findIdx? (fun x => x == lane) with
  | none => s
  | some logical =>
    if s.get REP_CTL_AUTO_SPARE = 0 ∨ s.on REP_STAT_BUSY ∨ s.power.seq.isSome ∨ s.spareRefused p false logical then s
    else match s.sparePair p false logical with
    | some x => s.beginSparing p none false logical x.1 x.2
    | none => s

def execAutoSpare (p : TPort) (lane : Fin 9) (s : State) : Result := s.onChip (autoSpare p lane.val)

/-- A received flit of a sparing CTYPE: the link layer takes it as any link control flit, and a flit that passes gives LOGICAL, FROM,
TO and RESULT. -/
def Chip.spareFlit (s : Chip) (p : TPort) (ctype : Nat) (flit : List RxBlock) (f : Chip → Nat → Nat → Nat → Nat → Chip) : Chip :=
  let x := s.rxFlit p flit
  let r := x.2.receive p x.1
  match r.1 with
  | none => r.2
  | some w =>
    if hdrKind w = 1 ∧ ctlOf w = ctype ∧ rd w 5 1 = 1 then f r.2 (rd w 8 1) (rd w 9 1) (rd w 10 1) (rd w 11 1) else r.2

/-- SPARE_ASK: this end's transmitter mirrors lane L onto its lowest passed idle lane, and sends SPARE. -/
def execSpareAsk (p : TPort) (flit : List RxBlock) (s : State) : Result := s.onChip (fun c =>
  c.spareFlit p 5 flit (fun c logical _ _ _ =>
    if c.spareRefused p true logical then c
    else match c.sparePair p true logical with
    | some x => c.beginSparing p none true logical x.1 x.2
    | none => c))

/-- SPARE: the receiver locks and aligns lane q and begins the dwell. -/
def execSpare (p : TPort) (flit : List RxBlock) (s : State) : Result := s.onChip (fun c =>
  c.spareFlit p 6 flit (fun c logical a q _ =>
    match c.rep.sparing.get p with
    | some x => if x.transmits ∨ x.logical ≠ logical then c else c.setSparing p (some { x with copying := true, src := a, dst := q })
    | none => if c.steady p then c.setSparing p (some ⟨none, false, true, logical, a, q⟩) else c))

/-- A sparing attempt has moved its lane at this end: the counts, the event and the docket. -/
def Chip.spared (s : Chip) (p : TPort) (x : Sparing) : Chip :=
  let s := ((s.setSparing p none).inc REP_LANE_SPARE_CNT).evt REP_EVT_SPARE_DONE
  match x.at_ with
  | some id => s.repairOver id stDone (leBytes x.src 1 ++ leBytes x.dst 1)
  | none => s

/-- The receiver maps lane L to the lane that sees `q`; the one that saw `a` counts as not passed until the next training. -/
def Chip.mapRx (s : Chip) (p : TPort) (logical a q : Nat) : Chip :=
  let l := s.lane p
  let s := s.put (TRK_LANE_MAP_RX_LOG p.num logical) (l.rxOf q)
  s.setLane p { l with verdict := l.verdict.map (fun m => clrBit m (l.rxOf a)) }

/-- The dwell ends (R546 steps 3 and 4): without a mismatch the receive map switches and SPARE_ACK goes out. -/
def spareDwell (p : TPort) (clean : Bool) (s : Chip) : Chip :=
  match s.rep.sparing.get p with
  | none => s
  | some x =>
    if x.transmits ∨ x.copying = false then s
    else if clean = false then s.endSparing p 2 true
    else
      let s := (s.mapRx p x.logical x.src x.dst).sendCtl p (.spare 7 x.logical x.src x.dst 0)
      (s.put (TRK_STAT_SPARE_IN_USE_RX p.num) 1).spared p x

def execSpareDwell (p : TPort) (clean : Bool) (s : State) : Result := s.onChip (spareDwell p clean)

/-- SPARE_ACK (R546 step 5): the transmit map switches, and p falls idle. -/
def execSpareAck (p : TPort) (flit : List RxBlock) (s : State) : Result := s.onChip (fun c =>
  c.spareFlit p 7 flit (fun c logical a q _ =>
    match c.rep.sparing.get p with
    | none => c
    | some x =>
      if x.transmits = false ∨ x.logical ≠ logical ∨ x.src ≠ a ∨ x.dst ≠ q then c
      else
        let l := c.lane p
        let c := c.put (TRK_LANE_MAP_TX_LOG p.num logical) q
        let c := c.setLane p { l with partnerVerdict := l.partnerVerdict.map (fun m => clrBit m a) }
        (c.put (TRK_STAT_SPARE_IN_USE_TX p.num) 1).spared p x))

/-- A receiver whose SPARE_ACK was lost has switched already: it goes back to the lane that the transmitter still maps, as both maps
stay as they were (R547). -/
def Chip.unspare (s : Chip) (p : TPort) (logical a q : Nat) : Chip :=
  let l := s.lane p
  if s.steady p ∧ s.get (TRK_LANE_MAP_RX_LOG p.num logical) = l.rxOf q then
    let s := (s.put (TRK_LANE_MAP_RX_LOG p.num logical) (l.rxOf a)).setLane p
      { l with verdict := l.verdict.map (fun m => setBit m (l.rxOf a)) }
    s.put (TRK_STAT_SPARE_IN_USE_RX p.num) (b2n ((s.activeRx p).contains (laneCount p - 1)))
  else s

/-- SPARE_NAK (R547): the attempt ends, and both maps stay as they were. -/
def execSpareNak (p : TPort) (flit : List RxBlock) (s : State) : Result := s.onChip (fun c =>
  c.spareFlit p 8 flit (fun c logical a q result =>
    match c.rep.sparing.get p with
    | some _ => c.endSparing p result false
    | none => c.unspare p logical a q))

/-- SPARE_TMO (R547). -/
def execSpareTmo (p : TPort) (s : State) : Result := s.onChip (fun c => c.endSparing p 1 true)

/-! ### Remap and root swap (R550, R551, R553) -/

def remapBad (b : List Byte) : Bool :=
  let mem := rd b 1 1
  !zeroBytes b [3] || decide (memBanks mem (rd b 2 1) ≤ rd b 4 2 ∨ memRows mem ≤ rd b 6 2)

/-- REPAIR REMAP: the docket gives the spare rows left in the bank. -/
def State.remap (s : State) (id : SlotId) : State :=
  s.repairOrder id 3 remapBad (fun c b => !c.rowFree (rd b 1 1) (rd b 2 1) (rd b 4 2)) (fun s body => s.withChip (fun c =>
    let mem := rd body 1 1
    let inst := rd body 2 1
    let bank := rd body 4 2
    let c := c.remapRow mem inst bank (rd body 6 2)
    c.repairOver id stDone (leBytes (memSpares mem - c.rowsUsed mem inst bank) 2)))

def execRemap (at_ : SlotId) (s : State) : Result := .next (s.remap at_)

/-- REPAIR ROOT_SWAP. -/
def State.rootSwap (s : State) (id : SlotId) : State :=
  s.repairOrder id 4 (fun b => !zeroBytes b [1, 2, 3, 4, 5, 6, 7]) (fun c _ => !c.standbyReady) (fun s _ => s.withChip (fun c =>
    let c := c.swapRoots.reviewClock
    c.repairOver id stDone (leBytes (c.get CLK_STAT_ROOT_ACT) 1)))

def execRootSwap (at_ : SlotId) (s : State) : Result := .next (s.rootSwap at_)

end Sys2Proof.Machine
end

