-- ==== Sys2Proof/Machine/Csr.lean ====
section
/-! DEFINITION. Reads and writes of control and status registers by address (spec/00_scope.md R4–R11, Table 0.3;
spec/13_management_and_dockets.md R372, Table 13.9). One read and one write serve every path: the plain CSR write, the bridge's
windows of KIND 0, remote accesses and the CSR orders. -/

namespace Sys2Proof.Machine
open Sys2Proof Sys2Proof.Machine.Reg

/-- The refusal of R10, and the far error of a block whose power domain is off (R372): both are code 1 of Table 12.2. -/
def Chip.csrReach (s : Chip) (addr : Nat) : Bool := s.domainOn (domainOf (unalias addr))

/-- A whole aligned word of CSR space (R10). -/
def wholeWord (addr : Nat) (size : AccSize) : Bool := decide (size = .word ∧ addr % 4 = 0)

/-! ### Reading -/

/-- LNK_port_STAT (Table 3.9): CREDIT_ZERO reads 0 while the link is Down, its reset value. -/
def Chip.linkStat (s : Chip) (p : TPort) : Nat :=
  let l := s.link p
  let st := match l.state with
    | .down => 0
    | .init => 1
    | .resume => 2
    | .active => 3
  let zero := if l.state = .down then 0 else ((List.range 4).map (fun v => b2n (l.avail v == 0) * 2 ^ v)).sum
  st + 16 * b2n l.rxWait + 32 * b2n l.replayAt.isSome + 64 * b2n (decide (512 ≤ l.replay.length)) + 128 * b2n (s.strict p)
    + 256 * s.holdMask p + 4096 * zero + 65536 * l.replay.length

/-- Whole bytes of a credit, rounded down, as a two's complement field of `w` bits (R196, R198). -/
def creditField (c : Int) (w : Nat) : Nat := unsigned (Int.fdiv c byteCredit) w

/-- TUN_STAT (Table 8.11). -/
def Chip.tunStat (s : Chip) : Nat :=
  let used (lo hi : Nat) (f : Tun → Bool) : Nat := (s.tuns.filter (fun e => decide (lo ≤ e.1 ∧ e.1 < hi) && f e.2)).length
  1 + used 1 1024 (fun x => x.state != .closed) + 2 ^ 11 * used 0 1088 (fun x => x.state == .broken)
    + 2 ^ 22 * used 1024 1088 (fun x => x.state != .closed)

def TunState.code : TunState → Nat
  | .closed => 0
  | .opened => 1
  | .breaking => 2
  | .broken => 3

/-- TUN_CFG_t, TUN_PEER_t, TUN_SEQ_t and TUN_HOLD_t (Table 8.13). -/
def Chip.tunCfg (s : Chip) (t : Nat) : Nat :=
  if t = 0 then 1 + 16 + 32 * 5
  else
    let x := s.tun t
    x.state.code + 8 * b2n x.sink + 16 * b2n x.kept + 32 * x.tc + 256 * x.ring

def Chip.tunSeq (s : Chip) (t : Nat) : Nat :=
  let x := s.tun t
  if x.sink then x.expect + 65536 * x.lastAck else x.next + 65536 * x.oldest

def Chip.tunHold (s : Chip) (t : Nat) : Nat :=
  let x := s.tun t
  x.held.length + 65536 * (x.lowestHeld.getD 0)

/-- BCH_STAT_b (Table 9.8). -/
def Chip.benchStat (s : Chip) (b : Nat) : Nat :=
  let st (h : Nat) : Nat := match (s.hand (benchHand b h)).state with
    | .halted => 0
    | .run => 1
    | .wait => 2
    | .stall => 3
    | .frozen => 4
  st 0 + 8 * st 1 + 64 * st 2 + 512 * st 3 + 4096 * s.get (BCH_STAT_ACT_BANK b) + 8192 * b2n (decide (s.get BCH_SPARE_BENCH = b))

/-- BCH_CREG_b: the owner shown of a free register is the one last written. -/
def Chip.cregWord (s : Chip) (b : Nat) : Nat :=
  let own (c : Nat) : Nat := mget 0 s.cores.cregOwner (8 * b + c)
  ((List.range 8).map (fun c =>
    (if own c = 0 then bits (s.get (BCH_CREG_OWNER b)) (2 * c) 2 else own c - 1) * 4 ^ c + b2n (decide (own c ≠ 0)) * 2 ^ (16 + c))).sum

/-- BRG_STAT (Table 12.6). -/
def Chip.brgStat (s : Chip) : Nat :=
  ((List.range 5).map (fun k => b2n (s.bus k).held * 2 ^ k + b2n (s.bus k).lock.isSome * 2 ^ (5 + k))).sum
    + 1024 * s.get BRG_STAT_I2C_STUCK

def Chip.lockOwner (s : Chip) (k : Nat) : Nat := match (s.bus k).lock with
  | none => 0
  | some h => coreOf h + 32 * handNo h + 128

/-- A register that shows other state of the part; none for one whose fields hold what it reads. -/
def Chip.shown (s : Chip) (base : Nat) (ix : List Nat) : Option Nat :=
  let a := ix.getD 0 0
  let b := ix.getD 1 0
  match base with
  | 0x40004 => some (s.linkStat (tport a))
  | 0x40008 => some ((s.link (tport a)).next + 65536 * (s.link (tport a)).oldest)
  | 0x4000c => some ((s.link (tport a)).expect + 65536 * (s.link (tport a)).ackSent)
  | 0x40010 => some ((s.link (tport a)).epoch % 256 + 256 * ((s.link (tport a)).partnerEpoch % 256))
  | 0x40030 => some ((s.link (tport a)).avail b + 65536 * (s.link (tport a)).limit.get b)
  | 0x60010 => some (s.ns % 2 ^ 32)
  | 0x60014 => some (s.ns / 2 ^ 32)
  | 0x60018 => some (s.stamp % 65536)
  | 0x70004 => some (s.freeShared + 2 ^ 18 * s.get SWX_STAT_FLUSH_BUSY + 2 ^ 19 * b2n s.overdrawn)
  | 0x70014 => some s.keepFree
  | 0x70018 => some s.descFree
  | 0x70108 => some (s.occ a + 2 ^ 31 * b2n (mget false s.sw.full a))
  | 0x7010c => some (s.shr a)
  | 0x80004 => some (s.stagedEntries % 256 + 256 * s.stagedEpochs.length)
  | 0x84000 => some (creditField (s.polCredit a) 25)
  | 0x88300 => some (if s.get (SCH_QRATE_RATE a b) = 0 then 0 else creditField (s.shaperCredit a b) 24)
  | 0x34008 => some s.boot.hid
  | 0x90004 => some s.tunStat
  | 0x91000 => some (s.tunCfg a)
  | 0x91004 => some ((s.tun a).peer + 65536 * (s.tun a).peerTun)
  | 0x91008 => some (s.tunSeq a)
  | 0x9100c => some (s.tunHold a)
  | 0x90800 => some ((s.tun (1024 + a)).peer + 65536 * b2n ((s.tun (1024 + a)).state != .closed))
  | 0x90804 => some ((s.tun (1024 + a)).next + 65536 * (s.tun (1024 + a)).oldest)
  | 0x90808 => some (s.tun (1024 + a)).expect
  | 0xa0004 => some (s.benchStat a)
  | 0xa0030 => some (s.cregWord a)
  | 0xa0104 => some ((s.hand (benchHand a b)).pc.toNat % 65536)
  | 0xa0904 => some s.tagsFree
  | 0xb0004 => some s.brgStat
  | 0xb0040 => some (s.lockOwner a)
  | 0xb0404 => some (winShown 1 (s.get (BRG_WIN_CFG_KIND a)) (s.get (BRG_WIN_BASE_LO_BASE a)))
  | 0xb0408 => some (winShown 2 (s.get (BRG_WIN_CFG_KIND a)) (s.get (BRG_WIN_BASE_HI_BASE a)))
  | 0xb040c => some (winShown 3 (s.get (BRG_WIN_CFG_KIND a)) (s.get (BRG_WIN_ACC_ACC a)))
  | 0x160004 => some (((List.range 4).map (fun i => s.slotsOut i * 128 ^ i)).sum)
  | 0x160400 =>
    let id : SlotId := ⟨⟨s.get MBX_SEL_SESSION % 4, Nat.mod_lt _ (by decide)⟩, ⟨s.get MBX_SEL_SLOT % 64, Nat.mod_lt _ (by decide)⟩⟩
    some (rd (docketBytes (s.readSlot id)) (4 * a) 4)
  | 0xd002c => some s.blockHeld
  | 0xd2000 => some (b2n (mget false s.ends.blockTags a))
  | 0xf0104 => some (s.get (DSP_HSTAT_LINK a) + 2 * s.get (DSP_HSTAT_HPD a) + 4 * s.get (DSP_HSTAT_LANES a)
      + 16 * s.get (DSP_HSTAT_RATE a) + 64 * s.get (DSP_HSTAT_PSR_STATE a) + 256 * s.lineNow a)
  | 0x100110 => some s.field.queue.length
  | 0x130100 => some (s.slotAttr a)
  | 0x130104 => some (s.vslot a).count
  | 0x170004 => some s.tnkStat
  | 0x180020 => some (rd (s.logAt (s.get LOG_SEL_ENTRY)).toBytes (4 * a) 4)
  | _ => none

/-- What a read of a register does besides answering: a latch (R110, R160, R454, R507, R573), a pop of a FIFO (R403,
Table 19.4), a configuration read (R405) or a block tag (R410). -/
def Chip.touch (s : Chip) (base : Nat) (ix : List Nat) : Chip :=
  let a := ix.getD 0 0
  match base with
  | 0x40040 => flitTxLo (tport a) false s
  | 0x40048 => flitTxLo (tport a) true s
  | 0x60010 => s.latchNow
  | 0x20040 => pwrResLo a s
  | 0xc0020 => tsInf a false s
  | 0xc0030 => tsInf a true s
  | 0xd0014 =>
    let f := s.fresh 32
    pciCfgData none f.1 f.2
  | 0xd0024 => btAlloc s
  | 0x100204 => inStampLo ⟨a % 16, Nat.mod_lt _ (by decide)⟩ s
  | 0x120040 => pdRxhdr ⟨a % 2, Nat.mod_lt _ (by decide)⟩ s
  | 0x180100 => logBytesLo a false s
  | 0x180108 => logBytesLo a true s
  | _ => s

/-- A read of a register: a latched word is returned once, and the latch then ends. -/
def Chip.readRow (s : Chip) (addr : Nat) (r : RegRow) (ix : List Nat) : Nat × Chip :=
  let s := s.touch r.base ix
  let latched := mget 0 s.latches addr
  if latched ≠ 0 then (latched - 1, { s with latches := mset 0 s.latches addr 0 })
  else ((s.shown r.base ix).getD (s.fieldsWord (r.fields ix)), s)

/-- A read of a CSR in a domain that is on (R11). -/
def State.csrGet (s : State) (address : Nat) : Nat × State :=
  let addr := unalias address
  match rowAt addr with
  | none => (0, s)
  | some (r, ix) =>
    let a := ix.getD 0 0
    if r.base = 0xa002c then (Memory.read s.mem (s.chip.dloadAt a) 4, s.dload a none)
    else if r.base = 0xe8000 then (Memory.read s.mem (epmemBase + 4 * a) 4, s)
    else if r.base = 0xd2000 then ((s.chip.shown r.base ix).getD 0, { s with chip := btFree a s.chip })
    else
      let x := s.chip.readRow addr r ix
      (x.1 % 2 ^ 32, { s with chip := x.2 })

/-! ### Writing -/

/-- An encoding of a field that is not reserved. -/
def FieldRow.permits (f : FieldRow) (v : Nat) : Bool := f.legal.isEmpty || f.legal.any (fun r => decide (r.1 ≤ v ∧ v ≤ r.2))


/-- A write to one field by its access code (Table 0.3, R5, R8). A W1C bit that hardware has set in the same CLK_FAB cycle stays 1
(R7). WO fields act through their registers' own writes. -/
def Chip.writeField (s : Chip) (v : Nat) (f : FieldRow) : Chip :=
  let x := bits v f.fld.lo f.fld.width
  match f.acc with
  | .ro => s
  | .wo => s
  | .rw => if f.permits x then s.put f.fld x else s
  | .w1c =>
    let hit := s.get f.fld &&& x
    s.put f.fld (s.get f.fld - (hit - (hit &&& s.raisedNow f.fld)))
  | .w1s => s.put f.fld (s.get f.fld ||| x)
  | .rwl => if s.locked f.fld then s else if f.permits x then (s.put f.fld x).lockField f.fld else s

def Chip.writeFields (s : Chip) (fs : List FieldRow) (v : Nat) : Chip := fs.foldl (fun (s : Chip) f => s.writeField v f) s

/-- BCH_CREG_b: OWNER is written, and VALID only while all hands are Halted (Table 9.8). -/
def Chip.cregWrite (s : Chip) (b v : Nat) : Chip :=
  let valid := if s.allHalted b then bits v 16 8 else s.cregWord b / 65536
  (List.range 8).foldl (fun (s : Chip) c => s.setOwner b c (if bit valid c then bits v (2 * c) 2 + 1 else 0))
    (s.put (BCH_CREG_OWNER b) (bits v 0 16))

/-- PCI_CTL: writing PERST_REL 1 releases PERST_N, and 0 drives it low again. -/
def Chip.pciCtl (s : Chip) (v : Nat) : Chip :=
  let s := (s.put PCI_CTL_TGT_GEN (bits v 2 2)).put PCI_CTL_ASPM_L1 (bits v 6 1)
  let s := if bits v 4 2 = 3 then s else s.put PCI_CTL_TGT_WIDTH (bits v 4 2)
  let s := if bit v 1 then perstRel s
    else if s.on PCI_CTL_PERST_REL then (s.put PCI_CTL_PERST_REL 0).emit (.pin "PERST_N" 0 0) else s
  if bit v 0 then s.put PCI_CTL_EN 1 else s

/-- A write to HVI_BRK_c_k: T 0 is reserved for an enabled point (Table 19.2). -/
def Chip.brkWrite (s : Chip) (c k v : Nat) : Chip :=
  let s := (s.put (HVI_BRK_I c k) (bits v 0 16)).put (HVI_BRK_UNIT c k) (bits v 31 1)
  if bits v 0 16 ≠ 0xFFFF ∧ bits v 16 15 = 0 then s else s.put (HVI_BRK_T c k) (bits v 16 15)

/-- CTM_ADJ_FREQ and CTM_ADJ_PHASE are the origin's alone (R158). -/
def Chip.adjFreq (s : Chip) (v : Nat) : Chip := if s.on CTM_STAT_IS_ORIGIN then s.put CTM_ADJ_FREQ_FREQ v else s
def Chip.adjPhase (s : Chip) (v : Nat) : Chip :=
  if s.on CTM_STAT_IS_ORIGIN then s.setChain { s.chain with slew := s.chain.slew + signed v 32 * 2 ^ 24 } else s

/-- Registers whose write does more than set their fields. -/
def Chip.writeRow (s : Chip) (addr : Nat) (r : RegRow) (ix : List Nat) (v : Nat) : Chip :=
  let a := ix.getD 0 0
  let b := ix.getD 1 0
  let plain := s.writeFields (r.fields ix) v
  match r.base with
  | 0x28 => glbHb (BitVec.ofNat 32 v) s
  | 0x10000 => s.pins plain
  | 0x30000 =>
    let p := tport a
    let t := if s.tgtRate p = plain.tgtRate p then plain else plain.setLane p { plain.lane p with fell := 0 }
    let t := if s.tgtRate p = plain.tgtRate p ∧ s.tgtWidth p = plain.tgtWidth p then t else t.publish
    let t := t.showWaiting p
    let t := if bit v 1 then retrainWrite p t else t
    if bit v 8 then t.parkPort p 1 else t
  | 0x40000 => if bit v 2 then forceInit (tport a) plain else plain
  | 0x50000 => if bit v 2 ∧ s.get BRD_CTL_SPONSOR_EN = 0 then plain.startSponsors else plain
  | 0x50008 => plain.publish
  | 0x60000 =>
    let t := if bit v 2 then loadTime plain else plain
    (if bit v 3 then resyncTime t else t).reviewTime
  | 0x60030 => s.adjFreq v
  | 0x60034 => s.adjPhase v
  | 0x70030 => mirCtl (BitVec.ofNat 32 v) s
  | 0x70100 => swxCarve ⟨a % 16, Nat.mod_lt _ (by decide)⟩ (BitVec.ofNat 32 v) s
  | 0x82000 => s.setPolicer a (bits v 0 24) (s.get (SCH_POL_BURST_BURST a))
  | 0x82004 => s.setPolicer a (s.get (SCH_POL_RATE_RATE a)) (bits v 0 24)
  | 0x88000 => gateCtlWrite a v s
  | 0x88010 => gateBankSet addr v s
  | 0x88020 => gateBankSet addr v s
  | 0x88024 => gateBankSet addr v s
  | 0x88400 => gateBankSet addr v s
  | 0x88404 => gateBankSet addr v s
  | 0x88100 =>
    (if bits v 0 16 = 0 then s else s.put (SCH_QCFG_QUANTUM a b) (bits v 0 16)).setShaper a b (s.get (SCH_QRATE_RATE a b)) (bits v 16 16)
  | 0x88200 => s.setShaper a b (bits v 0 24) (s.get (SCH_QCFG_BURST a b))
  | 0xa0030 => s.cregWrite a v
  | 0xa0100 => s.put (BCH_ENTRY_ENTRY a b) (bits v 0 16 / 4 * 4)
  | 0xa0800 => s.ringWrite a v
  | 0xb0400 => s.windowWrite a 0 v
  | 0xb0404 => s.windowWrite a 1 v
  | 0xb0408 => s.windowWrite a 2 v
  | 0xb040c => s.windowWrite a 3 v
  | 0xc0000 => ethCtl a v s
  | 0xd0010 => (s.put PCI_CFG_ADDR_REG (bits v 0 12 / 4 * 4)).put PCI_CFG_ADDR_SELF (bits v 12 1)
  | 0xd0014 => pciCfgData (some v) v s
  | 0xd0018 => s.put PCI_SBUF_BASE_LO_BASE (v / 2 ^ 21 * 2 ^ 21)
  | 0xe0000 => if bit v 0 then usbHostEnable s else usbHostDisable s
  | 0xe0024 =>
    let t := if bits v 2 1 = s.get (USB_PORT_SUSPEND (a + 1)) then s else usbPortSuspend a (bit v 2) s
    if bit v 1 then usbPortReset a t else t
  | 0xe0100 => s.pipeWrite a false v
  | 0xe0104 => s.pipeWrite a true v
  | 0xe0200 => s.devCtl v
  | 0xe0300 => if b = 0 then plain.put (USB_DEP_EN a b) 1 else plain
  | 0xe0380 => s.carveWrite a b v
  | 0xf0100 => s.timingWrite a 0 v
  | 0xf0108 => s.timingWrite a 1 v
  | 0xf010c => s.timingWrite a 2 v
  | 0xf0110 => s.timingWrite a 3 v
  | 0xf0114 => s.timingWrite a 4 v
  | 0xf0118 => s.timingWrite a 5 v
  | 0xf0120 => s.shadowWrite a 0 v
  | 0xf0124 => s.shadowWrite a 1 v
  | 0xf0128 => s.shadowWrite a 2 v
  | 0xf0130 => if bit v 0 then s.commit a else s
  | 0xf0134 => if bit v 0 then s.leavePsr a else s
  | 0xf0140 => if bit v 26 then auxGo a plain else plain
  | 0x100000 => if bit v 0 then s.shutter causeOrder else s
  | 0x100200 => fieldInputEnable ⟨a % 16, Nat.mod_lt _ (by decide)⟩ (BitVec.ofNat 32 v) s
  | 0x110000 => s.writeOwner (bit v 0)
  | 0x110100 => chCtl a v s
  | 0x110120 => s.brkWrite a b v
  | 0x120000 => s.tcCtl a v
  | 0x120010 => pdTxhdr a v s
  | 0x160014 => mbxAck none (BitVec.ofNat 32 v) s
  | 0x170050 => { plain with tink := { plain.tink with bpFrom := plain.tick } }
  | 0x180010 => logConsume v s
  | _ => plain

/-- Writes to TNK registers take effect only in the stance TEST (spec/24_tinker_and_records.md R567). -/
def Chip.tnkShut (s : Chip) (addr : Nat) : Bool := decide (addr / 65536 = 0x17 ∧ s.get GLB_STANCE_STANCE ≠ 1)

/-- A write of a CSR in a domain that is on (R11). The straps that a node reset started here samples are free values
(DESIGN CHOICE, log entry 3). -/
def State.csrPut (s : State) (address v : Nat) : State :=
  let addr := unalias address
  match rowAt addr with
  | none => s
  | some (r, ix) =>
    let a := ix.getD 0 0
    if s.chip.tnkShut addr then s
    else if r.base = 0xa0000 then
      let s := { s with chip := if bit v 8 then s.chip.swapBank a else s.chip }
      let s := { s with chip := s.chip.startBench a (bits v 0 4) }
      s.settle (s.chip.haltBench a (bits v 4 4))
    else if r.base = 0xa0024 then s.iload a v
    else if r.base = 0xa002c then s.dload a (some v)
    else if r.base = 0xe8000 then { s with mem := Memory.write s.mem (epmemBase + 4 * a) 4 v }
    else if r.base = 0x10000 then
      let c := s.chip.writeFields (r.fields ix) v
      if bit v 2 then
        let f := c.fresh 3
        (State.nodeReset { s with chip := f.2 } kindWrite).withChip (fun c => c.sampleStraps f.1)
      else { s with chip := c }
    else if r.base = 0xd0000 then
      let s := { s with chip := s.chip.pciCtl v }
      if bit v 0 then s else s.pciDisable
    else { s with chip := s.chip.writeRow addr r ix v }

/-! ### One access -/

/-- The outcome of one access: a far error code of Table 12.2 (0 for none), and the word read. -/
structure CsrAnswer where
  code : Nat
  value : Nat
  deriving DecidableEq, Repr

/-- A read (R10, R11, R372). -/
def State.csrRead (s : State) (addr : Nat) (size : AccSize) : CsrAnswer × State :=
  if wholeWord addr size = false ∨ s.chip.csrReach addr = false then (⟨1, 0⟩, s)
  else
    let x := s.csrGet addr
    (⟨0, x.1⟩, x.2)

/-- A write (R10, R11, R372). -/
def State.csrWrite (s : State) (addr : Nat) (size : AccSize) (v : Nat) : CsrAnswer × State :=
  if wholeWord addr size = false ∨ s.chip.csrReach addr = false then (⟨1, 0⟩, s)
  else (⟨0, 0⟩, s.csrPut addr v)

/-- CSR_WRITE (R5, R8, R10, R11). -/
def execCsrWrite (addr : BitVec 24) (size : AccSize) (value : Word) (s : State) : Result :=
  .next (s.csrWrite addr.toNat size value.toNat).2

end Sys2Proof.Machine
end

