-- ==== Sys2Proof/Machine/Bridge.lean ====
section
/-! DEFINITION. Far accesses that may reach device CSR space: LDX and STX, their completion, accesses to and from other nodes, the CSR
orders, and a stalled hand's new attempt (spec/11_fungatre_tunnel_instructions.md R320–R323; spec/12_bridge_and_accessory_bus.md R331,
R336, R619; spec/13_management_and_dockets.md R359, R364–R366; spec/09_fungatre_machine.md R257). -/

namespace Sys2Proof.Machine
open Sys2Proof Sys2Proof.Machine.Reg

/-! ### An accepted access -/

/-- An access to device CSR space is performed at once; its result waits for the completion, or is logged where it is posted. -/
def State.deviceAccess (s : State) (r : FarReq) : State :=
  let x := match r.write with
    | none => s.csrRead r.addr r.size
    | some v => s.csrWrite r.addr r.size v.toNat
  match r.tag with
  | some t => { x.2 with chip := x.2.chip.settleTag t x.1.code (BitVec.ofNat 32 x.1.value) }
  | none => if x.1.code = 0 then x.2 else { x.2 with chip := x.2.chip.farLog r.hand r.far.toNat x.1.code false }

/-- The bridge takes an access to its target (Table 12.1). -/
def State.perform (s : State) (r : FarReq) : State :=
  if r.kind = 0 then s.deviceAccess r
  else if r.kind = 4 then { s with chip := s.chip.submitRemote r }
  else match s.chip.reqBus r with
  | some k => { s with chip := s.chip.submit k r }
  | none => s

/-! ### LDX and STX -/

/-- LDX in its register form holds the hand in Stall until the read completes (R321). -/
def State.ldxBody (s : State) (h : HandId) (d a : BitVec 5) (size : AccSize) : State :=
  let c := s.chip
  let far := (c.hand h).w a
  let cause := c.farTrap h far size
  if cause ≠ 0 then s.settle (c.trapHere h cause far)
  else
    let held := c.stall h (.ldx h d a size)
    match c.handTag h with
    | none => { s with chip := held }
    | some t =>
      let r := c.farReq h far size none (some t)
      State.perform { s with chip := held.openTag t ⟨r, .ldxReg d, none⟩ } r

def execLdx (h : HandId) (d a : BitVec 5) (size : AccSize) (s : State) : Result := s.issue h (fun s => s.ldxBody h d a size)

/-- LDX in its memory form: `wb` names the data word (R322). A misaligned wb traps as a misaligned far address does. -/
def State.ldxMemBody (s : State) (h : HandId) (a b : BitVec 5) (size : AccSize) : State :=
  let c := s.chip
  let far := (c.hand h).w a
  let at_ := (c.hand h).w b
  let cause := c.farTrap h far size
  if cause = 2 then s.settle (c.trapHere h 2 far)
  else if at_.toNat % 4 ≠ 0 then s.settle (c.trapHere h 2 at_)
  else if cause ≠ 0 then s.settle (c.trapHere h cause far)
  else match c.handTag h with
    | none => { s with chip := c.stall h (.ldxMemoryForm h a b size) }
    | some t =>
      let r := c.farReq h far size none (some t)
      State.perform { s with chip := (c.openTag t ⟨r, .ldxMem (dataAddr h at_), none⟩).advance h } r

def execLdxMemoryForm (h : HandId) (a b : BitVec 5) (size : AccSize) (s : State) : Result :=
  s.issue h (fun s => s.ldxMemBody h a b size)

/-- STX (R323): posted, it completes for the hand at issue; otherwise it takes a tag. -/
def State.stxBody (s : State) (h : HandId) (d a : BitVec 5) (size : AccSize) : State :=
  let c := s.chip
  let far := (c.hand h).w a
  let cause := c.farTrap h far size
  let v := narrow size ((c.hand h).w d)
  if cause ≠ 0 then s.settle (c.trapHere h cause far)
  else if c.on (BRG_WIN_CFG_POSTED (winOf far)) then
    let r := c.farReq h far size (some v) none
    if r.kind = 4 ∧ c.postedRoom = false then { s with chip := c.stall h (.stx h d a size) }
    else State.perform { s with chip := c.advance h } r
  else match c.handTag h with
    | none => { s with chip := c.stall h (.stx h d a size) }
    | some t =>
      let r := c.farReq h far size (some v) (some t)
      State.perform { s with chip := (c.openTag t ⟨r, .stx, none⟩).advance h } r

def execStx (h : HandId) (d a : BitVec 5) (size : AccSize) (s : State) : Result := s.issue h (fun s => s.stxBody h d a size)

/-! ### The CSR orders (spec/13_management_and_dockets.md R364–R366) -/

/-- Accesses of an order: entries of WRITE_CSR, words of READ_CSR_BLOCK, one for READ_CSR (Table 13.7). -/
def csrCount (code : Nat) (body : List Byte) : Nat := if code = 1 then 1 else if code = 2 then body.length / 12 else rd body 6 2

/-- The far address, size and value of access `i`. -/
def csrFar (code : Nat) (body : List Byte) (i : Nat) : Nat :=
  if code = 2 then rd body (12 * i) 4 else (rd body 0 4 + 4 * i) % 2 ^ 32
def csrSize (code : Nat) (body : List Byte) (i : Nat) : AccSize :=
  match (if code = 2 then rd body (12 * i + 4) 1 else rd body 4 1) with
  | 0 => .byte
  | 1 => .half
  | _ => .word
def csrValue (code : Nat) (body : List Byte) (i : Nat) : Option Word :=
  if code = 2 then some (narrow (csrSize code body i) (BitVec.ofNat 32 (rd body (12 * i + 8) 4))) else none

/-- A body of Table 13.7 with no reserved encoding (R6). -/
def csrBodyOk (code : Nat) (body : List Byte) : Bool :=
  if code = 1 then decide (body.length = 8 ∧ rd body 4 1 < 3) && zeroBytes body [5, 6, 7]
  else if code = 2 then
    decide (body.length % 12 = 0 ∧ 12 ≤ body.length ∧ body.length ≤ 1008)
    && (List.range (body.length / 12)).all (fun i =>
      decide (rd body (12 * i + 4) 1 < 3) && zeroBytes body [12 * i + 5, 12 * i + 6, 12 * i + 7])
  else decide (body.length = 8 ∧ rd body 4 1 = 2 ∧ rd body 5 1 = 0 ∧ 1 ≤ rd body 6 2 ∧ rd body 6 2 ≤ 252)

/-- A plain order reaches nothing but CSR addresses below 0x01_0000 in window 0 (R366). -/
def csrPlainOk (code : Nat) (body : List Byte) : Bool :=
  (List.range (csrCount code body)).all (fun i => decide (csrFar code body i < 65536))

/-- The order in a slot is under way. -/
def Chip.underWay (s : Chip) (id : SlotId) : Bool := match (s.slot id).order with
  | some o => o.started
  | none => false

/-- An order ends, and its tag is free. -/
def Chip.csrDone (s : Chip) (t : Nat) (id : SlotId) (code status done : Nat) (got : List Byte) : Chip :=
  (s.dropTag t).docketReady id status (csrBody code done got)

/-- The accesses of an order from number `done` on, with Porter's tag `t`: those to device CSR space at once, and one to another target
left open until its completion. -/
def State.csrRun (s : State) (t : Nat) (id : SlotId) (code : Nat) (body : List Byte) (done : Nat) (got : List Byte) (fuel : Nat) :
    State :=
  match fuel with
  | 0 => { s with chip := s.chip.csrDone t id code stDone done got }
  | fuel + 1 =>
    if csrCount code body ≤ done then { s with chip := s.chip.csrDone t id code stDone done got }
    else
      let c := s.chip
      let far := BitVec.ofNat 32 (csrFar code body done)
      let size := csrSize code body done
      let cause := c.farTrap 64 far size
      let r := c.farReq 64 far size (csrValue code body done) (some t)
      let kind := c.get (BRG_WIN_CFG_KIND (winOf far))
      if cause = 2 ∨ (cause = 0 ∧ kind = 0 ∧ wholeWord r.addr size = false) then
        { s with chip := c.csrDone t id code stBadArgs done got }
      else if cause ≠ 0 then { s with chip := c.csrDone t id code stFarError done got }
      else if kind = 0 then
        let x := State.deviceAccess { s with chip := c.openTag t ⟨r, .order id done got, none⟩ } r
        match x.chip.tagAt t with
        | some y => match y.result with
          | some (0, v) =>
            if x.chip.underWay id then x.csrRun t id code body (done + 1) (if code = 2 then got else got ++ leBytes v.toNat 4) fuel
            else { x with chip := x.chip.dropTag t }
          | some (e, _) => { x with chip := (x.chip.farLog 64 far.toNat e true).csrDone t id code stFarError done got }
          | none => x
        | none => x
      else if r.write.isSome ∧ c.on (BRG_WIN_CFG_POSTED (winOf far)) ∧ (kind ≠ 4 ∨ c.postedRoom) then
        State.csrRun (s.perform { r with tag := none }) t id code body (done + 1) got fuel
      else State.perform { s with chip := c.openTag t ⟨r, .order id done got, none⟩ } r

/-- An order goes on after an access of its that has completed. -/
def State.csrGoOn (s : State) (t : Nat) : State :=
  match s.chip.tagAt t with
  | some x => match x.kind, x.result with
    | .order id done got, some (0, v) => match (s.chip.slot id).order with
      | some o =>
        let code := rd o.bytes 0 2
        let body := o.bytes.drop 16
        State.csrRun { s with chip := s.chip.dropTag t } t id code body (done + 1)
          (if code = 2 then got else got ++ leBytes v.toNat 4) (csrCount code body)
      | none => { s with chip := s.chip.dropTag t }
    | _, _ => s
  | none => s

/-- A CSR order: it takes a tag of Porter's, and waits while there is none. -/
def State.csrOrder (s : State) (id : SlotId) (code : Nat) : State :=
  match s.chip.handTag 64 with
  | none => s
  | some t => s.startOrder id code anyBody (fun s o body =>
    if csrBodyOk code body = false then s.docketReady id stBadArgs []
    else if s.chip.isPlain o ∧ csrPlainOk code body = false then s.docketReady id stAuthFail []
    else s.csrRun t id code body 0 [] (csrCount code body))

/-- READ_CSR (R365). -/
def execReadCsr (at_ : SlotId) (s : State) : Result := .next (s.csrOrder at_ 1)

/-- WRITE_CSR (R365). -/
def execWriteCsr (at_ : SlotId) (s : State) : Result := .next (s.csrOrder at_ 2)

/-- READ_CSR_BLOCK (R365). -/
def execReadCsrBlock (at_ : SlotId) (s : State) : Result := .next (s.csrOrder at_ 3)

/-! ### Completion -/

/-- FAR_COMPLETION, with the order that its access was for going on (R322, R336, R365). -/
def State.completion (s : State) (a : FarAccess) (code : Nat) (bytes : List Byte) : State :=
  let s := s.farComplete a code bytes
  match a with
  | .tag t => s.csrGoOn t
  | .posted _ => s

def execFarCompletion (access : FarAccess) (code : FarCode) (bytes : List Byte) (s : State) : Result :=
  .next (s.completion access code bytes)

/-! ### Accesses from and to other nodes (R359, R619) -/

/-- The answer to a remote access: RID, CODE 0 or 7, and the data. -/
def Chip.rcsrAnswer (s : Chip) (node rid code value : Nat) : Chip :=
  (s.sendMsg node (message 7 0 (leBytes rid 2 ++ leBytes (if code = 0 then 0 else 7) 1 ++ leBytes (if code = 0 then value else 0) 4))).2

/-- RCSR_RD: performed for a Member of the row while RD_EN is 1. An address beyond the 24-bit space is refused. -/
def State.rcsrRead (s : State) (node rid addr : Nat) : State :=
  let c := s.chip.dropInbox node (message 5 0 (leBytes rid 2 ++ leBytes addr 4))
  if c.on GLB_RCSR_RD_EN ∧ c.isMember node ∧ addr < 2 ^ 24 then
    let x := State.csrRead { s with chip := c } addr .word
    { x.2 with chip := x.2.chip.rcsrAnswer node rid x.1.code x.1.value }
  else { s with chip := c.rcsrAnswer node rid 7 0 }

def execRcsrRd (node rid : BitVec 16) (addr : Word) (s : State) : Result := .next (s.rcsrRead node.toNat rid.toNat addr.toNat)

/-- RCSR_WR: performed for the serving head, and for any Member while WR_ANY is 1. -/
def State.rcsrWrite (s : State) (node rid addr value : Nat) : State :=
  let c := s.chip.dropInbox node (message 6 0 (leBytes rid 2 ++ leBytes addr 4 ++ leBytes value 4))
  if (c.fromServingHead node ∨ (c.on GLB_RCSR_WR_ANY ∧ c.isMember node)) ∧ addr < 2 ^ 24 then
    let x := State.csrWrite { s with chip := c } addr .word value
    { x.2 with chip := x.2.chip.rcsrAnswer node rid x.1.code 0 }
  else { s with chip := c.rcsrAnswer node rid 7 0 }

def execRcsrWr (node rid : BitVec 16) (addr value : Word) (s : State) : Result :=
  .next (s.rcsrWrite node.toNat rid.toNat addr.toNat value.toNat)

/-- RCSR_RSP: it completes the access that holds the tag, or ends a posted write's record, whose CODE 7 is logged as far error 7; any
other response is late, and logged where it reports an error (R619, R337; spec/09_fungatre_machine.md R260). -/
def State.rcsrResponse (s : State) (node rid code : Nat) (v : Word) : State :=
  let c := s.chip.dropInbox node (message 7 0 (leBytes rid 2 ++ leBytes code 1 ++ leBytes v.toNat 4))
  let e := if code = 0 then 0 else 7
  match c.cores.remoteWrites.find? (fun x => decide (x.1 = rid)) with
  | some w =>
    if w.2.acc ≠ node then { s with chip := c.lateResponse rid }
    else
      let c : Chip := { c with cores := { c.cores with remoteWrites := mdel c.cores.remoteWrites rid } }
      { s with chip := if e = 0 then c else c.farLog w.2.hand w.2.far.toNat e false }
  | none => match c.tagAt rid with
    | some x =>
      if x.req.kind = 4 ∧ x.req.acc = node ∧ x.result.isNone then (State.endAccess { s with chip := c } rid x e v).csrGoOn rid
      else { s with chip := c.lateResponse rid }
    | none => { s with chip := c.lateError rid e }

def execRcsrRsp (node rid : BitVec 16) (code : BitVec 8) (value : Word) (s : State) : Result :=
  .next (s.rcsrResponse node.toNat rid.toNat code.toNat value)

/-! ### A stalled hand tries again (spec/09_fungatre_machine.md R257) -/

/-- A request of the hand for a lock is queued. -/
def Chip.lockQueued (s : Chip) (h : HandId) : Bool :=
  (List.range 5).any (fun k => (s.bus k).tries.any (fun t => decide (t.hand = h) && t.req.isNone))

/-- The stalled instruction evaluated again. -/
def State.again (s : State) (h : HandId) (i : Instr) : State :=
  let c := s.chip
  match i with
  | .take _ d ring creg nb => s.settle (takeBody h d ring creg nb false i c)
  | .peek _ d ring creg nb => s.settle (takeBody h d ring creg nb true i c)
  | .give _ d a ring creg nb eom => s.settle (giveBody h d ((c.hand h).w a).toNat ring creg nb eom i c)
  | .moveDir0 _ creg a off => s.settle (moveOut h creg a off c)
  | .tat _ d a b => s.settle (c.tatAgain h d a b)
  | .halt _ => s.settle (c.haltInstr h)
  | .fenceL _ => s.settle (fenceLBody h c)
  | .fenceX _ => s.settle (fenceXBody h c)
  | .fenceK _ d => s.settle (fenceKBody h d c)
  | .lock _ d a nb => if c.lockQueued h then s else s.settle (lockBody h d a nb c)
  | .unlock _ d a => s.settle (unlockBody h d a c)
  | .ldx _ d a size => if c.stalledOnTag h then s else s.ldxBody h d a size
  | .ldxMemoryForm _ a b size => s.ldxMemBody h a b size
  | .stx _ d a size => s.stxBody h d a size
  | _ => s

/-- STALL_RESUME (R257): a cause that is pending is taken first, as at any boundary (R262). -/
def State.resumeStall (s : State) (h : HandId) : State :=
  let x := s.chip.hand h
  match x.state, x.stalled with
  | .stall, some i =>
    if s.chip.coreOn h = false then s
    else if x.pendingCause ∧ s.chip.atBoundary h then s.settle (s.chip.boundary h)
    else s.again h i
  | _, _ => s

def execStallResume (h : HandId) (s : State) : Result := .next (s.resumeStall h)

end Sys2Proof.Machine
end

