-- ==== Sys2Proof/Machine/Firmware.lean ====
section
/-! DEFINITION. Keys that arrive from outside the part, and what Porter firmware does with the row key: the ledger scion, and the
settings of a replaced node (spec/21_vault.md R520, R521; spec/23_in_service_repair.md R556, R559). -/

namespace Sys2Proof.Machine
open Sys2Proof Sys2Proof.Machine.Reg

/-- As `Chip.keyOrder`, for a KEY action whose consequences reach the addressed memories. -/
def State.keyOrder (s : State) (id : SlotId) (action len : Nat) (zeros : List Nat) (perform : State → Order → List Byte → State) :
    State :=
  s.startOrder id 0x70 (fun b => rd b 0 1 == action) (fun s o body =>
    if body.length ≠ len ∨ zeroBytes body zeros = false then s.docketReady id stBadArgs []
    else if s.chip.restricted o.path o.keySlot then s.docketReady id stAuthFail []
    else if s.chip.on VLT_STAT_TAMPERED then s.withChip (fun c => c.keyOver id stRefused [])
    else perform s o body)

/-- 10 s of CLK_FAB. -/
def tenSeconds : Nat := 12000000000

/-- PROVISION is performed (R520): no installed key has USES DERIVE yet, and it comes through tunnel 0 from the serving head within 10 s
of the last admission, or through JTAG. -/
def Chip.provisionOpen (s : Chip) (path : MsgPath) : Bool :=
  s.rowKey.isNone && match path with
  | .jtag => true
  | .tunnel0 n => s.fromServingHead n.toNat && (match s.boot.admitted with
    | some t => decide (s.tick ≤ t + tenSeconds)
    | none => false)
  | .relay n => s.fromServingHead n.toNat && (match s.boot.admitted with
    | some t => decide (s.tick ≤ t + tenSeconds)
    | none => false)
  | _ => false

/-- The settings of this node's own record are applied, in order (R559 step 5). -/
def State.applyOwnRecord (s : State) : State :=
  match s.chip.record (s.chip.get BRD_STAT_POS) with
  | none => s
  | some r => match s.chip.openRecord r with
    | none => s
    | some b => (bodyCsrs b).foldl (fun (s : State) e => (s.csrWrite e.1 .word e.2).2) s

/-- The ledger scion is derived; where this is its first derivation, the own record is opened and applied, and a new one is built and
sent (R556, R559 steps 5 and 6). -/
def State.replacementSettings (s : State) : State :=
  let c := s.chip.deriveLedger
  if s.chip.vault.ledgerKey = 0 ∧ c.vault.ledgerKey ≠ 0 then
    (State.applyOwnRecord { s with chip := c }).withChip (fun c => c.publish)
  else { s with chip := c }

/-- PROVISION (R520). -/
def State.provision (s : State) (id : SlotId) : State :=
  s.keyOrder id 4 41 [3, 4] (fun s o body =>
    let c := s.chip
    let dest := rd body 1 1
    if badDest dest then s.docketReady id stBadArgs []
    else match (if c.provisionOpen o.path then c.destination dest else none) with
    | none => s.withChip (fun c => c.keyOver id stRefused [])
    | some k =>
      let x : VSlot :=
        { kind := 1, uses := rd body 2 1, parent := 0, installed := true, count := rd body 5 4, expire := false, key := slice body 9 32 }
      let s := s.withChip (fun c => (c.takeSlot k x).keyOver id stDone (leBytes k 1))
      s.replacementSettings)

def execProvision (at_ : SlotId) (s : State) : Result := .next (s.provision at_)

/-- The key in a sealed blob, where its tag passes and its MAGIC is right (R521, Table 21.4). -/
def Chip.openBlob (s : Chip) (blob : List Byte) : Option VSlot :=
  let head := slice blob 0 24
  let nonce := slice blob 12 12
  let cipher := slice blob 24 32
  if s.keyValid 0 = false ∨ rd blob 0 4 ≠ 0x4C454153
      ∨ padTo (Config.gcmTag s.sealKey nonce head cipher) 16 ≠ slice blob 56 16 then none
  else some { kind := 1, uses := rd blob 6 1, parent := 0, installed := true, count := rd blob 8 4, expire := false,
              key := padTo (Config.gcmPlain s.sealKey nonce head cipher) 32 }

/-- UNSEAL (R521). A row key that comes back gives the node its ledger scion again (R556). -/
def unsealKey (id : SlotId) (s : Chip) : Chip :=
  s.keyOrder id 6 77 [2, 3, 4] false (fun s _ body =>
    let dest := rd body 1 1
    if badDest dest then s.docketReady id stBadArgs []
    else match s.destination dest, s.openBlob (slice body 5 72) with
    | some k, some x => ((s.takeSlot k x).keyOver id stDone (leBytes k 1)).deriveLedger
    | _, _ => s.keyOver id stRefused [])

def execUnseal (at_ : SlotId) (s : State) : Result := s.onChip (unsealKey at_)

end Sys2Proof.Machine
end

