-- ==== Sys2Proof/Machine/Dispatch.lean ====
section
/-! DEFINITION. The dispatch: one arm per command, in the order of spec/opcode_table.json, each one call of its meaning. -/

namespace Sys2Proof.Machine

def exec (i : Instr) (s : State) : Host.Outcome State Fault Refusal :=
  match i with
  | .csrWrite addr size value => Sys2Proof.Machine.execCsrWrite addr size value s
  | .coldReset straps => Sys2Proof.Machine.execColdReset straps s
  | .resetN straps => Sys2Proof.Machine.execResetN straps s
  | .nodeReset straps => Sys2Proof.Machine.execNodeReset straps s
  | .brownOut straps => Sys2Proof.Machine.execBrownOut straps s
  | .clockRecovery straps lockA lockB => Sys2Proof.Machine.execClockRecovery straps lockA lockB s
  | .startUp found => Sys2Proof.Machine.execStartUp found s
  | .trainingGateOpen => Sys2Proof.Machine.execTrainingGateOpen s
  | .seedRetry => Sys2Proof.Machine.execSeedRetry s
  | .seedReq p cell => Sys2Proof.Machine.execSeedReq p cell s
  | .seedData p cell => Sys2Proof.Machine.execSeedData p cell s
  | .headDecision => Sys2Proof.Machine.execHeadDecision s
  | .losAssert p lane => Sys2Proof.Machine.execLosAssert p lane s
  | .losDeassert p lane => Sys2Proof.Machine.execLosDeassert p lane s
  | .lol p out => Sys2Proof.Machine.execLol p out s
  | .lockLost p lane bad => Sys2Proof.Machine.execLockLost p lane bad s
  | .flushDone p => Sys2Proof.Machine.execFlushDone p s
  | .driftTrack p lane later => Sys2Proof.Machine.execDriftTrack p lane later s
  | .hidChanged hid => Sys2Proof.Machine.execHidChanged hid s
  | .trainingStart p => Sys2Proof.Machine.execTrainingStart p s
  | .ts1 p found blk => Sys2Proof.Machine.execTs1 p found blk s
  | .ts2 p blk => Sys2Proof.Machine.execTs2 p blk s
  | .ts3 p blk => Sys2Proof.Machine.execTs3 p blk s
  | .verifyDwellEnd p errors tails => Sys2Proof.Machine.execVerifyDwellEnd p errors tails s
  | .ts4 p blk => Sys2Proof.Machine.execTs4 p blk s
  | .ts5 p blk => Sys2Proof.Machine.execTs5 p blk s
  | .retrainRequest p blk => Sys2Proof.Machine.execRetrainRequest p blk s
  | .parkBlock p blk => Sys2Proof.Machine.execParkBlock p blk s
  | .trainTmo p => Sys2Proof.Machine.execTrainTmo p s
  | .retryInt p => Sys2Proof.Machine.execRetryInt p s
  | .fastTmo p => Sys2Proof.Machine.execFastTmo p s
  | .retrain p => Sys2Proof.Machine.execRetrain p s
  | .park p => Sys2Proof.Machine.execPark p s
  | .cellFlit p flit => Sys2Proof.Machine.execCellFlit p flit s
  | .flitFail p flit => Sys2Proof.Machine.execFlitFail p flit s
  | .poisonFlit p flit => Sys2Proof.Machine.execPoisonFlit p flit s
  | .idleFlit p flit => Sys2Proof.Machine.execIdleFlit p flit s
  | .init p flit => Sys2Proof.Machine.execInit p flit s
  | .resume p flit => Sys2Proof.Machine.execResume p flit s
  | .nak p flit => Sys2Proof.Machine.execNak p flit s
  | .hold p flit => Sys2Proof.Machine.execHold p flit s
  | .holdInt p => Sys2Proof.Machine.execHoldInt p s
  | .handshakeRepeat p => Sys2Proof.Machine.execHandshakeRepeat p s
  | .replayTmo p => Sys2Proof.Machine.execReplayTmo p s
  | .nakTmo p => Sys2Proof.Machine.execNakTmo p s
  | .creditTmo p vc => Sys2Proof.Machine.execCreditTmo p vc s
  | .handshakeTmo p => Sys2Proof.Machine.execHandshakeTmo p s
  | .forceInit p => Sys2Proof.Machine.execForceInit p s
  | .flitTxLo p rx => Sys2Proof.Machine.execFlitTxLo p rx s
  | .flitTransmit p ecc => Sys2Proof.Machine.execFlitTransmit p ecc s
  | .crcVerdict p => Sys2Proof.Machine.execCrcVerdict p s
  | .heldCellRetry ingress => Sys2Proof.Machine.execHeldCellRetry ingress s
  | .swxCarve p value => Sys2Proof.Machine.execSwxCarve p value s
  | .mirCtlEn value => Sys2Proof.Machine.execMirCtlEn value s
  | .scrub found => Sys2Proof.Machine.execScrub found s
  | .gateEntry p => Sys2Proof.Machine.execGateEntry p s
  | .arm p value => Sys2Proof.Machine.execArm p value s
  | .gateSwitch p => Sys2Proof.Machine.execGateSwitch p s
  | .policerRetry ring => Sys2Proof.Machine.execPolicerRetry ring s
  | .allotRequest at_ => Sys2Proof.Machine.execAllotRequest at_ s
  | .allotStage at_ => Sys2Proof.Machine.execAllotStage at_ s
  | .allotCommit at_ => Sys2Proof.Machine.execAllotCommit at_ s
  | .allotCancel at_ => Sys2Proof.Machine.execAllotCancel at_ s
  | .allotGuard ref => Sys2Proof.Machine.execAllotGuard ref s
  | .epochApplied => Sys2Proof.Machine.execEpochApplied s
  | .allotDocket ref => Sys2Proof.Machine.execAllotDocket ref s
  | .tunnelOpen at_ => Sys2Proof.Machine.execTunnelOpen at_ s
  | .tunnelClose at_ => Sys2Proof.Machine.execTunnelClose at_ s
  | .dataCell cell ecc => Sys2Proof.Machine.execDataCell cell ecc s
  | .ackInt t => Sys2Proof.Machine.execAckInt t s
  | .ack cell ecc => Sys2Proof.Machine.execAck cell ecc s
  | .holeTmo t => Sys2Proof.Machine.execHoleTmo t s
  | .resend cell ecc => Sys2Proof.Machine.execResend cell ecc s
  | .keepTmo t => Sys2Proof.Machine.execKeepTmo t s
  | .looseHold t => Sys2Proof.Machine.execLooseHold t s
  | .breakCell cell ecc => Sys2Proof.Machine.execBreakCell cell ecc s
  | .peerIdle k => Sys2Proof.Machine.execPeerIdle k s
  | .start b mask => Sys2Proof.Machine.execStart b mask s
  | .haltRequest b mask => Sys2Proof.Machine.execHaltRequest b mask s
  | .swap b => Sys2Proof.Machine.execSwap b s
  | .iload b value => Sys2Proof.Machine.execIload b value s
  | .dload b value => Sys2Proof.Machine.execDload b value s
  | .ringBind r value => Sys2Proof.Machine.execRingBind r value s
  | .wdogExpiry h => Sys2Proof.Machine.execWdogExpiry h s
  | .tagTimeout tag => Sys2Proof.Machine.execTagTimeout tag s
  | .benchScrub b found => Sys2Proof.Machine.execBenchScrub b found s
  | .stallResume h => Sys2Proof.Machine.execStallResume h s
  | .add h d a b => Sys2Proof.Machine.execAdd h d a b s
  | .sub h d a b => Sys2Proof.Machine.execSub h d a b s
  | .and h d a b => Sys2Proof.Machine.execAnd h d a b s
  | .or h d a b => Sys2Proof.Machine.execOr h d a b s
  | .xor h d a b => Sys2Proof.Machine.execXor h d a b s
  | .andn h d a b => Sys2Proof.Machine.execAndn h d a b s
  | .sll h d a b => Sys2Proof.Machine.execSll h d a b s
  | .srl h d a b => Sys2Proof.Machine.execSrl h d a b s
  | .sra h d a b => Sys2Proof.Machine.execSra h d a b s
  | .ror h d a b => Sys2Proof.Machine.execRor h d a b s
  | .cmp h d a b => Sys2Proof.Machine.execCmp h d a b s
  | .min h d a b => Sys2Proof.Machine.execMin h d a b s
  | .max h d a b => Sys2Proof.Machine.execMax h d a b s
  | .minu h d a b => Sys2Proof.Machine.execMinu h d a b s
  | .maxu h d a b => Sys2Proof.Machine.execMaxu h d a b s
  | .mul h d a b => Sys2Proof.Machine.execMul h d a b s
  | .mulh h d a b => Sys2Proof.Machine.execMulh h d a b s
  | .mulhu h d a b => Sys2Proof.Machine.execMulhu h d a b s
  | .div h d a b => Sys2Proof.Machine.execDiv h d a b s
  | .divu h d a b => Sys2Proof.Machine.execDivu h d a b s
  | .rem h d a b => Sys2Proof.Machine.execRem h d a b s
  | .remu h d a b => Sys2Proof.Machine.execRemu h d a b s
  | .clz h d a => Sys2Proof.Machine.execClz h d a s
  | .popc h d a => Sys2Proof.Machine.execPopc h d a s
  | .bswap h d a => Sys2Proof.Machine.execBswap h d a s
  | .sextb h d a => Sys2Proof.Machine.execSextb h d a s
  | .sexth h d a => Sys2Proof.Machine.execSexth h d a s
  | .addi h d a imm => Sys2Proof.Machine.execAddi h d a imm s
  | .andi h d a imm => Sys2Proof.Machine.execAndi h d a imm s
  | .ori h d a imm => Sys2Proof.Machine.execOri h d a imm s
  | .xori h d a imm => Sys2Proof.Machine.execXori h d a imm s
  | .lui h d imm => Sys2Proof.Machine.execLui h d imm s
  | .shifti h d a imm => Sys2Proof.Machine.execShifti h d a imm s
  | .cmpi h d a imm => Sys2Proof.Machine.execCmpi h d a imm s
  | .ldw h d a imm => Sys2Proof.Machine.execLdw h d a imm s
  | .ldh h d a imm => Sys2Proof.Machine.execLdh h d a imm s
  | .ldb h d a imm => Sys2Proof.Machine.execLdb h d a imm s
  | .stw h d a imm => Sys2Proof.Machine.execStw h d a imm s
  | .sth h d a imm => Sys2Proof.Machine.execSth h d a imm s
  | .stb h d a imm => Sys2Proof.Machine.execStb h d a imm s
  | .br h cond a imm => Sys2Proof.Machine.execBr h cond a imm s
  | .jal h d off => Sys2Proof.Machine.execJal h d off s
  | .jalr h d a imm => Sys2Proof.Machine.execJalr h d a imm s
  | .csrr h d num => Sys2Proof.Machine.execCsrr h d num s
  | .cycleLo h d instret => Sys2Proof.Machine.execCycleLo h d instret s
  | .csrw h a num => Sys2Proof.Machine.execCsrw h a num s
  | .cregClaim h a => Sys2Proof.Machine.execCregClaim h a s
  | .cregFree h a => Sys2Proof.Machine.execCregFree h a s
  | .doorbell h a => Sys2Proof.Machine.execDoorbell h a s
  | .wdog h a => Sys2Proof.Machine.execWdog h a s
  | .trap h imm => Sys2Proof.Machine.execTrap h imm s
  | .eret h => Sys2Proof.Machine.execEret h s
  | .yield h imm => Sys2Proof.Machine.execYield h imm s
  | .yieldEnd h => Sys2Proof.Machine.execYieldEnd h s
  | .halt h => Sys2Proof.Machine.execHalt h s
  | .take h d ring creg nb => Sys2Proof.Machine.execTake h d ring creg nb s
  | .peek h d ring creg nb => Sys2Proof.Machine.execPeek h d ring creg nb s
  | .give h d a ring creg nb eom => Sys2Proof.Machine.execGive h d a ring creg nb eom s
  | .cellExtr h d creg b size off => Sys2Proof.Machine.execCellExtr h d creg b size off s
  | .cellEdit h d creg b size off => Sys2Proof.Machine.execCellEdit h d creg b size off s
  | .cellCrc h d creg b ieee len => Sys2Proof.Machine.execCellCrc h d creg b ieee len s
  | .moveDir0 h creg a off => Sys2Proof.Machine.execMoveDir0 h creg a off s
  | .moveDone h => Sys2Proof.Machine.execMoveDone h s
  | .moveDir1 h creg a off => Sys2Proof.Machine.execMoveDir1 h creg a off s
  | .wait h d a imm => Sys2Proof.Machine.execWait h d a imm s
  | .waitEvent h => Sys2Proof.Machine.execWaitEvent h s
  | .waitTimeout h => Sys2Proof.Machine.execWaitTimeout h s
  | .tnow h d b => Sys2Proof.Machine.execTnow h d b s
  | .tat h d a b => Sys2Proof.Machine.execTat h d a b s
  | .talm h a => Sys2Proof.Machine.execTalm h a s
  | .talmCancel h => Sys2Proof.Machine.execTalmCancel h s
  | .chainTimeAlarm h => Sys2Proof.Machine.execChainTimeAlarm h s
  | .seqNext h d a => Sys2Proof.Machine.execSeqNext h d a s
  | .seqLast h d a => Sys2Proof.Machine.execSeqLast h d a s
  | .seqState h d a => Sys2Proof.Machine.execSeqState h d a s
  | .fenceL h => Sys2Proof.Machine.execFenceL h s
  | .fenceX h => Sys2Proof.Machine.execFenceX h s
  | .fenceK h d => Sys2Proof.Machine.execFenceK h d s
  | .ldx h d a size => Sys2Proof.Machine.execLdx h d a size s
  | .ldxMemoryForm h a b size => Sys2Proof.Machine.execLdxMemoryForm h a b size s
  | .stx h d a size => Sys2Proof.Machine.execStx h d a size s
  | .farCompletion access code bytes => Sys2Proof.Machine.execFarCompletion access code bytes s
  | .lock h d a nb => Sys2Proof.Machine.execLock h d a nb s
  | .lockGranted k => Sys2Proof.Machine.execLockGranted k s
  | .unlock h d a => Sys2Proof.Machine.execUnlock h d a s
  | .windowConfig n reg value => Sys2Proof.Machine.execWindowConfig n reg value s
  | .arbitration k => Sys2Proof.Machine.execArbitration k s
  | .backOff k h => Sys2Proof.Machine.execBackOff k h s
  | .prefetchDiscard n => Sys2Proof.Machine.execPrefetchDiscard n s
  | .lockWdog k sda => Sys2Proof.Machine.execLockWdog k sda s
  | .i2cStuck bus => Sys2Proof.Machine.execI2cStuck bus s
  | .i2cUnstuck bus => Sys2Proof.Machine.execI2cUnstuck bus s
  | .rcsrRd node rid addr => Sys2Proof.Machine.execRcsrRd node rid addr s
  | .rcsrWr node rid addr value => Sys2Proof.Machine.execRcsrWr node rid addr value s
  | .rcsrRsp node rid code value => Sys2Proof.Machine.execRcsrRsp node rid code value s
  | .rcsrRecordTimeout rid => Sys2Proof.Machine.execRcsrRecordTimeout rid s
  | .managementFrame path bytes => Sys2Proof.Machine.execManagementFrame path bytes s
  | .frame node bytes => Sys2Proof.Machine.execFrame node bytes s
  | .order path sess keyed bytes => Sys2Proof.Machine.execOrder path sess keyed bytes s
  | .read path at_ => Sys2Proof.Machine.execRead path at_ s
  | .mbxAck source value => Sys2Proof.Machine.execMbxAck source value s
  | .heartbeatExpiry => Sys2Proof.Machine.execHeartbeatExpiry s
  | .glbHb value => Sys2Proof.Machine.execGlbHb value s
  | .mboxIn value last => Sys2Proof.Machine.execMboxIn value last s
  | .mboxOut => Sys2Proof.Machine.execMboxOut s
  | .idcode => Sys2Proof.Machine.execIdcode s
  | .bypass code => Sys2Proof.Machine.execBypass code s
  | .extest => Sys2Proof.Machine.execExtest s
  | .samplePreload => Sys2Proof.Machine.execSamplePreload s
  | .readCsr at_ => Sys2Proof.Machine.execReadCsr at_ s
  | .writeCsr at_ => Sys2Proof.Machine.execWriteCsr at_ s
  | .readCsrBlock at_ => Sys2Proof.Machine.execReadCsrBlock at_ s
  | .trellisAdmit at_ => Sys2Proof.Machine.execTrellisAdmit at_ s
  | .trellisPrune at_ => Sys2Proof.Machine.execTrellisPrune at_ s
  | .trellisOverride at_ => Sys2Proof.Machine.execTrellisOverride at_ s
  | .graftNotice p cell => Sys2Proof.Machine.execGraftNotice p cell s
  | .splitNotice p cell => Sys2Proof.Machine.execSplitNotice p cell s
  | .rejoinNotice p cell => Sys2Proof.Machine.execRejoinNotice p cell s
  | .admitNotice p cell => Sys2Proof.Machine.execAdmitNotice p cell s
  | .refuseNotice p cell => Sys2Proof.Machine.execRefuseNotice p cell s
  | .dormantNotice p cell => Sys2Proof.Machine.execDormantNotice p cell s
  | .trellisNotice p cell => Sys2Proof.Machine.execTrellisNotice p cell s
  | .query p cell => Sys2Proof.Machine.execQuery p cell s
  | .ident p cell => Sys2Proof.Machine.execIdent p cell s
  | .sponsorWait p => Sys2Proof.Machine.execSponsorWait p s
  | .admitTmo p => Sys2Proof.Machine.execAdmitTmo p s
  | .restore p => Sys2Proof.Machine.execRestore p s
  | .holdoff p => Sys2Proof.Machine.execHoldoff p s
  | .recoveryHold p => Sys2Proof.Machine.execRecoveryHold p s
  | .beaconDue p => Sys2Proof.Machine.execBeaconDue p s
  | .beacon p flit stamp => Sys2Proof.Machine.execBeacon p flit stamp s
  | .lossTmo p => Sys2Proof.Machine.execLossTmo p s
  | .holdoverLim => Sys2Proof.Machine.execHoldoverLim s
  | .originWait => Sys2Proof.Machine.execOriginWait s
  | .load => Sys2Proof.Machine.execLoad s
  | .resync => Sys2Proof.Machine.execResync s
  | .adjPhase value => Sys2Proof.Machine.execAdjPhase value s
  | .ctmNowLo => Sys2Proof.Machine.execCtmNowLo s
  | .refMonitorTrip => Sys2Proof.Machine.execRefMonitorTrip s
  | .lockMonitorTrip root => Sys2Proof.Machine.execLockMonitorTrip root s
  | .freqMonitorTrip root => Sys2Proof.Machine.execFreqMonitorTrip root s
  | .ethLinkUp p => Sys2Proof.Machine.execEthLinkUp p s
  | .ethLinkDown p part => Sys2Proof.Machine.execEthLinkDown p part s
  | .ethFrameRx p frame => Sys2Proof.Machine.execEthFrameRx p frame s
  | .ethFrameTx p queue ecc => Sys2Proof.Machine.execEthFrameTx p queue ecc s
  | .tsrxInf p tx => Sys2Proof.Machine.execTsrxInf p tx s
  | .perstRel => Sys2Proof.Machine.execPerstRel s
  | .pciCfgData write value => Sys2Proof.Machine.execPciCfgData write value s
  | .pciCplTmo tag => Sys2Proof.Machine.execPciCplTmo tag s
  | .pciLinkDown => Sys2Proof.Machine.execPciLinkDown s
  | .inboundRequest addr len write => Sys2Proof.Machine.execInboundRequest addr len write s
  | .sbufWr ring cell ecc => Sys2Proof.Machine.execSbufWr ring cell ecc s
  | .sbufRd ring cell ecc => Sys2Proof.Machine.execSbufRd ring cell ecc s
  | .btAlloc => Sys2Proof.Machine.execBtAlloc s
  | .btFree tag => Sys2Proof.Machine.execBtFree tag s
  | .usbPortReset k => Sys2Proof.Machine.execUsbPortReset k s
  | .usbPortResetEnd k speed => Sys2Proof.Machine.execUsbPortResetEnd k speed s
  | .usbConnect k => Sys2Proof.Machine.execUsbConnect k s
  | .usbDisconnect k => Sys2Proof.Machine.execUsbDisconnect k s
  | .usbPortSuspend k value => Sys2Proof.Machine.execUsbPortSuspend k value s
  | .usbHostDisable => Sys2Proof.Machine.execUsbHostDisable s
  | .usbPipeConfig k b value => Sys2Proof.Machine.execUsbPipeConfig k b value s
  | .setup ring cell ecc => Sys2Proof.Machine.execSetup ring cell ecc s
  | .out ring cell ecc => Sys2Proof.Machine.execOut ring cell ecc s
  | .inReq ring cell ecc => Sys2Proof.Machine.execInReq ring cell ecc s
  | .cancel ring cell ecc => Sys2Proof.Machine.execCancel ring cell ecc s
  | .microFrame txns => Sys2Proof.Machine.execMicroFrame txns s
  | .usbToken isIn e data acked => Sys2Proof.Machine.execUsbToken isIn e data acked s
  | .setupRx packet => Sys2Proof.Machine.execSetupRx packet s
  | .busReset hs => Sys2Proof.Machine.execBusReset hs s
  | .usbSuspend => Sys2Proof.Machine.execUsbSuspend s
  | .usbResume => Sys2Proof.Machine.execUsbResume s
  | .wake => Sys2Proof.Machine.execWake s
  | .wakeKStart => Sys2Proof.Machine.execWakeKStart s
  | .wakeKEnd => Sys2Proof.Machine.execWakeKEnd s
  | .usbCarve isIn e value => Sys2Proof.Machine.execUsbCarve isIn e value s
  | .dspTrain h passes => Sys2Proof.Machine.execDspTrain h passes s
  | .hpdUnplug h => Sys2Proof.Machine.execHpdUnplug h s
  | .hpdIrq h => Sys2Proof.Machine.execHpdIrq h s
  | .dspTiming h reg value => Sys2Proof.Machine.execDspTiming h reg value s
  | .dspShadow h reg value => Sys2Proof.Machine.execDspShadow h reg value s
  | .go h => Sys2Proof.Machine.execGo h s
  | .verticalBlank h found => Sys2Proof.Machine.execVerticalBlank h found s
  | .underrun h => Sys2Proof.Machine.execUnderrun h s
  | .psrEntry h => Sys2Proof.Machine.execPsrEntry h s
  | .psrExit h => Sys2Proof.Machine.execPsrExit h s
  | .dspWrite ring cell ecc => Sys2Proof.Machine.execDspWrite ring cell ecc s
  | .dspCommit ring cell ecc => Sys2Proof.Machine.execDspCommit ring cell ecc s
  | .dspSync ring cell ecc => Sys2Proof.Machine.execDspSync ring cell ecc s
  | .auxGo h => Sys2Proof.Machine.execAuxGo h s
  | .auxDone h reply data => Sys2Proof.Machine.execAuxDone h reply data s
  | .fieldEventDue bad => Sys2Proof.Machine.execFieldEventDue bad s
  | .fieldInputTransition idx level => Sys2Proof.Machine.execFieldInputTransition idx level s
  | .debounce idx => Sys2Proof.Machine.execDebounce idx s
  | .inStampLo idx => Sys2Proof.Machine.execInStampLo idx s
  | .fieldInputEnable idx value => Sys2Proof.Machine.execFieldInputEnable idx value s
  | .force => Sys2Proof.Machine.execForce s
  | .temperatureCheck tj => Sys2Proof.Machine.execTemperatureCheck tj s
  | .supplyTrip rail => Sys2Proof.Machine.execSupplyTrip rail s
  | .shutterRelease at_ => Sys2Proof.Machine.execShutterRelease at_ s
  | .on c value => Sys2Proof.Machine.execOn c value s
  | .hviSample channels vinA vinB => Sys2Proof.Machine.execHviSample channels vinA vinB s
  | .breakerTrip c => Sys2Proof.Machine.execBreakerTrip c s
  | .hardTrip c => Sys2Proof.Machine.execHardTrip c s
  | .rampTimeout c => Sys2Proof.Machine.execRampTimeout c s
  | .tripRetry c => Sys2Proof.Machine.execTripRetry c s
  | .clear c => Sys2Proof.Machine.execClear c s
  | .damaged c => Sys2Proof.Machine.execDamaged c s
  | .damageCleared c => Sys2Proof.Machine.execDamageCleared c s
  | .owner value => Sys2Proof.Machine.execOwner value s
  | .voltageChangeEnd d => Sys2Proof.Machine.execVoltageChangeEnd d s
  | .drpToggle d => Sys2Proof.Machine.execDrpToggle d s
  | .attach d orient source rp => Sys2Proof.Machine.execAttach d orient source rp s
  | .detach d => Sys2Proof.Machine.execDetach d s
  | .dischargeDone d => Sys2Proof.Machine.execDischargeDone d s
  | .dischFail d => Sys2Proof.Machine.execDischFail d s
  | .moistureCheck d lowest => Sys2Proof.Machine.execMoistureCheck d lowest s
  | .pdTxGo d value ccOpen => Sys2Proof.Machine.execPdTxGo d value ccOpen s
  | .goodcrcTimeout d => Sys2Proof.Machine.execGoodcrcTimeout d s
  | .pdMessageRx d header objects => Sys2Proof.Machine.execPdMessageRx d header objects s
  | .hardReset d ccOpen => Sys2Proof.Machine.execHardReset d ccOpen s
  | .hardResetRx d => Sys2Proof.Machine.execHardResetRx d s
  | .pdRxhdr d => Sys2Proof.Machine.execPdRxhdr d s
  | .setPowerStateRun at_ => Sys2Proof.Machine.execSetPowerStateRun at_ s
  | .setPowerStateTrim at_ => Sys2Proof.Machine.execSetPowerStateTrim at_ s
  | .setPowerStateBanked at_ => Sys2Proof.Machine.execSetPowerStateBanked at_ s
  | .setPowerStateDormant at_ => Sys2Proof.Machine.execSetPowerStateDormant at_ s
  | .domainDrainDone => Sys2Proof.Machine.execDomainDrainDone s
  | .harnessWake straps => Sys2Proof.Machine.execHarnessWake straps s
  | .wakeN straps => Sys2Proof.Machine.execWakeN straps s
  | .dockWake straps => Sys2Proof.Machine.execDockWake straps s
  | .pwrResLo st => Sys2Proof.Machine.execPwrResLo st s
  | .derive at_ => Sys2Proof.Machine.execDerive at_ s
  | .session at_ => Sys2Proof.Machine.execSession at_ s
  | .invalidate at_ => Sys2Proof.Machine.execInvalidate at_ s
  | .slotScrubDone => Sys2Proof.Machine.execSlotScrubDone s
  | .provision at_ => Sys2Proof.Machine.execProvision at_ s
  | .seal at_ => Sys2Proof.Machine.execSeal at_ s
  | .unseal at_ => Sys2Proof.Machine.execUnseal at_ s
  | .loadPub at_ => Sys2Proof.Machine.execLoadPub at_ s
  | .attest at_ => Sys2Proof.Machine.execAttest at_ s
  | .attestPub at_ => Sys2Proof.Machine.execAttestPub at_ s
  | .info at_ => Sys2Proof.Machine.execInfo at_ s
  | .enrolPuf at_ => Sys2Proof.Machine.execEnrolPuf at_ s
  | .debug at_ => Sys2Proof.Machine.execDebug at_ s
  | .helperRead at_ => Sys2Proof.Machine.execHelperRead at_ s
  | .tamper src => Sys2Proof.Machine.execTamper src s
  | .trngFail => Sys2Proof.Machine.execTrngFail s
  | .putBlock at_ => Sys2Proof.Machine.execPutBlock at_ s
  | .verifyImage at_ => Sys2Proof.Machine.execVerifyImage at_ s
  | .plant at_ => Sys2Proof.Machine.execPlant at_ s
  | .plantCancel at_ => Sys2Proof.Machine.execPlantCancel at_ s
  | .plantWarn => Sys2Proof.Machine.execPlantWarn s
  | .plantInstant => Sys2Proof.Machine.execPlantInstant s
  | .plantFrozen => Sys2Proof.Machine.execPlantFrozen s
  | .shugonRewriteDone => Sys2Proof.Machine.execShugonRewriteDone s
  | .healthWindowEnd => Sys2Proof.Machine.execHealthWindowEnd s
  | .migrate at_ => Sys2Proof.Machine.execMigrate at_ s
  | .migrateCopy => Sys2Proof.Machine.execMigrateCopy s
  | .spareLane at_ => Sys2Proof.Machine.execSpareLane at_ s
  | .spareAsk p flit => Sys2Proof.Machine.execSpareAsk p flit s
  | .spare p flit => Sys2Proof.Machine.execSpare p flit s
  | .spareDwell p clean => Sys2Proof.Machine.execSpareDwell p clean s
  | .spareAck p flit => Sys2Proof.Machine.execSpareAck p flit s
  | .spareNak p flit => Sys2Proof.Machine.execSpareNak p flit s
  | .spareTmo p => Sys2Proof.Machine.execSpareTmo p s
  | .autoSpare p lane => Sys2Proof.Machine.execAutoSpare p lane s
  | .remap at_ => Sys2Proof.Machine.execRemap at_ s
  | .rootSwap at_ => Sys2Proof.Machine.execRootSwap at_ s
  | .ledger node record => Sys2Proof.Machine.execLedger node record s
  | .enter at_ => Sys2Proof.Machine.execEnter at_ s
  | .leave at_ => Sys2Proof.Machine.execLeave at_ s
  | .duration => Sys2Proof.Machine.execDuration s
  | .readLog at_ => Sys2Proof.Machine.execReadLog at_ s
  | .logConsume value => Sys2Proof.Machine.execLogConsume value s
  | .logRxbLo p tx => Sys2Proof.Machine.execLogRxbLo p tx s
  | .illegalInstruction h word => Sys2Proof.Machine.execIllegalInstruction h word s
  | .standbyRootAligned => Sys2Proof.Machine.execStandbyRootAligned s
  | .resetNAsserted => Sys2Proof.Machine.execResetNAsserted s
  | .supplyRailRestored rail => Sys2Proof.Machine.execSupplyRailRestored rail s
  | .tamperSourceInactive src => Sys2Proof.Machine.execTamperSourceInactive src s
  | .pauseTimerExpiry p => Sys2Proof.Machine.execPauseTimerExpiry p s
  | .pciLinkUp gen width => Sys2Proof.Machine.execPciLinkUp gen width s
  | .pciDisable => Sys2Proof.Machine.execPciDisable s
  | .portResume k => Sys2Proof.Machine.execPortResume k s
  | .portResumeEnd k => Sys2Proof.Machine.execPortResumeEnd k s
  | .hpdPlug h => Sys2Proof.Machine.execHpdPlug h s
  | .trngSamplesPassed => Sys2Proof.Machine.execTrngSamplesPassed s
  | .adjFreq value => Sys2Proof.Machine.execAdjFreq value s
  | .gateBankWrite addr value => Sys2Proof.Machine.execGateBankWrite addr value s

end Sys2Proof.Machine
end

