-- ==== Sys2Proof/Machine/Tick.lean ====
section
/-! DEFINITION. One CLK_FAB cycle: what happens by itself while no command waits (DESIGN CHOICE, log entry 2). -/

namespace Sys2Proof.Machine
open Sys2Proof

/-- Chain time counts while its domain is on, and the wait of a head may end (spec/05_chain_time.md R142, R151), step 8 of start-up ends (spec/14_clocks_reset_boot.md R387),
a power sequence whose retrains have ended completes, cells given to rings move up, and the serving head looks at its
allotments (spec/07_scheduling_and_allotment.md R202). -/
def Chip.cycle (s : Chip) : Chip :=
  let s := (if s.domainOn 3 then s.advanceTime else s).bootEnd
  let s := if s.domainOn 3 ∧ s.chain.waiting ∧ s.quietPorts then s.endWait else s
  let s := (({ s with tick := s.tick + 1 } : Chip).powerSettle).pumpClusters
  if s.sw.requests = [] then s else s.allotReview

def tickStep (s : State) : Result := s.onChip (fun c => c.cycle)

end Sys2Proof.Machine
end

