-- ==== Sys2Proof/Safety.lean ====
section
/-! DEFINITION. What a safe run is, in the terms that statements use: the invariants of the state, and that no command stops the
block. -/

namespace Sys2Proof.Machine

/-- The addressed memories are in their canonical form. -/
def State.MemOk (s : State) : Prop := Memory.wf s.mem = true

/-- The state invariant of a run: the addressed memories keep their canonical form. -/
def State.Inv (s : State) : Prop := s.MemOk

/-- A hand issues the instruction given to it: it is ready, nothing is pending at it, and the fetched word is good
(spec/09_fungatre_machine.md R239, R248, R262). -/
def Chip.issues (s : Chip) (h : HandId) : Bool := s.ready h && !(s.hand h).pendingCause && !s.fetchBad h

/-- A hand that takes a trap at once: it is in no handler and has one (R263). -/
def Hand.takesTrap (x : Hand) : Bool := !x.inTrap && decide (x.tvec ≠ 0)

/-- An instruction that writes `v` to register `d` has completed, and nothing else has happened. -/
def State.completes (s : State) (h : HandId) (d : BitVec 5) (v : Word) : State := { s with chip := s.chip.complete h d v }

/-- An instruction that writes no register has completed, and nothing else has happened. -/
def State.advances (s : State) (h : HandId) : State := { s with chip := s.chip.advance h }

/-- The order in a slot is the one that a command of a code starts now, before its deadline
(spec/13_management_and_dockets.md R362, R363). -/
def Chip.starts (s : Chip) (id : SlotId) (code : Nat) (row : List Byte → Bool) (o : Order) : Prop :=
  s.orderAt id code row = some o ∧ (rd o.bytes 8 8 = 0 ∨ s.ns < rd o.bytes 8 8)

/-- The chip with the order in a slot under way. -/
def Chip.orderBegun (s : Chip) (id : SlotId) (o : Order) : Chip :=
  s.setSlot id { s.slot id with order := some { o with started := true } }

/-- A KEY order of an action is performed: it starts, its body has the length of Table 21.3 with the named bytes zero, a frame that may
not carry it does not, and the Vault is not tampered (R519, R525). -/
def Chip.keyStarts (s : Chip) (id : SlotId) (action len : Nat) (zeros : List Nat) (plain : Bool) (o : Order) : Prop :=
  s.starts id 0x70 (fun b => rd b 0 1 == action) o ∧ (o.bytes.drop 16).length = len ∧ zeroBytes (o.bytes.drop 16) zeros = true ∧
    (plain = true ∨ (s.orderBegun id o).restricted o.path o.keySlot = false) ∧ (s.orderBegun id o).on Reg.VLT_STAT_TAMPERED = false

/-- A command answers a next state. -/
def Completes (i : Instr) (s : State) : Prop := ∃ t, exec i s = .next t

/-- A command changes no byte of the addressed memories. -/
def MemoryKept (i : Instr) (s : State) : Prop := ∀ t, exec i s = .next t → ∀ a, Memory.byte t.mem a = Memory.byte s.mem a

/-- A command keeps a register field. -/
def FieldKept (i : Instr) (s : State) (f : Fld) : Prop := ∀ t, exec i s = .next t → t.chip.get f = s.chip.get f

end Sys2Proof.Machine
end

