-- ==== Sys2Proof/Certificates/Slice0/Obligations.lean ====
section
/-! DEFINITION. The statements about the block for the provers, family by family of the command table: results and completion, refusals
and traps, what stays unchanged, and the invariant that every step keeps. -/

open Sys2Proof Sys2Proof.Machine Sys2Proof.Machine.Reg

/-- The register arithmetic instructions, ADD to SEXTH, complete with the operation of Table 10.3. For every hand, every operand and
every state in which the hand issues, each of the 22 two-source functions of Table 10.3 answers a next state in which the hand
has completed with the table's result in wd (w0 discards it), and nothing but that hand has changed. In every state in which a
hand issues, the five one-source functions complete with the count of leading zeros, the count of ones, the bytes of wa in
reverse order, and the sign extensions of its low byte and halfword. Rests on R278, R251, 10_fungatre_core_instructions. -/
def Obligations.RegisterArithmetic : Prop :=
  (∀ (h : HandId) (d a b : BitVec 5) (s : State), s.chip.issues h = true →
     ∀ x y : Word, x = (s.chip.hand h).w a → y = (s.chip.hand h).w b →
       exec (.add h d a b) s = .next (s.completes h d (x + y))
       ∧ exec (.sub h d a b) s = .next (s.completes h d (x - y))
       ∧ exec (.and h d a b) s = .next (s.completes h d (x &&& y))
       ∧ exec (.or h d a b) s = .next (s.completes h d (x ||| y))
       ∧ exec (.xor h d a b) s = .next (s.completes h d (x ^^^ y))
       ∧ exec (.andn h d a b) s = .next (s.completes h d (x &&& ~~~y))
       ∧ exec (.sll h d a b) s = .next (s.completes h d (x <<< (y.toNat % 32)))
       ∧ exec (.srl h d a b) s = .next (s.completes h d (x >>> (y.toNat % 32)))
       ∧ exec (.sra h d a b) s = .next (s.completes h d (x.sshiftRight (y.toNat % 32)))
       ∧ exec (.ror h d a b) s = .next (s.completes h d (x.rotateRight (y.toNat % 32)))
       ∧ exec (.cmp h d a b) s = .next (s.completes h d (cmpword x y))
       ∧ exec (.min h d a b) s = .next (s.completes h d (if x.toInt ≤ y.toInt then x else y))
       ∧ exec (.max h d a b) s = .next (s.completes h d (if x.toInt ≤ y.toInt then y else x))
       ∧ exec (.minu h d a b) s = .next (s.completes h d (if x.toNat ≤ y.toNat then x else y))
       ∧ exec (.maxu h d a b) s = .next (s.completes h d (if x.toNat ≤ y.toNat then y else x))
       ∧ exec (.mul h d a b) s = .next (s.completes h d (x * y))
       ∧ exec (.mulh h d a b) s = .next (s.completes h d (BitVec.ofInt 32 (x.toInt * y.toInt / 2 ^ 32)))
       ∧ exec (.mulhu h d a b) s = .next (s.completes h d (BitVec.ofNat 32 (x.toNat * y.toNat / 2 ^ 32)))
       ∧ (y ≠ 0 →
         exec (.div h d a b) s = .next (s.completes h d (BitVec.ofInt 32 (x.toInt.tdiv y.toInt)))
         ∧ exec (.divu h d a b) s = .next (s.completes h d (BitVec.ofNat 32 (x.toNat / y.toNat)))
         ∧ exec (.rem h d a b) s = .next (s.completes h d (BitVec.ofInt 32 (x.toInt - y.toInt * x.toInt.tdiv y.toInt)))
         ∧ exec (.remu h d a b) s = .next (s.completes h d (BitVec.ofNat 32 (x.toNat % y.toNat))))) ∧
  (∀ (h : HandId) (d a : BitVec 5) (s : State), s.chip.issues h = true → ∀ x : Word, x = (s.chip.hand h).w a →
     (∃ n, n ≤ 32 ∧ exec (.clz h d a) s = .next (s.completes h d (BitVec.ofNat 32 n))
       ∧ x.toNat < 2 ^ (32 - n) ∧ (n < 32 → 2 ^ (31 - n) ≤ x.toNat))
     ∧ exec (.popc h d a) s = .next (s.completes h d (BitVec.ofNat 32 ((List.range 32).countP (fun i => x.getLsbD i))))
     ∧ exec (.bswap h d a) s = .next (s.completes h d (BitVec.ofNat 32 (leNat (leBytes x.toNat 4).reverse)))
     ∧ exec (.sextb h d a) s = .next (s.completes h d ((x.truncate 8).signExtend 32))
     ∧ exec (.sexth h d a) s = .next (s.completes h d ((x.truncate 16).signExtend 32)))

/-- Division never traps and has the edge cases of Table 10.5; the compare word has the bits of Table 10.4. In every state in which
a hand issues, DIV, DIVU, REM and REMU complete; with wb = 0 the quotients are 0xFFFF_FFFF and the remainders wa; DIV and REM of
0x8000_0000 by 0xFFFF_FFFF give 0x8000_0000 and 0. For all x and y, bits 0 to 4 of cmpword(x, y) are x = y, s(x) < s(y), u(x) <
u(y), s(x) ≤ s(y), u(x) ≤ u(y), and every other bit is 0. Formalises R279, R280. -/
def Obligations.DivisionAndCompareWord : Prop :=
  (∀ (h : HandId) (d a b : BitVec 5) (s : State), s.chip.issues h = true →
     ∀ x y : Word, x = (s.chip.hand h).w a → y = (s.chip.hand h).w b →
       (∃ v, exec (.div h d a b) s = .next (s.completes h d v)) ∧ (∃ v, exec (.divu h d a b) s = .next (s.completes h d v))
       ∧ (∃ v, exec (.rem h d a b) s = .next (s.completes h d v)) ∧ (∃ v, exec (.remu h d a b) s = .next (s.completes h d v))
       ∧ (y = 0 →
         exec (.div h d a b) s = .next (s.completes h d 0xFFFFFFFF) ∧ exec (.divu h d a b) s = .next (s.completes h d 0xFFFFFFFF)
         ∧ exec (.rem h d a b) s = .next (s.completes h d x) ∧ exec (.remu h d a b) s = .next (s.completes h d x))
       ∧ (x = 0x80000000 → y = 0xFFFFFFFF →
         exec (.div h d a b) s = .next (s.completes h d 0x80000000) ∧ exec (.rem h d a b) s = .next (s.completes h d 0))) ∧
  (∀ x y : Word,
     (cmpword x y).getLsbD 0 = decide (x = y) ∧ (cmpword x y).getLsbD 1 = decide (x.toInt < y.toInt)
     ∧ (cmpword x y).getLsbD 2 = decide (x.toNat < y.toNat) ∧ (cmpword x y).getLsbD 3 = decide (x.toInt ≤ y.toInt)
     ∧ (cmpword x y).getLsbD 4 = decide (x.toNat ≤ y.toNat) ∧ ∀ i, 5 ≤ i → (cmpword x y).getLsbD i = false)

/-- The immediate instructions complete as R281 and R282 say, and SHIFTI traps where imm16[15:7] is not 0. In every state in which a
hand issues, the six immediate instructions complete with the result that the rule's lines give, and nothing but that hand has
changed. In every state in which a hand issues, SHIFTI with imm16[15:7] = 0 completes with the shift of Table 10.6, and with any
other imm16 raises trap 0x01 with the instruction word as TVAL. Formalises R281, R282. -/
def Obligations.ImmediateInstructions : Prop :=
  (∀ (h : HandId) (d a : BitVec 5) (imm : BitVec 16) (s : State), s.chip.issues h = true → ∀ x : Word, x = (s.chip.hand h).w a →
     exec (.addi h d a imm) s = .next (s.completes h d (x + imm.signExtend 32))
     ∧ exec (.andi h d a imm) s = .next (s.completes h d (x &&& imm.zeroExtend 32))
     ∧ exec (.ori h d a imm) s = .next (s.completes h d (x ||| imm.zeroExtend 32))
     ∧ exec (.xori h d a imm) s = .next (s.completes h d (x ^^^ imm.zeroExtend 32))
     ∧ exec (.lui h d imm) s = .next (s.completes h d (imm.zeroExtend 32 <<< 16))
     ∧ exec (.cmpi h d a imm) s = .next (s.completes h d (cmpword x (imm.signExtend 32)))) ∧
  (∀ (h : HandId) (d a : BitVec 5) (imm : BitVec 16) (s : State), s.chip.issues h = true → ∀ x : Word, x = (s.chip.hand h).w a →
     (imm.toNat / 128 = 0 →
       (imm.toNat / 32 = 0 → exec (.shifti h d a imm) s = .next (s.completes h d (x <<< (imm.toNat % 32))))
       ∧ (imm.toNat / 32 = 1 → exec (.shifti h d a imm) s = .next (s.completes h d (x >>> (imm.toNat % 32))))
       ∧ (imm.toNat / 32 = 2 → exec (.shifti h d a imm) s = .next (s.completes h d (x.sshiftRight (imm.toNat % 32))))
       ∧ (imm.toNat / 32 = 3 → exec (.shifti h d a imm) s = .next (s.completes h d (x.rotateRight (imm.toNat % 32)))))
     ∧ (imm.toNat / 128 ≠ 0 →
       exec (.shifti h d a imm) s = .next (s.settle (s.chip.trapHere h 1 (fmtI 0x06 d a imm)))))

/-- LDW, LDH and LDB write the zero-extended word, halfword or byte at ea; misaligned and uncorrectable accesses trap. In every
state in which a hand issues and the addressed word holds no error, an aligned load completes with the little-endian value at
the decoded address, and nothing but that hand changes; with a corrected single-bit error the result is the same and on a bench
BCH_ECC_CORR_b counts it. In every state in which a hand issues, LDW and STW with ea[1:0] ≠ 0, LDH and STH with ea[0] ≠ 0 and
JALR with t[1:0] ≠ 0 raise trap 0x02 with the address as TVAL; STH and STB to a word beyond correction raise trap 0x09. Rests on
R283, R246, R247, 10_fungatre_core_instructions, R262, R287. -/
def Obligations.LoadsAndMisalignment : Prop :=
  (∀ (h : HandId) (d a : BitVec 5) (imm : BitVec 16) (s : State), s.chip.issues h = true →
     ∀ (ea : Word) (m : Nat), ea = (s.chip.hand h).w a + imm.signExtend 32 →
       m = dmemBase (coreOf h) + ea.toNat % 2 ^ dataWidth h →
       (s.chip.soft m = 0 →
         (ea.toNat % 4 = 0 → exec (.ldw h d a imm) s = .next (s.completes h d (BitVec.ofNat 32 (Memory.read s.mem m 4))))
         ∧ (ea.toNat % 2 = 0 → exec (.ldh h d a imm) s = .next (s.completes h d (BitVec.ofNat 32 (Memory.read s.mem m 2))))
         ∧ exec (.ldb h d a imm) s = .next (s.completes h d (BitVec.ofNat 32 (Memory.read s.mem m 1))))
       ∧ (s.chip.soft m = 1 → onBench h = true → ea.toNat % 4 = 0 →
         ∃ t, exec (.ldw h d a imm) s = .next t ∧ t.mem = s.mem
           ∧ (t.chip.hand h) = ((s.completes h d (BitVec.ofNat 32 (Memory.read s.mem m 4))).chip.hand h)
           ∧ t.chip.get (BCH_ECC_CORR (benchOf h)) = min (s.chip.get (BCH_ECC_CORR (benchOf h)) + 1) (2 ^ 32 - 1)
           ∧ t.chip.soft m = 0)) ∧
  (∀ (h : HandId) (d a : BitVec 5) (imm : BitVec 16) (s : State), s.chip.issues h = true →
     ∀ ea : Word, ea = (s.chip.hand h).w a + imm.signExtend 32 →
       (ea.toNat % 4 ≠ 0 → ∀ i : Instr, i = .ldw h d a imm ∨ i = .stw h d a imm ∨ i = .jalr h d a imm →
         exec i s = .next (s.settle (s.chip.trapHere h 2 ea)))
       ∧ (ea.toNat % 2 ≠ 0 → ∀ i : Instr, i = .ldh h d a imm ∨ i = .sth h d a imm →
         exec i s = .next (s.settle (s.chip.trapHere h 2 ea)))
       ∧ (s.chip.soft (dataAddr h ea) = 2 → exec (.stb h d a imm) s = .next (s.settle (s.chip.trapHere h 9 ea))
         ∧ (ea.toNat % 2 = 0 → exec (.sth h d a imm) s = .next (s.settle (s.chip.trapHere h 9 ea)))))

/-- STW, STH and STB write the low bytes of wd at ea, and no other byte and no register changes. In every state in which a hand
issues, an aligned store to a word that is not beyond correction (any word for STW) completes; the 4, 2 or 1 bytes at the
address that the meaning computes hold the low bytes of wd, every other byte of memory reads as before, no register of any hand
and no register field changes, and the word's error is gone. Rests on R284, R246, R247, 10_fungatre_core_instructions. -/
def Obligations.StoresWriteDataMemory : Prop :=
  ∀ (h : HandId) (d a : BitVec 5) (imm : BitVec 16) (s : State), s.chip.issues h = true →
    ∀ (ea : Word) (m : Nat), ea = s.chip.ea h a imm → m = dataAddr h ea →
      ∀ (i : Instr) (k : Nat),
        (i = .stw h d a imm ∧ k = 4 ∨ i = .sth h d a imm ∧ k = 2 ∧ s.chip.soft m ≠ 2 ∨ i = .stb h d a imm ∧ k = 1 ∧ s.chip.soft m ≠ 2) →
        ea.toNat % k = 0 →
        ∃ t, exec i s = .next t
          ∧ (∀ n, n < k → Memory.byte t.mem (m + n) = BitVec.ofNat 8 (((s.chip.hand h).w d).toNat / 256 ^ n))
          ∧ (∀ b, b < m ∨ m + k ≤ b → Memory.byte t.mem b = Memory.byte s.mem b)
          ∧ (∀ j r, (t.chip.hand j).w r = (s.chip.hand j).w r) ∧ (∀ f, t.chip.get f = s.chip.get f)
          ∧ (t.chip.hand h).pc = nextPc h (s.chip.hand h).pc ∧ t.chip.soft m = 0
          ∧ (Memory.wf s.mem = true → Memory.wf t.mem = true)

/-- BR branches by the condition of Table 10.7, and a reserved condition raises trap 0x01. In every state in which a hand issues, BR
with each condition of Table 10.7 goes to (pc + sext(imm16) × 4) mod 2^PCW when the condition holds and to next_pc otherwise;
the conditions 0x07 to 0x0F raise trap 0x01. Formalises R285. -/
def Obligations.BranchTakenByCondition : Prop :=
  ∀ (h : HandId) (a : BitVec 5) (imm : BitVec 16) (s : State), s.chip.issues h = true →
    ∀ (x : Word) (goes : Bool → State), x = (s.chip.hand h).w a →
      (∀ taken, goes taken = if taken then
          { s with chip := s.chip.goto h (wrapPc h ((s.chip.hand h).pc.zeroExtend 32 + imm.signExtend 32 * 4)) }
        else s.advances h) →
      exec (.br h 0 a imm) s = .next (goes (x = 0)) ∧ exec (.br h 1 a imm) s = .next (goes (x ≠ 0))
      ∧ exec (.br h 2 a imm) s = .next (goes (x.getLsbD 31)) ∧ exec (.br h 3 a imm) s = .next (goes (!x.getLsbD 31))
      ∧ exec (.br h 4 a imm) s = .next (goes (!x.getLsbD 31 && x ≠ 0)) ∧ exec (.br h 5 a imm) s = .next (goes (x.getLsbD 31 || x = 0))
      ∧ (a = 0 → exec (.br h 6 a imm) s = .next (goes true))
      ∧ (∀ k : Nat, k < 8 → exec (.br h (BitVec.ofNat 5 (16 + k)) a imm) s = .next (goes (x.getLsbD k))
        ∧ exec (.br h (BitVec.ofNat 5 (24 + k)) a imm) s = .next (goes (!x.getLsbD k)))
      ∧ (∀ c : BitVec 5, 7 ≤ c.toNat → c.toNat ≤ 15 →
        exec (.br h c a imm) s = .next (s.settle (s.chip.trapHere h 1 (fmtI 0x10 c a imm))))

/-- JAL and JALR write next_pc to the link register and set pc to their target; ERET, YIELD and HALT. In every state in which a hand
issues, JAL goes to (pc + sext(off) × 4) mod 2^PCW and JALR with an aligned target t := wa + sext(imm16) to t mod 2^PCW; both
write next_pc to wd (w0 discards it), count one instruction, leave every other register of the hand, every other hand, every
register field and memory unchanged. In every state in which a hand issues: ERET in a handler with no checkpoint pending goes to
TEPC with IN_TRAP 0 and counts once, a pending cause 0x0A is taken there, and ERET outside a handler raises trap 0x01; YIELD n
makes the hand not ready (n = 0 only completes) and its end makes it ready again; HALT of a bench hand that holds no tag halts
it and sets BCH_EVT_b.HALTED, one that holds a tag stalls, Porter raises trap 0x01 and Steward halts with
BCH_STEWARD_STAT.HALTED set. Rests on R286, R287, R251, R291, R292, R293, R262, R253. -/
def Obligations.JumpsAndHandControl : Prop :=
  (∀ (h : HandId) (d a : BitVec 5) (off : BitVec 21) (imm : BitVec 16) (s : State), s.chip.issues h = true →
     ∀ (x : Hand) (t : Word), x = s.chip.hand h → t = x.w a + imm.signExtend 32 →
       ∀ (i : Instr) (target : BitVec 18),
         (i = .jal h d off ∧ target = wrapPc h (x.pc.zeroExtend 32 + off.signExtend 32 * 4)
           ∨ i = .jalr h d a imm ∧ t.toNat % 4 = 0 ∧ target = wrapPc h t) →
         ∃ u, exec i s = .next u ∧ u.mem = s.mem ∧ (u.chip.hand h).pc = target ∧ (u.chip.hand h).instret = (x.instret + 1) % 2 ^ 64
           ∧ (∀ r, (u.chip.hand h).w r = if r = d ∧ d ≠ 0 then (nextPc h x.pc).zeroExtend 32 else x.w r)
           ∧ (∀ k, k ≠ h → u.chip.hand k = s.chip.hand k) ∧ (∀ f, u.chip.get f = s.chip.get f)) ∧
  (∀ (h : HandId) (imm : BitVec 16) (s : State), s.chip.issues h = true → ∀ (x y : Hand), x = s.chip.hand h →
     y = { x with
       pc := x.tepc, instret := (x.instret + 1) % 2 ^ 64, inTrap := false, state := .run, stalled := none, waiting := none, fence := none } →
     (x.inTrap = true → x.checkpoint = false → x.pend0A = false →
       exec (.eret h) s = .next { s with chip := s.chip.setHand h y })
     ∧ (x.inTrap = true → x.checkpoint = false → x.pend0A = true → ∃ c : Chip, c.hand h = { y with pend0A := false }
       ∧ exec (.eret h) s = .next (s.settle (c.trapHere h 10 0)))
     ∧ (x.inTrap = false → exec (.eret h) s = .next (s.settle (s.chip.trapHere h 1 0xAC000000)))
     ∧ exec (.yield h 0) s = .next (s.advances h)
     ∧ (imm ≠ 0 → ∃ t, exec (.yield h imm) s = .next t ∧ t.mem = s.mem
       ∧ t.chip.hand h = { (s.advances h).chip.hand h with yielding := true } ∧ t.chip.ready h = false
       ∧ ∃ u, exec (.yieldEnd h) t = .next u ∧ u.chip.hand h = (s.advances h).chip.hand h)
     ∧ (onBench h = true → s.chip.tagsHeld h = 0 → ∃ t, exec (.halt h) s = .next t ∧ (t.chip.hand h).state = .halted
       ∧ t.chip.get (BCH_EVT_HALTED (benchOf h)) = 1)
     ∧ (onBench h = true → s.chip.tagsHeld h ≠ 0 → exec (.halt h) s = .next { s with chip := s.chip.stall h (.halt h) })
     ∧ (h = 64 → exec (.halt h) s = .next (s.settle (s.chip.trapHere h 1 0xB4000000))))

/-- Completing an instruction writes its destination, moves pc and counts one instruction, and changes nothing else of the hand. For
every state, hand, destination and value, a completed instruction leaves every other register, every other hand, every register
field, memory and the queue as they were; wd reads the value unless d is 0, which still reads 0; pc is next_pc and INSTRET has
counted once; TVEC, TCAUSE, TEPC, TVAL, TSCRATCH, IN_TRAP, WDOG and DB_PEND keep their values. Rests on R251, R296,
10_fungatre_core_instructions. -/
def Obligations.CompletionChangesOneRegister : Prop :=
  ∀ (s : State) (h : HandId) (d : BitVec 5) (v : Word) (t : State), t = s.completes h d v →
    ∀ x y : Hand, x = s.chip.hand h → y = t.chip.hand h →
      (∀ r, y.w r = if r = d ∧ d ≠ 0 then v else x.w r) ∧ y.pc = nextPc h x.pc ∧ y.instret = (x.instret + 1) % 2 ^ 64
      ∧ y.tvec = x.tvec ∧ y.tcause = x.tcause ∧ y.tepc = x.tepc ∧ y.tval = x.tval ∧ y.tscratch = x.tscratch ∧ y.inTrap = x.inTrap
      ∧ y.wdogPeriod = x.wdogPeriod ∧ y.wdogFrom = x.wdogFrom ∧ y.dbPend = x.dbPend ∧ y.events = x.events
      ∧ (∀ k, k ≠ h → t.chip.hand k = s.chip.hand k) ∧ (∀ f, t.chip.get f = s.chip.get f)
      ∧ t.mem = s.mem ∧ t.pending = s.pending
      ∧ (∀ r, t.chip.ring r = s.chip.ring r) ∧ t.chip.cores.cregs = s.chip.cores.cregs ∧ t.chip.cores.tags = s.chip.cores.tags

/-- CSRR reads and CSRW writes the hand CSRs of Table 9.2, and an unknown number raises trap 0x01. In every state in which a hand
issues, CSRR of each register of Table 9.2 that shows hand state completes with its value; a CSRR of INSTRET_LO or CYCLE_LO also
latches the matching HI word, and CSRR of the HI word returns the latched value and ends the latch; a number outside the table
raises trap 0x01. In every state in which a hand issues: CSRW to TSTAT, TVEC, TEPC, TSCRATCH and DB_PEND sets the field as Table
9.2 gives it and the hand completes; CSRW to the read-only HINFO, TCAUSE and TVAL only completes; CSRW to WDOG (also as its own
command) reloads the watchdog with the new period, and a field-owning hand's write of 0 is ignored; an unknown number raises
trap 0x01. Rests on R254, R255, R288, R251, R265, R289, R7. -/
def Obligations.HandCsrs : Prop :=
  (∀ (h : HandId) (d : BitVec 5) (s : State), s.chip.issues h = true → ∀ x : Hand, x = s.chip.hand h →
     exec (.csrr h d 0x000) s = .next (s.completes h d (BitVec.ofNat 32
       (if h.val < 64 then h.val % 4 + 4 * (h.val / 4) else if h.val = 64 then 64 else 128)))
     ∧ exec (.csrr h d 0x001) s = .next (s.completes h d (BitVec.ofNat 32 (b2n x.inTrap + 2 * b2n (s.chip.fieldOwner h))))
     ∧ exec (.csrr h d 0x002) s = .next (s.completes h d (BitVec.ofNat 32 x.tvec))
     ∧ exec (.csrr h d 0x003) s = .next (s.completes h d (BitVec.ofNat 32 x.tcause))
     ∧ exec (.csrr h d 0x004) s = .next (s.completes h d (BitVec.ofNat 32 x.tepc.toNat))
     ∧ exec (.csrr h d 0x005) s = .next (s.completes h d x.tval)
     ∧ exec (.csrr h d 0x006) s = .next (s.completes h d x.tscratch)
     ∧ exec (.csrr h d 0x010) s = .next (s.completes h d (BitVec.ofNat 32 x.wdogPeriod))
     ∧ exec (.csrr h d 0x031) s = .next (s.completes h d (BitVec.ofNat 32 (b2n x.dbPend)))
     ∧ exec (.csrr h d 0x050) s = .next (s.completes h d (BitVec.ofNat 32 (s.chip.tagsHeld h)))
     ∧ exec (.cycleLo h d true) s = .next {
       s with chip := (s.chip.setHand h { x with instretHi := some (x.instret / 2 ^ 32) }).complete h d (BitVec.ofNat 32 (x.instret % 2 ^ 32)) }
     ∧ exec (.cycleLo h d false) s = .next {
       s with chip := (s.chip.setHand h { x with cycleHi := some (s.chip.cycles h / 2 ^ 32) }).complete h d (BitVec.ofNat 32 (s.chip.cycles h % 2 ^ 32)) }
     ∧ (∀ v, x.instretHi = some v → exec (.csrr h d 0x043) s = .next {
       s with chip := (s.chip.setHand h { x with instretHi := none }).complete h d (BitVec.ofNat 32 v) })
     ∧ (∀ n : BitVec 16, (7 ≤ n.toNat ∧ n.toNat < 0x10 ∨ 0x12 ≤ n.toNat ∧ n.toNat < 0x20 ∨ 0x51 ≤ n.toNat) →
       exec (.csrr h d n) s = .next (s.settle (s.chip.trapHere h 1 (fmtI 0x28 d 0 n))))) ∧
  (∀ (h : HandId) (a : BitVec 5) (s : State), s.chip.issues h = true →
     ∀ (x : Hand) (v : Word) (after : Hand → State), x = s.chip.hand h → v = x.w a →
       (∀ y : Hand, after y = { s with chip := (s.chip.setHand h y).advance h }) →
       exec (.csrw h a 0x001) s = .next (after { x with inTrap := v.getLsbD 0 })
       ∧ exec (.csrw h a 0x002) s = .next (after { x with tvec := v.toNat % 65536 / 4 * 4 })
       ∧ exec (.csrw h a 0x004) s = .next (after { x with tepc := BitVec.ofNat 18 (v.toNat % 2 ^ pcWidth h) })
       ∧ exec (.csrw h a 0x006) s = .next (after { x with tscratch := v })
       ∧ (v.getLsbD 0 = true → exec (.csrw h a 0x031) s = .next (after { x with dbPend := false }))
       ∧ (v.getLsbD 0 = false → exec (.csrw h a 0x031) s = .next (s.advances h))
       ∧ (∀ n : BitVec 16, n = 0x000 ∨ n = 0x003 ∨ n = 0x005 → exec (.csrw h a n) s = .next (s.advances h))
       ∧ (v.toNat % 65536 ≠ 0 ∨ s.chip.fieldOwner h = false →
         exec (.wdog h a) s = .next (after { x with wdogPeriod := v.toNat % 65536, wdogFrom := s.chip.tick, unfed := false })
         ∧ exec (.csrw h a 0x010) s = exec (.wdog h a) s)
       ∧ (v.toNat % 65536 = 0 → s.chip.fieldOwner h = true → exec (.wdog h a) s = .next (s.advances h))
       ∧ (∀ n : BitVec 16, (7 ≤ n.toNat ∧ n.toNat < 0x10 ∨ 0x12 ≤ n.toNat ∧ n.toNat < 0x20 ∨ 0x51 ≤ n.toNat) →
         exec (.csrw h a n) s = .next (s.settle (s.chip.trapHere h 1 (fmtI 0x29 0 a n)))))

/-- Cell registers: claiming and freeing them; CELL_EXTR, CELL_EDIT, CELL_CRC and MOVE act on a register the hand owns. In every
state in which a bench hand issues: CSRW to CREG_CLAIM makes every named free cell register the hand's and leaves owned ones as
they are; CSRW to CREG_FREE frees the named ones it owns and no other; CSRW to DOORBELL sets DB_PEND at the named hands of the
bench. On Porter and Steward the two cell-register CSRs raise trap 0x01. In every state in which a bench hand issues and owns
the register: EXTR with A + size ≤ 112 writes the little-endian bytes to wd and EDIT replaces exactly those bytes; CRC with LEN
1 to 104 runs the polynomial over bytes 8 to 8 + LEN − 1 from the state in wb; MOVE DIR 0 to an aligned ea copies the register
at issue, FENCE.L stalls until MOVE_DONE has written the 112 bytes, and no other byte, and set event 2; MOVE DIR 1 reads 112
clean bytes into the register. A range past 112 and a bad ea trap 0x02, another LEN 0x01, an unowned register 0x07. Rests on
R252, R253, R269, R289, R251, R303, R304, R305, R306, R307, R318. -/
def Obligations.CellRegisters : Prop :=
  (∀ (h : HandId) (a : BitVec 5) (s : State), s.chip.issues h = true →
     ∀ (v : Word) (owner : State → Nat → Nat), v = (s.chip.hand h).w a →
       (∀ t c, owner t c = mget 0 t.chip.cores.cregOwner (8 * benchOf h + c)) →
       (onBench h = true →
         (∃ t, exec (.cregClaim h a) s = .next t ∧ t.mem = s.mem ∧ t.chip.hand h = (s.advances h).chip.hand h
           ∧ ∀ c, c < 8 → owner t c = if v.getLsbD c = true ∧ owner s c = 0 then handOf h + 1 else owner s c)
         ∧ (∃ t, exec (.cregFree h a) s = .next t ∧ t.mem = s.mem ∧ t.chip.hand h = (s.advances h).chip.hand h
           ∧ ∀ c, c < 8 → owner t c = if v.getLsbD c = true ∧ owner s c = handOf h + 1 then 0 else owner s c)
         ∧ (∃ t, exec (.doorbell h a) s = .next t ∧ t.mem = s.mem
           ∧ ∀ k : Nat, k < 4 → (t.chip.hand (benchHand (benchOf h) k)).dbPend
               = (v.getLsbD k || (s.chip.hand (benchHand (benchOf h) k)).dbPend)))
       ∧ (onBench h = false →
         exec (.cregClaim h a) s = .next (s.settle (s.chip.trapHere h 1 (fmtI 0x29 0 a 0x21)))
         ∧ exec (.cregFree h a) s = .next (s.settle (s.chip.trapHere h 1 (fmtI 0x29 0 a 0x22)))
         ∧ ∃ t, exec (.doorbell h a) s = .next t ∧ (t.chip.hand h).dbPend = (v.getLsbD 0 || (s.chip.hand h).dbPend))) ∧
  (∀ (h : HandId) (d a b : BitVec 5) (creg : Fin 8) (size : AccSize) (off : BitVec 7) (off14 : BitVec 14) (ieee : Bool) (s : State),
     s.chip.issues h = true → onBench h = true →
     ∀ (at_ : Nat) (ea : Word) (bytes : List Byte), bytes = s.chip.creg (benchOf h) creg →
       at_ = off.toNat + ((s.chip.hand h).w b).toNat → ea = (s.chip.hand h).w a + off14.signExtend 32 * 4 →
       (s.chip.owns h creg = true →
         (at_ + size.bytes ≤ 112 →
           exec (.cellExtr h d creg b size off) s = .next (s.completes h d (BitVec.ofNat 32 (leNat (slice bytes at_ size.bytes))))
           ∧ exec (.cellEdit h d creg b size off) s = .next {
             s with chip := (s.chip.setCreg (benchOf h) creg
               (bytes.take at_ ++ leBytes ((s.chip.hand h).w d).toNat size.bytes ++ bytes.drop (at_ + size.bytes))).advance h })
         ∧ (1 ≤ off.toNat → off.toNat ≤ 104 →
           exec (.cellCrc h d creg b ieee off) s = .next (s.completes h d (BitVec.ofNat 32
             (crcRun (if ieee then 0xEDB88320 else 0x82F63B78) ((s.chip.hand h).w b).toNat (slice bytes 8 off.toNat)))))
         ∧ (ea.toNat % 4 = 0 → ea.toNat % 2 ^ 17 ≤ 0x1FF90 →
           ((s.chip.hand h).move = none → ∃ t, exec (.moveDir0 h creg a off14) s = .next t ∧ t.mem = s.mem
             ∧ t.chip.hand h = { (s.advances h).chip.hand h with move := some (dataAddr h ea, bytes) })
           ∧ ((∀ i, i < 28 → s.chip.soft (dataAddr h ea + 4 * i) = 0) →
             exec (.moveDir1 h creg a off14) s = .next {
               s with chip := (s.chip.setCreg (benchOf h) creg (Memory.bytes s.mem (dataAddr h ea) 112)).advance h })))
       ∧ (∀ m w, (s.chip.hand h).move = some (m, w) → w.length = 112 →
         exec (.fenceL h) s = .next { s with chip := s.chip.stall h (.fenceL h) }
         ∧ ∃ t, exec (.moveDone h) s = .next t ∧ (t.chip.hand h).move = none ∧ (t.chip.hand h).events = setBit (s.chip.hand h).events 2
           ∧ (∀ i, (hw : i < w.length) → Memory.byte t.mem (m + i) = w[i]) ∧ (∀ k, k < m ∨ m + 112 ≤ k → Memory.byte t.mem k = Memory.byte s.mem k))
       ∧ ((s.chip.hand h).move = none → exec (.fenceL h) s = .next (s.advances h))
       ∧ (112 < at_ + size.bytes → ∀ i : Instr, i = .cellExtr h d creg b size off ∨ i = .cellEdit h d creg b size off →
         exec i s = .next (s.settle (s.chip.trapHere h 2 (BitVec.ofNat 32 at_))))
       ∧ (off.toNat = 0 ∨ 104 < off.toNat → ∃ w, exec (.cellCrc h d creg b ieee off) s = .next (s.settle (s.chip.trapHere h 1 w)))
       ∧ (ea.toNat % 4 ≠ 0 ∨ 0x1FF90 < ea.toNat % 2 ^ 17 → ∀ i : Instr, i = .moveDir0 h creg a off14 ∨ i = .moveDir1 h creg a off14 →
         exec i s = .next (s.settle (s.chip.trapHere h 2 ea)))
       ∧ (s.chip.owns h creg = false → at_ + size.bytes ≤ 112 → ∀ i : Instr, i = .cellExtr h d creg b size off ∨ i = .cellEdit h d creg b size off →
         exec i s = .next (s.settle (s.chip.trapHere h 7 (BitVec.ofNat 32 creg.val)))))

/-- A trap writes TCAUSE, TEPC and TVAL, sets IN_TRAP, goes to TVEC and is recorded; TRAP raises 0x08. In every state in which a
hand issues, has a handler and is in none, TRAP counts once and enters it: TCAUSE 0x08, TVAL zext(imm16), TEPC next_pc, IN_TRAP
1, pc TVEC, the hand in Run, every register kept and memory unchanged; on a bench BCH_HAND_CAUSE_b_h shows the cause with DOUBLE
0 and, in EPC, the address of the TRAP itself, and bit h of BCH_EVT_b.TRAP is set. With IN_TRAP 1 or TVEC 0 a bench hand halts
instead. Rests on R263, R261, R290, R296. -/
def Obligations.TrapEntersHandler : Prop :=
  ∀ (h : HandId) (imm : BitVec 16) (s : State), s.chip.issues h = true → ∀ x : Hand, x = s.chip.hand h →
    (x.takesTrap = true → ∃ t, exec (.trap h imm) s = .next t ∧ t.mem = s.mem
      ∧ t.chip.hand h = { x with
          instret := (x.instret + 1) % 2 ^ 64, state := .run, stalled := none, waiting := none, yielding := false, fence := none,
          tcause := 8, tepc := nextPc h x.pc, tval := imm.zeroExtend 32, inTrap := true, pc := BitVec.ofNat 18 x.tvec }
      ∧ (onBench h = true →
        t.chip.get (BCH_HAND_CAUSE_CAUSE (benchOf h) (handOf h)) = 8
        ∧ t.chip.get (BCH_HAND_CAUSE_DOUBLE (benchOf h) (handOf h)) = 0
        ∧ t.chip.get (BCH_HAND_CAUSE_EPC (benchOf h) (handOf h)) = x.pc.toNat % 65536
        ∧ t.chip.get (BCH_EVT_TRAP (benchOf h)) = setBit (s.chip.get (BCH_EVT_TRAP (benchOf h))) (handOf h) % 16))
    ∧ (x.takesTrap = false → onBench h = true → s.chip.get UPD_STAT_PHASE ≠ 4 → s.chip.fieldOwner h = false →
      ∃ t, exec (.trap h imm) s = .next t ∧ (t.chip.hand h).state = .halted)

/-- TAKE and PEEK deliver the cell at the head of the take side; GIVE puts a cell with the next SEQ on the give side. In every state
in which a bench hand issues, owns the cell register and the ring is bound to it and not frozen: with a cell at the head, TAKE
copies its 112 bytes, removes it and writes the status of Table 11.2, and PEEK does the same without removing it; with an empty
take side NB 1 writes NONE and changes no cell register, and NB 0 stalls. A frozen ring stalls; an unbound ring traps 0x04 and
an unowned register 0x07. In every state in which a bench hand issues and owns the register, and the ring is bound to it, at P10
or P11 and not frozen: with an Open or Breaking source tunnel of the ring, VLEN 1 to 104 and no reason to wait, GIVE writes the
old NEXT to wd, advances NEXT modulo 65,536 and gives the cell with the header of R301 and the register's data bytes; a Broken
tunnel writes BROKEN, a wait with NB 1 writes NOT_GIVEN and with NB 0 stalls; a wrong tunnel or VLEN traps 0x04. On an
endpoint's ring it gives the 112 bytes and writes 0. Rests on R299, R300, R257, R258, R252, R301, R302, R267, R218. -/
def Obligations.TakePeekGive : Prop :=
  (∀ (h : HandId) (d : BitVec 5) (ring : Fin 64) (creg : Fin 8) (nb : Bool) (s : State), s.chip.issues h = true → onBench h = true →
     (s.chip.owns h creg = true → s.chip.bound h ring = true → s.chip.ringFrozen ring = false →
       (∀ (e : TakeEntry) (rest : List TakeEntry) (status : Word), (s.chip.ring ring).take = e :: rest →
         status = BitVec.ofNat 32 (e.cell.vlen + 128 * b2n e.cell.eom + 256 * b2n e.cell.kept + 512 * b2n (decide (0 < e.gap))
           + 2048 * min e.gap 8191) →
         exec (.take h d ring creg nb) s = .next {
           s with chip := (((s.chip.setCreg (benchOf h) creg e.cell.toBytes).setRing ring
             { s.chip.ring ring with take := rest }).refill ring).complete h d status }
         ∧ exec (.peek h d ring creg nb) s = .next {
           s with chip := (s.chip.setCreg (benchOf h) creg e.cell.toBytes).complete h d status })
       ∧ ((s.chip.ring ring).take = [] →
         exec (.take h d ring creg true) s = .next (s.completes h d 1024) ∧ exec (.peek h d ring creg true) s = .next (s.completes h d 1024)
         ∧ exec (.take h d ring creg false) s = .next { s with chip := s.chip.stall h (.take h d ring creg false) }
         ∧ exec (.peek h d ring creg false) s = .next { s with chip := s.chip.stall h (.peek h d ring creg false) }))
     ∧ (s.chip.owns h creg = true → s.chip.bound h ring = true → s.chip.ringFrozen ring = true →
       exec (.take h d ring creg nb) s = .next { s with chip := s.chip.stall h (.take h d ring creg nb) }
       ∧ exec (.peek h d ring creg nb) s = .next { s with chip := s.chip.stall h (.peek h d ring creg nb) })
     ∧ (∀ i : Instr, i = .take h d ring creg nb ∨ i = .peek h d ring creg nb →
       (s.chip.owns h creg = true → s.chip.bound h ring = false →
         exec i s = .next (s.settle (s.chip.trapHere h 4 (BitVec.ofNat 32 ring.val))))
       ∧ (s.chip.owns h creg = false → exec i s = .next (s.settle (s.chip.trapHere h 7 (BitVec.ofNat 32 creg.val)))))) ∧
  (∀ (h : HandId) (d a : BitVec 5) (ring : Fin 64) (creg : Fin 8) (nb eom : Bool) (s : State),
     s.chip.issues h = true → onBench h = true → s.chip.owns h creg = true → s.chip.bound h ring = true →
     s.chip.ringFrozen ring = false →
     ∀ (t vlen : Nat) (mcast : Bool) (x : Tun) (bytes : List Byte), bytes = s.chip.creg (benchOf h) creg →
       t = ((s.chip.hand h).w a).toNat % 2 ^ 10 → vlen = ((s.chip.hand h).w a).toNat / 2 ^ 16 % 2 ^ 7 →
       mcast = ((s.chip.hand h).w a).getLsbD 24 → x = s.chip.tun t →
       (s.chip.get (BCH_RING_PORT ring) < 10 → s.chip.giveFull ring = false →
         exec (.give h d a ring creg nb eom) s = .next (s.settle ((s.chip.complete h d 0).pushGive ring ⟨Cell.ofBytes bytes, none, false⟩)))
       ∧ (10 ≤ s.chip.get (BCH_RING_PORT ring) →
         (x.state ≠ .closed → x.sink = false → x.ring = ring.val → 1 ≤ vlen → vlen ≤ 104 →
           (x.state ≠ .broken → s.chip.giveWaits ring t = false →
             exec (.give h d a ring creg nb eom) s = .next (s.settle
               (((s.chip.complete h d (BitVec.ofNat 32 x.next)).setTun t { x with next := (x.next + 1) % 65536 }).pushGive ring
                 ⟨⟨mkHdr x.peer x.peerTun x.next x.tc x.kept eom vlen (2 * b2n mcast), bytes.drop 8⟩, some t, false⟩)))
           ∧ (x.state = .broken → exec (.give h d a ring creg nb eom) s = .next (s.completes h d 0x20000))
           ∧ (x.state ≠ .broken → s.chip.giveWaits ring t = true →
             exec (.give h d a ring creg true eom) s = .next (s.completes h d 0x10000)
             ∧ exec (.give h d a ring creg false eom) s = .next { s with chip := s.chip.stall h (.give h d a ring creg false eom) }))
         ∧ (x.state = .closed ∨ x.sink = true ∨ x.ring ≠ ring.val ∨ vlen = 0 ∨ 104 < vlen →
           exec (.give h d a ring creg nb eom) s = .next (s.settle (s.chip.trapHere h 4 (BitVec.ofNat 32 ring.val))))))

/-- WAIT reports and clears pending events, polls with imm16 0, and otherwise waits for an event or the timeout. In every state in
which a hand issues with no perturbation by Tinker: with imm16 0, WAIT writes the pending masked events to wd and clears the
latched ones it reports, or writes 0 with none pending; with another imm16 and none pending it enters Wait. In a hand that
waits, WAIT_EVENT completes with the pending masked events, WAIT_TIMEOUT with wd[31] alone where none is pending (the event wins
otherwise), and a hand that does not wait is left as it is. Rests on R308, R309, R310, R316. -/
def Obligations.WaitReportsEvents : Prop :=
  (∀ (h : HandId) (d a : BitVec 5) (imm : BitVec 16) (s : State) (rep : Nat), s.chip.issues h = true →
      rep = s.chip.pending h &&& (((s.chip.hand h).w a).toNat % 1024) →
      (rep ≠ 0 → exec (.wait h d a 0) s = .next {
        s with chip := (s.chip.setHand h { s.chip.hand h with events := (s.chip.hand h).events &&& (1023 - rep) }).complete h d (BitVec.ofNat 32 rep) })
      ∧ (rep = 0 → exec (.wait h d a 0) s = .next (s.completes h d 0))
      ∧ (rep = 0 → imm ≠ 0 → s.chip.tinkerOn = false → exec (.wait h d a imm) s = .next {
        s with chip := s.chip.setHand h { s.chip.hand h with
          state := .wait
          waiting := some (d, ((s.chip.hand h).w a).toNat % 1024 + 1024 * b2n (decide (imm.toNat % 2 ^ 14 ≠ 0))) } }))
  ∧ (∀ (h : HandId) (d : BitVec 5) (m rep : Nat) (s : State), (s.chip.hand h).state = .wait → s.chip.coreOn h = true →
      (s.chip.hand h).waiting = some (d, m) → rep = s.chip.pending h &&& (m % 1024) →
      (rep ≠ 0 → ∀ i : Instr, (i = .waitEvent h ∨ i = .waitTimeout h ∧ 1024 ≤ m) → ∃ t, exec i s = .next t ∧ t.mem = s.mem
        ∧ t.chip.hand h = ((s.completes h d (BitVec.ofNat 32 rep)).chip.hand h |> fun x =>
            { x with events := (s.chip.hand h).events &&& (1023 - rep) }))
      ∧ (rep = 0 → exec (.waitEvent h) s = .next s)
      ∧ (rep = 0 → 1024 ≤ m → exec (.waitTimeout h) s = .next (s.completes h d 0x80000000)))
  ∧ (∀ (h : HandId) (s : State), (s.chip.hand h).waiting = none →
      exec (.waitEvent h) s = .next s ∧ exec (.waitTimeout h) s = .next s)

/-- TNOW, TAT and TALM; SEQ reads tunnel sequence; the fences wait for what they order. In every state in which a hand issues: TNOW
writes the low word of chain time to wd and then the high word to the register named by b; in a field-owning hand of an
unshuttered node with room in the queue TAT queues the event for a target ahead and writes 0, and for a target reached it counts
a late event and writes 1; a shuttered node discards it and writes 2; a hand that owns no outputs traps 0x01; a full queue, or
TATs that wait already, stall the hand with the event last among those that wait. TALM sets the one alarm for a target ahead and
event 5 for one reached, CANCEL removes it, and CHAIN_TIME_ALARM sets event 5 once the target is reached. In every state in
which a hand issues: on a bench SEQ NEXT, LAST and STATE write the values of R317 for an open tunnel end and 0 for a Closed
tunnel or tunnel 0, and FENCE.K with no such tunnel writes 0 and with an unacknowledged Open one stalls; on Porter and Steward
both trap 0x01. FENCE.X stalls while a far access of the hand is open, completes when none is, and raises trap 0x03 for the
earliest failed write, clearing the record. Rests on R312, R313, R314, R315, R316, R317, R318, R319, R269. -/
def Obligations.ChainTimeSequenceAndFences : Prop :=
  (∀ (h : HandId) (d a b : BitVec 5) (s : State), s.chip.issues h = true →
     ∀ (x : Hand) (now : Nat) (ahead : Int) (desc : Nat), x = s.chip.hand h → now = s.chip.ns → desc = (x.w a).toNat →
       (∃ t, exec (.tnow h d b) s = .next t ∧ t.mem = s.mem ∧ t.chip.hand h
         = ((x.setW d (BitVec.ofNat 32 now)).setW b (BitVec.ofNat 32 (now / 2 ^ 32))).done (nextPc h x.pc))
       ∧ (ahead = s.chip.ahead (x.w b).toNat →
         (s.chip.fieldOwner h = true → s.chip.shuttered = false → s.chip.field.queue.length < 256 → s.chip.field.waiting = [] →
           (0 < ahead → exec (.tat h d a b) s = .next (State.completes { s with chip := { s.chip with field := { s.chip.field with
             queue := insertEvent s.chip.field.queue ⟨desc % 16, bit desc 4, now + ahead.toNat⟩ } } } h d 0))
           ∧ (ahead ≤ 0 → exec (.tat h d a b) s = .next (s.settle
             ((((s.chip.drainDue.driveOut (desc % 16) (bit desc 4)).inc FLD_LATE_CNT).evt FLD_EVT_LATE).complete h d 1))))
         ∧ (s.chip.fieldOwner h = true → s.chip.shuttered = true →
           exec (.tat h d a b) s = .next (s.settle (((s.chip.inc FLD_EVQ_DISCARD).evt FLD_EVT_EVQ_DISCARD).complete h d 2)))
         ∧ (s.chip.fieldOwner h = true → s.chip.shuttered = false → (256 ≤ s.chip.field.queue.length ∨ s.chip.field.waiting ≠ []) →
           exec (.tat h d a b) s = .next { s with chip := Chip.stall { s.chip with field := { s.chip.field with
             waiting := (s.chip.dropTat h).field.waiting ++ [⟨h, ⟨desc % 16, bit desc 4, (now + ahead).toNat⟩, false⟩] } } h (.tat h d a b) })
         ∧ (s.chip.fieldOwner h = false → exec (.tat h d a b) s = .next (s.settle (s.chip.trapHere h 1 (fmtR 0x21 d a b 1)))))
       ∧ (ahead = s.chip.ahead (x.w a).toNat →
         (0 < ahead → ∃ t, exec (.talm h a) s = .next t ∧ t.chip.hand h
           = { (s.advances h).chip.hand h with alarm := some (now + ahead.toNat) })
         ∧ (ahead ≤ 0 → ∃ t, exec (.talm h a) s = .next t ∧ t.chip.hand h
           = { (s.advances h).chip.hand h with alarm := none, events := setBit x.events 5 }))
       ∧ (∃ t, exec (.talmCancel h) s = .next t ∧ t.chip.hand h = { (s.advances h).chip.hand h with alarm := none })
       ∧ (∀ T, x.alarm = some T →
         (T ≤ now → ∃ t, exec (.chainTimeAlarm h) s = .next t ∧ t.chip.hand h = { x with alarm := none, events := setBit x.events 5 })
         ∧ (now < T → exec (.chainTimeAlarm h) s = .next s))) ∧
  (∀ (h : HandId) (d a : BitVec 5) (s : State), s.chip.issues h = true →
     ∀ (t : Nat) (x : Tun), t = ((s.chip.hand h).w a).toNat % 1024 → x = s.chip.tun t →
       (onBench h = true →
         (t ≠ 0 → x.state = .opened →
           (x.sink = false → exec (.seqNext h d a) s = .next (s.completes h d (BitVec.ofNat 32 x.next))
             ∧ exec (.seqLast h d a) s = .next (s.completes h d (BitVec.ofNat 32 ((x.oldest + 65535) % 65536))))
           ∧ (x.sink = true → exec (.seqNext h d a) s = .next (s.completes h d (BitVec.ofNat 32 x.expect))
             ∧ exec (.seqLast h d a) s = .next (s.completes h d (BitVec.ofNat 32 ((x.expect + 65535) % 65536))))
           ∧ exec (.seqState h d a) s = .next (s.completes h d
               (BitVec.ofNat 32 (1 + 8 * b2n x.sink + 16 * b2n x.kept + 32 * x.held.length))))
         ∧ (t = 0 ∨ x.state = .closed → ∀ i : Instr, i = .seqNext h d a ∨ i = .seqLast h d a ∨ i = .seqState h d a →
           exec i s = .next (s.completes h d 0))
         ∧ ((s.chip.hand h).fence = none → s.chip.fenceTunnels h = [] → exec (.fenceK h d) s = .next (s.completes h d 0))
         ∧ (∀ u y, (s.chip.hand h).fence = none → s.chip.fenceTunnels h = [(u, y)] → s.chip.tun u = y → y.state = .opened →
           passed y.oldest (seqSub y.next 1) = false → ∃ r, exec (.fenceK h d) s = .next r ∧ r.mem = s.mem
             ∧ r.chip.hand h = { s.chip.hand h with
                 state := .stall, stalled := some (.fenceK h d), fence := some ⟨[(u, seqSub y.next 1)], none⟩ }))
       ∧ (onBench h = false → ∀ (i : Instr) (w : Word), i = .seqNext h d a ∧ w = fmtR 0x22 d a 0 0 ∨ i = .seqLast h d a ∧ w = fmtR 0x22 d a 0 1
           ∨ i = .seqState h d a ∧ w = fmtR 0x22 d a 0 2 ∨ i = .fenceK h d ∧ w = fmtI 0x23 d 0 2 →
         exec i s = .next (s.settle (s.chip.trapHere h 1 w)))
       ∧ (s.chip.farBusy h = true → exec (.fenceX h) s = .next { s with chip := s.chip.stall h (.fenceX h) })
       ∧ (s.chip.farBusy h = false →
         ((s.chip.hand h).failedWrite = none → exec (.fenceX h) s = .next (s.advances h))
         ∧ ∀ w, (s.chip.hand h).failedWrite = some w →
           exec (.fenceX h) s = .next (s.settle ((s.chip.setHand h { s.chip.hand h with failedWrite := none }).trapHere h 3 w.2))))

/-- START, HALT and SWAP; BCH_ILOAD_b and BCH_DLOAD_b reach the stores, and the scrubber marks what it cannot correct. For every
bench whose domain is on: START of a bench that is not the spare moves each named Halted hand to Run at its ENTRY with every
register and hand CSR at its reset value (a MOVE that is under way goes on), leaves every other hand and memory unchanged, and
ignores the spare; HALT halts each named hand in Run or Wait and leaves hands that are not named unchanged; SWAP makes the
shadow bank active where all hands are Halted and is ignored otherwise. For every bench whose domain is on: a write to
BCH_ILOAD_b stores the word at the address of BCH_ILOAD_ADDR_b in the shadow bank and no other byte, with good parity, and steps
the address; a write to BCH_DLOAD_b does the same in data memory and clears the word's error, and a read changes no byte and
steps the address. A scrubber find beyond correction leaves the word marked so that the next load traps, and any other find
leaves it clean. While the domain is off nothing changes. Rests on R241, R242, R243, R253, R272, R244, R248, R249, R250, R273. -/
def Obligations.BenchCommandsAndStores : Prop :=
  (∀ (b : Fin 16) (mask : BitVec 4) (s : State), s.chip.domainOn (coreDomain b) = true →
     (s.chip.get BCH_SPARE_BENCH ≠ b.val → ∃ t, exec (.start b mask) s = .next t ∧ t.mem = s.mem
       ∧ (∀ k : Nat, k < 4 → t.chip.hand (benchHand b k)
           = if mask.getLsbD k = true ∧ (s.chip.hand (benchHand b k)).state = .halted then
               { state := .run, pc := BitVec.ofNat 18 (s.chip.get (BCH_ENTRY_ENTRY b k)), wdogPeriod := s.chip.get (BCH_WDOG_PERIOD b),
                 wdogFrom := s.chip.tick, cycleFrom := s.chip.tick, move := (s.chip.hand (benchHand b k)).move }
             else s.chip.hand (benchHand b k))
       ∧ (∀ h : HandId, coreOf h ≠ b.val → t.chip.hand h = s.chip.hand h) ∧ (∀ f, t.chip.get f = s.chip.get f)
       ∧ t.chip.cores.cregs = s.chip.cores.cregs ∧ t.chip.cores.cregOwner = s.chip.cores.cregOwner)
     ∧ (s.chip.get BCH_SPARE_BENCH = b.val → exec (.start b mask) s = .next s)
     ∧ (∃ t, exec (.haltRequest b mask) s = .next t
       ∧ (∀ k : Nat, k < 4 → (mask.getLsbD k = true → ((s.chip.hand (benchHand b k)).state = .run ∨ (s.chip.hand (benchHand b k)).state = .wait) →
             (t.chip.hand (benchHand b k)).state = .halted)
           ∧ (mask.getLsbD k = false → t.chip.hand (benchHand b k) = s.chip.hand (benchHand b k)))
       ∧ ∀ f, t.chip.get f = s.chip.get f)
     ∧ (s.chip.allHalted b = true → exec (.swap b) s = .next { s with chip := s.chip.put (BCH_STAT_ACT_BANK b) (1 - s.chip.get (BCH_STAT_ACT_BANK b)) })
     ∧ (s.chip.allHalted b = false → exec (.swap b) s = .next s)) ∧
  (∀ (b : Fin 16) (v : Word) (s : State),
     (s.chip.domainOn (coreDomain b) = true →
       (∀ m k, m = imemBase b (1 - s.chip.bank b) + 4 * s.chip.get (BCH_ILOAD_ADDR_ADDR b) → k < 4 →
         ∃ t, exec (.iload b v) s = .next t ∧ Memory.byte t.mem (m + k) = BitVec.ofNat 8 (v.toNat / 256 ^ k)
           ∧ (∀ a, a < m ∨ m + 4 ≤ a → Memory.byte t.mem a = Memory.byte s.mem a) ∧ mget false t.chip.cores.imark (m / 4) = false
           ∧ t.chip.get (BCH_ILOAD_ADDR_ADDR b) = (s.chip.get (BCH_ILOAD_ADDR_ADDR b) + 1) % 2 ^ (BCH_ILOAD_ADDR_ADDR b).width
           ∧ ∀ h, t.chip.hand h = s.chip.hand h)
       ∧ (∀ m k, m = dmemBase b + 4 * s.chip.get (BCH_DLOAD_ADDR_ADDR b) → k < 4 →
         (∃ t, exec (.dload b (some v)) s = .next t ∧ Memory.byte t.mem (m + k) = BitVec.ofNat 8 (v.toNat / 256 ^ k)
           ∧ (∀ a, a < m ∨ m + 4 ≤ a → Memory.byte t.mem a = Memory.byte s.mem a) ∧ t.chip.soft m = 0
           ∧ t.chip.get (BCH_DLOAD_ADDR_ADDR b) = (s.chip.get (BCH_DLOAD_ADDR_ADDR b) + 1) % 2 ^ (BCH_DLOAD_ADDR_ADDR b).width)
         ∧ (∃ t, exec (.dload b none) s = .next t ∧ t.mem = s.mem
           ∧ t.chip.get (BCH_DLOAD_ADDR_ADDR b) = (s.chip.get (BCH_DLOAD_ADDR_ADDR b) + 1) % 2 ^ (BCH_DLOAD_ADDR_ADDR b).width))
       ∧ (∀ l, exec (.benchScrub b l) s = .next { s with chip := l.foldl (fun c f => c.benchFind b f) s.chip })
       ∧ (∀ f : ScrubFind, f.uncorrectable = false → ∃ t, exec (.benchScrub b [f]) s = .next t ∧ t.mem = s.mem
           ∧ t.chip.soft (dmemBase b + (16 * f.block + 4 * f.word) % 2 ^ 17) = 0)
       ∧ (∀ f : ScrubFind, f.uncorrectable = true → s.chip.on REP_CTL_AUTO_REMAP = false → ∃ t, exec (.benchScrub b [f]) s = .next t ∧ t.mem = s.mem
           ∧ t.chip.soft (dmemBase b + (16 * f.block + 4 * f.word) % 2 ^ 17) = 2 ∧ t.chip.get (BCH_EVT_ECC_UNCORR b) = 1))
     ∧ (s.chip.domainOn (coreDomain b) = false → ∀ i : Instr, (i = .iload b v ∨ i = .dload b (some v) ∨ i = .dload b none ∨ i = .benchScrub b []) →
         exec i s = .next s))

/-- A write to an unfrozen valid ring that changes BENCH, HAND or PORT leaves the register unchanged. A write to BCH_RING_r with
VALID 1, to a ring whose VALID is 1 and FROZEN 0, that changes BENCH, HAND or PORT leaves the whole state unchanged; a write
with legal fields that changes none of them, or goes to a ring that is frozen or not valid, or has VALID 0 (with VALID 1, to a
bench that is not the spare) sets every field of the register as written, raises event 1 at the ring's hand where a full give
side gains room, and then lets the ring take in what waits. Formalises R274. -/
def Obligations.RingRebindingNeedsFrozen : Prop :=
  ∀ (r : Fin 64) (v : Word) (s : State) (n : Nat), n = v.toNat →
    (bit n 25 = true → s.chip.ringValid r = true → s.chip.ringFrozen r = false → 4 ≤ bits n 6 4 → bits n 6 4 ≤ 11 →
      (bits n 0 4 ≠ s.chip.get (BCH_RING_BENCH r) ∨ bits n 4 2 ≠ s.chip.get (BCH_RING_HAND r) ∨ bits n 6 4 ≠ s.chip.get (BCH_RING_PORT r)) →
      exec (.ringBind r v) s = .next s)
    ∧ (4 ≤ bits n 6 4 → bits n 6 4 ≤ 11 → 1 ≤ bits n 10 7 → bits n 10 7 ≤ 64 → 1 ≤ bits n 17 7 → bits n 17 7 ≤ 64 →
      (bit n 25 = false ∨ bits n 0 4 ≠ s.chip.get BCH_SPARE_BENCH) →
      (bit n 25 = false ∨ s.chip.ringValid r = false ∨ s.chip.ringFrozen r = true ∨ (bits n 0 4 = s.chip.get (BCH_RING_BENCH r) ∧ bits n 4 2 = s.chip.get (BCH_RING_HAND r)
        ∧ bits n 6 4 = s.chip.get (BCH_RING_PORT r))) →
      ∃ c : Chip, exec (.ringBind r v) s = .next { s with chip := c.refill r } ∧ c.get (BCH_RING_BENCH r) = bits n 0 4
        ∧ c.get (BCH_RING_HAND r) = bits n 4 2 ∧ c.get (BCH_RING_PORT r) = bits n 6 4 ∧ c.get (BCH_RING_TAKE_DEPTH r) = bits n 10 7
        ∧ c.get (BCH_RING_GIVE_DEPTH r) = bits n 17 7 ∧ c.get (BCH_RING_FROZEN r) = b2n (bit n 24) ∧ c.get (BCH_RING_VALID r) = b2n (bit n 25)
        ∧ ∀ h, (s.chip.giveFull r = false ∨ h ≠ c.ringHand r) → c.hand h = s.chip.hand h)

/-- The hand watchdog bites at its second expiry, an illegal word traps 0x01, a stalled hand goes on, a reclaimed tag is free. In
every state: a second watchdog expiry with no write to WDOG between halts a running bench hand outside a health window, a first
one makes cause 0x06 pending and reloads; a disabled watchdog does nothing; a word that is no instruction raises trap 0x01 with
the word as TVAL in a hand that issues; a hand in Stall with nothing pending evaluates its instruction again (one stalled on
FENCE.L goes on once its MOVE has completed), and one that is not stalled is left as it is; a timed-out tag ends its access with
error code 8, and that of a non-posted STX is freed, its error recorded for FENCE.X unless an earlier write has failed, and
event 3 set. Rests on R265, R276, R277, R278, R257, R260, R264. -/
def Obligations.WatchdogTagAndStall : Prop :=
  ∀ (h : HandId) (s : State),
    (onBench h = true → (s.chip.hand h).wdogPeriod ≠ 0 → (s.chip.hand h).state = .run → s.chip.coreOn h = true → (s.chip.hand h).unfed = true →
      s.chip.get UPD_STAT_PHASE ≠ 4 →
      ∃ t, exec (.wdogExpiry h) s = .next t ∧ (t.chip.hand h).state = .halted)
    ∧ ((s.chip.hand h).wdogPeriod = 0 → exec (.wdogExpiry h) s = .next s)
    ∧ ((s.chip.hand h).wdogPeriod ≠ 0 → (s.chip.hand h).state = .run → s.chip.coreOn h = true → (s.chip.hand h).unfed = false →
      exec (.wdogExpiry h) s = .next (s.settle ((s.chip.setHand h { s.chip.hand h with
        expired := true
        unfed := true
        wdogFrom := s.chip.tick
        pend06 := true }).boundary h)))
    ∧ (∀ w, s.chip.issues h = true → legalWord h w = false → exec (.illegalInstruction h w) s = .next (s.settle (s.chip.trapHere h 1 w)))
    ∧ ((s.chip.hand h).state = .stall → (s.chip.hand h).stalled = some (.fenceL h) → s.chip.coreOn h = true →
      (s.chip.hand h).pendingCause = false → (s.chip.hand h).move = none → exec (.stallResume h) s = .next (s.advances h))
    ∧ (∀ i, (s.chip.hand h).state = .stall → (s.chip.hand h).stalled = some i → s.chip.coreOn h = true →
      ((s.chip.hand h).pendingCause = false ∨ s.chip.atBoundary h = false) → exec (.stallResume h) s = .next (s.again h i))
    ∧ ((s.chip.hand h).state ≠ .stall → exec (.stallResume h) s = .next s)
    ∧ (∀ (k : Fin 2048) (x : Tag), s.chip.tagAt k = some x →
      exec (.tagTimeout k) s = .next (State.endAccess { s with chip := s.chip.withdrawTag k } k x 8 0))
    ∧ (∀ (k : Fin 2048) (x : Tag), s.chip.tagAt k = some x → x.kind = .stx →
      ∃ t, exec (.tagTimeout k) s = .next t ∧ t.chip.tagAt k = none
        ∧ ((s.chip.hand x.req.hand).failedWrite = none → ∃ n, (t.chip.hand x.req.hand).failedWrite = some (n, x.req.far))
        ∧ (∀ w, (s.chip.hand x.req.hand).failedWrite = some w → (t.chip.hand x.req.hand).failedWrite = some w
          ∨ ∃ n, n ≤ w.1 ∧ (t.chip.hand x.req.hand).failedWrite = some (n, x.req.far))
        ∧ (t.chip.hand x.req.hand).events = setBit (s.chip.hand x.req.hand).events 3 ∧ t.mem = s.mem)

/-- Cold reset, RESET_N, NODE_RESET and brown-out leave what Table 14.4 says, with the straps sampled. After COLD_RESET every
register but the straps has its reset value, every addressed memory below the staging region reads as never written, and flash
is kept. NODE_RESET, BROWN_OUT and RESET_N going low record their kind in CLK_RST_CAUSE, return start-up to step 1, switch every
domain on (PD-LODGE alone where the fuses had failed, CLK_BOOT.FAIL 1), end TEST, clear the switch, tunnels, rings' tags and
mailbox, and keep flash; the straps given are those CLK_STRAP then shows. RESET_N returning high ends the hold and goes to step
2 (to step 1 while the fuse shadow is not loaded); where it was not held, the whole pulse is one such reset of kind 1. RESET_N
going low again while it is held changes nothing. Rests on R380, R381, R382, R385, R386, R525, R564. -/
def Obligations.ResetsReachTheirDomains : Prop :=
  ∀ (straps : BitVec 3) (s : State),
    (∃ t, exec (.coldReset straps) s = .next t ∧ t.pending = s.pending
      ∧ (∀ f : Fld, f.key ≠ CLK_STRAP_ROWHEAD.key → f.key ≠ CLK_STRAP_BOOTMODE.key → t.chip.get f = f.rst)
      ∧ t.chip.get CLK_STRAP_ROWHEAD = straps.toNat % 2 ∧ t.chip.get CLK_STRAP_BOOTMODE = straps.toNat / 2
      ∧ (s.MemOk → ∀ a, Memory.byte t.mem a = if a < stagingBase then 0 else Memory.byte s.mem a)
      ∧ t.chip.upd.dirA = s.chip.upd.dirA ∧ t.chip.upd.dirB = s.chip.upd.dirB ∧ ∀ h, t.chip.hand h = {})
    ∧ (∀ (i : Instr) (kind : Nat), (i = .nodeReset straps ∧ kind = 4) ∨ (i = .brownOut straps ∧ kind = 3) ∨ (i = .resetNAsserted ∧ kind = 1 ∧ s.chip.boot.held = false) →
      ∃ t, exec i s = .next t ∧ t.chip.get CLK_RST_CAUSE_KIND = kind ∧ t.chip.get CLK_BOOT_STEP = 1
        ∧ t.chip.get PWR_STAT_DOM_ON = (if t.chip.get CLK_BOOT_FAIL = 1 then 1 else 0xFFFF) ∧ t.chip.get PWR_STAT_STATE = 0 ∧ t.chip.get GLB_STANCE_STANCE = 0
        ∧ t.chip.tuns = [] ∧ t.chip.sw = {} ∧ t.chip.mbx = {} ∧ t.chip.cores.rings = [] ∧ t.chip.cores.tags = []
        ∧ t.chip.boot.porter = false ∧ t.chip.upd.dirA = s.chip.upd.dirA ∧ t.chip.upd.dirB = s.chip.upd.dirB
        ∧ (s.MemOk → ∀ a, stagingBase ≤ a → Memory.byte t.mem a = Memory.byte s.mem a)
        ∧ (i = .resetNAsserted → t.chip.boot.held = true)
        ∧ (i ≠ .resetNAsserted → t.chip.get CLK_STRAP_ROWHEAD = straps.toNat % 2 ∧ t.chip.get CLK_STRAP_BOOTMODE = straps.toNat / 2))
    ∧ (s.chip.boot.held = true → exec .resetNAsserted s = .next s
      ∧ exec (.resetN straps) s = .next { s with chip := ({ s.chip with boot := { s.chip.boot with held := false } }.sampleStraps straps.toNat).put CLK_BOOT_STEP (if s.chip.boot.fuses.isSome then 2 else 1) })
    ∧ (s.chip.boot.held = false → ∃ t, exec (.resetN straps) s = .next t ∧ t.chip.boot.held = false ∧ t.chip.get CLK_RST_CAUSE_KIND = 1
        ∧ t.chip.get CLK_BOOT_STEP = (if t.chip.boot.fuses.isSome then 2 else 1) ∧ t.chip.tuns = [] ∧ t.chip.sw = {} ∧ t.chip.mbx = {}
        ∧ t.chip.get CLK_STRAP_ROWHEAD = straps.toNat % 2 ∧ t.chip.get CLK_STRAP_BOOTMODE = straps.toNat / 2)

/-- A clock failure resets the node and holds it; a trip of the active root with a ready standby swaps roots and resets nothing. A
trip of the root that is not active resets nothing: it shutters the node (cause CLOCK), and a LOCK trip clears that root's LOCK
and ALIGNED. REF_MONITOR_TRIP, and a LOCK or FREQ trip of the active root when no swap is possible, make a node reset of kind 2
that is held. A trip of the active root with AUTO_SWAP 1 and the standby locked and aligned makes the standby active, clears
ALIGNED, counts the swap and changes no memory and holds no reset. CLOCK_RECOVERY restarts a node held by a clock failure at
step 1 on the root that locked, and changes nothing where no failure holds or neither root has locked. STANDBY_ROOT_ALIGNED
shows the standby locked and aligned. Rests on R377, R378, R379, R553. -/
def Obligations.ClockFailuresAndRootSwaps : Prop :=
  ∀ (straps : BitVec 3) (lockA lockB : Bool) (root : Fin 2) (s : State),
    (∃ t, exec .refMonitorTrip s = .next t ∧ t.chip.get CLK_RST_CAUSE_KIND = 2 ∧ t.chip.boot.clockFail = true ∧ t.chip.tuns = [])
    ∧ (s.chip.get CLK_STAT_ROOT_ACT = root.val → s.chip.on CLK_CTL_AUTO_SWAP = true → s.chip.standbyReady = true →
      ∀ i : Instr, i = .lockMonitorTrip root ∨ i = .freqMonitorTrip root →
        ∃ t, exec i s = .next t ∧ t.chip.get CLK_STAT_ROOT_ACT = 1 - root.val ∧ t.chip.get CLK_STAT_ALIGNED = 0 ∧ t.mem = s.mem
          ∧ t.chip.get CLK_SWAP_CNT = min (s.chip.get CLK_SWAP_CNT + 1) (2 ^ 32 - 1) ∧ t.chip.boot = s.chip.boot)
    ∧ (s.chip.get CLK_STAT_ROOT_ACT = root.val → (s.chip.on CLK_CTL_AUTO_SWAP = false ∨ s.chip.standbyReady = false) →
      ∀ i : Instr, i = .lockMonitorTrip root ∨ i = .freqMonitorTrip root →
        ∃ t, exec i s = .next t ∧ t.chip.get CLK_RST_CAUSE_KIND = 2 ∧ t.chip.boot.clockFail = true)
    ∧ (s.chip.get CLK_STAT_ROOT_ACT ≠ root.val →
      exec (.lockMonitorTrip root) s = .next { s with chip := (s.chip.lockTrip root.val).shutter causeClock }
      ∧ exec (.freqMonitorTrip root) s = .next { s with chip := (s.chip.evt (if root.val = 0 then CLK_EVT_FREQ_A else CLK_EVT_FREQ_B)).shutter causeClock }
      ∧ ((s.chip.lockTrip root.val).shutter causeClock).get (if root.val = 0 then CLK_STAT_LOCK_A else CLK_STAT_LOCK_B) = 0
      ∧ ((s.chip.lockTrip root.val).shutter causeClock).get CLK_STAT_ALIGNED = 0)
    ∧ (s.chip.boot.clockFail = false ∨ (lockA = false ∧ lockB = false) → exec (.clockRecovery straps lockA lockB) s = .next s)
    ∧ (s.chip.boot.clockFail = true → lockA = true ∨ lockB = true → ∃ t, exec (.clockRecovery straps lockA lockB) s = .next t ∧ t.mem = s.mem
      ∧ t.chip.boot.clockFail = false ∧ t.chip.get CLK_STAT_REF_OK = 1 ∧ t.chip.get CLK_STAT_LOCK_A = b2n lockA ∧ t.chip.get CLK_STAT_LOCK_B = b2n lockB
      ∧ t.chip.get CLK_STAT_ROOT_ACT = b2n (!lockA) ∧ t.chip.get CLK_BOOT_STEP = 1 ∧ t.chip.get CLK_BOOT_FAIL = s.chip.get CLK_BOOT_FAIL)
    ∧ (∃ t, exec .standbyRootAligned s = .next t ∧ t.mem = s.mem ∧ t.chip.get CLK_STAT_ALIGNED = 1
      ∧ (s.chip.get CLK_STAT_ROOT_ACT = 0 → t.chip.get CLK_STAT_LOCK_B = 1) ∧ (s.chip.get CLK_STAT_ROOT_ACT = 1 → t.chip.get CLK_STAT_LOCK_A = 1)
      ∧ t.chip.get CLK_STAT_ROOT_ACT = s.chip.get CLK_STAT_ROOT_ACT)

/-- START_UP stops at its failures and holds; the gate, net seeding and the head decision act as Tables 14.5 and 14.7 say. START_UP
from step 1 loads the fuse shadow, the domains and the rootstock and goes on with Porter's steps 3 to 5; with BOOTMODE 0, the
directory and the items of Porter present it loads Porter and completes step 5. It changes nothing while a reset is held or
after a failed step 1; a bad fuse shadow leaves only PD-LODGE on with FAIL 1; no locked root gives FAIL 2 and a held clock
failure; with BOOTMODE 2 it waits at step 3, and with no valid directory it records FAIL 4 and starts seeding. The training
gate, once open, stays as it is; opened, permission is given and every port whose domain is on drives its clock lane; while a
reset is held nothing happens. SEED_TMO restarts the item with FAIL 7; a seed request of another class or with COUNT 0 is not
answered, and one for an item held is answered with COUNT cells; a seed cell that arrives on a downstream port is ignored, one
that completes an item that passes stores it and goes back to step 3, one that fails records FAIL 7, and one that ends a group
of 64 asks for the next. The head decision makes a strapped node without partners above the A head at position 0 and another
strapped node the Z head (role 2, at its own trellis entry too), and changes nothing else where the strap is 0. Rests on R387,
R388, R390, R391, R13, R14. -/
def Obligations.StartUpStepsAndFailures : Prop :=
  ∀ (f : StartFind) (p : TPort) (c : Cell) (s : State),
    ((s.chip.boot.held = true ∨ s.chip.boot.clockFail = true ∨ s.chip.get CLK_BOOT_FAIL = 1) → exec (.startUp f) s = .next s)
    ∧ (s.chip.boot.held = false → s.chip.boot.clockFail = false → s.chip.get CLK_BOOT_FAIL ≠ 1 → s.chip.get CLK_BOOT_STEP = 1 →
      (f.fuseOk = false → exec (.startUp f) s = .next { s with chip := (s.chip.put PWR_STAT_DOM_ON 1).bootFail 1 })
      ∧ (f.fuseOk = true → f.lockA = false → f.lockB = false → ∃ t, exec (.startUp f) s = .next t ∧ t.mem = s.mem
        ∧ t.chip.boot.clockFail = true ∧ t.chip.get CLK_BOOT_FAIL = 2))
    ∧ (s.chip.boot.held = false → s.chip.boot.clockFail = false → s.chip.get CLK_BOOT_FAIL ≠ 1 → s.chip.get CLK_BOOT_STEP = 3 →
      ∀ d, d = (s.chip.put CLK_BOOT_STEP 3).loadVkey →
      (d.get CLK_STRAP_BOOTMODE = 2 → exec (.startUp f) s = .next { s with chip := d })
      ∧ exec (.startUp f) s = .next s.bootPorter
      ∧ (∀ e2 e3, d.get CLK_STRAP_BOOTMODE = 0 → d.dir.isSome = true → (d.put CLK_BOOT_STEP 4).pickRecord 2 255 = some e2 → (d.put CLK_BOOT_STEP 4).pickRecord 3 255 = some e3 →
        ∀ u : State, u = (State.loadPorter { s with chip := d.put CLK_BOOT_STEP 4 } e3.item).withChip (fun c => c.put CLK_BOOT_STEP 5) → u.chip.boot.seeded = [] →
        exec (.startUp f) s = .next u.bootTables)
      ∧ (d.get CLK_STRAP_BOOTMODE = 0 → d.dir = none → exec (.startUp f) s = .next { s with chip := (d.bootFail 4).startSeed }))
    ∧ (s.chip.boot.held = false → s.chip.boot.clockFail = false → s.chip.get CLK_BOOT_FAIL ≠ 1 → f.fuseOk = true → f.lockA = true ∨ f.lockB = true →
      (s.chip.get CLK_BOOT_STEP = 1 → exec (.startUp f) s = .next (State.bootPorter { s with chip := (s.chip.bootLodge f).bootPuf f }))
      ∧ (s.chip.get CLK_BOOT_STEP = 2 → exec (.startUp f) s = .next (State.bootPorter { s with chip := s.chip.bootPuf f })))
    ∧ (s.chip.boot.gate = true ∨ s.chip.boot.held = true ∨ s.chip.boot.clockFail = true → exec .trainingGateOpen s = .next s)
    ∧ (s.chip.boot.held = false → s.chip.boot.clockFail = false → s.chip.boot.gate = false →
      ∃ t, exec .trainingGateOpen s = .next t ∧ t.chip = s.chip.openGate ∧ t.chip.boot.gate = true ∧ t.mem = s.mem
        ∧ (s.chip.boot.ledgerNode.isSome = true → ∀ q, s.chip.trunkOn q = true → (t.chip.lane q).clkOn = true))
    ∧ (s.chip.boot.seed = none → exec .seedRetry s = .next s)
    ∧ (∀ item total pieces, s.chip.boot.seed = some (item, total, pieces) → exec .seedRetry s =
        .next { s with chip := (Chip.bootFail { s.chip with boot := { s.chip.boot with seed := some (item, 0, []) } } 7).askSeed })
    ∧ ((s.chip.boot.porter = false ∨ rd c.data 12 4 ≠ s.chip.get GLB_LIKENESS_CLASS ∨ rd c.data 3 1 = 0) → exec (.seedReq p c) s = .next s)
    ∧ (∀ e off r, off = rd c.data 4 4 → r = e.stored → isNotice c 0x20 = true → s.chip.boot.porter = true →
        rd c.data 12 4 = s.chip.get GLB_LIKENESS_CLASS → off % 64 = 0 → 1 ≤ rd c.data 3 1 → rd c.data 3 1 ≤ 64 →
        [2, 3, 7].contains (rd c.data 2 1) = true → s.chip.activeItem (rd c.data 2 1) 255 = some e →
        exec (.seedReq p c) s = .next { s with
          chip := (List.range (rd c.data 3 1)).foldl (fun (x : Chip) i =>
            if off + 64 * i < r.length then
              x.sendAdmission p (x.seedCell p 0x21 (rd c.data 2 1) 0 (off + 64 * i) r.length 0 ((r.drop (off + 64 * i)).take 64))
            else x) s.chip })
    ∧ (p = .nd ∨ p = .sd → exec (.seedData p c) s = .next s)
    ∧ (∀ item total pieces, s.chip.boot.seed = some (item, total, pieces) → (p = .nu ∨ p = .su) → isNotice c 0x21 = true → rd c.data 2 1 = item →
        rd c.data 4 4 % 64 = 0 → rd c.data 4 4 < rd c.data 8 4 → (total = 0 ∨ total = rd c.data 8 4) →
        (∀ n, n = piecesRun (mset [] pieces (rd c.data 4 4 / 64) (slice c.data 16 64)) 0 → 64 * n < rd c.data 8 4 → n % 64 ≠ 0 →
          exec (.seedData p c) s = .next { s with
            chip := { s.chip with boot := { s.chip.boot with seed := some (item, rd c.data 8 4, mset [] pieces (rd c.data 4 4 / 64) (slice c.data 16 64)) } } }))
    ∧ (∀ item total pieces, s.chip.boot.seed = some (item, total, pieces) → (p = .nu ∨ p = .su) → isNotice c 0x21 = true → rd c.data 2 1 = item →
        rd c.data 4 4 % 64 = 0 → rd c.data 4 4 < rd c.data 8 4 → (total = 0 ∨ total = rd c.data 8 4) →
        ∀ (ps : SMap (List Byte)) (n : Nat) (u : State) (e : FlashEntry), ps = mset [] pieces (rd c.data 4 4 / 64) (slice c.data 16 64) → n = piecesRun ps 0 →
          u = { s with chip := { s.chip with boot := { s.chip.boot with seed := some (item, rd c.data 8 4, ps) } } } →
          e = boundRecord item ((ps.flatMap (·.2)).take (rd c.data 8 4)) →
        (rd c.data 8 4 ≤ 64 * n → u.chip.boundOk item e.header = true → u.chip.programOk e = true →
          exec (.seedData p c) s = .next (State.bootPorter { u with chip := u.chip.acceptSeed e }))
        ∧ (rd c.data 8 4 ≤ 64 * n → u.chip.boundOk item e.header = false ∨ u.chip.programOk e = false →
          exec (.seedData p c) s = .next { u with chip := u.chip.bootFail 7 })
        ∧ (64 * n < rd c.data 8 4 → n % 64 = 0 → n ≠ 0 → rd c.data 4 4 / 64 + 1 = n →
          exec (.seedData p c) s = .next { u with chip := u.chip.askSeed }))
    ∧ (s.chip.braid.window = true → s.chip.get CLK_STRAP_ROWHEAD = 1 → s.chip.braid.losNu = true → s.chip.braid.losSu = true →
        ∀ w a : Chip, w = { s.chip with braid := { s.chip.braid with window := false } } →
        a = ((w.setAddress (1024 * (s.chip.boot.ledgerNode.getD 0 / 1024))).put BRD_STAT_ROLE 1).put (BRD_TRELLIS_ROLE 0) 1 →
        a.get BRD_STAT_ROLE = 1 ∧ a.get BRD_STAT_POS = 0 ∧ a.get BRD_STAT_POS_VALID = 1
        ∧ exec .headDecision s = .next { s with chip := (((a.setPos 0 posMember).storeAddress).applyOwn).nowMember.reviewTime })
    ∧ (s.chip.braid.window = false → exec .headDecision s = .next s)
    ∧ (s.chip.braid.window = true → s.chip.get CLK_STRAP_ROWHEAD = 0 →
        exec .headDecision s = .next { s with chip := { s.chip with braid := { s.chip.braid with window := false } } })
    ∧ (s.chip.braid.window = true → s.chip.get CLK_STRAP_ROWHEAD = 1 → (s.chip.braid.losNu = false ∨ s.chip.braid.losSu = false) → s.chip.on BRD_STAT_POS_VALID = false →
        exec .headDecision s = .next { s with chip := (Chip.put { s.chip with braid := { s.chip.braid with window := false } } BRD_STAT_ROLE 2).reviewTime })
    ∧ (s.chip.braid.window = true → s.chip.get CLK_STRAP_ROWHEAD = 1 → (s.chip.braid.losNu = false ∨ s.chip.braid.losSu = false) → s.chip.on BRD_STAT_POS_VALID = true →
        exec .headDecision s = .next { s with chip := (Chip.put (Chip.put { s.chip with braid := { s.chip.braid with window := false } } BRD_STAT_ROLE 2) (BRD_TRELLIS_ROLE (s.chip.get BRD_STAT_POS)) 2).reviewTime })

/-- Lane signals and retrain requests have the effects of R40 to R68; a port trains, is retried, falls back or waits. For every
port, in every state: LOS on the clock lane records LOS_CK and loses the port; its end clears LOS_CK, and at an A head shows a
head conflict upstream; LOS on a data lane that is not in use is only recorded, at a partnered port LOS on every lane in use
loses the port, and on one of several at an Up port it is a lane fault; its end clears its bit. LOL, measured while a clock is
received, clears DLL_LOCK and loses the port, and its end clears LOL. Bad headers are counted at an Up port, 16 of 64 lose block
lock, and at an Up port a lane in use is then a lane fault. Drift moves a lane only while DRIFT_EN is 1. HID is recorded without
touching the ports. A received retrain request starts a retrain at an Up leader with the partner's REASON and failed lanes, is a
collision during an attempt, and is discarded by a follower. CTL.RETRAIN asks for a retrain with reason 1, or ends a park;
CTL.PARK parks. A park block parks a port whose domain is on and sets PARKED_BY_PARTNER, the event alone where it is Parked
already. Training starts where R56 permits it on a port that waits, a pending attempt going on at its rate and count, and
otherwise nothing changes. A received block acts only as a control block (sync header 10) whose descrambled payload has the TYPE
and CHECK of the command. TS1 at an Up port retrains, at a Parked one asks to leave the park, in steps 1 to 3 takes the lanes
found, and at a later step starts step 1 again; a Pruned partner is answered with a park block. TS2 at step 4 takes the
partner's lanes and targets, and the leader then decides; TS3, the end of the verify dwell at step 6, TS4 at steps 6 and 7 and
TS5 at the follower with both verdicts each act as R58 says. TRAIN_TMO of a full attempt starts the next one, below RETRY_LIM at
the rate, at RETRY_LIM at the next slower rate with FALLBACK_EN, and else goes to Retry-wait; of a rate change it loses the
port. RETRY_INT restarts a port in Retry-wait; FAST_TMO loses a port in a fast retrain. Rests on R40, R44, R51, R52, R54, R56,
R58, R59, R62, R63, R64, R65. -/
def Obligations.LaneSignalsAndTraining : Prop :=
  (∀ (p : TPort) (s : State),
     exec (.losAssert p 9) s = .next { s with chip := ((((s.chip.put (TRK_LOS_LOS_CK p.num) 1).evt (TRK_EVT_LOS_CK p.num)).presenceEdge p).portLost p 0) }
     ∧ (∀ lane : Fin 10, lane.val < 9 → ∀ c, c = (s.chip.setBitOf (TRK_LOS_LOS_LANE p.num) lane).evtBit (TRK_EVT_LOS_LANE p.num) lane →
       ((c.on (TRK_STAT_PARTNERED p.num) = false ∨ (c.activeRx p).contains lane.val = false) → exec (.losAssert p lane) s = .next { s with chip := c })
       ∧ (c.on (TRK_STAT_PARTNERED p.num) = true → (c.activeRx p).contains lane.val = true → (∀ i ∈ c.activeRx p, bit (c.get (TRK_LOS_LOS_LANE p.num)) i = true) →
         exec (.losAssert p lane) s = .next { s with chip := c.portLost p 0 })
       ∧ (c.on (TRK_STAT_PARTNERED p.num) = true → c.laneState p = laneUp → (c.activeRx p).contains lane.val = true → (∃ i ∈ c.activeRx p, bit (c.get (TRK_LOS_LOS_LANE p.num)) i = false) →
         exec (.losAssert p lane) s = .next { s with chip := c.laneFault p lane })
       ∧ exec (.losDeassert p lane) s = .next { s with chip := s.chip.clrBitOf (TRK_LOS_LOS_LANE p.num) lane })
     ∧ (∀ c, c = ((s.chip.put (TRK_LOS_LOS_CK p.num) 0).presenceEdge p).seenUp p →
       ((p.up = false ∨ c.get BRD_STAT_ROLE ≠ 1) → exec (.losDeassert p 9) s = .next { s with chip := c })
       ∧ (p.up = true → c.get BRD_STAT_ROLE = 1 → exec (.losDeassert p 9) s = .next { s with chip := (c.put BRD_STAT_HEAD_CONFLICT 1).evt BRD_EVT_HEAD_CONFLICT }))
     ∧ (∀ out, (s.chip.on (TRK_LOS_LOS_CK p.num) = true → exec (.lol p out) s = .next s)
       ∧ (s.chip.on (TRK_LOS_LOS_CK p.num) = false → exec (.lol p out) s = .next { s with
           chip := if out = true then (((s.chip.put (TRK_LOS_LOL p.num) 1).evt (TRK_EVT_LOL p.num)).put (TRK_STAT_DLL_LOCK p.num) 0).portLost p 0
             else s.chip.put (TRK_LOS_LOL p.num) 0 }))
     ∧ (∀ (lane : Fin 9) (bad : Nat) (c d : Chip), c = (if s.chip.laneState p = laneUp then s.chip.addSat (TRK_BERR_HDR_ERR p.num lane) bad else s.chip) →
       d = c.setLane p { c.lane p with locked := clrBit (c.lane p).locked lane } →
       (bad < 16 → exec (.lockLost p lane bad) s = .next { s with chip := c })
       ∧ (16 ≤ bad → (s.chip.laneState p ≠ laneUp ∨ (d.activeRx p).contains lane.val = false) → exec (.lockLost p lane bad) s = .next { s with chip := d })
       ∧ (16 ≤ bad → s.chip.laneState p = laneUp → (d.activeRx p).contains lane.val = true →
         exec (.lockLost p lane bad) s = .next { s with chip := (d.evt (TRK_EVT_LOCK_LOST p.num)).laneFault p lane }))
     ∧ (∀ (lane : Fin 9) (later : Bool), (s.chip.get (TRK_CTL_DRIFT_EN p.num) = 0 → exec (.driftTrack p lane later) s = .next s)
       ∧ (s.chip.get (TRK_CTL_DRIFT_EN p.num) ≠ 0 → exec (.driftTrack p lane later) s = .next { s with
           chip := s.chip.setLane p { s.chip.lane p with finds := (s.chip.lane p).finds.map (fun f => if f.rx.val = lane.val then stepFind f later else f) } }))
     ∧ (∀ hid : Fin 16, ∃ t, exec (.hidChanged hid) s = .next t ∧ t.chip.boot.hid = hid.val ∧ t.chip.shown 0x34008 [] = some hid.val ∧ t.mem = s.mem ∧ t.chip.lanes = s.chip.lanes)
     ∧ (∀ blk c, s.chip.rxControl p blk = (none, c) → exec (.retrainRequest p blk) s = .next { s with chip := c } ∧ exec (.parkBlock p blk) s = .next { s with chip := c })
     ∧ (∀ blk w b c, s.chip.rxControl p blk = (some w, c) → blockOf 0xA6 w = some b →
       (p.leads = false → exec (.retrainRequest p blk) s = .next { s with chip := c })
       ∧ (p.leads = true → (c.lane p).attempt ≠ .none → exec (.retrainRequest p blk) s = .next { s with chip := c.evt (TRK_EVT_COLLISION p.num) })
       ∧ (p.leads = true → (c.lane p).attempt = .none → c.laneState p = laneUp →
         exec (.retrainRequest p blk) s = .next { s with
           chip := (c.setLane p { c.lane p with txFailed := (c.lane p).txFailed ||| (allLanes p - (allLanes p &&& tbMask b)) }).startRetrain p (tbRate b) (tbReason b) }))
     ∧ (s.chip.laneState p = laneParked → exec (.retrain p) s = .next { s with chip := s.chip.setLane p { s.chip.lane p with leave := true } })
     ∧ (s.chip.laneState p ≠ laneParked → exec (.retrain p) s = .next { s with chip := s.chip.askRetrain p 1 })
     ∧ exec (.park p) s = .next { s with chip := s.chip.parkPort p 1 }
     ∧ (∀ blk w b c, s.chip.rxControl p blk = (some w, c) → blockOf 0xA7 w = some b →
       (c.trunkOn p = false → exec (.parkBlock p blk) s = .next { s with chip := c })
       ∧ (c.trunkOn p = true → c.laneState p = laneParked → exec (.parkBlock p blk) s = .next { s with chip := c.evt (TRK_EVT_PARKED_BY_PARTNER p.num) })
       ∧ (∀ d e, d = (c.enterParked p).evt (TRK_EVT_PARKED_BY_PARTNER p.num) → e = (if d.get CLK_BOOT_STEP = 7 ∧ tbReason b = 0 then d.bootFail 9 else d) →
         c.trunkOn p = true → c.laneState p ≠ laneParked → (c.braid.dormantSeen.get p = false ∨ tbReason b ≠ 5 ∨ c.partnerIs p posMember = false) →
         exec (.parkBlock p blk) s = .next { s with chip := (Chip.reviewSplit { e with braid := { e.braid with dormantSeen := e.braid.dormantSeen.set p false } } p.up) })
       ∧ (∀ d e, d = (c.enterParked p).evt (TRK_EVT_PARKED_BY_PARTNER p.num) → e = (if d.get CLK_BOOT_STEP = 7 ∧ tbReason b = 0 then d.bootFail 9 else d) →
         c.trunkOn p = true → c.laneState p ≠ laneParked → c.braid.dormantSeen.get p = true → tbReason b = 5 → c.partnerIs p posMember = true →
         exec (.parkBlock p blk) s = .next { s with chip := (Chip.reviewSplit (Chip.observe { e with braid := { e.braid with dormantSeen := e.braid.dormantSeen.set p false } } p posDormant) p.up) }))) ∧
  (∀ (p : TPort) (blk : RxBlock) (s : State),
     (s.chip.mayTrain p = false → exec (.trainingStart p) s = .next s)
     ∧ (s.chip.mayTrain p = true → (s.chip.laneState p = laneOff ∨ s.chip.laneState p = laneWaiting ∨ (s.chip.laneState p = laneParked ∧ (s.chip.lane p).leave = true)) →
         ∀ c, c = (if s.chip.partnerIs p posAbsent = true ∨ s.chip.partnerIs p posGrafted = true ∨ s.chip.partnerIs p posDormant = true then s.chip.observe p posTraining else s.chip) →
         ((c.lane p).pendingTry = none → exec (.trainingStart p) s = .next { s with chip := c.beginAttempt p (c.tgtRate p) 0 })
         ∧ (∀ r n, (c.lane p).pendingTry = some (r, n) → exec (.trainingStart p) s = .next { s with chip := c.beginAttempt p r n }))
     ∧ (∀ c found, s.chip.rxControl p blk = (none, c) → ∀ i : Instr, i = .ts1 p found blk ∨ i = .ts2 p blk ∨ i = .ts3 p blk ∨ i = .ts4 p blk ∨ i = .ts5 p blk →
         exec i s = .next { s with chip := c })
     ∧ (syncHeader blk ≠ 2 → (s.chip.rxControl p blk).1 = none)
     ∧ ∀ (w : BitVec 64) (c : Chip), s.chip.rxControl p blk = (some w, c) →
     (∀ found, (blockOf 0xA1 w = none → exec (.ts1 p found blk) s = .next { s with chip := c })
       ∧ (∀ b, blockOf 0xA1 w = some b →
         (c.partnerIs p posPruned = true → exec (.ts1 p found blk) s = .next { s with chip := c.sendBlock p 0xA7 (c.tgtRate p) (c.tgtWidth p) 0 1 })
         ∧ (c.partnerIs p posPruned = false → c.laneState p = laneUp → exec (.ts1 p found blk) s = .next { s with chip := (c.startRetrain p (tbRate b) 0).lanesFound p found })
         ∧ (c.partnerIs p posPruned = false → c.laneState p = laneParked → exec (.ts1 p found blk) s = .next { s with chip := c.setLane p { c.lane p with leave := true } })
         ∧ (c.partnerIs p posPruned = false → c.laneState p ≠ laneUp → c.laneState p ≠ laneParked → (c.lane p).attempt ≠ .none →
           exec (.ts1 p found blk) s = .next { s with chip := if 4 ≤ (c.lane p).step then (c.again p (max (c.wantRate p) (tbRate b))).lanesFound p found else c.lanesFound p found })))
     ∧ ((blockOf 0xA2 w = none ∨ (c.lane p).step ≠ 4) → exec (.ts2 p blk) s = .next { s with chip := c })
     ∧ (∀ b, blockOf 0xA2 w = some b → (c.lane p).step = 4 →
       ∃ d : Chip, d.lane p = { c.lane p with partnerUsable := tbMask b, step := 5 }
         ∧ d.get (TRK_PARTNER_P_HID p.num) = tbHid b ∧ d.get (TRK_PARTNER_P_RATE p.num) = tbRate b ∧ d.get (TRK_PARTNER_P_WIDTH p.num) = tbWidth b
         ∧ exec (.ts2 p blk) s = .next { s with chip := if p.leads = true then d.decide3 p (min (popCount (c.lane p).usable 9) (popCount (tbMask b) 9)) else d })
     ∧ (∀ b, blockOf 0xA3 w = some b → 5 ≤ (c.lane p).step → p.leads = false →
       exec (.ts3 p blk) s = .next { s with
         chip := (((c.put (TRK_STAT_STATE p.num) laneVerify).setLane p { c.lane p with
           step := 6
           rate := tbRate b
           width := tbWidth b
           fails := (c.lane p).failsAt (tbRate b)
           verdict := none
           partnerVerdict := none }).sendBlock p 0xA3 (tbRate b) (tbWidth b) 0 0).sendZeros p })
     ∧ (∀ b, blockOf 0xA3 w = some b → (c.lane p).step = 5 → p.leads = true →
       exec (.ts3 p blk) s = .next { s with chip := ((c.put (TRK_STAT_STATE p.num) laneVerify).setLane p { c.lane p with step := 6 }).sendZeros p })
     ∧ (∀ b, blockOf 0xA4 w = some b → ((c.lane p).step = 6 ∨ (c.lane p).step = 7) →
       exec (.ts4 p blk) s = .next { s with
         chip := ((c.setLane p { c.lane p with partnerVerdict := some (tbMask b) }).put (TRK_PARTNER_P_MASK p.num) (tbMask b)).conclude p })
     ∧ (∀ b own partner, blockOf 0xA5 w = some b → p.leads = false → (c.lane p).step = 7 → (c.lane p).verdict = some own →
       (c.lane p).partnerVerdict = some partner → exec (.ts5 p blk) s = .next { s with
         chip := (c.setLane p { c.lane p with
           rate := tbRate b
           width := tbWidth b }).goUp p own partner }))

/-- The verify dwell's end gives the verdict, and an attempt's time limits retry it, fall back, wait or lose the port. The end of
the verify dwell at step 6 passes the lanes in use that are in block lock, without LOS and within ERR_THR, stores them in
GOOD_MASK and sends TS4; at other steps nothing changes. TRAIN_TMO of a full attempt counts a failure, records FAIL 8 in
start-up's steps 6 to 8, and starts the next attempt: below RETRY_LIM at the same rate, else with FALLBACK_EN at the next slower
rate, and with no slower rate or without FALLBACK_EN goes to Retry-wait with TRAIN_FAIL; of a rate change it loses the port;
without an attempt nothing happens. RETRY_INT restarts a port in Retry-wait at its target rate, and no other; FAST_TMO loses a
port in a fast retrain, and no other. Rests on R58, R60, R66. -/
def Obligations.TrainingTimeouts : Prop :=
  ∀ (p : TPort) (s : State),
    (∀ errors tails, (s.chip.lane p).step ≠ 6 → exec (.verifyDwellEnd p errors tails) s = .next s)
    ∧ (∀ errors tails l mask, (s.chip.lane p).step = 6 →
      l = { s.chip.lane p with descramblers := (s.chip.lane p).descramblers.mapIdx (fun i d => match tails[i]? with
        | some t => BitVec.toNat t
        | none => d) } →
      mask = (((lanesOf (s.chip.lane p).usable).filter (fun i => decide (errors.getD i 0 ≤ s.chip.get (TRK_VERIFY_ERR_THR p.num)) && bit (s.chip.lane p).locked i
        && !bit (s.chip.get (TRK_LOS_LOS_LANE p.num)) i)).map (fun i => 2 ^ i)).foldl (· ||| ·) 0 →
      exec (.verifyDwellEnd p errors tails) s = .next { s with
        chip := ((((s.chip.setLane p { l with
          step := 7
          verdict := some mask }).put (TRK_STAT_GOOD_MASK p.num) mask).sendBlock p 0xA4 (s.chip.lane p).rate (s.chip.lane p).width (l.txMask mask) 0).conclude p) })
    ∧ (∀ c d, (s.chip.lane p).attempt = .full → c = s.chip.inc (TRK_FAIL_CNT_FAILS p.num) →
      d = (if 6 ≤ c.get CLK_BOOT_STEP ∧ c.get CLK_BOOT_STEP ≤ 8 then c.bootFail 8 else c) →
      ((s.chip.lane p).fails + 1 < d.get (TRK_RETRY_RETRY_LIM p.num) → exec (.trainTmo p) s = .next { s with chip := d.nextAttempt p (s.chip.lane p).rate ((s.chip.lane p).fails + 1) })
      ∧ (d.get (TRK_RETRY_RETRY_LIM p.num) ≤ (s.chip.lane p).fails + 1 → d.on (TRK_CTL_FALLBACK_EN p.num) = true → (s.chip.lane p).rate < 3 →
        exec (.trainTmo p) s = .next { s with chip := d.nextAttempt p ((s.chip.lane p).rate + 1) 0 })
      ∧ (d.get (TRK_RETRY_RETRY_LIM p.num) ≤ (s.chip.lane p).fails + 1 → (d.on (TRK_CTL_FALLBACK_EN p.num) = false ∨ 3 ≤ (s.chip.lane p).rate) →
        exec (.trainTmo p) s = .next { s with
          chip := ((d.setLane p { s.chip.lane p with
            attempt := .none
            step := 0
            fails := 0 }).put (TRK_STAT_STATE p.num) laneRetryWait).evt (TRK_EVT_TRAIN_FAIL p.num) }))
    ∧ ((s.chip.lane p).attempt = .rateChange → exec (.trainTmo p) s = .next { s with chip := s.chip.portLost p 1 })
    ∧ ((s.chip.lane p).attempt = .none → exec (.trainTmo p) s = .next s)
    ∧ (s.chip.laneState p = laneRetryWait → exec (.retryInt p) s = .next { s with chip := s.chip.nextAttempt p (s.chip.tgtRate p) 0 })
    ∧ (s.chip.laneState p ≠ laneRetryWait → exec (.retryInt p) s = .next s)
    ∧ ((s.chip.lane p).attempt = .fast → exec (.fastTmo p) s = .next { s with chip := s.chip.portLost p 1 })
    ∧ ((s.chip.lane p).attempt ≠ .fast → exec (.fastTmo p) s = .next s)

/-- A received flit is corrected, checked and acted on by its kind; a failed one enters replay wait with one NAK. The blocks of a
flit are descrambled and destriped first. At a port that is not Up, or whose link is Down, a flit then changes nothing. One
beyond Reed-Solomon correction is counted and enters replay wait. One whose corrected CRC is the complement is a poisoned flit,
counted and given no acknowledgement; any other CRC mismatch enters replay wait, counted outside it; the cell of either goes to
the switch as not accepted. A passed idle flit, NAK, HOLD, INIT or RESUME and a passed cell flit act as their kind says, after
the header's acknowledgement and credit return, or before them for a handshake message; a passed flit other than these completes
a handshake whose message has come. The same holds whichever of the flit commands brings the flit. Rests on R67, R73, R75, R79,
R82, R83, R84, R94, R95, R101, R103. -/
def Obligations.FlitsReceived : Prop :=
  ∀ (p : TPort) (blks : List RxBlock) (s : State) (i : Instr) (flit : List Byte) (u : Chip),
    (i = .cellFlit p blks ∨ i = .flitFail p blks ∨ i = .poisonFlit p blks ∨ i = .idleFlit p blks ∨ i = .init p blks ∨ i = .resume p blks
      ∨ i = .nak p blks ∨ i = .hold p blks) → s.chip.rxFlit p blks = (flit, u) →
    ((u.laneState p ≠ laneUp ∨ (u.link p).state = .down) → exec i s = .next { s with chip := u })
    ∧ (u.laneState p = laneUp → (u.link p).state ≠ .down → rsDecode (padTo flit 128) = none →
      exec i s = .next { s with chip := ((u.inc (LNK_RS_FAIL p.num)).evt (LNK_EVT_RS_FAIL p.num)).enterWait p })
    ∧ (∀ w c k, u.laneState p = laneUp → (u.link p).state ≠ .down → rsDecode (padTo flit 128) = some w →
        c = (if w = padTo flit 128 then u else u.inc (LNK_RS_CORR p.num)) → k = flitCrc (u.link p).expect w →
      (∀ d, d = c.addWrap64 (LNK_FLIT_RX_LO p.num) (LNK_FLIT_RX_HI p.num) 1 →
        (∀ e, e = d.headerIn p w → rd w 116 4 = k → hdrKind w = 3 → (e.link p).accepted = true → (e.link p).state = .init ∨ (e.link p).state = .resume →
          exec i s = .next { s with chip := (e.setLink p { e.link p with rxWait := false }).activate p })
        ∧ (rd w 116 4 = k → hdrKind w = 3 → ∀ e, e = d.headerIn p w → (e.link p).state = .active →
          exec i s = .next { s with chip := e.setLink p { e.link p with rxWait := false } })
        ∧ (rd w 116 4 = k → hdrKind w = 1 → ctlOf w = 3 → rd w 5 1 = 1 → ∀ e g, e = d.headerIn p w →
            g = ((e.setLink p { e.link p with rxWait := false }).inc (LNK_NAK_RX p.num)).nakSeq p (rd w 6 2 % 4096) → (g.link p).state = .active →
          exec i s = .next { s with chip := g })
        ∧ (rd w 116 4 = k → hdrKind w = 1 → ctlOf w = 4 → rd w 5 1 = 1 → ∀ e f, e = d.headerIn p w → (e.link p).state = .active →
            f = (fun v => if bit (rd w 18 1) v = true then e.tick + 1 else (e.link p).holdAt.get v) →
          exec i s = .next { s with chip := (e.setLink p { e.link p with rxWait := false }).setLink p { e.link p with
            rxWait := false
            holdAt := ⟨f 0, f 1, f 2, f 3⟩ } })
        ∧ (rd w 116 4 = k → hdrKind w = 0 → ∀ e g, e = d.headerIn p w →
            g = e.cellIn p w (if admissionCell (flitCell w) then none else e.cutTarget p (flitCell w)) → (g.link p).state = .active →
          exec i s = .next { s with chip := g }))
      ∧ (∀ d, d = c.addWrap64 (LNK_FLIT_RX_LO p.num) (LNK_FLIT_RX_HI p.num) 1 → (rd w 116 4 = k ∨ rd w 116 4 = flitCrc 0 w) →
          hdrKind w = 1 → rd w 5 1 = 1 →
        (ctlOf w = 1 → exec i s = .next { s with chip := (((d.setLink p { d.link p with rxWait := false }).initIn p w).headerIn p w).reviewService p })
        ∧ (ctlOf w = 2 → exec i s = .next { s with chip := (((d.setLink p { d.link p with rxWait := false }).resumeIn p w).headerIn p w).reviewService p }))
      ∧ (∀ x, x = (if hdrKind w = 0 then c.switchCell p (flitCell w) (hdrVc w) false (if (u.link p).rxWait = true ∨ admissionCell (flitCell w) = true then none else c.cutTarget p (flitCell w)) else c) →
          (hdrKind w = 0 ∨ hdrKind w = 3) → rd w 116 4 ≠ k →
        (rd w 116 4 = k ^^^ 0xFFFFFFFF → exec i s = .next { s with chip := (x.setLink p { x.link p with rxWait := false }).inc (LNK_POISON_RX p.num) })
        ∧ (rd w 116 4 ≠ k ^^^ 0xFFFFFFFF → (u.link p).rxWait = false → exec i s = .next { s with chip := ((x.inc (LNK_CRC_FAIL p.num)).evt (LNK_EVT_CRC_FAIL p.num)).enterWait p })
        ∧ (rd w 116 4 ≠ k ^^^ 0xFFFFFFFF → (u.link p).rxWait = true → exec i s = .next { s with chip := x.enterWait p })))

/-- The link timers, FORCE_INIT and the choice of what goes out at a flit boundary. A flit boundary at a port that is not Up sends
nothing; at one that is, a beacon that is due goes first, then a pending link control flit, before replayed and new cells; a
replayed cell keeps its sequence number; a poisoned cell takes none; a cell cut through goes while its VC has credit and its
gate has time; else the scheduler's choice goes, and with none the flit is idle. HOLD_INT sends a HOLD that names the VCs with
no free receive buffer; the handshake repeats its message until Active; the replay timer replays from OLDEST; NAK_TMO repeats
the NAK in replay wait; a credit timeout, unless a HOLD names the VC, in service mode records the stall, with AUDIT_ON_STALL
asking for a retrain of reason 4, and in strict mode declares the link broken; HANDSHAKE_TMO breaks only an unfinished
handshake; FORCE_INIT enters Init unless the link is Down. The verdict on the oldest cell received sends or poisons a cell cut
through, and links or frees a stored one; held cells are offered again. A read of the LO word of a flit counter latches its HI
word. Rests on R84, R86, R87, R95, R96, R98, R101, R102, R105, R106, R110. -/
def Obligations.LinkTimersAndFlitBoundary : Prop :=
  ∀ (p : TPort) (s : State) (l : LinkPort), l = s.chip.link p →
    ((s.chip.laneState p ≠ laneUp ∨ l.state = .down) → ∀ e, exec (.flitTransmit p e) s = .next s)
    ∧ (s.chip.laneState p = laneUp → l.state ≠ .down → s.chip.beaconReady p = false → ∀ ecc,
      (∀ m rest, l.ctl = .hold m :: rest →
        exec (.flitTransmit p ecc) s = .next { s with chip := (s.chip.setLink p { l with ctl := rest }).sendFlit p 0 1 (Ctl.hold m).bytes l.nextSeq false })
      ∧ (∀ x rest, l.ctl = .nak x :: rest →
        exec (.flitTransmit p ecc) s = .next { s with chip := ((s.chip.setLink p { l with ctl := rest }).inc (LNK_NAK_TX p.num)).sendFlit p 0 1 (Ctl.nak x).bytes l.nextSeq false })
      ∧ (∀ q c, l.ctl = [] → l.replayAt = some q → l.replay.find? (fun e => e.1 == q) = some (q, c) →
        exec (.flitTransmit p ecc) s = .next { s with
          chip := ((s.chip.setLink p { l with replayAt := if (q + 1) % 4096 = l.next then none else some ((q + 1) % 4096) }).inc (LNK_REPLAY_FLITS p.num)).sendCell p c q })
      ∧ (l.ctl = [] → l.replayAt = none → (l.state ≠ .active ∨ 512 ≤ l.replay.length) → exec (.flitTransmit p ecc) s = .next { s with chip := s.chip.sendIdle p })
      ∧ (∀ h rest, l.ctl = h :: rest → h.isHandshake = true →
        exec (.flitTransmit p ecc) s = .next { s with chip := (s.chip.setLink p { l with ctl := rest }).sendFlit p 0 1 h.bytes 0 false })
      ∧ (∀ c rest, l.ctl = [] → l.replayAt = none → l.state = .active → l.replay.length < 512 → l.cut = (c, some true) :: rest →
        exec (.flitTransmit p ecc) s = .next { s with chip := if l.avail (vcOf c.tc) = 0 ∨ s.chip.gateLeft p.num c.tc < s.chip.flitTime p.num then s.chip.sendIdle p else (s.chip.setLink p { l with cut := rest }).newCell p c })
      ∧ (∀ c rest, l.ctl = [] → l.replayAt = none → l.state = .active → l.replay.length < 512 → l.cut = (c, some false) :: rest →
        exec (.flitTransmit p ecc) s = .next { s with chip := (s.chip.setLink p { l with cut := rest }).sendFlit p (vcOf c.tc) 0 c.toBytes l.next true })
      ∧ (∀ r, l.ctl = [] → l.replayAt = none → l.state = .active → l.replay.length < 512 → l.cut = [] →
          r = s.chip.select p.num (fun q => s.chip.eligible p.num q (s.chip.flitTime p.num) && decide (0 < l.avail (vcOf (q / 8)))) (fun _ => 128) →
        (r.1 = none → exec (.flitTransmit p ecc) s = .next { s with chip := r.2.sendIdle p })
        ∧ (∀ q, r.1 = some q → exec (.flitTransmit p ecc) s = .next { s with chip := r.2.sendStored p q ecc })))
    ∧ (s.chip.laneState p = laneUp → l.state ≠ .down → s.chip.beaconReady p = true → ∀ ecc, exec (.flitTransmit p ecc) s = .next { s with
        chip := ((s.chip.setLink p { l with beaconDue := false }).sendFlit p 3 2 (s.chip.beaconBytes p) l.nextSeq false).beaconSent p })
    ∧ (∀ mask, mask = b2n (decide (l.freeBuffers.v0 = 0)) + 2 * b2n (decide (l.freeBuffers.v1 = 0)) + 4 * b2n (decide (l.freeBuffers.v2 = 0)) + 8 * b2n (decide (l.freeBuffers.v3 = 0)) →
      (mask ≠ 0 → l.state ≠ .down → exec (.holdInt p) s = .next { s with chip := s.chip.sendCtl p (.hold mask) })
      ∧ (mask = 0 → exec (.holdInt p) s = .next s))
    ∧ ((l.state = .init ∨ l.state = .resume) → exec (.handshakeRepeat p) s = .next { s with
        chip := s.chip.setLink p { l with ctl := l.ctl.filter (fun c => !c.isHandshake) ++ [l.handshake] } }
      ∧ exec (.handshakeTmo p) s = .next { s with chip := s.chip.linkBroken p 3 })
    ∧ (l.state = .active → exec (.handshakeRepeat p) s = .next s ∧ exec (.handshakeTmo p) s = .next s)
    ∧ exec (.replayTmo p) s = .next { s with chip := s.chip.startReplay p }
    ∧ (l.rxWait = true → l.state ≠ .down → exec (.nakTmo p) s = .next { s with chip := s.chip.sendCtl p (.nak l.expect) })
    ∧ (l.rxWait = false → exec (.nakTmo p) s = .next s)
    ∧ (∀ v : Fin 4, ((l.state ≠ .active ∨ 0 < l.avail v ∨ s.chip.vcWaits p v = false ∨ s.chip.heldBy p v = true) → exec (.creditTmo p v) s = .next s)
      ∧ (∀ c, c = s.chip.inc (LNK_CREDIT_STALL_CNT p.num) → l.state = .active → l.avail v = 0 → s.chip.vcWaits p v = true → s.chip.heldBy p v = false →
        (c.strict p = true → exec (.creditTmo p v) s = .next { s with chip := c.linkBroken p 2 })
        ∧ (c.strict p = false → (c.evt (LNK_EVT_CREDIT_STALL p.num)).on (LNK_CTL_AUDIT_ON_STALL p.num) = false →
          exec (.creditTmo p v) s = .next { s with chip := c.evt (LNK_EVT_CREDIT_STALL p.num) })
        ∧ (c.strict p = false → (c.evt (LNK_EVT_CREDIT_STALL p.num)).on (LNK_CTL_AUDIT_ON_STALL p.num) = true →
          exec (.creditTmo p v) s = .next { s with chip := (c.evt (LNK_EVT_CREDIT_STALL p.num)).askRetrain p 4 })))
    ∧ (l.state = .down → exec (.forceInit p) s = .next s)
    ∧ (l.state ≠ .down → exec (.forceInit p) s = .next { s with chip := (s.chip.enterInit p).reviewService p })
    ∧ exec (.flitTxLo p false) s = .next { s with chip := s.chip.latch (LNK_FLIT_TX_HI p.num).addr (s.chip.get (LNK_FLIT_TX_HI p.num)) }
    ∧ exec (.flitTxLo p true) s = .next { s with chip := s.chip.latch (LNK_FLIT_RX_HI p.num).addr (s.chip.get (LNK_FLIT_RX_HI p.num)) }
    ∧ (l.inflight = [] → exec (.crcVerdict p) s = .next s)
    ∧ (∀ x rest u, l.inflight = x :: rest → x.cut = none → u = s.chip.setLink p { l with inflight := rest } →
        (x.accepted = true → exec (.crcVerdict p) s = .next { s with chip := u.linkStored p x })
        ∧ (x.accepted = false → exec (.crcVerdict p) s = .next { s with chip := u.giveUp x.blk }))
    ∧ (∀ x rest q u v, l.inflight = x :: rest → x.cut = some q → u = s.chip.setLink p { l with inflight := rest } →
        v = u.setLink q { u.link q with cut := decideCut (u.link q).cut x.cell x.accepted } →
        (x.accepted = true → exec (.crcVerdict p) s = .next { s with chip := ((v.countIn p.num).countKept x.cell).freeRx p x.vc })
        ∧ (x.accepted = false → (u.link q).cut.any (fun e => e.1 == x.cell && e.2.isNone) = true →
          exec (.crcVerdict p) s = .next { s with chip := (v.inc SWX_POISON_CNT).evt SWX_EVT_POISON })
        ∧ (x.accepted = false → (u.link q).cut.any (fun e => e.1 == x.cell && e.2.isNone) = false → exec (.crcVerdict p) s = .next { s with chip := v }))
    ∧ (∀ (ing : Fin 16) c, c = Chip.pumpClusters (Chip.retryEnds ((List.range 64).foldl (fun (x : Chip) r => if x.get (BCH_RING_PORT r) = ing.val then x.pump r else x)
          (s.chip.retryHeld ing)) ing) →
        (ing.val ≠ 12 → exec (.heldCellRetry ing) s = .next { s with chip := c })
        ∧ (ing.val = 12 → exec (.heldCellRetry ing) s = .next { s with chip := ((c.pumpT0).retryOutgoing).retryEth }))

/-- Carving, mirroring, scrubbing, flush walks, the time gates, and an allotment in three phases. A write to RESERVE_p that would
exceed the buffer is refused with CARVE_ERR, and another takes effect with the excess charged to the shared pool. Setting
MIR_CTL.EN flushes ETH1's queues. The scrubber, while SCRUB_EN is 1, treats its finds one after another, a word beyond
correction offering its row to the remap; a corrected one is counted and touches no block. The end of a flush walk records the
port and how many cells it discarded and sets FLUSH_DONE, the last one clearing FLUSH_BUSY, and a port with no walk is left
alone. A gate entry or bank switch puts the entry in force and its open gates into GATE_STAT; a switch waits for its instant.
ARM sets a switch pending with the lengths in range; a write to a bank that a pending switch will use is refused with GATE_ERR,
and any other takes CYCLE and DURATION in range, BASE and OPEN. A valid ring whose cluster is on is offered again. For an order
that starts: a request with an entry out of range is BAD_ARGS, and at a node without the serving head's duty, or with an epoch
nearer than ALLOT_LEAD, is REFUSED; at the head it takes the next reference and sends each node its own entries. A stage with
ALLOT_EN 0 is REFUSED with STAGE_REFUSED, with an entry out of range BAD_ARGS, and otherwise holds its entries, not committed; a
commit marks the entries of its reference or is REFUSED, and a cancel drops them. At the epoch every committed entry staged for
it is applied, every other one for it dropped, and none of a later epoch changes. The guard cancels, at every node, a request
that is neither committed nor cancelled once ALLOT_GUARD before its epoch has begun; it and the docket of an unknown reference
change nothing more, and the docket goes out once the epoch has begun. After each of stage, commit, guard and docket the head
first takes up the answers that have come. Rests on R165, R166, R174, R178, R181, R183, R191, R200, R201, R202, R203, R204. -/
def Obligations.SwitchCommandsAndAllotment : Prop :=
  (∀ (p : Fin 16) (v : Word) (s : State),
     (keepFirst < s.chip.reserved - s.chip.get (SWX_CARVE_RESERVE p) + v.toNat % 2 ^ 18 → exec (.swxCarve p v) s = .next { s with chip := s.chip.evt SWX_EVT_CARVE_ERR })
     ∧ (s.chip.reserved - s.chip.get (SWX_CARVE_RESERVE p) + v.toNat % 2 ^ 18 ≤ keepFirst →
       ∃ t, exec (.swxCarve p v) s = .next t ∧ t.chip.get (SWX_CARVE_RESERVE p) = v.toNat % 2 ^ 18 ∧ t.mem = s.mem
         ∧ (s.chip.occ p ≤ v.toNat % 2 ^ 18 → t.chip = s.chip.put (SWX_CARVE_RESERVE p) (v.toNat % 2 ^ 18)))
     ∧ (v.toNat % 2 = 0 ∨ s.chip.get SWX_MIR_CTL_EN ≠ 0 →
       exec (.mirCtlEn v) s = .next { s with chip := (s.chip.put SWX_MIR_CTL_EN (v.toNat % 2)).put SWX_MIR_CTL_FLOW_EN (bits v.toNat 1 4) })
     ∧ (v.toNat % 2 = 1 → s.chip.get SWX_MIR_CTL_EN = 0 →
       exec (.mirCtlEn v) s = .next { s with chip := ((s.chip.portDown 5 ⟨0, 0, 0, 0⟩).put SWX_MIR_CTL_EN 1).put SWX_MIR_CTL_FLOW_EN (bits v.toNat 1 4) })
     ∧ (∀ fs : List ScrubFind, (s.chip.get SWX_CTL_SCRUB_EN = 0 → exec (.scrub fs) s = .next s)
       ∧ (s.chip.get SWX_CTL_SCRUB_EN ≠ 0 → exec (.scrub fs) s = .next { s with
           chip := fs.foldl (fun (x : Chip) f => if f.uncorrectable = true then (x.scrubFind f).autoRemap 0 0 (128 * (f.block % blockEnd) + 8 * (f.word % 16)) else x.scrubFind f) s.chip }))
     ∧ (∀ f : ScrubFind, f.uncorrectable = false → s.chip.get SWX_CTL_SCRUB_EN ≠ 0 → exec (.scrub [f]) s = .next { s with chip := (s.chip.inc SWX_ECC_CORR).evt SWX_EVT_ECC_CORR })
     ∧ (s.chip.sw.walks.find? (fun w => w.port == p.val) = none → exec (.flushDone p) s = .next s)
     ∧ (∀ w, s.chip.sw.walks.find? (fun w => w.port == p.val) = some w →
       ∃ t, exec (.flushDone p) s = .next t ∧ t.mem = s.mem ∧ t.chip.get SWX_FLUSH_STAT_PORT = p.val ∧ t.chip.get SWX_FLUSH_STAT_CELLS = w.descs.length % 2 ^ SWX_FLUSH_STAT_CELLS.width)
     ∧ (∀ w, s.chip.sw.walks = [w] → w.port = p.val → w.descs = [] →
       ∃ t, exec (.flushDone p) s = .next t ∧ t.chip.get SWX_FLUSH_STAT_PORT = p.val ∧ t.chip.get SWX_FLUSH_STAT_CELLS = 0 ∧ t.chip.get SWX_STAT_FLUSH_BUSY = 0
         ∧ t.chip.sw.walks = [])
     ∧ (∀ b e, b = s.chip.get (SCH_GATE_CTL_ACT_BANK p) → e = s.chip.entryAt p b ((s.chip.ns : Int) - (s.chip.gateCycle p b s.chip.ns).1).toNat →
       exec (.gateEntry p) s = .next { s with chip := (s.chip.put (SCH_GATE_STAT_ENTRY p) e).put (SCH_GATE_STAT_OPEN p) (s.chip.get (SCH_GCL_OPEN_OPEN p b e)) })
     ∧ ((s.chip.get (SCH_GATE_CTL_PEND p) = 0 ∨ (s.chip.ns : Int) < s.chip.switchAt p) → exec (.gateSwitch p) s = .next s)
     ∧ (s.chip.get (SCH_GATE_CTL_PEND p) ≠ 0 → s.chip.switchAt p ≤ (s.chip.ns : Int) → exec (.gateSwitch p) s = .next { s with
         chip := (((s.chip.put (SCH_GATE_CTL_ACT_BANK p) (1 - s.chip.get (SCH_GATE_CTL_ACT_BANK p))).put (SCH_GATE_CTL_PEND p) 0).evt SCH_EVT_GATE_SWITCH).setGate p })
     ∧ (s.chip.on (SCH_GATE_CTL_PEND p) = false → bit v.toNat 17 = true → 1 ≤ bits v.toNat 0 7 → bits v.toNat 0 7 ≤ 64 → 1 ≤ bits v.toNat 8 7 → bits v.toNat 8 7 ≤ 64 →
       exec (.arm p v) s = .next { s with
         chip := ((s.chip.put (SCH_GATE_CTL_LEN_0 p) (bits v.toNat 0 7)).put (SCH_GATE_CTL_LEN_1 p) (bits v.toNat 8 7)).put (SCH_GATE_CTL_PEND p) 1 })
     ∧ (∀ (addr : BitVec 24) q b o, gateAddr (addr.toNat / 4 * 4) = some (q, b, o) →
       (s.chip.on (SCH_GATE_CTL_PEND q) = true → b ≠ s.chip.get (SCH_GATE_CTL_ACT_BANK q) → exec (.gateBankWrite addr v) s = .next { s with chip := s.chip.evt SCH_EVT_GATE_ERR })
       ∧ (s.chip.on (SCH_GATE_CTL_PEND q) = false → 0x18 ≤ o → o < 0x30 →
         exec (.gateBankWrite addr v) s = .next { s with chip := if o % 8 = 0 then s.chip.put (SCH_GATE_BASE_LO_BASE q b) v.toNat else s.chip.put (SCH_GATE_BASE_HI_BASE q b) v.toNat })
       ∧ (s.chip.on (SCH_GATE_CTL_PEND q) = false → 0x400 ≤ o → o % 8 = 0 →
         exec (.gateBankWrite addr v) s = .next { s with chip := s.chip.put (SCH_GCL_OPEN_OPEN q b ((o - 0x400) % 0x200 / 8)) v.toNat })
       ∧ (s.chip.on (SCH_GATE_CTL_PEND q) = false → 0x400 ≤ o → o % 8 ≠ 0 → 1 ≤ bits v.toNat 0 30 → bits v.toNat 0 30 ≤ 1000000000 →
         exec (.gateBankWrite addr v) s = .next { s with chip := s.chip.put (SCH_GCL_DUR_DURATION q b ((o - 0x400) % 0x200 / 8)) (bits v.toNat 0 30) })
       ∧ (s.chip.on (SCH_GATE_CTL_PEND q) = false → o < 0x18 → 1000 ≤ bits v.toNat 0 30 → bits v.toNat 0 30 ≤ 1000000000 →
         exec (.gateBankWrite addr v) s = .next { s with chip := s.chip.put (SCH_GATE_CYCLE_CYCLE q b) (bits v.toNat 0 30) })
       ∧ (s.chip.on (SCH_GATE_CTL_PEND q) = false → o < 0x18 → bits v.toNat 0 30 < 1000 → exec (.gateBankWrite addr v) s = .next s))
     ∧ (∀ r : Fin 64, exec (.policerRetry r) s = .next { s with chip := s.chip.pump r }
       ∧ (s.chip.ringValid r = true → s.chip.domainOn (if s.chip.get (BCH_RING_BENCH r) < 8 then 8 else 9) = true →
         exec (.policerRetry r) s = .next { s with chip := s.chip.pumpRing r (s.chip.ring r).give.length }))) ∧
  (∀ (id : SlotId) (o : Order) (s : State) (c : Chip) (b : List Byte), c = s.chip.orderBegun id o → b = o.bytes.drop 16 →
     (s.chip.starts id 0x40 (phaseIs 0) o → allotBodyOk b true = true → allotRef b = 0 →
       ((allotEntries b).all AllotEntry.ok = false → exec (.allotRequest id) s = .next { s with chip := c.docketReady id stBadArgs [] })
       ∧ ((allotEntries b).all AllotEntry.ok = true → c.headDuty = true → allotEpoch b * 1000000 < c.ns + c.get SCH_ALLOT_TMR_ALLOT_LEAD * 10000 →
         exec (.allotRequest id) s = .next { s with chip := c.docketReady id stRefused [] })
       ∧ ((allotEntries b).all AllotEntry.ok = true → c.headDuty = false → exec (.allotRequest id) s = .next { s with chip := c.docketReady id stRefused [] })
       ∧ ((allotEntries b).all AllotEntry.ok = true → c.headDuty = true → c.ns + c.get SCH_ALLOT_TMR_ALLOT_LEAD * 10000 ≤ allotEpoch b * 1000000 → ∀ nodes, nodes = ((allotEntries b).map (·.node)).dedup →
         exec (.allotRequest id) s = .next { s with
           chip := nodes.foldl (fun (x : Chip) n =>
             (x.sendMsg n (message 1 id.sess (allotOrder (stageTag c.sw.nextRef) (allotEpoch b) ((allotEntries b).filter (fun e => e.node = n)).length 1 c.sw.nextRef
               (((allotEntries b).filter (fun e => e.node = n)).flatMap allotBytes)))).2)
             (c.setSw { c.sw with
               nextRef := if c.sw.nextRef = 32767 then 1 else c.sw.nextRef + 1
               requests := c.sw.requests ++ [⟨id, c.sw.nextRef, allotEpoch b, nodes.map (fun n => ⟨n, none, none⟩), false, false, none⟩] }) }))
     ∧ (s.chip.starts id 0x40 (phaseIs 1) o →
       ((allotBodyOk b true = false ∨ (allotEntries b).all AllotEntry.ok = false) → exec (.allotStage id) s = .next { s with chip := Chip.allotReview (c.docketReady id stBadArgs []) })
       ∧ (allotBodyOk b true = true → (allotEntries b).all AllotEntry.ok = true →
         (c.get SCH_CTL_ALLOT_EN = 0 → exec (.allotStage id) s = .next { s with chip := Chip.allotReview ((c.evt SCH_EVT_STAGE_REFUSED).docketReady id stRefused []) })
         ∧ (c.get SCH_CTL_ALLOT_EN ≠ 0 → c.stagedEntries + (allotEntries b).length ≤ 128 → (c.stagedEpochs.filter (fun e => e != allotEpoch b)).length < 2 →
             c.ns < allotEpoch b * 1000000 → exec (.allotStage id) s = .next { s with
           chip := Chip.allotReview ((c.setSw { c.sw with stages := c.sw.stages ++ [⟨allotRef b, allotEpoch b, false, allotEntries b⟩] }).docketReady id stDone []) })))
     ∧ (s.chip.starts id 0x40 (phaseIs 2) o → allotBodyOk b false = true →
       (c.sw.stages.any (fun x => x.ref == allotRef b) = true → exec (.allotCommit id) s = .next { s with
         chip := Chip.allotReview ((c.setSw { c.sw with stages := c.sw.stages.map (fun x => if x.ref = allotRef b then { x with committed := true } else x) }).docketReady id stDone []) })
       ∧ (c.sw.stages.any (fun x => x.ref == allotRef b) = false → exec (.allotCommit id) s = .next { s with chip := Chip.allotReview (c.docketReady id stRefused []) }))
     ∧ (s.chip.starts id 0x40 (phaseIs 3) o → allotBodyOk b false = true → exec (.allotCancel id) s = .next { s with
         chip := (c.setSw { c.sw with stages := c.sw.stages.filter (fun x => x.ref != allotRef b) }).docketReady id stDone [] })
     ∧ (s.chip.sw.stages.filter (fun x => decide (x.epoch * 1000000 ≤ s.chip.ns)) = [] → exec .epochApplied s = .next { s with
         chip := s.chip.setSw { s.chip.sw with stages := s.chip.sw.stages.filter (fun x => decide (s.chip.ns < x.epoch * 1000000)) } })
     ∧ (∀ now : List Stage, now = s.chip.sw.stages.filter (fun x => decide (x.epoch * 1000000 ≤ s.chip.ns) && x.committed) → exec .epochApplied s = .next { s with
         chip := (now.map (·.epoch)).dedup.foldl (fun (x : Chip) e =>
             (((((((now.filter (fun y => y.epoch = e)).flatMap (·.entries)).foldl (fun (z : Chip) y => z.applyEntry y) x)).put SCH_EPOCH_LO_EPOCH e).put SCH_EPOCH_HI_EPOCH (e / 2 ^ 32)).inc SCH_ALLOT_CNT).evt SCH_EVT_EPOCH_APPLIED)
           (s.chip.setSw { s.chip.sw with stages := s.chip.sw.stages.filter (fun x => decide (s.chip.ns < x.epoch * 1000000)) }) })
     ∧ (∀ x : Stage, s.chip.sw.stages = [x] → x.epoch * 1000000 ≤ s.chip.ns → x.committed = true →
       exec .epochApplied s = .next { s with
         chip := ((((x.entries.foldl (fun (y : Chip) e => y.applyEntry e) (s.chip.setSw { s.chip.sw with stages := [] })).put SCH_EPOCH_LO_EPOCH x.epoch).put SCH_EPOCH_HI_EPOCH
           (x.epoch / 2 ^ 32)).inc SCH_ALLOT_CNT).evt SCH_EVT_EPOCH_APPLIED })
     ∧ (∀ ref : BitVec 16, s.chip.allotReview.sw.requests.find? (fun r => r.ref == ref.toNat) = none →
       exec (.allotGuard ref) s = .next { s with chip := s.chip.allotReview } ∧ exec (.allotDocket ref) s = .next { s with chip := s.chip.allotReview })
     ∧ (∀ (ref : BitVec 16) r d, d = s.chip.allotReview → d.sw.requests.find? (fun r => r.ref == ref.toNat) = some r →
       (r.epoch * 1000000 ≤ d.ns → exec (.allotDocket ref) s = .next { s with
         chip := (d.setSw { d.sw with requests := d.sw.requests.filter (fun x => x.ref != ref.toNat) }).docketReady r.at_ r.status [] })
       ∧ ((r.committed = true ∨ r.cancelled = true ∨ d.ns + d.get SCH_ALLOT_TMR_ALLOT_GUARD * 1000 < r.epoch * 1000000) → exec (.allotGuard ref) s = .next { s with chip := d })
       ∧ (r.committed = false → r.cancelled = false → r.epoch * 1000000 ≤ d.ns + d.get SCH_ALLOT_TMR_ALLOT_GUARD * 1000 → exec (.allotGuard ref) s = .next { s with
           chip := r.nodes.foldl (fun (x : Chip) n => (x.sendMsg n.node (message 1 r.at_.sess (allotOrder (commitTag r.ref) r.epoch 0 3 r.ref []))).2)
             (d.setSw { d.sw with requests := d.sw.requests.map (fun x => if x.ref = r.ref then { x with
               committed := false
               cancelled := true } else x) }) })))

/-- TUNNEL_OPEN and TUNNEL_CLOSE, and the tunnel timers. An open order that starts is BAD_ARGS for tunnel 0 or a field out of range,
REFUSED for a tunnel that is not Closed, and otherwise opens the end as its body describes with START as next, oldest and
expected number. A close is REFUSED for a Closed tunnel, ends a sink at once with the last delivered number, and a draining
close waits. ACK_INT acknowledges only a kept sink whose delivery has advanced; HOLE_TMO asks for the hole of a kept sink that
holds a later cell; KEEP_TMO resends from the oldest cell, or at RESEND_LIM breaks the tunnel with BREAK reason 1, and does
nothing where nothing is unacknowledged; LOOSE_HOLD declares a gap at an open loose sink; an idle peer entry with nothing
unacknowledged and nothing waiting is freed. Rests on R212, R213, R214, R221, R223, R225, R229, R235. -/
def Obligations.TunnelOpenAndClose : Prop :=
  ∀ (id : SlotId) (o : Order) (s : State) (c : Chip) (b : List Byte), c = s.chip.orderBegun id o → b = o.bytes.drop 16 →
    (s.chip.starts id 0x20 anyBody o →
      (rd b 0 2 = 0 → exec (.tunnelOpen id) s = .next { s with chip := c.docketReady id stBadArgs [] })
      ∧ (1 ≤ rd b 0 2 → rd b 0 2 ≤ 1023 → rd b 2 1 ≤ 31 → rd b 3 1 ≤ 63 → rd b 6 2 ≤ 1023 → rd b 10 6 = 0 →
        ((c.tun (rd b 0 2)).state ≠ .closed → exec (.tunnelOpen id) s = .next { s with chip := c.docketReady id stRefused [] })
        ∧ ((c.tun (rd b 0 2)).state = .closed → exec (.tunnelOpen id) s = .next { s with
            chip := (c.setTun (rd b 0 2) { Tun.closedEnd with
              state := .opened
              sink := bit (rd b 2 1) 0
              kept := bit (rd b 2 1) 1
              tc := bits (rd b 2 1) 2 3
              ring := rd b 3 1 % 64
              peer := rd b 4 2
              peerTun := rd b 6 2 % 1024
              next := rd b 8 2
              oldest := rd b 8 2
              expect := rd b 8 2
              lastAck := seqSub (rd b 8 2) 1 }).docketReady id stDone [] })))
    ∧ (s.chip.starts id 0x21 anyBody o → 1 ≤ rd b 0 2 → rd b 0 2 ≤ 1023 → rd b 2 1 ≤ 1 → rd b 3 5 = 0 → ∀ x, x = c.tun (rd b 0 2) →
      (x.state = .closed → exec (.tunnelClose id) s = .next { s with chip := c.docketReady id stRefused [] })
      ∧ (x.state ≠ .closed → x.sink = true → exec (.tunnelClose id) s = .next { s with
          chip := ((c.dropHeld x.held).setTun (rd b 0 2) Tun.closedEnd).docketReady id stDone (leBytes (seqSub x.expect 1) 2) })
      ∧ (x.state ≠ .closed → x.sink = false → rd b 2 1 = 1 → exec (.tunnelClose id) s = .next { s with
          chip := (c.setTun (rd b 0 2) { x with draining := x.draining ++ [id] }).drainEnd (rd b 0 2) })
      ∧ (x.state ≠ .closed → x.sink = false → rd b 2 1 = 0 → exec (.tunnelClose id) s = .next { s with
          chip := (c.abandonFences (rd b 0 2)).closeSource (rd b 0 2) (x.draining ++ [id]) }))
    ∧ (∀ t : Fin 1088, ∀ x, x = s.chip.tun t →
      (s.chip.keptSink t = true → x.sinceAck ≠ 0 → exec (.ackInt t) s = .next { s with chip := s.chip.sendAck t })
      ∧ ((s.chip.keptSink t = false ∨ x.sinceAck = 0) → exec (.ackInt t) s = .next s)
      ∧ (x.lowestHeld = none → exec (.holeTmo t) s = .next s)
      ∧ (∀ q, x.lowestHeld = some q → s.chip.keptSink t = true → exec (.holeTmo t) s = .next { s with
          chip := ((s.chip.setTun t { x with resendSent := true }).sendControl t 2 x.expect (seqSub q x.expect) 0).evt TUN_EVT_RESEND_TX })
      ∧ ((x.kept = false ∨ x.oldest = x.next) → exec (.keepTmo t) s = .next s)
      ∧ (x.kept = true → x.sink = false → x.live = true → x.oldest ≠ x.next → ∀ d, d = (s.chip.setTun t { x with expiries := x.expiries + 1 }).evt TUN_EVT_KEEP_TMO →
        (x.expiries + 1 < d.get TUN_LIMITS_RESEND_LIM → exec (.keepTmo t) s = .next { s with
          chip := d.resendRun t x.oldest (x.sendable x.oldest (seqSub x.next x.oldest)) false })
        ∧ (d.get TUN_LIMITS_RESEND_LIM ≤ x.expiries + 1 → exec (.keepTmo t) s = .next { s with
          chip := ((d.sendControl t 3 (seqSub x.oldest 1) 0 1).tunBroken t 1 false).afterAck t }))
      ∧ (x.kept = false → x.sink = true → x.state = .opened → exec (.looseHold t) s = .next { s with chip := s.chip.declareGap t })
      ∧ (x.kept = true → exec (.looseHold t) s = .next s))
    ∧ (∀ k : Fin 64, ∀ x, x = s.chip.tun (1024 + k) →
      (x.oldest ≠ x.next → exec (.peerIdle k) s = .next s)
      ∧ (x.oldest = x.next → s.chip.mbx.outWait.all (fun e => e.node != x.peer) = true →
        exec (.peerIdle k) s = .next { s with chip := (s.chip.dropHeld x.held).freePeer (1024 + k) }))

/-- A data, ACK, RESEND or BREAK cell acts on the tunnel end it names. A notice or control cell is no data cell and changes nothing,
nor does a tunnel 0 cell while Porter is rewritten; a cell that ends here leaves its queue and its block is read, and one that
the read loses, or that is not the scheduler's choice, goes no further. For a tunnel other than 0: a cell for a Closed end is
counted as unknown; a data cell at a source, or one with a VLEN or FLAGS not allowed, is counted as bad; at a Broken sink it is
answered with BREAK; at an open sink the cell with the expected number is delivered, a later one within 8,191 held or a
duplicate, an earlier one a duplicate at a kept sink and late at a loose one, and any other bad. A tunnel 0 cell goes to the
entry of its source node while Porter runs. A bad control cell is counted; a control cell of another CTYPE or with NOTICE
changes nothing; at an open source ACK frees what it covers and RESEND resends the run, at a sink either is bad; BREAK with
REASON 2 stops a sink at its SEQ, with another breaks an open kept end at once, and changes nothing at a loose one. Rests on
R211, R215, R217, R220, R222, R224, R231, R233, R618. -/
def Obligations.TunnelCellsReceived : Prop :=
  ∀ (c : Cell) (ecc : EccFind) (s : State),
    ((c.flag 2 = true ∨ c.flag 3 = true ∨ (c.tun = 0 ∧ s.chip.upd.rewriting.isSome = true)) → exec (.dataCell c ecc) s = .next s)
    ∧ (∀ d, s.chip.takeTunnel c ecc = (none, d) →
      (c.flag 2 = false → c.flag 3 = false → (c.tun ≠ 0 ∨ s.chip.upd.rewriting = none) → exec (.dataCell c ecc) s = .next { s with chip := d.pumpClusters })
      ∧ (c.flag 2 = false → c.flag 3 = true → (badControl c = true ∨ ctlType c = 1) → exec (.ack c ecc) s = .next { s with chip := d.pumpClusters })
      ∧ (c.flag 2 = false → c.flag 3 = true → (badControl c = true ∨ ctlType c = 2) → exec (.resend c ecc) s = .next { s with chip := d.pumpClusters })
      ∧ (c.flag 2 = false → c.flag 3 = true → (badControl c = true ∨ ctlType c = 3) → exec (.breakCell c ecc) s = .next { s with chip := d.pumpClusters }))
    ∧ ∀ (blk : Option Nat) (d : Chip), s.chip.takeTunnel c ecc = (some blk, d) →
    (c.flag 2 = false → c.flag 3 = false → c.tun ≠ 0 → ∀ x, x = d.tun c.tun →
      (x.state = .closed → exec (.dataCell c ecc) s = .next { s with chip := ((d.dropBlk blk).unknownTun).pumpClusters.allotReview })
      ∧ (x.state ≠ .closed → (x.sink = false ∨ badData c = true) → exec (.dataCell c ecc) s = .next { s with chip := ((d.dropBlk blk).tunBad).pumpClusters.allotReview })
      ∧ (x.state = .broken → x.sink = true → badData c = false → exec (.dataCell c ecc) s = .next { s with chip := ((d.dropBlk blk).answerBreak c.tun).pumpClusters.allotReview })
      ∧ (x.state = .opened ∨ x.state = .breaking → x.sink = true → badData c = false → c.tun < 1024 → ∀ n, n = seqSub c.seq x.expect →
        (n = 0 → exec (.dataCell c ecc) s = .next { s with chip := (d.deliverAt c.tun c blk).pumpClusters.allotReview })
        ∧ (1 ≤ n → n ≤ 8191 → x.held.any (fun e => e.1 == c.seq) = true → exec (.dataCell c ecc) s = .next { s with chip := (d.duplicate c.tun blk).pumpClusters.allotReview })
        ∧ (∀ f g : Chip, f = (if x.held = [] then d.setTun c.tun { x with resendSent := false } else d) → g = f.holdEarly c.tun c blk → 1 ≤ n → n ≤ 8191 → x.held.any (fun e => e.1 == c.seq) = false →
            exec (.dataCell c ecc) s = .next { s with
              chip := (if x.kept = false ∧ (g.tun c.tun).held.length ≠ 0 ∧ g.get TUN_WINDOWS_RESEQ_DEPTH ≤ (g.tun c.tun).held.length then g.declareGap c.tun else g).pumpClusters.allotReview })
        ∧ (8192 ≤ n → n < 57344 → exec (.dataCell c ecc) s = .next { s with chip := ((d.dropBlk blk).tunBad).pumpClusters.allotReview })
        ∧ (57344 ≤ n → x.kept = true → exec (.dataCell c ecc) s = .next { s with chip := (d.duplicate c.tun blk).pumpClusters.allotReview })
        ∧ (57344 ≤ n → x.kept = false → exec (.dataCell c ecc) s = .next { s with chip := (((d.dropBlk blk).inc TUN_LATE_DROP).evt TUN_EVT_LATE).pumpClusters.allotReview })))
    ∧ (c.flag 2 = false → c.flag 3 = false → c.tun = 0 → s.chip.upd.rewriting = none →
      (d.boot.porter = false → exec (.dataCell c ecc) s = .next { s with chip := ((d.dropBlk blk).unknownTun).pumpClusters.allotReview })
      ∧ (d.boot.porter = true → badData c = true → exec (.dataCell c ecc) s = .next { s with chip := ((d.dropBlk blk).tunBad).pumpClusters.allotReview })
      ∧ (∀ t e, d.boot.porter = true → badData c = false → d.allocPeer (rd c.data 0 2) = (some t, e) →
        exec (.dataCell c ecc) s = .next { s with chip := (e.sinkCell t c blk).pumpClusters.allotReview }))
    ∧ (∀ (i : Instr) (k : Nat), (i = .ack c ecc ∧ k = 1) ∨ (i = .resend c ecc ∧ k = 2) ∨ (i = .breakCell c ecc ∧ k = 3) →
      ((c.flag 2 = true ∨ c.flag 3 = false ∨ (badControl c = false ∧ ctlType c ≠ k)) → exec i s = .next s)
      ∧ (c.flag 2 = false → c.flag 3 = true → badControl c = true → exec i s = .next { s with chip := ((d.dropBlk blk).tunBad).pumpClusters })
      ∧ (c.flag 2 = false → c.flag 3 = true → badControl c = false → ctlType c = k → c.tun ≠ 0 → ((d.dropBlk blk).tun c.tun).state = .closed →
        exec i s = .next { s with chip := ((d.dropBlk blk).unknownTun).pumpClusters }))
    ∧ (∀ e x, e = d.dropBlk blk → x = e.tun c.tun → c.flag 2 = false → c.flag 3 = true → badControl c = false → c.tun ≠ 0 → c.tun < 1024 → x.state = .opened →
      (ctlType c = 1 → x.sink = false → exec (.ack c ecc) s = .next { s with chip := ((e.takeAck c.tun (ctlSeq c)).afterAck c.tun).pumpClusters })
      ∧ (ctlType c = 1 → x.sink = true → exec (.ack c ecc) s = .next { s with chip := e.tunBad.pumpClusters })
      ∧ (ctlType c = 2 → x.sink = false → exec (.resend c ecc) s = .next { s with
          chip := ((e.resendRun c.tun (ctlSeq c) (x.sendable (ctlSeq c) (ctlCount c)) true).evt TUN_EVT_RESEND_RX).pumpClusters })
      ∧ (ctlType c = 2 → x.sink = true → exec (.resend c ecc) s = .next { s with chip := e.tunBad.pumpClusters })
      ∧ (ctlType c = 3 → x.kept = false → exec (.breakCell c ecc) s = .next { s with chip := e.pumpClusters })
      ∧ (ctlType c = 3 → x.kept = true → ctlReason c = 2 → x.sink = true → exec (.breakCell c ecc) s = .next { s with
          chip := ((e.setTun c.tun { x with
            state := .breaking
            rxBreak := some (ctlSeq c) }).sinkBreakReached c.tun).pumpClusters })
      ∧ (ctlType c = 3 → x.kept = true → ctlReason c ≠ 2 → exec (.breakCell c ecc) s = .next { s with chip := ((e.tunBroken c.tun (ctlReason c) x.sink).afterAck c.tun).pumpClusters }))

/-- LDX and STX take a tag and go to the bridge, wait for one, or trap; FAR_COMPLETION delivers what the bridge has. Where a hand
issues LDX, its memory form or a non-posted STX: a far address that is misaligned or outside an enabled window traps with the
cause and performs nothing; with no tag to take the hand waits in Stall; otherwise the lowest free tag opens and the access is
performed at its target, the register form holding the hand and the other two letting it go on. A posted STX takes no tag.
Completion with a known result writes the register of a register form, raises trap 0x03 on an error, and for a non-posted STX
raises event 3; a tag that is not open is a late response, and an access that a far bus is performing ends its transfer there; a
posted one is logged where it fails. Rests on R320, R321, R322, R323, R336, R339, R259, R260. -/
def Obligations.FarAccessIssue : Prop :=
  ∀ (h : HandId) (d a b : BitVec 5) (size : AccSize) (s : State) (far at_ : Word) (cause : Nat), s.chip.issues h = true →
    far = (s.chip.hand h).w a → at_ = (s.chip.hand h).w b → cause = s.chip.farTrap h far size →
    (cause ≠ 0 → exec (.ldx h d a size) s = .next (s.settle (s.chip.trapHere h cause far)) ∧ exec (.stx h d a size) s = .next (s.settle (s.chip.trapHere h cause far)))
    ∧ (cause = 2 → exec (.ldxMemoryForm h a b size) s = .next (s.settle (s.chip.trapHere h 2 far)))
    ∧ (cause ≠ 2 → at_.toNat % 4 ≠ 0 → exec (.ldxMemoryForm h a b size) s = .next (s.settle (s.chip.trapHere h 2 at_)))
    ∧ (cause = 0 → at_.toNat % 4 = 0 →
      (s.chip.handTag h = none →
        exec (.ldx h d a size) s = .next { s with chip := s.chip.stall h (.ldx h d a size) }
        ∧ exec (.ldxMemoryForm h a b size) s = .next { s with chip := s.chip.stall h (.ldxMemoryForm h a b size) })
      ∧ (∀ t r, s.chip.handTag h = some t → r = s.chip.farReq h far size none (some t) →
        exec (.ldx h d a size) s = .next (State.perform { s with chip := (s.chip.stall h (.ldx h d a size)).openTag t ⟨r, .ldxReg d, none⟩ } r)
        ∧ exec (.ldxMemoryForm h a b size) s = .next (State.perform { s with chip := (s.chip.openTag t ⟨r, .ldxMem (dataAddr h at_), none⟩).advance h } r))
      ∧ (∀ v, v = narrow size ((s.chip.hand h).w d) →
        (∀ r, s.chip.on (BRG_WIN_CFG_POSTED (winOf far)) = true → r = s.chip.farReq h far size (some v) none → r.kind ≠ 4 →
          exec (.stx h d a size) s = .next (State.perform (s.advances h) r))
        ∧ (∀ t r, s.chip.on (BRG_WIN_CFG_POSTED (winOf far)) = false → s.chip.handTag h = some t → r = s.chip.farReq h far size (some v) (some t) →
          exec (.stx h d a size) s = .next (State.perform { s with chip := (s.chip.openTag t ⟨r, .stx, none⟩).advance h } r))))
    ∧ (∀ (t : Fin 2048) (code : FarCode) bytes, s.chip.busOfTag t = none →
      (s.chip.tagAt t = none → (s.chip.lateError t code.val).tagAt t = none → exec (.farCompletion (.tag t) code bytes) s = .next { s with chip := s.chip.lateError t code.val })
      ∧ (∀ x v, s.chip.tagAt t = some x → x.kind = .ldxReg d → x.result = some (0, v) →
        exec (.farCompletion (.tag t) code bytes) s =
          .next ((s.settle (((s.chip.dropTag t).complete x.req.hand d v).boundary x.req.hand)).csrGoOn t))
      ∧ (∀ x v e, s.chip.tagAt t = some x → x.kind = .ldxReg d → e ≠ 0 → x.result = some (e, v) →
        exec (.farCompletion (.tag t) code bytes) s =
          .next ((s.settle (((s.chip.dropTag t).farLog x.req.hand x.req.far.toNat e true).trapHere x.req.hand 3 x.req.far)).csrGoOn t))
      ∧ (∀ x v, s.chip.tagAt t = some x → x.kind = .stx → x.result = some (0, v) →
        ∃ u, exec (.farCompletion (.tag t) code bytes) s = .next u ∧ u.chip.tagAt t = none ∧ u.mem = s.mem
          ∧ (u.chip.hand x.req.hand).events = setBit (s.chip.hand x.req.hand).events 3))
    ∧ (∀ (t : Fin 2048) (k : Nat) (code : FarCode) bytes r, s.chip.busOfTag t = some k → (s.chip.bus k).busy = some r →
      exec (.farCompletion (.tag t) code bytes) s = .next ((s.transferDone k r code.val bytes).csrGoOn t))
    ∧ (∀ (k : Fin 5) (code : FarCode) bytes, ((s.chip.bus k).busy = none → exec (.farCompletion (.posted k) code bytes) s = .next s)
      ∧ (∀ r, (s.chip.bus k).busy = some r → r.tag = none → exec (.farCompletion (.posted k) code bytes) s =
        .next { s with chip := if code.val = 0 then s.chip.endTransfer k else (s.chip.endTransfer k).farLog r.hand r.far.toNat code.val false }))

/-- LOCK, UNLOCK, arbitration, back-off, window writes, prefetch discards, the lock watchdog and stuck I2C buses. Where a hand
issues LOCK: a window with no far bus or not lockable traps 0x03; a free bus with no request grants the lock at once and writes
1; at a held bus the request is queued, NB writing 0 and the other form waiting in Stall. UNLOCK waits for the hand's accesses
through the window, releases the hand's own lock or withdraws its request and writes 1, and writes 0 where it holds none and
waits for none. A write to an enabled window that changes a field and leaves EN 1 is refused with CFG_ERR, and one that Table
12.1 does not allow too; the registers of a window that is not enabled take their values, CFG an allowed combination. A bus with
a transfer under way is not arbitrated. LOCK_WDOG on a bus with no lock and no transfer does nothing. BACK_OFF repeats the
attempt, which loses again at a held bus. I2C_STUCK sets the bus's bit of BRG_STAT and ends what is at the bus with code 5;
I2C_UNSTUCK clears the bit. Rests on R325, R326, R329, R333, R338, R343, R344, R346, R347. -/
def Obligations.BridgeLocksAndBuses : Prop :=
  ∀ (h : HandId) (d a : BitVec 5) (nb : Bool) (s : State) (far : Word) (n : Nat) (sda : Fin 10), far = (s.chip.hand h).w a → n = winOf far →
    (s.chip.issues h = true → s.chip.lockUse h = false →
      (s.chip.winBus n = none → exec (.lock h d a nb) s = .next (s.settle (s.chip.trapHere h 3 far)))
      ∧ (∀ k, s.chip.winBus n = some k → (s.chip.get (BRG_WIN_CFG_LOCKABLE n) = 0 ∨ s.chip.get (BRG_WIN_CFG_EN n) = 0) →
        exec (.lock h d a nb) s = .next (s.settle (s.chip.trapHere h 3 far)))
      ∧ (∀ k x, s.chip.winBus n = some k → x = s.chip.bus k → s.chip.get (BRG_WIN_CFG_LOCKABLE n) ≠ 0 → s.chip.get (BRG_WIN_CFG_EN n) ≠ 0 → x.held = false → x.present = [] → s.chip.behind k ⟨h, none, n, false⟩ = false →
        exec (.lock h d a nb) s = .next (s.settle (((s.chip.setBus k { x with
          last := coreOf h
          losses := mset 0 x.losses (coreOf h) 0 }).holdLock k h n).complete h d 1)))
      ∧ (∀ k, s.chip.winBus n = some k → s.chip.get (BRG_WIN_CFG_LOCKABLE n) ≠ 0 → s.chip.get (BRG_WIN_CFG_EN n) ≠ 0 → (s.chip.bus k).held = true → nb = true →
        exec (.lock h d a nb) s = .next (s.settle ((s.chip.attempt k ⟨h, none, n, false⟩).complete h d 0)))
      ∧ (∀ k, s.chip.winBus n = some k → s.chip.get (BRG_WIN_CFG_LOCKABLE n) ≠ 0 → s.chip.get (BRG_WIN_CFG_EN n) ≠ 0 → (s.chip.bus k).held = true → nb = false →
        exec (.lock h d a nb) s = .next (s.settle ((s.chip.attempt k ⟨h, none, n, false⟩).stall h (.lock h d a nb)))))
    ∧ (s.chip.issues h = true → s.chip.windowBusy h n = false →
      (∀ k, s.chip.winBus n = some k → (s.chip.bus k).lock = some h →
        exec (.unlock h d a) s = .next (s.settle (((s.chip.setBus k { s.chip.bus k with lock := none }).endSequence k).complete h d 1)))
      ∧ (∀ k b, s.chip.winBus n = some k → b = s.chip.bus k → b.lock ≠ some h → b.tries.any (fun t => decide (t.hand = h) && t.req.isNone) = true →
        exec (.unlock h d a) s = .next (s.settle ((s.chip.setBus k { b with
          tries := b.tries.filter (fun t => !(decide (t.hand = h) && t.req.isNone)) }).complete h d 1)))
      ∧ (∀ k b, s.chip.winBus n = some k → b = s.chip.bus k → b.lock ≠ some h → b.tries.any (fun t => decide (t.hand = h) && t.req.isNone) = false →
        exec (.unlock h d a) s = .next (s.completes h d 0))
      ∧ (s.chip.winBus n = none → exec (.unlock h d a) s = .next (s.completes h d 0)))
    ∧ (s.chip.issues h = true → s.chip.windowBusy h n = true → exec (.unlock h d a) s = .next (s.settle (s.chip.stall h (.unlock h d a))))
    ∧ (∀ (m : Fin 64) (v : Word), s.chip.get (BRG_WIN_CFG_EN m) = 1 →
      (bits v.toNat 0 1 = 1 → bits v.toNat 4 1 ≠ s.chip.get (BRG_WIN_CFG_POSTED m) → exec (.windowConfig m 0 v) s = .next { s with chip := s.chip.evt BRG_EVT_CFG_ERR })
      ∧ (s.chip.get (BRG_WIN_CFG_KIND m) = 1 → s.chip.get (BRG_WIN_BASE_LO_BASE m) ≠ v.toNat → exec (.windowConfig m 1 v) s = .next { s with chip := s.chip.evt BRG_EVT_CFG_ERR }))
    ∧ (∀ (m : Fin 64) (v : Word), s.chip.get (BRG_WIN_CFG_EN m) = 0 →
      exec (.windowConfig m 1 v) s = .next { s with chip := s.chip.put (BRG_WIN_BASE_LO_BASE m) v.toNat }
      ∧ exec (.windowConfig m 2 v) s = .next { s with chip := s.chip.put (BRG_WIN_BASE_HI_BASE m) v.toNat }
      ∧ exec (.windowConfig m 3 v) s = .next { s with
        chip := s.chip.put (BRG_WIN_ACC_ACC m) (accValue (s.chip.get (BRG_WIN_CFG_KIND m)) (s.chip.get (BRG_WIN_ACC_ACC m)) v.toNat) }
      ∧ (winAllowed (bits v.toNat 1 3) (bits v.toNat 5 1) (bits v.toNat 6 1) (bits v.toNat 7 1) (bits v.toNat 8 5) = true → bits v.toNat 1 3 ≤ 4 →
        exec (.windowConfig m 0 v) s = .next { s with chip := ((((((s.chip.put (BRG_WIN_CFG_EN m) (bits v.toNat 0 1)).put (BRG_WIN_CFG_KIND m)
          (bits v.toNat 1 3)).put (BRG_WIN_CFG_POSTED m) (bits v.toNat 4 1)).put (BRG_WIN_CFG_PREFETCH m) (bits v.toNat 5 1)).put
          (BRG_WIN_CFG_LOCKABLE m) (bits v.toNat 6 1)).put (BRG_WIN_CFG_BUS m) (bits v.toNat 7 1)).put (BRG_WIN_CFG_SIZE m) (bits v.toNat 8 5) }))
    ∧ (∀ k : Fin 5, ((s.chip.bus k).busy.isSome = true → exec (.arbitration k) s = .next s)
      ∧ (exec (.arbitration k) s = .next (s.settle (s.chip.arbitrate k)))
      ∧ (winner (s.chip.bus k).last (s.chip.bus k).present = none → exec (.lockGranted k) s = .next s)
      ∧ (∀ w, winner (s.chip.bus k).last (s.chip.bus k).present = some w → (s.chip.bus k).held = false → w.req = none →
        exec (.lockGranted k) s = .next (s.settle (s.chip.arbitrate k)))
      ∧ ((s.chip.bus k).tries.find? (fun t => decide (t.hand = h) && t.backedOff) = none → exec (.backOff k h) s = .next s)
      ∧ (∀ t, (s.chip.bus k).tries.find? (fun t => decide (t.hand = h) && t.backedOff) = some t → (s.chip.bus k).held = false →
        exec (.backOff k h) s = .next { s with
          chip := s.chip.setBus k { s.chip.bus k with tries := (s.chip.bus k).tries.map (fun x => if x = t then { x with backedOff := false } else x) } })
      ∧ (∀ t, (s.chip.bus k).tries.find? (fun t => decide (t.hand = h) && t.backedOff) = some t → (s.chip.bus k).held = true → (s.chip.bus k).lock ≠ some h →
        exec (.backOff k h) s = .next { s with chip := s.chip.lose k t })
      ∧ ((s.chip.bus k).lock = none → (s.chip.bus k).busy = none → exec (.lockWdog k sda) s = .next s)
      ∧ (∀ j, (s.chip.bus k).lock = some j → (s.chip.bus k).busy = none → exec (.lockWdog k sda) s = .next (s.settle
          (((s.chip.freeBus k sda).farLog j (2 ^ 26 * (s.chip.bus k).lockWin) 9 false).lockBite k j true))))
    ∧ (∀ m : Fin 64, exec (.prefetchDiscard m) s = .next { s with chip := s.chip.discardLine m 4 })
    ∧ (∀ i : Fin 2, ∃ t, exec (.i2cUnstuck i) s = .next t ∧ t.chip.get BRG_STAT_I2C_STUCK = clrBit (s.chip.get BRG_STAT_I2C_STUCK) i % 4 ∧ t.mem = s.mem)
    ∧ (∀ i : Fin 2, exec (.i2cStuck i) s = .next (State.failBus { s with chip := (s.chip.setBitOf BRG_STAT_I2C_STUCK i).evt BRG_EVT_I2C_STUCK } (3 + i.val) 5))
    ∧ (∀ i : Fin 2, (s.chip.bus (3 + i.val)).busy = none → (s.chip.bus (3 + i.val)).tries = [] →
      exec (.i2cStuck i) s = .next { s with
        chip := ((s.chip.setBitOf BRG_STAT_I2C_STUCK i).evt BRG_EVT_I2C_STUCK).setBus (3 + i.val) (s.chip.bus (3 + i.val)) })

/-- A CSR write acts on whole words only, and each field takes it by its access code and its encodings. A write that is not a whole
aligned word, or whose block's domain is off, changes no register and nothing else. Any other goes to its register: an address
with none changes nothing, and a register whose write has no effect of its own has each of its fields written by its access
code, an RO or WO field not at all, an RW field where the encoding is permitted, a W1C field by the bits written 1 that hardware
has not set in the same cycle, a W1S field by the bits written 1, an RWL field once. With PD-LODGE on: a write to CLK_STAT (RO)
changes nothing; a write to CLK_EVT (W1C) clears exactly the bits written 1 that were not set in the same cycle; a write to
CLK_BOOT_TMR sets each of its two fields that is given an encoding other than the reserved 0 and leaves the other as it was, and
changes no hand and no byte of memory. Formalises R5, R10. -/
def Obligations.CsrWritesByAccessCode : Prop :=
  ∀ (v : Word) (s : State),
    (∀ (addr : BitVec 24) (size : AccSize), (wholeWord addr.toNat size = false ∨ s.chip.csrReach addr.toNat = false) → exec (.csrWrite addr size v) s = .next s)
    ∧ (∀ (addr : BitVec 24) (size : AccSize), wholeWord addr.toNat size = true → s.chip.csrReach addr.toNat = true →
      exec (.csrWrite addr size v) s = .next (s.csrPut addr.toNat v.toNat)
      ∧ (rowAt (unalias addr.toNat) = none → exec (.csrWrite addr size v) s = .next s)
      ∧ (∀ (r : RegRow) (ix : List Nat), rowAt (unalias addr.toNat) = some (r, ix) → s.chip.tnkShut (unalias addr.toNat) = false →
        r.base ∉ [0xa0000, 0xa0024, 0xa002c, 0xe8000, 0xd0000] → r.base ∉ [0x28, 0x10000, 0x30000, 0x40000, 0x50000, 0x50008, 0x60000, 0x60030, 0x60034, 0x70030, 0x70100, 0x82000, 0x82004, 0x88000, 0x88010, 0x88020, 0x88024, 0x88400, 0x88404, 0x88100, 0x88200, 0xa0030, 0xa0100, 0xa0800, 0xb0400, 0xb0404, 0xb0408, 0xb040c, 0xc0000, 0xd0010, 0xd0014, 0xd0018, 0xe0000, 0xe0024, 0xe0100, 0xe0104, 0xe0200, 0xe0300, 0xe0380, 0xf0100, 0xf0108, 0xf010c, 0xf0110, 0xf0114, 0xf0118, 0xf0120, 0xf0124, 0xf0128, 0xf0130, 0xf0134, 0xf0140, 0x100000, 0x100200, 0x110000, 0x110100, 0x110120, 0x120000, 0x120010, 0x160014, 0x170050, 0x180010] →
        exec (.csrWrite addr size v) s = .next { s with chip := (r.fields ix).foldl (fun (c : Chip) f => c.writeField v.toNat f) s.chip }))
    ∧ (∀ (c : Chip) (f : FieldRow) (x : Nat), x = bits v.toNat f.fld.lo f.fld.width →
      (f.acc = .ro ∨ f.acc = .wo → c.writeField v.toNat f = c)
      ∧ (f.acc = .rw → f.permits x = true → c.writeField v.toNat f = c.put f.fld x)
      ∧ (f.acc = .rw → f.permits x = false → c.writeField v.toNat f = c)
      ∧ (f.acc = .w1s → c.writeField v.toNat f = c.put f.fld (c.get f.fld ||| x))
      ∧ (f.acc = .w1c → c.writeField v.toNat f = c.put f.fld (c.get f.fld - ((c.get f.fld &&& x) - (c.get f.fld &&& x &&& c.raisedNow f.fld))))
      ∧ (f.acc = .rwl → c.locked f.fld = true → c.writeField v.toNat f = c)
      ∧ (f.acc = .rwl → c.locked f.fld = false → f.permits x = true → c.writeField v.toNat f = (c.put f.fld x).lockField f.fld))
    ∧ (s.chip.domainOn 0 = true →
      exec (.csrWrite 0x10004 .word v) s = .next s
      ∧ (∃ t, exec (.csrWrite 0x10008 .word v) s = .next t ∧ t.mem = s.mem
        ∧ ∀ f ∈ [CLK_EVT_REF_FAIL, CLK_EVT_LOCK_A_LOST, CLK_EVT_LOCK_B_LOST, CLK_EVT_FREQ_A, CLK_EVT_FREQ_B, CLK_EVT_SWAP, CLK_EVT_BOOT_FAIL],
            s.chip.get f < 2 → s.chip.raisedNow f = 0 → t.chip.get f = if bit v.toNat f.lo then 0 else s.chip.get f)
      ∧ (∃ t, exec (.csrWrite 0x10018 .word v) s = .next t ∧ t.mem = s.mem
        ∧ t.chip.get CLK_BOOT_TMR_GATE_TMO = (if bits v.toNat 0 8 = 0 then s.chip.get CLK_BOOT_TMR_GATE_TMO else bits v.toNat 0 8)
        ∧ t.chip.get CLK_BOOT_TMR_SEED_TMO = (if bits v.toNat 8 8 = 0 then s.chip.get CLK_BOOT_TMR_SEED_TMO else bits v.toNat 8 8)
        ∧ ∀ h, t.chip.hand h = s.chip.hand h))

/-- RCSR_RD, RCSR_WR and the CSR orders are performed for whom R359 and R366 allow, and refused otherwise. RCSR_RD from a Member
while RD_EN is 1 reads a whole aligned word whose domain is on and answers it with CODE 0; RCSR_WR is performed for the serving
head, and for a Member while WR_ANY is 1. A misaligned word, a domain that is off, a source not allowed or an address beyond the
24-bit space is answered with CODE 7 and changes no register. RCSR_RSP with CODE 0 from the node written to ends a posted
write's record, a nonzero CODE logs far error 7, and a response from another node, or for a tag with no record and no access of
that node that waits, is late, and logged where it reports an error on a tag with neither. A record that times out logs far
error 8. Where a slot's READ_CSR, WRITE_CSR or READ_CSR_BLOCK starts and Porter has a tag: a body outside Table 13.7 returns
BAD_ARGS, a plain frame's order that reaches beyond 0x00FFFF returns AUTH_FAIL, and otherwise its accesses are performed in
order from the first. One access of a register whose domain is off, or one that is not a whole word of window 0, ends the order
with the count performed before it. With no tag the order waits. Rests on R359, R619, R10, R372, R260, R364, R365, R366, R367. -/
def Obligations.RegisterAccessFromOutside : Prop :=
  (∀ (node rid : BitVec 16) (addr value : Word) (code : BitVec 8) (s : State),
     (∀ c allowed served, c = s.chip.dropInbox node.toNat (message 5 0 (leBytes rid.toNat 2 ++ leBytes addr.toNat 4)) →
       allowed = (c.on GLB_RCSR_RD_EN && c.isMember node.toNat && decide (addr.toNat < 2 ^ 24)) →
       served = (wholeWord addr.toNat .word && c.csrReach addr.toNat) →
       (allowed = true → served = true → ∀ x, x = State.csrGet { s with chip := c } addr.toNat →
         exec (.rcsrRd node rid addr) s = .next { x.2 with chip := x.2.chip.rcsrAnswer node.toNat rid.toNat 0 x.1 })
       ∧ (allowed = false ∨ served = false → exec (.rcsrRd node rid addr) s = .next { s with chip := c.rcsrAnswer node.toNat rid.toNat 7 0 }))
     ∧ (∀ c allowed served, c = s.chip.dropInbox node.toNat (message 6 0 (leBytes rid.toNat 2 ++ leBytes addr.toNat 4 ++ leBytes value.toNat 4)) →
       allowed = ((c.fromServingHead node.toNat || (c.on GLB_RCSR_WR_ANY && c.isMember node.toNat)) && decide (addr.toNat < 2 ^ 24)) →
       served = (wholeWord addr.toNat .word && c.csrReach addr.toNat) →
       (allowed = true → served = true → ∀ x, x = State.csrPut { s with chip := c } addr.toNat value.toNat →
         exec (.rcsrWr node rid addr value) s = .next { x with chip := x.chip.rcsrAnswer node.toNat rid.toNat 0 0 })
       ∧ (allowed = false ∨ served = false → exec (.rcsrWr node rid addr value) s = .next { s with chip := c.rcsrAnswer node.toNat rid.toNat 7 0 }))
     ∧ (∀ c, c = s.chip.dropInbox node.toNat (message 7 0 (leBytes rid.toNat 2 ++ leBytes code.toNat 1 ++ leBytes value.toNat 4)) →
       (∀ w, c.cores.remoteWrites.find? (fun x => decide (x.1 = rid.toNat)) = some w →
         (w.2.acc ≠ node.toNat → exec (.rcsrRsp node rid code value) s = .next { s with chip := c.lateResponse rid.toNat })
         ∧ (w.2.acc = node.toNat → ∀ d : Chip, d = { c with cores := { c.cores with remoteWrites := mdel c.cores.remoteWrites rid.toNat } } →
           exec (.rcsrRsp node rid code value) s = .next { s with chip := if code = 0 then d else d.farLog w.2.hand w.2.far.toNat 7 false }))
       ∧ (c.cores.remoteWrites.find? (fun x => decide (x.1 = rid.toNat)) = none → c.tagAt rid.toNat = none →
         exec (.rcsrRsp node rid code value) s = .next { s with chip := c.lateError rid.toNat (if code = 0 then 0 else 7) })
       ∧ (∀ x, c.cores.remoteWrites.find? (fun x => decide (x.1 = rid.toNat)) = none → c.tagAt rid.toNat = some x → (x.req.kind ≠ 4 ∨ x.req.acc ≠ node.toNat ∨ x.result.isSome = true) →
         exec (.rcsrRsp node rid code value) s = .next { s with chip := c.lateResponse rid.toNat })
       ∧ (∀ x, c.cores.remoteWrites.find? (fun x => decide (x.1 = rid.toNat)) = none → c.tagAt rid.toNat = some x → x.req.kind = 4 → x.req.acc = node.toNat → x.result = none →
         exec (.rcsrRsp node rid code value) s = .next ((State.endAccess { s with chip := c } rid.toNat x (if code = 0 then 0 else 7) value).csrGoOn rid.toNat)))
     ∧ (∀ e : Nat × FarReq, s.chip.cores.remoteWrites.find? (fun e => decide (e.1 = rid.toNat)) = some e →
       exec (.rcsrRecordTimeout rid) s = .next { s with
         chip := Chip.farLog { s.chip with cores := { s.chip.cores with remoteWrites := mdel s.chip.cores.remoteWrites e.1 } } e.2.hand e.2.far.toNat 8 false })
     ∧ (s.chip.cores.remoteWrites.find? (fun e => decide (e.1 = rid.toNat)) = none → exec (.rcsrRecordTimeout rid) s = .next s)) ∧
  (∀ (id : SlotId) (s : State) (i : Instr) (code : Nat), ((i = .readCsr id ∧ code = 1) ∨ (i = .writeCsr id ∧ code = 2) ∨ (i = .readCsrBlock id ∧ code = 3)) →
     (s.chip.handTag 64 = none → exec i s = .next s)
     ∧ (∀ t o c body, s.chip.handTag 64 = some t → s.chip.starts id code anyBody o → c = s.chip.orderBegun id o → body = o.bytes.drop 16 →
       (csrBodyOk code body = false → exec i s = .next { s with chip := c.docketReady id stBadArgs [] })
       ∧ (csrBodyOk code body = true → c.isPlain o = true → csrPlainOk code body = false → exec i s = .next { s with chip := c.docketReady id stAuthFail [] })
       ∧ (csrBodyOk code body = true → (c.isPlain o = false ∨ csrPlainOk code body = true) →
         (exec i s = .next (State.csrRun { s with chip := c } t id code body 0 [] (csrCount code body)))
         ∧ (∀ far, far = BitVec.ofNat 32 (csrFar code body 0) → 0 < csrCount code body →
           (c.farTrap 64 far (csrSize code body 0) = 2 → exec i s = .next { s with chip := c.csrDone t id code stBadArgs 0 [] })
           ∧ (c.farTrap 64 far (csrSize code body 0) ≠ 0 → c.farTrap 64 far (csrSize code body 0) ≠ 2 →
             exec i s = .next { s with chip := c.csrDone t id code stFarError 0 [] })
           ∧ (c.farTrap 64 far (csrSize code body 0) = 0 → c.get (BRG_WIN_CFG_KIND (winOf far)) = 0 →
             wholeWord (c.farReq 64 far (csrSize code body 0) (csrValue code body 0) (some t)).addr (csrSize code body 0) = false →
             exec i s = .next { s with chip := c.csrDone t id code stBadArgs 0 [] })))))

/-- ORDER: an enabled session's free slot takes it, with the status Table 13.6 gives where it cannot be performed. An ORDER of at
least a header is refused on a disabled session and, with MBX_BUSY_CNT and MBX_EVT.BUSY, on an occupied slot. On an enabled
session's free slot it is stored and the heartbeat reloaded; a bad length, code or unit returns BAD_ARGS at once, one that a
plain frame may not carry AUTH_FAIL, one past its DEADLINE TIMEOUT, and any other waits in its slot as accepted. As a message of
tunnel 0 it is taken from the serving head alone, any other source being counted; nothing is taken while management is absent,
and no message while Porter firmware does not run. Rests on R350, R351, R355, R359, R361, R362, R371. -/
def Obligations.OrdersAccepted : Prop :=
  ∀ (path : MsgPath) (sess : Fin 4) (keyed : Bool) (bytes : List Byte) (s : State),
    (s.chip.absent = true → exec (.order path sess keyed bytes) s = .next s)
    ∧ (∀ n : BitVec 16, path = .tunnel0 n → s.chip.noTunnel0 = true → exec (.order path sess keyed bytes) s = .next s)
    ∧ (∀ n : BitVec 16, path = .tunnel0 n → s.chip.noTunnel0 = false → ∀ d, d = s.chip.dropInbox n.toNat (message 1 sess bytes) →
      exec (.order path sess keyed bytes) s = .next { s with chip := if d.fromServingHead n.toNat then d.acceptOrder path sess plainSlot bytes else d.srcDrop })
    ∧ ((∀ n, path ≠ .tunnel0 n) → s.chip.absent = false → 16 ≤ bytes.length → ∀ ks id x, ks = (if keyed then s.chip.sessionKey sess else plainSlot) →
      id = slotOf sess (rd bytes 2 2) → x = s.chip.slot id →
      (bit (s.chip.get MBX_CTL_EN) sess = false → exec (.order path sess keyed bytes) s = .next { s with chip := s.chip.sendOnce path sess ks bytes stRefused x.gen })
      ∧ (bit (s.chip.get MBX_CTL_EN) sess = true → x.occupied = true →
        exec (.order path sess keyed bytes) s = .next { s with chip := ((s.chip.sendOnce path sess ks bytes stRefused x.gen).inc MBX_BUSY_CNT).evt MBX_EVT_BUSY })
      ∧ (bit (s.chip.get MBX_CTL_EN) sess = true → x.occupied = false → ∃ c t : Chip,
          exec (.order path sess keyed bytes) s = .next { s with chip := t }
          ∧ (c.slot id = ⟨x.gen, some ⟨bytes, path, ks, false, s.chip.mbx.accepted⟩, none⟩ ∧ c.mbx.accepted = s.chip.mbx.accepted + 1
            ∧ (sess.val < 2 → s.chip.get GLB_HB_HB_TMO ≠ 0 → c.get GLB_HB_LOST = 0) ∧ (∀ j, j ≠ id → c.slot j = s.chip.slot j) ∧ c.ns = s.chip.ns)
          ∧ (∀ bad auth late, bad = decide (1008 < rd bytes 4 2 ∨ rd bytes 4 2 ≠ bytes.length - 16 ∨ rd bytes 6 1 ≠ 0 ∨ orderKnown (rd bytes 0 2) (rd bytes 7 1) (bytes.drop 16) = false) →
            auth = (c.restricted path ks && !plainAllowed (rd bytes 0 2) (onDock path)) → late = decide (rd bytes 8 8 ≠ 0 ∧ rd bytes 8 8 ≤ s.chip.ns) →
            t = if bad then c.docketReady id stBadArgs [] else if auth then c.docketReady id stAuthFail [] else if late then c.docketReady id stTimeout [] else c)))

/-- Management frames: who is handed the frame and what a keyed frame must pass; the JTAG port's instructions and words. A frame on
ETH0 is taken where the port is on with its link up, and counted; it is nothing to a node that does not serve as its row's head;
there, one for the node itself is checked and performed, one for another node of the row is remembered for its answer and
relayed, and one for another row is refused. A frame on D0 or a plain one on JTAG is checked and performed at the node it names;
a frame with a bad header is discarded. A FRAME message is taken from the serving head, at the serving head from every Member
too, and there an answer goes out to the MAC address kept. A keyed frame too short, with an unusable key or a wrong tag counts
in MBX_AUTH_DROP, one whose counter is not higher in MBX_REPLAY_DROP; one that passes is deciphered, its counter kept, and
performed. MBOX_IN appends its word's four bytes to the frame in progress, and LAST hands the whole frame to the mailbox on the
JTAG path and ends it. MBOX_OUT shifts out 0 with VALID 0 while no answer waits; otherwise the next four bytes with VALID, and
LAST on an answer's last word, which then leaves. IDCODE shows 0x1 and 0x7740 around the manufacturer's bits (a free value, log
entry 12); BYPASS, or a code that is not assigned, captures 0; EXTEST and SAMPLE/PRELOAD select the boundary scan register and
change nothing else. Rests on R353, R355, R356, R357, R359, R604. -/
def Obligations.FramesCheckedAndJtag : Prop :=
  (∀ (bytes : List Byte) (node : BitVec 16) (s : State), s.chip.absent = false →
     (∀ sess : Fin 4, 16 ≤ bytes.length → rd bytes 0 1 = 1 → (rd bytes 1 1 = 1 ∨ rd bytes 1 1 = 3 ∨ rd bytes 1 1 = 4) → rd bytes 4 1 = sess → rd bytes 6 2 = 0 →
       (∀ src e, sess.val < 2 → s.chip.domainOn 11 = true → s.chip.get (ETH_STAT_LINK 0) ≠ 0 → e = s.chip.inc (ETH_RX_OK 0) →
         (e.headDuty = false → exec (.managementFrame (.eth0 src) bytes) s = .next { s with chip := e })
         ∧ (e.headDuty = true → rd bytes 2 2 = e.node → exec (.managementFrame (.eth0 src) bytes) s = .next { s with chip := e.takeFrame (.eth0 src) sess bytes })
         ∧ (e.headDuty = true → rd bytes 2 2 ≠ e.node → rd bytes 2 2 / 1024 = e.get BRD_STAT_ROW →
           ∀ c : Chip, c = { e with mbx := { e.mbx with relay := mset 0 e.mbx.relay (2 * (rd bytes 2 2 % 1024) + rd bytes 4 1) (src.toNat + 1) } } →
           exec (.managementFrame (.eth0 src) bytes) s = .next { s with chip := (c.sendMsg (rd bytes 2 2) (message 9 (rd bytes 4 1) bytes)).2 })
         ∧ (e.headDuty = true → rd bytes 2 2 ≠ e.node → rd bytes 2 2 / 1024 ≠ e.get BRD_STAT_ROW →
           exec (.managementFrame (.eth0 src) bytes) s = .next { s with chip := e.sendOnce (.eth0 src) (rd bytes 4 1) plainSlot (if rd bytes 5 1 = plainSlot then bytes.drop 16 else []) stRefused 0 }))
       ∧ (sess.val = 2 → rd bytes 2 2 = s.chip.node ∨ s.chip.get BRD_STAT_POS_VALID ≠ 1 →
         exec (.managementFrame .dock bytes) s = .next { s with chip := s.chip.takeFrame .dock sess bytes })
       ∧ (sess.val = 3 → trimJtag bytes = bytes → rd bytes 2 2 = s.chip.node ∨ s.chip.get BRD_STAT_POS_VALID ≠ 1 →
         exec (.managementFrame .jtag bytes) s = .next { s with chip := if rd bytes 5 1 = plainSlot then s.chip.takeFrame .jtag sess bytes else s.chip })
       ∧ (∀ c, s.chip.noTunnel0 = false → c = s.chip.dropInbox node.toNat (message 9 (rd bytes 4 1) bytes) → rd bytes 1 1 ≠ 2 →
         (c.frameSource node.toNat = false → exec (.frame node bytes) s = .next { s with chip := c.srcDrop })
         ∧ (c.frameSource node.toNat = true → sess.val < 2 → rd bytes 2 2 = c.node →
           exec (.frame node bytes) s = .next { s with chip := c.takeFrame (.relay node) sess bytes })))
     ∧ ((bytes.length < 16 ∨ rd bytes 0 1 ≠ 1 ∨ rd bytes 6 2 ≠ 0) → (∀ src, s.chip.domainOn 11 = true → s.chip.get (ETH_STAT_LINK 0) ≠ 0 → exec (.managementFrame (.eth0 src) bytes) s = .next { s with chip := s.chip.inc (ETH_RX_OK 0) }) ∧ exec (.managementFrame .dock bytes) s = .next s)
     ∧ (∀ src, (s.chip.domainOn 11 = false ∨ s.chip.get (ETH_STAT_LINK 0) = 0) → exec (.managementFrame (.eth0 src) bytes) s = .next s)
     ∧ (s.chip.noTunnel0 = true → exec (.frame node bytes) s = .next s)
     ∧ (∀ c mac, s.chip.noTunnel0 = false → c = s.chip.dropInbox node.toNat (message 9 (rd bytes 4 1) bytes) → rd bytes 1 1 = 2 → mac = mget 0 c.mbx.relay (2 * (node.toNat % 1024) + rd bytes 4 1) →
       exec (.frame node bytes) s = .next { s with chip := if c.frameSource node.toNat = false then c.srcDrop else if c.headDuty = false ∨ mac = 0 then c else c.sendEth (mac - 1) bytes })
     ∧ (∀ (c : Chip) (path : MsgPath) (sess : Fin 4) (ks n : Nat), ks = rd bytes 5 1 → n = rd bytes 8 8 →
       (ks = plainSlot → c.takeFrame path sess bytes = c.performFrame path (rd bytes 1 1) sess plainSlot (bytes.drop 16))
       ∧ (ks ≠ plainSlot → (bytes.length < 32 ∨ c.on VLT_STAT_TAMPERED = true ∨ 127 < ks) → c.takeFrame path sess bytes = c.authDrop)
       ∧ (ks ≤ 127 → c.on VLT_STAT_TAMPERED = false → 32 ≤ bytes.length → ∀ u aad cipher nonce, u = c.useKey ks useMgmt → aad = bytes.take 16 →
         cipher = (bytes.drop 16).take (bytes.length - 32) → nonce = frameNonce (rd bytes 2 2) (rd bytes 4 1) 0 n →
         (u.1 = false → c.takeFrame path sess bytes = u.2.authDrop)
         ∧ (u.1 = true → padTo (Config.gcmTag (c.keyBytes ks) nonce aad cipher) 16 ≠ bytes.drop (bytes.length - 16) → c.takeFrame path sess bytes = c.authDrop)
         ∧ (u.1 = true → padTo (Config.gcmTag (c.keyBytes ks) nonce aad cipher) 16 = bytes.drop (bytes.length - 16) →
           (n ≤ mget 0 c.mbx.rxCounter (rd bytes 4 1) → c.takeFrame path sess bytes = u.2.replayDrop)
           ∧ (mget 0 c.mbx.rxCounter (rd bytes 4 1) < n → c.takeFrame path sess bytes =
             Chip.performFrame { u.2 with mbx := { u.2.mbx with rxCounter := mset 0 u.2.mbx.rxCounter (rd bytes 4 1) n } } path (rd bytes 1 1) sess ks
               (padTo (Config.gcmPlain (c.keyBytes ks) nonce aad cipher) cipher.length)))))) ∧
  (∀ (value : Word) (code : BitVec 4) (s : State),
     exec (.mboxIn value false) s = .next { s with chip := { s.chip with mbx := { s.chip.mbx with jtagIr := 10, jtagIn := s.chip.mbx.jtagIn ++ leBytes value.toNat 4 } } }
     ∧ exec (.mboxIn value true) s = .next { s with
         chip := Chip.frameIn { s.chip with mbx := { s.chip.mbx with jtagIr := 10, jtagIn := [] } } .jtag (s.chip.mbx.jtagIn ++ leBytes value.toNat 4) }
     ∧ (s.chip.mbx.jtagOut = [] → exec .mboxOut s = .next { s with chip := Chip.emit { s.chip with mbx := { s.chip.mbx with jtagIr := 11 } } (.jtag 0) })
     ∧ (∀ f rest, s.chip.mbx.jtagOut = f :: rest → exec .mboxOut s = .next { s with
         chip := Chip.emit { s.chip with mbx := { s.chip.mbx with jtagIr := 11, jtagOut := if f.length ≤ 4 then rest else f.drop 4 :: rest } }
           (.jtag (rd f 0 4 + (if f.length ≤ 4 then 2 ^ 32 else 0) + 2 ^ 33)) })
     ∧ (∃ maker t, exec .idcode s = .next t ∧ t.mem = s.mem ∧ t.chip.mbx.jtagIr = 1 ∧ t.chip.outbox.getLast? = some (.jtag (0x17740000 + 2 * maker + 1)))
     ∧ (∀ k, k = code.toNat → (k ≠ 0 ∧ k ≠ 1 ∧ k ≠ 2 ∧ k ≠ 10 ∧ k ≠ 11 → exec (.bypass code) s = .next { s with chip := Chip.emit { s.chip with mbx := { s.chip.mbx with jtagIr := 15 } } (.jtag 0) }))
     ∧ exec .extest s = .next { s with chip := { s.chip with mbx := { s.chip.mbx with jtagIr := 0 } } }
     ∧ exec .samplePreload s = .next { s with chip := { s.chip with mbx := { s.chip.mbx with jtagIr := 2 } } })

/-- READ answers with a slot's docket, ACK consumes a ready docket of its generation only, and the heartbeat's loss is doubt. A READ
on a path is answered there with the slot's docket, and on a path outside tunnel 0 that is all it does to the mailbox's slots;
as a message of tunnel 0 only the serving head's is served. MBX_ACK frees the slot it names if its docket is ready and
GENERATION matches, and no other; any other ACK leaves every slot and counts in MBX_ACK_STALE. An ACK message is applied as such
a write where the serving head sends it, and counted otherwise. After start-up the heartbeat's expiry sets LOST and
MBX_EVT.HB_LOST and shutters the output groups under the heartbeat's cause, unless HB_TMO is 0; GLB_HB takes 0, which clears
LOST, and 10 to 6,000. Formalises R369. -/
def Obligations.ReadsAcksAndHeartbeat : Prop :=
  ∀ (path : MsgPath) (at_ : SlotId) (value : Word) (s : State),
    (s.chip.absent = false → (∀ n, path ≠ .tunnel0 n) →
      exec (.read path at_) s = .next { s with chip := (s.chip.reloadHb at_.sess).answer path at_.sess plainSlot (docketBytes (s.chip.readSlot at_)) }
      ∧ ∀ id, (∀ n, path ≠ .relay n) → ((s.chip.reloadHb at_.sess).answer path at_.sess plainSlot (docketBytes (s.chip.readSlot at_))).slot id = s.chip.slot id)
    ∧ (∀ n c, s.chip.noTunnel0 = false → path = .tunnel0 n → c = s.chip.dropInbox n.toNat (message 3 at_.sess [BitVec.ofNat 8 at_.slot]) →
      exec (.read path at_) s = .next { s with chip := if c.fromServingHead n.toNat then c.serveRead path at_ plainSlot else c.srcDrop })
    ∧ (∃ t : Chip, exec (.mbxAck none value) s = .next { s with chip := t } ∧
        ∀ id : SlotId, (s.chip.slot id).gen < 256 →
          (id.sess.val = bits value.toNat 8 2 → id.slot.val = bits value.toNat 0 6 →
            ((s.chip.slot id).ready.isSome = true → bits value.toNat 16 8 = (s.chip.slot id).gen →
              t.slot id = ⟨(s.chip.slot id).gen, none, none⟩ ∧ (t.slot id).occupied = false ∧ t.get MBX_ACK_STALE = s.chip.get MBX_ACK_STALE)
            ∧ (((s.chip.slot id).ready.isSome = false ∨ bits value.toNat 16 8 ≠ (s.chip.slot id).gen) →
              t.slot id = s.chip.slot id ∧ t.get MBX_ACK_STALE = min (s.chip.get MBX_ACK_STALE + 1) (2 ^ 32 - 1)))
          ∧ (id.sess.val ≠ bits value.toNat 8 2 ∨ id.slot.val ≠ bits value.toNat 0 6 → t.slot id = s.chip.slot id))
    ∧ (∀ n : BitVec 16, (s.chip.noTunnel0 = true → exec (.mbxAck (some n) value) s = .next s)
      ∧ (∀ c, s.chip.noTunnel0 = false → c = s.chip.dropInbox n.toNat (message 4 (bits value.toNat 8 2) (leBytes value.toNat 4)) →
        (c.fromServingHead n.toNat = true → exec (.mbxAck (some n) value) s = exec (.mbxAck none value) { s with chip := c }
          ∧ exec (.mbxAck (some n) value) s = .next { s with chip := c.ackWord value.toNat })
        ∧ (c.fromServingHead n.toNat = false → exec (.mbxAck (some n) value) s = .next { s with chip := c.srcDrop })))
    ∧ ((s.chip.get GLB_HB_HB_TMO = 0 ∨ s.chip.get CLK_BOOT_STEP ≠ 9) → exec .heartbeatExpiry s = .next s)
    ∧ (s.chip.get GLB_HB_HB_TMO ≠ 0 → s.chip.get CLK_BOOT_STEP = 9 → exec .heartbeatExpiry s =
        .next { s with chip := (((s.chip.put GLB_HB_LOST 1).evt MBX_EVT_HB_LOST).live causeHb true).shutter causeHb })
    ∧ (∀ v, v = bits value.toNat 0 13 → ∃ t : Chip, exec (.glbHb value) s = .next { s with chip := t }
        ∧ (v = 0 → t.get GLB_HB_HB_TMO = 0 ∧ t.get GLB_HB_LOST = 0)
        ∧ (10 ≤ v → v ≤ 6000 → t = s.chip.put GLB_HB_HB_TMO v)
        ∧ (0 < v → v < 10 ∨ 6000 < v → t = s.chip))

/-- TRELLIS orders at the serving head, and the ledger records a node stores. A TRELLIS order of ACTION 1, 2 or 3 that starts
returns REFUSED at a node that does not serve as its row's head, and BAD_ARGS where a reserved bit of Table 4.6 is set, the run
is reversed or an override names more than one position. A prune returns REFUSED where the run holds the serving head's own
position, or where FORCE is 0 and two adjacent positions would be missing between Members. Otherwise the row generation
advances, every entry of the run changes, a TRELLIS notice is sent, and the order returns DONE. While Shugon runs in Porter's
place, or no Porter runs and the record is not this node's own from its sponsor, a message is not taken. Otherwise one whose
record fits is stored in the slot of its position and is REP_EVT.LEDGER_RX; any other is counted and is LEDGER_BAD. A record
fits only where it has the shape of Table 23.4, names this row and a position that the copy holds, its RGEN is later than that
of the record held (modulo 2^32, window 2^31), and it came from its own node with a tag that passes, or it is this node's own
record from its sponsor before the ledger scion exists (the model's reading: log entry 25). Rests on R133, R134, R135, R119,
R362, R554, R555, R556, R557, R559. -/
def Obligations.TrellisOrdersAndLedgerRecords : Prop :=
  (∀ (id : SlotId) (s : State) (i : Instr) (act : Nat) (o : Order) (c : Chip) (body : List Byte) (first last : Nat),
     ((i = .trellisAdmit id ∧ act = 1) ∨ (i = .trellisPrune id ∧ act = 2) ∨ (i = .trellisOverride id ∧ act = 3)) →
     s.chip.starts id 0x50 (actionIs act) o → c = s.chip.orderBegun id o → body = o.bytes.drop 16 → first = rd body 2 2 → last = rd body 4 2 →
     rd body 0 1 = act →
     (c.headDuty = false → exec i s = .next { s with chip := c.docketReady id stRefused [] })
     ∧ (c.headDuty = true →
       (trellisBodyOk body = false ∨ last < first ∨ (act = 3 ∧ last ≠ first) → exec i s = .next { s with chip := c.docketReady id stBadArgs [] })
       ∧ (trellisBodyOk body = true → first ≤ last → act = 2 → ((first ≤ c.get BRD_STAT_POS ∧ c.get BRD_STAT_POS ≤ last) ∨ (bit (rd body 1 1) 0 = false ∧ c.wouldSplit first last = true)) →
         exec i s = .next { s with chip := c.docketReady id stRefused [] })
       ∧ (trellisBodyOk body = true → first ≤ last → (act = 3 → last = first) →
           (act = 2 → ¬(first ≤ c.get BRD_STAT_POS ∧ c.get BRD_STAT_POS ≤ last) ∧ (bit (rd body 1 1) 0 = true ∨ c.wouldSplit first last = false)) →
         exec i s = .next { s with
           chip := ((c.countChange.trellisAct act first last (rd body 8 16)).announce act first last 0 (if act = 3 then slice body 8 16 else [])).docketReady id stDone [] }))) ∧
  (∀ (node : BitVec 16) (r : List Byte) (s : State),
     ((s.chip.absent = true ∨ (s.chip.boot.porter = false ∧ s.chip.fromSponsor node.toNat r = false)) → exec (.ledger node r) s = .next s)
     ∧ (s.chip.absent = false → (s.chip.boot.porter = true ∨ s.chip.fromSponsor node.toNat r = true) → ∀ c, c = s.chip.dropInbox node.toNat (message 8 0 r) →
       (c.recordFits node.toNat r = true → exec (.ledger node r) s = .next { s with chip := (if s.chip.fromSponsor node.toNat r = true then (c.storeRecord (recPos r) r).applyOwn else c.storeRecord (recPos r) r).evt REP_EVT_LEDGER_RX })
       ∧ (c.recordFits node.toNat r = false → exec (.ledger node r) s = .next { s with chip := (c.inc REP_LEDGER_BAD_CNT).evt REP_EVT_LEDGER_BAD }
           ∧ ((c.inc REP_LEDGER_BAD_CNT).evt REP_EVT_LEDGER_BAD).boot.ledger = c.boot.ledger
           ∧ ((c.inc REP_LEDGER_BAD_CNT).evt REP_EVT_LEDGER_BAD).get REP_LEDGER_BAD_CNT = min (c.get REP_LEDGER_BAD_CNT + 1) (2 ^ REP_LEDGER_BAD_CNT.width - 1)))
     ∧ (∀ (c : Chip) n, c.recordFits n r = true → recShaped r = true ∧ recNode r / 1024 = c.get BRD_STAT_ROW ∧ (c.ledgerSlot (recPos r)).isSome = true ∧ (c.fromSponsor n r = true ∨ (n = recNode r ∧ (c.openRecord r).isSome = true))
         ∧ (∀ h, c.record (recPos r) = some h → (recGen r + 2 ^ 32 - recGen h) % 2 ^ 32 ≠ 0 ∧ (recGen r + 2 ^ 32 - recGen h) % 2 ^ 32 < 2 ^ 31))
     ∧ (∀ (c : Chip) q k, c.ledgerSlot q = some k → mget [] (c.storeRecord q r).boot.ledger k = r))

/-- A notice is taken once into the trellis by its type; one that is not for the braid logic changes no entry. A notice cell of
another version, or one that only passes while SNOOP_EN is 0, changes nothing that a notice tells. One that is taken counts,
raises BRD_EVT.NOTICE and records its reporter's ROLE, unless that entry is LOCAL or this node's (the model's reading, log entry
40). Then GRAFT and REJOIN set the subject's state, SPLIT also lets a B head beyond the edge originate, ADMIT and REFUSE apply
to their subject, and DORMANT waits for the park at a port partner. TRELLIS is taken only with a later row generation, which it
sets before its DETAIL acts on the run, a state on the entries that are neither LOCAL nor this node's; a trellis copy is applied
whatever its generation. Rests on R118, R119, R123, R130, R131, R136, R138, R150, R617. -/
def Obligations.NoticesTaken : Prop :=
  ∀ (p : TPort) (cell : Cell) (s : State) (d : List Byte), d = cell.data →
    (∀ (i : Instr) (k : Nat), ((i = .graftNotice p cell ∧ k = 1) ∨ (i = .splitNotice p cell ∧ k = 2) ∨ (i = .rejoinNotice p cell ∧ k = 3) ∨ (i = .admitNotice p cell ∧ k = 4)
        ∨ (i = .refuseNotice p cell ∧ k = 5) ∨ (i = .dormantNotice p cell ∧ k = 6)) →
      (isNotice cell k = false ∨ (s.chip.get BRD_CTL_SNOOP_EN = 0 ∧ cell.dest ≠ s.chip.node) →
        exec i s = .next { s with chip := s.chip.reviewSplits.reviewService p }))
    ∧ (∀ (k : Nat) (c e : Chip), isNotice cell k = true → (s.chip.get BRD_CTL_SNOOP_EN ≠ 0 ∨ cell.dest = s.chip.node) →
      e = (s.chip.inc BRD_NOTICE_CNT).evt BRD_EVT_NOTICE → c = (if e.on (BRD_TRELLIS_SELF (nReporter d)) ∨ e.on (BRD_TRELLIS_LOCAL (nReporter d)) then e else e.put (BRD_TRELLIS_ROLE (nReporter d)) (nRole d)) →
      (k = 1 → exec (.graftNotice p cell) s = .next { s with chip := (c.learn (nSubject d) (nState d)).reviewSplits.reviewService p })
      ∧ (k = 2 → exec (.splitNotice p cell) s = .next { s with chip := ((c.learn (nSubject d) (nState d)).splitSeen (nSubject d)).reviewSplits.reviewService p })
      ∧ (k = 3 → exec (.rejoinNotice p cell) s = .next { s with chip := (c.learn (nSubject d) (nState d)).reviewSplits.reviewService p })
      ∧ (k = 4 → exec (.admitNotice p cell) s = .next { s with chip := (c.applyAdmit (nSubject d) (rd d 16 8)).reviewSplits.reviewService p })
      ∧ (k = 5 → exec (.refuseNotice p cell) s = .next { s with chip := (c.applyRefuse (nSubject d)).reviewSplits.reviewService p })
      ∧ (k = 6 → c.portTo (nSubject d) = none → exec (.dormantNotice p cell) s = .next { s with chip := (c.learn (nSubject d) posDormant).reviewSplits.reviewService p })
      ∧ (∀ q, k = 6 → c.portTo (nSubject d) = some q → exec (.dormantNotice p cell) s = .next { s with
          chip := (Chip.reviewSplits { c with braid := { c.braid with dormantSeen := c.braid.dormantSeen.set q true } }).reviewService p })
      ∧ (k = 7 → nDetail d ≠ 4 → c.tgenLater (nTgen d) = false → exec (.trellisNotice p cell) s = .next { s with chip := (c.reviewService p).reviewSplits })
      ∧ (k = 7 → nDetail d = 0 → c.tgenLater (nTgen d) = true →
          exec (.trellisNotice p cell) s = .next { s with chip := (((runOf (nSubject d) (rd d 16 2 % 1024)).foldl (fun (x : Chip) q =>
            if x.on (BRD_TRELLIS_LOCAL q) ∨ x.on (BRD_TRELLIS_SELF q) then x else x.setPos q (nState d)) (c.setTgen (nTgen d))).reviewService p).reviewSplits })
      ∧ (k = 7 → (nDetail d = 1 ∨ nDetail d = 2) → c.tgenLater (nTgen d) = true →
          exec (.trellisNotice p cell) s = .next { s with chip := (((c.setTgen (nTgen d)).trellisAct (nDetail d) (nSubject d) (rd d 16 2 % 1024) 0).reviewService p).reviewSplits })
      ∧ (k = 7 → nDetail d = 3 → c.tgenLater (nTgen d) = true →
          exec (.trellisNotice p cell) s = .next { s with chip := (((c.setTgen (nTgen d)).trellisAct 3 (nSubject d) (rd d 16 2 % 1024) (rd d 28 16)).reviewService p).reviewSplits })
      ∧ (k = 7 → nDetail d = 4 → exec (.trellisNotice p cell) s = .next { s with chip := ((s.chip.trellisCopy d).reviewService p).reviewSplits }))

/-- Admission: QUERY, IDENT with its outcome by Table 4.4, the sponsor's wait and time-out, restore, hold-off, recovery. The first
QUERY gives a node that is not the A head its address, and one that names it is answered with IDENT. IDENT of the candidate is
decided only by a sponsor that queried it: Return, Replacement, an override or Enrolment admits, anything else refuses with its
detail. The wait of R616 makes this partner the sponsor unless the candidate is decided, no longer Admitting, SPONSOR_EN is 0 or
this node is no Member. No IDENT within ADMIT_TMO refuses with detail 2. At its restore instant a port is restored. The
hold-off's end lets a Parked port of a refused partner leave its park and permits training where the clock lane is present, and
RECOVERY_HOLD ends recovery and, under Porter firmware, strict mode. Rests on R17, R128, R129, R130, R131, R132, R124, R125,
R389, R127. -/
def Obligations.AdmissionDecided : Prop :=
  ∀ (p : TPort) (cell : Cell) (s : State) (b : List Byte), b = cell.data →
    (isNotice cell 0x10 = false → exec (.query p cell) s = .next s)
    ∧ (isNotice cell 0x10 = true → ∀ (c : Chip) (m : Notice), c = (if s.chip.get BRD_STAT_ROLE ≠ 1 ∧ s.chip.braid.fromQuery = false then
          { s.chip with braid := { s.chip.braid with fromQuery := true } }.setAddress cell.dest else s.chip) →
      m = ⟨0x11, c.get BRD_STAT_POS, p.num, 0, 0, posAdmitting, none, c.uidBytes, c.get GLB_LIKENESS_CLASS, recordDigest (c.record (c.get BRD_STAT_POS)), 0⟩ →
      exec (.query p cell) s = .next { s with chip := if c.get BRD_STAT_POS_VALID = 0 ∨ cell.dest ≠ c.node then c else c.sendAdmission p (c.noticeCell (nReporter b) m) })
    ∧ (∀ q, s.chip.partnerPos p = some q →
      ((isNotice cell 0x11 = false ∨ s.chip.braid.sponsor.get p ≠ .queried ∨ nSubject b ≠ q ∨ s.chip.braid.decided.get p = true) → exec (.ident p cell) s = .next { s with chip := s.chip.reviewSplits })
      ∧ (isNotice cell 0x11 = true → s.chip.braid.sponsor.get p = .queried → nSubject b = q → s.chip.braid.decided.get p = false →
        ∀ uid lik o, uid = rd b 28 16 → lik = rd b 44 4 → o = s.chip.outcomeOf q uid lik →
          (∀ r, s.chip.record q = some r → rd r 28 4 = lik → o = if rd r 12 16 = uid then 0 else 1)
          ∧ (∀ r, s.chip.record q = some r → rd r 28 4 ≠ lik → o = if s.chip.on (BRD_TRELLIS_OVERRIDE q) ∧ mget 0 s.chip.braid.overrides q = uid + 1 then 2 else 4)
          ∧ (s.chip.record q = none → o = if s.chip.on (BRD_TRELLIS_OPENED q) ∧ (mget 0 s.chip.braid.enrolled q = 0 ∨ mget 0 s.chip.braid.enrolled q = uid + 1) then 3 else 5)
          ∧ exec (.ident p cell) s = .next { s with chip := (if o < 4 then s.chip.admitCandidate p q o uid (slice b 48 48) else s.chip.refuse p q (o - 4)).reviewSplits })
      ∧ (∀ n, s.chip.braid.sponsor.get p = .waiting n → exec (.sponsorWait p) s = .next { s with
          chip := if s.chip.braid.decided.get p ∨ s.chip.posState q ≠ posAdmitting ∨ s.chip.selfMember = false ∨ s.chip.get BRD_CTL_SPONSOR_EN = 0 then
            { s.chip with braid := { s.chip.braid with sponsor := s.chip.braid.sponsor.set p .idle } } else s.chip.becomeSponsor p q })
      ∧ (exec (.admitTmo p) s = .next { s with chip := if s.chip.braid.sponsor.get p = .queried ∧ s.chip.braid.decided.get p = false then s.chip.refuse p q 2 else s.chip }))
    ∧ (s.chip.partnerPos p = none → exec (.ident p cell) s = .next { s with chip := s.chip.reviewSplits } ∧ exec (.sponsorWait p) s = .next s ∧ exec (.admitTmo p) s = .next s)
    ∧ (s.chip.braid.restoreAt.get p = none → exec (.restore p) s = .next s)
    ∧ (∀ t, s.chip.braid.restoreAt.get p = some t → exec (.restore p) s = .next { s with chip := if t ≤ s.chip.ns then s.chip.restorePort p else s.chip })
    ∧ (bit (s.chip.get BRD_PORT_SVC_HOLDOFF_RUN) p.num = false → exec (.holdoff p) s = .next s)
    ∧ (bit (s.chip.get BRD_PORT_SVC_HOLDOFF_RUN) p.num = true → ∀ x c, x = s.chip.clrBitOf BRD_PORT_SVC_HOLDOFF_RUN p.num →
      c = (if x.refusedAt p ∧ x.laneState p = laneParked then x.setLane p { x.lane p with leave := true } else x) →
      exec (.holdoff p) s = .next { s with chip := if c.get (TRK_LOS_LOS_CK p.num) = 0 then { c with braid := { c.braid with permit := c.braid.permit.set p true } } else c })
    ∧ (bit (s.chip.get BRD_PORT_SVC_RECOVERY) p.num = true → s.chip.partnerIs p posMember = true → ∀ c, c = s.chip.clrBitOf BRD_PORT_SVC_RECOVERY p.num →
      exec (.recoveryHold p) s = .next { s with chip := if c.boot.porter then c.put (LNK_CTL_STRICT p.num) 0 else c })
    ∧ ((bit (s.chip.get BRD_PORT_SVC_RECOVERY) p.num = false ∨ s.chip.partnerIs p posMember = false) → exec (.recoveryHold p) s = .next s)

/-- Chain time: beacons fall due, a lost parent, LOAD and RESYNC, the origin's adjustments, and the latched read. A beacon falls due
only on a port that is Up. LOSS_TMO makes its port no candidate and reviews the parent. HOLDOVER_LIM in HOLDOVER, ACQUIRE or
FREE at a node that is not origin makes the state LOST with VALID 0, ALIGNED 0 and no phase term left, counts it and shutters
under the time's cause; elsewhere it changes nothing. LOAD is ignored while VALID is 1, and otherwise steps to CTM_SET, forward
at once and back by standing still. The end of the origin wait and RESYNC lead to a new choice of parent. A written phase joins
the pending slew and a written frequency is stored at the origin alone. A read of CTM_NOW_LO latches the rest of the same
instant. The blocks of a flit are received, and a passed beacon flit is taken with its arrival stamp. Rests on R143, R145, R149,
R150, R151, R154, R155, R158, R160. -/
def Obligations.ChainTimeChanges : Prop :=
  ∀ (p : TPort) (blks : List RxBlock) (stamp : BitVec 80) (value : Word) (s : State),
    exec (.beaconDue p) s = .next { s with
      chip := if s.chip.laneState p = laneUp then s.chip.setLink p { s.chip.link p with beaconDue := true, beaconAt := s.chip.beaconFrom p } else s.chip }
    ∧ (∀ x w c, x = s.chip.rxFlit p blks → x.2.receive p x.1 = (some w, c) → hdrKind w = 2 → exec (.beacon p blks stamp) s = .next { s with chip := c.takeBeacon p (slice w 4 112) stamp.toNat })
    ∧ (∀ x c, x = s.chip.rxFlit p blks → x.2.receive p x.1 = (none, c) → exec (.beacon p blks stamp) s = .next { s with chip := c })
    ∧ exec (.lossTmo p) s = .next { s with chip := Chip.reviewTime (s.chip.setChainPort p { s.chip.chainPort p with fresh := false }) }
    ∧ ((s.chip.on CTM_STAT_IS_ORIGIN = true ∨ s.chip.ctState = ctLocked ∨ s.chip.ctState = ctLost) → exec .holdoverLim s = .next s)
    ∧ (s.chip.on CTM_STAT_IS_ORIGIN = false → (s.chip.ctState = ctHoldover ∨ s.chip.ctState = ctAcquire ∨ s.chip.ctState = ctFree) →
      exec .holdoverLim s = .next { s with
        chip := s.chip.beaconOnChange (fun c => ((((((c.endPhase.put CTM_STAT_ALIGNED 0).put CTM_STAT_STATE ctLost).setValid false).inc CTM_LOST_CNT).evt CTM_EVT_LOST).shutter causeTime)) })
    ∧ exec .originWait s = .next { s with chip := (s.chip.setChain { s.chip.chain with waiting := false }).reviewTime }
    ∧ (s.chip.on CTM_STAT_VALID = true → exec .load s = .next s)
    ∧ (s.chip.on CTM_STAT_VALID = false → ∀ t : Nat,
      t = (s.chip.get CTM_SET_LO_NS + 2 ^ 32 * s.chip.get CTM_SET_HI_NS) * 2 ^ 32 + s.chip.get CTM_SET_FRAC_FRAC * 2 ^ 16 →
      exec .load s = .next { s with chip := s.chip.beaconOnChange (fun c => if (c.stepTo t).on CTM_STAT_IS_ORIGIN then (c.stepTo t).enterLocked else c.stepTo t) }
      ∧ (s.chip.chain.count ≤ t → s.chip.stepTo t = Chip.evt { s.chip with chain := { s.chip.chain with count := t, target := none } } CTM_EVT_STEP)
      ∧ (t < s.chip.chain.count → s.chip.stepTo t = Chip.evt { s.chip with chain := { s.chip.chain with target := some t } } CTM_EVT_STEP))
    ∧ (∃ t : Chip, exec .resync s = .next { s with chip := t } ∧ ∃ f : Chip → Chip, t = s.chip.beaconOnChange f
        ∧ ∃ c : Chip, f s.chip = c.reviewTime ∧ c.get CTM_STAT_STATE = ctAcquire ∧ c.get CTM_STAT_VALID = 0 ∧ c.get CTM_STAT_IS_ORIGIN = 0 ∧ c.get CTM_STAT_ALIGNED = 0
          ∧ c.chain.stepDue = true ∧ (c.chain.waiting = (s.chip.chain.waiting || s.chip.on CTM_STAT_IS_ORIGIN)) ∧ c.chain.count = s.chip.chain.count)
    ∧ (s.chip.on CTM_STAT_IS_ORIGIN = false → exec (.adjPhase value) s = .next s ∧ exec (.adjFreq value) s = .next s)
    ∧ (s.chip.on CTM_STAT_IS_ORIGIN = true →
      exec (.adjPhase value) s = .next { s with chip := { s.chip with chain := { s.chip.chain with slew := s.chip.chain.slew + value.toInt * 2 ^ 24 } } }
      ∧ exec (.adjFreq value) s = .next { s with chip := s.chip.put CTM_ADJ_FREQ_FREQ value.toNat })
    ∧ exec .ctmNowLo s = .next { s with
        chip := { s.chip with latches := mset 0 (mset 0 s.chip.latches CTM_NOW_HI_NS.addr (s.chip.ns / 2 ^ 32 + 1)) CTM_NOW_FRAC_FRAC.addr (s.chip.stamp % 65536 + 1) } }

/-- Ethernet: what becomes of a received frame and of the first frame of a served queue, and the link's two ends. With its domain on
and the link up, a frame shorter than 64 bytes or longer than MAXF changes nothing, one with a wrong FCS only counts in
ETH_RX_FCS, and a PAUSE frame is consumed. A management frame for the station is counted and, on ETH0, performed. On an analysis
port a frame for a ring is dropped. A frame that matches a pseudo-wire entry loses its tag and goes to that entry's ring with
VLAN 1; one accepted by its address goes to RXRING, or is dropped while RXRING_EN is 0; one of neither kind changes nothing. The
served queue's first frame is sent unless the link is down or paused. Link up needs the domain, EN and lock; link down counts a
frame partly received and the frames the flush loses. A stamp register read pops its FIFO, or shows VALID 0. Rests on R395,
R396, R397, R399, R400, R402, R403, R177. -/
def Obligations.EthernetFrames : Prop :=
  ∀ (p : Fin 2) (frame b : List Byte) (q : Fin 64) (part : Bool) (ecc : EccFind) (s : State),
    (s.chip.domainOn 11 = true → s.chip.get (ETH_CTL_EN p) ≠ 0 → s.chip.get (ETH_STAT_LINK p) = 0 →
      ∃ t : Chip, exec (.ethLinkUp p) s = .next { s with chip := t } ∧ t.get (ETH_STAT_LINK p) = 1 ∧ t.get (ETH_STAT_BLOCK_LOCK p) = 1
        ∧ t.get (ETH_STAT_FEC_LOCK p) = (if s.chip.get (ETH_CTL_FEC p) = 0 then 0 else 1))
    ∧ ((s.chip.domainOn 11 = false ∨ s.chip.get (ETH_CTL_EN p) = 0) → exec (.ethLinkUp p) s = .next s)
    ∧ (s.chip.get (ETH_STAT_LINK p) = 0 → exec (.ethLinkDown p part) s = .next s)
    ∧ (s.chip.get (ETH_STAT_LINK p) ≠ 0 → ∀ d c, d = (if part then s.chip.ethDrop p else s.chip) → c = (((d.put (ETH_STAT_LINK p) 0).put (ETH_STAT_BLOCK_LOCK p) 0).put (ETH_STAT_FEC_LOCK p) 0).put (ETH_STAT_PAUSED p) 0 →
      exec (.ethLinkDown p part) s = .next { s with chip := ((c.ethBad p (c.ethFrames p)).endDown (4 + p)).evt (ETH_EVT_LINK_DOWN p) })
    ∧ exec (.pauseTimerExpiry p) s = .next { s with chip := s.chip.put (ETH_STAT_PAUSED p) 0 }
    ∧ (b = frame.take (frame.length - 4) →
      (s.chip.domainOn 11 = false ∨ s.chip.get (ETH_STAT_LINK p) = 0 ∨ frame.length < 64 ∨ s.chip.get (ETH_CFG_MAXF p) < frame.length → exec (.ethFrameRx p frame) s = .next s)
      ∧ (s.chip.domainOn 11 = true → s.chip.get (ETH_STAT_LINK p) ≠ 0 → 64 ≤ frame.length → frame.length ≤ s.chip.get (ETH_CFG_MAXF p) →
        (rd frame (frame.length - 4) 4 ≠ crc32e b → exec (.ethFrameRx p frame) s = .next { s with chip := s.chip.inc (ETH_RX_FCS p) })
        ∧ (rd frame (frame.length - 4) 4 = crc32e b →
          (s.chip.isPause p b = true → exec (.ethFrameRx p frame) s = .next { s with chip := s.chip.takePause p b })
          ∧ (s.chip.isPause p b = false → ∀ c stamped, (stamped, c) = s.chip.stampRx p b →
            (s.chip.isMgmt p b = true → s.chip.ethMatch p b = true → exec (.ethFrameRx p frame) s = .next { s with
              chip := if p.val = 0 then (c.inc (ETH_RX_OK p)).frameIn (.eth0 (BitVec.ofNat 48 (rd b 6 6))) (mgmtOf b) else c.inc (ETH_RX_OK p) })
            ∧ (s.chip.isMgmt p b = false → s.chip.pwOf p b = none → s.chip.ethMatch p b = false → exec (.ethFrameRx p frame) s = .next s)
            ∧ (s.chip.isMgmt p b = false → (s.chip.pwOf p b).isSome = true ∨ s.chip.ethMatch p b = true → p.val = 1 → c.on SWX_MIR_CTL_EN = true →
              exec (.ethFrameRx p frame) s = .next { s with chip := c.ethDrop p })
            ∧ (∀ e, s.chip.isMgmt p b = false → s.chip.pwOf p b = some e → (p.val = 0 ∨ c.on SWX_MIR_CTL_EN = false) →
              exec (.ethFrameRx p frame) s = .next { s with chip := c.ethToRing p (c.get (ETH_PW_RING e)) (b.take 12 ++ b.drop 16) e stamped true })
            ∧ (s.chip.isMgmt p b = false → s.chip.pwOf p b = none → s.chip.ethMatch p b = true → (p.val = 0 ∨ c.on SWX_MIR_CTL_EN = false) →
              exec (.ethFrameRx p frame) s = .next { s with chip := if c.on (ETH_CFG_RXRING_EN p) then c.ethToRing p (c.get (ETH_CFG_RXRING p)) b 0 stamped false else c.ethDrop p })))))
    ∧ ((s.chip.domainOn 11 = false ∨ s.chip.get (ETH_STAT_LINK p) = 0 ∨ s.chip.on (ETH_STAT_PAUSED p) = true) → exec (.ethFrameTx p q ecc) s = .next s)
    ∧ (s.chip.domainOn 11 = true → s.chip.get (ETH_STAT_LINK p) ≠ 0 → s.chip.on (ETH_STAT_PAUSED p) = false → ∀ c f,
      s.chip.select (4 + p.val) (fun q => s.chip.frameReady p.val q) (fun q => s.chip.queueCost p.val q) = (some q.val, c) → s.chip.firstFrame (s.chip.queue (4 + p.val) q) = some f →
      exec (.ethFrameTx p q ecc) s = .next { s with chip := c.sendFrame p q f ecc })
    ∧ (s.chip.domainOn 11 = true →
      (∀ ty seq t r, (s.chip.ethPort p).rxStamps = (ty, seq, t) :: r → ∃ c : Chip, exec (.tsrxInf p false) s = .next { s with chip := c } ∧ (c.ethPort p).rxStamps = r
        ∧ c.get (ETH_TSRX_INF_VALID p) = 1 ∧ c.get (ETH_TSRX_INF_MSGTYPE p) = ty % 16 ∧ c.get (ETH_TSRX_INF_SEQID p) = seq % 2 ^ 16)
      ∧ ((s.chip.ethPort p).rxStamps = [] → ∃ c : Chip, exec (.tsrxInf p false) s = .next { s with chip := c } ∧ c.get (ETH_TSRX_INF_VALID p) = 0 ∧ c.ends = s.chip.ends)
      ∧ exec (.tsrxInf p true) s = .next { s with chip := s.chip.popTx p })

/-- The storage port: the link, configuration and inbound requests, SBUF cells, and block tags. PERST_REL releases PERST_N once. The
link comes up only with EN and PERST_REL, at a rate and width within the targets; a link-down fails the bus's open accesses with
code 3 and keeps P6 and SBUF, while clearing EN also takes P6 down and clears SBUF. A completion timeout counts and ends its
access with code 3. An inbound write inside SBUF changes exactly its bytes, one of 0 to 15 at base + 2^20 is an MSI-X message
for an enabled ring, anything else counts in PCI_UR_CNT, and a read is answered as unsupported. SBUF_WR stores VLEN bytes at its
offset, SBUF_RD returns its bytes in cells of 104, and an access beyond SBUF does neither and raises SBUF_ERR. BT_ALLOC takes
the tag it shows, or shows NONE; BT_FREE frees a held tag and counts one not held as late. Configuration reads of the drive
answer its word, writes go out, and the rest is free or not sent. Rests on R404, R405, R406, R407, R408, R410, R260. -/
def Obligations.StoragePort : Prop :=
  ∀ (gen : Fin 4) (width : Fin 3) (tag : Fin 2048) (ring : Fin 64) (cell : Cell) (addr : BitVec 64) (len : BitVec 13) (bytes : List Byte) (value : Word) (ecc : EccFind) (s : State),
    (s.chip.domainOn 12 = true → s.chip.on PCI_CTL_PERST_REL = false → exec .perstRel s = .next { s with chip := (s.chip.put PCI_CTL_PERST_REL 1).emit (.pin "PERST_N" 0 1) })
    ∧ ((s.chip.domainOn 12 = false ∨ s.chip.on PCI_CTL_PERST_REL = true) → exec .perstRel s = .next s)
    ∧ (s.chip.domainOn 12 = true → s.chip.get PCI_CTL_EN ≠ 0 → s.chip.get PCI_CTL_PERST_REL ≠ 0 → s.chip.on PCI_STAT_LINK = false →
      gen.val ≤ s.chip.get PCI_CTL_TGT_GEN → s.chip.get PCI_CTL_TGT_WIDTH ≤ width.val →
      exec (.pciLinkUp gen width) s = .next { s with chip := (((s.chip.put PCI_STAT_LINK 1).put PCI_STAT_GEN gen).put PCI_STAT_WIDTH width).evt PCI_EVT_LINK_UP })
    ∧ ((s.chip.domainOn 12 = false ∨ s.chip.get PCI_CTL_EN = 0 ∨ s.chip.get PCI_CTL_PERST_REL = 0 ∨ s.chip.on PCI_STAT_LINK = true
      ∨ s.chip.get PCI_CTL_TGT_GEN < gen.val ∨ width.val < s.chip.get PCI_CTL_TGT_WIDTH) → exec (.pciLinkUp gen width) s = .next s)
    ∧ (s.chip.on PCI_STAT_LINK = true → exec .pciLinkDown s = .next (State.failBus { s with chip := (s.chip.put PCI_STAT_LINK 0).evt PCI_EVT_LINK_DOWN } 0 3))
    ∧ (s.chip.on PCI_STAT_LINK = false → exec .pciLinkDown s = .next s)
    ∧ (s.chip.get PCI_CTL_EN = 0 → exec .pciDisable s = .next s)
    ∧ (s.chip.get PCI_CTL_EN ≠ 0 → ∀ d, d = State.pciDown { s with chip := s.chip.put PCI_CTL_EN 0 } →
      exec .pciDisable s = .next { d with chip := d.chip.endDown 6, mem := Memory.clear d.mem sbufBase (sbufBase + 2 ^ 20) })
    ∧ (s.chip.busOfTag tag ≠ some 0 → exec (.pciCplTmo tag) s = .next s)
    ∧ (∀ x, s.chip.busOfTag tag = some 0 → s.chip.tagAt tag = some x →
      exec (.pciCplTmo tag) s = .next (State.endAccess { s with chip := ((s.chip.endTransfer 0).inc PCI_CPL_TMO_CNT).evt PCI_EVT_CPL_TMO } tag x 3 0))
    ∧ (∀ base : Nat, base = (s.chip.get PCI_SBUF_BASE_LO_BASE + 2 ^ 32 * s.chip.get PCI_SBUF_BASE_HI_BASE) / 2 ^ 21 * 2 ^ 21 →
      ((s.chip.domainOn 12 = false ∨ s.chip.get PCI_STAT_LINK = 0) → ∀ w, exec (.inboundRequest addr len w) s = .next s)
      ∧ (s.chip.domainOn 12 = true → s.chip.get PCI_STAT_LINK ≠ 0 →
        (base ≤ addr.toNat → addr.toNat + bytes.length ≤ base + 2 ^ 20 →
          (∃ t, exec (.inboundRequest addr len (some bytes)) s = .next t ∧ t.chip = s.chip ∧ ∀ a, Memory.byte t.mem a =
            if sbufBase + (addr.toNat - base) ≤ a ∧ a < sbufBase + (addr.toNat - base) + bytes.length then bytes.getD (a - (sbufBase + (addr.toNat - base))) 0 else Memory.byte s.mem a))
        ∧ (base ≤ addr.toNat → addr.toNat + len.toNat ≤ base + 2 ^ 20 →
          exec (.inboundRequest addr len none) s = .next { s with chip := s.chip.emit (.bytes "PCI_CPL" 0 (Memory.bytes s.mem (sbufBase + (addr.toNat - base)) len.toNat)) })
        ∧ (addr.toNat < base ∨ base + 2 ^ 20 < addr.toNat + len.toNat → exec (.inboundRequest addr len none) s = .next { s with chip := ((s.chip.inc PCI_UR_CNT).evt PCI_EVT_UR_INBOUND).emit (.bytes "PCI_UR" 0 []) })
        ∧ (addr.toNat = base + 2 ^ 20 → bytes ≠ [] → leNat bytes < 16 → exec (.inboundRequest addr len (some bytes)) s = .next { s with
            chip := if s.chip.on (PCI_MSIX_RING_EN (leNat bytes)) then
              s.chip.endToRing 6 (s.chip.get (PCI_MSIX_RING_RING (leNat bytes))) ⟨sbufHdr 0 (leNat bytes) 0 5, padTo [] 104⟩ else s.chip })
        ∧ (addr.toNat < base ∨ base + 2 ^ 20 < addr.toNat + bytes.length → addr.toNat ≠ base + 2 ^ 20 ∨ 16 ≤ leNat bytes →
          exec (.inboundRequest addr len (some bytes)) s = .next { s with chip := (s.chip.inc PCI_UR_CNT).evt PCI_EVT_UR_INBOUND })))
    ∧ (∀ r c off n, p6Up s.chip = true → (r, c) = s.chip.takeGiven 6 cell ecc → off = sbufOff cell → n = cell.field 26 16 →
      (sbufOp cell ≠ 2 → (r = false ∨ sbufOp cell ≠ 1 ∨ cell.vlen = 0 ∨ 104 < cell.vlen) → exec (.sbufWr ring cell ecc) s = .next { s with chip := c })
      ∧ (r = true → sbufOp cell = 1 → 1 ≤ cell.vlen → cell.vlen ≤ 104 → off + cell.vlen ≤ 2 ^ 20 → exec (.sbufWr ring cell ecc) s = .next { s with
          chip := if cell.field 62 1 = 1 then c.endToRing 6 ring ⟨sbufHdr off 0 0 4, padTo [] 104⟩ else c
          mem := Memory.setBytes s.mem (sbufBase + off) (slice cell.data 0 cell.vlen) })
      ∧ (r = true → sbufOp cell = 1 → 1 ≤ cell.vlen → cell.vlen ≤ 104 → 2 ^ 20 < off + cell.vlen → exec (.sbufWr ring cell ecc) s = .next { s with chip := c.evt PCI_EVT_SBUF_ERR })
      ∧ (sbufOp cell = 2 → (r = false ∨ n = 0) → exec (.sbufRd ring cell ecc) s = .next { s with chip := c })
      ∧ (r = true → sbufOp cell = 2 → n ≠ 0 → 2 ^ 20 < off + n → exec (.sbufRd ring cell ecc) s = .next { s with chip := c.evt PCI_EVT_SBUF_ERR })
      ∧ (r = true → sbufOp cell = 2 → 0 < n → n ≤ 104 → off + n ≤ 2 ^ 20 →
        exec (.sbufRd ring cell ecc) s = .next { s with chip := c.endToRing 6 ring ⟨sbufHdr off 0 n 3, padTo (Memory.bytes s.mem (sbufBase + off) n) 104⟩ })
      ∧ (r = true → sbufOp cell = 2 → 0 < n → off + n ≤ 2 ^ 20 → exec (.sbufRd ring cell ecc) s = .next { s with
          chip := (List.range ((n + 103) / 104)).foldl (fun (x : Chip) i =>
            x.endToRing 6 ring ⟨sbufHdr (off + 104 * i) 0 (min 104 (n - 104 * i)) 3, padTo (Memory.bytes s.mem (sbufBase + (off + 104 * i)) (min 104 (n - 104 * i))) 104⟩) c }))
    ∧ ((p6Up s.chip = false ∨ sbufOp cell = 2) → exec (.sbufWr ring cell ecc) s = .next s)
    ∧ ((p6Up s.chip = false ∨ sbufOp cell ≠ 2) → exec (.sbufRd ring cell ecc) s = .next s)
    ∧ (s.chip.domainOn 12 = true →
      (s.chip.blockTag = none → exec .btAlloc s = .next { s with chip := (s.chip.put PCI_BT_ALLOC_TAG 0).put PCI_BT_ALLOC_NONE 1 })
      ∧ (∀ t, s.chip.blockTag = some t → ∃ c : Chip, exec .btAlloc s = .next { s with chip := c } ∧ c.get PCI_BT_ALLOC_TAG = t % 2 ^ 11 ∧ c.get PCI_BT_ALLOC_NONE = 0
          ∧ c.ends.blockTags = mset false s.chip.ends.blockTags t true)
      ∧ (mget false s.chip.ends.blockTags tag = true → exec (.btFree tag) s = .next { s with chip := { s.chip with ends := { s.chip.ends with blockTags := mset false s.chip.ends.blockTags tag false } } })
      ∧ (mget false s.chip.ends.blockTags tag = false → ∃ w, exec (.btFree tag) s = .next { s with
          chip := Chip.logEntry { s.chip.inc BCH_TAG_LATE with free := s.chip.free + 1 } 0x0A 0x40 0 tag w })
      ∧ (s.chip.on PCI_STAT_LINK = true → s.chip.get PCI_CFG_ADDR_SELF = 0 →
        exec (.pciCfgData none value) s = .next { s with chip := s.chip.put PCI_CFG_DATA_DATA value.toNat }
        ∧ ∀ v : Word, exec (.pciCfgData (some v) value) s = .next { s with chip := s.chip.emit (.bytes "PCI_CFG" (s.chip.get PCI_CFG_ADDR_REG) (leBytes v.toNat 4)) })
      ∧ ((s.chip.on PCI_STAT_LINK = false ∨ s.chip.get PCI_CFG_ADDR_SELF ≠ 0) →
        (∃ w, exec (.pciCfgData none value) s = .next { s with chip := { s.chip with free := s.chip.free + 1 }.put PCI_CFG_DATA_DATA w })
        ∧ ∀ v : Word, exec (.pciCfgData (some v) value) s = .next s))

/-- USB host: ports connect, reset, suspend and go; pipes take their configuration and cells; a micro-frame runs the pipes. While
the host runs, connect and disconnect change CONNECTED with their events, a disconnect or a reset ends the port's transfers with
EN 0, and the reset's end records SPEED and enables the port of a device still there. SUSPEND written 0 on a suspended port
drives resume until its end. Clearing EN halts every pipe with a transfer, empties them and takes P8 down. A pipe's ring, period
and phase change only while it is disabled, and an enabled pipe's fields other than TOGGLE and HALTED stay. CANCEL ends the
pipe's transfer; a cell of any other kind joins the pipe, or is dropped with the rest of a transfer that has ended. Each
micro-frame counts; with the host off nothing of all this happens. Rests on R415, R416, R417, R419, R420, R421, R422. -/
def Obligations.UsbHost : Prop :=
  ∀ (k : Fin 4) (speed : Fin 4) (v : Bool) (pipe : Fin 32) (value : Word) (ring : Fin 64) (cell : Cell) (ecc : EccFind) (txns : List UsbTxn) (s : State) (k1 : Nat), k1 = k.val + 1 →
    (hostRuns s.chip = false → exec (.usbPortReset k) s = .next s ∧ exec (.usbConnect k) s = .next s ∧ exec (.usbDisconnect k) s = .next s ∧ exec (.portResume k) s = .next s
      ∧ exec (.setup ring cell ecc) s = .next s ∧ exec (.out ring cell ecc) s = .next s ∧ exec (.inReq ring cell ecc) s = .next s ∧ exec (.cancel ring cell ecc) s = .next s ∧ exec (.microFrame txns) s = .next s)
    ∧ (hostRuns s.chip = true →
      exec (.usbPortReset k) s = .next { s with chip := ({ s.chip with ends := { s.chip.ends with usbReset := setBit s.chip.ends.usbReset k } } : Chip).usbPortDown k1 |>.emit (.pin "USB_RESET" k1 1) }
      ∧ (s.chip.on (USB_PORT_CONNECTED k1) = false → exec (.usbConnect k) s = .next { s with chip := (s.chip.put (USB_PORT_CONNECTED k1) 1).evt USB_EVT_CONNECT })
      ∧ (s.chip.on (USB_PORT_CONNECTED k1) = true → exec (.usbConnect k) s = .next s)
      ∧ (s.chip.get (USB_PORT_CONNECTED k1) ≠ 0 → exec (.usbDisconnect k) s = .next { s with chip := ((s.chip.put (USB_PORT_CONNECTED k1) 0).usbPortDown k1).evt USB_EVT_DISCONNECT })
      ∧ (s.chip.get (USB_PORT_CONNECTED k1) = 0 → exec (.usbDisconnect k) s = .next s)
      ∧ exec (.portResume k) s = .next { s with chip := if s.chip.on (USB_PORT_SUSPEND k1) then s.chip.evt USB_EVT_PORT_RESUME else s.chip }
      ∧ (∀ r c n x, (r, c) = s.chip.takeGiven 8 cell ecc → n = usbPipeNo cell → x = c.pipe n →
        ∀ i, ((i = .setup ring cell ecc ∧ usbOp cell ≠ opOut ∧ usbOp cell ≠ opInReq ∧ usbOp cell ≠ opCancel) ∨ (i = .out ring cell ecc ∧ usbOp cell = opOut)
            ∨ (i = .inReq ring cell ecc ∧ usbOp cell = opInReq) ∨ (i = .cancel ring cell ecc ∧ usbOp cell = opCancel)) →
          (r = false → exec i s = .next { s with chip := c })
          ∧ (r = true → usbOp cell = opCancel → exec i s = .next { s with chip := (c.endTransferOf n doneCancelled).settleNow n })
          ∧ (r = true → x.skip = true → usbOp cell = opOut → exec i s = .next { s with chip := c.setPipe n { x with skip := !cell.eom } })
          ∧ (r = true → usbOp cell ≠ opCancel → (x.skip = false ∨ usbOp cell ≠ opOut) →
            exec i s = .next { s with chip := (c.setPipe n { x with queue := x.queue ++ [cell], skip := false }).settleNow n }))
      ∧ (∀ m c, m = (s.chip.get USB_UFRAME_CNT + 1) % 2 ^ 32 → c = ((s.chip.put USB_UFRAME_CNT m).put USB_FRAME_UFRAME m).put USB_FRAME_FRAME (m / 8) →
        ∀ (f : Chip → UsbTxn → Chip) (g : Chip → Nat → Chip),
        f = (fun x t => if x.nextPipe = some t.pipe.val then (Chip.transact { x with ends := { x.ends with usbLast := t.pipe.val } } t.pipe t.reply).settleNow t.pipe else x) →
        g = (fun x k => match txns.find? (fun t => decide (t.pipe.val = k)) with
            | some t => if x.isInterrupt k ∧ x.pipeActive k ∧ (x.periodic k).due m then (x.transact k t.reply).settleNow k else x
            | none => x) →
        exec (.microFrame txns) s = .next { s with chip := txns.foldl f ((List.range 32).foldl g c.sendSof) })
      ∧ (txns = [] → ∃ t : Chip, exec (.microFrame txns) s = .next { s with chip := t } ∧ t.get USB_UFRAME_CNT = (s.chip.get USB_UFRAME_CNT + 1) % 2 ^ 32
          ∧ t.ends.pipes = s.chip.ends.pipes ∧ ∀ h, t.hand h = s.chip.hand h))
    ∧ (s.chip.domainOn 13 = true → bit s.chip.ends.usbReset k = true → ∀ c : Chip, c = Chip.emit { s.chip with ends := { s.chip.ends with usbReset := clrBit s.chip.ends.usbReset k } } (.pin "USB_RESET" k1 0) →
      exec (.usbPortResetEnd k speed) s = .next { s with
        chip := if c.on (USB_PORT_CONNECTED k1) ∧ speed.val ≠ 0 then (c.put (USB_PORT_SPEED k1) speed).put (USB_PORT_EN k1) 1 else c })
    ∧ ((s.chip.domainOn 13 = false ∨ bit s.chip.ends.usbReset k = false) → exec (.usbPortResetEnd k speed) s = .next s)
    ∧ (s.chip.domainOn 13 = true → ∀ c, c = s.chip.put (USB_PORT_SUSPEND k1) (b2n v) →
      exec (.usbPortSuspend k v) s = .next { s with
        chip := if s.chip.on (USB_PORT_SUSPEND k1) ∧ v = false then { c with ends := { c.ends with usbResume := setBit c.ends.usbResume k } } else c })
    ∧ exec (.portResumeEnd k) s = .next { s with chip := { s.chip with ends := { s.chip.ends with usbResume := clrBit s.chip.ends.usbResume k } } }
    ∧ (s.chip.get USB_HOST_CTL_EN = 0 → exec .usbHostDisable s = .next s)
    ∧ (s.chip.get USB_HOST_CTL_EN ≠ 0 → ∀ c : Chip, c = s.chip.ends.pipes.foldl (fun (x : Chip) e => if e.2.queue.isEmpty then x else x.put (USB_PIPE_A_HALTED e.1) 1) (s.chip.put USB_HOST_CTL_EN 0) →
      exec .usbHostDisable s = .next { s with chip := Chip.endDown { c with ends := { c.ends with pipes := [] } } 8 })
    ∧ (s.chip.get USB_HOST_CTL_EN ≠ 0 → s.chip.ends.pipes = [] → exec .usbHostDisable s = .next { s with
        chip := Chip.endDown (let c := s.chip.put USB_HOST_CTL_EN 0; { c with ends := { c.ends with pipes := [] } }) 8 })
    ∧ (s.chip.domainOn 13 = true →
      (s.chip.on (USB_PIPE_A_EN pipe) = true → exec (.usbPipeConfig pipe true value) s = .next s)
      ∧ (s.chip.on (USB_PIPE_A_EN pipe) = false → exec (.usbPipeConfig pipe true value) s = .next { s with
          chip := ((s.chip.put (USB_PIPE_B_RING pipe) (bits value.toNat 0 6)).put (USB_PIPE_B_PERIOD_EXP pipe) (bits value.toNat 8 4)).put (USB_PIPE_B_PHASE pipe) (bits value.toNat 16 15) })
      ∧ exec (.usbPipeConfig pipe false value) s = .next { s with chip := s.chip.pipeA pipe value.toNat })

/-- USB device function: tokens to an endpoint, SETUP, bus reset, suspend and remote wake, and the carve. A token or a SETUP is bus
activity, which ends suspend. A token to a disconnected device or a disabled endpoint does nothing; a halted endpoint stalls; a
ready OUT endpoint stores the packet at its carve and clears READY, and a ready IN endpoint sends LEN bytes and, once
acknowledged, flips its toggle and clears READY; one not ready answers NAK, or stays silent twice first where SILENT_EN is 1.
SETUP stores its 8 bytes at OUT endpoint 0 and clears both HALTs. A bus reset gives address 0 and the state Default. Suspend and
resume change SUSPENDED while connected; WAKE needs suspend and RWAKE_EN, then K is driven and released, and a resume ends the
wake. A carve of an enabled endpoint, beyond 512 units, below MPS or over another enabled one raises CARVE_ERR and changes no
carve. Rests on R424, R425, R426, R427, R428, R429, R431, R432. -/
def Obligations.UsbDeviceFunction : Prop :=
  ∀ (isIn acked hs : Bool) (e : Fin 16) (data : List Byte) (packet : BitVec 64) (value : Word) (s : State) (d : Nat) (u : State), d = b2n isIn → u = { s with chip := usbResume s.chip } →
    ((devUp u.chip = false ∨ u.chip.get USB_DEV_STAT_STATE = 0 ∨ u.chip.get (USB_DEP_EN d e) = 0) → exec (.usbToken isIn e data acked) s = .next u)
    ∧ (devUp u.chip = true → u.chip.get USB_DEV_STAT_STATE ≠ 0 →
      (u.chip.get (USB_DEP_EN d e) ≠ 0 →
        (u.chip.on (USB_DEP_HALT d e) = true → exec (.usbToken isIn e data acked) s = .next { u with chip := (u.chip.put (USB_DEP_SILENT d e) 0).emit (.pin "USB_DEV" e 2) })
        ∧ (u.chip.on (USB_DEP_HALT d e) = false → u.chip.on (USB_DEP_READY d e) = true →
          (isIn = false → data.length ≤ (u.chip.put (USB_DEP_SILENT d e) 0).get (USB_DEP_MPS 0 e) → ∃ t, exec (.usbToken isIn e data acked) s = .next t ∧ t.chip.get (USB_DEP_READY 0 e) = 0
            ∧ t.chip.get (USB_DEP_LEN 0 e) = data.length % 2 ^ (USB_DEP_LEN 0 e).width ∧ t.mem = Memory.setBytes u.mem (u.chip.epAt 0 e) data)
          ∧ (isIn = true → ∀ c b, c = u.chip.put (USB_DEP_SILENT 1 e) 0 → b = c.emit (.bytes "USB_DEV" e (Memory.bytes u.mem (c.epAt 1 e) (c.get (USB_DEP_LEN 1 e)))) →
            (acked = false → exec (.usbToken isIn e data acked) s = .next { u with chip := b })
            ∧ (acked = true → e.val ≠ 0 → exec (.usbToken isIn e data acked) s = .next { u with
                chip := (b.put (USB_DEP_TOGGLE 1 e) (1 - b.get (USB_DEP_TOGGLE 1 e))).put (USB_DEP_READY 1 e) 0 })))
        ∧ (u.chip.on (USB_DEP_HALT d e) = false → u.chip.on (USB_DEP_READY d e) = false →
          (u.chip.on USB_DEV_CTL_SILENT_EN = true → u.chip.get (USB_DEP_SILENT d e) < 2 →
            exec (.usbToken isIn e data acked) s = .next { u with chip := (u.chip.put (USB_DEP_SILENT d e) (u.chip.get (USB_DEP_SILENT d e) + 1)).inc USB_DEV_SILENT })
          ∧ ((u.chip.on USB_DEV_CTL_SILENT_EN = false ∨ 2 ≤ u.chip.get (USB_DEP_SILENT d e)) →
            exec (.usbToken isIn e data acked) s = .next { u with chip := (u.chip.put (USB_DEP_SILENT d e) 0).emit (.pin "USB_DEV" e 1) })))
      ∧ (∃ t, exec (.setupRx packet) s = .next t ∧ t.mem = Memory.setBytes u.mem (u.chip.epAt 0 0) (leBytes packet.toNat 8) ∧ t.chip.get (USB_DEP_HALT 0 0) = 0 ∧ t.chip.get (USB_DEP_HALT 1 0) = 0))
    ∧ ((devUp u.chip = false ∨ u.chip.get USB_DEV_STAT_STATE = 0) → exec (.setupRx packet) s = .next u)
    ∧ (devUp s.chip = false → exec (.busReset hs) s = .next s ∧ exec .usbSuspend s = .next s ∧ exec .usbResume s = .next s ∧ exec .wake s = .next s)
    ∧ (devUp s.chip = true →
      (∃ t : Chip, exec (.busReset hs) s = .next { s with chip := t } ∧ t.get USB_DEV_STAT_ADDR = 0 ∧ t.get USB_DEV_CTL_CONFIGURED = 0 ∧ t.get USB_DEV_STAT_STATE = 1 ∧ t.get USB_DEV_STAT_HS = b2n hs)
      ∧ (s.chip.on USB_DEV_STAT_SUSPENDED = false → exec .usbSuspend s = .next { s with chip := (s.chip.put USB_DEV_STAT_SUSPENDED 1).evt USB_EVT_SUSPEND })
      ∧ (s.chip.get USB_DEV_STAT_SUSPENDED = 0 → exec .usbResume s = .next s)
      ∧ (s.chip.get USB_DEV_STAT_SUSPENDED ≠ 0 → s.chip.ends.usbWake = 0 → exec .usbResume s = .next { s with chip := s.chip.usbAwake })
      ∧ (s.chip.get USB_DEV_STAT_SUSPENDED ≠ 0 → s.chip.ends.usbWake ≠ 0 → ∀ c, c = (s.chip.usbAwake.setWake 0).evt USB_EVT_WAKE_DONE →
        exec .usbResume s = .next { s with chip := if s.chip.ends.usbWake = 2 then c.emit (.pin "USB_K" 0 0) else c })
      ∧ (s.chip.on USB_DEV_STAT_SUSPENDED = true → exec .usbSuspend s = .next s)
      ∧ (s.chip.on USB_DEV_STAT_SUSPENDED = true → s.chip.on USB_DEV_CTL_RWAKE_EN = true → s.chip.ends.usbWake = 0 → exec .wake s = .next { s with chip := s.chip.setWake 1 }))
    ∧ exec .wakeKStart s = .next { s with chip := if s.chip.ends.usbWake = 1 then (s.chip.setWake 2).emit (.pin "USB_K" 0 1) else s.chip }
    ∧ exec .wakeKEnd s = .next { s with chip := if s.chip.ends.usbWake = 2 then (s.chip.setWake 3).emit (.pin "USB_K" 0 0) else s.chip }
    ∧ (s.chip.domainOn 13 = true → ∀ base units, base = bits value.toNat 0 9 → units = bits value.toNat 16 5 → units ≤ 16 →
      (s.chip.on (USB_DEP_EN d e) = true ∨ 512 < base + units ∨ units * 64 < s.chip.get (USB_DEP_MPS d e) → exec (.usbCarve isIn e value) s = .next { s with chip := s.chip.evt USB_EVT_CARVE_ERR })
      ∧ (s.chip.on (USB_DEP_EN d e) = false → base + units ≤ 512 → s.chip.get (USB_DEP_MPS d e) ≤ units * 64 →
          (∀ i, i < 32 → s.chip.on (USB_DEP_EN (i / 16) (i % 16)) = true → (i / 16, i % 16) ≠ (d, e.val) →
            s.chip.get (USB_CARVE_BASE (i / 16) (i % 16)) + s.chip.get (USB_CARVE_UNITS (i / 16) (i % 16)) ≤ base ∨ base + units ≤ s.chip.get (USB_CARVE_BASE (i / 16) (i % 16))) →
          exec (.usbCarve isIn e value) s = .next { s with chip := (s.chip.put (USB_CARVE_BASE d e) base).put (USB_CARVE_UNITS d e) units }))

/-- Display: training, HPD, timing and shadow writes, commits, blanks, self-refresh, cells and AUX, with the domain on. With
PD-FRAME on: training takes the first combination tried that carries the pixels and passes, else TRAIN_FAIL. HPD follows plug
and unplug, an unplug losing the link. Timing registers are refused with CFG_ERR while EN is 1, and shadow registers while a
commit pends. A commit is ignored while one pends, and with CFG_ERR beyond the store; while EN is 0 it takes effect at once. At
vertical blank scanout's finds are counted, a capture ends and a pending commit that is not late takes effect.  A display cell
that is bad counts and stores nothing; a WRITE stores exactly VLEN bytes at its address; SYNC returns the cell. AUX starts one
transaction at a time and its end stores the reply. With the domain off none of this happens. Rests on R435, R436, R437, R441,
R442, R443, R444, R445, R446, R447, R448, R449. -/
def Obligations.DisplayHeads : Prop :=
  ∀ (h reply : Nat) (h2 : Fin 2) (passes : List (Fin 3 × Fin 3)) (reg : Fin 6) (sreg : Fin 3) (value : Word) (ring : Fin 64) (cell : Cell) (ecc : EccFind) (found : List ScrubFind) (rep : Fin 4) (data : List Byte) (s : State),
    h = h2.val → reply = rep.val →
    (s.chip.domainOn 10 = false → exec (.dspTrain h2 passes) s = .next s ∧ exec (.hpdPlug h2) s = .next s ∧ exec (.hpdUnplug h2) s = .next s ∧ exec (.hpdIrq h2) s = .next s
      ∧ exec (.dspTiming h2 reg value) s = .next s ∧ exec (.dspShadow h2 sreg value) s = .next s ∧ exec (.go h2) s = .next s ∧ exec (.verticalBlank h2 found) s = .next s ∧ exec (.underrun h2) s = .next s
      ∧ exec (.psrEntry h2) s = .next s ∧ exec (.psrExit h2) s = .next s ∧ exec (.dspWrite ring cell ecc) s = .next s ∧ exec (.dspCommit ring cell ecc) s = .next s ∧ exec (.dspSync ring cell ecc) s = .next s
      ∧ exec (.auxGo h2) s = .next s ∧ exec (.auxDone h2 rep data) s = .next s)
    ∧ (s.chip.domainOn 10 = true →
      (∀ t, (combos (s.chip.get (DSP_HCTL_RATE h)) (s.chip.get (DSP_HCTL_LANES h))).find? (fun c => s.chip.carries h c.1 c.2 && (passes.map (fun p => (p.1.val, p.2.val))).contains c) = t →
        exec (.dspTrain h2 passes) s = .next { s with
          chip := match t with
            | some c => ((s.chip.put (DSP_HSTAT_LINK h) 1).put (DSP_HSTAT_RATE h) c.1).put (DSP_HSTAT_LANES h) c.2
            | none => (s.chip.put (DSP_HSTAT_LINK h) 0).evt (DSP_EVT_TRAIN_FAIL h) })
      ∧ exec (.hpdPlug h2) s = .next { s with chip := s.chip.put (DSP_HSTAT_HPD h) 1 }
      ∧ (s.chip.get (DSP_HSTAT_HPD h) ≠ 0 → exec (.hpdUnplug h2) s = .next { s with chip := ((s.chip.put (DSP_HSTAT_HPD h) 0).put (DSP_HSTAT_LINK h) 0).evt (DSP_EVT_HPD_CHG h) })
      ∧ (s.chip.on (DSP_HSTAT_HPD h) = true → exec (.hpdIrq h2) s = .next { s with chip := s.chip.evt (DSP_EVT_HPD_IRQ h) })
      ∧ (reg ≠ 0 → s.chip.on (DSP_HCTL_EN h) = true → exec (.dspTiming h2 reg value) s = .next { s with chip := s.chip.evt DSP_EVT_CFG_ERR })
      ∧ (reg = 0 → exec (.dspTiming h2 reg value) s = .next { s with chip := if bit value.toNat 0 ∧ s.chip.timingOk h = false then s.chip.evt DSP_EVT_CFG_ERR else s.chip.hctl h value.toNat })
      ∧ (reg ≠ 0 → s.chip.on (DSP_HCTL_EN h) = false → exec (.dspTiming h2 reg value) s = .next { s with
          chip := match reg.val with
            | 1 => (s.chip.put (DSP_TIME_H_ACT h) (bits value.toNat 0 12)).put (DSP_TIME_H_TOTAL h) (bits value.toNat 16 12)
            | 2 => ((s.chip.put (DSP_TIME_HS_START h) (bits value.toNat 0 12)).put (DSP_TIME_HS_WIDTH h) (bits value.toNat 16 8)).put (DSP_TIME_HS_POL h) (bits value.toNat 24 1)
            | 3 => (s.chip.put (DSP_TIME_V_ACT h) (bits value.toNat 0 12)).put (DSP_TIME_V_TOTAL h) (bits value.toNat 16 12)
            | 4 => ((s.chip.put (DSP_TIME_VS_START h) (bits value.toNat 0 12)).put (DSP_TIME_VS_WIDTH h) (bits value.toNat 16 8)).put (DSP_TIME_VS_POL h) (bits value.toNat 24 1)
            | _ => s.chip.put (DSP_PCLK_KHZ h) (bits value.toNat 0 19) })
      ∧ (s.chip.on (DSP_COMMIT_PEND h) = true → exec (.dspShadow h2 sreg value) s = .next { s with chip := s.chip.evt DSP_EVT_CFG_ERR } ∧ exec (.go h2) s = .next s)
      ∧ (s.chip.on (DSP_COMMIT_PEND h) = false →
        exec (.dspShadow h2 sreg value) s = .next { s with
          chip := match sreg.val with
            | 0 => if bits value.toNat 0 14 < 10240 then s.chip.put (DSP_SURF_BASE_BASE h) (bits value.toNat 0 14) else s.chip
            | 1 => s.chip.put (DSP_SURF_STRIDE_STRIDE h) (bits value.toNat 0 14 / 64 * 64)
            | _ => if bits value.toNat 0 2 = 3 then s.chip else s.chip.put (DSP_SURF_FMT_FMT h) (bits value.toNat 0 2) }
        ∧ (s.chip.surfaceFits h = false → exec (.go h2) s = .next { s with chip := s.chip.evt DSP_EVT_CFG_ERR })
        ∧ (s.chip.surfaceFits h = true → s.chip.get (DSP_HCTL_EN h) = 0 → exec (.go h2) s = .next { s with chip := (s.chip.copySurface h).evt (DSP_EVT_FLIP h) })
        ∧ (s.chip.surfaceFits h = true → s.chip.get (DSP_HCTL_EN h) ≠ 0 → exec (.go h2) s = .next { s with
            chip := Chip.leavePsr ((s.chip.put (DSP_COMMIT_PEND h) 1).setHead h { s.chip.head h with late := b2n (decide (s.chip.toBlank h < 2 * s.chip.get (DSP_TIME_H_TOTAL h))) }) h }))
      ∧ ((s.chip.get (DSP_HCTL_EN h) = 0 ∨ s.chip.selfRefresh h = true) → exec (.verticalBlank h2 found) s = .next s)
      ∧ (s.chip.get (DSP_HCTL_EN h) ≠ 0 → s.chip.selfRefresh h = false → ∀ c0 c1 c, c0 = found.foldl (fun s f => s.scanFind f) s.chip →
        c1 = c0.setHead h { c0.head h with blankAt := c0.tick, idle := (c0.head h).idle + 1 } →
        c = (if c1.get (DSP_HSTAT_PSR_STATE h) = 1 then (c1.put (DSP_HSTAT_PSR_STATE h) 2).evt (DSP_EVT_PSR_CHG h) else c1) →
        exec (.verticalBlank h2 found) s = .next { s with
          chip := if c.get (DSP_COMMIT_PEND h) = 0 then c else if (c.head h).late = 1 then (c.setHead h { c.head h with late := 2 }).evt (DSP_EVT_COMMIT_LATE h) else c.flip h })
      ∧ (s.chip.on (DSP_HCTL_EN h) = true → s.chip.selfRefresh h = false → exec (.underrun h2) s = .next { s with chip := (s.chip.inc (DSP_UNDERRUN h)).evt (DSP_EVT_UNDERRUN h) })
      ∧ (s.chip.on (DSP_HCTL_EN h) = true → s.chip.on (DSP_HCTL_MODE h) = true → s.chip.on (DSP_HCTL_PSR_EN h) = true → s.chip.get (DSP_HSTAT_PSR_STATE h) = 0 →
        s.chip.get (DSP_HCTL_PSR_IDLE h) < (s.chip.head h).idle → exec (.psrEntry h2) s = .next { s with chip := s.chip.put (DSP_HSTAT_PSR_STATE h) 1 })
      ∧ exec (.psrExit h2) s = .next { s with chip := s.chip.leavePsr h }
      ∧ (∀ r c i, s.chip.takeGiven 7 cell ecc = (r, c) →
        (i = .dspWrite ring cell ecc ∧ dspOp cell ≠ 2 ∧ dspOp cell ≠ 3) ∨ (i = .dspCommit ring cell ecc ∧ dspOp cell = 2) ∨ (i = .dspSync ring cell ecc ∧ dspOp cell = 3) →
        (r = false → exec i s = .next { s with chip := c })
        ∧ (r = true → dspBad cell = true → exec i s = .next { s with chip := (c.inc DSP_CELL_BAD).evt DSP_EVT_CELL_BAD })
        ∧ (r = true → dspBad cell = false → dspOp cell = 1 → exec i s = .next { s with
              chip := (c.touched (dspAddr cell) cell.vlen).healFrame (dspAddr cell) cell.vlen
              mem := Memory.setBytes s.mem (frameBase + dspAddr cell) (slice cell.data 0 cell.vlen) }
            ∧ cell.vlen ≠ 0 ∧ dspAddr cell + cell.vlen ≤ frameSize)
        ∧ (r = true → dspBad cell = false → dspOp cell = 2 → exec i s = .next { s with chip := c.commit (cell.field 30 1) })
        ∧ (r = true → dspBad cell = false → dspOp cell = 3 → exec i s = .next { s with chip := c.endToRing 7 (c.get DSP_CTL_RING) cell }))
      ∧ ((dspOp cell = 2 ∨ dspOp cell = 3 → exec (.dspWrite ring cell ecc) s = .next s) ∧ (dspOp cell ≠ 2 → exec (.dspCommit ring cell ecc) s = .next s) ∧ (dspOp cell ≠ 3 → exec (.dspSync ring cell ecc) s = .next s))
      ∧ (s.chip.on (DSP_AUX_STAT_BUSY h) = true → exec (.auxGo h2) s = .next s)
      ∧ (s.chip.on (DSP_AUX_STAT_BUSY h) = false → ∃ t : Chip, exec (.auxGo h2) s = .next { s with chip := t } ∧ t.get (DSP_AUX_STAT_BUSY h) = 1)
      ∧ (s.chip.get (DSP_AUX_STAT_BUSY h) = 0 → exec (.auxDone h2 rep data) s = .next s)
      ∧ (s.chip.get (DSP_AUX_STAT_BUSY h) ≠ 0 → rep = 0 → s.chip.get (DSP_AUX_CTL_CMD h) % 2 = 0 → ∀ c b, c = (s.chip.put (DSP_AUX_STAT_BUSY h) 0).put (DSP_AUX_STAT_REPLY h) reply →
        b = data.take (c.auxLen h) ++ (c.auxData h).drop (min (c.auxLen h) data.length) → exec (.auxDone h2 rep data) s = .next { s with
          chip := ((List.range 4).foldl (fun (c : Chip) k => c.put (DSP_AUX_DATA_DATA h k) (rd b (4 * k) 4)) c).evt (DSP_EVT_AUX_DONE h) })
      ∧ (s.chip.get (DSP_AUX_STAT_BUSY h) ≠ 0 → rep ≠ 0 ∨ s.chip.get (DSP_AUX_CTL_CMD h) % 2 = 1 → exec (.auxDone h2 rep data) s = .next { s with
          chip := ((s.chip.put (DSP_AUX_STAT_BUSY h) 0).put (DSP_AUX_STAT_REPLY h) reply).evt (DSP_EVT_AUX_DONE h) }))

/-- Field I/O: what a source of doubt does, when the release is given, and how events and inputs are taken. FORCE, a supply trip and
a hot die signal their cause; an unshuttered node is then shuttered with DONE, counted, and its event queue empty, and no due
event drives an output any more. SHUTTER_RELEASE returns REFUSED while a cause is live or not acknowledged, and otherwise
releases. A due event is taken from the queue's head and drives its output only when chain time has reached its target. An input
transition is timed from where it began; after DEBOUNCE the new level is taken and an edge that matches EDGE is stamped with bit
0 at 0, counted and routed; a shorter pulse is a glitch and changes no level. With EN 0 or PD-FIELD off no transition is
accepted, and setting EN takes the present level without an edge. Rests on R452, R454, R455, R458, R459, R460, R463, R505, R506. -/
def Obligations.ShutterActsAndReleases : Prop :=
  ∀ (i : Fin 16) (level bad : Bool) (value : Word) (tj : BitVec 12) (rail : Fin 6) (id : SlotId) (s : State),
    exec .force s = .next { s with chip := s.chip.shutter 0 }
    ∧ (bit (s.chip.get PWR_MON_TRIP) rail = false → exec (.supplyTrip rail) s = .next { s with
        chip := ((((s.chip.setBitOf PWR_MON_TRIP rail).evt PWR_EVT_SUPPLY).live causeSupply true).shutter 7) })
    ∧ (bit (s.chip.get PWR_MON_TRIP) rail = true → exec (.supplyTrip rail) s = .next s)
    ∧ (∀ c, c = s.chip.clrBitOf PWR_MON_TRIP rail → exec (.supplyRailRestored rail) s = .next { s with chip := if c.get PWR_MON_TRIP = 0 then c.live causeSupply false else c })
    ∧ (∀ c, c = (s.chip.put PWR_TEMP_TJ tj.toNat).live causeTemp (decide (4 * (((s.chip.put PWR_TEMP_TJ tj.toNat).get FLD_SHUT_TEMP_TSHUT_LIM : Int) - ((s.chip.put PWR_TEMP_TJ tj.toNat).get FLD_SHUT_TEMP_TSHUT_HYST : Int)) ≤ tj.toInt)) →
      exec (.temperatureCheck tj) s = .next { s with chip := if 4 * ((s.chip.put PWR_TEMP_TJ tj.toNat).get FLD_SHUT_TEMP_TSHUT_LIM : Int) ≤ tj.toInt then c.shutter 8 else c })
    ∧ (∀ (c : Chip) (cause : Nat), (c.setBitOf FLD_SHUT_CAUSE_CAUSE cause).shuttered = false →
        (c.shutter cause).shuttered = true ∧ (c.shutter cause).get FLD_SHUT_STAT_DONE = 1 ∧ (c.shutter cause).field.queue = []
        ∧ exec (.fieldEventDue bad) { s with chip := c.shutter cause } = .next (State.settle { s with chip := c.shutter cause } (c.shutter cause).acceptTats)
        ∧ ((c.shutter cause).field.waiting = [] → exec (.fieldEventDue bad) { s with chip := c.shutter cause } = .next { s with chip := c.shutter cause }))
    ∧ (∀ (c : Chip) (cause : Nat), (c.setBitOf FLD_SHUT_CAUSE_CAUSE cause).shuttered = true → c.shutter cause = c.setBitOf FLD_SHUT_CAUSE_CAUSE cause)
    ∧ (∀ o c body ack, s.chip.starts id 0x60 anyBody o → c = s.chip.orderBegun id o → body = o.bytes.drop 16 → ack = rd body 0 4 →
      (body.length ≠ 4 ∨ 8192 ≤ ack → exec (.shutterRelease id) s = .next { s with chip := c.docketReady id stBadArgs [] })
      ∧ (body.length = 4 → ack < 8192 → c.shuttered = false → exec (.shutterRelease id) s = .next { s with chip := c.docketReady id stDone [0, 0, 0, 0] })
      ∧ (body.length = 4 → ack < 8192 → c.shuttered = true → (c.get FLD_SHUT_LIVE_LIVE ≠ 0 ∨ c.get FLD_SHUT_CAUSE_CAUSE &&& ack ≠ c.get FLD_SHUT_CAUSE_CAUSE) →
        exec (.shutterRelease id) s = .next { s with chip := c.docketReady id stRefused (leBytes (c.get FLD_SHUT_CAUSE_CAUSE) 4 ++ leBytes (c.get FLD_SHUT_LIVE_LIVE) 4) })
      ∧ (body.length = 4 → ack < 8192 → c.shuttered = true → c.get FLD_SHUT_LIVE_LIVE = 0 → c.get FLD_SHUT_CAUSE_CAUSE &&& ack = c.get FLD_SHUT_CAUSE_CAUSE →
        exec (.shutterRelease id) s = .next { s with chip := c.release.docketReady id stDone (leBytes (c.get FLD_SHUT_CAUSE_CAUSE) 4) }))
    ∧ (s.chip.field.queue = [] → exec (.fieldEventDue bad) s = .next (s.settle s.chip.acceptTats) ∧ (s.chip.field.waiting = [] → exec (.fieldEventDue bad) s = .next s))
    ∧ (bad = true → s.chip.field.queue ≠ [] → exec (.fieldEventDue bad) s = .next (s.settle (s.chip.shutter 10)))
    ∧ (∀ e r, bad = false → s.chip.field.queue = e :: r → exec (.fieldEventDue bad) s = .next (s.settle (Chip.acceptTats (if s.chip.ns < e.target ∨ s.chip.shuttered = true then s.chip else
          if r.any (fun x => decide (x.output = e.output ∧ x.target = e.target)) then { s.chip with field := { s.chip.field with queue := r } }
          else Chip.driveOut { s.chip with field := { s.chip.field with queue := r } } e.output e.level))))
    ∧ (∀ c : Chip, c = { s.chip with field := { s.chip.field with raw := if level then setBit s.chip.field.raw i else clrBit s.chip.field.raw i } } →
      exec (.fieldInputTransition i level) s = .next { s with
        chip := if c.get (FLD_IN_CFG_EN i) = 0 ∨ c.domainOn 14 = false then c else if bit (c.get FLD_IN_LEVEL) i = level then
            (if mget 0 c.field.cand i = 0 then c else (Chip.addSat { c with field := { c.field with cand := mset 0 c.field.cand i 0 } } (FLD_IN_CNT_GLITCH i) 1).evt FLD_EVT_GLITCH)
          else { c with field := { c.field with cand := mset 0 c.field.cand i (c.ns + 1) } } })
    ∧ ((mget 0 s.chip.field.cand i = 0 ∨ s.chip.get (FLD_IN_CFG_EN i) = 0 ∨ s.chip.domainOn 14 = false) → exec (.debounce i) s = .next s)
    ∧ (mget 0 s.chip.field.cand i ≠ 0 → s.chip.get (FLD_IN_CFG_EN i) ≠ 0 → s.chip.domainOn 14 = true → ∀ at_ lv, at_ = mget 0 s.chip.field.cand i - 1 → lv = bit s.chip.field.raw i →
      ∃ t : Chip, exec (.debounce i) s = .next { s with chip := t }
        ∧ (edgeMatches (s.chip.get (FLD_IN_CFG_EDGE i)) lv = true → s.chip.get (FLD_IN_CFG_ROUTE_EN i) = 0 →
            t.get (FLD_IN_STAMP_LO_NS i) = at_ / 2 * 2 % 2 ^ 32 ∧ t.get (FLD_IN_CNT_EDGES i) = (s.chip.get (FLD_IN_CNT_EDGES i) + 1) % 2 ^ 16)
        ∧ (edgeMatches (s.chip.get (FLD_IN_CFG_EDGE i)) lv = false → t.get (FLD_IN_CNT_EDGES i) = s.chip.get (FLD_IN_CNT_EDGES i)
            ∧ t.get FLD_IN_LEVEL = (if lv then setBit (s.chip.get FLD_IN_LEVEL) i else clrBit (s.chip.get FLD_IN_LEVEL) i) % 2 ^ 16))
    ∧ exec (.inStampLo i) s = .next { s with
        chip := (s.chip.latch (FLD_IN_STAMP_HI_NS i).addr (s.chip.get (FLD_IN_STAMP_HI_NS i))).latch (FLD_IN_CNT_EDGES i).addr (s.chip.get (FLD_IN_CNT_EDGES i) + 65536 * s.chip.get (FLD_IN_CNT_GLITCH i)) }
    ∧ (∃ t : Chip, exec (.fieldInputEnable i value) s = .next { s with chip := t } ∧ (s.chip.on (FLD_IN_CFG_EN i) = false → value.toNat % 2 = 1 → mget 0 t.field.cand i = 0
        ∧ t.get (FLD_IN_CNT_EDGES i) = s.chip.get (FLD_IN_CNT_EDGES i)))

/-- Intake channels: ON and CLEAR, samples, the trips with their causes, retries, damage and the owner. While Steward owns the
channels, writing ON 1 starts the ramp of an open channel that may close and otherwise raises CFG_ERR; writing 0 opens it. A
breaker, hard or ramp trip acts only on a channel that is driven (a ramp trip on one that ramps), makes it Tripped with its
cause, and counts. A retry starts a Tripped channel's ramp only while RETRIES is below its limit, ON is 1 and the channel is not
held open. While OWNER is 0, HA and HB have their fused limits. CLEAR takes a Tripped channel to its open state with RETRIES 0. A pass element that conducts while ON is 0 makes the
channel Damaged until the finding clears. OWNER 1 needs Steward's domain; a dock's voltage change ends; each sample records its
voltages. Rests on R470, R471, R473, R475, R477, R478, R479, R480, R481. -/
def Obligations.IntakeChannels : Prop :=
  ∀ (c : Fin 6) (d : Fin 2) (value : Word) (owner : Bool) (channels : List ChSample) (va vb : BitVec 12) (s : State),
    (∀ e f g : Chip, e = (if 1 ≤ bits value.toNat 2 6 ∧ bits value.toNat 2 6 ≤ 40 then s.chip.put (HVI_CH_CTL_RAMP c) (bits value.toNat 2 6) else s.chip).put (HVI_CH_CTL_RETRY_LIM c) (bits value.toNat 8 3) →
      f = (if bits value.toNat 11 8 = 0 then e else e.put (HVI_CH_CTL_RETRY_INT c) (bits value.toNat 11 8)) →
      g = (if f.get HVI_CTL_OWNER = 0 then f else (f.writeDir c (bits value.toNat 1 1)).writeOn c (bits value.toNat 0 1)) →
      exec (.on c value) s = .next { s with chip := if bits value.toNat 19 1 = 1 then g.clearTrip c else g })
    ∧ (∀ f : Chip,
      (f.chanOn c = false → f.mayClose c = true → f.writeOn c 1 = f.startRamp c)
      ∧ (f.chanOn c = false → f.mayClose c = false → f.writeOn c 1 = f.evt HVI_EVT_CFG_ERR)
      ∧ (f.chanOn c = true → f.writeOn c 1 = f ∧ f.writeOn c 0 = f.openChannel c (f.offState c))
      ∧ (f.chanOn c = false → f.writeOn c 0 = f.put (HVI_CH_CTL_ON c) 0))
    ∧ exec (.hviSample channels va vb) s = .next { s with
        chip := ((List.range 6).foldl (fun (s : Chip) c => s.sampleChannel c (channels.getD c ⟨0, 0⟩)) ((s.chip.put HVI_VIN_A_VIN (scaled va.toNat 6600)).put HVI_VIN_B_VIN (scaled vb.toNat 6600))).enforceDockPower }
    ∧ (s.chip.chanOn c = true →
      (∀ k, s.chip.reachedPoint c = some k → exec (.breakerTrip c) s = .next { s with chip := ((s.chip.trip c 1).put (HVI_CH_STAT_POINT c) k).enforceDockPower })
      ∧ (s.chip.reachedPoint c = none → exec (.breakerTrip c) s = .next s)
      ∧ exec (.hardTrip c) s = .next { s with chip := (s.chip.trip c 2).enforceDockPower })
    ∧ (s.chip.chanOn c = false → exec (.breakerTrip c) s = .next s ∧ exec (.hardTrip c) s = .next s)
    ∧ exec (.rampTimeout c) s = .next { s with chip := if s.chip.get (HVI_CH_STAT_STATE c) = 1 then (s.chip.trip c 4).enforceDockPower else s.chip }
    ∧ (∀ (f : Chip) cause, c.val ≠ 4 → cause < 8 → (f.trip c cause).get (HVI_CH_STAT_CAUSE c) = cause ∧ (f.trip c cause).get (HVI_CH_STAT_STATE c) = 3 ∧ (f.trip c cause).get (HVI_CH_STAT_PG c) = 0)
    ∧ (s.chip.get (HVI_CH_STAT_STATE c) = 3 → s.chip.get (HVI_CH_STAT_RETRIES c) < s.chip.get (HVI_CH_CTL_RETRY_LIM c) → s.chip.on (HVI_CH_CTL_ON c) = true → s.chip.lodgeHolds c = false →
        (s.chip.lockable c = false ∨ (s.chip.shuttered = false ∧ s.chip.onDockPower = false)) →
      exec (.tripRetry c) s = .next { s with chip := (s.chip.inc (HVI_CH_STAT_RETRIES c)).put (HVI_CH_STAT_STATE c) 1 })
    ∧ ((s.chip.get (HVI_CH_STAT_STATE c) ≠ 3 ∨ s.chip.get (HVI_CH_CTL_RETRY_LIM c) ≤ s.chip.get (HVI_CH_STAT_RETRIES c) ∨ s.chip.on (HVI_CH_CTL_ON c) = false ∨ s.chip.lodgeHolds c = true) → exec (.tripRetry c) s = .next s)
    ∧ (∀ f : Chip, f.get HVI_CTL_OWNER = 0 → c.val < 2 → f.limits c = (f.fused (HVI_CH_LIMITS_UV c), f.fused (HVI_CH_LIMITS_OV c)))
    ∧ (∀ f : Chip, f.get HVI_CTL_OWNER ≠ 0 → c.val < 2 → f.limits c = (f.get (HVI_CH_LIMITS_UV c), f.get (HVI_CH_LIMITS_OV c)))
    ∧ (s.chip.get (HVI_CH_STAT_STATE c) = 3 → exec (.clear c) s = .next { s with
        chip := ((s.chip.put (HVI_CH_STAT_STATE c) (s.chip.offState c)).put (HVI_CH_CTL_ON c) 0).put (HVI_CH_STAT_RETRIES c) 0 })
    ∧ (s.chip.get (HVI_CH_STAT_STATE c) ≠ 3 → exec (.clear c) s = .next s)
    ∧ (s.chip.get (HVI_CH_CTL_ON c) = 0 → s.chip.get (HVI_CH_STAT_STATE c) ≠ 4 → isDock c = false ∨ s.chip.get (DCK_TC_STAT_STATE (c.val - 2)) ≠ dckAttachedSnk → exec (.damaged c) s = .next { s with chip := (s.chip.put (HVI_CH_STAT_STATE c) 4).evtBit HVI_EVT_DAMAGED c })
    ∧ (s.chip.get (HVI_CH_CTL_ON c) ≠ 0 → exec (.damaged c) s = .next s)
    ∧ exec (.damageCleared c) s = .next { s with chip := if s.chip.get (HVI_CH_STAT_STATE c) = 4 then s.chip.put (HVI_CH_STAT_STATE c) (s.chip.offState c) else s.chip }
    ∧ exec (.owner owner) s = .next { s with chip := if owner then (if s.chip.domainOn 2 then s.chip.put HVI_CTL_OWNER 1 else s.chip) else s.chip.ownerToLodge }
    ∧ exec (.voltageChangeEnd d) s = .next { s with chip := s.chip.setChan (2 + d) { s.chip.chan (2 + d) with changing := false } }

/-- Docks: toggling, attach, detach and discharge, moisture, and Power Delivery messages with their retries. An unattached port
toggles only under POLICY 0 while Steward owns the channels. Attach takes a port that presents the matching side; a detach, of an attached port or of one that became wet while attached, opens
its channel, sets VSEL 0, ends the contract and what waited to be sent, and discharges until VBUS is low. A moisture check below
WET_THR opens a port and makes it wet, one above dries it. A message that waits for GoodCRC is sent again twice with the same
header, then TX_FAIL; one with a repeated MessageID is answered and not queued; a fifth that finds the FIFO full is not
answered. Reading PD_RXHDR pops the FIFO. Hard Reset is sent and received by an attached port with PD_EN only. While CC reads
open a Soft_Reset and a Hard Reset are held. Rests on R482, R483, R484, R486, R487, R488, R489, R490. -/
def Obligations.DockPorts : Prop :=
  ∀ (d : Fin 2) (orient source cc : Bool) (rp : Fin 3) (lowest : BitVec 8) (value : Word) (header : BitVec 16) (objects : List Word) (s : State) (x y : Dock) (r : Chip), x = s.chip.dck d → r = s.chip.readCc d false → y = r.dck d →
    (s.chip.attached d = false → s.chip.readCc d cc = s.chip)
    ∧ (s.chip.attached d = true → s.chip.readCc d true = s.chip.setDck d { x with ccOpen := true } ∧ (x.held = [] → s.chip.readCc d false = s.chip.setDck d { x with ccOpen := false, held := [] }))
    ∧     (s.chip.dckState d ≠ dckSnk → s.chip.dckState d ≠ dckSrc → exec (.drpToggle d) s = .next s)
    ∧ ((s.chip.dckState d = dckSnk ∨ s.chip.dckState d = dckSrc) → exec (.drpToggle d) s = .next { s with
        chip := s.chip.put (DCK_TC_STAT_STATE d) (if s.chip.get (DCK_TC_CTL_POLICY d) = 0 ∧ s.chip.on HVI_CTL_OWNER then (if s.chip.dckState d = dckSnk then dckSrc else dckSnk) else s.chip.unattached d) })
    ∧ (s.chip.attached d = true → exec (.attach d orient source rp) s = .next { s with chip := r })
    ∧ (s.chip.attached d = false → s.chip.dckState d ≠ (if source then dckSrc else dckSnk) → exec (.attach d orient source rp) s = .next s)
    ∧ (s.chip.attached d = false → s.chip.dckState d = (if source then dckSrc else dckSnk) → ∀ c0 c, c0 = ((s.chip.put (DCK_TC_STAT_STATE d) (if source then dckAttachedSrc else dckAttachedSnk)).put (DCK_TC_STAT_ORIENT d) (b2n orient)).put (DCK_TC_STAT_PROLE d) (b2n source) →
        c = (((c0.put (DCK_TC_STAT_DROLE d) (b2n source)).put (DCK_TC_STAT_PARTNER_RP d) (if source then 0 else rp)).evt (DCK_EVT_ATTACH d)).inc (DCK_ATTACH_CNT d) →
      exec (.attach d orient source rp) s = .next { s with chip := if source then c else c.deadBattery d })
    ∧ (s.chip.detachable d = false → exec (.detach d) s = .next s)
    ∧ (s.chip.detachable d = true ↔ (s.chip.attached d = true ∨ (s.chip.dckState d = dckWet ∧ x.wetAttached = true)))
    ∧ (s.chip.detachable d = true → ∃ t : Chip, exec (.detach d) s = .next { s with chip := t } ∧ t.dckState d = dckDischarging ∧ t.get (DCK_TC_STAT_CONTRACT d) = 0
        ∧ (t.dck d).sent = none ∧ (t.dck d).discharging = true ∧ t.get (DCK_TC_STAT_VSEL d) = 0 ∧ (t.chan (2 + d)).changing = false)
    ∧ (∀ c, c = (if x.discharging then s.chip.setVdis d false else s.chip) → (c.dck d).discharging = false
        ∧ exec (.dischargeDone d) s = .next { s with chip := if c.dckState d = dckDischarging then c.put (DCK_TC_STAT_STATE d) (c.unattached d) else c })
    ∧ (s.chip.dckState d = dckDischarging → exec (.dischFail d) s = .next { s with chip := s.chip.evt (DCK_EVT_DISCH_FAIL d) })
    ∧ (s.chip.dckState d ≠ dckDischarging → (x.discharging = false → exec (.dischargeDone d) s = .next s) ∧ exec (.dischFail d) s = .next s)
    ∧ ((s.chip.get (DCK_TC_CTL_MOIST_EN d) = 0 ∨ s.chip.dckState d = dckDisabled) → exec (.moistureCheck d lowest) s = .next s)
    ∧ (s.chip.get (DCK_TC_CTL_MOIST_EN d) ≠ 0 → s.chip.dckState d ≠ dckDisabled → ∀ c wet, c = s.chip.put (DCK_MOIST_LAST_MIN d) lowest.toNat → wet = decide (lowest.toNat < c.get (DCK_MOIST_WET_THR d)) →
      (s.chip.dckState d = dckWet → exec (.moistureCheck d lowest) s = .next { s with chip := if wet then c else (c.put (DCK_TC_STAT_STATE d) (c.unattached d)).evt (DCK_EVT_DRY d) })
      ∧ (s.chip.dckState d ≠ dckWet → exec (.moistureCheck d lowest) s = .next { s with chip := if wet then ((((c.openDock d).setDck d { c.dck d with wetAttached := c.attached d }).put (DCK_TC_STAT_STATE d) dckWet).evt (DCK_EVT_WET d)).inc (DCK_WET_CNT d) else c }))
    ∧ (∀ c e, c = (s.chip.readCc d cc).put (DCK_PD_TXHDR_HEADER d) (bits value.toNat 0 16) → e = (if bit value.toNat 16 then c.pdGo d else c) →
      exec (.pdTxGo d value cc) s = .next { s with chip := if bit value.toNat 17 then e.pdHardReset d else e })
    ∧ (x.sent = none → exec (.goodcrcTimeout d) s = .next s)
    ∧ (∀ m, x.sent = some m → x.ccOpen = true → pdIsControl m.1 pdSoftReset = true → exec (.goodcrcTimeout d) s = .next { s with chip := (s.chip.setDck d { x with sent := none, tries := 0 }).pdHold d (some m.1) })
    ∧ (∀ m, x.sent = some m → (x.ccOpen = false ∨ pdIsControl m.1 pdSoftReset = false) →
      (x.tries < 2 → exec (.goodcrcTimeout d) s = .next { s with chip := (s.chip.setDck d { x with tries := x.tries + 1 }).pdSend d m.1 m.2 })
      ∧ (2 ≤ x.tries → ∃ t : Chip, exec (.goodcrcTimeout d) s = .next { s with chip := t } ∧ (t.dck d).sent = none ∧ (t.dck d).tries = 0
          ∧ t.get (DCK_TX_FAIL_CNT d) = min (s.chip.get (DCK_TX_FAIL_CNT d) + 1) (2 ^ 32 - 1)))
    ∧ ((r.attached d = false ∨ r.get (DCK_TC_CTL_PD_EN d) = 0) → exec (.pdMessageRx d header objects) s = .next { s with chip := r } ∧ exec (.hardResetRx d) s = .next { s with chip := r })
    ∧ (∀ u, u = s.chip.readCc d cc →
      (((u.dck d).ccOpen = true ∨ (u.attached d = true ∧ u.get (DCK_TC_CTL_PD_EN d) ≠ 0)) → exec (.hardReset d cc) s = .next { s with
          chip := if (u.dck d).ccOpen then u.pdHold d none else (u.emit (.pin "HARD_RESET" d 1)).inc (DCK_HARD_RESET_CNT d) })
      ∧ ((u.dck d).ccOpen = false → (u.attached d = false ∨ u.get (DCK_TC_CTL_PD_EN d) = 0) → exec (.hardReset d cc) s = .next { s with chip := u }))
    ∧ (r.attached d = true → r.get (DCK_TC_CTL_PD_EN d) = 1 → ∀ h, h = header.toNat →
      (pdIsControl h pdGoodCrc = true → exec (.pdMessageRx d header objects) s = .next { s with chip := r.pdAcked d (pdId h) })
      ∧ (pdIsControl h pdGoodCrc = false → y.lastRx = pdId h + 1 → pdIsControl h pdSoftReset = false → exec (.pdMessageRx d header objects) s = .next { s with chip := r.goodCrc d (pdId h) })
      ∧ (pdIsControl h pdGoodCrc = false → (y.lastRx ≠ pdId h + 1 ∨ pdIsControl h pdSoftReset = true) → exec (.pdMessageRx d header objects) s = .next { s with
          chip := if 4 ≤ y.fifo.length then r else r.pdQueue d h ((objects.take (pdCount h)).map (·.toNat)) })
      ∧ exec (.hardResetRx d) s = .next { s with chip := (r.evt (DCK_EVT_HARD_RESET_RX d)).inc (DCK_HARD_RESET_CNT d) })
    ∧ (x.fifo = [] → exec (.pdRxhdr d) s = .next { s with chip := ((s.chip.put (DCK_PD_RXHDR_HEADER d) 0).put (DCK_PD_RXHDR_FILL d) 0).put (DCK_PD_RXHDR_VALID d) 0 })
    ∧ (∀ m l, x.fifo = m :: l → ∃ t : Chip, exec (.pdRxhdr d) s = .next { s with chip := t } ∧ (t.dck d).fifo = l)

/-- SET_POWER_STATE: what it refuses, when a sequence starts and switches, how a node wakes, and residency. An order for a STATE
that starts returns BAD_ARGS for a reserved byte, a GATE outside TRIM or a domain that TRIM may not gate; REFUSED while a
sequence runs, or by R496; DONE at once in the state it asks for; otherwise the hands of the domains it leaves are asked to halt
with BUSY 1, and the order goes on once everything is drained. DOMAIN_DRAIN_DONE does nothing while a hand, queue or replay
buffer is not drained, and otherwise switches. A wake source does nothing while it is not enabled; an enabled one wakes a
Dormant node, or is kept while it enters Dormant. A read of PWR_RES_LO_s takes the count of µs and latches the high word. Rests
on R495, R496, R497, R500, R502, R507, R362. -/
def Obligations.PowerStates : Prop :=
  ∀ (id : SlotId) (i : Instr) (st : Nat) (s : State), ((i = .setPowerStateRun id ∧ st = 0) ∨ (i = .setPowerStateTrim id ∧ st = 1) ∨ (i = .setPowerStateBanked id ∧ st = 2) ∨ (i = .setPowerStateDormant id ∧ st = 3)) →
    (∀ o c body gate, s.chip.starts id 0x10 (fun b => rd b 0 1 == st) o → c = s.chip.orderBegun id o → body = o.bytes.drop 16 → gate = rd body 2 2 →
      (zeroBytes body [1, 4, 5, 6, 7] = false ∨ (gate ≠ 0 ∧ st ≠ 1) ∨ gate &&& 0x7FC0 ≠ gate → exec i s = .next (State.powerGo (s.settle (c.docketReady id stBadArgs []))))
      ∧ (zeroBytes body [1, 4, 5, 6, 7] = true → (gate ≠ 0 → st = 1) → gate &&& 0x7FC0 = gate →
        (c.power.seq.isSome = true → exec i s = .next (State.powerGo (s.settle (c.docketReady id stRefused []))))
        ∧ (c.power.seq = none → c.get PWR_STAT_STATE = st → c.power.gate = gate → exec i s = .next (State.powerGo (s.settle (c.docketReady id stDone (leBytes c.pwrStat 4)))))
        ∧ (c.power.seq = none → (c.get PWR_STAT_STATE ≠ st ∨ c.power.gate ≠ gate) → c.powerRefused st gate = true → exec i s = .next (State.powerGo (s.settle (c.docketReady id stRefused []))))
        ∧ (c.power.seq = none → (c.get PWR_STAT_STATE ≠ st ∨ c.power.gate ≠ gate) → c.powerRefused st gate = false → exec i s = .next (State.powerGo (s.settle (c.startPower id st gate))))))
    ∧ (s.chip.power.seq = none → exec .domainDrainDone s = .next s)
    ∧ (∀ q, s.chip.power.seq = some q → exec .domainDrainDone s = .next (if q.retraining = false ∧ s.chip.drained q then s.powerApply q else s))
    ∧ (∀ (straps : BitVec 3) (w : Instr) (src : Nat), ((w = .harnessWake straps ∧ src = 0) ∨ (w = .wakeN straps ∧ src = 1) ∨ (w = .dockWake straps ∧ src = 2)) →
      (bit (s.chip.get PWR_WAKE_EN) src = false → exec w s = .next s)
      ∧ (bit (s.chip.get PWR_WAKE_EN) src = true →
        (s.chip.get PWR_STAT_STATE = pwrDormant → exec w s = .next (s.wakeNow src straps.toNat))
        ∧ (s.chip.get PWR_STAT_STATE ≠ pwrDormant → s.chip.power.seq = none → exec w s = .next s)
        ∧ (∀ q, s.chip.get PWR_STAT_STATE ≠ pwrDormant → s.chip.power.seq = some q → q.target = pwrDormant → q.wake = none →
          exec w s = .next { s with chip := { s.chip with power := { s.chip.power with seq := some { q with wake := some (src, straps.toNat) } } } })))
    ∧ (∀ k : Fin 4, ∃ t : Chip, exec (.pwrResLo k) s = .next { s with chip := t } ∧ t.get (PWR_RES_LO_US k) = s.chip.residency k % 2 ^ 32
        ∧ mget 0 t.latches (PWR_RES_HI_US k).addr = s.chip.residency k / 2 ^ 32 + 1)

/-- TEST: entry and leaving; READ_LOG, LOG_CONSUME and the byte counters. ENTER that starts returns BAD_ARGS for a slot above 127
and REFUSED for a slot that may not unlock, or in TEST; otherwise the stance is TEST, the slot is spent and logged, and the
docket carries TNK_STAT. LEAVE, the end of DURATION and nothing else of these three return the stance to SERVICE with every TNK
register at its reset value. READ_LOG returns BAD_ARGS for a COUNT or FLAGS out of range, and otherwise at most COUNT unread
entries, moving TAIL past them only where FLAGS asks. LOG_CONSUME moves TAIL only within the unread entries. A byte counter's
read gives the low word and latches the high. Rests on R564, R566, R569, R572, R573, R362. -/
def Obligations.StanceLogAndCounters : Prop :=
  ∀ (id : SlotId) (value : Word) (p : Fin 16) (tx : Bool) (s : State),
    (∀ o c body slot, s.chip.starts id 0xA0 (fun b => rd b 0 1 == 1) o → c = s.chip.orderBegun id o → body = o.bytes.drop 16 → slot = rd body 1 1 →
      (127 < slot → exec (.enter id) s = .next { s with chip := c.docketReady id stBadArgs [] })
      ∧ (slot ≤ 127 → c.enterRefused slot = true → exec (.enter id) s = .next { s with
          chip := (if c.grants slot useTinker ∧ (c.vslot slot).count = 0 then c.evt VLT_EVT_USE_ZERO else c).docketReady id stRefused [] })
      ∧ (slot ≤ 127 → c.enterRefused slot = false → ∀ d, d = c.enterTest slot (rd body 2 2) (rd body 4 4) →
        exec (.enter id) s = .next { s with chip := d.docketReady id stDone (leBytes d.tnkStat 4) } ∧ d.get GLB_STANCE_STANCE = 1 ∧ d.get TNK_STAT_SLOT = slot))
    ∧ (∀ o c body, s.chip.starts id 0xA0 (fun b => rd b 0 1 == 2) o → c = s.chip.orderBegun id o → body = o.bytes.drop 16 →
      (zeroBytes body [1, 2, 3, 4, 5, 6, 7] = false → exec (.leave id) s = .next { s with chip := c.docketReady id stBadArgs [] })
      ∧ (zeroBytes body [1, 2, 3, 4, 5, 6, 7] = true → ∀ d, d = c.leaveTest 0 → exec (.leave id) s = .next { s with chip := d.docketReady id stDone (leBytes d.tnkStat 4) }))
    ∧ exec .duration s = .next { s with chip := if s.chip.tink.until_.isSome then s.chip.leaveTest 1 else s.chip }
    ∧ (∀ (c : Chip) (cause : Nat), (c.get GLB_STANCE_STANCE = 0 → c.leaveTest cause = c) ∧ (c.get GLB_STANCE_STANCE ≠ 0 → (c.leaveTest cause).tink = {} ∧ (c.leaveTest cause).get GLB_STANCE_STANCE = 0
        ∧ ∀ e ∈ (c.leaveTest cause).csr, e.1 / 32 / 65536 ≠ 0x17))
    ∧ (∀ o c body count flags from_, s.chip.starts id 0x80 anyBody o → c = s.chip.orderBegun id o → body = o.bytes.drop 16 → count = rd body 2 1 → flags = rd body 3 1 → from_ = rd body 0 2 →
      (count = 0 ∨ 31 < count ∨ 1 < flags ∨ (4096 ≤ from_ ∧ from_ ≠ 0xFFFF) → exec (.readLog id) s = .next { s with chip := c.docketReady id stBadArgs [] })
      ∧ (1 ≤ count → count ≤ 31 → flags ≤ 1 → (from_ < 4096 ∨ from_ = 0xFFFF) → ∀ first n, first = (if from_ = 0xFFFF then c.get LOG_STAT_TAIL else from_) →
          n = min count (c.unread - (first + 4096 - c.get LOG_STAT_TAIL) % 4096) →
        exec (.readLog id) s = .next { s with
          chip := (if flags = 1 ∧ n ≠ 0 then c.logTail (first + n) else c).docketReady id stDone (leBytes c.logStat 4 ++ leBytes (c.get LOG_OVERRUN) 4 ++ leBytes first 2 ++ leBytes n 1 ++ leBytes 0 5
            ++ (List.range n).flatMap (fun i => (c.logAt (first + i)).toBytes)) }))
    ∧ (∀ d, d = (value.toNat % 4096 + 4096 - s.chip.get LOG_STAT_TAIL) % 4096 →
      (0 < d → d ≤ s.chip.unread → ∃ t : Chip, exec (.logConsume value) s = .next { s with chip := t } ∧ t.get LOG_STAT_TAIL = value.toNat % 4096 ∧ t.get LOG_STAT_FULL = 0 ∧ t.get LOG_STAT_HEAD = s.chip.get LOG_STAT_HEAD)
      ∧ (d = 0 ∨ s.chip.unread < d → exec (.logConsume value) s = .next s))
    ∧ (∀ n, n = (if tx then mget 0 s.chip.log.txBytes p else mget 0 s.chip.log.rxBytes p) % 2 ^ 64 → ∃ t : Chip, exec (.logRxbLo p tx) s = .next { s with chip := t }
        ∧ t.get (if tx then LOG_TXB_LO_BYTES p else LOG_RXB_LO_BYTES p) = n % 2 ^ 32 ∧ mget 0 t.latches (if tx then LOG_TXB_HI_BYTES p else LOG_RXB_HI_BYTES p).addr = n / 2 ^ 32 + 1)

/-- Every KEY action: a body outside Table 21.3, a plain frame that may not carry it, a tampered Vault. Each KEY order that starts
returns BAD_ARGS where its body has not the length of Table 21.3 or one of its zero bytes is not 0; AUTH_FAIL where it is not
plain and came in a frame that is restricted; and REFUSED, counted in VLT_REFUSE_CNT, while the Vault is tampered. An action
that names a slot above 127, or a destination that is neither a slot nor 0xFF, returns BAD_ARGS (the order in which these are
checked is the model's: log entry 22). Rests on R519, R525, R355, R6. -/
def Obligations.KeyOrderChecks : Prop :=
  ∀ (id : SlotId) (i : Instr) (action len : Nat) (zeros : List Nat) (plain : Bool) (s : State),
    ((i = .derive id ∧ action = 1 ∧ len = 57 ∧ zeros = [] ∧ plain = false) ∨ (i = .session id ∧ action = 2 ∧ len = 17 ∧ zeros = [3, 4, 5, 6, 7, 8] ∧ plain = true)
      ∨ (i = .invalidate id ∧ action = 3 ∧ len = 2 ∧ zeros = [] ∧ plain = false) ∨ (i = .provision id ∧ action = 4 ∧ len = 41 ∧ zeros = [3, 4] ∧ plain = false)
      ∨ (i = .seal id ∧ action = 5 ∧ len = 2 ∧ zeros = [] ∧ plain = false) ∨ (i = .unseal id ∧ action = 6 ∧ len = 77 ∧ zeros = [2, 3, 4] ∧ plain = false)
      ∨ (i = .loadPub id ∧ action = 7 ∧ len = 101 ∧ zeros = [2, 3, 4] ∧ plain = false) ∨ (i = .attest id ∧ action = 8 ∧ len = 36 ∧ zeros = [1, 2, 3] ∧ plain = true)
      ∨ (i = .attestPub id ∧ action = 9 ∧ len = 1 ∧ zeros = [] ∧ plain = true) ∨ (i = .info id ∧ action = 10 ∧ len = 2 ∧ zeros = [] ∧ plain = true)
      ∨ (i = .enrolPuf id ∧ action = 11 ∧ len = 1 ∧ zeros = [] ∧ plain = false) ∨ (i = .debug id ∧ action = 12 ∧ len = 20 ∧ zeros = [2, 3] ∧ plain = true)
      ∨ (i = .helperRead id ∧ action = 13 ∧ len = 6 ∧ zeros = [1] ∧ plain = false)) →
    (∀ o c body, s.chip.starts id 0x70 (fun b => rd b 0 1 == action) o → c = s.chip.orderBegun id o → body = o.bytes.drop 16 →
      (body.length ≠ len ∨ zeroBytes body zeros = false → exec i s = .next { s with chip := c.docketReady id stBadArgs [] })
      ∧ (body.length = len → zeroBytes body zeros = true →
        (plain = false → c.restricted o.path o.keySlot = true → exec i s = .next { s with chip := c.docketReady id stAuthFail [] })
        ∧ (plain = true ∨ c.restricted o.path o.keySlot = false → c.get VLT_STAT_TAMPERED = 1 →
          exec i s = .next { s with chip := (c.inc VLT_REFUSE_CNT).docketReady id stRefused [] })))
    ∧ (∀ o c body k, s.chip.keyStarts id action len zeros plain o → c = s.chip.orderBegun id o → body = o.bytes.drop 16 → k = rd body 1 1 →
      ((action = 1 ∨ action = 2 ∨ action = 3 ∨ action = 5 ∨ action = 10) ∧ 127 < k) ∨ (action = 1 ∧ 127 < rd body 2 1 ∧ rd body 2 1 ≠ 255) ∨ ((action = 4 ∨ action = 6 ∨ action = 7) ∧ 127 < k ∧ k ≠ 255)
          ∨ (action = 1 ∧ 1 < rd body 4 1) ∨ (action = 2 ∧ 3 < rd body 2 1) ∨ (action = 12 ∧ 1 < k) →
        exec i s = .next { s with chip := c.docketReady id stBadArgs [] })

/-- DERIVE, SESSION and INVALIDATE: the scion, its slot, the uses it costs; scrubbing. DERIVE into a free destination, from a stock
that grants DERIVE and has uses left, spends one use and puts the scion of R516 there; with no destination or no use it returns
REFUSED, a stock whose COUNT is 0 being VLT_EVT.USE_ZERO. SESSION draws a DEV_NONCE (a free value), derives the session's scion,
and both its COUNTERs restart. INVALIDATE refuses slots 0 and 1, and else makes the slot and all its descendants unusable at
once. Each scrub frees one slot; the last ends SCRUB_BUSY. Rests on R513, R514, R516, R517, R518, R354, R519, R524. -/
def Obligations.KeysMadeAndErased : Prop :=
  ∀ (id : SlotId) (s : State),
    (∀ o c body stock dest, s.chip.keyStarts id 1 57 [] false o → c = s.chip.orderBegun id o → body = o.bytes.drop 16 → stock = rd body 1 1 → dest = rd body 2 1 →
      stock ≤ 127 → (dest ≤ 127 ∨ dest = 255) → rd body 4 1 ≤ 1 →
      (c.destination dest = none → exec (.derive id) s = .next { s with chip := c.keyOver id stRefused [] })
      ∧ (∀ k, c.destination dest = some k →
        (c.grants stock useDerive = false → exec (.derive id) s = .next { s with chip := c.keyOver id stRefused [] })
        ∧ (c.grants stock useDerive = true → (c.vslot stock).count = 0 → exec (.derive id) s = .next { s with chip := (c.evt VLT_EVT_USE_ZERO).keyOver id stRefused [] })
        ∧ (c.grants stock useDerive = true → (c.vslot stock).count ≠ 0 → exec (.derive id) s = .next { s with
            chip := ((c.spend stock).takeSlot k ⟨1, rd body 3 1, stock, false, rd body 5 4, decide (rd body 4 1 = 1), scion (c.keyBytes stock) (slice body 9 16) (slice body 25 32)⟩).keyOver
              id stDone (leBytes k 1) })))
    ∧ (∀ o c body stock sess k, ∀ f : Chip → Chip, s.chip.keyStarts id 2 17 [3, 4, 5, 6, 7, 8] true o → c = s.chip.orderBegun id o → body = o.bytes.drop 16 → stock = rd body 1 1 → sess = rd body 2 1 →
      stock ≤ 127 → sess ≤ 3 → f = (fun x => if mget 0 c.vault.scions sess = 0 then x else (x.invalidateSlot (mget 0 c.vault.scions sess - 1)).2) →
      (c.vault.trngBad = true ∨ c.grants stock useDerive = false → exec (.session id) s = .next { s with chip := c.keyOver id stRefused [] })
      ∧ (c.vault.trngBad = false → c.grants stock useDerive = true → (f c).freeSlot = none → exec (.session id) s = .next { s with chip := (f c).keyOver id stRefused [] })
      ∧ (c.vault.trngBad = false → c.grants stock useDerive = true → (f c).freeSlot = some k →
        ((f c).grants stock useDerive = false → exec (.session id) s = .next { s with chip := (f c).keyOver id stRefused [] })
        ∧ ((f c).grants stock useDerive = true → ((f c).vslot stock).count = 0 → exec (.session id) s = .next { s with chip := ((f c).evt VLT_EVT_USE_ZERO).keyOver id stRefused [] })
        ∧ ((f c).grants stock useDerive = true → ((f c).vslot stock).count ≠ 0 → ∀ r e key, r = c.random 16 → e = f (r.2.keyOver id stDone (leBytes k 1 ++ leBytes 0 7 ++ r.1)) →
          key = scion (c.keyBytes stock) labelSession (leBytes c.node 2 ++ leBytes sess 1 ++ leBytes 0 5 ++ slice body 9 8 ++ r.1) →
          exec (.session id) s = .next { s with
            chip := ((e.useKey stock useDerive).2.takeSlot k { kind := 1, uses := 2, parent := stock, installed := false, count := unlimited, expire := true, key := key }).newScion sess k })))
    ∧ (∀ o c body k, s.chip.keyStarts id 3 2 [] false o → c = s.chip.orderBegun id o → body = o.bytes.drop 16 → k = rd body 1 1 → k ≤ 127 →
      (k < 2 → exec (.invalidate id) s = .next { s with chip := c.keyOver id stRefused [] })
      ∧ (2 ≤ k → exec (.invalidate id) s = .next { s with chip := ((c.keyOver id stDone (leBytes (c.invalidateSlot k).1 1)).invalidateSlot k).2 }))
    ∧ (∀ (c : Chip) (k j : Nat) (x : VSlot), (c.takeSlot k x).vslot k = x ∧ (j ≠ k → (c.takeSlot k x).vslot j = c.vslot j) ∧ ((c.vslot k).count ≠ unlimited → ((c.spend k).vslot k).count = (c.vslot k).count - 1)
        ∧ ((c.vslot k).count = unlimited → c.spend k = c) ∧ mget 0 (c.newScion j k).mbx.rxCounter j = 0 ∧ mget 0 (c.newScion j k).mbx.txCounter j = 0
        ∧ (c.keyValid k = true → (c.invalidateSlot k).1 = (c.descent k).length ∧ (c.invalidateSlot k).2.get VLT_STAT_SCRUB_BUSY = 1) ∧ (c.keyValid k = false → c.invalidateSlot k = (0, c))
        ∧ k ∈ c.descent k ∧ (c.children [k] = (c.vault.slots.filter (fun e => decide (2 ≤ e.1) && !e.2.installed && decide (e.2.parent = k) && decide (e.1 ≠ k))).map (·.1)))
    ∧ (s.chip.vault.scrub = [] → exec .slotScrubDone s = .next s)
    ∧ (∀ k l, s.chip.vault.scrub = k :: l → ∃ t : Chip, exec .slotScrubDone s = .next { s with chip := t } ∧ t.vault.scrub = l ∧ t.get VLT_STAT_SCRUB_BUSY = if l = [] then 0 else s.chip.get VLT_STAT_SCRUB_BUSY)

/-- PROVISION, SEAL, UNSEAL and LOAD_PUB: when each is performed, the key that is stored and the docket. PROVISION while it is open
and its destination free stores the key as an installed one with its USES and COUNT, and Porter then derives the ledger scion
(R559); otherwise REFUSED. It is open only while no installed key grants DERIVE, through JTAG, or as tunnel 0 data from the
serving head within 10 s of the last admission. SEAL of a valid KIND 1 slot that is not EXPIRE gives the 72-byte blob under the
seal scion with a nonce from the TRNG (a free value); other slots are REFUSED. UNSEAL stores the blob's key as an installed one,
or is REFUSED for a wrong MAGIC or tag. LOAD_PUB stores a key whose digest is the fused one, else REFUSED. Rests on R513, R520,
R521, R522, R556, R559. -/
def Obligations.KeyMaterial : Prop :=
  ∀ (id : SlotId) (s : State),
    (∀ o c body dest, s.chip.keyStarts id 4 41 [3, 4] false o → c = s.chip.orderBegun id o → body = o.bytes.drop 16 → dest = rd body 1 1 → (dest ≤ 127 ∨ dest = 255) →
      (c.provisionOpen o.path = false ∨ c.destination dest = none → exec (.provision id) s = .next { s with chip := c.keyOver id stRefused [] })
      ∧ (∀ k, c.provisionOpen o.path = true → c.destination dest = some k → ∀ d, d = (c.takeSlot k ⟨1, rd body 2 1, 0, true, rd body 5 4, false, slice body 9 32⟩).keyOver id stDone (leBytes k 1) →
        ((d.vault.ledgerKey ≠ 0 ∨ d.deriveLedger.vault.ledgerKey = 0) → exec (.provision id) s = .next { s with chip := d.deriveLedger })
        ∧ (d.vault.ledgerKey = 0 → d.deriveLedger.vault.ledgerKey ≠ 0 → exec (.provision id) s = .next ((State.applyOwnRecord { s with chip := d.deriveLedger }).withChip (fun c => c.publish)))))
    ∧ (∀ (c : Chip) (n : BitVec 16), c.provisionOpen .jtag = c.rowKey.isNone ∧ (∀ t, c.boot.admitted = some t →
          c.provisionOpen (.tunnel0 n) = (c.rowKey.isNone && (c.fromServingHead n.toNat && decide (c.tick ≤ t + 12000000000))))
        ∧ (c.boot.admitted = none → c.provisionOpen (.tunnel0 n) = false))
    ∧ (∀ o c k, s.chip.keyStarts id 5 2 [] false o → c = s.chip.orderBegun id o → k = rd (o.bytes.drop 16) 1 1 → k ≤ 127 →
      (c.keyValid k = false ∨ (c.vslot k).kind ≠ 1 ∨ (c.vslot k).expire = true ∨ c.keyValid 0 = false ∨ c.vault.trngBad = true → exec (.seal id) s = .next { s with chip := c.keyOver id stRefused [] })
      ∧ (c.keyValid k = true → (c.vslot k).kind = 1 → (c.vslot k).expire = false → c.keyValid 0 = true → c.vault.trngBad = false →
        exec (.seal id) s = .next { s with chip := (c.random 12).2.keyOver id stDone (sealBlob (scion (c.keyBytes 0) labelSeal c.startContext) (c.vslot k) (c.random 12).1) }))
    ∧ (∀ key nonce (x : VSlot), nonce.length = 12 → (sealBlob key x nonce).length = 72 ∧ rd (sealBlob key x nonce) 0 4 = 0x4C454153 ∧ rd (sealBlob key x nonce) 6 1 = x.uses % 256 ∧ rd (sealBlob key x nonce) 8 4 = x.count % 2 ^ 32
        ∧ slice (sealBlob key x nonce) 12 12 = nonce)
    ∧ (∀ o c body dest, s.chip.keyStarts id 6 77 [2, 3, 4] false o → c = s.chip.orderBegun id o → body = o.bytes.drop 16 → dest = rd body 1 1 → (dest ≤ 127 ∨ dest = 255) →
      (c.destination dest = none ∨ c.openBlob (slice body 5 72) = none → exec (.unseal id) s = .next { s with chip := c.keyOver id stRefused [] })
      ∧ (∀ k x, c.destination dest = some k → c.openBlob (slice body 5 72) = some x →
        exec (.unseal id) s = .next { s with chip := ((c.takeSlot k x).keyOver id stDone (leBytes k 1)).deriveLedger }))
    ∧ (∀ (c : Chip) blob, c.keyValid 0 = false ∨ rd blob 0 4 ≠ 0x4C454153 ∨ padTo (Config.gcmTag c.sealKey (slice blob 12 12) (slice blob 0 24) (slice blob 24 32)) 16 ≠ slice blob 56 16 → c.openBlob blob = none)
    ∧ (∀ (c : Chip) blob x, c.openBlob blob = some x → x.kind = 1 ∧ x.installed = true ∧ x.uses = rd blob 6 1 ∧ x.count = rd blob 8 4 ∧ x.expire = false)
    ∧ (∀ o c body dest hash, s.chip.keyStarts id 7 101 [2, 3, 4] false o → c = s.chip.orderBegun id o → body = o.bytes.drop 16 → dest = rd body 1 1 → (dest ≤ 127 ∨ dest = 255) →
      hash = (List.range 12).flatMap (fun k => leBytes (c.get (VLT_VKEY_HASH_HASH k)) 4) →
      (c.destination dest = none ∨ padTo (Config.sha384 (slice body 5 96)) 48 ≠ hash → exec (.loadPub id) s = .next { s with chip := c.keyOver id stRefused [] })
      ∧ (∀ k, c.destination dest = some k → padTo (Config.sha384 (slice body 5 96)) 48 = hash →
        exec (.loadPub id) s = .next { s with chip := (c.takeSlot k ⟨3, 64, 0, true, unlimited, false, slice body 5 96⟩).keyOver id stDone (leBytes k 1) }))

/-- ATTEST, ATTEST_PUB, INFO, ENROL_PUF, HELPER_READ, DEBUG; tamper and the TRNG's health. ATTEST signs the report of Table 21.5
with the attestation key, its k from the TRNG (a free value); without a key or a healthy TRNG it is REFUSED. ATTEST_PUB and INFO
return what the Vault holds. ENROL_PUF is refused unless ROOTSTOCK is 0 and PUF_FAIL is 1 or 2, and then makes a new rootstock
(free values). HELPER_READ returns a stretch of the buffer. DEBUG gives a challenge that one response answers. An enabled tamper
source that becomes active erases every slot, sets TAMPERED and signals TAMPER; one that is not enabled does not. A failed
health test stops every random value until 1,024 samples have passed. Rests on R512, R514, R522, R523, R524, R525, R526. -/
def Obligations.AttestInfoAndDebug : Prop :=
  ∀ (id : SlotId) (src : Fin 4) (s : State),
    (∀ o c, s.chip.keyStarts id 8 36 [1, 2, 3] true o → c = s.chip.orderBegun id o →
      (c.keyValid 1 = false ∨ c.vault.trngBad = true → exec (.attest id) s = .next { s with chip := c.keyOver id stRefused [] })
      ∧ (c.keyValid 1 = true → c.vault.trngBad = false → ∀ report, report = c.attestReport (slice (o.bytes.drop 16) 4 32) →
        exec (.attest id) s = .next { s with chip := (c.random 48).2.keyOver id stDone (report ++ padTo (Config.ecdsaSign (c.keyBytes 1) (Config.sha384 report) (c.random 48).1) 96) }))
    ∧ (∀ o c, s.chip.keyStarts id 9 1 [] true o → c = s.chip.orderBegun id o →
      exec (.attestPub id) s = .next { s with chip := if c.keyValid 1 then c.keyOver id stDone (padTo (Config.ecdsaPub (c.keyBytes 1)) 96) else c.keyOver id stRefused [] })
    ∧ (∀ o c k, s.chip.keyStarts id 10 2 [] true o → c = s.chip.orderBegun id o → k = rd (o.bytes.drop 16) 1 1 → k ≤ 127 →
      exec (.info id) s = .next { s with chip := c.keyOver id stDone (leBytes (c.slotAttr k) 4 ++ leBytes (c.vslot k).count 4) })
    ∧ (∀ o c, s.chip.keyStarts id 11 1 [] false o → c = s.chip.orderBegun id o →
      (c.get VLT_STAT_ROOTSTOCK = 1 ∨ c.get VLT_STAT_PUF_FAIL = 0 ∨ 2 < c.get VLT_STAT_PUF_FAIL ∨ c.vault.trngBad = true → exec (.enrolPuf id) s = .next { s with chip := c.keyOver id stRefused [] })
      ∧ (c.get VLT_STAT_ROOTSTOCK ≠ 1 → 1 ≤ c.get VLT_STAT_PUF_FAIL → c.get VLT_STAT_PUF_FAIL ≤ 2 → c.vault.trngBad = false → ∀ r y h d, r = c.random 32 → y = r.2.random 4000 → h = c.helperData r.1 y.1 →
        d = Chip.root { y.2 with vault := { y.2.vault with helper := h } } r.1 →
        d.get VLT_STAT_ROOTSTOCK = 1 ∧ exec (.enrolPuf id) s = .next { s with chip := (d.storeHelper h).keyOver id stDone (leBytes 4096 2 ++ slice h 4092 4) }))
    ∧ (∀ o c off len, s.chip.keyStarts id 13 6 [1] false o → c = s.chip.orderBegun id o → off = rd (o.bytes.drop 16) 2 2 → len = rd (o.bytes.drop 16) 4 2 →
      (len = 0 ∨ 1000 < len ∨ 4096 < off + len → exec (.helperRead id) s = .next { s with chip := c.docketReady id stBadArgs [] })
      ∧ (1 ≤ len → len ≤ 1000 → off + len ≤ 4096 → exec (.helperRead id) s = .next { s with chip := if c.vault.helper = [] then c.keyOver id stRefused [] else c.keyOver id stDone (slice c.vault.helper off len) }))
    ∧ (∀ o c, s.chip.keyStarts id 12 20 [2, 3] true o → c = s.chip.orderBegun id o →
      (rd (o.bytes.drop 16) 1 1 = 1 → exec (.debug id) s = .next { s with chip := c.debugTry id (slice (o.bytes.drop 16) 4 16) })
      ∧ (rd (o.bytes.drop 16) 1 1 = 0 → c.vault.trngBad = true → exec (.debug id) s = .next { s with chip := c.keyOver id stRefused [] })
      ∧ (rd (o.bytes.drop 16) 1 1 = 0 → c.vault.trngBad = false → ∀ t, t = (c.random 16).2 → exec (.debug id) s = .next { s with
          chip := Chip.keyOver { t with vault := { t.vault with challenge := some (c.random 16).1 } } id stDone (c.random 16).1 }))
    ∧ (∀ (c : Chip) resp, c.vault.challenge = none → c.debugTry id resp = (c.inc VLT_REFUSE_CNT).docketReady id stAuthFail [])
    ∧ (∀ (c : Chip) resp ch k, c.vault.challenge = some ch → k ∈ c.debugStocks → resp = padTo (Config.cmac (scion (c.keyBytes k) labelDebug (padTo c.uidBytes 32)) ch) 16 →
        ∃ d : Chip, d.get VLT_STAT_DEBUG_OPEN = 1 ∧ d.vault.challenge = none ∧ c.debugTry id resp = d.keyOver id stDone [])
    ∧ (∀ c, c = s.chip.setBitOf VLT_TAMPER_ACTIVE src →
      (bit (c.get VLT_TAMPER_EN) src = false ∨ c.domainOn 15 = false → exec (.tamper src) s = .next { s with chip := c })
      ∧ (bit (c.get VLT_TAMPER_EN) src = true → c.domainOn 15 = true → ∃ t : Chip, t.vault.slots = [] ∧ t.vault.scions = [] ∧ t.get VLT_STAT_TAMPERED = 1 ∧ t.get VLT_STAT_ROOTSTOCK = 0 ∧ t.get VLT_TAMPER_CNT = min (c.get VLT_TAMPER_CNT + 1) (2 ^ VLT_TAMPER_CNT.width - 1)
        ∧ exec (.tamper src) s = .next { s with chip := ((t.live causeTamper true).shutter causeTamper).unitFailed 4 255 5 }))
    ∧ (∀ c, c = s.chip.clrBitOf VLT_TAMPER_ACTIVE src → exec (.tamperSourceInactive src) s = .next { s with chip := c.live causeTamper (c.get VLT_TAMPER_EN &&& c.get VLT_TAMPER_ACTIVE != 0) })
    ∧ (∃ t : Chip, t.vault.trngBad = true ∧ exec .trngFail s = .next { s with chip := t.unitFailed 4 255 5 })
    ∧ exec .trngSamplesPassed s = .next { s with chip := { s.chip with vault := { s.chip.vault with trngBad := false } } }

/-- PUT_BLOCK and VERIFY_IMAGE: segments join a reception, the steps stop at the first failure, the unit is staged. PUT_BLOCK that
starts returns BAD_ARGS for a body outside Table 22.4, AUTH_FAIL for a plain segment that shows an unbound image, REFUSED for a
unit in an armed planting; otherwise it stores the bytes, and a block that is complete with a wrong CRC is discarded, counted
and BAD_ARGS; every docket carries the number of missing blocks. Bytes outside the segment are kept. VERIFY_IMAGE that starts
returns BAD_ARGS for a body or unit out of range, AUTH_FAIL for a plain order with a key; with the file complete it returns the
status of the first failing step, counted, or stores the record, stages the unit and returns DONE with REV; without a transfer
it stages from the stored record (log entry 23). Rests on R528, R530, R531, R532, R533. -/
def Obligations.TransferAndVerification : Prop :=
  ∀ (id : SlotId) (s : State),
    (∀ o c body, s.chip.starts id 0x30 anyBody o → c = s.chip.orderBegun id o → body = o.bytes.drop 16 →
      (putOk (rd o.bytes 7 1) body = false → exec (.putBlock id) s = .next (State.putOver { s with chip := c } id stBadArgs))
      ∧ (putOk (rd o.bytes 7 1) body = true →
        (c.isPlain o = true → showsUnbound body = true → exec (.putBlock id) s = .next (State.putOver { s with chip := c } id stAuthFail))
        ∧ (¬(c.isPlain o = true ∧ showsUnbound body = true) → c.planted (rd body 0 1) (rd body 1 1) = true → exec (.putBlock id) s = .next (State.putOver { s with chip := c } id stRefused))
        ∧ (¬(c.isPlain o = true ∧ showsUnbound body = true) → c.planted (rd body 0 1) (rd body 1 1) = false →
          ∃ t : State, exec (.putBlock id) s = .next t ∧ t.pending = s.pending ∧ t.mem = Memory.setBytes s.mem (stagingBase + rd body 4 4) (body.drop 16)
            ∧ (∀ a, a < stagingBase + rd body 4 4 ∨ stagingBase + rd body 4 4 + (body.length - 16) ≤ a → Memory.byte t.mem a = Memory.byte s.mem a))))
    ∧ (∀ unit body, putOk unit body = true → unitOf (rd body 0 1) = some unit ∧ rd body 0 1 ≠ 1 ∧ rd body 0 1 ≠ 8 ∧ 257 ≤ rd body 8 4 ∧ rd body 8 4 ≤ 8388608 ∧ rd body 4 4 + (body.length - 16) ≤ rd body 8 4
        ∧ rd body 4 4 % 4096 + (body.length - 16) ≤ 4096 ∧ 17 ≤ body.length ∧ body.length ≤ 1008)
    ∧ (∀ (u : State) (body : List Byte) (r : Reception), u.chip.upd.reception = none → body.length ≠ 16 → r = ⟨rd body 0 1, rd body 1 1, rd body 8 4, [(rd body 4 4, (body.drop 16).length)]⟩ → r.has (rd body 4 4 / 4096) = false →
        u.takeSegment id body = State.docketReady { u with mem := Memory.setBytes u.mem (stagingBase + rd body 4 4) (body.drop 16), chip := u.chip.setReception (some r) } id stDone (leBytes r.missing 2))
    ∧ (∀ (u : State) st r, u.chip.upd.reception = some r → u.putOver id st = u.docketReady id st (leBytes r.missing 2))
    ∧ (∀ o c body kind inst key, s.chip.starts id 0x31 anyBody o → c = s.chip.orderBegun id o → body = o.bytes.drop 16 → kind = rd body 0 1 → inst = rd body 1 1 → key = rd body 2 1 →
      (body.length ≠ 4 ∨ rd body 3 1 ≠ 0 ∨ unitOf kind ≠ some (rd o.bytes 7 1) ∨ instOk kind inst = false ∨ (127 < key ∧ key ≠ 255) → exec (.verifyImage id) s = .next { s with chip := c.verifyFailed id stBadArgs })
      ∧ (body.length = 4 → rd body 3 1 = 0 → unitOf kind = some (rd o.bytes 7 1) → instOk kind inst = true → (key ≤ 127 ∨ key = 255) →
        (c.isPlain o = true → key ≠ 255 → exec (.verifyImage id) s = .next { s with chip := c.verifyFailed id stAuthFail })
        ∧ ((c.isPlain o = false ∨ key = 255) →
          (State.received { s with chip := c } kind inst = none →
            exec (.verifyImage id) s = .next { s with chip := if c.receiving kind inst then c.verifyFailed id stBadArgs else c.verifyStored id kind inst })
          ∧ (∀ file, State.received { s with chip := c } kind inst = some file →
            (∀ st d, c.checkImage kind inst key (c.isPlain o) file = (.inl st, d) → exec (.verifyImage id) s = .next { s with chip := d.verifyFailed id st })
            ∧ (∀ e d, c.checkImage kind inst key (c.isPlain o) file = (.inr e, d) → (e.bound = true ∨ c.vault.trngBad = false) →
              exec (.verifyImage id) s = .next { s with chip := (((d.stageRecord e).setReception none).stage kind inst).docketReady id stDone (leBytes e.rev 4) })
            ∧ (∀ e d, c.checkImage kind inst key (c.isPlain o) file = (.inr e, d) → e.bound = false → c.vault.trngBad = true → exec (.verifyImage id) s = .next { s with chip := d.verifyFailed id stRefused })))))
    ∧ (∀ (c : Chip) kind inst key plain file h, h = slice file 0 160 →
      (updHeaderOk kind inst key file.length h = false → c.checkImage kind inst key plain file = (.inl stBadArgs, c))
      ∧ (updHeaderOk kind inst key file.length h = true → (plain = false ∨ updBound h = true) →
        (c.signedOk h (slice file (160 + updLen h) 96) = false ∨ padTo (Config.sha384 (slice file 160 (updLen h))) 48 ≠ slice h 96 48 → c.checkImage kind inst key plain file = (.inl stAuthFail, c))
        ∧ (c.signedOk h (slice file (160 + updLen h) 96) = true → padTo (Config.sha384 (slice file 160 (updLen h))) 48 = slice h 96 48 →
          (c.fits kind inst h = false ∨ (c.boundOnly = true ∧ updBound h = false) → c.checkImage kind inst key plain file = (.inl stRefused, c)))))
    ∧ (∀ (c : Chip) kind inst st, (kind, inst) ∈ (c.stage kind inst).upd.staged ∧ (c.get UPD_VERIFY_FAIL_CNT < 2 ^ 32 - 1 → ((c.inc UPD_VERIFY_FAIL_CNT).evt UPD_EVT_VERIFY_FAIL).get UPD_VERIFY_FAIL_CNT = c.get UPD_VERIFY_FAIL_CNT + 1)
        ∧ c.verifyFailed id st = ((c.inc UPD_VERIFY_FAIL_CNT).evt UPD_EVT_VERIFY_FAIL).docketReady id st [])

/-- PLANT, its cancelling, warning and instant; the swap of frozen cores; Shugon; the end of the health window. PLANT that starts is
BAD_ARGS outside Table 22.5, AUTH_FAIL for a plain one that names an unbound image, REFUSED in the cases of R534 (a bench in a
repair among them); else ARMED, its docket pending. CANCEL before the instant ends it: its own DONE, the cancelled one REFUSED.
From the warning event 8 is pending at the named units' hands and Steward. At the instant nothing is planted with chain time
invalid; else every unit is activated. Cores whose hands are all frozen are swapped. Shugon's end restarts the Vault where it
was rewritten. At the end of the window the first unhealthy unit fails the planting; else every unit becomes active, KEPT,
OUTCOME 0. Rests on R534, R535, R537, R538, R539, R515, R528. -/
def Obligations.Planting : Prop :=
  ∀ (id : SlotId) (s : State),
    (∀ o c body t units, s.chip.starts id 0x32 (fun b => !isCancel b) o → c = s.chip.orderBegun id o → body = o.bytes.drop 16 → t = rd body 0 8 → units = plantUnits body →
      (plantOk (rd o.bytes 7 1) body = false → exec (.plant id) s = .next { s with chip := c.docketReady id stBadArgs [] })
      ∧ (plantOk (rd o.bytes 7 1) body = true →
        (c.isPlain o = true → c.namesUnbound units = true → exec (.plant id) s = .next { s with chip := c.docketReady id stAuthFail [] })
        ∧ ((c.isPlain o = false ∨ c.namesUnbound units = false) → c.plantRefused t units = true → exec (.plant id) s = .next { s with chip := c.docketReady id stRefused [] })
        ∧ ((c.isPlain o = false ∨ c.namesUnbound units = false) → c.plantRefused t units = false → ∃ d : Chip, exec (.plant id) s = .next { s with chip := d }
          ∧ d.upd.planting = some ⟨id, t, bit (rd body 9 1) 0, units, [], [], [], none⟩ ∧ d.get UPD_STAT_ARMED = 1 ∧ d.get UPD_STAT_PHASE = 1 ∧ d.get UPD_INSTANT_LO_NS = t % 2 ^ 32 ∧ d.slot id = c.slot id)))
    ∧ (∀ (c : Chip) t units (u : Nat × Nat), (c.upd.planting ≠ none ∨ (u ∈ units ∧ u ∉ c.upd.staged) ∨ t < c.ns + 1000000 * c.get UPD_TMR_PLANT_LEAD ∨ c.ns + 60000000000 < t) → c.plantRefused t units = true)
    ∧ (∀ o c body, s.chip.starts id 0x32 isCancel o → c = s.chip.orderBegun id o → body = o.bytes.drop 16 →
      (body.length ≠ 12 ∨ rd body 0 8 ≠ 0 ∨ rd body 8 1 ≠ 0 ∨ 3 < rd body 9 1 ∨ zeroBytes body [10, 11] = false ∨ rd o.bytes 7 1 ≠ 0 → exec (.plantCancel id) s = .next { s with chip := c.docketReady id stBadArgs [] })
      ∧ (body.length = 12 → rd body 0 8 = 0 → rd body 8 1 = 0 → rd body 9 1 ≤ 3 → zeroBytes body [10, 11] = true → rd o.bytes 7 1 = 0 →
        (c.upd.planting = none → exec (.plantCancel id) s = .next { s with chip := c.docketReady id stRefused [] })
        ∧ (∀ p, c.upd.planting = some p → exec (.plantCancel id) s = .next { s with chip := if c.beforeInstant then (c.docketReady id stDone []).disarm p else c.docketReady id stRefused [] })))
    ∧ (∀ (c : Chip) p d, d = (Chip.put { c with upd := { c.upd with planting := none } } UPD_STAT_ARMED 0).put UPD_STAT_PHASE 0 → c.disarm p = d.docketReady p.at_ stRefused [] ∧ d.upd.planting = none ∧ d.get UPD_STAT_ARMED = 0 ∧ d.get UPD_STAT_PHASE = 0)
    ∧ ((s.chip.upd.planting = none ∨ s.chip.get UPD_STAT_PHASE ≠ 1) → exec .plantWarn s = .next s)
    ∧ (∀ p, s.chip.upd.planting = some p → s.chip.ns + 100000 * s.chip.get UPD_TMR_PLANT_WARN < p.instant → exec .plantWarn s = .next s)
    ∧ (∀ p, s.chip.upd.planting = some p → s.chip.get UPD_STAT_PHASE = 1 → p.instant ≤ s.chip.ns + 100000 * s.chip.get UPD_TMR_PLANT_WARN → exec .plantWarn s = .next { s with chip := s.chip.put UPD_STAT_PHASE 2 })
    ∧ (∀ (c : Chip) p (h : HandId), c.upd.planting = some p → c.get UPD_STAT_PHASE = 2 → c.plantingWaits h = ((p.units.filterMap unitCore).contains (coreOf h) || decide (h.val = 65)))
    ∧ (s.chip.upd.rewriting = none → (s.chip.upd.planting = none ∨ s.chip.beforeInstant = false ∨ ∃ p, s.chip.upd.planting = some p ∧ s.chip.ns < p.instant) → exec .plantInstant s = .next s)
    ∧ (∀ p, s.chip.upd.planting = some p → s.chip.beforeInstant = true → p.instant ≤ s.chip.ns → ∀ t : State, t = { s with
        chip := if s.chip.on CTM_STAT_VALID then s.chip.activate_ p else (s.chip.evt UPD_EVT_NOT_PLANTED).disarm p } →
      exec .plantInstant s = .next (if s.chip.upd.rewriting.isNone then t.loadShugon else t))
    ∧ (∀ u : State, u.chip.upd.rewriting = none → u.loadShugon = u)
    ∧ ((s.chip.upd.planting = none ∨ (s.chip.get UPD_STAT_PHASE ≠ 3 ∧ s.chip.get UPD_STAT_PHASE ≠ 5)) → exec .plantFrozen s = .next s)
    ∧ (∀ p, s.chip.upd.planting = some p → (s.chip.get UPD_STAT_PHASE = 3 ∨ s.chip.get UPD_STAT_PHASE = 5) → (∀ k ∈ p.swapping, s.chip.allFrozen k = false) → exec .plantFrozen s = .next s)
    ∧ (∀ p k, s.chip.upd.planting = some p → s.chip.get UPD_STAT_PHASE = 3 → p.swapping = [k] → s.chip.allFrozen k = true → ∀ t : State, t = s.swapIn k p.keepData →
        exec .plantFrozen s = .next { t with chip := Chip.enterWindow { t.chip with upd := { t.chip.upd with planting := some { p with swapping := [] } } } { p with swapping := [] } })
    ∧ (∀ (c : Chip) (core : Nat), core < 16 → (c.swapCore core).get (BCH_STAT_ACT_BANK core) = (1 - c.get (BCH_STAT_ACT_BANK core)) % 2)
    ∧ (s.chip.upd.rewriting = none → exec .shugonRewriteDone s = .next s)
    ∧ (∀ k p e more, s.chip.upd.rewriting = some k → ∀ u t w : State, u = (if k = 4 then s.loadShugon.withChip Chip.vaultRestart else s.loadShugon) → u.chip.upd.planting = some p →
        u.chip.porterRecord (!decide (s.chip.get UPD_STAT_PHASE = 5) && p.units.contains (3, 255)) = some e → t = u.loadPorter e.item → more = (decide (k = 3) && p.units.contains (4, 255)) →
        w = (t.withChip (fun c => { c with upd := { c.upd with rewriting := if more then some 4 else none } })).withChip Chip.deriveLedger →
        exec .shugonRewriteDone s = .next (if s.chip.get UPD_STAT_PHASE = 5 ∧ more = false ∧ p.swapping = [] then w.withChip (fun c => c.rolledBack p) else w))
    ∧ ((s.chip.upd.planting = none ∨ s.chip.get UPD_STAT_PHASE ≠ 4) → exec .healthWindowEnd s = .next s)
    ∧ (∀ p, s.chip.upd.planting = some p → s.chip.get UPD_STAT_PHASE = 4 →
      (∀ u : Nat × Nat, p.units.find? (fun u => s.chip.unitCause p u != 0) = some u → exec .healthWindowEnd s = .next { s with chip := s.chip.unitFailed u.1 u.2 (s.chip.unitCause p u) })
      ∧ ((∀ u ∈ p.units, s.chip.unitCause p u = 0) → exec .healthWindowEnd s = .next { s with
          chip := ((((p.units.filter (fun u => u.1 != 2)).foldl (fun (c : Chip) u => c.flipItem u) s.chip).evt UPD_EVT_KEPT).publish).endPlanting p stDone (plantBody 0 0 0 0) }))
    ∧ (∀ (c : Chip) p b, bit (c.get UPD_HEALTH_OK) b = false → b < 16 → c.unitCause p (6, b) = 3)

/-- REPAIR: what every action refuses; MIGRATE and its copy, REMAP and ROOT_SWAP. A REPAIR order that starts returns BAD_ARGS for a
field out of range, and REFUSED while a repair or a power sequence runs or in its action's cases of R542. MIGRATE otherwise is
BUSY, freezes the bench's rings and sets a checkpoint at each hand. The copy waits until every hand is Frozen or Halted and no
tag or MOVE is open; then the spare holds the bench's data memory and active bank, every byte elsewhere but the old data memory
(zeroed) is kept, SPARE names the old bench, the migration is over and its docket ready, with LAT a free value. REMAP takes the
bank's next spare row, counts it, and returns the rows left. ROOT_SWAP makes the standby root the active one. Rests on R541,
R542, R543, R544, R549, R550, R551, R553. -/
def Obligations.RepairOrders : Prop :=
  ∀ (id : SlotId) (s : State),
    (∀ i action bad (refused : Chip → List Byte → Bool) o c body,
      ((i = .migrate id ∧ action = 1 ∧ bad = migrateBad ∧ refused = Chip.migrateRefused) ∨ (i = .spareLane id ∧ action = 2 ∧ bad = spareBad ∧ refused = fun c b => c.spareRefused (tport (rd b 1 1)) (rd b 2 1 == 0) (rd b 3 1))
        ∨ (i = .remap id ∧ action = 3 ∧ bad = remapBad ∧ refused = fun c b => !c.rowFree (rd b 1 1) (rd b 2 1) (rd b 4 2))
        ∨ (i = .rootSwap id ∧ action = 4 ∧ bad = (fun b => !zeroBytes b [1, 2, 3, 4, 5, 6, 7]) ∧ refused = fun c _ => !c.standbyReady)) →
      s.chip.starts id 0x90 (fun b => rd b 0 1 == action) o → c = s.chip.orderBegun id o → body = o.bytes.drop 16 →
      (bad body = true → exec i s = .next { s with chip := c.docketReady id stBadArgs [] })
      ∧ (bad body = false → c.get REP_STAT_BUSY = 1 ∨ c.power.seq ≠ none ∨ refused c body = true → exec i s = .next { s with chip := c.docketReady id stRefused [] }))
    ∧ (∀ o c body d, s.chip.starts id 0x90 (fun b => rd b 0 1 == 1) o → c = s.chip.orderBegun id o → body = o.bytes.drop 16 → migrateBad body = false → c.migrateRefused body = false → c.get REP_STAT_BUSY = 0 → c.power.seq = none →
        d = (c.put REP_STAT_BUSY 1).put REP_STAT_ACTION 1 → d.get REP_STAT_BUSY = 1 ∧
        exec (.migrate id) s = .next { s with
          chip := Chip.checkpointCore { d with rep := { d.rep with migration := some ⟨id, rd body 1 1, d.get BCH_SPARE_BENCH, bit (rd body 2 1) 0⟩ } } (rd body 1 1) })
    ∧ (∀ (c : Chip) (b : List Byte), (15 < c.get BCH_SPARE_BENCH ∨ rd b 1 1 = c.get BCH_SPARE_BENCH ∨ c.domainOn (coreDomain (rd b 1 1)) = false ∨ c.domainOn (coreDomain (c.get BCH_SPARE_BENCH)) = false
          ∨ c.planted 6 (rd b 1 1) = true) → c.migrateRefused b = true)
    ∧ ((s.chip.rep.migration = none ∨ ∃ m, s.chip.rep.migration = some m ∧ s.chip.mayCopy m.src = false) → exec .migrateCopy s = .next s)
    ∧ (∀ m, s.chip.rep.migration = some m → s.chip.mayCopy m.src = true → m.src < 16 → m.dst < 16 → m.src ≠ m.dst → Memory.wf s.mem = true →
        ∃ t c lat : _, exec .migrateCopy s = .next t ∧ t.pending = s.pending
          ∧ t.chip = Chip.docketReady c m.at_ stDone (leBytes m.src 1 ++ leBytes m.dst 1 ++ leBytes 0 2 ++ leBytes lat 4)
          ∧ c.get REP_STAT_BUSY = 0 ∧ c.get REP_MIG_FROM = m.src ∧ c.get REP_MIG_TO = m.dst ∧ c.rep.migration = none
          ∧ (∀ a, a < 2 ^ 20 → Memory.byte t.mem (dmemBase m.dst + a) = Memory.byte s.mem (dmemBase m.src + a) ∧ Memory.byte t.mem (dmemBase m.src + a) = 0))
    ∧ (∀ x h tick notify, (x.state ≠ .frozen → Hand.resumed x h tick notify = x) ∧ (x.state = .frozen → (Hand.resumed x h tick notify).state = x.frozenFrom ∧ (Hand.resumed x h tick notify).pc = x.pc ∧ (Hand.resumed x h tick notify).regs = x.regs
        ∧ ((x.frozenFrom = .run ∨ x.frozenFrom = .wait) → x.tvec ≠ 0 → notify = true → (Hand.resumed x h tick notify).pend0A = true)))
    ∧ (∀ o c body d, s.chip.starts id 0x90 (fun b => rd b 0 1 == 3) o → c = s.chip.orderBegun id o → body = o.bytes.drop 16 → remapBad body = false → c.rowFree (rd body 1 1) (rd body 2 1) (rd body 4 2) = true →
        c.get REP_STAT_BUSY = 0 → c.power.seq = none → d = Chip.remapRow ((c.put REP_STAT_BUSY 1).put REP_STAT_ACTION 3) (rd body 1 1) (rd body 2 1) (rd body 4 2) (rd body 6 2) →
        exec (.remap id) s = .next { s with chip := ((d.put REP_STAT_BUSY 0).put REP_STAT_ACTION 0).docketReady id stDone (leBytes (memSpares (rd body 1 1) - d.rowsUsed (rd body 1 1) (rd body 2 1) (rd body 4 2)) 2) })
    ∧ (∀ o c body d, s.chip.starts id 0x90 (fun b => rd b 0 1 == 4) o → c = s.chip.orderBegun id o → body = o.bytes.drop 16 → zeroBytes body [1, 2, 3, 4, 5, 6, 7] = true → c.standbyReady = true →
        c.get REP_STAT_BUSY = 0 → c.power.seq = none → d = (Chip.swapRoots ((c.put REP_STAT_BUSY 1).put REP_STAT_ACTION 4)).reviewClock →
        exec (.rootSwap id) s = .next { s with chip := ((d.put REP_STAT_BUSY 0).put REP_STAT_ACTION 0).docketReady id stDone (leBytes (d.get CLK_STAT_ROOT_ACT) 1) } ∧ d.get CLK_STAT_ALIGNED = 0
          ∧ (c.get CLK_STAT_ROOT_ACT ≤ 1 → d.get CLK_STAT_ROOT_ACT = 1 - c.get CLK_STAT_ROOT_ACT))

/-- SPARE_LANE and the sparing control flits: who mirrors, who asks, when each map switches, how an attempt ends. SPARE_LANE that is
not refused begins the attempt: with DIR 0 this end mirrors and sends SPARE, with DIR 1 it sends SPARE_ASK. A passed SPARE_ASK
makes this end mirror where it may. SPARE starts the dwell at the receiver. At the dwell's end a mismatch ends the attempt with
result 2; without one the receive map switches, SPARE_ACK goes out and SPARE_IN_USE_RX is 1. On SPARE_ACK of this attempt the
transmit map switches and SPARE_IN_USE_TX is 1. SPARE_NAK and SPARE_TMO end the attempt, which is SPARE_FAIL and, where it was
ordered, TIMEOUT with RESULT. AUTO_SPARE begins the same without a docket. Rests on R545, R546, R547, R548, R542. -/
def Obligations.LaneSparing : Prop :=
  ∀ (id : SlotId) (p : TPort) (flit : List RxBlock) (bytes : List Byte) (c0 : Chip) (s : State), s.chip.rxFlit p flit = (bytes, c0) →
    (∀ o c body d own a q, s.chip.starts id 0x90 (fun b => rd b 0 1 == 2) o → c = s.chip.orderBegun id o → body = o.bytes.drop 16 → spareBad body = false → p = tport (rd body 1 1) → own = (rd body 2 1 == 0) →
        c.spareRefused p own (rd body 3 1) = false → c.get REP_STAT_BUSY = 0 → c.power.seq = none → d = (c.put REP_STAT_BUSY 1).put REP_STAT_ACTION 2 → d.sparePair p own (rd body 3 1) = some (a, q) →
        exec (.spareLane id) s = .next { s with
          chip := Chip.sendCtl { d with rep := { d.rep with sparing := d.rep.sparing.set p (some ⟨some id, own, own, rd body 3 1, a, q⟩) } } p (.spare (if own then 6 else 5) (rd body 3 1) a q 0) })
    ∧ (∀ (c : Chip) own l, (c.laneState p ≠ laneUp ∨ (c.lane p).attempt ≠ .none ∨ c.sparePair p own l = none ∨ c.rep.sparing.get p ≠ none) → c.spareRefused p own l = true)
    ∧ (∀ w d k, c0.receive p bytes = (some w, d) → k = (hdrKind w = 1 ∧ ctlOf w = 5 ∧ rd w 5 1 = 1) →
      (¬k → exec (.spareAsk p flit) s = .next { s with chip := d })
      ∧ (k → d.spareRefused p true (rd w 8 1) = true → exec (.spareAsk p flit) s = .next { s with chip := d })
      ∧ (k → d.spareRefused p true (rd w 8 1) = false → ∀ a q, d.sparePair p true (rd w 8 1) = some (a, q) → exec (.spareAsk p flit) s = .next { s with chip := d.beginSparing p none true (rd w 8 1) a q }))
    ∧ (∀ d, c0.receive p bytes = (none, d) → exec (.spareAsk p flit) s = .next { s with chip := d } ∧ exec (.spare p flit) s = .next { s with chip := d } ∧ exec (.spareAck p flit) s = .next { s with chip := d } ∧ exec (.spareNak p flit) s = .next { s with chip := d })
    ∧ (∀ w d, c0.receive p bytes = (some w, d) → hdrKind w = 1 → ctlOf w = 6 → rd w 5 1 = 1 →
      (d.rep.sparing.get p = none → exec (.spare p flit) s = .next { s with chip := if d.steady p then d.setSparing p (some ⟨none, false, true, rd w 8 1, rd w 9 1, rd w 10 1⟩) else d })
      ∧ (∀ x, d.rep.sparing.get p = some x → x.transmits = false → x.logical = rd w 8 1 → exec (.spare p flit) s = .next { s with chip := d.setSparing p (some { x with copying := true, src := rd w 9 1, dst := rd w 10 1 }) }))
    ∧ (∀ clean, (s.chip.rep.sparing.get p = none → exec (.spareDwell p clean) s = .next s) ∧ (∀ x, s.chip.rep.sparing.get p = some x → x.transmits = false → x.copying = true →
      (clean = false → exec (.spareDwell p clean) s = .next { s with chip := s.chip.endSparing p 2 true })
      ∧ (clean = true → ∃ t : Chip, exec (.spareDwell p clean) s = .next { s with chip := t.spared p x } ∧ t.get (TRK_STAT_SPARE_IN_USE_RX p.num) = 1 ∧ t = ((s.chip.mapRx p x.logical x.src x.dst).sendCtl p (.spare 7 x.logical x.src x.dst 0)).put (TRK_STAT_SPARE_IN_USE_RX p.num) 1)))
    ∧ (∀ w d x, c0.receive p bytes = (some w, d) → hdrKind w = 1 → ctlOf w = 7 → rd w 5 1 = 1 → d.rep.sparing.get p = some x →
      (x.transmits = false ∨ x.logical ≠ rd w 8 1 ∨ x.src ≠ rd w 9 1 ∨ x.dst ≠ rd w 10 1 → exec (.spareAck p flit) s = .next { s with chip := d })
      ∧ (x.transmits = true → x.logical = rd w 8 1 → x.src = rd w 9 1 → x.dst = rd w 10 1 → ∃ t : Chip, exec (.spareAck p flit) s = .next { s with chip := t.spared p x } ∧ t.get (TRK_STAT_SPARE_IN_USE_TX p.num) = 1
          ∧ (x.logical < 8 → x.dst < 16 → t.get (TRK_LANE_MAP_TX_LOG p.num x.logical) = x.dst)))
    ∧ (∀ w d, c0.receive p bytes = (some w, d) → hdrKind w = 1 → ctlOf w = 8 → rd w 5 1 = 1 → (d.rep.sparing.get p ≠ none → exec (.spareNak p flit) s = .next { s with chip := d.endSparing p (rd w 11 1) false })
        ∧ (d.rep.sparing.get p = none → exec (.spareNak p flit) s = .next { s with chip := d.unspare p (rd w 8 1) (rd w 9 1) (rd w 10 1) }))
    ∧ exec (.spareTmo p) s = .next { s with chip := s.chip.endSparing p 1 true }
    ∧ (∀ (c : Chip) r, (c.rep.sparing.get p = none → ∀ nak, c.endSparing p r nak = c) ∧ (∀ x, c.rep.sparing.get p = some x → ∃ e : Chip, e.rep.sparing.get p = none
        ∧ c.endSparing p r false = (match x.at_ with | some id => e.repairOver id stTimeout [BitVec.ofNat 8 r] | none => e)))
    ∧ (∀ lane : Fin 9, ((s.chip.activeRx p).findIdx? (fun x => x == lane.val) = none → exec (.autoSpare p lane) s = .next s)
      ∧ (∀ l, (s.chip.activeRx p).findIdx? (fun x => x == lane.val) = some l →
        (s.chip.get REP_CTL_AUTO_SPARE = 0 ∨ s.chip.get REP_STAT_BUSY = 1 ∨ s.chip.power.seq ≠ none ∨ s.chip.spareRefused p false l = true → exec (.autoSpare p lane) s = .next s)
        ∧ (∀ a q, s.chip.get REP_CTL_AUTO_SPARE ≠ 0 → s.chip.get REP_STAT_BUSY ≠ 1 → s.chip.power.seq = none → s.chip.spareRefused p false l = false → s.chip.sparePair p false l = some (a, q) →
          exec (.autoSpare p lane) s = .next { s with chip := s.chip.beginSparing p none false l a q })))

/-- A step runs the command at the front of the queue on the state with the queue's rest. For every command c and state s with c at
the front of its queue, step s is exec c on s with the queue's rest. On an empty queue one CLK_FAB cycle passes and nothing else
of the queue or the addressed memories changes (a choice of the model: log entry 2). Rests on ISA_SPEC.md, the commands of
spec/opcode_table.json, R1. -/
def Obligations.StepTakesTheFront : Prop :=
  ∀ (c : Instr) (rest : List Instr) (s : State),
    (s.pending = c :: rest → step s = exec c { s with pending := rest })
    ∧ (s.pending = [] → ∃ t : Chip, step s = .next { s with chip := t })

/-- What reset leaves: an empty queue, no order, no session, every hand Halted, the stance SERVICE, an empty log. At reset no
command waits, no byte of an addressed memory is listed and every one reads 0 (that a byte nothing has written reads 0 is the
model's choice: log entry 5), every hand is Halted, every mailbox slot is free with generation 0, no key slot is valid, no
port's link is in service, the stance is SERVICE, the event log is empty, and the canonical form of the addressed memories
holds. Rests on R9, R239, R350, R367, R569, R564. -/
def Obligations.ResetLeaves : Prop :=
  State.reset.pending = [] ∧ State.reset.mem = [] ∧ State.reset.Inv
  ∧ (∀ h : HandId, (State.reset.chip.hand h).state = .halted)
  ∧ (∀ id : SlotId, State.reset.chip.slot id = ⟨0, none, none⟩)
  ∧ (∀ k : Nat, State.reset.chip.keyValid k = false)
  ∧ (∀ p : TPort, (State.reset.chip.link p).state = .down ∧ State.reset.chip.laneState p = 0)
  ∧ State.reset.chip.get GLB_STANCE_STANCE = 0 ∧ State.reset.chip.get LOG_STAT_HEAD = 0 ∧ State.reset.chip.get LOG_STAT_TAIL = 0 ∧ State.reset.chip.get LOG_STAT_FULL = 0
  ∧ State.reset.chip.shuttered = (State.reset.chip.get FLD_SHUT_STAT_SHUT == 1)
  ∧ (∀ a, Memory.byte State.reset.mem a = 0)

/-- Every step answers a next state, takes exactly the front command, and keeps the addressed memories' canonical form. No command
stops the block: from every state, a step answers a next state. Where the addressed memories are in their canonical form before
it, they are after it; and the queue after it is the queue before it without its front command, so no command adds, drops or
reorders the commands that wait. Rests on R1, R6, R247, R250. -/
def Obligations.EveryStepGoesOn : Prop :=
  ∀ s : State, ∃ t : State, step s = .next t ∧ t.pending = s.pending.tail ∧ (s.Inv → t.Inv)

/-- An order command acts only on a slot that holds such an order waiting, and past the DEADLINE it returns TIMEOUT. For each order
that Porter performs: where its slot holds no such order waiting, the command changes nothing. Where it does and the order's
DEADLINE has passed, the docket is TIMEOUT with an empty body and nothing else is done. After ALLOT STAGE and COMMIT the head's
own requests are reviewed. READ_CSR, WRITE_CSR and READ_CSR_BLOCK also need a free tag of Porter's, without which they change
nothing. Rests on R362, R363. -/
def Obligations.OrdersStartInTurn : Prop :=
  ∀ (id : SlotId) (i : Instr) (code : Nat) (row : List Byte → Bool) (s : State),
    (((i = .tunnelOpen id ∧ code = 0x20 ∧ row = anyBody) ∨ (i = .tunnelClose id ∧ code = 0x21 ∧ row = anyBody) ∨ (i = .putBlock id ∧ code = 0x30 ∧ row = anyBody) ∨ (i = .verifyImage id ∧ code = 0x31 ∧ row = anyBody)
      ∨ (i = .plant id ∧ code = 0x32 ∧ row = fun b => !isCancel b) ∨ (i = .plantCancel id ∧ code = 0x32 ∧ row = isCancel)
      ∨ (∃ k, code = 0x40 ∧ row = phaseIs k ∧ ((i = .allotRequest id ∧ k = 0) ∨ (i = .allotCancel id ∧ k = 3)))
      ∨ (∃ k, code = 0x50 ∧ row = actionIs k ∧ ((i = .trellisAdmit id ∧ k = 1) ∨ (i = .trellisPrune id ∧ k = 2) ∨ (i = .trellisOverride id ∧ k = 3)))
      ∨ (i = .shutterRelease id ∧ code = 0x60 ∧ row = anyBody)
      ∨ (∃ k, code = 0x70 ∧ row = (fun b => rd b 0 1 == k) ∧ ((i = .derive id ∧ k = 1) ∨ (i = .session id ∧ k = 2) ∨ (i = .invalidate id ∧ k = 3) ∨ (i = .provision id ∧ k = 4) ∨ (i = .seal id ∧ k = 5) ∨ (i = .unseal id ∧ k = 6)
        ∨ (i = .loadPub id ∧ k = 7) ∨ (i = .attest id ∧ k = 8) ∨ (i = .attestPub id ∧ k = 9) ∨ (i = .info id ∧ k = 10) ∨ (i = .enrolPuf id ∧ k = 11) ∨ (i = .debug id ∧ k = 12) ∨ (i = .helperRead id ∧ k = 13)))
      ∨ (i = .readLog id ∧ code = 0x80 ∧ row = anyBody)
      ∨ (∃ k, code = 0x90 ∧ row = (fun b => rd b 0 1 == k) ∧ ((i = .migrate id ∧ k = 1) ∨ (i = .spareLane id ∧ k = 2) ∨ (i = .remap id ∧ k = 3) ∨ (i = .rootSwap id ∧ k = 4)))
      ∨ (∃ k, code = 0xA0 ∧ row = (fun b => rd b 0 1 == k) ∧ ((i = .enter id ∧ k = 1) ∨ (i = .leave id ∧ k = 2)))
      ∨ (s.chip.handTag 64 ≠ none ∧ row = anyBody ∧ ((i = .readCsr id ∧ code = 1) ∨ (i = .writeCsr id ∧ code = 2) ∨ (i = .readCsrBlock id ∧ code = 3)))) →
    (s.chip.orderAt id code row = none → exec i s = .next s)
    ∧ (∀ o, s.chip.orderAt id code row = some o → rd o.bytes 8 8 ≠ 0 → rd o.bytes 8 8 ≤ s.chip.ns → exec i s = .next { s with chip := s.chip.docketReady id stTimeout [] }))
    ∧ (((i = .allotStage id ∧ row = phaseIs 1) ∨ (i = .allotCommit id ∧ row = phaseIs 2)) →
      (s.chip.orderAt id 0x40 row = none → exec i s = .next { s with chip := s.chip.allotReview })
      ∧ (∀ o, s.chip.orderAt id 0x40 row = some o → rd o.bytes 8 8 ≠ 0 → rd o.bytes 8 8 ≤ s.chip.ns → exec i s = .next { s with chip := (s.chip.docketReady id stTimeout []).allotReview }))
end

