-- ==== Sys2Proof/Laws/Map.lean ====
section
/-! SUPPORT. The laws of the sparse maps: what a key reads after a write or a removal, and that every operation keeps the canonical
form. -/

namespace Sys2Proof.Laws
open Sys2Proof.Machine

variable {α : Type}

theorem mget_mput_same (d : α) (m : SMap α) (k : Nat) (v : α) : mget d (mput m k v) k = v := by
  induction m with
  | nil => simp [mput, mget]
  | cons e r ih =>
    obtain ⟨k', v'⟩ := e
    simp only [mput]
    split
    · simp [mget]
    · split
      · simp [mget]
      · rename_i h
        simp [mget, h, ih]

theorem mget_mput_other (d : α) (m : SMap α) (k j : Nat) (v : α) (h : j ≠ k) : mget d (mput m k v) j = mget d m j := by
  induction m with
  | nil => simp [mput, mget, h]
  | cons e r ih =>
    obtain ⟨k', v'⟩ := e
    simp only [mput]
    split
    · simp [mget, h]
    · split
      · rename_i hk
        subst hk
        simp [mget, h]
      · simp [mget, ih]

theorem mget_mdel_same (d : α) (m : SMap α) (k : Nat) : mget d (mdel m k) k = d := by
  induction m with
  | nil => rfl
  | cons e r ih =>
    obtain ⟨k', v'⟩ := e
    simp only [mdel]
    split
    · exact ih
    · rename_i hk
      simp [mget, hk, ih]

theorem mget_mdel_other (d : α) (m : SMap α) (k j : Nat) (h : j ≠ k) : mget d (mdel m k) j = mget d m j := by
  induction m with
  | nil => rfl
  | cons e r ih =>
    obtain ⟨k', v'⟩ := e
    simp only [mdel]
    split
    · rename_i hk
      subst hk
      simp [mget, h, ih]
    · simp [mget, ih]

variable [DecidableEq α]

theorem mwfFrom_mono {d : α} {lo lo' : Nat} {m : SMap α} (h : mwfFrom d lo m = true) (hl : lo' ≤ lo) : mwfFrom d lo' m = true := by
  cases m with
  | nil => rfl
  | cons e r =>
    obtain ⟨k, v⟩ := e
    simp only [mwfFrom, Bool.and_eq_true, decide_eq_true_eq] at h ⊢
    exact ⟨⟨by omega, h.1.2⟩, h.2⟩

/-- A key below every listed key reads the default. -/
theorem mget_below {d : α} {lo : Nat} {m : SMap α} (h : mwfFrom d lo m = true) (k : Nat) (hk : k < lo) : mget d m k = d := by
  induction m generalizing lo with
  | nil => rfl
  | cons e r ih =>
    obtain ⟨k', v⟩ := e
    simp only [mwfFrom, Bool.and_eq_true, decide_eq_true_eq] at h
    have hne : k ≠ k' := by omega
    simp only [mget, hne, if_false]
    exact ih h.2 (by omega)

theorem mwfFrom_mdel {d : α} {lo : Nat} {m : SMap α} (k : Nat) (h : mwfFrom d lo m = true) : mwfFrom d lo (mdel m k) = true := by
  induction m generalizing lo with
  | nil => rfl
  | cons e r ih =>
    obtain ⟨k', v⟩ := e
    simp only [mwfFrom, Bool.and_eq_true, decide_eq_true_eq] at h
    simp only [mdel]
    split
    · exact mwfFrom_mono (ih h.2) (by omega)
    · simp only [mwfFrom, Bool.and_eq_true, decide_eq_true_eq]
      exact ⟨h.1, ih h.2⟩

theorem mwfFrom_mput {d : α} {lo : Nat} {m : SMap α} {k : Nat} {v : α} (h : mwfFrom d lo m = true) (hk : lo ≤ k) (hv : v ≠ d) :
    mwfFrom d lo (mput m k v) = true := by
  induction m generalizing lo with
  | nil => simp [mput, mwfFrom, hk, hv]
  | cons e r ih =>
    obtain ⟨k', v'⟩ := e
    have h' := h
    simp only [mwfFrom, Bool.and_eq_true, decide_eq_true_eq] at h'
    simp only [mput]
    split
    · rename_i hlt
      simp only [mwfFrom, Bool.and_eq_true, decide_eq_true_eq]
      exact ⟨⟨hk, hv⟩, ⟨by omega, h'.1.2⟩, h'.2⟩
    · split
      · rename_i hlt heq
        subst heq
        simp only [mwfFrom, Bool.and_eq_true, decide_eq_true_eq]
        exact ⟨⟨hk, hv⟩, h'.2⟩
      · simp only [mwfFrom, Bool.and_eq_true, decide_eq_true_eq]
        exact ⟨h'.1, ih h'.2 (by omega)⟩

theorem mwf_mset {d : α} {m : SMap α} (k : Nat) (v : α) (h : mwf d m = true) : mwf d (mset d m k v) = true := by
  unfold mset
  split
  · exact mwfFrom_mdel k h
  · rename_i hv
    exact mwfFrom_mput h (by omega) hv

theorem mwfFrom_filter {d : α} {lo : Nat} {m : SMap α} (p : Nat × α → Bool) (h : mwfFrom d lo m = true) :
    mwfFrom d lo (m.filter p) = true := by
  induction m generalizing lo with
  | nil => rfl
  | cons e r ih =>
    obtain ⟨k, v⟩ := e
    simp only [mwfFrom, Bool.and_eq_true, decide_eq_true_eq] at h
    simp only [List.filter_cons]
    split
    · simp only [mwfFrom, Bool.and_eq_true, decide_eq_true_eq]
      exact ⟨h.1, ih h.2⟩
    · exact mwfFrom_mono (ih h.2) (by omega)

theorem mwf_filter {d : α} {m : SMap α} (p : Nat × α → Bool) (h : mwf d m = true) : mwf d (m.filter p) = true := mwfFrom_filter p h

/-- A write is read back. -/
theorem mget_mset_same (d : α) (m : SMap α) (k : Nat) (v : α) : mget d (mset d m k v) k = v := by
  unfold mset
  split
  · rename_i hv
    rw [hv]
    exact mget_mdel_same d m k
  · exact mget_mput_same d m k v

/-- A write leaves every other key alone. -/
theorem mget_mset_other (d : α) (m : SMap α) (k j : Nat) (v : α) (h : j ≠ k) : mget d (mset d m k v) j = mget d m j := by
  unfold mset
  split
  · exact mget_mdel_other d m k j h
  · exact mget_mput_other d m k j v h

/-- A filter keeps what it passes and sets the rest to the default. -/
theorem mget_filter {d : α} {m : SMap α} (p : Nat → Bool) (h : mwf d m = true) (k : Nat) :
    mget d (m.filter (fun e => p e.1)) k = if p k then mget d m k else d := by
  unfold mwf at h
  generalize 0 = lo at h
  induction m generalizing lo with
  | nil => simp [mget]
  | cons e r ih =>
    obtain ⟨k', v⟩ := e
    simp only [mwfFrom, Bool.and_eq_true, decide_eq_true_eq] at h
    simp only [List.filter_cons]
    by_cases hk : k = k'
    · subst hk
      split
      · simp_all [mget]
      · rename_i hp
        rw [ih _ h.2]
        simp only [Bool.not_eq_true] at hp
        simp [hp]
    · split
      · simp only [mget, hk, if_false]
        exact ih _ h.2
      · simp only [mget, hk, if_false]
        exact ih _ h.2

theorem mwf_foldl_mset {β : Type} {d : α} (f : β → Nat) (g : β → α) (l : List β) (m : SMap α) (h : mwf d m = true) :
    mwf d (l.foldl (fun m e => mset d m (f e) (g e)) m) = true := by
  induction l generalizing m with
  | nil => exact h
  | cons e r ih => exact ih _ (mwf_mset _ _ h)

end Sys2Proof.Laws
end

