-- ==== Sys2Proof/Laws/Memory.lean ====
section
/-! SUPPORT. The laws of the addressed memories: read after write, what a write or a clear leaves alone, and that every memory
operation keeps the canonical form. -/

namespace Sys2Proof.Laws
open Sys2Proof Sys2Proof.Machine

variable {m : Memory}

theorem wf_setByte (a : Nat) (v : Byte) (h : Memory.wf m = true) : Memory.wf (Memory.setByte m a v) = true := mwf_mset a v h

theorem byte_setByte_same (a : Nat) (v : Byte) : Memory.byte (Memory.setByte m a v) a = v := mget_mset_same Memory.blank m a v

theorem byte_setByte_other (a b : Nat) (v : Byte) (h : b ≠ a) : Memory.byte (Memory.setByte m a v) b = Memory.byte m b :=
  mget_mset_other Memory.blank m a b v h

theorem wf_setBytes (a : Nat) (bs : List Byte) (h : Memory.wf m = true) : Memory.wf (Memory.setBytes m a bs) = true := by
  induction bs generalizing m a with
  | nil => exact h
  | cons b r ih => exact ih _ (wf_setByte a b h)

theorem byte_setBytes_outside (a : Nat) (bs : List Byte) (b : Nat) (h : b < a ∨ a + bs.length ≤ b) :
    Memory.byte (Memory.setBytes m a bs) b = Memory.byte m b := by
  induction bs generalizing m a with
  | nil => rfl
  | cons x r ih =>
    simp only [List.length_cons] at h
    simp only [Memory.setBytes]
    rw [ih _ (by omega), byte_setByte_other a b x (by omega)]

theorem byte_setBytes_inside (a : Nat) (bs : List Byte) (i : Nat) (hi : i < bs.length) :
    Memory.byte (Memory.setBytes m a bs) (a + i) = bs[i] := by
  induction bs generalizing m a i with
  | nil => simp at hi
  | cons x r ih =>
    simp only [Memory.setBytes]
    cases i with
    | zero =>
      rw [byte_setBytes_outside (a + 1) r (a + 0) (by omega)]
      exact byte_setByte_same a x
    | succ i =>
      have := ih (m := Memory.setByte m a x) (a + 1) i (by simpa using hi)
      rw [show a + (i + 1) = a + 1 + i by omega, this]
      rfl

@[simp] theorem length_leBytes (v k : Nat) : (leBytes v k).length = k := by simp [leBytes]

theorem wf_write (a k v : Nat) (h : Memory.wf m = true) : Memory.wf (Memory.write m a k v) = true := wf_setBytes a _ h

theorem byte_write_outside (a k v b : Nat) (h : b < a ∨ a + k ≤ b) :
    Memory.byte (Memory.write m a k v) b = Memory.byte m b := by
  unfold Memory.write
  exact byte_setBytes_outside a _ b (by simpa using h)

theorem byte_write_inside (a k v i : Nat) (hi : i < k) :
    Memory.byte (Memory.write m a k v) (a + i) = BitVec.ofNat 8 (v / 256 ^ i) := by
  unfold Memory.write
  rw [byte_setBytes_inside a _ i (by simpa using hi)]
  simp [leBytes]

/-- The number that the bytes of a number carry, at its width. -/
theorem leNat_leBytes (v k : Nat) : leNat (leBytes v k) = v % 256 ^ k := by
  induction k generalizing v with
  | zero => simp [leBytes, leNat, Nat.mod_one]
  | succ k ih =>
    have hs : leBytes v (k + 1) = BitVec.ofNat 8 v :: leBytes (v / 256) k := by
      simp only [leBytes, List.range_succ_eq_map, List.map_cons, List.map_map]
      congr 1
      · simp
      · apply List.map_congr_left
        intro i _
        simp only [Function.comp, Nat.succ_eq_add_one]
        rw [Nat.pow_succ, Nat.mul_comm, Nat.div_div_eq_div_mul]
    rw [hs, leNat, ih, Nat.pow_succ, Nat.mul_comm (256 ^ k) 256, Nat.mod_mul]
    simp

/-- A number written is read back, at its width. -/
theorem read_write_same (a k v : Nat) : Memory.read (Memory.write m a k v) a k = v % 256 ^ k := by
  unfold Memory.read
  rw [← leNat_leBytes]
  congr 1
  unfold Memory.bytes
  simp only [leBytes]
  apply List.map_congr_left
  intro i hi
  exact byte_write_inside a k v i (List.mem_range.mp hi)

/-- A write leaves a number read elsewhere alone. -/
theorem read_write_other (a k v b j : Nat) (h : b + j ≤ a ∨ a + k ≤ b) :
    Memory.read (Memory.write m a k v) b j = Memory.read m b j := by
  unfold Memory.read Memory.bytes
  congr 1
  apply List.map_congr_left
  intro i hi
  have := List.mem_range.mp hi
  exact byte_write_outside a k v (b + i) (by omega)

theorem wf_clear (lo hi : Nat) (h : Memory.wf m = true) : Memory.wf (Memory.clear m lo hi) = true := mwf_filter _ h

/-- A clear makes its range read as memory that nothing has written, and leaves every other byte alone. -/
theorem byte_clear (lo hi a : Nat) (h : Memory.wf m = true) :
    Memory.byte (Memory.clear m lo hi) a = if lo ≤ a ∧ a < hi then Memory.blank else Memory.byte m a := by
  unfold Memory.clear Memory.byte
  rw [mget_filter (fun k => !(decide (lo ≤ k) && decide (k < hi))) h]
  by_cases h1 : lo ≤ a <;> by_cases h2 : a < hi <;> simp [h1, h2]

theorem wf_ldxWords (w a code v : Nat) (h : Memory.wf m = true) : Memory.wf (Memory.ldxWords m w a code v) = true := by
  unfold Memory.ldxWords
  simp only
  split
  · exact wf_write _ _ _ (wf_write _ _ _ h)
  · exact wf_write _ _ _ h

theorem mwf_moveKeys {α : Type} [DecidableEq α] {d : α} {m : SMap α} (a b n : Nat) (h : mwf d m = true) :
    mwf d (moveKeys d m a b n) = true := by
  unfold moveKeys
  exact mwf_foldl_mset _ _ _ _ (mwf_filter _ h)

theorem mwf_copyKeys {α : Type} [DecidableEq α] {d : α} {m : SMap α} (a b n : Nat) (h : mwf d m = true) :
    mwf d (copyKeys d m a b n) = true := by
  unfold copyKeys
  exact mwf_foldl_mset _ _ _ _ (mwf_filter _ h)

end Sys2Proof.Laws
end

