-- ==== Sys2Proof/Laws/State.lean ====
section
/-! SUPPORT. One lemma per field for every named update of the state, so that no proof unfolds a record update; and what the numbered
records read after a write. -/

namespace Sys2Proof.Laws
open Sys2Proof Sys2Proof.Machine

/-! ### Chip.put -/

@[simp] theorem put_locks (s : Chip) (f : Fld) (v : Nat) : (s.put f v).locks = s.locks := rfl
@[simp] theorem put_lanes (s : Chip) (f : Fld) (v : Nat) : (s.put f v).lanes = s.lanes := rfl
@[simp] theorem put_links (s : Chip) (f : Fld) (v : Nat) : (s.put f v).links = s.links := rfl
@[simp] theorem put_sw (s : Chip) (f : Fld) (v : Nat) : (s.put f v).sw = s.sw := rfl
@[simp] theorem put_tuns (s : Chip) (f : Fld) (v : Nat) : (s.put f v).tuns = s.tuns := rfl
@[simp] theorem put_cores (s : Chip) (f : Fld) (v : Nat) : (s.put f v).cores = s.cores := rfl
@[simp] theorem put_braid (s : Chip) (f : Fld) (v : Nat) : (s.put f v).braid = s.braid := rfl
@[simp] theorem put_chain (s : Chip) (f : Fld) (v : Nat) : (s.put f v).chain = s.chain := rfl
@[simp] theorem put_mbx (s : Chip) (f : Fld) (v : Nat) : (s.put f v).mbx = s.mbx := rfl
@[simp] theorem put_log (s : Chip) (f : Fld) (v : Nat) : (s.put f v).log = s.log := rfl
@[simp] theorem put_latches (s : Chip) (f : Fld) (v : Nat) : (s.put f v).latches = s.latches := rfl
@[simp] theorem put_field (s : Chip) (f : Fld) (v : Nat) : (s.put f v).field = s.field := rfl
@[simp] theorem put_boot (s : Chip) (f : Fld) (v : Nat) : (s.put f v).boot = s.boot := rfl
@[simp] theorem put_vault (s : Chip) (f : Fld) (v : Nat) : (s.put f v).vault = s.vault := rfl
@[simp] theorem put_upd (s : Chip) (f : Fld) (v : Nat) : (s.put f v).upd = s.upd := rfl
@[simp] theorem put_rep (s : Chip) (f : Fld) (v : Nat) : (s.put f v).rep = s.rep := rfl
@[simp] theorem put_ends (s : Chip) (f : Fld) (v : Nat) : (s.put f v).ends = s.ends := rfl
@[simp] theorem put_hvi (s : Chip) (f : Fld) (v : Nat) : (s.put f v).hvi = s.hvi := rfl
@[simp] theorem put_docks (s : Chip) (f : Fld) (v : Nat) : (s.put f v).docks = s.docks := rfl
@[simp] theorem put_power (s : Chip) (f : Fld) (v : Nat) : (s.put f v).power = s.power := rfl
@[simp] theorem put_tink (s : Chip) (f : Fld) (v : Nat) : (s.put f v).tink = s.tink := rfl
@[simp] theorem put_tick (s : Chip) (f : Fld) (v : Nat) : (s.put f v).tick = s.tick := rfl
@[simp] theorem put_free (s : Chip) (f : Fld) (v : Nat) : (s.put f v).free = s.free := rfl
@[simp] theorem put_outbox (s : Chip) (f : Fld) (v : Nat) : (s.put f v).outbox = s.outbox := rfl

/-! ### Chip.addSat -/

@[simp] theorem addSat_locks (s : Chip) (f : Fld) (n : Nat) : (s.addSat f n).locks = s.locks := rfl
@[simp] theorem addSat_lanes (s : Chip) (f : Fld) (n : Nat) : (s.addSat f n).lanes = s.lanes := rfl
@[simp] theorem addSat_links (s : Chip) (f : Fld) (n : Nat) : (s.addSat f n).links = s.links := rfl
@[simp] theorem addSat_sw (s : Chip) (f : Fld) (n : Nat) : (s.addSat f n).sw = s.sw := rfl
@[simp] theorem addSat_tuns (s : Chip) (f : Fld) (n : Nat) : (s.addSat f n).tuns = s.tuns := rfl
@[simp] theorem addSat_cores (s : Chip) (f : Fld) (n : Nat) : (s.addSat f n).cores = s.cores := rfl
@[simp] theorem addSat_braid (s : Chip) (f : Fld) (n : Nat) : (s.addSat f n).braid = s.braid := rfl
@[simp] theorem addSat_chain (s : Chip) (f : Fld) (n : Nat) : (s.addSat f n).chain = s.chain := rfl
@[simp] theorem addSat_mbx (s : Chip) (f : Fld) (n : Nat) : (s.addSat f n).mbx = s.mbx := rfl
@[simp] theorem addSat_log (s : Chip) (f : Fld) (n : Nat) : (s.addSat f n).log = s.log := rfl
@[simp] theorem addSat_latches (s : Chip) (f : Fld) (n : Nat) : (s.addSat f n).latches = s.latches := rfl
@[simp] theorem addSat_field (s : Chip) (f : Fld) (n : Nat) : (s.addSat f n).field = s.field := rfl
@[simp] theorem addSat_boot (s : Chip) (f : Fld) (n : Nat) : (s.addSat f n).boot = s.boot := rfl
@[simp] theorem addSat_vault (s : Chip) (f : Fld) (n : Nat) : (s.addSat f n).vault = s.vault := rfl
@[simp] theorem addSat_upd (s : Chip) (f : Fld) (n : Nat) : (s.addSat f n).upd = s.upd := rfl
@[simp] theorem addSat_rep (s : Chip) (f : Fld) (n : Nat) : (s.addSat f n).rep = s.rep := rfl
@[simp] theorem addSat_ends (s : Chip) (f : Fld) (n : Nat) : (s.addSat f n).ends = s.ends := rfl
@[simp] theorem addSat_hvi (s : Chip) (f : Fld) (n : Nat) : (s.addSat f n).hvi = s.hvi := rfl
@[simp] theorem addSat_docks (s : Chip) (f : Fld) (n : Nat) : (s.addSat f n).docks = s.docks := rfl
@[simp] theorem addSat_power (s : Chip) (f : Fld) (n : Nat) : (s.addSat f n).power = s.power := rfl
@[simp] theorem addSat_tink (s : Chip) (f : Fld) (n : Nat) : (s.addSat f n).tink = s.tink := rfl
@[simp] theorem addSat_tick (s : Chip) (f : Fld) (n : Nat) : (s.addSat f n).tick = s.tick := rfl
@[simp] theorem addSat_free (s : Chip) (f : Fld) (n : Nat) : (s.addSat f n).free = s.free := rfl
@[simp] theorem addSat_outbox (s : Chip) (f : Fld) (n : Nat) : (s.addSat f n).outbox = s.outbox := rfl

/-! ### Chip.inc -/

@[simp] theorem inc_locks (s : Chip) (f : Fld) : (s.inc f).locks = s.locks := rfl
@[simp] theorem inc_lanes (s : Chip) (f : Fld) : (s.inc f).lanes = s.lanes := rfl
@[simp] theorem inc_links (s : Chip) (f : Fld) : (s.inc f).links = s.links := rfl
@[simp] theorem inc_sw (s : Chip) (f : Fld) : (s.inc f).sw = s.sw := rfl
@[simp] theorem inc_tuns (s : Chip) (f : Fld) : (s.inc f).tuns = s.tuns := rfl
@[simp] theorem inc_cores (s : Chip) (f : Fld) : (s.inc f).cores = s.cores := rfl
@[simp] theorem inc_braid (s : Chip) (f : Fld) : (s.inc f).braid = s.braid := rfl
@[simp] theorem inc_chain (s : Chip) (f : Fld) : (s.inc f).chain = s.chain := rfl
@[simp] theorem inc_mbx (s : Chip) (f : Fld) : (s.inc f).mbx = s.mbx := rfl
@[simp] theorem inc_log (s : Chip) (f : Fld) : (s.inc f).log = s.log := rfl
@[simp] theorem inc_latches (s : Chip) (f : Fld) : (s.inc f).latches = s.latches := rfl
@[simp] theorem inc_field (s : Chip) (f : Fld) : (s.inc f).field = s.field := rfl
@[simp] theorem inc_boot (s : Chip) (f : Fld) : (s.inc f).boot = s.boot := rfl
@[simp] theorem inc_vault (s : Chip) (f : Fld) : (s.inc f).vault = s.vault := rfl
@[simp] theorem inc_upd (s : Chip) (f : Fld) : (s.inc f).upd = s.upd := rfl
@[simp] theorem inc_rep (s : Chip) (f : Fld) : (s.inc f).rep = s.rep := rfl
@[simp] theorem inc_ends (s : Chip) (f : Fld) : (s.inc f).ends = s.ends := rfl
@[simp] theorem inc_hvi (s : Chip) (f : Fld) : (s.inc f).hvi = s.hvi := rfl
@[simp] theorem inc_docks (s : Chip) (f : Fld) : (s.inc f).docks = s.docks := rfl
@[simp] theorem inc_power (s : Chip) (f : Fld) : (s.inc f).power = s.power := rfl
@[simp] theorem inc_tink (s : Chip) (f : Fld) : (s.inc f).tink = s.tink := rfl
@[simp] theorem inc_tick (s : Chip) (f : Fld) : (s.inc f).tick = s.tick := rfl
@[simp] theorem inc_free (s : Chip) (f : Fld) : (s.inc f).free = s.free := rfl
@[simp] theorem inc_outbox (s : Chip) (f : Fld) : (s.inc f).outbox = s.outbox := rfl

/-! ### Chip.addWrap -/

@[simp] theorem addWrap_locks (s : Chip) (f : Fld) (n : Nat) : (s.addWrap f n).locks = s.locks := rfl
@[simp] theorem addWrap_lanes (s : Chip) (f : Fld) (n : Nat) : (s.addWrap f n).lanes = s.lanes := rfl
@[simp] theorem addWrap_links (s : Chip) (f : Fld) (n : Nat) : (s.addWrap f n).links = s.links := rfl
@[simp] theorem addWrap_sw (s : Chip) (f : Fld) (n : Nat) : (s.addWrap f n).sw = s.sw := rfl
@[simp] theorem addWrap_tuns (s : Chip) (f : Fld) (n : Nat) : (s.addWrap f n).tuns = s.tuns := rfl
@[simp] theorem addWrap_cores (s : Chip) (f : Fld) (n : Nat) : (s.addWrap f n).cores = s.cores := rfl
@[simp] theorem addWrap_braid (s : Chip) (f : Fld) (n : Nat) : (s.addWrap f n).braid = s.braid := rfl
@[simp] theorem addWrap_chain (s : Chip) (f : Fld) (n : Nat) : (s.addWrap f n).chain = s.chain := rfl
@[simp] theorem addWrap_mbx (s : Chip) (f : Fld) (n : Nat) : (s.addWrap f n).mbx = s.mbx := rfl
@[simp] theorem addWrap_log (s : Chip) (f : Fld) (n : Nat) : (s.addWrap f n).log = s.log := rfl
@[simp] theorem addWrap_latches (s : Chip) (f : Fld) (n : Nat) : (s.addWrap f n).latches = s.latches := rfl
@[simp] theorem addWrap_field (s : Chip) (f : Fld) (n : Nat) : (s.addWrap f n).field = s.field := rfl
@[simp] theorem addWrap_boot (s : Chip) (f : Fld) (n : Nat) : (s.addWrap f n).boot = s.boot := rfl
@[simp] theorem addWrap_vault (s : Chip) (f : Fld) (n : Nat) : (s.addWrap f n).vault = s.vault := rfl
@[simp] theorem addWrap_upd (s : Chip) (f : Fld) (n : Nat) : (s.addWrap f n).upd = s.upd := rfl
@[simp] theorem addWrap_rep (s : Chip) (f : Fld) (n : Nat) : (s.addWrap f n).rep = s.rep := rfl
@[simp] theorem addWrap_ends (s : Chip) (f : Fld) (n : Nat) : (s.addWrap f n).ends = s.ends := rfl
@[simp] theorem addWrap_hvi (s : Chip) (f : Fld) (n : Nat) : (s.addWrap f n).hvi = s.hvi := rfl
@[simp] theorem addWrap_docks (s : Chip) (f : Fld) (n : Nat) : (s.addWrap f n).docks = s.docks := rfl
@[simp] theorem addWrap_power (s : Chip) (f : Fld) (n : Nat) : (s.addWrap f n).power = s.power := rfl
@[simp] theorem addWrap_tink (s : Chip) (f : Fld) (n : Nat) : (s.addWrap f n).tink = s.tink := rfl
@[simp] theorem addWrap_tick (s : Chip) (f : Fld) (n : Nat) : (s.addWrap f n).tick = s.tick := rfl
@[simp] theorem addWrap_free (s : Chip) (f : Fld) (n : Nat) : (s.addWrap f n).free = s.free := rfl
@[simp] theorem addWrap_outbox (s : Chip) (f : Fld) (n : Nat) : (s.addWrap f n).outbox = s.outbox := rfl

/-! ### Chip.setBitOf -/

@[simp] theorem setBitOf_locks (s : Chip) (f : Fld) (i : Nat) : (s.setBitOf f i).locks = s.locks := rfl
@[simp] theorem setBitOf_lanes (s : Chip) (f : Fld) (i : Nat) : (s.setBitOf f i).lanes = s.lanes := rfl
@[simp] theorem setBitOf_links (s : Chip) (f : Fld) (i : Nat) : (s.setBitOf f i).links = s.links := rfl
@[simp] theorem setBitOf_sw (s : Chip) (f : Fld) (i : Nat) : (s.setBitOf f i).sw = s.sw := rfl
@[simp] theorem setBitOf_tuns (s : Chip) (f : Fld) (i : Nat) : (s.setBitOf f i).tuns = s.tuns := rfl
@[simp] theorem setBitOf_cores (s : Chip) (f : Fld) (i : Nat) : (s.setBitOf f i).cores = s.cores := rfl
@[simp] theorem setBitOf_braid (s : Chip) (f : Fld) (i : Nat) : (s.setBitOf f i).braid = s.braid := rfl
@[simp] theorem setBitOf_chain (s : Chip) (f : Fld) (i : Nat) : (s.setBitOf f i).chain = s.chain := rfl
@[simp] theorem setBitOf_mbx (s : Chip) (f : Fld) (i : Nat) : (s.setBitOf f i).mbx = s.mbx := rfl
@[simp] theorem setBitOf_log (s : Chip) (f : Fld) (i : Nat) : (s.setBitOf f i).log = s.log := rfl
@[simp] theorem setBitOf_latches (s : Chip) (f : Fld) (i : Nat) : (s.setBitOf f i).latches = s.latches := rfl
@[simp] theorem setBitOf_field (s : Chip) (f : Fld) (i : Nat) : (s.setBitOf f i).field = s.field := rfl
@[simp] theorem setBitOf_boot (s : Chip) (f : Fld) (i : Nat) : (s.setBitOf f i).boot = s.boot := rfl
@[simp] theorem setBitOf_vault (s : Chip) (f : Fld) (i : Nat) : (s.setBitOf f i).vault = s.vault := rfl
@[simp] theorem setBitOf_upd (s : Chip) (f : Fld) (i : Nat) : (s.setBitOf f i).upd = s.upd := rfl
@[simp] theorem setBitOf_rep (s : Chip) (f : Fld) (i : Nat) : (s.setBitOf f i).rep = s.rep := rfl
@[simp] theorem setBitOf_ends (s : Chip) (f : Fld) (i : Nat) : (s.setBitOf f i).ends = s.ends := rfl
@[simp] theorem setBitOf_hvi (s : Chip) (f : Fld) (i : Nat) : (s.setBitOf f i).hvi = s.hvi := rfl
@[simp] theorem setBitOf_docks (s : Chip) (f : Fld) (i : Nat) : (s.setBitOf f i).docks = s.docks := rfl
@[simp] theorem setBitOf_power (s : Chip) (f : Fld) (i : Nat) : (s.setBitOf f i).power = s.power := rfl
@[simp] theorem setBitOf_tink (s : Chip) (f : Fld) (i : Nat) : (s.setBitOf f i).tink = s.tink := rfl
@[simp] theorem setBitOf_tick (s : Chip) (f : Fld) (i : Nat) : (s.setBitOf f i).tick = s.tick := rfl
@[simp] theorem setBitOf_free (s : Chip) (f : Fld) (i : Nat) : (s.setBitOf f i).free = s.free := rfl
@[simp] theorem setBitOf_outbox (s : Chip) (f : Fld) (i : Nat) : (s.setBitOf f i).outbox = s.outbox := rfl

/-! ### Chip.clrBitOf -/

@[simp] theorem clrBitOf_locks (s : Chip) (f : Fld) (i : Nat) : (s.clrBitOf f i).locks = s.locks := rfl
@[simp] theorem clrBitOf_lanes (s : Chip) (f : Fld) (i : Nat) : (s.clrBitOf f i).lanes = s.lanes := rfl
@[simp] theorem clrBitOf_links (s : Chip) (f : Fld) (i : Nat) : (s.clrBitOf f i).links = s.links := rfl
@[simp] theorem clrBitOf_sw (s : Chip) (f : Fld) (i : Nat) : (s.clrBitOf f i).sw = s.sw := rfl
@[simp] theorem clrBitOf_tuns (s : Chip) (f : Fld) (i : Nat) : (s.clrBitOf f i).tuns = s.tuns := rfl
@[simp] theorem clrBitOf_cores (s : Chip) (f : Fld) (i : Nat) : (s.clrBitOf f i).cores = s.cores := rfl
@[simp] theorem clrBitOf_braid (s : Chip) (f : Fld) (i : Nat) : (s.clrBitOf f i).braid = s.braid := rfl
@[simp] theorem clrBitOf_chain (s : Chip) (f : Fld) (i : Nat) : (s.clrBitOf f i).chain = s.chain := rfl
@[simp] theorem clrBitOf_mbx (s : Chip) (f : Fld) (i : Nat) : (s.clrBitOf f i).mbx = s.mbx := rfl
@[simp] theorem clrBitOf_log (s : Chip) (f : Fld) (i : Nat) : (s.clrBitOf f i).log = s.log := rfl
@[simp] theorem clrBitOf_latches (s : Chip) (f : Fld) (i : Nat) : (s.clrBitOf f i).latches = s.latches := rfl
@[simp] theorem clrBitOf_field (s : Chip) (f : Fld) (i : Nat) : (s.clrBitOf f i).field = s.field := rfl
@[simp] theorem clrBitOf_boot (s : Chip) (f : Fld) (i : Nat) : (s.clrBitOf f i).boot = s.boot := rfl
@[simp] theorem clrBitOf_vault (s : Chip) (f : Fld) (i : Nat) : (s.clrBitOf f i).vault = s.vault := rfl
@[simp] theorem clrBitOf_upd (s : Chip) (f : Fld) (i : Nat) : (s.clrBitOf f i).upd = s.upd := rfl
@[simp] theorem clrBitOf_rep (s : Chip) (f : Fld) (i : Nat) : (s.clrBitOf f i).rep = s.rep := rfl
@[simp] theorem clrBitOf_ends (s : Chip) (f : Fld) (i : Nat) : (s.clrBitOf f i).ends = s.ends := rfl
@[simp] theorem clrBitOf_hvi (s : Chip) (f : Fld) (i : Nat) : (s.clrBitOf f i).hvi = s.hvi := rfl
@[simp] theorem clrBitOf_docks (s : Chip) (f : Fld) (i : Nat) : (s.clrBitOf f i).docks = s.docks := rfl
@[simp] theorem clrBitOf_power (s : Chip) (f : Fld) (i : Nat) : (s.clrBitOf f i).power = s.power := rfl
@[simp] theorem clrBitOf_tink (s : Chip) (f : Fld) (i : Nat) : (s.clrBitOf f i).tink = s.tink := rfl
@[simp] theorem clrBitOf_tick (s : Chip) (f : Fld) (i : Nat) : (s.clrBitOf f i).tick = s.tick := rfl
@[simp] theorem clrBitOf_free (s : Chip) (f : Fld) (i : Nat) : (s.clrBitOf f i).free = s.free := rfl
@[simp] theorem clrBitOf_outbox (s : Chip) (f : Fld) (i : Nat) : (s.clrBitOf f i).outbox = s.outbox := rfl

/-! ### Chip.emit -/

@[simp] theorem emit_csr (s : Chip) (o : Out) : (s.emit o).csr = s.csr := rfl
@[simp] theorem emit_locks (s : Chip) (o : Out) : (s.emit o).locks = s.locks := rfl
@[simp] theorem emit_lanes (s : Chip) (o : Out) : (s.emit o).lanes = s.lanes := rfl
@[simp] theorem emit_links (s : Chip) (o : Out) : (s.emit o).links = s.links := rfl
@[simp] theorem emit_sw (s : Chip) (o : Out) : (s.emit o).sw = s.sw := rfl
@[simp] theorem emit_tuns (s : Chip) (o : Out) : (s.emit o).tuns = s.tuns := rfl
@[simp] theorem emit_cores (s : Chip) (o : Out) : (s.emit o).cores = s.cores := rfl
@[simp] theorem emit_braid (s : Chip) (o : Out) : (s.emit o).braid = s.braid := rfl
@[simp] theorem emit_chain (s : Chip) (o : Out) : (s.emit o).chain = s.chain := rfl
@[simp] theorem emit_mbx (s : Chip) (o : Out) : (s.emit o).mbx = s.mbx := rfl
@[simp] theorem emit_log (s : Chip) (o : Out) : (s.emit o).log = s.log := rfl
@[simp] theorem emit_latches (s : Chip) (o : Out) : (s.emit o).latches = s.latches := rfl
@[simp] theorem emit_field (s : Chip) (o : Out) : (s.emit o).field = s.field := rfl
@[simp] theorem emit_boot (s : Chip) (o : Out) : (s.emit o).boot = s.boot := rfl
@[simp] theorem emit_vault (s : Chip) (o : Out) : (s.emit o).vault = s.vault := rfl
@[simp] theorem emit_upd (s : Chip) (o : Out) : (s.emit o).upd = s.upd := rfl
@[simp] theorem emit_rep (s : Chip) (o : Out) : (s.emit o).rep = s.rep := rfl
@[simp] theorem emit_ends (s : Chip) (o : Out) : (s.emit o).ends = s.ends := rfl
@[simp] theorem emit_hvi (s : Chip) (o : Out) : (s.emit o).hvi = s.hvi := rfl
@[simp] theorem emit_docks (s : Chip) (o : Out) : (s.emit o).docks = s.docks := rfl
@[simp] theorem emit_power (s : Chip) (o : Out) : (s.emit o).power = s.power := rfl
@[simp] theorem emit_tink (s : Chip) (o : Out) : (s.emit o).tink = s.tink := rfl
@[simp] theorem emit_tick (s : Chip) (o : Out) : (s.emit o).tick = s.tick := rfl
@[simp] theorem emit_free (s : Chip) (o : Out) : (s.emit o).free = s.free := rfl
@[simp] theorem emit_get (s : Chip) (o : Out) (g : Fld) : (s.emit o).get g = s.get g := rfl

/-! ### Chip.latch -/

@[simp] theorem latch_csr (s : Chip) (a v : Nat) : (s.latch a v).csr = s.csr := rfl
@[simp] theorem latch_locks (s : Chip) (a v : Nat) : (s.latch a v).locks = s.locks := rfl
@[simp] theorem latch_lanes (s : Chip) (a v : Nat) : (s.latch a v).lanes = s.lanes := rfl
@[simp] theorem latch_links (s : Chip) (a v : Nat) : (s.latch a v).links = s.links := rfl
@[simp] theorem latch_sw (s : Chip) (a v : Nat) : (s.latch a v).sw = s.sw := rfl
@[simp] theorem latch_tuns (s : Chip) (a v : Nat) : (s.latch a v).tuns = s.tuns := rfl
@[simp] theorem latch_cores (s : Chip) (a v : Nat) : (s.latch a v).cores = s.cores := rfl
@[simp] theorem latch_braid (s : Chip) (a v : Nat) : (s.latch a v).braid = s.braid := rfl
@[simp] theorem latch_chain (s : Chip) (a v : Nat) : (s.latch a v).chain = s.chain := rfl
@[simp] theorem latch_mbx (s : Chip) (a v : Nat) : (s.latch a v).mbx = s.mbx := rfl
@[simp] theorem latch_log (s : Chip) (a v : Nat) : (s.latch a v).log = s.log := rfl
@[simp] theorem latch_field (s : Chip) (a v : Nat) : (s.latch a v).field = s.field := rfl
@[simp] theorem latch_boot (s : Chip) (a v : Nat) : (s.latch a v).boot = s.boot := rfl
@[simp] theorem latch_vault (s : Chip) (a v : Nat) : (s.latch a v).vault = s.vault := rfl
@[simp] theorem latch_upd (s : Chip) (a v : Nat) : (s.latch a v).upd = s.upd := rfl
@[simp] theorem latch_rep (s : Chip) (a v : Nat) : (s.latch a v).rep = s.rep := rfl
@[simp] theorem latch_ends (s : Chip) (a v : Nat) : (s.latch a v).ends = s.ends := rfl
@[simp] theorem latch_hvi (s : Chip) (a v : Nat) : (s.latch a v).hvi = s.hvi := rfl
@[simp] theorem latch_docks (s : Chip) (a v : Nat) : (s.latch a v).docks = s.docks := rfl
@[simp] theorem latch_power (s : Chip) (a v : Nat) : (s.latch a v).power = s.power := rfl
@[simp] theorem latch_tink (s : Chip) (a v : Nat) : (s.latch a v).tink = s.tink := rfl
@[simp] theorem latch_tick (s : Chip) (a v : Nat) : (s.latch a v).tick = s.tick := rfl
@[simp] theorem latch_free (s : Chip) (a v : Nat) : (s.latch a v).free = s.free := rfl
@[simp] theorem latch_outbox (s : Chip) (a v : Nat) : (s.latch a v).outbox = s.outbox := rfl
@[simp] theorem latch_get (s : Chip) (a v : Nat) (g : Fld) : (s.latch a v).get g = s.get g := rfl

/-! ### Chip.setLane -/

@[simp] theorem setLane_csr (s : Chip) (p : TPort) (x : LanePort) : (s.setLane p x).csr = s.csr := rfl
@[simp] theorem setLane_locks (s : Chip) (p : TPort) (x : LanePort) : (s.setLane p x).locks = s.locks := rfl
@[simp] theorem setLane_links (s : Chip) (p : TPort) (x : LanePort) : (s.setLane p x).links = s.links := rfl
@[simp] theorem setLane_sw (s : Chip) (p : TPort) (x : LanePort) : (s.setLane p x).sw = s.sw := rfl
@[simp] theorem setLane_tuns (s : Chip) (p : TPort) (x : LanePort) : (s.setLane p x).tuns = s.tuns := rfl
@[simp] theorem setLane_cores (s : Chip) (p : TPort) (x : LanePort) : (s.setLane p x).cores = s.cores := rfl
@[simp] theorem setLane_braid (s : Chip) (p : TPort) (x : LanePort) : (s.setLane p x).braid = s.braid := rfl
@[simp] theorem setLane_chain (s : Chip) (p : TPort) (x : LanePort) : (s.setLane p x).chain = s.chain := rfl
@[simp] theorem setLane_mbx (s : Chip) (p : TPort) (x : LanePort) : (s.setLane p x).mbx = s.mbx := rfl
@[simp] theorem setLane_log (s : Chip) (p : TPort) (x : LanePort) : (s.setLane p x).log = s.log := rfl
@[simp] theorem setLane_latches (s : Chip) (p : TPort) (x : LanePort) : (s.setLane p x).latches = s.latches := rfl
@[simp] theorem setLane_field (s : Chip) (p : TPort) (x : LanePort) : (s.setLane p x).field = s.field := rfl
@[simp] theorem setLane_boot (s : Chip) (p : TPort) (x : LanePort) : (s.setLane p x).boot = s.boot := rfl
@[simp] theorem setLane_vault (s : Chip) (p : TPort) (x : LanePort) : (s.setLane p x).vault = s.vault := rfl
@[simp] theorem setLane_upd (s : Chip) (p : TPort) (x : LanePort) : (s.setLane p x).upd = s.upd := rfl
@[simp] theorem setLane_rep (s : Chip) (p : TPort) (x : LanePort) : (s.setLane p x).rep = s.rep := rfl
@[simp] theorem setLane_ends (s : Chip) (p : TPort) (x : LanePort) : (s.setLane p x).ends = s.ends := rfl
@[simp] theorem setLane_hvi (s : Chip) (p : TPort) (x : LanePort) : (s.setLane p x).hvi = s.hvi := rfl
@[simp] theorem setLane_docks (s : Chip) (p : TPort) (x : LanePort) : (s.setLane p x).docks = s.docks := rfl
@[simp] theorem setLane_power (s : Chip) (p : TPort) (x : LanePort) : (s.setLane p x).power = s.power := rfl
@[simp] theorem setLane_tink (s : Chip) (p : TPort) (x : LanePort) : (s.setLane p x).tink = s.tink := rfl
@[simp] theorem setLane_tick (s : Chip) (p : TPort) (x : LanePort) : (s.setLane p x).tick = s.tick := rfl
@[simp] theorem setLane_free (s : Chip) (p : TPort) (x : LanePort) : (s.setLane p x).free = s.free := rfl
@[simp] theorem setLane_outbox (s : Chip) (p : TPort) (x : LanePort) : (s.setLane p x).outbox = s.outbox := rfl
@[simp] theorem setLane_get (s : Chip) (p : TPort) (x : LanePort) (g : Fld) : (s.setLane p x).get g = s.get g := rfl

/-! ### Chip.setLink -/

@[simp] theorem setLink_csr (s : Chip) (p : TPort) (x : LinkPort) : (s.setLink p x).csr = s.csr := rfl
@[simp] theorem setLink_locks (s : Chip) (p : TPort) (x : LinkPort) : (s.setLink p x).locks = s.locks := rfl
@[simp] theorem setLink_lanes (s : Chip) (p : TPort) (x : LinkPort) : (s.setLink p x).lanes = s.lanes := rfl
@[simp] theorem setLink_sw (s : Chip) (p : TPort) (x : LinkPort) : (s.setLink p x).sw = s.sw := rfl
@[simp] theorem setLink_tuns (s : Chip) (p : TPort) (x : LinkPort) : (s.setLink p x).tuns = s.tuns := rfl
@[simp] theorem setLink_cores (s : Chip) (p : TPort) (x : LinkPort) : (s.setLink p x).cores = s.cores := rfl
@[simp] theorem setLink_braid (s : Chip) (p : TPort) (x : LinkPort) : (s.setLink p x).braid = s.braid := rfl
@[simp] theorem setLink_chain (s : Chip) (p : TPort) (x : LinkPort) : (s.setLink p x).chain = s.chain := rfl
@[simp] theorem setLink_mbx (s : Chip) (p : TPort) (x : LinkPort) : (s.setLink p x).mbx = s.mbx := rfl
@[simp] theorem setLink_log (s : Chip) (p : TPort) (x : LinkPort) : (s.setLink p x).log = s.log := rfl
@[simp] theorem setLink_latches (s : Chip) (p : TPort) (x : LinkPort) : (s.setLink p x).latches = s.latches := rfl
@[simp] theorem setLink_field (s : Chip) (p : TPort) (x : LinkPort) : (s.setLink p x).field = s.field := rfl
@[simp] theorem setLink_boot (s : Chip) (p : TPort) (x : LinkPort) : (s.setLink p x).boot = s.boot := rfl
@[simp] theorem setLink_vault (s : Chip) (p : TPort) (x : LinkPort) : (s.setLink p x).vault = s.vault := rfl
@[simp] theorem setLink_upd (s : Chip) (p : TPort) (x : LinkPort) : (s.setLink p x).upd = s.upd := rfl
@[simp] theorem setLink_rep (s : Chip) (p : TPort) (x : LinkPort) : (s.setLink p x).rep = s.rep := rfl
@[simp] theorem setLink_ends (s : Chip) (p : TPort) (x : LinkPort) : (s.setLink p x).ends = s.ends := rfl
@[simp] theorem setLink_hvi (s : Chip) (p : TPort) (x : LinkPort) : (s.setLink p x).hvi = s.hvi := rfl
@[simp] theorem setLink_docks (s : Chip) (p : TPort) (x : LinkPort) : (s.setLink p x).docks = s.docks := rfl
@[simp] theorem setLink_power (s : Chip) (p : TPort) (x : LinkPort) : (s.setLink p x).power = s.power := rfl
@[simp] theorem setLink_tink (s : Chip) (p : TPort) (x : LinkPort) : (s.setLink p x).tink = s.tink := rfl
@[simp] theorem setLink_tick (s : Chip) (p : TPort) (x : LinkPort) : (s.setLink p x).tick = s.tick := rfl
@[simp] theorem setLink_free (s : Chip) (p : TPort) (x : LinkPort) : (s.setLink p x).free = s.free := rfl
@[simp] theorem setLink_outbox (s : Chip) (p : TPort) (x : LinkPort) : (s.setLink p x).outbox = s.outbox := rfl
@[simp] theorem setLink_get (s : Chip) (p : TPort) (x : LinkPort) (g : Fld) : (s.setLink p x).get g = s.get g := rfl

/-! ### Chip.setHand -/

@[simp] theorem setHand_csr (s : Chip) (h : HandId) (x : Hand) : (s.setHand h x).csr = s.csr := rfl
@[simp] theorem setHand_locks (s : Chip) (h : HandId) (x : Hand) : (s.setHand h x).locks = s.locks := rfl
@[simp] theorem setHand_lanes (s : Chip) (h : HandId) (x : Hand) : (s.setHand h x).lanes = s.lanes := rfl
@[simp] theorem setHand_links (s : Chip) (h : HandId) (x : Hand) : (s.setHand h x).links = s.links := rfl
@[simp] theorem setHand_sw (s : Chip) (h : HandId) (x : Hand) : (s.setHand h x).sw = s.sw := rfl
@[simp] theorem setHand_tuns (s : Chip) (h : HandId) (x : Hand) : (s.setHand h x).tuns = s.tuns := rfl
@[simp] theorem setHand_braid (s : Chip) (h : HandId) (x : Hand) : (s.setHand h x).braid = s.braid := rfl
@[simp] theorem setHand_chain (s : Chip) (h : HandId) (x : Hand) : (s.setHand h x).chain = s.chain := rfl
@[simp] theorem setHand_mbx (s : Chip) (h : HandId) (x : Hand) : (s.setHand h x).mbx = s.mbx := rfl
@[simp] theorem setHand_log (s : Chip) (h : HandId) (x : Hand) : (s.setHand h x).log = s.log := rfl
@[simp] theorem setHand_latches (s : Chip) (h : HandId) (x : Hand) : (s.setHand h x).latches = s.latches := rfl
@[simp] theorem setHand_field (s : Chip) (h : HandId) (x : Hand) : (s.setHand h x).field = s.field := rfl
@[simp] theorem setHand_boot (s : Chip) (h : HandId) (x : Hand) : (s.setHand h x).boot = s.boot := rfl
@[simp] theorem setHand_vault (s : Chip) (h : HandId) (x : Hand) : (s.setHand h x).vault = s.vault := rfl
@[simp] theorem setHand_upd (s : Chip) (h : HandId) (x : Hand) : (s.setHand h x).upd = s.upd := rfl
@[simp] theorem setHand_rep (s : Chip) (h : HandId) (x : Hand) : (s.setHand h x).rep = s.rep := rfl
@[simp] theorem setHand_ends (s : Chip) (h : HandId) (x : Hand) : (s.setHand h x).ends = s.ends := rfl
@[simp] theorem setHand_hvi (s : Chip) (h : HandId) (x : Hand) : (s.setHand h x).hvi = s.hvi := rfl
@[simp] theorem setHand_docks (s : Chip) (h : HandId) (x : Hand) : (s.setHand h x).docks = s.docks := rfl
@[simp] theorem setHand_power (s : Chip) (h : HandId) (x : Hand) : (s.setHand h x).power = s.power := rfl
@[simp] theorem setHand_tink (s : Chip) (h : HandId) (x : Hand) : (s.setHand h x).tink = s.tink := rfl
@[simp] theorem setHand_tick (s : Chip) (h : HandId) (x : Hand) : (s.setHand h x).tick = s.tick := rfl
@[simp] theorem setHand_free (s : Chip) (h : HandId) (x : Hand) : (s.setHand h x).free = s.free := rfl
@[simp] theorem setHand_outbox (s : Chip) (h : HandId) (x : Hand) : (s.setHand h x).outbox = s.outbox := rfl
@[simp] theorem setHand_get (s : Chip) (h : HandId) (x : Hand) (g : Fld) : (s.setHand h x).get g = s.get g := rfl

/-! ### Chip.setTun -/

@[simp] theorem setTun_csr (s : Chip) (t : Nat) (x : Tun) : (s.setTun t x).csr = s.csr := rfl
@[simp] theorem setTun_locks (s : Chip) (t : Nat) (x : Tun) : (s.setTun t x).locks = s.locks := rfl
@[simp] theorem setTun_lanes (s : Chip) (t : Nat) (x : Tun) : (s.setTun t x).lanes = s.lanes := rfl
@[simp] theorem setTun_links (s : Chip) (t : Nat) (x : Tun) : (s.setTun t x).links = s.links := rfl
@[simp] theorem setTun_sw (s : Chip) (t : Nat) (x : Tun) : (s.setTun t x).sw = s.sw := rfl
@[simp] theorem setTun_cores (s : Chip) (t : Nat) (x : Tun) : (s.setTun t x).cores = s.cores := rfl
@[simp] theorem setTun_braid (s : Chip) (t : Nat) (x : Tun) : (s.setTun t x).braid = s.braid := rfl
@[simp] theorem setTun_chain (s : Chip) (t : Nat) (x : Tun) : (s.setTun t x).chain = s.chain := rfl
@[simp] theorem setTun_mbx (s : Chip) (t : Nat) (x : Tun) : (s.setTun t x).mbx = s.mbx := rfl
@[simp] theorem setTun_log (s : Chip) (t : Nat) (x : Tun) : (s.setTun t x).log = s.log := rfl
@[simp] theorem setTun_latches (s : Chip) (t : Nat) (x : Tun) : (s.setTun t x).latches = s.latches := rfl
@[simp] theorem setTun_field (s : Chip) (t : Nat) (x : Tun) : (s.setTun t x).field = s.field := rfl
@[simp] theorem setTun_boot (s : Chip) (t : Nat) (x : Tun) : (s.setTun t x).boot = s.boot := rfl
@[simp] theorem setTun_vault (s : Chip) (t : Nat) (x : Tun) : (s.setTun t x).vault = s.vault := rfl
@[simp] theorem setTun_upd (s : Chip) (t : Nat) (x : Tun) : (s.setTun t x).upd = s.upd := rfl
@[simp] theorem setTun_rep (s : Chip) (t : Nat) (x : Tun) : (s.setTun t x).rep = s.rep := rfl
@[simp] theorem setTun_ends (s : Chip) (t : Nat) (x : Tun) : (s.setTun t x).ends = s.ends := rfl
@[simp] theorem setTun_hvi (s : Chip) (t : Nat) (x : Tun) : (s.setTun t x).hvi = s.hvi := rfl
@[simp] theorem setTun_docks (s : Chip) (t : Nat) (x : Tun) : (s.setTun t x).docks = s.docks := rfl
@[simp] theorem setTun_power (s : Chip) (t : Nat) (x : Tun) : (s.setTun t x).power = s.power := rfl
@[simp] theorem setTun_tink (s : Chip) (t : Nat) (x : Tun) : (s.setTun t x).tink = s.tink := rfl
@[simp] theorem setTun_tick (s : Chip) (t : Nat) (x : Tun) : (s.setTun t x).tick = s.tick := rfl
@[simp] theorem setTun_free (s : Chip) (t : Nat) (x : Tun) : (s.setTun t x).free = s.free := rfl
@[simp] theorem setTun_outbox (s : Chip) (t : Nat) (x : Tun) : (s.setTun t x).outbox = s.outbox := rfl
@[simp] theorem setTun_get (s : Chip) (t : Nat) (x : Tun) (g : Fld) : (s.setTun t x).get g = s.get g := rfl

/-! ### Chip.setRing -/

@[simp] theorem setRing_csr (s : Chip) (r : Nat) (x : Ring) : (s.setRing r x).csr = s.csr := rfl
@[simp] theorem setRing_locks (s : Chip) (r : Nat) (x : Ring) : (s.setRing r x).locks = s.locks := rfl
@[simp] theorem setRing_lanes (s : Chip) (r : Nat) (x : Ring) : (s.setRing r x).lanes = s.lanes := rfl
@[simp] theorem setRing_links (s : Chip) (r : Nat) (x : Ring) : (s.setRing r x).links = s.links := rfl
@[simp] theorem setRing_sw (s : Chip) (r : Nat) (x : Ring) : (s.setRing r x).sw = s.sw := rfl
@[simp] theorem setRing_tuns (s : Chip) (r : Nat) (x : Ring) : (s.setRing r x).tuns = s.tuns := rfl
@[simp] theorem setRing_braid (s : Chip) (r : Nat) (x : Ring) : (s.setRing r x).braid = s.braid := rfl
@[simp] theorem setRing_chain (s : Chip) (r : Nat) (x : Ring) : (s.setRing r x).chain = s.chain := rfl
@[simp] theorem setRing_mbx (s : Chip) (r : Nat) (x : Ring) : (s.setRing r x).mbx = s.mbx := rfl
@[simp] theorem setRing_log (s : Chip) (r : Nat) (x : Ring) : (s.setRing r x).log = s.log := rfl
@[simp] theorem setRing_latches (s : Chip) (r : Nat) (x : Ring) : (s.setRing r x).latches = s.latches := rfl
@[simp] theorem setRing_field (s : Chip) (r : Nat) (x : Ring) : (s.setRing r x).field = s.field := rfl
@[simp] theorem setRing_boot (s : Chip) (r : Nat) (x : Ring) : (s.setRing r x).boot = s.boot := rfl
@[simp] theorem setRing_vault (s : Chip) (r : Nat) (x : Ring) : (s.setRing r x).vault = s.vault := rfl
@[simp] theorem setRing_upd (s : Chip) (r : Nat) (x : Ring) : (s.setRing r x).upd = s.upd := rfl
@[simp] theorem setRing_rep (s : Chip) (r : Nat) (x : Ring) : (s.setRing r x).rep = s.rep := rfl
@[simp] theorem setRing_ends (s : Chip) (r : Nat) (x : Ring) : (s.setRing r x).ends = s.ends := rfl
@[simp] theorem setRing_hvi (s : Chip) (r : Nat) (x : Ring) : (s.setRing r x).hvi = s.hvi := rfl
@[simp] theorem setRing_docks (s : Chip) (r : Nat) (x : Ring) : (s.setRing r x).docks = s.docks := rfl
@[simp] theorem setRing_power (s : Chip) (r : Nat) (x : Ring) : (s.setRing r x).power = s.power := rfl
@[simp] theorem setRing_tink (s : Chip) (r : Nat) (x : Ring) : (s.setRing r x).tink = s.tink := rfl
@[simp] theorem setRing_tick (s : Chip) (r : Nat) (x : Ring) : (s.setRing r x).tick = s.tick := rfl
@[simp] theorem setRing_free (s : Chip) (r : Nat) (x : Ring) : (s.setRing r x).free = s.free := rfl
@[simp] theorem setRing_outbox (s : Chip) (r : Nat) (x : Ring) : (s.setRing r x).outbox = s.outbox := rfl
@[simp] theorem setRing_get (s : Chip) (r : Nat) (x : Ring) (g : Fld) : (s.setRing r x).get g = s.get g := rfl

/-! ### Chip.setSlot -/

@[simp] theorem setSlot_csr (s : Chip) (i : SlotId) (x : Slot) : (s.setSlot i x).csr = s.csr := rfl
@[simp] theorem setSlot_locks (s : Chip) (i : SlotId) (x : Slot) : (s.setSlot i x).locks = s.locks := rfl
@[simp] theorem setSlot_lanes (s : Chip) (i : SlotId) (x : Slot) : (s.setSlot i x).lanes = s.lanes := rfl
@[simp] theorem setSlot_links (s : Chip) (i : SlotId) (x : Slot) : (s.setSlot i x).links = s.links := rfl
@[simp] theorem setSlot_sw (s : Chip) (i : SlotId) (x : Slot) : (s.setSlot i x).sw = s.sw := rfl
@[simp] theorem setSlot_tuns (s : Chip) (i : SlotId) (x : Slot) : (s.setSlot i x).tuns = s.tuns := rfl
@[simp] theorem setSlot_cores (s : Chip) (i : SlotId) (x : Slot) : (s.setSlot i x).cores = s.cores := rfl
@[simp] theorem setSlot_braid (s : Chip) (i : SlotId) (x : Slot) : (s.setSlot i x).braid = s.braid := rfl
@[simp] theorem setSlot_chain (s : Chip) (i : SlotId) (x : Slot) : (s.setSlot i x).chain = s.chain := rfl
@[simp] theorem setSlot_log (s : Chip) (i : SlotId) (x : Slot) : (s.setSlot i x).log = s.log := rfl
@[simp] theorem setSlot_latches (s : Chip) (i : SlotId) (x : Slot) : (s.setSlot i x).latches = s.latches := rfl
@[simp] theorem setSlot_field (s : Chip) (i : SlotId) (x : Slot) : (s.setSlot i x).field = s.field := rfl
@[simp] theorem setSlot_boot (s : Chip) (i : SlotId) (x : Slot) : (s.setSlot i x).boot = s.boot := rfl
@[simp] theorem setSlot_vault (s : Chip) (i : SlotId) (x : Slot) : (s.setSlot i x).vault = s.vault := rfl
@[simp] theorem setSlot_upd (s : Chip) (i : SlotId) (x : Slot) : (s.setSlot i x).upd = s.upd := rfl
@[simp] theorem setSlot_rep (s : Chip) (i : SlotId) (x : Slot) : (s.setSlot i x).rep = s.rep := rfl
@[simp] theorem setSlot_ends (s : Chip) (i : SlotId) (x : Slot) : (s.setSlot i x).ends = s.ends := rfl
@[simp] theorem setSlot_hvi (s : Chip) (i : SlotId) (x : Slot) : (s.setSlot i x).hvi = s.hvi := rfl
@[simp] theorem setSlot_docks (s : Chip) (i : SlotId) (x : Slot) : (s.setSlot i x).docks = s.docks := rfl
@[simp] theorem setSlot_power (s : Chip) (i : SlotId) (x : Slot) : (s.setSlot i x).power = s.power := rfl
@[simp] theorem setSlot_tink (s : Chip) (i : SlotId) (x : Slot) : (s.setSlot i x).tink = s.tink := rfl
@[simp] theorem setSlot_tick (s : Chip) (i : SlotId) (x : Slot) : (s.setSlot i x).tick = s.tick := rfl
@[simp] theorem setSlot_free (s : Chip) (i : SlotId) (x : Slot) : (s.setSlot i x).free = s.free := rfl
@[simp] theorem setSlot_outbox (s : Chip) (i : SlotId) (x : Slot) : (s.setSlot i x).outbox = s.outbox := rfl
@[simp] theorem setSlot_get (s : Chip) (i : SlotId) (x : Slot) (g : Fld) : (s.setSlot i x).get g = s.get g := rfl

/-! ### Chip.setBus -/

@[simp] theorem setBus_csr (s : Chip) (k : Nat) (x : Bus) : (s.setBus k x).csr = s.csr := rfl
@[simp] theorem setBus_locks (s : Chip) (k : Nat) (x : Bus) : (s.setBus k x).locks = s.locks := rfl
@[simp] theorem setBus_lanes (s : Chip) (k : Nat) (x : Bus) : (s.setBus k x).lanes = s.lanes := rfl
@[simp] theorem setBus_links (s : Chip) (k : Nat) (x : Bus) : (s.setBus k x).links = s.links := rfl
@[simp] theorem setBus_sw (s : Chip) (k : Nat) (x : Bus) : (s.setBus k x).sw = s.sw := rfl
@[simp] theorem setBus_tuns (s : Chip) (k : Nat) (x : Bus) : (s.setBus k x).tuns = s.tuns := rfl
@[simp] theorem setBus_braid (s : Chip) (k : Nat) (x : Bus) : (s.setBus k x).braid = s.braid := rfl
@[simp] theorem setBus_chain (s : Chip) (k : Nat) (x : Bus) : (s.setBus k x).chain = s.chain := rfl
@[simp] theorem setBus_mbx (s : Chip) (k : Nat) (x : Bus) : (s.setBus k x).mbx = s.mbx := rfl
@[simp] theorem setBus_log (s : Chip) (k : Nat) (x : Bus) : (s.setBus k x).log = s.log := rfl
@[simp] theorem setBus_latches (s : Chip) (k : Nat) (x : Bus) : (s.setBus k x).latches = s.latches := rfl
@[simp] theorem setBus_field (s : Chip) (k : Nat) (x : Bus) : (s.setBus k x).field = s.field := rfl
@[simp] theorem setBus_boot (s : Chip) (k : Nat) (x : Bus) : (s.setBus k x).boot = s.boot := rfl
@[simp] theorem setBus_vault (s : Chip) (k : Nat) (x : Bus) : (s.setBus k x).vault = s.vault := rfl
@[simp] theorem setBus_upd (s : Chip) (k : Nat) (x : Bus) : (s.setBus k x).upd = s.upd := rfl
@[simp] theorem setBus_rep (s : Chip) (k : Nat) (x : Bus) : (s.setBus k x).rep = s.rep := rfl
@[simp] theorem setBus_ends (s : Chip) (k : Nat) (x : Bus) : (s.setBus k x).ends = s.ends := rfl
@[simp] theorem setBus_hvi (s : Chip) (k : Nat) (x : Bus) : (s.setBus k x).hvi = s.hvi := rfl
@[simp] theorem setBus_docks (s : Chip) (k : Nat) (x : Bus) : (s.setBus k x).docks = s.docks := rfl
@[simp] theorem setBus_power (s : Chip) (k : Nat) (x : Bus) : (s.setBus k x).power = s.power := rfl
@[simp] theorem setBus_tink (s : Chip) (k : Nat) (x : Bus) : (s.setBus k x).tink = s.tink := rfl
@[simp] theorem setBus_tick (s : Chip) (k : Nat) (x : Bus) : (s.setBus k x).tick = s.tick := rfl
@[simp] theorem setBus_free (s : Chip) (k : Nat) (x : Bus) : (s.setBus k x).free = s.free := rfl
@[simp] theorem setBus_outbox (s : Chip) (k : Nat) (x : Bus) : (s.setBus k x).outbox = s.outbox := rfl
@[simp] theorem setBus_get (s : Chip) (k : Nat) (x : Bus) (g : Fld) : (s.setBus k x).get g = s.get g := rfl

/-! ### Chip.setCreg -/

@[simp] theorem setCreg_csr (s : Chip) (b : Nat) (c : Fin 8) (v : List Byte) : (s.setCreg b c v).csr = s.csr := rfl
@[simp] theorem setCreg_locks (s : Chip) (b : Nat) (c : Fin 8) (v : List Byte) : (s.setCreg b c v).locks = s.locks := rfl
@[simp] theorem setCreg_lanes (s : Chip) (b : Nat) (c : Fin 8) (v : List Byte) : (s.setCreg b c v).lanes = s.lanes := rfl
@[simp] theorem setCreg_links (s : Chip) (b : Nat) (c : Fin 8) (v : List Byte) : (s.setCreg b c v).links = s.links := rfl
@[simp] theorem setCreg_sw (s : Chip) (b : Nat) (c : Fin 8) (v : List Byte) : (s.setCreg b c v).sw = s.sw := rfl
@[simp] theorem setCreg_tuns (s : Chip) (b : Nat) (c : Fin 8) (v : List Byte) : (s.setCreg b c v).tuns = s.tuns := rfl
@[simp] theorem setCreg_braid (s : Chip) (b : Nat) (c : Fin 8) (v : List Byte) : (s.setCreg b c v).braid = s.braid := rfl
@[simp] theorem setCreg_chain (s : Chip) (b : Nat) (c : Fin 8) (v : List Byte) : (s.setCreg b c v).chain = s.chain := rfl
@[simp] theorem setCreg_mbx (s : Chip) (b : Nat) (c : Fin 8) (v : List Byte) : (s.setCreg b c v).mbx = s.mbx := rfl
@[simp] theorem setCreg_log (s : Chip) (b : Nat) (c : Fin 8) (v : List Byte) : (s.setCreg b c v).log = s.log := rfl
@[simp] theorem setCreg_latches (s : Chip) (b : Nat) (c : Fin 8) (v : List Byte) : (s.setCreg b c v).latches = s.latches := rfl
@[simp] theorem setCreg_field (s : Chip) (b : Nat) (c : Fin 8) (v : List Byte) : (s.setCreg b c v).field = s.field := rfl
@[simp] theorem setCreg_boot (s : Chip) (b : Nat) (c : Fin 8) (v : List Byte) : (s.setCreg b c v).boot = s.boot := rfl
@[simp] theorem setCreg_vault (s : Chip) (b : Nat) (c : Fin 8) (v : List Byte) : (s.setCreg b c v).vault = s.vault := rfl
@[simp] theorem setCreg_upd (s : Chip) (b : Nat) (c : Fin 8) (v : List Byte) : (s.setCreg b c v).upd = s.upd := rfl
@[simp] theorem setCreg_rep (s : Chip) (b : Nat) (c : Fin 8) (v : List Byte) : (s.setCreg b c v).rep = s.rep := rfl
@[simp] theorem setCreg_ends (s : Chip) (b : Nat) (c : Fin 8) (v : List Byte) : (s.setCreg b c v).ends = s.ends := rfl
@[simp] theorem setCreg_hvi (s : Chip) (b : Nat) (c : Fin 8) (v : List Byte) : (s.setCreg b c v).hvi = s.hvi := rfl
@[simp] theorem setCreg_docks (s : Chip) (b : Nat) (c : Fin 8) (v : List Byte) : (s.setCreg b c v).docks = s.docks := rfl
@[simp] theorem setCreg_power (s : Chip) (b : Nat) (c : Fin 8) (v : List Byte) : (s.setCreg b c v).power = s.power := rfl
@[simp] theorem setCreg_tink (s : Chip) (b : Nat) (c : Fin 8) (v : List Byte) : (s.setCreg b c v).tink = s.tink := rfl
@[simp] theorem setCreg_tick (s : Chip) (b : Nat) (c : Fin 8) (v : List Byte) : (s.setCreg b c v).tick = s.tick := rfl
@[simp] theorem setCreg_free (s : Chip) (b : Nat) (c : Fin 8) (v : List Byte) : (s.setCreg b c v).free = s.free := rfl
@[simp] theorem setCreg_outbox (s : Chip) (b : Nat) (c : Fin 8) (v : List Byte) : (s.setCreg b c v).outbox = s.outbox := rfl
@[simp] theorem setCreg_get (s : Chip) (b : Nat) (c : Fin 8) (v : List Byte) (g : Fld) : (s.setCreg b c v).get g = s.get g := rfl

/-! ### Chip.setOwner -/

@[simp] theorem setOwner_csr (s : Chip) (b c o : Nat) : (s.setOwner b c o).csr = s.csr := rfl
@[simp] theorem setOwner_locks (s : Chip) (b c o : Nat) : (s.setOwner b c o).locks = s.locks := rfl
@[simp] theorem setOwner_lanes (s : Chip) (b c o : Nat) : (s.setOwner b c o).lanes = s.lanes := rfl
@[simp] theorem setOwner_links (s : Chip) (b c o : Nat) : (s.setOwner b c o).links = s.links := rfl
@[simp] theorem setOwner_sw (s : Chip) (b c o : Nat) : (s.setOwner b c o).sw = s.sw := rfl
@[simp] theorem setOwner_tuns (s : Chip) (b c o : Nat) : (s.setOwner b c o).tuns = s.tuns := rfl
@[simp] theorem setOwner_braid (s : Chip) (b c o : Nat) : (s.setOwner b c o).braid = s.braid := rfl
@[simp] theorem setOwner_chain (s : Chip) (b c o : Nat) : (s.setOwner b c o).chain = s.chain := rfl
@[simp] theorem setOwner_mbx (s : Chip) (b c o : Nat) : (s.setOwner b c o).mbx = s.mbx := rfl
@[simp] theorem setOwner_log (s : Chip) (b c o : Nat) : (s.setOwner b c o).log = s.log := rfl
@[simp] theorem setOwner_latches (s : Chip) (b c o : Nat) : (s.setOwner b c o).latches = s.latches := rfl
@[simp] theorem setOwner_field (s : Chip) (b c o : Nat) : (s.setOwner b c o).field = s.field := rfl
@[simp] theorem setOwner_boot (s : Chip) (b c o : Nat) : (s.setOwner b c o).boot = s.boot := rfl
@[simp] theorem setOwner_vault (s : Chip) (b c o : Nat) : (s.setOwner b c o).vault = s.vault := rfl
@[simp] theorem setOwner_upd (s : Chip) (b c o : Nat) : (s.setOwner b c o).upd = s.upd := rfl
@[simp] theorem setOwner_rep (s : Chip) (b c o : Nat) : (s.setOwner b c o).rep = s.rep := rfl
@[simp] theorem setOwner_ends (s : Chip) (b c o : Nat) : (s.setOwner b c o).ends = s.ends := rfl
@[simp] theorem setOwner_hvi (s : Chip) (b c o : Nat) : (s.setOwner b c o).hvi = s.hvi := rfl
@[simp] theorem setOwner_docks (s : Chip) (b c o : Nat) : (s.setOwner b c o).docks = s.docks := rfl
@[simp] theorem setOwner_power (s : Chip) (b c o : Nat) : (s.setOwner b c o).power = s.power := rfl
@[simp] theorem setOwner_tink (s : Chip) (b c o : Nat) : (s.setOwner b c o).tink = s.tink := rfl
@[simp] theorem setOwner_tick (s : Chip) (b c o : Nat) : (s.setOwner b c o).tick = s.tick := rfl
@[simp] theorem setOwner_free (s : Chip) (b c o : Nat) : (s.setOwner b c o).free = s.free := rfl
@[simp] theorem setOwner_outbox (s : Chip) (b c o : Nat) : (s.setOwner b c o).outbox = s.outbox := rfl
@[simp] theorem setOwner_get (s : Chip) (b c o : Nat) (g : Fld) : (s.setOwner b c o).get g = s.get g := rfl

end Sys2Proof.Laws
end

