-- ==== Sys2Proof/Laws/Ops.lean ====
section
/-! SUPPORT. What the shared operations of Machine/Ops.lean do: register fields, events and the event log, and the numbered records. -/

namespace Sys2Proof.Laws
open Sys2Proof Sys2Proof.Machine Sys2Proof.Machine.Reg

/-- A bit of the number that a word is, as the word's bit. -/
theorem bit_toNat {w : Nat} (v : BitVec w) (i : Nat) : bit v.toNat i = v.getLsbD i := by
  simp only [bit, BitVec.getLsbD, Nat.testBit, Nat.shiftRight_eq_div_pow, Nat.one_and_eq_mod_two]
  cases h : decide (v.toNat / 2 ^ i % 2 = 1) <;> simp_all

/-! ### Register fields -/

/-- A field written by hardware reads as the value, at its width. -/
theorem get_put_same (s : Chip) (f : Fld) (v : Nat) : (s.put f v).get f = v % 2 ^ f.width := by
  simp [Chip.get, Chip.put, mget_mset_same, Nat.xor_assoc]

/-- Hardware that writes a field leaves every field under another key alone. -/
theorem get_put_other (s : Chip) (f g : Fld) (v : Nat) (h : g.key ≠ f.key) : (s.put f v).get g = s.get g := by
  simp [Chip.get, Chip.put, mget_mset_other _ _ _ _ _ h]

theorem get_addSat_same (s : Chip) (f : Fld) (n : Nat) : (s.addSat f n).get f = min (s.get f + n) (2 ^ f.width - 1) := by
  unfold Chip.addSat
  rw [get_put_same]
  have : 0 < 2 ^ f.width := Nat.two_pow_pos _
  split
  · rw [Nat.mod_eq_of_lt (by omega)]
    omega
  · rw [Nat.mod_eq_of_lt (by omega)]
    omega

theorem get_addSat_other (s : Chip) (f g : Fld) (n : Nat) (h : g.key ≠ f.key) : (s.addSat f n).get g = s.get g :=
  get_put_other s f g _ h

theorem get_inc_same (s : Chip) (f : Fld) : (s.inc f).get f = min (s.get f + 1) (2 ^ f.width - 1) := get_addSat_same s f 1

theorem get_inc_other (s : Chip) (f g : Fld) (h : g.key ≠ f.key) : (s.inc f).get g = s.get g := get_put_other s f g _ h

theorem get_addWrap_same (s : Chip) (f : Fld) (n : Nat) : (s.addWrap f n).get f = (s.get f + n) % 2 ^ f.width :=
  get_put_same s f _

theorem get_setBitOf_other (s : Chip) (f g : Fld) (i : Nat) (h : g.key ≠ f.key) : (s.setBitOf f i).get g = s.get g :=
  get_put_other s f g _ h

/-! ### The event log -/

/-- A field outside the log unit's registers. -/
def outsideLog (g : Fld) : Prop := g.key / 2 ^ 21 ≠ 0x18

/-- A log entry changes no field outside the log unit. -/
theorem get_logEntry (s : Chip) (src code inst d0 d1 : Nat) (g : Fld) (h : outsideLog g) :
    (s.logEntry src code inst d0 d1).get g = s.get g := by
  have key (f : Fld) (hf : f.key / 2 ^ 21 = 0x18) : g.key ≠ f.key := fun e => h (by rw [e]; exact hf)
  have k1 := key LOG_STAT_HEAD rfl
  have k2 := key LOG_STAT_TAIL rfl
  have k3 := key LOG_OVERRUN rfl
  have k4 := key LOG_STAT_FULL rfl
  unfold Chip.logEntry
  split
  · rfl
  · simp only
    split
    · rw [get_inc_other _ _ _ k3, get_put_other _ _ _ _ k2, get_put_other _ _ _ _ k1]
      rfl
    · rw [get_put_other _ _ _ _ k4, get_put_other _ _ _ _ k1]
      rfl

/-- A log entry changes nothing but the log and its registers. -/
theorem logEntry_frame (s : Chip) (src code inst d0 d1 : Nat) :
    ∃ csr log, s.logEntry src code inst d0 d1 = { s with csr := csr, log := log } := by
  unfold Chip.logEntry
  split
  · exact ⟨s.csr, s.log, rfl⟩
  · simp only
    split <;> exact ⟨_, _, rfl⟩

@[simp] theorem logEntry_locks (s : Chip) (src code inst d0 d1 : Nat) : (s.logEntry src code inst d0 d1).locks = s.locks := by
  obtain ⟨_, _, e⟩ := logEntry_frame s src code inst d0 d1
  rw [e]

@[simp] theorem logEntry_lanes (s : Chip) (src code inst d0 d1 : Nat) : (s.logEntry src code inst d0 d1).lanes = s.lanes := by
  obtain ⟨_, _, e⟩ := logEntry_frame s src code inst d0 d1
  rw [e]

@[simp] theorem logEntry_links (s : Chip) (src code inst d0 d1 : Nat) : (s.logEntry src code inst d0 d1).links = s.links := by
  obtain ⟨_, _, e⟩ := logEntry_frame s src code inst d0 d1
  rw [e]

@[simp] theorem logEntry_sw (s : Chip) (src code inst d0 d1 : Nat) : (s.logEntry src code inst d0 d1).sw = s.sw := by
  obtain ⟨_, _, e⟩ := logEntry_frame s src code inst d0 d1
  rw [e]

@[simp] theorem logEntry_tuns (s : Chip) (src code inst d0 d1 : Nat) : (s.logEntry src code inst d0 d1).tuns = s.tuns := by
  obtain ⟨_, _, e⟩ := logEntry_frame s src code inst d0 d1
  rw [e]

@[simp] theorem logEntry_cores (s : Chip) (src code inst d0 d1 : Nat) : (s.logEntry src code inst d0 d1).cores = s.cores := by
  obtain ⟨_, _, e⟩ := logEntry_frame s src code inst d0 d1
  rw [e]

@[simp] theorem logEntry_braid (s : Chip) (src code inst d0 d1 : Nat) : (s.logEntry src code inst d0 d1).braid = s.braid := by
  obtain ⟨_, _, e⟩ := logEntry_frame s src code inst d0 d1
  rw [e]

@[simp] theorem logEntry_chain (s : Chip) (src code inst d0 d1 : Nat) : (s.logEntry src code inst d0 d1).chain = s.chain := by
  obtain ⟨_, _, e⟩ := logEntry_frame s src code inst d0 d1
  rw [e]

@[simp] theorem logEntry_mbx (s : Chip) (src code inst d0 d1 : Nat) : (s.logEntry src code inst d0 d1).mbx = s.mbx := by
  obtain ⟨_, _, e⟩ := logEntry_frame s src code inst d0 d1
  rw [e]

@[simp] theorem logEntry_latches (s : Chip) (src code inst d0 d1 : Nat) : (s.logEntry src code inst d0 d1).latches = s.latches := by
  obtain ⟨_, _, e⟩ := logEntry_frame s src code inst d0 d1
  rw [e]

@[simp] theorem logEntry_field (s : Chip) (src code inst d0 d1 : Nat) : (s.logEntry src code inst d0 d1).field = s.field := by
  obtain ⟨_, _, e⟩ := logEntry_frame s src code inst d0 d1
  rw [e]

@[simp] theorem logEntry_boot (s : Chip) (src code inst d0 d1 : Nat) : (s.logEntry src code inst d0 d1).boot = s.boot := by
  obtain ⟨_, _, e⟩ := logEntry_frame s src code inst d0 d1
  rw [e]

@[simp] theorem logEntry_vault (s : Chip) (src code inst d0 d1 : Nat) : (s.logEntry src code inst d0 d1).vault = s.vault := by
  obtain ⟨_, _, e⟩ := logEntry_frame s src code inst d0 d1
  rw [e]

@[simp] theorem logEntry_upd (s : Chip) (src code inst d0 d1 : Nat) : (s.logEntry src code inst d0 d1).upd = s.upd := by
  obtain ⟨_, _, e⟩ := logEntry_frame s src code inst d0 d1
  rw [e]

@[simp] theorem logEntry_rep (s : Chip) (src code inst d0 d1 : Nat) : (s.logEntry src code inst d0 d1).rep = s.rep := by
  obtain ⟨_, _, e⟩ := logEntry_frame s src code inst d0 d1
  rw [e]

@[simp] theorem logEntry_ends (s : Chip) (src code inst d0 d1 : Nat) : (s.logEntry src code inst d0 d1).ends = s.ends := by
  obtain ⟨_, _, e⟩ := logEntry_frame s src code inst d0 d1
  rw [e]

@[simp] theorem logEntry_hvi (s : Chip) (src code inst d0 d1 : Nat) : (s.logEntry src code inst d0 d1).hvi = s.hvi := by
  obtain ⟨_, _, e⟩ := logEntry_frame s src code inst d0 d1
  rw [e]

@[simp] theorem logEntry_docks (s : Chip) (src code inst d0 d1 : Nat) : (s.logEntry src code inst d0 d1).docks = s.docks := by
  obtain ⟨_, _, e⟩ := logEntry_frame s src code inst d0 d1
  rw [e]

@[simp] theorem logEntry_power (s : Chip) (src code inst d0 d1 : Nat) : (s.logEntry src code inst d0 d1).power = s.power := by
  obtain ⟨_, _, e⟩ := logEntry_frame s src code inst d0 d1
  rw [e]

@[simp] theorem logEntry_tink (s : Chip) (src code inst d0 d1 : Nat) : (s.logEntry src code inst d0 d1).tink = s.tink := by
  obtain ⟨_, _, e⟩ := logEntry_frame s src code inst d0 d1
  rw [e]

@[simp] theorem logEntry_tick (s : Chip) (src code inst d0 d1 : Nat) : (s.logEntry src code inst d0 d1).tick = s.tick := by
  obtain ⟨_, _, e⟩ := logEntry_frame s src code inst d0 d1
  rw [e]

@[simp] theorem logEntry_free (s : Chip) (src code inst d0 d1 : Nat) : (s.logEntry src code inst d0 d1).free = s.free := by
  obtain ⟨_, _, e⟩ := logEntry_frame s src code inst d0 d1
  rw [e]

@[simp] theorem logEntry_outbox (s : Chip) (src code inst d0 d1 : Nat) : (s.logEntry src code inst d0 d1).outbox = s.outbox := by
  obtain ⟨_, _, e⟩ := logEntry_frame s src code inst d0 d1
  rw [e]

@[simp] theorem noteRaised_csr (s : Chip) (f : Fld) (i : Nat) : (s.noteRaised f i).csr = s.csr := rfl
@[simp] theorem noteRaised_locks (s : Chip) (f : Fld) (i : Nat) : (s.noteRaised f i).locks = s.locks := rfl
@[simp] theorem noteRaised_lanes (s : Chip) (f : Fld) (i : Nat) : (s.noteRaised f i).lanes = s.lanes := rfl
@[simp] theorem noteRaised_links (s : Chip) (f : Fld) (i : Nat) : (s.noteRaised f i).links = s.links := rfl
@[simp] theorem noteRaised_sw (s : Chip) (f : Fld) (i : Nat) : (s.noteRaised f i).sw = s.sw := rfl
@[simp] theorem noteRaised_tuns (s : Chip) (f : Fld) (i : Nat) : (s.noteRaised f i).tuns = s.tuns := rfl
@[simp] theorem noteRaised_cores (s : Chip) (f : Fld) (i : Nat) : (s.noteRaised f i).cores = s.cores := rfl
@[simp] theorem noteRaised_braid (s : Chip) (f : Fld) (i : Nat) : (s.noteRaised f i).braid = s.braid := rfl
@[simp] theorem noteRaised_chain (s : Chip) (f : Fld) (i : Nat) : (s.noteRaised f i).chain = s.chain := rfl
@[simp] theorem noteRaised_mbx (s : Chip) (f : Fld) (i : Nat) : (s.noteRaised f i).mbx = s.mbx := rfl
@[simp] theorem noteRaised_latches (s : Chip) (f : Fld) (i : Nat) : (s.noteRaised f i).latches = s.latches := rfl
@[simp] theorem noteRaised_field (s : Chip) (f : Fld) (i : Nat) : (s.noteRaised f i).field = s.field := rfl
@[simp] theorem noteRaised_boot (s : Chip) (f : Fld) (i : Nat) : (s.noteRaised f i).boot = s.boot := rfl
@[simp] theorem noteRaised_vault (s : Chip) (f : Fld) (i : Nat) : (s.noteRaised f i).vault = s.vault := rfl
@[simp] theorem noteRaised_upd (s : Chip) (f : Fld) (i : Nat) : (s.noteRaised f i).upd = s.upd := rfl
@[simp] theorem noteRaised_rep (s : Chip) (f : Fld) (i : Nat) : (s.noteRaised f i).rep = s.rep := rfl
@[simp] theorem noteRaised_ends (s : Chip) (f : Fld) (i : Nat) : (s.noteRaised f i).ends = s.ends := rfl
@[simp] theorem noteRaised_hvi (s : Chip) (f : Fld) (i : Nat) : (s.noteRaised f i).hvi = s.hvi := rfl
@[simp] theorem noteRaised_docks (s : Chip) (f : Fld) (i : Nat) : (s.noteRaised f i).docks = s.docks := rfl
@[simp] theorem noteRaised_power (s : Chip) (f : Fld) (i : Nat) : (s.noteRaised f i).power = s.power := rfl
@[simp] theorem noteRaised_tink (s : Chip) (f : Fld) (i : Nat) : (s.noteRaised f i).tink = s.tink := rfl
@[simp] theorem noteRaised_tick (s : Chip) (f : Fld) (i : Nat) : (s.noteRaised f i).tick = s.tick := rfl
@[simp] theorem noteRaised_free (s : Chip) (f : Fld) (i : Nat) : (s.noteRaised f i).free = s.free := rfl
@[simp] theorem noteRaised_outbox (s : Chip) (f : Fld) (i : Nat) : (s.noteRaised f i).outbox = s.outbox := rfl
@[simp] theorem noteRaised_get (s : Chip) (f : Fld) (i : Nat) (g : Fld) : (s.noteRaised f i).get g = s.get g := rfl

@[simp] theorem evtDetail_locks (s : Chip) (f : Fld) (i d0 d1 : Nat) : (s.evtDetail f i d0 d1).locks = s.locks := by simp [Chip.evtDetail]
@[simp] theorem evtBit_locks (s : Chip) (f : Fld) (i : Nat) : (s.evtBit f i).locks = s.locks := by simp [Chip.evtBit]
@[simp] theorem evt_locks (s : Chip) (f : Fld) : (s.evt f).locks = s.locks := by simp [Chip.evt]
@[simp] theorem evtDetail_lanes (s : Chip) (f : Fld) (i d0 d1 : Nat) : (s.evtDetail f i d0 d1).lanes = s.lanes := by simp [Chip.evtDetail]
@[simp] theorem evtBit_lanes (s : Chip) (f : Fld) (i : Nat) : (s.evtBit f i).lanes = s.lanes := by simp [Chip.evtBit]
@[simp] theorem evt_lanes (s : Chip) (f : Fld) : (s.evt f).lanes = s.lanes := by simp [Chip.evt]
@[simp] theorem evtDetail_links (s : Chip) (f : Fld) (i d0 d1 : Nat) : (s.evtDetail f i d0 d1).links = s.links := by simp [Chip.evtDetail]
@[simp] theorem evtBit_links (s : Chip) (f : Fld) (i : Nat) : (s.evtBit f i).links = s.links := by simp [Chip.evtBit]
@[simp] theorem evt_links (s : Chip) (f : Fld) : (s.evt f).links = s.links := by simp [Chip.evt]
@[simp] theorem evtDetail_sw (s : Chip) (f : Fld) (i d0 d1 : Nat) : (s.evtDetail f i d0 d1).sw = s.sw := by simp [Chip.evtDetail]
@[simp] theorem evtBit_sw (s : Chip) (f : Fld) (i : Nat) : (s.evtBit f i).sw = s.sw := by simp [Chip.evtBit]
@[simp] theorem evt_sw (s : Chip) (f : Fld) : (s.evt f).sw = s.sw := by simp [Chip.evt]
@[simp] theorem evtDetail_tuns (s : Chip) (f : Fld) (i d0 d1 : Nat) : (s.evtDetail f i d0 d1).tuns = s.tuns := by simp [Chip.evtDetail]
@[simp] theorem evtBit_tuns (s : Chip) (f : Fld) (i : Nat) : (s.evtBit f i).tuns = s.tuns := by simp [Chip.evtBit]
@[simp] theorem evt_tuns (s : Chip) (f : Fld) : (s.evt f).tuns = s.tuns := by simp [Chip.evt]
@[simp] theorem evtDetail_cores (s : Chip) (f : Fld) (i d0 d1 : Nat) : (s.evtDetail f i d0 d1).cores = s.cores := by simp [Chip.evtDetail]
@[simp] theorem evtBit_cores (s : Chip) (f : Fld) (i : Nat) : (s.evtBit f i).cores = s.cores := by simp [Chip.evtBit]
@[simp] theorem evt_cores (s : Chip) (f : Fld) : (s.evt f).cores = s.cores := by simp [Chip.evt]
@[simp] theorem evtDetail_braid (s : Chip) (f : Fld) (i d0 d1 : Nat) : (s.evtDetail f i d0 d1).braid = s.braid := by simp [Chip.evtDetail]
@[simp] theorem evtBit_braid (s : Chip) (f : Fld) (i : Nat) : (s.evtBit f i).braid = s.braid := by simp [Chip.evtBit]
@[simp] theorem evt_braid (s : Chip) (f : Fld) : (s.evt f).braid = s.braid := by simp [Chip.evt]
@[simp] theorem evtDetail_chain (s : Chip) (f : Fld) (i d0 d1 : Nat) : (s.evtDetail f i d0 d1).chain = s.chain := by simp [Chip.evtDetail]
@[simp] theorem evtBit_chain (s : Chip) (f : Fld) (i : Nat) : (s.evtBit f i).chain = s.chain := by simp [Chip.evtBit]
@[simp] theorem evt_chain (s : Chip) (f : Fld) : (s.evt f).chain = s.chain := by simp [Chip.evt]
@[simp] theorem evtDetail_mbx (s : Chip) (f : Fld) (i d0 d1 : Nat) : (s.evtDetail f i d0 d1).mbx = s.mbx := by simp [Chip.evtDetail]
@[simp] theorem evtBit_mbx (s : Chip) (f : Fld) (i : Nat) : (s.evtBit f i).mbx = s.mbx := by simp [Chip.evtBit]
@[simp] theorem evt_mbx (s : Chip) (f : Fld) : (s.evt f).mbx = s.mbx := by simp [Chip.evt]
@[simp] theorem evtDetail_latches (s : Chip) (f : Fld) (i d0 d1 : Nat) : (s.evtDetail f i d0 d1).latches = s.latches := by simp [Chip.evtDetail]
@[simp] theorem evtBit_latches (s : Chip) (f : Fld) (i : Nat) : (s.evtBit f i).latches = s.latches := by simp [Chip.evtBit]
@[simp] theorem evt_latches (s : Chip) (f : Fld) : (s.evt f).latches = s.latches := by simp [Chip.evt]
@[simp] theorem evtDetail_field (s : Chip) (f : Fld) (i d0 d1 : Nat) : (s.evtDetail f i d0 d1).field = s.field := by simp [Chip.evtDetail]
@[simp] theorem evtBit_field (s : Chip) (f : Fld) (i : Nat) : (s.evtBit f i).field = s.field := by simp [Chip.evtBit]
@[simp] theorem evt_field (s : Chip) (f : Fld) : (s.evt f).field = s.field := by simp [Chip.evt]
@[simp] theorem evtDetail_boot (s : Chip) (f : Fld) (i d0 d1 : Nat) : (s.evtDetail f i d0 d1).boot = s.boot := by simp [Chip.evtDetail]
@[simp] theorem evtBit_boot (s : Chip) (f : Fld) (i : Nat) : (s.evtBit f i).boot = s.boot := by simp [Chip.evtBit]
@[simp] theorem evt_boot (s : Chip) (f : Fld) : (s.evt f).boot = s.boot := by simp [Chip.evt]
@[simp] theorem evtDetail_vault (s : Chip) (f : Fld) (i d0 d1 : Nat) : (s.evtDetail f i d0 d1).vault = s.vault := by simp [Chip.evtDetail]
@[simp] theorem evtBit_vault (s : Chip) (f : Fld) (i : Nat) : (s.evtBit f i).vault = s.vault := by simp [Chip.evtBit]
@[simp] theorem evt_vault (s : Chip) (f : Fld) : (s.evt f).vault = s.vault := by simp [Chip.evt]
@[simp] theorem evtDetail_upd (s : Chip) (f : Fld) (i d0 d1 : Nat) : (s.evtDetail f i d0 d1).upd = s.upd := by simp [Chip.evtDetail]
@[simp] theorem evtBit_upd (s : Chip) (f : Fld) (i : Nat) : (s.evtBit f i).upd = s.upd := by simp [Chip.evtBit]
@[simp] theorem evt_upd (s : Chip) (f : Fld) : (s.evt f).upd = s.upd := by simp [Chip.evt]
@[simp] theorem evtDetail_rep (s : Chip) (f : Fld) (i d0 d1 : Nat) : (s.evtDetail f i d0 d1).rep = s.rep := by simp [Chip.evtDetail]
@[simp] theorem evtBit_rep (s : Chip) (f : Fld) (i : Nat) : (s.evtBit f i).rep = s.rep := by simp [Chip.evtBit]
@[simp] theorem evt_rep (s : Chip) (f : Fld) : (s.evt f).rep = s.rep := by simp [Chip.evt]
@[simp] theorem evtDetail_ends (s : Chip) (f : Fld) (i d0 d1 : Nat) : (s.evtDetail f i d0 d1).ends = s.ends := by simp [Chip.evtDetail]
@[simp] theorem evtBit_ends (s : Chip) (f : Fld) (i : Nat) : (s.evtBit f i).ends = s.ends := by simp [Chip.evtBit]
@[simp] theorem evt_ends (s : Chip) (f : Fld) : (s.evt f).ends = s.ends := by simp [Chip.evt]
@[simp] theorem evtDetail_hvi (s : Chip) (f : Fld) (i d0 d1 : Nat) : (s.evtDetail f i d0 d1).hvi = s.hvi := by simp [Chip.evtDetail]
@[simp] theorem evtBit_hvi (s : Chip) (f : Fld) (i : Nat) : (s.evtBit f i).hvi = s.hvi := by simp [Chip.evtBit]
@[simp] theorem evt_hvi (s : Chip) (f : Fld) : (s.evt f).hvi = s.hvi := by simp [Chip.evt]
@[simp] theorem evtDetail_docks (s : Chip) (f : Fld) (i d0 d1 : Nat) : (s.evtDetail f i d0 d1).docks = s.docks := by simp [Chip.evtDetail]
@[simp] theorem evtBit_docks (s : Chip) (f : Fld) (i : Nat) : (s.evtBit f i).docks = s.docks := by simp [Chip.evtBit]
@[simp] theorem evt_docks (s : Chip) (f : Fld) : (s.evt f).docks = s.docks := by simp [Chip.evt]
@[simp] theorem evtDetail_power (s : Chip) (f : Fld) (i d0 d1 : Nat) : (s.evtDetail f i d0 d1).power = s.power := by simp [Chip.evtDetail]
@[simp] theorem evtBit_power (s : Chip) (f : Fld) (i : Nat) : (s.evtBit f i).power = s.power := by simp [Chip.evtBit]
@[simp] theorem evt_power (s : Chip) (f : Fld) : (s.evt f).power = s.power := by simp [Chip.evt]
@[simp] theorem evtDetail_tink (s : Chip) (f : Fld) (i d0 d1 : Nat) : (s.evtDetail f i d0 d1).tink = s.tink := by simp [Chip.evtDetail]
@[simp] theorem evtBit_tink (s : Chip) (f : Fld) (i : Nat) : (s.evtBit f i).tink = s.tink := by simp [Chip.evtBit]
@[simp] theorem evt_tink (s : Chip) (f : Fld) : (s.evt f).tink = s.tink := by simp [Chip.evt]
@[simp] theorem evtDetail_tick (s : Chip) (f : Fld) (i d0 d1 : Nat) : (s.evtDetail f i d0 d1).tick = s.tick := by simp [Chip.evtDetail]
@[simp] theorem evtBit_tick (s : Chip) (f : Fld) (i : Nat) : (s.evtBit f i).tick = s.tick := by simp [Chip.evtBit]
@[simp] theorem evt_tick (s : Chip) (f : Fld) : (s.evt f).tick = s.tick := by simp [Chip.evt]
@[simp] theorem evtDetail_free (s : Chip) (f : Fld) (i d0 d1 : Nat) : (s.evtDetail f i d0 d1).free = s.free := by simp [Chip.evtDetail]
@[simp] theorem evtBit_free (s : Chip) (f : Fld) (i : Nat) : (s.evtBit f i).free = s.free := by simp [Chip.evtBit]
@[simp] theorem evt_free (s : Chip) (f : Fld) : (s.evt f).free = s.free := by simp [Chip.evt]
@[simp] theorem evtDetail_outbox (s : Chip) (f : Fld) (i d0 d1 : Nat) : (s.evtDetail f i d0 d1).outbox = s.outbox := by simp [Chip.evtDetail]
@[simp] theorem evtBit_outbox (s : Chip) (f : Fld) (i : Nat) : (s.evtBit f i).outbox = s.outbox := by simp [Chip.evtBit]
@[simp] theorem evt_outbox (s : Chip) (f : Fld) : (s.evt f).outbox = s.outbox := by simp [Chip.evt]

/-- An event sets its bit of the EVT field. -/
theorem get_evtDetail_same (s : Chip) (f : Fld) (i d0 d1 : Nat) (h : outsideLog f) :
    (s.evtDetail f i d0 d1).get f = setBit (s.get f) i % 2 ^ f.width := by
  unfold Chip.evtDetail
  rw [get_logEntry _ _ _ _ _ _ _ h]
  exact get_put_same s f _

/-- An event changes no other field outside the log unit. -/
theorem get_evtDetail_other (s : Chip) (f g : Fld) (i d0 d1 : Nat) (hg : outsideLog g) (h : g.key ≠ f.key) :
    (s.evtDetail f i d0 d1).get g = s.get g := by
  unfold Chip.evtDetail
  rw [get_logEntry _ _ _ _ _ _ _ hg, noteRaised_get, get_setBitOf_other _ _ _ _ h]

theorem get_evtBit_same (s : Chip) (f : Fld) (i : Nat) (h : outsideLog f) :
    (s.evtBit f i).get f = setBit (s.get f) i % 2 ^ f.width := get_evtDetail_same s f i _ _ h

theorem get_evtBit_other (s : Chip) (f g : Fld) (i : Nat) (hg : outsideLog g) (h : g.key ≠ f.key) :
    (s.evtBit f i).get g = s.get g := get_evtDetail_other s f g i _ _ hg h

theorem get_evt_same (s : Chip) (f : Fld) (h : outsideLog f) : (s.evt f).get f = setBit (s.get f) 0 % 2 ^ f.width :=
  get_evtBit_same s f 0 h

theorem get_evt_other (s : Chip) (f g : Fld) (hg : outsideLog g) (h : g.key ≠ f.key) : (s.evt f).get g = s.get g :=
  get_evtBit_other s f g 0 hg h

/-! ### Numbered records -/

theorem get_set_same {α : Type} (m : PerPort α) (p : TPort) (v : α) : (m.set p v).get p = v := by cases p <;> rfl

theorem get_set_other {α : Type} (m : PerPort α) (p q : TPort) (v : α) (h : q ≠ p) : (m.set p v).get q = m.get q := by
  cases p <;> cases q <;> first | rfl | exact absurd rfl h

@[simp] theorem lane_setLane (s : Chip) (p : TPort) (x : LanePort) : (s.setLane p x).lane p = x := get_set_same _ p x
@[simp] theorem link_setLink (s : Chip) (p : TPort) (x : LinkPort) : (s.setLink p x).link p = x := get_set_same _ p x
@[simp] theorem hand_setHand (s : Chip) (h : HandId) (x : Hand) : (s.setHand h x).hand h = x := mget_mset_same _ _ _ _
@[simp] theorem tun_setTun (s : Chip) (t : Nat) (x : Tun) : (s.setTun t x).tun t = x := mget_mset_same _ _ _ _
@[simp] theorem ring_setRing (s : Chip) (r : Nat) (x : Ring) : (s.setRing r x).ring r = x := mget_mset_same _ _ _ _
@[simp] theorem slot_setSlot (s : Chip) (i : SlotId) (x : Slot) : (s.setSlot i x).slot i = x := mget_mset_same _ _ _ _
@[simp] theorem bus_setBus (s : Chip) (k : Nat) (x : Bus) : (s.setBus k x).bus k = x := mget_mset_same _ _ _ _

theorem lane_setLane_other (s : Chip) (p q : TPort) (x : LanePort) (h : q ≠ p) : (s.setLane p x).lane q = s.lane q :=
  get_set_other _ p q x h

theorem link_setLink_other (s : Chip) (p q : TPort) (x : LinkPort) (h : q ≠ p) : (s.setLink p x).link q = s.link q :=
  get_set_other _ p q x h

theorem hand_setHand_other (s : Chip) (h k : HandId) (x : Hand) (hk : k ≠ h) : (s.setHand h x).hand k = s.hand k :=
  mget_mset_other _ _ _ _ _ (fun e => hk (Fin.ext e))

theorem tun_setTun_other (s : Chip) (t u : Nat) (x : Tun) (h : u ≠ t) : (s.setTun t x).tun u = s.tun u :=
  mget_mset_other _ _ _ _ _ h

theorem ring_setRing_other (s : Chip) (r q : Nat) (x : Ring) (h : q ≠ r) : (s.setRing r x).ring q = s.ring q :=
  mget_mset_other _ _ _ _ _ h

theorem slot_setSlot_other (s : Chip) (i j : SlotId) (x : Slot) (h : j ≠ i) : (s.setSlot i x).slot j = s.slot j := by
  apply mget_mset_other
  intro e
  apply h
  obtain ⟨⟨a, ha⟩, ⟨b, hb⟩⟩ := i
  obtain ⟨⟨c, hc⟩, ⟨d, hd⟩⟩ := j
  simp only at e
  congr 2 <;> omega

theorem bus_setBus_other (s : Chip) (k j : Nat) (x : Bus) (h : j ≠ k) : (s.setBus k x).bus j = s.bus j :=
  mget_mset_other _ _ _ _ _ h

end Sys2Proof.Laws
end

