-- ==== Sys2Proof/Laws/Hands.lean ====
section
/-! SUPPORT. What issuing, completing and trapping do to a hand and to the rest of the state. -/

namespace Sys2Proof.Laws
open Sys2Proof Sys2Proof.Machine Sys2Proof.Machine.Reg

/-! ### Issue -/

/-- A hand that issues runs the effect. -/
theorem issue_runs {s : State} {h : HandId} (hi : s.chip.issues h = true) (f : State → State) : s.issue h f = .next (f s) := by
  simp only [Chip.issues, Bool.and_eq_true, Bool.not_eq_true'] at hi
  simp [State.issue, hi.1.1, hi.1.2, hi.2]

/-- A chip that keeps Porter's count of restarts keeps the addressed memories. -/
theorem settle_eq {s : State} {c : Chip} (hr : c.cores.restarts = s.chip.cores.restarts) : s.settle c = { s with chip := c } := by
  simp [State.settle, hr]

theorem issueChip_runs {s : State} {h : HandId} (hi : s.chip.issues h = true) (f : Chip → Chip)
    (hr : (f s.chip).cores.restarts = s.chip.cores.restarts) : s.issueChip h f = .next { s with chip := f s.chip } := by
  unfold State.issueChip
  rw [issue_runs hi, settle_eq hr]

@[simp] theorem setHand_restarts (s : Chip) (h : HandId) (x : Hand) : (s.setHand h x).cores.restarts = s.cores.restarts := rfl
@[simp] theorem complete_restarts (s : Chip) (h : HandId) (d : BitVec 5) (v : Word) :
    (s.complete h d v).cores.restarts = s.cores.restarts := rfl
@[simp] theorem advance_restarts (s : Chip) (h : HandId) : (s.advance h).cores.restarts = s.cores.restarts := rfl
@[simp] theorem stall_restarts (s : Chip) (h : HandId) (i : Instr) : (s.stall h i).cores.restarts = s.cores.restarts := rfl

/-- Settling keeps the canonical form of the addressed memories. -/
theorem wf_settle {s : State} (c : Chip) (h : Memory.wf s.mem = true) : Memory.wf (s.settle c).mem = true := by
  simp only [State.settle]
  split
  · exact h
  · exact wf_clear _ _ h

/-- Settling changes no byte outside Porter's data memory. -/
theorem byte_settle {s : State} (c : Chip) (h : Memory.wf s.mem = true) (a : Nat) (ha : a < dmemBase 16 ∨ dmemBase 17 ≤ a) :
    Memory.byte (s.settle c).mem a = Memory.byte s.mem a := by
  simp only [State.settle]
  split
  · rfl
  · rw [byte_clear _ _ _ h, if_neg (by omega)]

@[simp] theorem settle_pending (s : State) (c : Chip) : (s.settle c).pending = s.pending := rfl
@[simp] theorem settle_chip (s : State) (c : Chip) : (s.settle c).chip = c := rfl

/-! ### Registers of a hand -/

@[simp] theorem w_zero (x : Hand) : x.w 0#5 = 0 := by simp [Hand.w]
@[simp] theorem setW_zero (x : Hand) (v : Word) : x.setW 0#5 v = x := by simp [Hand.setW]

theorem w_setW_same (x : Hand) (d : BitVec 5) (v : Word) (h : d ≠ 0) : (x.setW d v).w d = v := by
  unfold Hand.setW Hand.w
  rw [if_neg h, if_neg h]
  exact mget_mset_same _ _ _ _

theorem w_setW_other (x : Hand) (d r : BitVec 5) (v : Word) (h : r ≠ d) : (x.setW d v).w r = x.w r := by
  unfold Hand.setW Hand.w
  split
  · rfl
  · split
    · rfl
    · exact mget_mset_other _ _ _ _ _ (fun e => h (BitVec.eq_of_toNat_eq e))

@[simp] theorem w_done (x : Hand) (pc : BitVec 18) (r : BitVec 5) : (x.done pc).w r = x.w r := rfl

/-! ### Completion -/

theorem hand_complete (s : Chip) (h : HandId) (d : BitVec 5) (v : Word) :
    (s.complete h d v).hand h = ((s.hand h).setW d v).done (nextPc h (s.hand h).pc) := hand_setHand _ _ _

theorem hand_complete_other (s : Chip) (h k : HandId) (d : BitVec 5) (v : Word) (hk : k ≠ h) :
    (s.complete h d v).hand k = s.hand k := hand_setHand_other _ _ _ _ hk

theorem hand_advance (s : Chip) (h : HandId) : (s.advance h).hand h = (s.hand h).done (nextPc h (s.hand h).pc) := hand_setHand _ _ _

theorem hand_advance_other (s : Chip) (h k : HandId) (hk : k ≠ h) : (s.advance h).hand k = s.hand k := hand_setHand_other _ _ _ _ hk

@[simp] theorem complete_get (s : Chip) (h : HandId) (d : BitVec 5) (v : Word) (g : Fld) : (s.complete h d v).get g = s.get g := rfl
@[simp] theorem advance_get (s : Chip) (h : HandId) (g : Fld) : (s.advance h).get g = s.get g := rfl

/-! ### What keeps a hand -/

/-- A fold keeps what each of its steps keeps. -/
theorem foldl_keeps {α β γ : Type} (g : α → γ) (f : α → β → α) (l : List β) (s : α) (hf : ∀ a b, g (f a b) = g a) :
    g (l.foldl f s) = g s := by
  induction l generalizing s with
  | nil => rfl
  | cons b r ih => rw [List.foldl_cons, ih, hf]

@[simp] theorem endSequence_cores (s : Chip) (k : Nat) : (s.endSequence k).cores = s.cores := by
  unfold Chip.endSequence
  split <;> rfl

theorem hand_withdrawLocks (s : Chip) (h k : HandId) : (s.withdrawLocks h).hand k = s.hand k := by
  unfold Chip.withdrawLocks
  exact foldl_keeps (fun c : Chip => c.hand k) _ _ _ (fun _ _ => rfl)

theorem restarts_withdrawLocks (s : Chip) (h : HandId) : (s.withdrawLocks h).cores.restarts = s.cores.restarts := by
  unfold Chip.withdrawLocks
  exact foldl_keeps (fun c : Chip => c.cores.restarts) _ _ _ (fun _ _ => rfl)

theorem get_withdrawLocks (s : Chip) (h : HandId) (g : Fld) : (s.withdrawLocks h).get g = s.get g := by
  unfold Chip.withdrawLocks
  exact foldl_keeps (fun c : Chip => c.get g) _ _ _ (fun _ _ => rfl)

@[simp] theorem dropTat_cores (s : Chip) (h : HandId) : (s.dropTat h).cores = s.cores := rfl
@[simp] theorem dropTat_hand (s : Chip) (h k : HandId) : (s.dropTat h).hand k = s.hand k := rfl
@[simp] theorem dropTat_get (s : Chip) (h : HandId) (g : Fld) : (s.dropTat h).get g = s.get g := rfl

theorem hand_withdrawStalled (s : Chip) (h k : HandId) : (s.withdrawStalled h).hand k = s.hand k := by
  unfold Chip.withdrawStalled
  split
  · exact hand_withdrawLocks s h k
  · rfl
  · rfl

theorem restarts_withdrawStalled (s : Chip) (h : HandId) : (s.withdrawStalled h).cores.restarts = s.cores.restarts := by
  unfold Chip.withdrawStalled
  split
  · exact restarts_withdrawLocks s h
  · rfl
  · rfl

theorem get_withdrawStalled (s : Chip) (h : HandId) (g : Fld) : (s.withdrawStalled h).get g = s.get g := by
  unfold Chip.withdrawStalled
  split
  · exact get_withdrawLocks s h g
  · rfl
  · rfl

theorem hand_releaseLocks (s : Chip) (h k : HandId) : (s.releaseLocks h).hand k = s.hand k := by
  unfold Chip.releaseLocks
  rw [foldl_keeps (fun c : Chip => c.hand k)]
  · exact hand_withdrawLocks s h k
  · intro c j
    dsimp only
    split
    · unfold Chip.endSequence
      split <;> rfl
    · rfl

theorem hand_releaseCregs (s : Chip) (h k : HandId) (m : Nat) : (s.releaseCregs h m).hand k = s.hand k := by
  unfold Chip.releaseCregs
  apply foldl_keeps (fun c : Chip => c.hand k)
  intro c j
  split <;> rfl

theorem hand_haltHand_other (s : Chip) (h k : HandId) (hk : k ≠ h) : (s.haltHand h).hand k = s.hand k := by
  unfold Chip.haltHand
  simp only
  rw [hand_releaseLocks, dropTat_hand]
  split
  · rw [hand_releaseCregs, hand_setHand_other _ _ _ _ hk]
    rfl
  · rw [hand_setHand_other _ _ _ _ hk]
    rfl

theorem get_releaseLocks (s : Chip) (h : HandId) (g : Fld) : (s.releaseLocks h).get g = s.get g := by
  unfold Chip.releaseLocks
  rw [foldl_keeps (fun c : Chip => c.get g)]
  · exact get_withdrawLocks _ _ _
  · intro c j
    dsimp only
    split
    · unfold Chip.endSequence
      split <;> rfl
    · rfl

/-- Halting a hand changes no register field. -/
theorem get_haltHand (s : Chip) (h : HandId) (g : Fld) : (s.haltHand h).get g = s.get g := by
  unfold Chip.haltHand
  simp only
  rw [get_releaseLocks, dropTat_get]
  split
  · unfold Chip.releaseCregs
    rw [foldl_keeps (fun c : Chip => c.get g)]
    · rfl
    · intro c j
      split <;> rfl
  · rfl

/-- A hand that halts is Halted. -/
theorem state_haltHand (s : Chip) (h : HandId) : ((s.haltHand h).hand h).state = .halted := by
  unfold Chip.haltHand
  simp only
  rw [hand_releaseLocks, dropTat_hand]
  split
  · rw [hand_releaseCregs, hand_setHand]
  · rw [hand_setHand]

@[simp] theorem recordCause_cores (s : Chip) (h : HandId) (c : Nat) (dbl : Bool) (epc : BitVec 18) :
    (s.recordCause h c dbl epc).cores = s.cores := by
  unfold Chip.recordCause
  split
  · rfl
  · split <;> rfl

@[simp] theorem dropRef_cores (s : Chip) (b : Nat) : (s.dropRef b).cores = s.cores := by
  unfold Chip.dropRef Chip.tidyBlock
  simp only
  split <;> rfl

/-- Refilling a ring touches no part of the cores but the rings. -/
theorem refill_keeps {γ : Type} (g : Cores → γ) (s : Chip) (r : Nat)
    (hg : ∀ (c : Chip) (x : Ring), g (c.setRing r x).cores = g c.cores) : g (s.refill r).cores = g s.cores := by
  unfold Chip.refill
  simp only
  split
  · rfl
  · rw [foldl_keeps (fun c : Chip => g c.cores)]
    · exact hg _ _
    · intro c e
      split
      · rw [dropRef_cores]
      · rfl

/-! ### Traps (R263) -/

/-- The hand after a trap that it takes. -/
def trapped (x : Hand) (cause : Nat) (tval : Word) (epc : BitVec 18) : Hand :=
  { x with
    state := .run, stalled := none, waiting := none, yielding := false, fence := none, tcause := cause, tepc := epc,
    tval := tval, inTrap := true, pc := BitVec.ofNat 18 x.tvec }

/-- The chip in which a trapping hand's cause and event are recorded (R263 step 4). -/
def trapRecord (s : Chip) (h : HandId) (cause : Nat) (dbl : Bool) (epc : BitVec 18) : Chip :=
  if onBench h then (s.recordCause h cause dbl epc).evtBit (BCH_EVT_TRAP (benchOf h)) (handOf h) else s.recordCause h cause dbl epc

@[simp] theorem trapRecord_cores (s : Chip) (h : HandId) (c : Nat) (dbl : Bool) (epc : BitVec 18) :
    (trapRecord s h c dbl epc).cores = s.cores := by
  unfold trapRecord
  split <;> simp

/-- A trap that a hand takes, of a cause that is no source of doubt or in a hand that owns no field outputs and is no planted unit's
in its health window. -/
theorem trap_taken (s : Chip) (h : HandId) (cause : Nat) (tval : Word) (epc : BitVec 18) (ht : (s.hand h).takesTrap = true)
    (hd : doubtCause cause = false) :
    s.trap h cause tval epc
      = ((trapRecord s h cause false (s.hand h).pc).withdrawStalled h).setHand h (trapped (s.hand h) cause tval epc) := by
  simp only [Hand.takesTrap, Bool.and_eq_true, Bool.not_eq_true', decide_eq_true_eq] at ht
  unfold Chip.trap
  simp only [ht.1, ht.2, hd, decide_false, Bool.or_self, Bool.false_eq_true, if_false, and_false]
  rfl

/-! ### The shutter (spec/18_field_io_and_shutter.md R460) -/

theorem foldl_keeps_mem {α β γ : Type} (g : α → γ) (f : α → β → α) (l : List β) (s : α) (hf : ∀ a, ∀ b ∈ l, g (f a b) = g a) :
    g (l.foldl f s) = g s := by
  induction l generalizing s with
  | nil => rfl
  | cons b r ih => rw [List.foldl_cons, ih _ (fun a c hc => hf a c (by simp [hc])), hf _ b (by simp)]

theorem openChannel_cores (s : Chip) (c st : Nat) (hc : c ≠ 4) : (s.openChannel c st).cores = s.cores := by
  unfold Chip.openChannel
  simp only [if_neg hc]
  split
  · rw [evtBit_cores]
    split <;> rfl
  · split <;> rfl

theorem lockPower_cores (s : Chip) : s.lockPower.cores = s.cores := by
  unfold Chip.lockPower
  apply foldl_keeps_mem (fun c : Chip => c.cores)
  intro c k hk
  split
  · apply openChannel_cores
    rintro rfl
    simp at hk
  · rfl

@[simp] theorem driveOut_cores (s : Chip) (i : Nat) (l : Bool) : (s.driveOut i l).cores = s.cores := by
  unfold Chip.driveOut
  split <;> rfl

theorem driveAll_cores (s : Chip) (p : Nat) : (s.driveAll p).cores = s.cores := by
  unfold Chip.driveAll
  exact foldl_keeps (fun c : Chip => c.cores) _ _ _ (fun _ _ => driveOut_cores _ _ _)

/-- A source of doubt touches no core, ring or tag. -/
theorem shutter_cores (s : Chip) (cause : Nat) : (s.shutter cause).cores = s.cores := by
  unfold Chip.shutter
  simp only
  split
  · rfl
  · split <;> simp [lockPower_cores, driveAll_cores]

end Sys2Proof.Laws
end

