-- ==== Sys2Proof/Laws/Orders.lean ====
section
/-! SUPPORT. What starting an order does (spec/13_management_and_dockets.md R362, R363). -/

namespace Sys2Proof.Laws
open Sys2Proof Sys2Proof.Machine Sys2Proof.Machine.Reg

/-- An order that starts is performed on its body, with its slot marked. -/
theorem startOrder_runs {s : Chip} {id : SlotId} {code : Nat} {row : List Byte → Bool} {o : Order} (h : s.starts id code row o)
    (f : Chip → Order → List Byte → Chip) : s.startOrder id code row f = f (s.orderBegun id o) o (o.bytes.drop 16) := by
  unfold Chip.startOrder
  rw [h.1]
  dsimp only
  rw [if_neg (by rcases h.2 with q | q <;> omega)]
  rfl

/-- As `startOrder_runs`, where the order reaches the addressed memories. -/
theorem startOrderS_runs {s : State} {id : SlotId} {code : Nat} {row : List Byte → Bool} {o : Order} (h : s.chip.starts id code row o)
    (f : State → Order → List Byte → State) :
    s.startOrder id code row f = f { s with chip := s.chip.orderBegun id o } o (o.bytes.drop 16) := by
  unfold State.startOrder
  rw [h.1]
  dsimp only
  rw [if_neg (by rcases h.2 with q | q <;> omega)]
  rfl

/-- A slot that holds no such order leaves the chip as it is. -/
theorem startOrder_none {s : Chip} {id : SlotId} {code : Nat} {row : List Byte → Bool} (h : s.orderAt id code row = none)
    (f : Chip → Order → List Byte → Chip) : s.startOrder id code row f = s := by
  unfold Chip.startOrder
  rw [h]

/-- An order past its DEADLINE returns TIMEOUT. -/
theorem startOrder_late {s : Chip} {id : SlotId} {code : Nat} {row : List Byte → Bool} {o : Order} (h : s.orderAt id code row = some o)
    (hd : rd o.bytes 8 8 ≠ 0) (hn : rd o.bytes 8 8 ≤ s.ns) (f : Chip → Order → List Byte → Chip) :
    s.startOrder id code row f = s.docketReady id stTimeout [] := by
  unfold Chip.startOrder
  rw [h]
  exact if_pos ⟨hd, hn⟩

/-- As `startOrder_none`, where the order reaches the addressed memories. -/
theorem startOrderS_none {s : State} {id : SlotId} {code : Nat} {row : List Byte → Bool} (h : s.chip.orderAt id code row = none)
    (f : State → Order → List Byte → State) : s.startOrder id code row f = s := by
  unfold State.startOrder
  rw [h]

/-- As `startOrder_late`, where the order reaches the addressed memories. -/
theorem startOrderS_late {s : State} {id : SlotId} {code : Nat} {row : List Byte → Bool} {o : Order}
    (h : s.chip.orderAt id code row = some o) (hd : rd o.bytes 8 8 ≠ 0) (hn : rd o.bytes 8 8 ≤ s.chip.ns)
    (f : State → Order → List Byte → State) :
    s.startOrder id code row f = { s with chip := s.chip.docketReady id stTimeout [] } := by
  unfold State.startOrder
  rw [h]
  exact if_pos ⟨hd, hn⟩

/-- A KEY order whose checks pass is performed on its body. -/
theorem keyOrder_runs {s : Chip} {id : SlotId} {action len : Nat} {zeros : List Nat} {plain : Bool} {o : Order}
    (h : s.keyStarts id action len zeros plain o) (f : Chip → Order → List Byte → Chip) :
    s.keyOrder id action len zeros plain f = f (s.orderBegun id o) o (o.bytes.drop 16) := by
  obtain ⟨h1, h2, h3, h4, h5⟩ := h
  unfold Chip.keyOrder
  rw [startOrder_runs h1, if_neg (by simp [h2, h3]), if_neg (by rcases h4 with q | q <;> simp [q]), if_neg (by simp [h5])]

/-- As `keyOrder_runs`, where the action reaches the addressed memories. -/
theorem keyOrderS_runs {s : State} {id : SlotId} {action len : Nat} {zeros : List Nat} {o : Order}
    (h : s.chip.keyStarts id action len zeros false o) (f : State → Order → List Byte → State) :
    s.keyOrder id action len zeros f = f { s with chip := s.chip.orderBegun id o } o (o.bytes.drop 16) := by
  obtain ⟨h1, h2, h3, h4, h5⟩ := h
  unfold State.keyOrder
  rw [startOrderS_runs h1, if_neg (by simp [h2, h3]), if_neg (by rcases h4 with q | q <;> simp_all), if_neg (by simp [h5])]

end Sys2Proof.Laws
end

