-- ==== Sys2Proof/Laws/Keeps.lean ====
section
/-! SUPPORT. What no operation of the block does: it takes no command from the queue and adds none, and it keeps the canonical form of
the addressed memories. One lemma per operation that reaches them. -/

namespace Sys2Proof.Laws
open Sys2Proof Sys2Proof.Machine Sys2Proof.Machine.Reg

/-- The queue is the same, and the canonical form is kept. -/
structure Keeps (s t : State) : Prop where
  pending : t.pending = s.pending
  wf : Memory.wf s.mem = true → Memory.wf t.mem = true

theorem Keeps.refl (s : State) : Keeps s s := ⟨rfl, id⟩

theorem Keeps.trans {s t u : State} (h : Keeps s t) (g : Keeps t u) : Keeps s u := ⟨g.pending.trans h.pending, fun w => g.wf (h.wf w)⟩

theorem Keeps.chip (s : State) (c : Chip) : Keeps s { s with chip := c } := ⟨rfl, id⟩

/-- A step to a state whose queue and memories are those of one that keeps. -/
theorem Keeps.of {s t u : State} (h : Keeps s t) (hp : u.pending = t.pending) (hm : u.mem = t.mem) : Keeps s u :=
  ⟨hp.trans h.pending, fun w => by rw [hm]; exact h.wf w⟩

theorem Keeps.mem {s : State} {m : Memory} (c : Chip) (h : Memory.wf s.mem = true → Memory.wf m = true) :
    Keeps s { s with chip := c, mem := m } := ⟨rfl, h⟩

theorem keeps_withChip (s : State) (f : Chip → Chip) : Keeps s (s.withChip f) := ⟨rfl, id⟩

theorem keeps_docketReady (s : State) (id : SlotId) (st : Nat) (b : List Byte) : Keeps s (s.docketReady id st b) := keeps_withChip _ _

theorem keeps_settle (s : State) (c : Chip) : Keeps s (s.settle c) := ⟨rfl, wf_settle c⟩

theorem keeps_ite {s a b : State} (c : Prop) [Decidable c] (ha : Keeps s a) (hb : Keeps s b) : Keeps s (if c then a else b) := by
  split
  · exact ha
  · exact hb

/-- A result keeps where every next state does. -/
def KeepsR (s : State) (r : Result) : Prop := ∀ t, r = .next t → Keeps s t

theorem keepsR_next {s t : State} (h : Keeps s t) : KeepsR s (.next t) := by
  intro u hu
  cases hu
  exact h

theorem keepsR_onChip (s : State) (f : Chip → Chip) : KeepsR s (s.onChip f) := keepsR_next ⟨rfl, id⟩

theorem keepsR_onHand (s : State) (f : Chip → Chip) : KeepsR s (s.onHand f) := keepsR_next (keeps_settle _ _)

theorem keepsR_ite {s : State} {a b : Result} (c : Prop) [Decidable c] (ha : KeepsR s a) (hb : KeepsR s b) :
    KeepsR s (if c then a else b) := by
  split
  · exact ha
  · exact hb

theorem keepsR_issue (s : State) (h : HandId) (f : State → State) (hf : Keeps s (f s)) : KeepsR s (s.issue h f) := by
  unfold State.issue
  split
  · exact keepsR_next (Keeps.refl s)
  · split
    · exact keepsR_next (keeps_settle _ _)
    · split
      · exact keepsR_next (keeps_settle _ _)
      · exact keepsR_next hf

theorem keepsR_issueChip (s : State) (h : HandId) (f : Chip → Chip) : KeepsR s (s.issueChip h f) :=
  keepsR_issue _ _ _ (keeps_settle _ _)

theorem keeps_foldl {β : Type} (f : State → β → State) (l : List β) (s : State) (hf : ∀ s b, Keeps s (f s b)) :
    Keeps s (l.foldl f s) := by
  induction l generalizing s with
  | nil => exact Keeps.refl s
  | cons b r ih => exact (hf s b).trans (ih _)

theorem keeps_startOrder (s : State) (id : SlotId) (code : Nat) (row : List Byte → Bool) (f : State → Order → List Byte → State)
    (hf : ∀ s o b, Keeps s (f s o b)) : Keeps s (s.startOrder id code row f) := by
  unfold State.startOrder
  split
  · exact Keeps.refl s
  · dsimp only
    split
    · exact keeps_docketReady _ _ _ _
    · exact (keeps_withChip _ _).trans (hf _ _ _)

theorem keeps_repairOrder (s : State) (id : SlotId) (action : Nat) (bad : List Byte → Bool) (refused : Chip → List Byte → Bool)
    (f : State → List Byte → State) (hf : ∀ s b, Keeps s (f s b)) : Keeps s (s.repairOrder id action bad refused f) := by
  unfold State.repairOrder
  refine keeps_startOrder _ _ _ _ _ (fun s o b => ?_)
  split
  · exact keeps_docketReady _ _ _ _
  · split
    · exact keeps_docketReady _ _ _ _
    · exact (keeps_withChip _ _).trans (hf _ _)

theorem keeps_keyOrder (s : State) (id : SlotId) (action len : Nat) (zeros : List Nat) (f : State → Order → List Byte → State)
    (hf : ∀ s o b, Keeps s (f s o b)) : Keeps s (s.keyOrder id action len zeros f) := by
  unfold State.keyOrder
  refine keeps_startOrder _ _ _ _ _ (fun s o b => ?_)
  split
  · exact keeps_docketReady _ _ _ _
  · split
    · exact keeps_docketReady _ _ _ _
    · split
      · exact keeps_withChip _ _
      · exact hf _ _ _

/-! ### Resets and domains -/

theorem wf_foldl_clear (l : List (Nat × Nat)) (m : Memory) (h : Memory.wf m = true) :
    Memory.wf (l.foldl (fun (m : Memory) r => Memory.clear m r.1 r.2) m) = true := by
  induction l generalizing m with
  | nil => exact h
  | cons r l ih => exact ih _ (wf_clear _ _ h)

theorem keeps_clearDomains (s : State) (mask : Nat) : Keeps s (s.clearDomains mask) := by
  refine ⟨rfl, fun h => ?_⟩
  show Memory.wf ((domainsOf mask).foldl _ s.mem) = true
  generalize s.mem = m at h
  induction domainsOf mask generalizing m with
  | nil => exact h
  | cons d l ih => exact ih _ (wf_foldl_clear _ _ h)

theorem keeps_resetDomains (s : State) (mask : Nat) : Keeps s (s.resetDomains mask) :=
  (Keeps.chip s _).trans (keeps_clearDomains _ _)

theorem keeps_nodeReset (s : State) (kind : Nat) : Keeps s (s.nodeReset kind) :=
  (keeps_withChip s _).trans (keeps_clearDomains _ _)

theorem keeps_coldReset (s : State) (straps : Nat) : Keeps s (s.coldReset straps) := ⟨rfl, wf_clear _ _⟩

theorem keeps_clockFailure (s : State) : Keeps s s.clockFailure := (keeps_nodeReset s _).trans (keeps_withChip _ _)

theorem keeps_rootTrip (s : State) (root : Nat) (ready : Bool) : Keeps s (s.rootTrip root ready) := by
  unfold State.rootTrip
  dsimp only
  split
  · split
    · exact (keeps_withChip _ _).trans (keeps_withChip _ _)
    · exact ((keeps_withChip _ _).trans (keeps_withChip _ _)).trans (keeps_clockFailure _)
  · exact keeps_withChip _ _

/-! ### Data memory, cells and images -/

theorem keeps_load (s : State) (h : HandId) (d a : BitVec 5) (imm : BitVec 16) (size : AccSize) : Keeps s (s.load h d a imm size) := by
  unfold State.load
  dsimp only
  split
  · exact keeps_settle _ _
  · split
    · exact keeps_settle _ _
    · exact Keeps.chip _ _

theorem keeps_store (s : State) (h : HandId) (d a : BitVec 5) (imm : BitVec 16) (size : AccSize) : Keeps s (s.store h d a imm size) := by
  unfold State.store
  dsimp only
  split
  · exact keeps_settle _ _
  · split
    · exact keeps_settle _ _
    · exact ⟨rfl, wf_write _ _ _⟩

theorem keeps_iload (s : State) (b v : Nat) : Keeps s (s.iload b v) := by
  unfold State.iload
  dsimp only
  split
  · exact Keeps.refl s
  · exact ⟨rfl, wf_write _ _ _⟩

theorem keeps_dload (s : State) (b : Nat) (v : Option Nat) : Keeps s (s.dload b v) := by
  unfold State.dload
  dsimp only
  split
  · exact Keeps.refl s
  · cases v
    · exact Keeps.chip _ _
    · exact ⟨rfl, wf_write _ _ _⟩

theorem keeps_moveDone (s : State) (h : HandId) : Keeps s (s.moveDone h) := by
  unfold State.moveDone
  split
  · exact Keeps.refl s
  · exact ⟨rfl, wf_setBytes _ _⟩

theorem keeps_moveIn (s : State) (h : HandId) (creg : Fin 8) (a : BitVec 5) (off : BitVec 14) : Keeps s (s.moveIn h creg a off) := by
  unfold State.moveIn
  dsimp only
  split
  · exact keeps_settle _ _
  · split
    · exact keeps_settle _ _
    · split
      · exact keeps_settle _ _
      · split
        · exact keeps_settle _ _
        · exact Keeps.chip _ _

theorem keeps_loadText (s : State) (core bank at_ : Nat) (img : List Byte) : Keeps s (s.loadText core bank at_ img) :=
  ⟨rfl, wf_setBytes _ _⟩

theorem keeps_loadData (s : State) (core : Nat) (img : List Byte) : Keeps s (s.loadData core img) :=
  ⟨rfl, fun h => wf_setBytes _ _ (wf_clear _ _ h)⟩

theorem keeps_loadBench (s : State) (b : Nat) (img : List Byte) : Keeps s (s.loadBench b img) := by
  unfold State.loadBench
  dsimp only
  refine ⟨rfl, fun h => ?_⟩
  show Memory.wf (Memory.setBytes (Memory.clear (Memory.setBytes s.mem _ _) _ _) _ _) = true
  exact wf_setBytes _ _ (wf_clear _ _ (wf_setBytes _ _ h))

theorem keeps_loadPorter (s : State) (img : List Byte) : Keeps s (s.loadPorter img) := by
  unfold State.loadPorter
  dsimp only
  exact Keeps.of ((keeps_loadText _ _ _ _ _).trans (keeps_loadData _ _ _)) rfl rfl

theorem keeps_loadSteward (s : State) (img : List Byte) : Keeps s (s.loadSteward img) := by
  unfold State.loadSteward
  dsimp only
  exact Keeps.of ((keeps_loadText _ _ _ _ _).trans (keeps_loadData _ _ _)) rfl rfl

/-! ### Start-up -/

theorem keeps_loadBenchItem (s : State) (b : Nat) : Keeps s (s.loadBenchItem b) := by
  unfold State.loadBenchItem
  split
  · exact Keeps.refl s
  · split
    · exact (keeps_loadBench _ _ _).trans (keeps_withChip _ _)
    · exact keeps_withChip _ _

theorem keeps_loadStewardItem (s : State) : Keeps s s.loadStewardItem := by
  unfold State.loadStewardItem
  split
  · exact Keeps.refl s
  · split
    · exact keeps_loadSteward _ _
    · exact Keeps.refl s

theorem keeps_bootTables (s : State) : Keeps s s.bootTables := by
  unfold State.bootTables
  dsimp only
  refine Keeps.trans ?_ (keeps_withChip _ _)
  split
  · exact keeps_withChip _ _
  · exact (((keeps_withChip _ _).trans (keeps_withChip _ _)).trans (keeps_foldl _ _ _ (fun s b => keeps_loadBenchItem s b))).trans
      (keeps_loadStewardItem _)

theorem keeps_bootPorter (s : State) : Keeps s s.bootPorter := by
  unfold State.bootPorter
  dsimp only
  generalize hu : s.withChip (fun c => (c.put CLK_BOOT_STEP 3).loadVkey) = u
  have hk : Keeps s u := hu ▸ keeps_withChip s _
  refine hk.trans ?_
  split
  · exact Keeps.refl _
  · split
    · exact keeps_withChip _ _
    · split
      · exact keeps_withChip _ _
      · generalize hv : u.withChip (fun c => c.put CLK_BOOT_STEP 4) = v
        have hk : Keeps u v := hv ▸ keeps_withChip u _
        refine hk.trans ?_
        split
        · exact keeps_withChip _ _
        · split
          · exact keeps_withChip _ _
          · rename_i e _
            generalize hw : (v.loadPorter e.item).withChip (fun c => c.put CLK_BOOT_STEP 5) = w
            have hk : Keeps v w := hw ▸ (keeps_loadPorter v _).trans (keeps_withChip _ _)
            refine hk.trans ?_
            split
            · exact keeps_withChip _ _
            · exact keeps_bootTables _

theorem keeps_startUp (s : State) (f : StartFind) : Keeps s (s.startUp f) := by
  unfold State.startUp
  dsimp only
  split
  · exact Keeps.refl s
  · split
    · exact keeps_withChip _ _
    · split
      · exact keeps_withChip _ _
      · refine Keeps.trans ?_ (keeps_bootPorter _)
        split <;> split <;>
          first
          | exact Keeps.refl _
          | exact keeps_withChip _ _
          | exact (keeps_withChip _ _).trans (keeps_withChip _ _)

theorem keeps_seedData (s : State) (c : Cell) : Keeps s (s.seedData c) := by
  unfold State.seedData
  dsimp only
  split
  · exact Keeps.refl s
  · split
    · exact Keeps.refl s
    · split
      · split
        · exact ((keeps_withChip s _).trans (keeps_withChip _ _)).trans (keeps_bootPorter _)
        · exact (keeps_withChip s _).trans (keeps_withChip _ _)
      · split
        · exact (keeps_withChip s _).trans (keeps_withChip _ _)
        · exact keeps_withChip s _

end Sys2Proof.Laws
end

