-- ==== Sys2Proof/Laws/KeepsAll.lean ====
section
/-! SUPPORT. That every operation of the bridge, the orders and the ports, and every command keeps the queue and the canonical form of the addressed memories. -/

namespace Sys2Proof.Laws
open Sys2Proof Sys2Proof.Machine Sys2Proof.Machine.Reg

/-! ### Device CSR space -/

theorem keeps_failReq_of (s : State) (r : FarReq) (code : Nat) (h : ∀ t x, Keeps s (s.endAccess t x code 0)) :
    Keeps s (s.failReq r code) := by
  unfold State.failReq
  split
  · exact Keeps.chip _ _
  · split
    · exact Keeps.refl s
    · exact h _ _

theorem keeps_endAccess (s : State) (t : Nat) (x : Tag) (code : Nat) (v : Word) : Keeps s (s.endAccess t x code v) := by
  unfold State.endAccess
  dsimp only
  split
  · split <;> exact keeps_settle _ _
  · exact ⟨rfl, wf_ldxWords _ _ _ _⟩
  · exact Keeps.chip _ _
  · split <;> exact Keeps.chip _ _
  · exact Keeps.chip _ _

theorem keeps_failReq (s : State) (r : FarReq) (code : Nat) : Keeps s (s.failReq r code) :=
  keeps_failReq_of s r code (fun _ _ => keeps_endAccess _ _ _ _ _)

theorem keeps_failBus (s : State) (k code : Nat) : Keeps s (s.failBus k code) := by
  unfold State.failBus
  dsimp only
  exact (Keeps.chip s _).trans (keeps_foldl _ _ _ (fun s r => keeps_failReq s r _))

theorem keeps_pciDown (s : State) : Keeps s s.pciDown := by
  unfold State.pciDown
  split
  · exact (Keeps.chip s _).trans (keeps_failBus _ _ _)
  · exact Keeps.refl s

theorem keeps_pciDisable (s : State) : Keeps s s.pciDisable := by
  unfold State.pciDisable
  split
  · exact Keeps.refl s
  · dsimp only
    exact ((Keeps.chip s _).trans (keeps_pciDown _)).trans ⟨rfl, wf_clear _ _⟩

theorem keeps_csrGet (s : State) (a : Nat) : Keeps s (s.csrGet a).2 := by
  unfold State.csrGet
  dsimp only
  split
  · exact Keeps.refl s
  · split
    · show Keeps s (s.dload _ none)
      exact keeps_dload _ _ _
    · split
      · exact Keeps.refl s
      · split
        · exact Keeps.chip _ _
        · exact Keeps.chip _ _

theorem keeps_csrPut (s : State) (a v : Nat) : Keeps s (s.csrPut a v) := by
  unfold State.csrPut
  dsimp only
  split
  · exact Keeps.refl s
  · split
    · exact Keeps.refl s
    · split
      · exact ((Keeps.chip s _).trans (Keeps.chip _ _)).trans (keeps_settle _ _)
      · split
        · exact keeps_iload _ _ _
        · split
          · exact keeps_dload _ _ _
          · split
            · exact ⟨rfl, wf_write _ _ _⟩
            · split
              · split
                · exact ((Keeps.chip s _).trans (keeps_nodeReset _ _)).trans (keeps_withChip _ _)
                · exact Keeps.chip _ _
              · split
                · split
                  · exact Keeps.chip _ _
                  · exact (Keeps.chip s _).trans (keeps_pciDisable _)
                · exact Keeps.chip _ _

theorem keeps_csrRead (s : State) (a : Nat) (z : AccSize) : Keeps s (s.csrRead a z).2 := by
  unfold State.csrRead
  split
  · exact Keeps.refl s
  · exact keeps_csrGet _ _

theorem keeps_csrWrite (s : State) (a : Nat) (z : AccSize) (v : Nat) : Keeps s (s.csrWrite a z v).2 := by
  unfold State.csrWrite
  split
  · exact Keeps.refl s
  · exact keeps_csrPut _ _ _

/-! ### The bridge -/

theorem keeps_deviceAccess (s : State) (r : FarReq) : Keeps s (s.deviceAccess r) := by
  have g : ∀ x : CsrAnswer × State, Keeps s x.2 → Keeps s (match r.tag with
      | some t => { x.2 with chip := x.2.chip.settleTag t x.1.code (BitVec.ofNat 32 x.1.value) }
      | none => if x.1.code = 0 then x.2 else { x.2 with chip := x.2.chip.farLog r.hand r.far.toNat x.1.code false }) := by
    intro x h
    split
    · exact Keeps.of h rfl rfl
    · split
      · exact h
      · exact Keeps.of h rfl rfl
  unfold State.deviceAccess
  cases r.write
  · exact g _ (keeps_csrRead _ _ _)
  · exact g _ (keeps_csrWrite _ _ _ _)

theorem keeps_perform (s : State) (r : FarReq) : Keeps s (s.perform r) := by
  unfold State.perform
  split
  · exact keeps_deviceAccess _ _
  · split
    · exact Keeps.chip _ _
    · split
      · exact Keeps.chip _ _
      · exact Keeps.refl s

theorem keeps_ldxBody (s : State) (h : HandId) (d a : BitVec 5) (z : AccSize) : Keeps s (s.ldxBody h d a z) := by
  unfold State.ldxBody
  dsimp only
  split
  · exact keeps_settle _ _
  · split
    · exact Keeps.chip _ _
    · exact (Keeps.chip s _).trans (keeps_perform _ _)

theorem keeps_ldxMemBody (s : State) (h : HandId) (a b : BitVec 5) (z : AccSize) : Keeps s (s.ldxMemBody h a b z) := by
  unfold State.ldxMemBody
  dsimp only
  split
  · exact keeps_settle _ _
  · split
    · exact keeps_settle _ _
    · split
      · exact keeps_settle _ _
      · split
        · exact Keeps.chip _ _
        · exact (Keeps.chip s _).trans (keeps_perform _ _)

theorem keeps_stxBody (s : State) (h : HandId) (d a : BitVec 5) (z : AccSize) : Keeps s (s.stxBody h d a z) := by
  unfold State.stxBody
  dsimp only
  split
  · exact keeps_settle _ _
  · split
    · split
      · exact Keeps.chip _ _
      · exact (Keeps.chip s _).trans (keeps_perform _ _)
    · split
      · exact Keeps.chip _ _
      · exact (Keeps.chip s _).trans (keeps_perform _ _)

theorem keeps_csrRun (s : State) (t : Nat) (id : SlotId) (code : Nat) (body : List Byte) (done : Nat) (got : List Byte) (fuel : Nat) :
    Keeps s (s.csrRun t id code body done got fuel) := by
  induction fuel generalizing s done got with
  | zero =>
    unfold State.csrRun
    exact Keeps.chip _ _
  | succ n ih =>
    unfold State.csrRun
    dsimp only
    split
    · exact Keeps.chip _ _
    · split
      · exact Keeps.chip _ _
      · split
        · exact Keeps.chip _ _
        · split
          · have h := fun c r => (Keeps.chip s c).trans (keeps_deviceAccess { s with chip := c } r)
            split
            · split
              · split
                · exact (h _ _).trans (ih _ _ _)
                · exact Keeps.of (h _ _) rfl rfl
              · exact Keeps.of (h _ _) rfl rfl
              · exact h _ _
            · exact h _ _
          · split
            · exact (keeps_perform _ _).trans (ih _ _ _)
            · exact (Keeps.chip s _).trans (keeps_perform _ _)

theorem keeps_csrGoOn (s : State) (t : Nat) : Keeps s (s.csrGoOn t) := by
  unfold State.csrGoOn
  split
  · split
    · split
      · exact (Keeps.chip s _).trans (keeps_csrRun _ _ _ _ _ _ _ _)
      · exact Keeps.chip _ _
    · exact Keeps.refl s
  · exact Keeps.refl s

theorem keeps_csrOrder (s : State) (id : SlotId) (code : Nat) : Keeps s (s.csrOrder id code) := by
  unfold State.csrOrder
  split
  · exact Keeps.refl s
  · refine keeps_startOrder _ _ _ _ _ (fun s o b => ?_)
    split
    · exact keeps_docketReady _ _ _ _
    · split
      · exact keeps_docketReady _ _ _ _
      · exact keeps_csrRun _ _ _ _ _ _ _ _

theorem keeps_transferDone (s : State) (k : Nat) (r : FarReq) (code : Nat) (b : List Byte) : Keeps s (s.transferDone k r code b) := by
  unfold State.transferDone
  dsimp only
  split
  · exact Keeps.chip _ _
  · split
    · exact Keeps.chip _ _
    · exact (Keeps.chip s _).trans (keeps_endAccess _ _ _ _ _)

theorem keeps_farComplete (s : State) (a : FarAccess) (code : Nat) (b : List Byte) : Keeps s (s.farComplete a code b) := by
  unfold State.farComplete
  split
  · split
    · split
      · exact keeps_transferDone _ _ _ _ _
      · exact Keeps.refl s
    · exact Keeps.refl s
  · split
    · split
      · exact keeps_transferDone _ _ _ _ _
      · exact Keeps.refl s
    · split
      · exact Keeps.chip _ _
      · split
        · exact keeps_endAccess _ _ _ _ _
        · split
          · exact keeps_endAccess _ _ _ _ _
          · exact Keeps.refl s

theorem keeps_completion (s : State) (a : FarAccess) (code : Nat) (b : List Byte) : Keeps s (s.completion a code b) := by
  unfold State.completion
  dsimp only
  split
  · exact (keeps_farComplete _ _ _ _).trans (keeps_csrGoOn _ _)
  · exact keeps_farComplete _ _ _ _

theorem keeps_lockWdog (s : State) (k d : Nat) : Keeps s (s.lockWdog k d) := by
  unfold State.lockWdog
  dsimp only
  split
  · exact Keeps.refl s
  · exact keeps_settle _ _
  · refine Keeps.trans ?_ (keeps_settle _ _)
    split
    · split
      · exact (Keeps.chip s _).trans (keeps_failReq _ _ _)
      · exact Keeps.chip s _
    · exact (Keeps.chip s _).trans (keeps_failReq _ _ _)

theorem keeps_rcsrRead (s : State) (n r a : Nat) : Keeps s (s.rcsrRead n r a) := by
  unfold State.rcsrRead
  dsimp only
  split
  · exact Keeps.of ((Keeps.chip s _).trans (keeps_csrRead _ _ _)) rfl rfl
  · exact Keeps.chip _ _

theorem keeps_rcsrWrite (s : State) (n r a v : Nat) : Keeps s (s.rcsrWrite n r a v) := by
  unfold State.rcsrWrite
  dsimp only
  split
  · exact Keeps.of ((Keeps.chip s _).trans (keeps_csrWrite _ _ _ _)) rfl rfl
  · exact Keeps.chip _ _

theorem keeps_rcsrResponse (s : State) (n r code : Nat) (v : Word) : Keeps s (s.rcsrResponse n r code v) := by
  unfold State.rcsrResponse
  dsimp only
  split
  · split
    · exact Keeps.chip _ _
    · exact Keeps.chip _ _
  · split
    · split
      · exact ((Keeps.chip s _).trans (keeps_endAccess _ _ _ _ _)).trans (keeps_csrGoOn _ _)
      · exact Keeps.chip _ _
    · exact Keeps.chip _ _

theorem keeps_again (s : State) (h : HandId) (i : Instr) : Keeps s (s.again h i) := by
  unfold State.again
  dsimp only
  split <;>
    first
    | exact keeps_settle _ _
    | exact Keeps.refl s
    | exact keeps_ldxMemBody _ _ _ _ _
    | exact keeps_stxBody _ _ _ _ _
    | (split
       · exact Keeps.refl s
       · first
         | exact keeps_settle _ _
         | exact keeps_ldxBody _ _ _ _ _)

theorem keeps_resumeStall (s : State) (h : HandId) : Keeps s (s.resumeStall h) := by
  unfold State.resumeStall
  dsimp only
  split
  · split
    · exact Keeps.refl s
    · split
      · exact keeps_settle _ _
      · exact keeps_again _ _ _
  · exact Keeps.refl s

/-! ### Ports -/

theorem keeps_pciCplTmo (s : State) (t : Nat) : Keeps s (s.pciCplTmo t) := by
  unfold State.pciCplTmo
  split
  · split
    · exact Keeps.refl s
    · exact (Keeps.chip s _).trans (keeps_endAccess _ _ _ _ _)
  · exact Keeps.refl s

theorem keeps_inbound (s : State) (a n : Nat) (w : Option (List Byte)) : Keeps s (s.inbound a n w) := by
  unfold State.inbound
  dsimp only
  refine keeps_ite _ (Keeps.refl s) ?_
  cases w with
  | none => exact keeps_ite _ (Keeps.chip _ _) (Keeps.chip _ _)
  | some b =>
    exact keeps_ite _ ⟨rfl, wf_setBytes _ _⟩ (keeps_ite _ (keeps_ite _ (Keeps.chip _ _) (Keeps.refl s)) (Keeps.chip _ _))

theorem keeps_sbufWr (s : State) (r : Nat) (x : Cell) (e : EccFind) : Keeps s (s.sbufWr r x e) := by
  unfold State.sbufWr
  dsimp only
  split
  · exact Keeps.refl s
  · split
    · exact Keeps.chip _ _
    · split
      · exact Keeps.chip _ _
      · exact ⟨rfl, wf_setBytes _ _⟩

theorem keeps_sbufRd (s : State) (r : Nat) (x : Cell) (e : EccFind) : Keeps s (s.sbufRd r x e) := by
  unfold State.sbufRd
  dsimp only
  split
  · exact Keeps.refl s
  · split
    · exact Keeps.chip _ _
    · split <;> exact Keeps.chip _ _

theorem keeps_usbToken (s : State) (i : Bool) (e : Nat) (d : List Byte) (k : Bool) : Keeps s (s.usbToken i e d k) := by
  unfold State.usbToken
  dsimp only
  split
  · exact Keeps.chip _ _
  · split
    · exact Keeps.chip _ _
    · split
      · split
        · split <;> exact Keeps.chip _ _
        · split
          · exact Keeps.chip _ _
          · exact ⟨rfl, wf_setBytes _ _⟩
      · split <;> exact Keeps.chip _ _

theorem keeps_setupRx (s : State) (p : Nat) : Keeps s (s.setupRx p) := by
  unfold State.setupRx
  dsimp only
  split
  · exact Keeps.chip _ _
  · exact ⟨rfl, wf_setBytes _ _⟩

theorem keeps_dspCell (s : State) (x : Cell) (e : EccFind) : Keeps s (s.dspCell x e) := by
  unfold State.dspCell
  dsimp only
  split
  · exact Keeps.refl s
  · split
    · exact Keeps.chip _ _
    · split
      · exact Keeps.chip _ _
      · split
        · exact ⟨rfl, wf_setBytes _ _⟩
        · split <;> exact Keeps.chip _ _

/-! ### Power states -/

theorem keeps_domainDown (s : State) (d : Nat) : Keeps s (s.domainDown d) := by
  unfold State.domainDown
  split
  iterate 8 exact keeps_withChip _ _
  · exact (keeps_failBus _ _ _).trans (keeps_withChip _ _)
  · exact keeps_withChip _ _
  · exact ((((keeps_withChip s _).trans (keeps_failBus _ _ _)).trans (keeps_failBus _ _ _)).trans (keeps_failBus _ _ _)).trans
      (keeps_failBus _ _ _)
  · exact keeps_withChip _ _
  · exact Keeps.refl s

theorem keeps_switchOff (s : State) (mask : Nat) : Keeps s (s.switchOff mask) :=
  keeps_foldl _ _ _ (fun s d => by
    unfold State.domainOff
    exact ((keeps_domainDown s d).trans (keeps_resetDomains _ _)).trans (keeps_withChip _ _))

theorem keeps_reloadBench (s : State) (b : Nat) : Keeps s (s.reloadBench b) := by
  unfold State.reloadBench
  split
  · exact Keeps.refl s
  · split
    · exact (keeps_loadBench _ _ _).trans (keeps_withChip _ _)
    · exact Keeps.refl s

theorem keeps_domainUp (s : State) (d : Nat) : Keeps s (s.domainUp d) := by
  unfold State.domainUp
  split <;>
    first
    | exact Keeps.refl s
    | exact keeps_withChip _ _
    | exact keeps_foldl _ _ _ (fun s b => keeps_reloadBench s b)

theorem keeps_switchOn (s : State) (mask : Nat) : Keeps s (s.switchOn mask) :=
  keeps_foldl _ _ _ (fun s d => by
    unfold State.domainOn
    exact (((keeps_withChip s _).trans (keeps_resetDomains _ _)).trans (keeps_withChip _ _)).trans (keeps_domainUp _ d))

theorem keeps_wakeNow (s : State) (src straps : Nat) : Keeps s (s.wakeNow src straps) :=
  ((keeps_withChip s _).trans (keeps_nodeReset _ _)).trans (keeps_withChip _ _)

theorem keeps_dormantNow (s : State) (q : PowerSeq) : Keeps s (s.dormantNow q) := by
  unfold State.dormantNow
  dsimp only
  split
  · exact (keeps_withChip s _).trans (keeps_wakeNow _ _ _)
  · exact keeps_withChip _ _

theorem keeps_powerApply (s : State) (q : PowerSeq) : Keeps s (s.powerApply q) := by
  unfold State.powerApply
  dsimp only
  have h : ∀ f m, Keeps s ((s.withChip f).switchOff m) := fun f m => (keeps_withChip s f).trans (keeps_switchOff _ _)
  split
  · exact ((h _ _).trans (keeps_switchOn _ _)).trans (keeps_dormantNow _ _)
  · exact ((h _ _).trans (keeps_switchOn _ _)).trans (keeps_withChip _ _)

theorem keeps_powerGo (s : State) : Keeps s s.powerGo := by
  unfold State.powerGo
  split
  · split
    · exact keeps_powerApply _ _
    · exact Keeps.refl s
  · exact Keeps.refl s

theorem keeps_drainDone (s : State) : Keeps s s.drainDone := by
  unfold State.drainDone
  split
  · split
    · exact keeps_powerApply _ _
    · exact Keeps.refl s
  · exact Keeps.refl s

theorem keeps_wakeFrom (s : State) (src straps : Nat) : Keeps s (s.wakeFrom src straps) := by
  unfold State.wakeFrom
  split
  · exact Keeps.refl s
  · split
    · exact keeps_wakeNow _ _ _
    · split
      · split
        · exact keeps_withChip _ _
        · exact Keeps.refl s
      · exact Keeps.refl s

/-! ### Updates and repair -/

theorem keeps_takeSegment (s : State) (id : SlotId) (b : List Byte) : Keeps s (s.takeSegment id b) := by
  unfold State.takeSegment
  dsimp only
  refine keeps_ite _ ?_ ?_
  · exact Keeps.trans (t := { s with mem := Memory.setBytes s.mem (stagingBase + rd b 4 4) (b.drop 16) }) ⟨rfl, wf_setBytes _ _⟩
      ((keeps_withChip _ _).trans (keeps_docketReady _ _ _ _))
  · exact Keeps.trans (t := { s with mem := Memory.setBytes s.mem (stagingBase + rd b 4 4) (b.drop 16) }) ⟨rfl, wf_setBytes _ _⟩
      ((keeps_withChip _ _).trans (keeps_docketReady _ _ _ _))

theorem keeps_putBlock (s : State) (id : SlotId) : Keeps s (s.putBlock id) := by
  unfold State.putBlock
  refine keeps_startOrder _ _ _ _ _ (fun s o b => ?_)
  split
  · exact keeps_docketReady _ _ _ _
  · split
    · exact keeps_docketReady _ _ _ _
    · split
      · exact keeps_docketReady _ _ _ _
      · exact keeps_takeSegment _ _ _

theorem keeps_verifyImage (s : State) (id : SlotId) : Keeps s (s.verifyImage id) := by
  unfold State.verifyImage
  exact keeps_startOrder _ _ _ _ _ (fun s o b => keeps_withChip _ _)

theorem keeps_swapIn (s : State) (core : Nat) (k : Bool) : Keeps s (s.swapIn core k) := by
  unfold State.swapIn
  dsimp only
  split
  · exact Keeps.refl s
  · refine Keeps.trans ?_ (keeps_withChip _ _)
    have h : ∀ f g i j m b, Keeps s ((((s.withChip f).loadText core b i j).withChip g).withChip m) := fun f g i j m b =>
      (((keeps_withChip s f).trans (keeps_loadText _ _ _ _ _)).trans (keeps_withChip _ g)).trans (keeps_withChip _ m)
    split
    · exact h _ _ _ _ _ _
    · exact (h _ _ _ _ _ _).trans (keeps_loadData _ _ _)

theorem keeps_swapBack (s : State) (v : UnitSave) (k : Bool) : Keeps s (s.swapBack v k) := by
  unfold State.swapBack
  extract_lets core u v w
  refine Keeps.trans ?_ (keeps_withChip _ _)
  have h : Keeps s v := (keeps_withChip s _).trans (keeps_withChip _ _)
  unfold w
  split
  · exact h
  · split
    · split
      · exact h.trans (keeps_loadData _ _ _)
      · exact h
    · exact h

theorem keeps_plantFrozen (s : State) : Keeps s s.plantFrozen := by
  unfold State.plantFrozen
  dsimp only
  split
  · exact Keeps.refl s
  · split
    · exact Keeps.refl s
    · rename_i p _ _
      have h : ∀ l, Keeps s (List.foldl (fun (s_1 : State) (c : Nat) =>
          if s.chip.get UPD_STAT_PHASE = 3 then s_1.swapIn c p.keepData
          else match p.saves.find? (fun v => v.core == c) with
          | some v => s_1.swapBack v p.keepData
          | none => s_1) s l) := fun l => keeps_foldl _ _ _ (fun s b => by
        split
        · exact keeps_swapIn _ _ _
        · split
          · exact keeps_swapBack _ _ _
          · exact Keeps.refl _)
      split
      · exact (h _).trans (keeps_withChip _ _)
      · exact ((h _).trans (keeps_withChip _ _)).trans (keeps_withChip _ _)

theorem keeps_loadShugon (s : State) : Keeps s s.loadShugon := by
  unfold State.loadShugon
  split
  · exact ⟨rfl, fun w => wf_setBytes _ _ (wf_setBytes _ _ w)⟩
  · exact Keeps.refl s

theorem keeps_shugonDone (s : State) : Keeps s s.shugonDone := by
  unfold State.shugonDone
  split
  · exact Keeps.refl s
  · rename_i k _
    extract_lets back u v newPorter w more x y
    have a : Keeps s u := keeps_loadShugon s
    have b : Keeps s v := by
      unfold v
      split
      · exact a.trans (keeps_withChip _ _)
      · exact a
    have c : Keeps s w := by
      unfold w
      split
      · exact b.trans (keeps_loadPorter _ _)
      · exact b
    have d : Keeps s y := (c.trans (keeps_withChip _ _)).trans (keeps_withChip _ _)
    split
    · exact keeps_ite _ (d.trans (keeps_withChip _ _)) d
    · exact d

theorem keeps_plantInstant (s : State) : Keeps s s.plantInstant := by
  unfold State.plantInstant
  exact keeps_ite _ ((keeps_withChip _ _).trans (keeps_loadShugon _)) (keeps_withChip _ _)

theorem keeps_migrateCopy (s : State) : Keeps s s.migrateCopy := by
  unfold State.migrateCopy
  split
  · exact Keeps.refl s
  · split
    · exact Keeps.refl s
    · have h : ∀ a b, Keeps s (s.moveStores a b) := fun a b => ⟨rfl, fun w => mwf_moveKeys _ _ _ (mwf_copyKeys _ _ _ w)⟩
      exact (h _ _).trans (keeps_withChip _ _)

/-! ### Keys that arrive -/

theorem keeps_replacementSettings (s : State) : Keeps s s.replacementSettings := by
  unfold State.replacementSettings
  dsimp only
  split
  · refine Keeps.trans ?_ (keeps_withChip _ _)
    unfold State.applyOwnRecord
    split
    · exact Keeps.chip _ _
    · split
      · exact Keeps.chip _ _
      · exact (Keeps.chip s _).trans (keeps_foldl _ _ _ (fun s e => keeps_csrWrite s _ _ _))
  · exact Keeps.chip _ _

theorem keeps_provision (s : State) (id : SlotId) : Keeps s (s.provision id) := by
  unfold State.provision
  refine keeps_keyOrder _ _ _ _ _ _ (fun s o b => ?_)
  dsimp only
  split
  · exact keeps_docketReady _ _ _ _
  · split
    · exact keeps_withChip _ _
    · exact (keeps_withChip _ _).trans (keeps_replacementSettings _)

theorem keeps_tagTimeout (s : State) (tag : Nat) : Keeps s (
    match s.chip.tagAt tag with
    | some x =>
      let c := (List.range 5).foldl (fun (c : Chip) k =>
        let b := c.bus k
        c.setBus k { b with tries := b.tries.filter (fun t => match t.req with
          | some r => r.tag != some tag
          | none => true) }) s.chip
      State.endAccess { s with chip := c } tag x 8 0
    | none =>
      { s with chip := { s.chip with ends := { s.chip.ends with blockTags := mset false s.chip.ends.blockTags tag false } } }) := by
  split
  · exact (Keeps.chip s _).trans (keeps_endAccess _ _ _ _ _)
  · exact Keeps.chip _ _

theorem keepsR_illegal (h : HandId) (w : Word) (s : State) : KeepsR s (execIllegalInstruction h w s) := by
  unfold execIllegalInstruction
  split
  · exact keepsR_next (Keeps.refl s)
  · exact keepsR_issueChip _ _ _

/-! ### Every command -/

/-- Every command keeps the queue and the canonical form. -/
theorem keeps_exec (i : Instr) (s : State) : KeepsR s (exec i s) := by
  cases i
  case add => unfold exec execAdd; exact keepsR_issueChip _ _ _
  case sub => unfold exec execSub; exact keepsR_issueChip _ _ _
  case and => unfold exec execAnd; exact keepsR_issueChip _ _ _
  case or => unfold exec execOr; exact keepsR_issueChip _ _ _
  case xor => unfold exec execXor; exact keepsR_issueChip _ _ _
  case andn => unfold exec execAndn; exact keepsR_issueChip _ _ _
  case sll => unfold exec execSll; exact keepsR_issueChip _ _ _
  case srl => unfold exec execSrl; exact keepsR_issueChip _ _ _
  case sra => unfold exec execSra; exact keepsR_issueChip _ _ _
  case ror => unfold exec execRor; exact keepsR_issueChip _ _ _
  case cmp => unfold exec execCmp; exact keepsR_issueChip _ _ _
  case min => unfold exec execMin; exact keepsR_issueChip _ _ _
  case max => unfold exec execMax; exact keepsR_issueChip _ _ _
  case minu => unfold exec execMinu; exact keepsR_issueChip _ _ _
  case maxu => unfold exec execMaxu; exact keepsR_issueChip _ _ _
  case mul => unfold exec execMul; exact keepsR_issueChip _ _ _
  case mulh => unfold exec execMulh; exact keepsR_issueChip _ _ _
  case mulhu => unfold exec execMulhu; exact keepsR_issueChip _ _ _
  case div => unfold exec execDiv; exact keepsR_issueChip _ _ _
  case divu => unfold exec execDivu; exact keepsR_issueChip _ _ _
  case rem => unfold exec execRem; exact keepsR_issueChip _ _ _
  case remu => unfold exec execRemu; exact keepsR_issueChip _ _ _
  case clz => unfold exec execClz; exact keepsR_issueChip _ _ _
  case popc => unfold exec execPopc; exact keepsR_issueChip _ _ _
  case bswap => unfold exec execBswap; exact keepsR_issueChip _ _ _
  case sextb => unfold exec execSextb; exact keepsR_issueChip _ _ _
  case sexth => unfold exec execSexth; exact keepsR_issueChip _ _ _
  case addi => unfold exec execAddi; exact keepsR_issueChip _ _ _
  case andi => unfold exec execAndi; exact keepsR_issueChip _ _ _
  case ori => unfold exec execOri; exact keepsR_issueChip _ _ _
  case xori => unfold exec execXori; exact keepsR_issueChip _ _ _
  case lui => unfold exec execLui; exact keepsR_issueChip _ _ _
  case shifti => unfold exec execShifti; exact keepsR_issueChip _ _ _
  case cmpi => unfold exec execCmpi; exact keepsR_issueChip _ _ _
  case ldw => unfold exec execLdw; exact keepsR_issue _ _ _ (keeps_load _ _ _ _ _ _)
  case ldh => unfold exec execLdh; exact keepsR_issue _ _ _ (keeps_load _ _ _ _ _ _)
  case ldb => unfold exec execLdb; exact keepsR_issue _ _ _ (keeps_load _ _ _ _ _ _)
  case stw => unfold exec execStw; exact keepsR_issue _ _ _ (keeps_store _ _ _ _ _ _)
  case sth => unfold exec execSth; exact keepsR_issue _ _ _ (keeps_store _ _ _ _ _ _)
  case stb => unfold exec execStb; exact keepsR_issue _ _ _ (keeps_store _ _ _ _ _ _)
  case br => unfold exec execBr; exact keepsR_issueChip _ _ _
  case jal => unfold exec execJal; exact keepsR_issueChip _ _ _
  case jalr => unfold exec execJalr; exact keepsR_issueChip _ _ _
  case csrr => unfold exec execCsrr; exact keepsR_issueChip _ _ _
  case cycleLo => unfold exec execCycleLo; exact keepsR_issueChip _ _ _
  case csrw => unfold exec execCsrw; exact keepsR_issueChip _ _ _
  case cregClaim => unfold exec execCregClaim; exact keepsR_issueChip _ _ _
  case cregFree => unfold exec execCregFree; exact keepsR_issueChip _ _ _
  case doorbell => unfold exec execDoorbell; exact keepsR_issueChip _ _ _
  case wdog => unfold exec execWdog; exact keepsR_issueChip _ _ _
  case trap => unfold exec execTrap; exact keepsR_issueChip _ _ _
  case eret => unfold exec execEret; exact keepsR_issueChip _ _ _
  case yield => unfold exec execYield; exact keepsR_issueChip _ _ _
  case halt => unfold exec execHalt; exact keepsR_issueChip _ _ _
  case take => unfold exec execTake; exact keepsR_issueChip _ _ _
  case peek => unfold exec execPeek; exact keepsR_issueChip _ _ _
  case give => unfold exec execGive; exact keepsR_issueChip _ _ _
  case cellExtr => unfold exec execCellExtr; exact keepsR_issueChip _ _ _
  case cellEdit => unfold exec execCellEdit; exact keepsR_issueChip _ _ _
  case cellCrc => unfold exec execCellCrc; exact keepsR_issueChip _ _ _
  case moveDir0 => unfold exec execMoveDir0; exact keepsR_issueChip _ _ _
  case moveDir1 => unfold exec execMoveDir1; exact keepsR_issue _ _ _ (keeps_moveIn _ _ _ _ _)
  case wait => unfold exec execWait; exact keepsR_issueChip _ _ _
  case tnow => unfold exec execTnow; exact keepsR_issueChip _ _ _
  case tat => unfold exec execTat; exact keepsR_issueChip _ _ _
  case talm => unfold exec execTalm; exact keepsR_issueChip _ _ _
  case talmCancel => unfold exec execTalmCancel; exact keepsR_issueChip _ _ _
  case seqNext => unfold exec execSeqNext; exact keepsR_issueChip _ _ _
  case seqLast => unfold exec execSeqLast; exact keepsR_issueChip _ _ _
  case seqState => unfold exec execSeqState; exact keepsR_issueChip _ _ _
  case fenceL => unfold exec execFenceL; exact keepsR_issueChip _ _ _
  case fenceX => unfold exec execFenceX; exact keepsR_issueChip _ _ _
  case fenceK => unfold exec execFenceK; exact keepsR_issueChip _ _ _
  case ldx => unfold exec execLdx; exact keepsR_issue _ _ _ (keeps_ldxBody _ _ _ _ _)
  case ldxMemoryForm => unfold exec execLdxMemoryForm; exact keepsR_issue _ _ _ (keeps_ldxMemBody _ _ _ _ _)
  case stx => unfold exec execStx; exact keepsR_issue _ _ _ (keeps_stxBody _ _ _ _ _)
  case lock => unfold exec execLock; exact keepsR_issueChip _ _ _
  case unlock => unfold exec execUnlock; exact keepsR_issueChip _ _ _
  case clockRecovery | trainingGateOpen | seedRetry | seedReq | headDecision | losAssert | losDeassert | lol | lockLost |
      flushDone | driftTrack | hidChanged | trainingStart | ts1 | ts2 | ts3 | verifyDwellEnd | ts4 | ts5 | retrainRequest |
      parkBlock | trainTmo | retryInt | fastTmo | retrain | park | cellFlit | flitFail | poisonFlit | idleFlit | init | resume
      | nak | hold | holdInt | handshakeRepeat | replayTmo | nakTmo | creditTmo | handshakeTmo | forceInit | flitTxLo |
      flitTransmit | crcVerdict | heldCellRetry | swxCarve | mirCtlEn | scrub | gateEntry | arm | gateSwitch | policerRetry |
      allotRequest | allotStage | allotCommit | allotCancel | allotGuard | epochApplied | allotDocket | tunnelOpen |
      tunnelClose | dataCell | ackInt | ack | holeTmo | resend | keepTmo | looseHold | breakCell | peerIdle | start | swap |
      ringBind | benchScrub | waitEvent | waitTimeout | chainTimeAlarm | windowConfig | backOff | prefetchDiscard | i2cUnstuck
      | rcsrRecordTimeout | managementFrame | frame | order | read | mbxAck | heartbeatExpiry | glbHb | mboxIn | mboxOut |
      idcode | bypass | extest | samplePreload | trellisAdmit | trellisPrune | trellisOverride | graftNotice | splitNotice |
      rejoinNotice | admitNotice | refuseNotice | dormantNotice | trellisNotice | query | ident | sponsorWait | admitTmo |
      restore | holdoff | recoveryHold | beaconDue | beacon | lossTmo | holdoverLim | originWait | load | resync | adjPhase |
      ctmNowLo | ethLinkUp | ethLinkDown | ethFrameRx | ethFrameTx | tsrxInf | perstRel | pciCfgData | btAlloc | btFree |
      usbPortReset | usbPortResetEnd | usbConnect | usbDisconnect | usbPortSuspend | usbHostDisable | usbPipeConfig |
      microFrame | busReset | usbSuspend | usbResume | wake | wakeKStart | wakeKEnd | usbCarve |
      dspTrain | hpdUnplug | hpdIrq | dspTiming | dspShadow | go | verticalBlank | underrun | psrEntry | psrExit | auxGo |
      auxDone | fieldInputTransition | debounce | inStampLo | fieldInputEnable | force | temperatureCheck |
      supplyTrip | shutterRelease | on | hviSample | breakerTrip | hardTrip | rampTimeout | tripRetry | clear | damaged |
      damageCleared | owner | voltageChangeEnd | drpToggle | attach | detach | dischargeDone | dischFail | moistureCheck |
      pdTxGo | goodcrcTimeout | pdMessageRx | hardReset | hardResetRx | pdRxhdr | pwrResLo | derive | session | invalidate |
      slotScrubDone | loadPub | attest | attestPub | info | enrolPuf | debug | helperRead | tamper | trngFail | plant |
      plantCancel | plantWarn | healthWindowEnd | spareAsk | spare | spareDwell | spareAck | spareNak |
      spareTmo | autoSpare | ledger | enter | leave | duration | readLog | logConsume | logRxbLo | standbyRootAligned |
      supplyRailRestored | tamperSourceInactive | pauseTimerExpiry | pciLinkUp | portResume | portResumeEnd | hpdPlug |
      trngSamplesPassed | adjFreq | gateBankWrite => exact keepsR_next (Keeps.chip s _)
  case setup => exact keepsR_ite _ (keepsR_next (Keeps.refl s)) (keepsR_next (Keeps.chip s _))
  case out => exact keepsR_ite _ (keepsR_next (Keeps.chip s _)) (keepsR_next (Keeps.refl s))
  case inReq => exact keepsR_ite _ (keepsR_next (Keeps.chip s _)) (keepsR_next (Keeps.refl s))
  case cancel => exact keepsR_ite _ (keepsR_next (Keeps.chip s _)) (keepsR_next (Keeps.refl s))
  case plantInstant => exact keepsR_next (keeps_plantInstant _)
  case haltRequest | wdogExpiry | yieldEnd | lockGranted | arbitration | fieldEventDue => exact keepsR_next (keeps_settle s _)
  case setPowerStateRun | setPowerStateTrim | setPowerStateBanked | setPowerStateDormant => exact keepsR_next ((keeps_settle _ _).trans (keeps_powerGo _))
  case migrate | spareLane | remap | rootSwap => exact keepsR_next (keeps_repairOrder _ _ _ _ _ _ (fun _ _ => keeps_withChip _ _))
  case readCsr | writeCsr | readCsrBlock => exact keepsR_next (keeps_csrOrder _ _ _)
  case dspWrite => exact keepsR_ite _ (keepsR_next (Keeps.refl s)) (keepsR_next (keeps_dspCell _ _ _))
  case dspCommit => exact keepsR_ite _ (keepsR_next (keeps_dspCell _ _ _)) (keepsR_next (Keeps.refl s))
  case dspSync => exact keepsR_ite _ (keepsR_next (keeps_dspCell _ _ _)) (keepsR_next (Keeps.refl s))
  case harnessWake | wakeN | dockWake => exact keepsR_next (keeps_wakeFrom _ _ _)
  case nodeReset | brownOut => exact keepsR_next ((keeps_nodeReset _ _).trans (keeps_withChip _ _))
  case lockMonitorTrip | freqMonitorTrip => exact keepsR_next ((keeps_withChip _ _).trans (keeps_rootTrip _ _ _))
  case csrWrite => exact keepsR_next (keeps_csrWrite _ _ _ _)
  case coldReset => exact keepsR_next (keeps_coldReset _ _)
  case resetN => exact keepsR_next ((keeps_ite _ (Keeps.refl s) (keeps_nodeReset _ _)).trans (keeps_withChip _ _))
  case startUp => exact keepsR_next (keeps_startUp _ _)
  case seedData => exact keepsR_next (keeps_ite _ (keeps_seedData _ _) (Keeps.refl s))
  case iload => exact keepsR_next (keeps_iload _ _ _)
  case dload => exact keepsR_next (keeps_dload _ _ _)
  case tagTimeout => exact keepsR_next (keeps_tagTimeout _ _)
  case stallResume => exact keepsR_next (keeps_resumeStall _ _)
  case moveDone => exact keepsR_next (keeps_moveDone _ _)
  case farCompletion => exact keepsR_next (keeps_completion _ _ _ _)
  case lockWdog => exact keepsR_next (keeps_lockWdog _ _ _)
  case i2cStuck => exact keepsR_next ((Keeps.chip s _).trans (keeps_failBus _ _ _))
  case rcsrRd => exact keepsR_next (keeps_rcsrRead _ _ _ _)
  case rcsrWr => exact keepsR_next (keeps_rcsrWrite _ _ _ _ _)
  case rcsrRsp => exact keepsR_next (keeps_rcsrResponse _ _ _ _ _)
  case refMonitorTrip => exact keepsR_next ((keeps_withChip _ _).trans (keeps_clockFailure _))
  case pciCplTmo => exact keepsR_next (keeps_pciCplTmo _ _)
  case pciLinkDown => exact keepsR_next (keeps_pciDown _)
  case inboundRequest => exact keepsR_next (keeps_inbound _ _ _ _)
  case sbufWr => exact keepsR_next (keeps_sbufWr _ _ _ _)
  case sbufRd => exact keepsR_next (keeps_sbufRd _ _ _ _)
  case usbToken => exact keepsR_next (keeps_usbToken _ _ _ _ _)
  case setupRx => exact keepsR_next (keeps_setupRx _ _)
  case domainDrainDone => exact keepsR_next (keeps_drainDone _)
  case provision => exact keepsR_next (keeps_provision _ _)
  case putBlock => exact keepsR_next (keeps_putBlock _ _)
  case verifyImage => exact keepsR_next (keeps_verifyImage _ _)
  case plantFrozen => exact keepsR_next (keeps_plantFrozen _)
  case shugonRewriteDone => exact keepsR_next (keeps_shugonDone _)
  case migrateCopy => exact keepsR_next (keeps_migrateCopy _)
  case illegalInstruction => exact keepsR_illegal _ _ _
  case resetNAsserted => exact keepsR_next (keeps_ite _ (Keeps.refl s) ((keeps_nodeReset _ _).trans (keeps_withChip _ _)))
  case pciDisable => exact keepsR_next (keeps_pciDisable _)
  all_goals exact keepsR_next (Keeps.chip s _)

end Sys2Proof.Laws
end

