-- ==== Sys2Proof/WellFormed.lean ====
section
/-! DEFINITION. Which commands the hardware's formats allow: the lengths of flits, cells, frames, orders and lists that the operand types
leave open. -/

namespace Sys2Proof

/-- A cell carries 104 data bytes (spec/08_tunnels_and_ordering.md R209). -/
def cellOk (c : Cell) : Bool := decide (c.data.length = 104)

/-- A flit fills 16 blocks, 16 / W on each of W lanes (spec/02_trunk_lanes.md R38). -/
def flitOk (f : List RxBlock) : Bool := decide (f.length = 16)

/-- Every operand has a length that its format allows. -/
def Instr.wellFormed (i : Instr) : Bool :=
  match i with
  | .csrWrite _ _ _ => true
  | .coldReset _ => true
  | .resetN _ => true
  | .nodeReset _ => true
  | .brownOut _ => true
  | .clockRecovery _ _ _ => true
  | .startUp _ => true
  | .trainingGateOpen => true
  | .seedRetry => true
  | .seedReq _ cell => cellOk cell
  | .seedData _ cell => cellOk cell
  | .headDecision => true
  | .losAssert _ _ => true
  | .losDeassert _ _ => true
  | .lol _ _ => true
  | .lockLost _ _ _ => true
  | .flushDone _ => true
  | .driftTrack _ _ _ => true
  | .hidChanged _ => true
  | .trainingStart _ => true
  | .ts1 _ found _ => decide (found.length ≤ 9)
  | .ts2 _ _ => true
  | .ts3 _ _ => true
  | .verifyDwellEnd _ errors _ => decide (errors.length ≤ 9)
  | .ts4 _ _ => true
  | .ts5 _ _ => true
  | .retrainRequest _ _ => true
  | .parkBlock _ _ => true
  | .trainTmo _ => true
  | .retryInt _ => true
  | .fastTmo _ => true
  | .retrain _ => true
  | .park _ => true
  | .cellFlit _ flit => flitOk flit
  | .flitFail _ flit => flitOk flit
  | .poisonFlit _ flit => flitOk flit
  | .idleFlit _ flit => flitOk flit
  | .init _ flit => flitOk flit
  | .resume _ flit => flitOk flit
  | .nak _ flit => flitOk flit
  | .hold _ flit => flitOk flit
  | .holdInt _ => true
  | .handshakeRepeat _ => true
  | .replayTmo _ => true
  | .nakTmo _ => true
  | .creditTmo _ _ => true
  | .handshakeTmo _ => true
  | .forceInit _ => true
  | .flitTxLo _ _ => true
  | .flitTransmit _ _ => true
  | .crcVerdict _ => true
  | .heldCellRetry _ => true
  | .swxCarve _ _ => true
  | .mirCtlEn _ => true
  | .scrub _ => true
  | .gateEntry _ => true
  | .arm _ _ => true
  | .gateSwitch _ => true
  | .policerRetry _ => true
  | .allotRequest _ => true
  | .allotStage _ => true
  | .allotCommit _ => true
  | .allotCancel _ => true
  | .allotGuard _ => true
  | .epochApplied => true
  | .allotDocket _ => true
  | .tunnelOpen _ => true
  | .tunnelClose _ => true
  | .dataCell cell _ => cellOk cell
  | .ackInt _ => true
  | .ack cell _ => cellOk cell
  | .holeTmo _ => true
  | .resend cell _ => cellOk cell
  | .keepTmo _ => true
  | .looseHold _ => true
  | .breakCell cell _ => cellOk cell
  | .peerIdle _ => true
  | .start _ _ => true
  | .haltRequest _ _ => true
  | .swap _ => true
  | .iload _ _ => true
  | .dload _ _ => true
  | .ringBind _ _ => true
  | .wdogExpiry _ => true
  | .tagTimeout _ => true
  | .benchScrub _ _ => true
  | .stallResume _ => true
  | .add _ _ _ _ => true
  | .sub _ _ _ _ => true
  | .and _ _ _ _ => true
  | .or _ _ _ _ => true
  | .xor _ _ _ _ => true
  | .andn _ _ _ _ => true
  | .sll _ _ _ _ => true
  | .srl _ _ _ _ => true
  | .sra _ _ _ _ => true
  | .ror _ _ _ _ => true
  | .cmp _ _ _ _ => true
  | .min _ _ _ _ => true
  | .max _ _ _ _ => true
  | .minu _ _ _ _ => true
  | .maxu _ _ _ _ => true
  | .mul _ _ _ _ => true
  | .mulh _ _ _ _ => true
  | .mulhu _ _ _ _ => true
  | .div _ _ _ _ => true
  | .divu _ _ _ _ => true
  | .rem _ _ _ _ => true
  | .remu _ _ _ _ => true
  | .clz _ _ _ => true
  | .popc _ _ _ => true
  | .bswap _ _ _ => true
  | .sextb _ _ _ => true
  | .sexth _ _ _ => true
  | .addi _ _ _ _ => true
  | .andi _ _ _ _ => true
  | .ori _ _ _ _ => true
  | .xori _ _ _ _ => true
  | .lui _ _ _ => true
  | .shifti _ _ _ _ => true
  | .cmpi _ _ _ _ => true
  | .ldw _ _ _ _ => true
  | .ldh _ _ _ _ => true
  | .ldb _ _ _ _ => true
  | .stw _ _ _ _ => true
  | .sth _ _ _ _ => true
  | .stb _ _ _ _ => true
  | .br _ _ _ _ => true
  | .jal _ _ _ => true
  | .jalr _ _ _ _ => true
  | .csrr _ _ _ => true
  | .cycleLo _ _ _ => true
  | .csrw _ _ _ => true
  | .cregClaim _ _ => true
  | .cregFree _ _ => true
  | .doorbell _ _ => true
  | .wdog _ _ => true
  | .trap _ _ => true
  | .eret _ => true
  | .yield _ _ => true
  | .yieldEnd _ => true
  | .halt _ => true
  | .take _ _ _ _ _ => true
  | .peek _ _ _ _ _ => true
  | .give _ _ _ _ _ _ _ => true
  | .cellExtr _ _ _ _ _ _ => true
  | .cellEdit _ _ _ _ _ _ => true
  | .cellCrc _ _ _ _ _ len => decide (1 ≤ len.toNat ∧ len.toNat ≤ 104)
  | .moveDir0 _ _ _ _ => true
  | .moveDone _ => true
  | .moveDir1 _ _ _ _ => true
  | .wait _ _ _ _ => true
  | .waitEvent _ => true
  | .waitTimeout _ => true
  | .tnow _ _ _ => true
  | .tat _ _ _ _ => true
  | .talm _ _ => true
  | .talmCancel _ => true
  | .chainTimeAlarm _ => true
  | .seqNext _ _ _ => true
  | .seqLast _ _ _ => true
  | .seqState _ _ _ => true
  | .fenceL _ => true
  | .fenceX _ => true
  | .fenceK _ _ => true
  | .ldx _ _ _ _ => true
  | .ldxMemoryForm _ _ _ _ => true
  | .stx _ _ _ _ => true
  | .farCompletion _ _ bytes => decide (bytes.length ≤ 64)
  | .lock _ _ _ _ => true
  | .lockGranted _ => true
  | .unlock _ _ _ => true
  | .windowConfig _ _ _ => true
  | .arbitration _ => true
  | .backOff _ _ => true
  | .prefetchDiscard _ => true
  | .lockWdog _ _ => true
  | .i2cStuck _ => true
  | .i2cUnstuck _ => true
  | .rcsrRd _ _ _ => true
  | .rcsrWr _ _ _ _ => true
  | .rcsrRsp _ _ _ _ => true
  | .rcsrRecordTimeout _ => true
  | .managementFrame _ _ => true
  | .frame _ _ => true
  | .order _ _ _ _ => true
  | .read _ _ => true
  | .mbxAck _ _ => true
  | .heartbeatExpiry => true
  | .glbHb _ => true
  | .mboxIn _ _ => true
  | .mboxOut => true
  | .idcode => true
  | .bypass _ => true
  | .extest => true
  | .samplePreload => true
  | .readCsr _ => true
  | .writeCsr _ => true
  | .readCsrBlock _ => true
  | .trellisAdmit _ => true
  | .trellisPrune _ => true
  | .trellisOverride _ => true
  | .graftNotice _ cell => cellOk cell
  | .splitNotice _ cell => cellOk cell
  | .rejoinNotice _ cell => cellOk cell
  | .admitNotice _ cell => cellOk cell
  | .refuseNotice _ cell => cellOk cell
  | .dormantNotice _ cell => cellOk cell
  | .trellisNotice _ cell => cellOk cell
  | .query _ cell => cellOk cell
  | .ident _ cell => cellOk cell
  | .sponsorWait _ => true
  | .admitTmo _ => true
  | .restore _ => true
  | .holdoff _ => true
  | .recoveryHold _ => true
  | .beaconDue _ => true
  | .beacon _ flit _ => flitOk flit
  | .lossTmo _ => true
  | .holdoverLim => true
  | .originWait => true
  | .load => true
  | .resync => true
  | .adjPhase _ => true
  | .ctmNowLo => true
  | .refMonitorTrip => true
  | .lockMonitorTrip _ => true
  | .freqMonitorTrip _ => true
  | .ethLinkUp _ => true
  | .ethLinkDown _ _ => true
  | .ethFrameRx _ b => decide (b.length ≤ 9216)
  | .ethFrameTx _ _ _ => true
  | .tsrxInf _ _ => true
  | .perstRel => true
  | .pciCfgData _ _ => true
  | .pciCplTmo _ => true
  | .pciLinkDown => true
  | .inboundRequest _ _ _ => true
  | .sbufWr _ cell _ => cellOk cell
  | .sbufRd _ cell _ => cellOk cell
  | .btAlloc => true
  | .btFree _ => true
  | .usbPortReset _ => true
  | .usbPortResetEnd _ _ => true
  | .usbConnect _ => true
  | .usbDisconnect _ => true
  | .usbPortSuspend _ _ => true
  | .usbHostDisable => true
  | .usbPipeConfig _ _ _ => true
  | .setup _ cell _ => cellOk cell
  | .out _ cell _ => cellOk cell
  | .inReq _ cell _ => cellOk cell
  | .cancel _ cell _ => cellOk cell
  | .microFrame _ => true
  | .usbToken _ _ data _ => decide (data.length ≤ 1024)
  | .setupRx _ => true
  | .busReset _ => true
  | .usbSuspend => true
  | .usbResume => true
  | .wake => true
  | .wakeKStart => true
  | .wakeKEnd => true
  | .usbCarve _ _ _ => true
  | .dspTrain _ _ => true
  | .hpdUnplug _ => true
  | .hpdIrq _ => true
  | .dspTiming _ _ _ => true
  | .dspShadow _ _ _ => true
  | .go _ => true
  | .verticalBlank _ _ => true
  | .underrun _ => true
  | .psrEntry _ => true
  | .psrExit _ => true
  | .dspWrite _ cell _ => cellOk cell
  | .dspCommit _ cell _ => cellOk cell
  | .dspSync _ cell _ => cellOk cell
  | .auxGo _ => true
  | .auxDone _ _ data => decide (data.length ≤ 16)
  | .fieldEventDue _ => true
  | .fieldInputTransition _ _ => true
  | .debounce _ => true
  | .inStampLo _ => true
  | .fieldInputEnable _ _ => true
  | .force => true
  | .temperatureCheck _ => true
  | .supplyTrip _ => true
  | .shutterRelease _ => true
  | .on _ _ => true
  | .hviSample channels _ _ => decide (channels.length = 6)
  | .breakerTrip _ => true
  | .hardTrip _ => true
  | .rampTimeout _ => true
  | .tripRetry _ => true
  | .clear _ => true
  | .damaged _ => true
  | .damageCleared _ => true
  | .owner _ => true
  | .voltageChangeEnd _ => true
  | .drpToggle _ => true
  | .attach _ _ _ _ => true
  | .detach _ => true
  | .dischargeDone _ => true
  | .dischFail _ => true
  | .moistureCheck _ _ => true
  | .pdTxGo _ _ _ => true
  | .goodcrcTimeout _ => true
  | .pdMessageRx _ _ objects => decide (objects.length ≤ 7)
  | .hardReset _ _ => true
  | .hardResetRx _ => true
  | .pdRxhdr _ => true
  | .setPowerStateRun _ => true
  | .setPowerStateTrim _ => true
  | .setPowerStateBanked _ => true
  | .setPowerStateDormant _ => true
  | .domainDrainDone => true
  | .harnessWake _ => true
  | .wakeN _ => true
  | .dockWake _ => true
  | .pwrResLo _ => true
  | .derive _ => true
  | .session _ => true
  | .invalidate _ => true
  | .slotScrubDone => true
  | .provision _ => true
  | .seal _ => true
  | .unseal _ => true
  | .loadPub _ => true
  | .attest _ => true
  | .attestPub _ => true
  | .info _ => true
  | .enrolPuf _ => true
  | .debug _ => true
  | .helperRead _ => true
  | .tamper _ => true
  | .trngFail => true
  | .putBlock _ => true
  | .verifyImage _ => true
  | .plant _ => true
  | .plantCancel _ => true
  | .plantWarn => true
  | .plantInstant => true
  | .plantFrozen => true
  | .shugonRewriteDone => true
  | .healthWindowEnd => true
  | .migrate _ => true
  | .migrateCopy => true
  | .spareLane _ => true
  | .spareAsk _ flit => flitOk flit
  | .spare _ flit => flitOk flit
  | .spareDwell _ _ => true
  | .spareAck _ flit => flitOk flit
  | .spareNak _ flit => flitOk flit
  | .spareTmo _ => true
  | .autoSpare _ _ => true
  | .remap _ => true
  | .rootSwap _ => true
  | .ledger _ _ => true
  | .enter _ => true
  | .leave _ => true
  | .duration => true
  | .readLog _ => true
  | .logConsume _ => true
  | .logRxbLo _ _ => true
  | .illegalInstruction _ _ => true
  | .standbyRootAligned => true
  | .resetNAsserted => true
  | .supplyRailRestored _ => true
  | .tamperSourceInactive _ => true
  | .pauseTimerExpiry _ => true
  | .pciLinkUp _ _ => true
  | .pciDisable => true
  | .portResume _ => true
  | .portResumeEnd _ => true
  | .hpdPlug _ => true
  | .trngSamplesPassed => true
  | .adjFreq _ => true
  | .gateBankWrite _ _ => true

end Sys2Proof
end

