-- ==== Sys2Proof/Tests/Slice0.lean ====
section
/-! SUPPORT. The model's own tests: for every statement with hypotheses, concrete states and operands that meet them, clause by clause
(witness_…), and small tests of single commands (test_…). -/

namespace Sys2Proof.Tests
open Sys2Proof Sys2Proof.Machine Sys2Proof.Machine.Reg

-- One theorem after the other: each waits for the kernel, and a thread apiece would exhaust the sandbox.
set_option Elab.async false

/-! ### Helpers -/

/-- A chip with every domain on. -/
def lit : Chip := ({} : Chip).put PWR_STAT_DOM_ON 0xFFFF

/-- A chip with registers set, on top of another. -/
def Chip.puts (c : Chip) (l : List (Fld × Nat)) : Chip := l.foldl (fun (c : Chip) e => c.put e.1 e.2) c

def at_ (c : Chip) : State := { State.reset with chip := c }

/-- A hand that runs, with w1 = 2^31, w2 = -1, w3 = 7 and a handler. -/
def worker : Hand := { state := .run, pc := 0x100, regs := [(1, 0x80000000), (2, 0xFFFFFFFF), (3, 7), (4, 0x1FF90)], tvec := 0x200 }

/-- A word of a data memory with an error. -/
def softened (a v : Nat) (c : Chip) : Chip := { c with cores := { c.cores with dmark := mset 0 c.cores.dmark (a / 4) v } }

def busy (h : HandId) : Chip := lit.setHand h worker
def busyAs (h : HandId) (f : Hand → Hand) : Chip := lit.setHand h (f worker)

/-! ### The hands: spec/10_fungatre_core_instructions.md, spec/11_fungatre_tunnel_instructions.md -/

/-- BranchTakenByCondition, StoresWriteDataMemory, HandCsrs: a hand of a bench, Porter and Steward issue an instruction. -/
theorem witness_issues : (busy 0).issues 0 = true ∧ (busy 63).issues 63 = true ∧ (busy 64).issues 64 = true ∧ (busy 65).issues 65 = true := by
  decide

/-- RegisterArithmetic, DivisionAndCompareWord: a divisor of 0, of -1 under the most negative number, and another. -/
theorem witness_division : (busy 0).issues 0 = true ∧ ((busy 0).hand 0).w 0 = 0 ∧ ((busy 0).hand 0).w 1 = 0x80000000
    ∧ ((busy 0).hand 0).w 2 = 0xFFFFFFFF ∧ ((busy 0).hand 0).w 3 ≠ 0 := by decide

/-- ImmediateInstructions: SHIFTI of each kind at its largest distance, and the smallest immediate that traps. -/
theorem witness_shifti : (busy 0).issues 0 = true ∧ (31 : Nat) / 128 = 0 ∧ (31 : Nat) / 32 = 0 ∧ (63 : Nat) / 32 = 1 ∧ (95 : Nat) / 32 = 2
    ∧ (127 : Nat) / 32 = 3 ∧ (127 : Nat) / 128 = 0 ∧ (128 : Nat) / 128 ≠ 0 := by decide

/-- LoadsAndMisalignment: the highest word of a bench's memory without an error, with one bit, and beyond correction; and the
misaligned ones beside it. -/
theorem witness_loads : (busy 0).soft (dataAddr 0 0x1FFFC) = 0
    ∧ (softened (dataAddr 0 0x1FFFC) 1 (busy 0)).issues 0 = true ∧ (softened (dataAddr 0 0x1FFFC) 1 (busy 0)).soft (dataAddr 0 0x1FFFC) = 1
    ∧ (softened (dataAddr 0 0x1FFFC) 2 (busy 0)).issues 0 = true ∧ (softened (dataAddr 0 0x1FFFC) 2 (busy 0)).soft (dataAddr 0 0x1FFFC) = 2
    ∧ onBench 0 = true ∧ (0x1FFFC : Nat) % 4 = 0 ∧ (0x1FFFE : Nat) % 4 ≠ 0 ∧ (0x1FFFE : Nat) % 2 = 0 ∧ (0x1FFFF : Nat) % 2 ≠ 0 := by decide

/-- StoresWriteDataMemory: a hand that issues, and an address that is aligned for each width. -/
theorem witness_stores : (busy 0).issues 0 = true ∧ (busy 0).ea 0 4 0x60 = 0x1FFF0 ∧ (0x1FFF0 : Nat) % 4 = 0
    ∧ (busy 0).soft (dataAddr 0 0x1FFF0) ≠ 2 := by decide

/-- JumpsAndHandControl: a JALR target that is aligned. -/
theorem witness_jumps : (busy 0).issues 0 = true ∧ (((busy 0).hand 0).w 4 + (0 : BitVec 16).signExtend 32).toNat % 4 = 0 := by decide

/-- JumpsAndHandControl: ERET in a handler with and without a pending cause 0x0A, and outside one; HALT of a bench's hand with and
without an open tag, and of Porter. -/
def openTag (h : HandId) (k : Nat) (kind : TagKind) : Chip :=
  { busy h with cores := { (busy h).cores with tags := mput (busy h).cores.tags k ⟨⟨h, 0x100, .word, some 1, some k, 1, 0, 0, false⟩, kind, none⟩ } }

theorem witness_hand_control : (busyAs 0 (fun x => { x with inTrap := true })).issues 0 = true
    ∧ ((busyAs 0 (fun x => { x with inTrap := true })).hand 0).pend0A = false
    ∧ ((busyAs 0 (fun x => { x with inTrap := true })).hand 0).checkpoint = false
    ∧ (busyAs 0 (fun x => { x with inTrap := true, pend0A := true })).issues 0 = true
    ∧ ((busy 0).hand 0).inTrap = false ∧ (busy 0).tagsHeld 0 = 0
    ∧ (openTag 0 5 .stx).issues 0 = true ∧ (openTag 0 5 .stx).tagsHeld 0 ≠ 0 ∧ (busy 64).issues 64 = true := by decide

/-- HandCsrs: a latched INSTRET_HI, a register with bit 0 set and one with it clear, a period other than 0, a field owner that writes
0, and the numbers at the ends of the unknown ranges. -/
theorem witness_hand_csrs : (busyAs 0 (fun x => { x with instretHi := some 1 })).issues 0 = true
    ∧ (((busy 0).hand 0).w 3).getLsbD 0 = true ∧ (((busy 0).hand 0).w 1).getLsbD 0 = false ∧ (((busy 0).hand 0).w 3).toNat % 65536 ≠ 0
    ∧ (busy 0).fieldOwner 0 = false ∧ ((busy 0).put (BCH_FOWN_OWNER 0) 1).issues 0 = true ∧ ((busy 0).put (BCH_FOWN_OWNER 0) 1).fieldOwner 0 = true
    ∧ (((busy 0).hand 0).w 1).toNat % 65536 = 0 ∧ (7 ≤ (7 : BitVec 16).toNat) ∧ (0x0F : BitVec 16).toNat < 0x10
    ∧ 0x12 ≤ (0x12 : BitVec 16).toNat ∧ (0x1F : BitVec 16).toNat < 0x20 ∧ 0x51 ≤ (0xFFFF : BitVec 16).toNat := by decide

/-- CellRegisters: a hand of a bench and one that is not. -/
theorem witness_cell_claims : (busy 3).issues 3 = true ∧ onBench 3 = true ∧ (busy 64).issues 64 = true ∧ onBench 64 = false := by decide

/-- TrapEntersHandler: a hand with a handler, and one without on a bench that owns no field. -/
theorem witness_trap : worker.takesTrap = true ∧ (busyAs 0 (fun x => { x with tvec := 0 })).issues 0 = true
    ∧ ((busyAs 0 (fun x => { x with tvec := 0 })).hand 0).takesTrap = false ∧ (busy 0).get UPD_STAT_PHASE ≠ 4 ∧ (busy 0).fieldOwner 0 = false := by
  decide

/-! A bench hand with a ring, a cell register and a tunnel. -/

def someCell : Cell := ⟨mkHdr 5 1 9 2 false true 104 0, List.replicate 104 0x5A⟩
def openSource : Tun := { Tun.closedEnd with state := .opened, kept := true, tc := 2, ring := 3, peer := 5, peerTun := 1, next := 65535, oldest := 65535 }
def openSink : Tun := { openSource with sink := true, expect := 0 }

/-- Hand 0 owns cell register 7 and has ring 3 at a port, the given tunnel 1 and the given take side. -/
def ringed (port : Nat) (take : List TakeEntry) (x : Tun) : Chip :=
  ((Chip.puts (busyAs 0 (fun y => { y with regs := [(1, 0x680001), (2, 0x1680001), (3, 0x690001), (5, 1)] }))
    [(BCH_RING_PORT 3, port), (BCH_RING_VALID 3, 1)]).setOwner 0 7 1 |>.setRing 3 ⟨[], take, []⟩).setTun 1 x

theorem witness_take : (ringed 10 [⟨someCell, 9000, none⟩] openSource).issues 0 = true ∧ (ringed 10 [] openSource).owns 0 7 = true
    ∧ (ringed 10 [] openSource).bound 0 3 = true ∧ (ringed 10 [] openSource).ringFrozen 3 = false
    ∧ ((ringed 10 [⟨someCell, 9000, none⟩] openSource).ring 3).take = [⟨someCell, 9000, none⟩] ∧ ((ringed 10 [] openSource).ring 3).take = []
    ∧ ((ringed 10 [] openSource).put (BCH_RING_FROZEN 3) 1).ringFrozen 3 = true
    ∧ (ringed 10 [] openSource).bound 0 4 = false ∧ (ringed 10 [] openSource).owns 0 0 = false := by decide

/-- TakePeekGive: a give to an endpoint, to an open source with VLEN 104, to a broken one, where the give waits, and with a closed
tunnel or VLEN 105. -/
theorem witness_give : (ringed 9 [] openSource).get (BCH_RING_PORT 3) < 10 ∧ (ringed 9 [] openSource).giveFull 3 = false
    ∧ 10 ≤ (ringed 10 [] openSource).get (BCH_RING_PORT 3) ∧ (ringed 10 [] openSource).giveWaits 3 1 = false
    ∧ ((ringed 10 [] openSource).tun 1).ring = 3 ∧ (((ringed 10 [] openSource).hand 0).w 1).toNat / 2 ^ 16 % 2 ^ 7 = 104
    ∧ (((ringed 10 [] openSource).hand 0).w 3).toNat / 2 ^ 16 % 2 ^ 7 = 105 ∧ ((ringed 10 [] openSource).tun 2).state = .closed
    ∧ ((ringed 10 [] { openSource with state := .broken }).tun 1).state = .broken
    ∧ (ringed 10 [] { openSource with draining := [⟨0, 0⟩] }).giveWaits 3 1 = true
    ∧ (ringed 10 [] { openSource with draining := [⟨0, 0⟩] }).issues 0 = true := by decide

/-- CellRegisters: EXTR and EDIT that end at byte 112 and pass it, CRC over 1 and 104 bytes and outside, MOVE at the last data
address that holds a cell and beside it, a copy in flight, and a register not owned. -/
def moving : Chip := (ringed 10 [] openSource).setHand 0 { (ringed 10 [] openSource).hand 0 with move := some (0x100, List.replicate 112 1) }

theorem witness_cell_registers : (ringed 10 [] openSource).owns 0 7 = true ∧ (111 : BitVec 7).toNat + (((ringed 10 [] openSource).hand 0).w 5).toNat + 0 ≤ 112
    ∧ (107 : BitVec 7).toNat + (((ringed 10 [] openSource).hand 0).w 5).toNat + AccSize.word.bytes ≤ 112
    ∧ 112 < (108 : BitVec 7).toNat + (((ringed 10 [] openSource).hand 0).w 5).toNat + AccSize.word.bytes
    ∧ (1 : BitVec 7).toNat ≤ 104 ∧ (104 : BitVec 7).toNat ≤ 104 ∧ 104 < (105 : BitVec 7).toNat
    ∧ ((busy 0).hand 0).w 4 = 0x1FF90 ∧ (0x1FF90 : Nat) % 2 ^ 17 ≤ 0x1FF90 ∧ 0x1FF90 < (0x1FF94 : Nat) % 2 ^ 17 ∧ ((busy 0).hand 0).move = none
    ∧ moving.issues 0 = true ∧ (moving.hand 0).move = some (0x100, List.replicate 112 1) ∧ (List.replicate 112 (1 : Byte)).length = 112
    ∧ (ringed 10 [] openSource).owns 0 0 = false := by decide

theorem witness_move_soft : ∀ i, i < 28 → (busy 0).soft (dataAddr 0 0x1FF90 + 4 * i) = 0 := by decide

/-- WaitReportsEvents: a hand with an event in its mask and one without; a hand in WAIT with and without an event, with a timeout. -/
def waiting (events m : Nat) : Chip :=
  busyAs 0 (fun x => { x with state := .wait, waiting := some (6, m), events := events })

theorem witness_wait : (busyAs 0 (fun x => { x with events := 2 })).issues 0 = true
    ∧ (busyAs 0 (fun x => { x with events := 2 })).pending 0 &&& ((((busy 0).hand 0).w 3).toNat % 1024) = 2
    ∧ (busy 0).pending 0 &&& ((((busy 0).hand 0).w 3).toNat % 1024) = 0 ∧ (busy 0).tinkerOn = false
    ∧ ((waiting 2 1026).hand 0).state = .wait ∧ (waiting 2 1026).coreOn 0 = true ∧ ((waiting 2 1026).hand 0).waiting = some (6, 1026)
    ∧ (waiting 2 1026).pending 0 &&& (1026 % 1024) = 2 ∧ (waiting 0 1026).pending 0 &&& (1026 % 1024) = 0 ∧ 1024 ≤ 1026
    ∧ ((busy 0).hand 0).waiting = none := by decide

/-- ChainTimeSequenceAndFences: a field owner with a time ahead, now, with a full queue, and with the shutter closed; a hand that is no
owner; an alarm that is due and one that is not. -/
def owner : Chip := (busy 0).put (BCH_FOWN_OWNER 0) 1
def fullQueue : Chip := { owner with field := { owner.field with queue := List.replicate 256 ⟨0, true, 5⟩ } }
def queuedTat : Chip := { owner with field := { owner.field with waiting := [⟨1, ⟨0, true, 5⟩, false⟩] } }

theorem witness_tat : owner.issues 0 = true ∧ owner.fieldOwner 0 = true ∧ (owner.put FLD_SHUT_STAT_SHUT 0).shuttered = false
    ∧ (owner.put FLD_SHUT_STAT_SHUT 0).issues 0 = true ∧ (owner.put FLD_SHUT_STAT_SHUT 0).fieldOwner 0 = true
    ∧ owner.field.queue.length < 256 ∧ owner.field.waiting = [] ∧ 0 < owner.ahead ((owner.hand 0).w 3).toNat ∧ owner.ahead ((owner.hand 0).w 0).toNat ≤ 0
    ∧ (owner.put FLD_SHUT_STAT_SHUT 1).shuttered = true ∧ 256 ≤ fullQueue.field.queue.length ∧ fullQueue.issues 0 = true
    ∧ (busy 0).fieldOwner 0 = false ∧ ((busyAs 0 (fun x => { x with alarm := some 0 })).hand 0).alarm = some 0
    ∧ (0 : Nat) ≤ (busyAs 0 (fun x => { x with alarm := some 0 })).ns ∧ (busyAs 0 (fun x => { x with alarm := some 1 })).ns < 1 := by decide +kernel

/-- A TAT that waits behind another: the queue has room, a hand waits. -/
theorem witness_tat_waits : (queuedTat.put FLD_SHUT_STAT_SHUT 0).issues 0 = true ∧ (queuedTat.put FLD_SHUT_STAT_SHUT 0).fieldOwner 0 = true
    ∧ (queuedTat.put FLD_SHUT_STAT_SHUT 0).shuttered = false ∧ queuedTat.field.queue.length < 256 ∧ queuedTat.field.waiting ≠ [] := by decide +kernel

/-- An open source, an open sink, a closed end, tunnel 0; one kept tunnel to wait for; a far access outstanding; a failed write. -/
theorem witness_seq_and_fences : ((ringed 10 [] openSource).tun 1).state = .opened ∧ ((ringed 10 [] openSource).tun 1).sink = false
    ∧ ((ringed 10 [] openSink).tun 1).sink = true ∧ ((ringed 10 [] openSink).tun 1).state = .opened
    ∧ (((ringed 10 [] openSource).hand 0).w 1).toNat % 1024 = 1 ∧ (((ringed 10 [] openSource).hand 0).w 0).toNat % 1024 = 0
    ∧ ((ringed 10 [] openSource).tun 2).state = .closed ∧ ((busy 0).hand 0).fence = none ∧ (busy 0).fenceTunnels 0 = []
    ∧ (ringed 10 [] openSource).fenceTunnels 0 = [(1, openSource)] ∧ passed openSource.oldest (seqSub openSource.next 1) = true
    ∧ (ringed 10 [] { openSource with oldest := 65533 }).fenceTunnels 0 = [(1, { openSource with oldest := 65533 })]
    ∧ passed 65533 (seqSub openSource.next 1) = false ∧ onBench 65 = false ∧ (busy 65).issues 65 = true
    ∧ (openTag 0 5 .stx).farBusy 0 = true ∧ (busy 0).farBusy 0 = false ∧ ((busy 0).hand 0).failedWrite = none
    ∧ ((busyAs 0 (fun x => { x with failedWrite := some (4, 0x100) })).hand 0).failedWrite = some (4, 0x100)
    ∧ (busyAs 0 (fun x => { x with failedWrite := some (4, 0x100) })).farBusy 0 = false := by decide

/-- BenchCommandsAndStores: a bench that is lit and not the spare, the spare, halted hands and one that runs, and a bench whose domain is
off. -/
theorem witness_benches : lit.domainOn (coreDomain 0) = true ∧ lit.get BCH_SPARE_BENCH ≠ 0 ∧ lit.get BCH_SPARE_BENCH = 15
    ∧ lit.domainOn (coreDomain 15) = true ∧ lit.allHalted 0 = true ∧ (busy 0).allHalted 0 = false ∧ (lit.put REP_CTL_AUTO_REMAP 0).on REP_CTL_AUTO_REMAP = false
    ∧ (({} : Chip).domainOn (coreDomain 0) = false ∨ (({} : Chip).put PWR_STAT_DOM_ON 0).domainOn (coreDomain 0) = false) := by decide

/-- RingRebindingNeedsFrozen: a valid ring, not frozen, written with another port; and frozen, with every depth at its ends. -/
def bindWord : Nat := 1 + 16 * 2 + 64 * 11 + 1024 * 64 + 2 ^ 17 * 1 + 2 ^ 25

theorem witness_ring_bind : bit bindWord 25 = true ∧ (ringed 10 [] openSource).ringValid 3 = true ∧ (ringed 10 [] openSource).ringFrozen 3 = false
    ∧ bits bindWord 6 4 = 11 ∧ bits bindWord 6 4 ≠ (ringed 10 [] openSource).get (BCH_RING_PORT 3) ∧ bits bindWord 10 7 = 64 ∧ bits bindWord 17 7 = 1
    ∧ bits bindWord 0 4 ≠ (ringed 10 [] openSource).get BCH_SPARE_BENCH ∧ ((ringed 10 [] openSource).put (BCH_RING_FROZEN 3) 1).ringFrozen 3 = true
    ∧ ((ringed 10 [] openSource).put (BCH_RING_FROZEN 3) 1).ringValid 3 = true := by decide

/-- The same word on a ring that is not valid, and a word with VALID 0 that names the spare bench. -/
theorem witness_ring_unbound : (ringed 10 [] openSource).ringValid 4 = false ∧ bit (bindWord - 2 ^ 25 + 14) 25 = false
    ∧ bits (bindWord - 2 ^ 25 + 14) 0 4 = lit.get BCH_SPARE_BENCH ∧ bits (bindWord - 2 ^ 25 + 14) 6 4 = 11
    ∧ bits (bindWord - 2 ^ 25 + 14) 10 7 = 64 ∧ bits (bindWord - 2 ^ 25 + 14) 17 7 = 1 := by decide

/-- WatchdogTagAndStall: a hand that was not fed and one that was, a period of 0, a word of no instruction, a stalled hand, a tag. -/
theorem witness_watchdog : ((busyAs 0 (fun x => { x with wdogPeriod := 1, unfed := true })).hand 0).state = .run ∧ ((busyAs 0 (fun x => { x with wdogPeriod := 1, unfed := true })).hand 0).unfed = true ∧ (busy 0).get UPD_STAT_PHASE ≠ 4
    ∧ (busyAs 0 (fun x => { x with wdogPeriod := 1 })).coreOn 0 = true ∧ ((busyAs 0 (fun x => { x with wdogPeriod := 1 })).hand 0).unfed = false
    ∧ ((busy 0).hand 0).wdogPeriod = 0 ∧ legalWord 0 0xFFFFFFFF = false
    ∧ ((busyAs 0 (fun x => { x with state := .stall, stalled := some (.fenceL 0) })).hand 0).pendingCause = false
    ∧ ((busyAs 0 (fun x => { x with state := .stall, stalled := some (.fenceL 0) })).hand 0).move = none
    ∧ (busyAs 0 (fun x => { x with state := .stall, stalled := some (.fenceL 0) })).coreOn 0 = true ∧ ((busy 0).hand 0).state ≠ .stall
    ∧ (openTag 0 2047 .stx).tagAt 2047 ≠ none ∧ ((openTag 0 2047 .stx).tagAt 2047).map (·.kind) = some .stx := by decide
/-! ### Clocks, reset and start-up: spec/14_clocks_reset_boot.md -/

/-- ResetsReachTheirDomains: RESET_N not held and held. -/
theorem witness_resets : ({} : Chip).boot.held = false
    ∧ ({ ({} : Chip) with boot := { ({} : Chip).boot with held := true } }).boot.held = true
    ∧ State.reset.chip.boot.held = false ∧ Memory.wf State.reset.mem = true := by decide +kernel

/-- What `State.MemOk` asks: the memory of a reset state. -/
theorem witness_resets_memory : State.reset.MemOk := by
  unfold State.MemOk
  decide +kernel

def stopped : Chip := { lit with boot := { lit.boot with clockFail := true } }
def ready : Chip := Chip.puts lit [(CLK_CTL_AUTO_SWAP, 1), (CLK_STAT_LOCK_B, 1), (CLK_STAT_ALIGNED, 1), (CLK_STAT_ROOT_ACT, 0)]

/-- ClockFailuresAndRootSwaps: the active root fails with a standby that is ready, with one that is not, and with AUTO_SWAP off; a
clock failure that lasts and one that ends. -/
theorem witness_root_swaps : ready.get CLK_STAT_ROOT_ACT = (0 : Fin 2).val
    ∧ ready.on CLK_CTL_AUTO_SWAP = true
    ∧ ready.standbyReady = true
    ∧ (ready.put CLK_STAT_ALIGNED 0).standbyReady = false
    ∧ (ready.put CLK_CTL_AUTO_SWAP 0).on CLK_CTL_AUTO_SWAP = false
    ∧ (ready.put CLK_STAT_ROOT_ACT 1).get CLK_STAT_ROOT_ACT = (1 : Fin 2).val
    ∧ lit.boot.clockFail = false
    ∧ stopped.boot.clockFail = true := by decide +kernel

def good : StartFind := ⟨true, true, true, [], 0, []⟩
def booting (step : Nat) (b : Boot) : Chip := { lit.put CLK_BOOT_STEP step with boot := b }
/-- A record of item 3 of 100 bytes, placed at 0x2000. -/
def seedItem : FlashEntry :=
  let e : FlashEntry := ⟨3, 0, true, true, 255, 0, 0, 0, 1, List.replicate 64 7, List.replicate 96 8, [], List.replicate 100 9, []⟩
  { e.written (List.replicate 100 9) with offset := 0x2000 }
def stocked : Chip := { (booting 5 { porter := true }).put GLB_LIKENESS_CLASS 0 with upd := { ({} : Updates) with dirA := some (DirCopy.made 1 [seedItem]) } }
/-- A seed request for item 3 from OFFSET 0, and a piece of 64 bytes of an item of 1000 bytes (NTYPE 0x20 and 0x21). -/
def seedAsk : Cell := ⟨mkHdr 1 0 0 6 false true 104 4, [0x20, 1, 3, 64] ++ leBytes 0 4 ++ leBytes 0 4 ++ leBytes 0 4 ++ List.replicate 88 0⟩
def seedPiece : Cell := ⟨mkHdr 1 0 0 6 false true 104 4, [0x21, 1, 3, 0] ++ leBytes 64 4 ++ leBytes 1000 4 ++ leBytes 0 4 ++ List.replicate 88 5⟩

/-- StartUpStepsAndFailures: each cause that holds it; step 1 with bad fuses, and with no lock; step 3 with BOOTMODE 2, and with no
directory; a seed request and a seed piece. -/
theorem witness_start_up : (booting 1 { held := true }).boot.held = true
    ∧ (booting 1 { clockFail := true }).boot.clockFail = true
    ∧ (Chip.put (booting 1 {}) CLK_BOOT_FAIL 1).get CLK_BOOT_FAIL = 1
    ∧ (booting 1 {}).boot.held = false
    ∧ (booting 1 {}).boot.clockFail = false
    ∧ (booting 1 {}).get CLK_BOOT_FAIL ≠ 1
    ∧ (booting 1 {}).get CLK_BOOT_STEP = 1
    ∧ ({ good with fuseOk := false } : StartFind).fuseOk = false
    ∧ ({ good with lockA := false, lockB := false } : StartFind).lockA = false
    ∧ (booting 3 {}).get CLK_BOOT_STEP = 3
    ∧ (booting 3 {}).get CLK_BOOT_FAIL ≠ 1
    ∧ (booting 3 { gate := true }).boot.gate = true := by decide +kernel

/-- As before, further clauses. -/
theorem witness_start_up_2 : (booting 3 {}).boot.gate = false
    ∧ (booting 3 {}).boot.seed = none
    ∧ (booting 3 { seed := some (3, 0, []) }).boot.seed = some (3, 0, [])
    ∧ (booting 3 {}).boot.porter = false
    ∧ stocked.boot.porter = true
    ∧ isNotice seedAsk 0x20 = true
    ∧ rd seedAsk.data 12 4 = stocked.get GLB_LIKENESS_CLASS
    ∧ rd seedAsk.data 4 4 % 64 = 0
    ∧ rd seedAsk.data 3 1 = 64
    ∧ [2, 3, 7].contains (rd seedAsk.data 2 1) = true
    ∧ stocked.activeItem (rd seedAsk.data 2 1) 255 = some seedItem
    ∧ isNotice seedPiece 0x21 = true := by decide +kernel

/-- Step 1 and step 2 with sound fuses and one lock; the seed request of a class that is not this unit's, and of no piece; a seed piece
at a port of the wrong side. -/
theorem witness_start_up_normal : good.fuseOk = true ∧ good.lockA = true ∧ (booting 2 {}).get CLK_BOOT_STEP = 2 ∧ (booting 2 {}).get CLK_BOOT_FAIL ≠ 1
    ∧ rd seedAsk.data 12 4 ≠ (stocked.put GLB_LIKENESS_CLASS 1).get GLB_LIKENESS_CLASS
    ∧ rd (List.replicate 104 (0 : Byte)) 3 1 = 0 ∧ stocked.boot.porter = true ∧ (booting 3 {}).boot.seeded = [] := by decide +kernel

/-- A directory of one entry, at step 3 with BOOTMODE 0. -/
theorem witness_start_up_directory : (stocked.put CLK_STRAP_BOOTMODE 0).get CLK_STRAP_BOOTMODE = 0
    ∧ (stocked.put CLK_STRAP_BOOTMODE 0).dir.isSome = true := by decide +kernel

/-- The last piece of an item of 128 bytes, that passes no check of a bound record: the run is complete. And the 64th piece of a larger
item, after which Porter ROM asks for the next. -/
def lastPiece : Cell := ⟨mkHdr 1 0 0 6 false true 104 4, [0x21, 1, 3, 0] ++ leBytes 64 4 ++ leBytes 128 4 ++ leBytes 0 4 ++ List.replicate 88 5⟩
def piece64 : Cell := ⟨mkHdr 1 0 0 6 false true 104 4, [0x21, 1, 3, 0] ++ leBytes 4032 4 ++ leBytes 9000 4 ++ leBytes 0 4 ++ List.replicate 88 5⟩
def someRun : SMap (List Byte) := (List.range 63).map (fun i => (i, [1]))

theorem witness_seed_ends : isNotice lastPiece 0x21 = true ∧ rd lastPiece.data 2 1 = 3 ∧ rd lastPiece.data 4 4 % 64 = 0
    ∧ rd lastPiece.data 4 4 < rd lastPiece.data 8 4
    ∧ piecesRun (mset [] [(0, List.replicate 64 5)] (rd lastPiece.data 4 4 / 64) (slice lastPiece.data 16 64)) 0 = 2 ∧ rd lastPiece.data 8 4 ≤ 64 * 2
    ∧ (booting 3 {}).boundOk 3 (boundRecord 3 (((mset [] [(0, List.replicate 64 5)] 1 (slice lastPiece.data 16 64)).flatMap (·.2)).take 128)).header = false
    ∧ isNotice piece64 0x21 = true ∧ piecesRun (mset [] someRun (rd piece64.data 4 4 / 64) (slice piece64.data 16 64)) 0 = 64
    ∧ 64 * 64 < rd piece64.data 8 4 ∧ rd piece64.data 4 4 / 64 + 1 = 64 := by decide +kernel

/-- The decision of a row head with both upstream ports without signal, and with signal at one and a position held. -/
theorem witness_head_decision : ({ booting 3 {} with braid := { ({} : Braid) with losNu := true, losSu := true } }).braid.losNu = true
    ∧ ({ booting 3 {} with braid := { ({} : Braid) with losNu := true, losSu := true } }).braid.losSu = true
    ∧ ({ booting 3 {} with braid := { ({} : Braid) with losNu := true, losSu := true } }).braid.window = true
    ∧ ({ booting 3 {} with braid := { ({} : Braid) with losNu := true, losSu := false } }).braid.losSu = false
    ∧ ((booting 3 {}).put BRD_STAT_POS_VALID 1).on BRD_STAT_POS_VALID = true := by decide +kernel

/-- As before, further clauses. -/
theorem witness_start_up_3 : rd seedPiece.data 2 1 = 3
    ∧ rd seedPiece.data 4 4 % 64 = 0
    ∧ rd seedPiece.data 4 4 < rd seedPiece.data 8 4
    ∧ piecesRun (mset [] [] (rd seedPiece.data 4 4 / 64) (slice seedPiece.data 16 64)) 0 = 0
    ∧ piecesRun (mset [] [(0, [1])] (rd seedPiece.data 4 4 / 64) (slice seedPiece.data 16 64)) 0 = 2
    ∧ 64 * 2 < rd seedPiece.data 8 4
    ∧ (booting 3 {}).braid.window = true
    ∧ ({ booting 3 {} with braid := { ({} : Braid) with window := false } }).braid.window = false
    ∧ (Chip.put (booting 3 {}) CLK_STRAP_ROWHEAD 0).get CLK_STRAP_ROWHEAD = 0
    ∧ (Chip.put (booting 3 {}) CLK_STRAP_ROWHEAD 1).get CLK_STRAP_ROWHEAD = 1
    ∧ ({ booting 3 {} with braid := { ({} : Braid) with losNu := false } }).braid.losNu = false
    ∧ (booting 3 {}).on BRD_STAT_POS_VALID = false := by decide +kernel

theorem witness_start_up_step3 : (Chip.put ((booting 3 {}).put CLK_STRAP_BOOTMODE 2) CLK_BOOT_STEP 3).get CLK_STRAP_BOOTMODE = 2
    ∧ (Chip.put ((booting 3 {}).put CLK_STRAP_BOOTMODE 0) CLK_BOOT_STEP 3).get CLK_STRAP_BOOTMODE = 0 ∧ (booting 3 {}).dir = none := by decide

/-! ### Trunk lanes and the link layer: spec/02_trunk_lanes.md, spec/03_trunk_link_layer.md -/

/-- Port ND up at eight lanes, each logical lane on the next physical one, with the lane layer of an attempt. -/
def upPort (l : LanePort) : Chip := (Chip.puts lit ([(TRK_STAT_STATE 1, laneUp), (TRK_STAT_WIDTH 1, 0), (TRK_LOS_LOS_LANE 1, 0)] ++ (List.range 8).map (fun i => (TRK_LANE_MAP_RX_LOG 1 i, i + 1)))).setLane .nd l
def inState (p : TPort) (st : Nat) (l : LanePort) : Chip := (lit.put (TRK_STAT_STATE p.num) st).setLane p l
/-- A training block of a type, with its CHECK byte. -/
def block (typ : Nat) : BitVec 64 := BitVec.ofNat 64 (leNat (blockBytes typ 0 1 0 1 0 5 0 0x1FF 0))

/-- A control block of a payload as lane 0 of the partner sends it first (R36, R37), and the same bits under the header of a data block. -/
def rx (w : BitVec 64) : RxBlock := ⟨0, BitVec.ofNat 66 (controlBlock (scramble 0 w.toNat).1)⟩
def rxData (w : BitVec 64) : RxBlock := ⟨0, BitVec.ofNat 66 (dataBlock (scramble 0 w.toNat).1)⟩

/-- LaneSignalsAndTraining: a block that carries a training block, one that does not. -/
theorem witness_blocks : ((upPort {}).rxControl .nd (rx (block 0xA6))).1 = some (block 0xA6) ∧ syncHeader (rxData (block 0xA6)) ≠ 2
    ∧ ((upPort {}).rxControl .nd (rxData (block 0xA6))).1 = none ∧ ((lit).rxControl .su (rx (block 0xA1))).1 = some (block 0xA1) := by decide +kernel

/-- LaneSignalsAndTraining: LOS on a lane that is used and one that is not, on a port that is up and one that is off; drift tracking
on and off; blocks of the types A6 and A7; the port orders that R64 and R68 turn away. -/
theorem witness_lane_signals : (upPort {}).laneState .nd = laneUp
    ∧ ((upPort {}).activeRx .nd).contains 8 = true
    ∧ ((upPort {}).activeRx .nd).contains 0 = false
    ∧ (((upPort {}).setBitOf (TRK_LOS_LOS_LANE 1) 8).evtBit (TRK_EVT_LOS_LANE 1) 8).laneState .nd = laneUp
    ∧ bit ((((upPort {}).setBitOf (TRK_LOS_LOS_LANE 1) 8).evtBit (TRK_EVT_LOS_LANE 1) 8).get (TRK_LOS_LOS_LANE 1)) 1 = false
    ∧ (inState .nd laneOff {}).laneState .nd ≠ laneUp
    ∧ TPort.nd.up = false
    ∧ TPort.nd.num = 1
    ∧ ((Chip.put lit (TRK_CTL_DRIFT_EN 1) 0).get (TRK_CTL_DRIFT_EN 1)) = 0
    ∧ ((Chip.put lit (TRK_CTL_DRIFT_EN 1) 1).get (TRK_CTL_DRIFT_EN 1)) ≠ 0
    ∧ (blockOf 0xA6 (block 0xA6)).isSome = true
    ∧ (blockOf 0xA7 (block 0xA7)).isSome = true := by decide +kernel

/-- As before, further clauses. -/
theorem witness_lane_signals_2 : TPort.nu.leads = false
    ∧ TPort.nd.leads = true
    ∧ ((upPort { attempt := .full }).lane .nd).attempt ≠ .none
    ∧ ((upPort {}).lane .nd).attempt = .none
    ∧ (inState .nd laneParked {}).laneState .nd = laneParked
    ∧ ((upPort {}).enterParked .nd |>.evt (TRK_EVT_PARKED_BY_PARTNER 1)).get CLK_BOOT_STEP ≠ 7
    ∧ (upPort {}).braid.dormantSeen.get .nd = false := by decide +kernel

/-- A port with a partner; LOS on the last lane in use and on one of several; a lane that lost its lock on a port that is up and on one
that is not; a retrain request on a port that leads and is up, on one under an attempt; a PARK block of a port whose domain is off, on a
parked port, and with REASON 5 behind a DORMANT notice of a Member. -/
def partnered (l : LanePort) : Chip := (upPort l).put (TRK_STAT_PARTNERED 1) 1
def dormant : Chip := Chip.puts { partnered {} with braid := { ({} : Braid) with dormantSeen := ({} : Braid).dormantSeen.set .nd true } }
  [(BRD_STAT_POS_VALID, 1), (BRD_STAT_POS, 5), (BRD_TRELLIS_STATE 6, posMember)]

theorem witness_lane_signals_3 : (partnered {}).on (TRK_STAT_PARTNERED 1) = true
    ∧ (lit.on (TRK_STAT_PARTNERED 1)) = false
    ∧ (∀ i ∈ ((partnered {}).put (TRK_LOS_LOS_LANE 1) 0x1FF).activeRx .nd, bit (((partnered {}).put (TRK_LOS_LOS_LANE 1) 0x1FF).get (TRK_LOS_LOS_LANE 1)) i = true)
    ∧ (∃ i ∈ (partnered {}).activeRx .nd, bit ((partnered {}).get (TRK_LOS_LOS_LANE 1)) i = false)
    ∧ (15 : Nat) < 16 ∧ 16 ≤ (16 : Nat) ∧ ((partnered {}).put (TRK_LOS_LOS_CK 1) 0).on (TRK_LOS_LOS_CK 1) = false ∧ (lit.put (TRK_LOS_LOS_CK 1) 1).on (TRK_LOS_LOS_CK 1) = true
    ∧ lit.trunkOn .nd = true ∧ (lit.put PWR_STAT_DOM_ON 1).trunkOn .nd = false := by decide +kernel

theorem witness_lane_signals_4 : dormant.trunkOn .nd = true ∧ dormant.laneState .nd ≠ laneParked ∧ dormant.braid.dormantSeen.get .nd = true
    ∧ dormant.partnerIs .nd posMember = true ∧ (blockOf 0xA7 (BitVec.ofNat 64 (leNat (blockBytes 0xA7 0 1 0 1 0 5 0 0x1FF 5)))).map tbReason = some 5
    ∧ ((partnered {}).put BRD_STAT_ROLE 1).get BRD_STAT_ROLE = 1 ∧ TPort.nu.up = true := by decide +kernel

def permitted (p : TPort) : Chip := { Chip.puts (inState p laneOff {}) [(TRK_CTL_EN p.num, 1), (TRK_LOS_LOS_CK p.num, 0), (BRD_STAT_POS_VALID, 0)] with
  braid := { ({} : Braid) with permit := .all true }
  boot := { ({} : Boot) with gate := true } }

/-- LaneSignalsAndTraining: a port that may train and one that may not; each step of the exchange on a port that leads and one that
follows; the ends of the retries. -/
theorem witness_training : (permitted .nd).mayTrain .nd = true
    ∧ (Chip.put (permitted .nd) (TRK_CTL_EN 1) 0).mayTrain .nd = false
    ∧ (permitted .nd).laneState .nd = laneOff
    ∧ ((permitted .nd).lane .nd).pendingTry = none
    ∧ (((permitted .nd).setLane .nd { ({} : LanePort) with pendingTry := some (3, 2) }).lane .nd).pendingTry = some (3, 2)
    ∧ (permitted .nd).partnerIs .nd posAbsent = false
    ∧ (permitted .nd).partnerIs .nd posDormant = false
    ∧ blockOf 0xA1 0 = none
    ∧ (blockOf 0xA1 (block 0xA1)).isSome = true
    ∧ (inState .nd laneLock { attempt := .full, step := 3 }).partnerIs .nd posPruned = false
    ∧ ((inState .nd laneLock { attempt := .full, step := 3 }).lane .nd).step < 4
    ∧ (inState .nd laneLock { attempt := .full, step := 3 }).laneState .nd ≠ laneUp
    ∧ (blockOf 0xA2 (block 0xA2)).isSome = true
    ∧ ((inState .nu laneExchange { attempt := .full, step := 4 }).lane .nu).step = 4 := by decide +kernel

/-- As before, further clauses. -/
theorem witness_training_2 : (blockOf 0xA3 (block 0xA3)).isSome = true
    ∧ ((inState .nu laneExchange { attempt := .full, step := 5 }).lane .nu).step = 5
    ∧ ((inState .nd laneVerify { attempt := .full, step := 6 }).lane .nd).step = 6
    ∧ (blockOf 0xA4 (block 0xA4)).isSome = true
    ∧ (blockOf 0xA5 (block 0xA5)).isSome = true
    ∧ ((inState .nu laneVerify { step := 7, verdict := some 0x1FF, partnerVerdict := some 0xFF }).lane .nu).verdict = some 0x1FF
    ∧ ((inState .nu laneVerify { step := 7, verdict := some 0x1FF, partnerVerdict := some 0xFF }).lane .nu).partnerVerdict = some 0xFF
    ∧ lit.get CLK_BOOT_STEP ≠ 6
    ∧ 0 + 1 < ((Chip.put lit (TRK_RETRY_RETRY_LIM 1) 3).inc (TRK_FAIL_CNT_FAILS 1)).get (TRK_RETRY_RETRY_LIM 1)
    ∧ (inState .nd laneRetryWait {}).laneState .nd = laneRetryWait
    ∧ ((inState .nd laneOff { attempt := .fast }).lane .nd).attempt = .fast := by decide +kernel

/-- TrainingTimeouts: the partner pruned and not, a parked port, an attempt in step 4; each end of a retry: a further try, a slower rate, the pause; the
other kinds of attempt. -/
theorem witness_training_3 : ((Chip.puts lit [(BRD_STAT_POS_VALID, 1), (BRD_STAT_POS, 5), (BRD_TRELLIS_STATE 6, posPruned)])).partnerIs .nd posPruned = true
    ∧ lit.partnerIs .nd posPruned = false ∧ 4 ≤ ((inState .nd laneExchange { attempt := .full, step := 4 }).lane .nd).step
    ∧ ((inState .nd laneLock { attempt := .full, fails := 2 }).lane .nd).attempt = .full ∧ ((Chip.put lit (TRK_RETRY_RETRY_LIM 1) 3)).get (TRK_RETRY_RETRY_LIM 1) ≤ 2 + 1
    ∧ (lit.put (TRK_CTL_FALLBACK_EN 1) 1).on (TRK_CTL_FALLBACK_EN 1) = true ∧ (lit.put (TRK_CTL_FALLBACK_EN 1) 0).on (TRK_CTL_FALLBACK_EN 1) = false
    ∧ ((inState .nd laneLock { attempt := .rateChange }).lane .nd).attempt = .rateChange ∧ ((inState .nd laneLock {}).lane .nd).attempt = .none
    ∧ ((inState .nd laneVerify { step := 7 }).lane .nd).step ≠ 6 := by decide +kernel

/-- Port ND up with its link in a state. -/
def linked (l : LinkPort) : Chip := (upPort {}).setLink .nd l
def flitOf (kind : Nat) (body : List Byte) (implicit : Nat) (flip : Nat) : List Byte :=
  let m := leBytes (4 * kind) 4 ++ padTo body 112
  let msg := m ++ leBytes (flitCrc implicit m ^^^ flip) 4
  msg ++ rsParity msg
/-- One byte of a flit is hit. -/
def hit (k : Nat) (f : List Byte) : List Byte := f.set k (f.getD k 0 ^^^ 0x55)

/-- The blocks of a flit at eight lanes, as the partner's lanes send them after reset: logical lane i on physical lane i + 1. -/
def blocksOf (flit : List Byte) : List RxBlock :=
  (List.range 8).flatMap (fun i => (scrambleAll 0 (laneShare flit 8 i)).1.map (fun b => ⟨Fin.ofNat _ (i + 1), BitVec.ofNat 66 (dataBlock b)⟩))

/-- FlitsReceived: the blocks of an idle flit spell it at a port that is up with its link Active. -/
theorem witness_flit_blocks : ((linked { state := .active, expect := 4095 }).rxFlit .nd (blocksOf (flitOf 3 [] 4095 0))).1 = flitOf 3 [] 4095 0 := by
  decide +kernel

theorem witness_flit_port : ((linked { state := .active, expect := 4095 }).rxFlit .nd (blocksOf (flitOf 3 [] 4095 0))).2.laneState .nd = laneUp
    ∧ (((linked { state := .active, expect := 4095 }).rxFlit .nd (blocksOf (flitOf 3 [] 4095 0))).2.link .nd).state = .active
    ∧ ((linked { state := .init, accepted := true }).link .nd).accepted = true
    ∧ ((linked { state := .active, rxWait := true }).link .nd).rxWait = true := by decide +kernel

/-- FlitsReceived: an idle flit, a NAK, a HOLD, a cell flit, the handshake messages, a poisoned flit and one whose CRC fails, with a
byte corrected, and a flit beyond correction; a port that is down. -/
theorem witness_flits : (linked { state := .active, expect := 4095 }).laneState .nd = laneUp
    ∧ ((linked { state := .active, expect := 4095 }).link .nd).state = .active
    ∧ ((linked {}).link .nd).state = .down
    ∧ rsDecode (padTo (hit 7 (flitOf 3 [] 4095 0)) 128) = some (flitOf 3 [] 4095 0)
    ∧ rd (flitOf 3 [] 4095 0) 116 4 = flitCrc 4095 (flitOf 3 [] 4095 0)
    ∧ hdrKind (flitOf 3 [] 4095 0) = 3
    ∧ rsDecode (padTo (hit 1 (hit 7 (hit 30 (hit 60 (hit 90 (flitOf 3 [] 4095 0)))))) 128) = none
    ∧ rsDecode (padTo (flitOf 1 [3, 1, 5, 0] 4095 0) 128) = some (flitOf 1 [3, 1, 5, 0] 4095 0)
    ∧ hdrKind (flitOf 1 [3, 1, 5, 0] 4095 0) = 1
    ∧ ctlOf (flitOf 1 [3, 1, 5, 0] 4095 0) = 3
    ∧ rd (flitOf 1 [3, 1, 5, 0] 4095 0) 5 1 = 1
    ∧ ctlOf (flitOf 1 [4, 1, 0, 0] 4095 0) = 4 := by decide +kernel

/-- As before, further clauses. -/
theorem witness_flits_2 : rsDecode (padTo (flitOf 0 someCell.toBytes 4095 0) 128) = some (flitOf 0 someCell.toBytes 4095 0)
    ∧ hdrKind (flitOf 0 someCell.toBytes 4095 0) = 0
    ∧ ctlOf (flitOf 1 [1, 1] 0 0) = 1
    ∧ rd (flitOf 1 [1, 1] 0 0) 116 4 = flitCrc 0 (flitOf 1 [1, 1] 0 0)
    ∧ ctlOf (flitOf 1 [2, 1] 0 0) = 2
    ∧ rd (flitOf 3 [] 4095 0xFFFFFFFF) 116 4 = flitCrc 4095 (flitOf 3 [] 4095 0xFFFFFFFF) ^^^ 0xFFFFFFFF
    ∧ rd (flitOf 3 [] 4095 0xFFFFFFFF) 116 4 ≠ flitCrc 4095 (flitOf 3 [] 4095 0xFFFFFFFF)
    ∧ rd (flitOf 3 [] 4095 1) 116 4 ≠ flitCrc 4095 (flitOf 3 [] 4095 1)
    ∧ rd (flitOf 3 [] 4095 1) 116 4 ≠ flitCrc 4095 (flitOf 3 [] 4095 1) ^^^ 0xFFFFFFFF := by decide +kernel

def stalled : Chip := { linked { state := .active } with sw := { ({} : Switch) with queues := [(64, [⟨1, .plain⟩])] } }

/-- LinkTimersAndFlitBoundary: each kind of pending flit, a replay, an idle boundary in a state that is not Active and with a full
replay buffer, a cut cell with a credit; HOLD with full and with free buffers; each timer; a verdict on a cell that was
discarded and on an admission cell. -/
theorem witness_link_timers : (linked { state := .active, ctl := [.hold 1] }).beaconReady .nd = false
    ∧ ((linked { state := .active, ctl := [.nak 4095] }).link .nd).ctl = [.nak 4095]
    ∧ ((linked { state := .active, next := 0, replayAt := some 4095, replay := [(4095, someCell)] }).link .nd).replay.find? (fun e => e.1 == 4095) = some (4095, someCell)
    ∧ ((linked { state := .init }).link .nd).state ≠ .active
    ∧ 512 ≤ ((linked { state := .active, replay := List.replicate 512 (0, someCell) }).link .nd).replay.length
    ∧ ((linked { state := .active, limit := ⟨1, 1, 1, 1⟩, cut := [(someCell, some true)] }).link .nd).replay.length < 512
    ∧ 0 < ((linked { state := .active, limit := ⟨1, 1, 1, 1⟩, cut := [(someCell, some true)] }).link .nd).avail (vcOf someCell.tc)
    ∧ ((linked { state := .active, used := ⟨100000, 0, 0, 0⟩ }).link .nd).freeBuffers.v0 = 0
    ∧ ((linked { state := .active }).link .nd).freeBuffers.v0 ≠ 0
    ∧ ((linked { state := .active }).link .nd).freeBuffers.v3 ≠ 0
    ∧ ((linked { state := .resume }).link .nd).state = .resume
    ∧ ((linked { state := .active, rxWait := true }).link .nd).rxWait = true := by decide +kernel

/-- As before, further clauses. -/
theorem witness_link_timers_2 : ((linked {}).link .nd).rxWait = false
    ∧ stalled.vcWaits .nd (vcOf 0) = true
    ∧ (stalled.link .nd).avail (vcOf 0) = 0
    ∧ (linked { state := .active, limit := ⟨1, 1, 1, 1⟩ } |>.link .nd).avail 3 = 1
    ∧ ((((Chip.puts stalled [(LNK_CTL_STRICT 1, 0), (GLB_STANCE_STANCE, 0), (BRD_PORT_SVC_RECOVERY, 0)]).setLink .nd { stalled.link .nd with holdAt := (stalled.link .nd).holdAt }).inc (LNK_CREDIT_STALL_CNT 1))).strict .nd = false
    ∧ ((((Chip.put stalled (LNK_CTL_STRICT 1) 1).setLink .nd { stalled.link .nd with holdAt := (stalled.link .nd).holdAt }).inc (LNK_CREDIT_STALL_CNT 1))).strict .nd = true
    ∧ ((Chip.put stalled (LNK_CTL_AUDIT_ON_STALL 1) 0).evt (LNK_EVT_CREDIT_STALL 1)).on (LNK_CTL_AUDIT_ON_STALL 1) = false
    ∧ ((linked { inflight := [⟨someCell, 0, false, none, none⟩] }).link .nd).inflight = [⟨someCell, 0, false, none, none⟩]
    ∧ admissionCell seedAsk = true := by decide +kernel

/-- A handshake message that waits, a beacon that is due, a cut cell whose verdict is bad, an empty port that has something to select,
a HOLD within CREDIT_TMO, AUDIT_ON_STALL, a cut and an accepted cell at their verdicts. -/
theorem witness_link_timers_3 : (Ctl.init 0 ⟨0, 0, 0, 0⟩).isHandshake = true
    ∧ (Chip.puts (linked { state := .active, beaconDue := true }) [(CTM_STAT_STATE, 2)]).beaconReady .nd = true
    ∧ ((linked { state := .active, cut := [(someCell, some false)] }).link .nd).cut = [(someCell, some false)]
    ∧ stalled.heldBy .nd 0 = false
    ∧ (linked { holdAt := ⟨1, 0, 0, 0⟩ }).heldBy .nd 0 = true
    ∧ ((Chip.put stalled (LNK_CTL_AUDIT_ON_STALL 1) 1).evt (LNK_EVT_CREDIT_STALL 1)).on (LNK_CTL_AUDIT_ON_STALL 1) = true
    ∧ ((linked { inflight := [⟨someCell, 0, true, some .su, none⟩] }).link .nd).inflight = [⟨someCell, 0, true, some .su, none⟩]
    ∧ [(someCell, (none : Option Bool))].any (fun e => e.1 == someCell && e.2.isNone) = true := by decide +kernel

/-! ### The switch, the scheduler and the tunnels: spec/06_switch_core.md to spec/08_tunnels_and_ordering.md -/

/-- An order with a body in slot 0 of session 0, not started, without a DEADLINE, with the bytes of its header. -/
def orderOf (code unit : Nat) (body : List Byte) : Order :=
  ⟨leBytes code 2 ++ leBytes 0x40 2 ++ leBytes body.length 2 ++ [0, BitVec.ofNat 8 unit] ++ leBytes 0 8 ++ body, .dock, 255, false, 0⟩
def ordered (c : Chip) (o : Order) : Chip := c.setSlot ⟨0, 0⟩ ⟨0, some o, none⟩

/-- The order in slot 0 is the one that a command starts now. -/
def begins (c : Chip) (code : Nat) (row : List Byte → Bool) (o : Order) : Bool :=
  (ordered c o).orderAt ⟨0, 0⟩ code row == some o && rd o.bytes 8 8 == 0

theorem begins_starts {c : Chip} {code : Nat} {row : List Byte → Bool} {o : Order} (h : begins c code row o = true) :
    (ordered c o).starts ⟨0, 0⟩ code row o := by
  unfold begins at h
  simp only [Bool.and_eq_true, beq_iff_eq] at h
  exact ⟨h.1, .inl h.2⟩

/-- The chip once the order in slot 0 is under way, and the order's body. -/
def begun (c : Chip) (o : Order) : Chip := (ordered c o).orderBegun ⟨0, 0⟩ o

/-- The serving head at position 0 of row 0, with Porter running. -/
def head : Chip := { Chip.puts lit [(BRD_STAT_ROLE, 1), (BRD_STAT_POS_VALID, 1)] with boot := { lit.boot with porter := true } }

/-- SwitchCommandsAndAllotment: a carve at the last block of the pool and one past it, mirroring turned on and kept, a scrub with and without a
remap, a flush walk and none, a gate bank that waits, whose instant has come, and gate registers at their ends. -/
theorem witness_switch : keepFirst < 0 + (2 ^ 18 - 1)
    ∧ (lit.reserved - lit.get (SWX_CARVE_RESERVE 0) + keepFirst % 2 ^ 18 ≤ keepFirst ∨ 0 < lit.reserved - lit.get (SWX_CARVE_RESERVE 0))
    ∧ lit.reserved - lit.get (SWX_CARVE_RESERVE 0) ≤ keepFirst
    ∧ lit.occ 0 ≤ 0
    ∧ lit.get SWX_MIR_CTL_EN = 0
    ∧ (lit.put SWX_MIR_CTL_EN 1).get SWX_MIR_CTL_EN ≠ 0
    ∧ lit.sw.walks.find? (fun w => w.port == 0) = none
    ∧ ({ lit with sw := { ({} : Switch) with walks := [⟨0, [], ⟨0, 0, 0, 0⟩⟩] } }).sw.walks = [⟨0, [], ⟨0, 0, 0, 0⟩⟩]
    ∧ lit.get (SCH_GATE_CTL_PEND 0) = 0
    ∧ (lit.put (SCH_GATE_CTL_PEND 0) 1).get (SCH_GATE_CTL_PEND 0) ≠ 0
    ∧ (Chip.puts lit [(SCH_GATE_CTL_PEND 0, 1), (SCH_GATE_CYCLE_CYCLE 0 1, 1000)]).switchAt 0 ≤ ((Chip.puts lit [(SCH_GATE_CTL_PEND 0, 1), (SCH_GATE_CYCLE_CYCLE 0 1, 1000)]).ns : Int)
    ∧ ((Chip.puts lit [(SCH_GATE_CTL_PEND 0, 1), (SCH_GATE_CYCLE_CYCLE 0 1, 1000), (SCH_GATE_CHG_LO_CHG 0, 1000)]).ns : Int) < (Chip.puts lit [(SCH_GATE_CTL_PEND 0, 1), (SCH_GATE_CYCLE_CYCLE 0 1, 1000), (SCH_GATE_CHG_LO_CHG 0, 1000)]).switchAt 0 := by decide +kernel

/-- As before, further clauses. -/
theorem witness_switch_2 : bit (1 + 2 ^ 8 * 64 + 2 ^ 17) 17 = true
    ∧ bits (1 + 2 ^ 8 * 64 + 2 ^ 17) 0 7 = 1
    ∧ bits (1 + 2 ^ 8 * 64 + 2 ^ 17) 8 7 = 64
    ∧ gateAddr (0x88014 / 4 * 4) = some (0, 1, 0x14)
    ∧ 1 ≠ (lit.put (SCH_GATE_CTL_PEND 0) 1).get (SCH_GATE_CTL_ACT_BANK 0)
    ∧ 1000 ≤ bits 1000 0 30
    ∧ bits 1000000000 0 30 ≤ 1000000000
    ∧ bits 999 0 30 < 1000 := by decide +kernel

/-- Scrubbing enabled and not; the other registers of a gate bank; a ring that is valid, on a cluster that is on. -/
theorem witness_switch_3 : (lit.put SWX_CTL_SCRUB_EN 0).get SWX_CTL_SCRUB_EN = 0 ∧ (lit.put SWX_CTL_SCRUB_EN 1).get SWX_CTL_SCRUB_EN ≠ 0
    ∧ gateAddr (0x88020 / 4 * 4) = some (0, 0, 0x20) ∧ gateAddr (0x88400 / 4 * 4) = some (0, 0, 0x400) ∧ gateAddr (0x88404 / 4 * 4) = some (0, 0, 0x404)
    ∧ (ringed 10 [] openSource).ringValid 3 = true
    ∧ (ringed 10 [] openSource).domainOn (if (ringed 10 [] openSource).get (BCH_RING_BENCH 3) < 8 then 8 else 9) = true := by decide +kernel

/-- An allotment of one entry at an epoch (Tables 7.2 and 7.3). -/
def allotBody (phase count ref epoch : Nat) : List Byte :=
  leBytes epoch 8 ++ leBytes count 2 ++ [BitVec.ofNat 8 phase, 0, 0, 0] ++ leBytes ref 2
    ++ if count = 0 then [] else allotBytes ⟨1, 1, 0, 5, 100, 200⟩
def allotOf (phase count ref epoch : Nat) : Order := orderOf 0x40 0 (allotBody phase count ref epoch)
def staged : Chip := { lit with sw := { ({} : Switch) with stages := [⟨9, 1, false, []⟩] } }
def requested (cancelled : Bool) (epoch : Nat) : Chip := { lit with sw := { ({} : Switch) with requests := [⟨⟨0, 0⟩, 9, epoch, [], false, cancelled, none⟩] } }

/-- SwitchCommandsAndAllotment: a request at the serving head and elsewhere; a stage that is turned away for its body, by ALLOT_EN,
and one that fits; a commit whose reference is staged and one whose is not; a cancel; an epoch that has come; a request at its
guard and past its epoch. -/
theorem witness_allotment : begins head 0x40 (phaseIs 0) (allotOf 0 1 0 1000) = true ∧ (begun head (allotOf 0 1 0 1000)).headDuty = true
    ∧ allotBodyOk (allotBody 0 1 0 1000) true = true
    ∧ allotRef (allotBody 0 1 0 1000) = 0
    ∧ (begun lit (allotOf 0 1 0 1000)).headDuty = false
    ∧ (begun head (allotOf 0 1 0 1000)).ns + (begun head (allotOf 0 1 0 1000)).get SCH_ALLOT_TMR_ALLOT_LEAD * 10000 ≤ allotEpoch (allotBody 0 1 0 1000) * 1000000
    ∧ begins lit 0x40 (phaseIs 1) (allotOf 1 1 9 1) = true
    ∧ begins lit 0x40 (phaseIs 1) (allotOf 1 63 9 1) = true
    ∧ allotBodyOk (allotBody 1 63 9 1) true = false
    ∧ (allotEntries (allotBody 1 1 9 1)).all AllotEntry.ok = true
    ∧ (begun (lit.put SCH_CTL_ALLOT_EN 0) (allotOf 1 1 9 1)).get SCH_CTL_ALLOT_EN = 0
    ∧ (begun (lit.put SCH_CTL_ALLOT_EN 1) (allotOf 1 1 9 1)).get SCH_CTL_ALLOT_EN ≠ 0 := by decide +kernel

/-- As before, further clauses. -/
theorem witness_allotment_2 : (begun lit (allotOf 1 1 9 1)).stagedEntries + (allotEntries (allotBody 1 1 9 1)).length ≤ 128
    ∧ ((begun lit (allotOf 1 1 9 1)).stagedEpochs.filter (fun e => e != allotEpoch (allotBody 1 1 9 1))).length < 2
    ∧ (begun lit (allotOf 1 1 9 1)).ns < allotEpoch (allotBody 1 1 9 1) * 1000000
    ∧ begins staged 0x40 (phaseIs 2) (allotOf 2 0 9 1) = true
    ∧ allotBodyOk (allotBody 2 0 9 1) false = true
    ∧ (begun staged (allotOf 2 0 9 1)).sw.stages.any (fun x => x.ref == allotRef (allotBody 2 0 9 1)) = true
    ∧ (begun lit (allotOf 2 0 9 1)).sw.stages.any (fun x => x.ref == allotRef (allotBody 2 0 9 1)) = false
    ∧ begins staged 0x40 (phaseIs 3) (allotOf 3 0 9 1) = true
    ∧ lit.sw.stages.filter (fun x => decide (x.epoch * 1000000 ≤ lit.ns)) = []
    ∧ ({ lit with sw := { ({} : Switch) with stages := [⟨9, 0, true, []⟩] } }).sw.stages = [⟨9, 0, true, []⟩]
    ∧ 0 * 1000000 ≤ lit.ns
    ∧ lit.allotReview.sw.requests.find? (fun r => r.ref == (9 : BitVec 16).toNat) = none := by decide +kernel

/-- As before, further clauses. -/
theorem witness_allotment_3 : ((requested false 0).allotReview.sw.requests.find? (fun r => r.ref == (9 : BitVec 16).toNat)).map (·.epoch) = some 0
    ∧ ((requested true 5).allotReview.sw.requests.find? (fun r => r.ref == (9 : BitVec 16).toNat)).map (·.cancelled) = some true
    ∧ (requested false 1000).allotReview.ns + (requested false 1000).allotReview.get SCH_ALLOT_TMR_ALLOT_GUARD * 1000 < 1000 * 1000000 := by decide +kernel

/-- A request whose entries are bad, one that comes too late, a guard that has passed for a request that stands. -/
theorem witness_allotment_4 : begins head 0x40 (phaseIs 0) (allotOf 0 1 0 0) = true
    ∧ allotEpoch (allotBody 0 1 0 0) * 1000000 < (begun head (allotOf 0 1 0 0)).ns + (begun head (allotOf 0 1 0 0)).get SCH_ALLOT_TMR_ALLOT_LEAD * 10000
    ∧ (allotEntries (leBytes 1000 8 ++ leBytes 1 2 ++ [0, 0, 0, 0] ++ leBytes 0 2 ++ allotBytes ⟨1, 0, 0, 5, 100, 200⟩)).all AllotEntry.ok = false
    ∧ ((requested false 0).allotReview.sw.requests.find? (fun r => r.ref == 9)).map (fun r => (r.committed, r.cancelled)) = some (false, false)
    ∧ 0 * 1000000 ≤ (requested false 0).allotReview.ns + (requested false 0).allotReview.get SCH_ALLOT_TMR_ALLOT_GUARD * 1000 := by decide +kernel

def openBody (t : Nat) : List Byte := leBytes t 2 ++ [3, 3] ++ leBytes 5 2 ++ leBytes 1023 2 ++ leBytes 0xFFFF 2 ++ List.replicate 6 0
def closeBody (t drain : Nat) : List Byte := leBytes t 2 ++ [BitVec.ofNat 8 drain] ++ List.replicate 5 0
def withTun (t : Nat) (x : Tun) : Chip := lit.setTun t x

/-- TunnelOpenAndClose: tunnels 0, 1 and 1023 opened closed and open; closes of a sink, and of a source with DRAIN 0 and 1; the
timers of a kept sink, a kept source and a loose sink; an idle peer entry. -/
theorem witness_tunnel_orders : begins lit 0x20 anyBody (orderOf 0x20 0 (openBody 0)) = true
    ∧ rd (openBody 0) 0 2 = 0
    ∧ begins lit 0x20 anyBody (orderOf 0x20 0 (openBody 1023)) = true
    ∧ rd (openBody 1023) 0 2 = 1023
    ∧ rd (openBody 1) 2 1 ≤ 31
    ∧ rd (openBody 1) 3 1 ≤ 63
    ∧ rd (openBody 1) 6 2 = 1023
    ∧ rd (openBody 1) 10 6 = 0
    ∧ ((begun (withTun 1 openSource) (orderOf 0x20 0 (openBody 1))).tun 1).state ≠ .closed
    ∧ ((begun lit (orderOf 0x20 0 (openBody 1))).tun 1).state = .closed
    ∧ begins lit 0x21 anyBody (orderOf 0x21 0 (closeBody 1023 1)) = true
    ∧ rd (closeBody 1023 1) 2 1 = 1 := by decide +kernel

/-- As before, further clauses. -/
theorem witness_tunnel_orders_2 : rd (closeBody 1 0) 3 5 = 0
    ∧ ((begun (withTun 1 openSink) (orderOf 0x21 0 (closeBody 1 0))).tun 1).sink = true
    ∧ ((begun (withTun 1 openSource) (orderOf 0x21 0 (closeBody 1 1))).tun 1).sink = false
    ∧ (withTun 1 { openSink with sinceAck := 1 }).keptSink 1 = true
    ∧ (withTun 1 openSource).keptSink 1 = false
    ∧ ((withTun 1 { openSink with held := [(2, someCell, none)] }).tun 1).lowestHeld = some 2
    ∧ (lit.tun 1).lowestHeld = none
    ∧ { openSource with oldest := 65534 }.oldest ≠ { openSource with oldest := 65534 }.next
    ∧ { openSource with oldest := 65534 }.live = true
    ∧ 0 + 1 < (((withTun 1 { openSource with oldest := 65534 }).setTun 1 openSource).evt TUN_EVT_KEEP_TMO).get TUN_LIMITS_RESEND_LIM
    ∧ (((withTun 1 { openSource with oldest := 65534 }).setTun 1 openSource).evt TUN_EVT_KEEP_TMO).get TUN_LIMITS_RESEND_LIM ≤ 255 + 1
    ∧ openSource.oldest = openSource.next := by decide +kernel

/-- As before, further clauses. -/
theorem witness_tunnel_orders_3 : { openSink with kept := false }.kept = false
    ∧ ((withTun 1024 { openSource with peer := 5 }).tun 1024).oldest = ((withTun 1024 { openSource with peer := 5 }).tun 1024).next
    ∧ (withTun 1024 { openSource with peer := 5 }).mbx.outWait.all (fun e => e.1 != 5) = true := by decide +kernel

def dataCellOf (t flags vlen : Nat) : Cell := ⟨mkHdr 1 t 0 2 false true vlen flags, List.replicate 104 0⟩
def ctlCellOf (t ct ver reason : Nat) : Cell := ⟨mkHdr 1 t 0 2 false true 104 8, [BitVec.ofNat 8 ct, BitVec.ofNat 8 ver, 0, 0] ++ leBytes 0 2 ++ leBytes 1 2 ++ [BitVec.ofNat 8 reason] ++ List.replicate 95 0⟩

/-- The cell waits for the tunnel layer in block 0 at the port of tunnels without a ring. -/
def waitingCell (s : Chip) (c : Cell) : Chip :=
  ((s.store 0 2 c false (.part 12) 0).map (fun x => x.2.enqueue x.1 12 (queueOf c) (.tunnel false))).getD s

/-- TunnelCellsReceived: a data cell for an open sink in order, for a broken end and for none, as no queue holds it, as a queue does, and as
its block is found bad. -/
theorem witness_tunnel_cells : (dataCellOf 1 0 104).tun = 1
    ∧ (dataCellOf 1 0 104).flag 2 = false
    ∧ (dataCellOf 1 0 104).flag 3 = false
    ∧ ((dataCellOf 1 4 104).flag 2 = true ∨ (dataCellOf 1 8 104).flag 3 = true ∨ (ctlCellOf 1 1 1 0).flag 3 = true)
    ∧ badData (dataCellOf 1 0 104) = false
    ∧ badData (dataCellOf 1 0 105) = true
    ∧ ((withTun 1 openSink).takeTunnel (dataCellOf 1 0 104) .clean).1 = some none
    ∧ ((waitingCell (withTun 1 openSink) (dataCellOf 1 0 104)).takeTunnel (dataCellOf 1 0 104) .clean).1 = some (some 0)
    ∧ ((waitingCell (withTun 1 openSink) (dataCellOf 1 0 104)).takeTunnel (dataCellOf 1 0 104) (.uncorrectable 3)).1 = none
    ∧ (((withTun 1 openSink).takeTunnel (dataCellOf 1 0 104) .clean).2.tun 1).state = .opened
    ∧ (((withTun 1 { openSink with state := .broken }).takeTunnel (dataCellOf 1 0 104) .clean).2.tun 1).state = .broken
    ∧ ((lit.takeTunnel (dataCellOf 1 0 104) .clean).2.tun 1).state = .closed := by decide +kernel

/-- As before, further clauses. -/
theorem witness_tunnel_cells_2 : (ctlCellOf 1 1 1 0).flag 3 = true
    ∧ badControl (ctlCellOf 1 1 1 0) = false
    ∧ badControl (ctlCellOf 1 1 2 0) = true
    ∧ ctlType (ctlCellOf 1 1 1 0) = 1
    ∧ ctlType (ctlCellOf 1 2 1 0) = 2
    ∧ ctlType (ctlCellOf 1 3 1 1) = 3
    ∧ ctlReason (ctlCellOf 1 3 1 1) ≠ 2
    ∧ ctlReason (ctlCellOf 1 3 1 2) = 2
    ∧ badControl (ctlCellOf 1 3 1 1) = false
    ∧ ((((withTun 1 openSource).takeTunnel (ctlCellOf 1 1 1 0) .clean).2.dropBlk none).tun 1).state = .opened
    ∧ ((((withTun 1 openSink).takeTunnel (ctlCellOf 1 3 1 2) .clean).2.dropBlk none).tun 1).sink = true := by decide +kernel

/-- The distances from EXPECT at their ends, early cells held and not; tunnel 0 with Porter running, stopped and while Shugon is
rewritten, from a node that gets a peer entry. -/
theorem witness_tunnel_cells_3 : seqSub 0 openSink.expect = 0 ∧ seqSub 8191 openSink.expect = 8191 ∧ seqSub 8192 openSink.expect = 8192
    ∧ seqSub 57343 openSink.expect < 57344 ∧ seqSub 57344 openSink.expect = 57344
    ∧ { openSink with held := [(8191, someCell, none)] }.held.any (fun e => e.1 == 8191) = true
    ∧ openSink.held.any (fun e => e.1 == 8191) = false
    ∧ head.boot.porter = true ∧ lit.boot.porter = false ∧ lit.upd.rewriting = none
    ∧ (head.allocPeer 7).1 = some 1024 ∧ (dataCellOf 0 0 104).tun = 0 := by decide +kernel

/-! ### The bridge: spec/12_bridge_and_accessory_bus.md -/

/-- Window 0 is enabled, of a KIND, 64 bytes large, and hand 0 has far addresses in w1 to w4: 0, the last word, one past it, and a
misaligned one. -/
def farHand (kind : Nat) (l : List (Fld × Nat)) : Chip :=
  Chip.puts (busyAs 0 (fun x => { x with regs := [(2, 60), (3, 64), (4, 2)] })) ([(BRG_WIN_CFG_EN 0, 1), (BRG_WIN_CFG_KIND 0, kind), (BRG_WIN_CFG_SIZE 0, 6)] ++ l)
def noTags : Chip := Chip.puts (farHand 1 []) [(BCH_TAG_QUOTA_QUOTA, 0)]
def tagged (kind : TagKind) (r : Option (Nat × Word)) : Chip :=
  { farHand 1 [] with cores := { (farHand 1 []).cores with tags := [(2047, ⟨(farHand 1 []).farReq 0 60 .word none (some 2047), kind, r⟩)] } }

/-- FarAccessIssue: each trap at issue, no tag free, a tag, a posted window, and the completions of each kind of tag with and
without an error. -/
theorem witness_far_access : (farHand 1 []).issues 0 = true
    ∧ (farHand 1 []).farTrap 0 4 .word = 0
    ∧ (farHand 1 []).farTrap 0 60 .word = 0
    ∧ (farHand 1 []).farTrap 0 64 .word = 3
    ∧ (farHand 1 []).farTrap 0 2 .word = 2
    ∧ (((farHand 1 []).hand 0).w 4).toNat % 4 ≠ 0
    ∧ noTags.handTag 0 = none
    ∧ noTags.issues 0 = true
    ∧ (farHand 1 []).handTag 0 ≠ none
    ∧ (farHand 1 [(BRG_WIN_CFG_POSTED 0, 1)]).on (BRG_WIN_CFG_POSTED (winOf 60)) = true
    ∧ ((farHand 1 [(BRG_WIN_CFG_POSTED 0, 1)]).farReq 0 60 .word (some 7) none).kind ≠ 4
    ∧ (farHand 1 []).on (BRG_WIN_CFG_POSTED (winOf 60)) = false := by decide +kernel

/-- As before, further clauses. -/
theorem witness_far_access_2 : (tagged .stx none).busOfTag 2047 = none
    ∧ (farHand 1 []).tagAt 2047 = none
    ∧ ((farHand 1 []).lateError 2047 3).tagAt 2047 = none
    ∧ ((tagged (.ldxReg 5) (some (0, 1))).tagAt 2047).map (fun x => (x.kind, x.result)) = some (.ldxReg 5, some (0, 1))
    ∧ ((tagged (.ldxReg 5) (some (1, 0))).tagAt 2047).map (fun x => (x.kind, x.result)) = some (.ldxReg 5, some (1, 0))
    ∧ ((tagged .stx (some (0, 0))).tagAt 2047).map (fun x => (x.kind, x.result)) = some (.stx, some (0, 0))
    ∧ ((farHand 1 []).bus 4).busy = none := by decide +kernel

def busAt (k : Nat) (b : Bus) : Chip := (farHand 1 [(BRG_WIN_CFG_LOCKABLE 0, 1)]).setBus k b

/-- BridgeLocksAndBuses: a window without a bus, one that is not lockable, a free bus and a held one; the holder unlocks, with and
without an access outstanding; a write to an enabled window; an attempt that backs off; a lock that lasts. -/
theorem witness_bridge_locks : (busAt 0 {}).lockUse 0 = false
    ∧ (farHand 0 []).winBus 0 = none
    ∧ (farHand 1 []).get (BRG_WIN_CFG_LOCKABLE 0) = 0
    ∧ (busAt 0 {}).winBus 0 = some 0
    ∧ (busAt 0 {}).get (BRG_WIN_CFG_LOCKABLE 0) ≠ 0
    ∧ ((busAt 0 {}).bus 0).held = false
    ∧ ((busAt 0 {}).bus 0).tries = []
    ∧ ((busAt 0 { lock := some 7 }).bus 0).held = true
    ∧ (busAt 0 { lock := some 7 }).lockUse 0 = false
    ∧ ((busAt 0 { lock := some 0 }).bus 0).lock = some 0
    ∧ (busAt 0 { lock := some 0 }).windowBusy 0 0 = false
    ∧ (tagged .stx none).windowBusy 0 0 = true := by decide +kernel

/-- As before, further clauses. -/
theorem witness_bridge_locks_2 : (farHand 1 []).get (BRG_WIN_CFG_EN 0) = 1
    ∧ bits 0x11 4 1 ≠ (farHand 1 []).get (BRG_WIN_CFG_POSTED 0)
    ∧ (farHand 1 []).get (BRG_WIN_BASE_LO_BASE 0) ≠ 64
    ∧ (farHand 1 [(BRG_WIN_CFG_EN 0, 0)]).get (BRG_WIN_CFG_EN 0) = 0
    ∧ ((busAt 0 { busy := some ((farHand 1 []).farReq 0 60 .word none none) }).bus 0).busy.isSome = true
    ∧ winner ((busAt 0 {}).bus 0).last ((busAt 0 {}).bus 0).present = none
    ∧ winner ((busAt 0 { tries := [⟨7, none, 0, false⟩] }).bus 0).last ((busAt 0 { tries := [⟨7, none, 0, false⟩] }).bus 0).present = some ⟨7, none, 0, false⟩
    ∧ ((busAt 0 { tries := [⟨0, none, 0, true⟩] }).bus 0).tries.find? (fun t => decide (t.hand = 0) && t.backedOff) = some ⟨0, none, 0, true⟩
    ∧ ((busAt 0 {}).bus 0).tries.find? (fun t => decide (t.hand = 0) && t.backedOff) = none
    ∧ ((busAt 3 {}).bus 3).tries = [] := by decide +kernel

/-- A LOCK that nothing goes before on a bus without contenders; the hand's own attempt that UNLOCK withdraws; configurations a disabled
window takes; a bus that backs off while another holds it. -/
theorem witness_bridge_locks_3 : ((busAt 0 {}).bus 0).present = []
    ∧ (busAt 0 {}).behind 0 ⟨0, none, 0, false⟩ = false
    ∧ ((busAt 0 { tries := [⟨0, none, 0, false⟩] }).bus 0).tries.any (fun t => decide (t.hand = 0) && t.req.isNone) = true
    ∧ ((busAt 0 {}).bus 0).tries.any (fun t => decide (t.hand = 0) && t.req.isNone) = false
    ∧ winAllowed 1 0 1 0 24 = true
    ∧ ((busAt 0 { lock := some 7, tries := [⟨0, none, 0, true⟩] }).bus 0).held = true
    ∧ ((busAt 0 { lock := some 7, tries := [⟨0, none, 0, true⟩] }).bus 0).lock ≠ some 0
    ∧ ((busAt 0 { lock := some 7 }).bus 0).busy = none := by decide +kernel

/-- FarAccessIssue: an access under way at a bus, with a tag and posted. -/
theorem witness_far_access_3 : ((busAt 0 { busy := some ((farHand 1 []).farReq 0 60 .word none none) }).bus 0).busy = some ((farHand 1 []).farReq 0 60 .word none none)
    ∧ ((farHand 1 []).farReq 0 60 .word none none).tag = none := by decide +kernel

/-! ### The register space and the mailbox: spec/00_scope.md, spec/13_management_and_dockets.md -/

/-- CsrWritesByAccessCode, RegisterAccessFromOutside: a word that is not whole, a domain that is off; a node that is a member, the
serving head, and neither. -/
theorem witness_csr_writes : wholeWord 0x10002 .word = false
    ∧ wholeWord 0x10004 .half = false
    ∧ (lit.put PWR_STAT_DOM_ON 1).csrReach 0xA0000 = false
    ∧ lit.domainOn 0 = true
    ∧ head.isMember 0 = true
    ∧ head.fromServingHead 0 = true
    ∧ head.fromServingHead 1 = false
    ∧ (head.put GLB_RCSR_RD_EN 1).on GLB_RCSR_RD_EN = true
    ∧ (head.put GLB_RCSR_WR_ANY 0).on GLB_RCSR_WR_ANY = false
    ∧ (wholeWord 0x10004 .word && head.csrReach 0x10004) = true
    ∧ ({ lit with cores := { ({} : Cores) with remoteWrites := [(9, (farHand 4 [(BRG_WIN_BASE_LO_BASE 0, 5)]).farReq 0 60 .word none none)] } }).cores.remoteWrites.any (fun x => decide (x.1 = 9)) = true
    ∧ ((farHand 4 [(BRG_WIN_BASE_LO_BASE 0, 5)]).farReq 0 60 .word none none).acc = 5 := by decide +kernel

/-- As before, further clauses. -/
theorem witness_csr_writes_2 : lit.cores.remoteWrites.any (fun x => decide (x.1 = 9)) = false
    ∧ ((farHand 4 [(BRG_WIN_BASE_LO_BASE 0, 5)]).farReq 0 60 .word none none).kind = 4 := by decide +kernel

/-- An address of no register, and a row that a write fills field by field; a field of each access code, locked and not; a remote write
whose answer comes from its node and from another; a tag of a remote access. -/
theorem witness_csr_writes_3 : (rowAt (unalias 0x1FFFC)).isNone = true
    ∧ (rowAt (unalias 0x10008)).map (fun r => r.1.base) = some 0x10008 ∧ lit.tnkShut (unalias 0x10008) = false
    ∧ ((rowAt (unalias 0x10008)).map (fun r => (r.1.fields r.2).map (·.acc))).getD [] ≠ []
    ∧ lit.locked (BCH_FOWN_OWNER 0) = false ∧ (lit.lockField (BCH_FOWN_OWNER 0)).locked (BCH_FOWN_OWNER 0) = true
    ∧ lit.raisedNow CLK_EVT_SWAP = 0 ∧ lit.get CLK_EVT_SWAP < 2 ∧ bits 0 0 8 = 0 ∧ bits 0x100 8 8 ≠ 0 := by decide +kernel

theorem witness_remote_tag : ((tagged (.ldxReg 5) none).tagAt 2047).map (fun x => (x.result, x.req.kind)) = some (none, 1)
    ∧ ((tagged (.ldxReg 5) (some (0, 1))).tagAt 2047).map (fun x => x.result.isSome) = some true
    ∧ (({ farHand 4 [(BRG_WIN_BASE_LO_BASE 0, 5)] with cores := { (farHand 4 []).cores with
        tags := [(2047, ⟨(farHand 4 [(BRG_WIN_BASE_LO_BASE 0, 5)]).farReq 0 60 .word none (some 2047), .stx, none⟩)] } } : Chip).tagAt 2047).map
          (fun x => (x.req.kind, x.req.acc, x.result)) = some (4, 5, none) := by decide +kernel

def readCsrOf (far size : Nat) : List Byte := leBytes far 4 ++ [BitVec.ofNat 8 size, 0, 0, 0]

/-- RegisterAccessFromOutside: a CSR order with a bad body, a plain one beyond the ledger bank, one on an open path, a misaligned
one, one in a window that is off, and one that is no whole word. -/
theorem witness_csr_orders : (lit.put BCH_TAG_QUOTA_QUOTA 0).handTag 64 = none
    ∧ lit.handTag 64 ≠ none
    ∧ begins lit 1 anyBody (orderOf 1 0 (readCsrOf 0x10004 2)) = true
    ∧ csrBodyOk 1 (readCsrOf 0x10004 3) = false
    ∧ csrBodyOk 1 (readCsrOf 0x10004 2) = true
    ∧ ((begun lit { orderOf 1 0 (readCsrOf 0x10004 2) with path := .eth0 5 }).isPlain { orderOf 1 0 (readCsrOf 0x10004 2) with path := .eth0 5 } = true ∨ (begun lit (orderOf 1 0 (readCsrOf 0x10004 2))).isPlain (orderOf 1 0 (readCsrOf 0x10004 2)) = true)
    ∧ csrPlainOk 1 (readCsrOf 0x10004 2) = false
    ∧ csrPlainOk 1 (readCsrOf 0xFFFC 2) = true
    ∧ csrPlainOk 1 (readCsrOf 0x10000 2) = false
    ∧ 0 < csrCount 1 (readCsrOf 0x10004 2)
    ∧ (begun (Chip.puts lit [(BRG_WIN_CFG_EN 0, 1), (BRG_WIN_CFG_SIZE 0, 24)]) (orderOf 1 0 (readCsrOf 0x10002 2))).farTrap 64 0x10002 .word = 2
    ∧ (begun (Chip.puts lit [(BRG_WIN_CFG_EN 1, 0)]) (orderOf 1 0 (readCsrOf 0x4000000 2))).farTrap 64 0x4000000 .word = 3 := by decide +kernel

/-- As before, further clauses. -/
theorem witness_csr_orders_2 : (begun (Chip.puts lit [(BRG_WIN_CFG_EN 0, 1), (BRG_WIN_CFG_SIZE 0, 24)]) (orderOf 1 0 (readCsrOf 0x10002 1))).farTrap 64 0x10002 .half = 0
    ∧ (begun (Chip.puts lit [(BRG_WIN_CFG_EN 0, 1), (BRG_WIN_CFG_SIZE 0, 24), (BRG_WIN_CFG_KIND 0, 0)]) (orderOf 1 0 (readCsrOf 0x10002 1))).get (BRG_WIN_CFG_KIND 0) = 0
    ∧ wholeWord 0x10002 .half = false := by decide +kernel

def orderBytes : List Byte := (orderOf 1 0 (readCsrOf 0x10004 2)).bytes
def rewriting : Chip := { lit with upd := { ({} : Updates) with rewriting := some 0 } }

/-- OrdersAccepted: a node that is being rewritten; an order of 24 bytes in a session that is off, in a slot that is occupied, and
in a free one; a bad order, one that a plain frame may not carry, and one past its DEADLINE. -/
theorem witness_orders_accepted : lit.absent = false
    ∧ 16 ≤ orderBytes.length
    ∧ bit ((lit.put MBX_CTL_EN 0).get MBX_CTL_EN) 0 = false
    ∧ bit ((lit.put MBX_CTL_EN 15).get MBX_CTL_EN) 3 = true
    ∧ ((ordered lit (orderOf 1 0 [])).slot ⟨0, 0⟩).occupied = true
    ∧ (lit.slot ⟨0, 0⟩).occupied = false
    ∧ 1008 < rd (leBytes 1 2 ++ leBytes 0 2 ++ leBytes 1009 2 ++ List.replicate 10 0) 4 2
    ∧ orderKnown 1 0 (readCsrOf 0x10004 2) = true
    ∧ orderKnown 0xFF 0 [] = false
    ∧ rd orderBytes 8 8 = 0
    ∧ (0 : Nat) < 2
    ∧ plainAllowed 0x40 true = false := by decide +kernel

def frameOf (kind node sess ks counter : Nat) (content : List Byte) : List Byte :=
  [1, BitVec.ofNat 8 kind] ++ leBytes node 2 ++ [BitVec.ofNat 8 sess, BitVec.ofNat 8 ks, 0, 0] ++ leBytes counter 8 ++ content
/-- Slot 127 of the Vault holds a key that grants management, with a count. -/
def keyed (count : Nat) : Chip := { head with vault := { ({} : Vault) with slots := [(127, ⟨0, 2 ^ useMgmt, 0, false, count, false, List.replicate 32 1⟩)] } }
def tagOfFrame (counter : Nat) : List Byte :=
  padTo (Config.gcmTag ((keyed 5).keyBytes 127) (frameNonce 0 0 0 counter) (frameOf 3 0 0 127 counter []) [0xAA]) 16
def keyedFrame (counter : Nat) : List Byte := frameOf 3 0 0 127 counter [0xAA] ++ tagOfFrame counter

/-- FramesCheckedAndJtag: a plain frame on ETH0 at the serving head for this node, for another of its row, for one of another row;
elsewhere; on the dock and on JTAG; a frame from the serving head; an answer to be sent on; frames too short; a key that does
not grant the use, with no use left. -/
theorem witness_frames : rd (frameOf 3 0 0 255 0 [0]) 0 1 = 1
    ∧ rd (frameOf 3 0 0 255 0 [0]) 1 1 = 3
    ∧ (frameOf 3 0 0 255 0 [0]).length = 17
    ∧ rd (frameOf 3 0 0 255 0 [0]) 4 1 = 0
    ∧ rd (frameOf 3 0 0 255 0 [0]) 6 2 = 0
    ∧ head.isServingHead = true
    ∧ lit.isServingHead = false
    ∧ rd (frameOf 3 0 0 255 0 [0]) 2 2 = head.node
    ∧ rd (frameOf 3 1023 0 255 0 [0]) 2 2 ≠ head.node
    ∧ rd (frameOf 3 1023 0 255 0 [0]) 2 2 / 1024 = head.get BRD_STAT_ROW
    ∧ rd (frameOf 3 1024 0 255 0 [0]) 2 2 / 1024 ≠ head.get BRD_STAT_ROW
    ∧ lit.get BRD_STAT_POS_VALID ≠ 1 := by decide +kernel

/-- As before, further clauses. -/
theorem witness_frames_2 : trimJtag (frameOf 3 0 3 255 0 [0, 0, 0, 0]) = frameOf 3 0 3 255 0 [0, 0, 0, 0]
    ∧ rd (frameOf 2 0 0 255 0 [0]) 1 1 = 2
    ∧ (frameOf 3 0 0 255 0 []).length = 16
    ∧ (keyed 5).on VLT_STAT_TAMPERED = false
    ∧ ((keyed 0).useKey 127 useMgmt).1 = false
    ∧ ((keyed 5).useKey 127 useMgmt).1 = true
    ∧ ((keyed 5).useKey 126 useMgmt).1 = false
    ∧ ((keyed 5).put VLT_STAT_TAMPERED 1).on VLT_STAT_TAMPERED = true
    ∧ lit.mbx.jtagOut = []
    ∧ ({ lit with mbx := { ({} : Mailbox) with jtagOut := [[1, 2, 3, 4, 5]] } }).mbx.jtagOut = [[1, 2, 3, 4, 5]]
    ∧ (12 : BitVec 4).toNat ≠ 10 := by decide +kernel

/-- A serving head whose ETH0 link is up, and a node that is not; a node that is absent; tunnel 0 served and not. -/
def headNet : Chip := head.put (ETH_STAT_LINK 0) 1
theorem witness_frames_3 : headNet.absent = false ∧ headNet.domainOn 11 = true ∧ headNet.get (ETH_STAT_LINK 0) ≠ 0 ∧ (headNet.inc (ETH_RX_OK 0)).headDuty = true
    ∧ ((lit.put (ETH_STAT_LINK 0) 1).inc (ETH_RX_OK 0)).headDuty = false ∧ head.get (ETH_STAT_LINK 0) = 0 ∧ head.noTunnel0 = false ∧ rewriting.noTunnel0 = true
    ∧ rewriting.absent = true
    ∧ head.frameSource 0 = true ∧ (lit.put BRD_STAT_POS_VALID 1).frameSource 3 = false := by decide +kernel

theorem padTo_length (l : List Byte) (k : Nat) : (padTo l k).length = k := by simp [padTo, slice]

/-- FramesCheckedAndJtag: a keyed frame whose tag is right, with a counter one above the last, and one whose counter is not. -/
theorem witness_keyed_frame : (keyedFrame 1).length = 33 ∧ (keyedFrame 1).take 16 = frameOf 3 0 0 127 1 []
    ∧ ((keyedFrame 1).drop 16).take ((keyedFrame 1).length - 32) = [0xAA]
    ∧ padTo (Config.gcmTag ((keyed 5).keyBytes 127) (frameNonce 0 0 0 1) (frameOf 3 0 0 127 1 []) [0xAA]) 16
        = (keyedFrame 1).drop ((keyedFrame 1).length - 16)
    ∧ rd (frameOf 3 0 0 127 1 []) 8 8 = 1 ∧ mget 0 (keyed 5).mbx.rxCounter 0 < 1
    ∧ rd (frameOf 3 0 0 127 0 []) 8 8 ≤ mget 0 (keyed 5).mbx.rxCounter 0 := by
  have h : (keyedFrame 1).length = 33 := by
    unfold keyedFrame tagOfFrame; rw [List.length_append, padTo_length]; rfl
  refine ⟨h, rfl, ?_, ?_, by decide, by decide, by decide⟩
  · rw [h]; rfl
  · rw [h]; rfl

/-- ReadsAcksAndHeartbeat: a docket that is ready, acknowledged with its generation and with another; the heartbeat off and on;
HB_TMO at its ends and outside. -/
theorem witness_acks : ((lit.setSlot ⟨1, 63⟩ ⟨255, none, some (⟨1, 0, 0, 255, 0, []⟩, .dock, 255)⟩).slot ⟨1, 63⟩).ready.isSome = true
    ∧ ((lit.setSlot ⟨1, 63⟩ ⟨255, none, some (⟨1, 0, 0, 255, 0, []⟩, .dock, 255)⟩).slot ⟨1, 63⟩).gen < 256
    ∧ bits (63 + 256 + 65536 * 255) 16 8 = 255
    ∧ bits (63 + 256 + 65536 * 255) 8 2 = 1
    ∧ bits (63 + 256 + 65536 * 255) 0 6 = 63
    ∧ bits (63 + 256) 16 8 ≠ 255
    ∧ (lit.slot ⟨1, 63⟩).ready.isSome = false
    ∧ (lit.put GLB_HB_HB_TMO 0).get GLB_HB_HB_TMO = 0
    ∧ (lit.put GLB_HB_HB_TMO 10).get GLB_HB_HB_TMO ≠ 0
    ∧ bits 10 0 13 = 10
    ∧ bits 6000 0 13 = 6000
    ∧ bits 9 0 13 < 10 := by decide +kernel

/-- As before, further clauses. -/
theorem witness_acks_2 : 6000 < bits 6001 0 13 ∧ (lit.put CLK_BOOT_STEP 9).get CLK_BOOT_STEP = 9 ∧ lit.get CLK_BOOT_STEP ≠ 9
    ∧ head.noTunnel0 = false ∧ head.fromServingHead 0 = true ∧ head.fromServingHead 1 = false := by decide +kernel

/-! ### The braid and chain time: spec/04_braid_and_graft.md, spec/05_chain_time.md -/

def trellisBody (act flags first last : Nat) : List Byte :=
  [BitVec.ofNat 8 act, BitVec.ofNat 8 flags] ++ leBytes first 2 ++ leBytes last 2 ++ [0, 0] ++ leBytes (if act = 3 then 77 else 0) 16
def trellisOf (act flags first last : Nat) : Order := orderOf 0x50 0 (trellisBody act flags first last)
/-- The serving head with Members at positions 1 to 4. -/
def row4 : Chip := Chip.puts head ((List.range 4).map (fun i => (BRD_TRELLIS_STATE (i + 1), posMember)))

/-- TrellisOrdersAndLedgerRecords: an order away from the serving head; a run whose ends are swapped; a prune of the own position,
one that would split the row and one that is forced; an override of one position and of two. -/
theorem witness_trellis_orders : begins row4 0x50 (actionIs 1) (trellisOf 1 0 2 1) = true
    ∧ begins row4 0x50 (actionIs 2) (trellisOf 2 0 1 2) = true
    ∧ begins row4 0x50 (actionIs 3) (trellisOf 3 0 5 5) = true
    ∧ (begun row4 (trellisOf 1 0 2 1)).headDuty = true
    ∧ (begun lit (trellisOf 1 0 2 1)).headDuty = false
    ∧ begins lit 0x50 (actionIs 1) (trellisOf 1 0 2 1) = true
    ∧ rd (trellisBody 2 0 1 2) 0 1 = 2
    ∧ rd (trellisBody 2 0 1 2) 2 2 = 1
    ∧ rd (trellisBody 2 0 1 2) 4 2 = 2
    ∧ (begun row4 (trellisOf 2 0 0 0)).get BRD_STAT_POS = 0
    ∧ (begun (row4.put (BRD_TRELLIS_STATE 0) posMember) (trellisOf 2 0 1 2)).wouldSplit 1 2 = true
    ∧ (begun row4 (trellisOf 2 0 3 4)).wouldSplit 3 4 = false := by decide +kernel

/-- As before, further clauses. -/
theorem witness_trellis_orders_2 : bit (rd (trellisBody 2 1 1 2) 1 1) 0 = true
    ∧ bit (rd (trellisBody 2 0 1 2) 1 1) 0 = false
    ∧ trellisBodyOk (trellisBody 2 1 1023 1023) = true ∧ trellisBodyOk (trellisBody 3 0 5 5) = true ∧ trellisBodyOk (trellisBody 1 2 1 1) = false
    ∧ trellisBodyOk (trellisBody 1 0 1024 1024) = false ∧ rd (trellisBody 1 0 2 1) 4 2 < rd (trellisBody 1 0 2 1) 2 2 := by decide +kernel

/-- A notice about position 2 from node 4, with a TGEN of 1. -/
def noticeOf (ntype detail : Nat) : Cell :=
  ⟨mkHdr 0 0 0 6 false true 104 4, [BitVec.ofNat 8 ntype, 1] ++ leBytes 2 2 ++ leBytes 4 2 ++ [0, BitVec.ofNat 8 detail] ++ List.replicate 16 0 ++ leBytes 1 2 ++ [3, 1] ++ List.replicate 76 0⟩
def heard (c : Chip) : Chip := (c.inc BRD_NOTICE_CNT).evt BRD_EVT_NOTICE

/-- NoticesTaken: a cell of another type, one that only passes with SNOOP_EN 0, and each notice for this node; a DORMANT notice
about a partner and about no partner; a TRELLIS notice that is later and one that is not. -/
theorem witness_notices : isNotice (noticeOf 1 0) 1 = true
    ∧ isNotice (noticeOf 1 0) 2 = false
    ∧ isNotice (noticeOf 6 0) 6 = true
    ∧ isNotice (noticeOf 7 4) 7 = true
    ∧ (noticeOf 1 0).dest = head.node
    ∧ (noticeOf 1 0).dest ≠ (Chip.puts head [(BRD_STAT_POS, 9), (BRD_CTL_SNOOP_EN, 0)]).node
    ∧ (head.put BRD_CTL_SNOOP_EN 0).get BRD_CTL_SNOOP_EN = 0
    ∧ (head.put BRD_CTL_SNOOP_EN 1).get BRD_CTL_SNOOP_EN ≠ 0
    ∧ ((heard (head.put BRD_STAT_POS 9)).put (BRD_TRELLIS_ROLE 4) 1).portTo (nSubject (noticeOf 6 0).data) = none
    ∧ ((heard (head.put BRD_STAT_POS 1)).put (BRD_TRELLIS_ROLE 4) 1).portTo (nSubject (noticeOf 6 0).data) = some .nd
    ∧ ((heard head).put (BRD_TRELLIS_ROLE 4) 1).tgenLater (nTgen (noticeOf 7 1).data) = true
    ∧ ((heard (head.put BRD_TGEN_TGEN 1)).put (BRD_TRELLIS_ROLE 4) 1).tgenLater (nTgen (noticeOf 7 1).data) = false := by decide +kernel

/-- As before, further clauses. -/
theorem witness_notices_2 : nDetail (noticeOf 7 4).data = 4
    ∧ nDetail (noticeOf 7 3).data = 3
    ∧ nReporter (noticeOf 7 1).data = 4 := by decide +kernel

/-- A node at position 1 with a candidate below it on ND, where it is the sponsor in a state. -/
def sponsor (st : Sponsor) (d : Bool) : Chip := { Chip.puts row4 [(BRD_STAT_POS, 1), (BRD_TRELLIS_STATE 2, posAdmitting)] with
  braid := { ({} : Braid) with sponsor := (PerPort.all .idle).set .nd st, decided := .all d } }
def identOf : Cell := ⟨mkHdr 1 0 0 6 false true 104 4, [0x11, 1] ++ leBytes 2 2 ++ leBytes 2 2 ++ List.replicate 98 0⟩

/-- AdmissionDecided: a QUERY and another cell; an IDENT of the candidate, of another node, and after a decision; a sponsor that
waits; a restore instant that has come and none; the hold-off and the recovery of a port. -/
theorem witness_admission : isNotice ⟨mkHdr 1 0 0 6 false true 104 4, [0x10, 1] ++ List.replicate 102 0⟩ 0x10 = true
    ∧ isNotice identOf 0x10 = false
    ∧ isNotice identOf 0x11 = true
    ∧ (sponsor .queried false).partnerPos .nd = some 2
    ∧ (sponsor .queried false).braid.sponsor.get .nd = .queried
    ∧ (sponsor .queried false).braid.decided.get .nd = false
    ∧ (sponsor .queried true).braid.decided.get .nd = true
    ∧ nSubject identOf.data = 2
    ∧ (sponsor .queried false).record 2 = none
    ∧ (sponsor (.waiting 1) false).braid.sponsor.get .nd = .waiting 1
    ∧ (Chip.put (sponsor .idle false) BRD_STAT_POS_VALID 0).partnerPos .nd = none
    ∧ (sponsor .idle false).braid.restoreAt.get .nd = none := by decide +kernel

/-- As before, further clauses. -/
theorem witness_admission_2 : ({ lit with braid := { ({} : Braid) with restoreAt := .all (some 0) } }).braid.restoreAt.get .nd = some 0
    ∧ bit ((lit.setBitOf BRD_PORT_SVC_HOLDOFF_RUN 1).get BRD_PORT_SVC_HOLDOFF_RUN) TPort.nd.num = true
    ∧ bit ((lit.clrBitOf BRD_PORT_SVC_HOLDOFF_RUN 1).get BRD_PORT_SVC_HOLDOFF_RUN) TPort.nd.num = false
    ∧ bit ((row4.setBitOf BRD_PORT_SVC_RECOVERY 1).get BRD_PORT_SVC_RECOVERY) TPort.nd.num = true
    ∧ (row4.setBitOf BRD_PORT_SVC_RECOVERY 1).partnerIs .nd posMember = true
    ∧ (lit.setBitOf BRD_PORT_SVC_RECOVERY 1).partnerIs .nd posMember = false := by decide +kernel

/-- A ledger record of 1600 bytes of the candidate's position with a UID and LIKENESS. -/
def recordOf (uid lik : Nat) : List Byte := List.replicate 12 0 ++ leBytes uid 16 ++ leBytes lik 4 ++ List.replicate 1568 0
def recorded (uid lik : Nat) : Chip := match (sponsor .queried false).ledgerSlot 2 with
  | some k => { sponsor .queried false with boot := { ({} : Boot) with ledger := mset [] [] k (recordOf uid lik) } }
  | none => sponsor .queried false

/-- AdmissionDecided: a candidate with a record, of its UID and LIKENESS, of another UID and of another LIKENESS. -/
theorem witness_admission_records : ((recorded 5 7).record 2).map (fun r => (rd r 12 16, rd r 28 4)) = some (5, 7)
    ∧ (recorded 5 7).braid.sponsor.get .nd = .queried
    ∧ (recorded 5 7).on (BRD_TRELLIS_OVERRIDE 2) = false
    ∧ ((recorded 5 7).put (BRD_TRELLIS_OVERRIDE 2) 1).on (BRD_TRELLIS_OVERRIDE 2) = true
    ∧ ((sponsor .queried false).put (BRD_TRELLIS_OPENED 2) 1).on (BRD_TRELLIS_OPENED 2) = true ∧ mget 0 (sponsor .queried false).braid.enrolled 2 = 0
    ∧ (head.put BRD_STAT_ROLE 1).get BRD_STAT_ROLE = 1 ∧ lit.get BRD_STAT_ROLE ≠ 1 ∧ lit.braid.fromQuery = false := by decide +kernel

/-- ChainTimeChanges: a beacon flit that passes and a flit that does not; the origin and another node in each state; a load while
VALID is 0 and 1. -/
theorem witness_chain_time : ((linked { state := .active }).receive .nd (flitOf 2 [] 0 0)).1 = some (flitOf 2 [] 0 0)
    ∧ hdrKind (flitOf 2 [] 0 0) = 2
    ∧ ((linked { state := .active }).rxFlit .nd (blocksOf (flitOf 2 [] 0 0))).1 = flitOf 2 [] 0 0
    ∧ (lit.put CTM_STAT_STATE ctAcquire).ctState = ctAcquire
    ∧ (lit.put CTM_STAT_STATE ctFree).ctState = ctFree
    ∧ ((linked { state := .active }).receive .nd (flitOf 2 [] 0 1)).1 = none
    ∧ (lit.put CTM_STAT_IS_ORIGIN 1).on CTM_STAT_IS_ORIGIN = true
    ∧ (lit.put CTM_STAT_IS_ORIGIN 0).on CTM_STAT_IS_ORIGIN = false
    ∧ (lit.put CTM_STAT_STATE ctHoldover).ctState = ctHoldover
    ∧ (lit.put CTM_STAT_STATE ctLost).ctState = ctLost
    ∧ (lit.put CTM_STAT_STATE ctLocked).ctState = ctLocked
    ∧ lit.on CTM_STAT_VALID = false
    ∧ (lit.put CTM_STAT_VALID 1).on CTM_STAT_VALID = true := by decide +kernel

/-! ### The endpoints: spec/15_ethernet_and_storage.md to spec/17_display_and_frame_store.md -/

def ethUp : Chip := Chip.puts lit [(ETH_CTL_EN 0, 1), (ETH_STAT_LINK 0, 1), (ETH_CFG_MAXF 0, 1518), (ETH_MAC_LO_ADDR 0, 0x03020100), (ETH_MAC_HI_ADDR 0, 0x0504)]
def ethFrame (dest : List Byte) (ty : List Byte) (rest : List Byte) : List Byte :=
  let b := padTo (dest ++ [6, 7, 8, 9, 10, 11] ++ ty ++ rest) 60
  b ++ leBytes (crc32e b) 4
def mine : List Byte := [0, 1, 2, 3, 4, 5]

/-- EthernetFrames: an enabled port with and without its link; a frame of 64 bytes with a good and a bad FCS, a PAUSE frame, a
management frame for the station, a pseudowire frame, one for another address; a queue with a whole frame; a stamp that waits. -/
theorem witness_ethernet : ethUp.domainOn 11 = true
    ∧ ethUp.get (ETH_CTL_EN 0) ≠ 0
    ∧ ethUp.get (ETH_STAT_LINK 0) ≠ 0
    ∧ lit.get (ETH_STAT_LINK 0) = 0
    ∧ lit.get (ETH_CTL_EN 0) = 0
    ∧ (ethFrame mine [8, 0] []).length = 64
    ∧ 64 ≤ ethUp.get (ETH_CFG_MAXF 0)
    ∧ ethUp.get (ETH_CFG_MAXF 0) < 1519
    ∧ rd (ethFrame mine [8, 0] []) 60 4 = crc32e ((ethFrame mine [8, 0] []).take 60)
    ∧ rd (hit 60 (ethFrame mine [8, 0] [])) 60 4 ≠ crc32e ((hit 60 (ethFrame mine [8, 0] [])).take 60)
    ∧ ethUp.isPause 0 ((ethFrame [1, 0x80, 0xC2, 0, 0, 1] [0x88, 8] [0, 1, 0, 1]).take 60) = true
    ∧ ethUp.isPause 0 ((ethFrame mine [8, 0] []).take 60) = false := by decide +kernel

/-- As before, further clauses. -/
theorem witness_ethernet_2 : wire ((ethFrame mine [0x88, 0xB5] []).take 60) (typeAt ((ethFrame mine [0x88, 0xB5] []).take 60)) 2 = 0x88B5
    ∧ slice ((ethFrame mine [0x88, 0xB5] []).take 60) 0 6 = ethUp.station 0
    ∧ ethUp.ethMatch 0 ((ethFrame mine [8, 0] []).take 60) = true
    ∧ ethUp.ethMatch 0 ((ethFrame [2, 2, 2, 2, 2, 2] [8, 0] []).take 60) = false
    ∧ ethUp.pwOf 0 ((ethFrame mine [8, 0] []).take 60) = none
    ∧ (Chip.puts ethUp [(ETH_CTL_PW_EN 0, 1), (ETH_PW_EN 1023, 1), (ETH_PW_VID 1023, 5)]).pwOf 0 ((ethFrame mine [0x81, 0, 0, 5] [8, 0]).take 60) = some 1023
    ∧ ethUp.on SWX_MIR_CTL_EN = false
    ∧ ethUp.on (ETH_STAT_PAUSED 0) = false
    ∧ (ethUp.put (ETH_STAT_PAUSED 0) 1).on (ETH_STAT_PAUSED 0) = true
    ∧ (ethUp.ethPort 0).rxStamps = []
    ∧ ((ethUp.setEth 0 { rxStamps := [(2, 9, 5)] }).ethPort 0).rxStamps = [(2, 9, 5)] := by decide +kernel

def queued : Chip := (ethUp.setSw { ({} : Switch) with blocks := [(1, ⟨someCell, 12, 0, false, false, 1, .none, 0, none⟩)] }).setQueue 4 5 [⟨1, .plain⟩]

/-- EthernetFrames: a queue with a whole frame that is chosen. -/
theorem witness_ethernet_tx : (queued.select (4 + (0 : Fin 2).val) (fun q => queued.frameReady (0 : Fin 2).val q) (fun q => queued.queueCost (0 : Fin 2).val q)).1 = some 5
    ∧ queued.firstFrame (queued.queue 4 5) = some [⟨1, .plain⟩] := by decide +kernel

def pci : Chip := Chip.puts lit [(PCI_CTL_EN, 1), (PCI_CTL_PERST_REL, 1), (PCI_STAT_LINK, 1), (PCI_SBUF_BASE_LO_BASE, 0x200000)]
def sbufCell (off n vlen : Nat) : Cell := ⟨sbufHdr off n 0 0 + BitVec.ofNat 64 (vlen * 2 ^ 47), List.replicate 104 1⟩

/-- StoragePort: the link up and down, the port disabled; a tag whose access the port performs; inbound requests within SBUF, at its
last byte, past it, at the MSI-X address and beyond; SBUF cells at the last byte and past it; block tags held and not. -/
theorem witness_storage : pci.domainOn 12 = true
    ∧ (pci.put PCI_CTL_PERST_REL 0).on PCI_CTL_PERST_REL = false
    ∧ pci.get PCI_CTL_EN ≠ 0
    ∧ pci.on PCI_STAT_LINK = true
    ∧ (pci.put PCI_STAT_LINK 0).on PCI_STAT_LINK = false
    ∧ (lit.put PCI_CTL_EN 0).get PCI_CTL_EN = 0
    ∧ (tagged .stx none).busOfTag 2047 ≠ some 0
    ∧ ((tagged .stx none).setBus 0 { busy := some ((farHand 1 []).farReq 0 60 .word none (some 2047)) }).busOfTag 2047 = some 0
    ∧ ((tagged .stx none).setBus 0 { busy := some ((farHand 1 []).farReq 0 60 .word none (some 2047)) }).tagAt 2047 ≠ none
    ∧ (pci.get PCI_SBUF_BASE_LO_BASE + 2 ^ 32 * pci.get PCI_SBUF_BASE_HI_BASE) / 2 ^ 21 * 2 ^ 21 = 0x200000
    ∧ 0x200000 ≤ (0x2FFFFF : BitVec 64).toNat
    ∧ (0x2FFFFF : BitVec 64).toNat + 1 ≤ 0x200000 + 2 ^ 20 := by decide +kernel

/-- As before, further clauses. -/
theorem witness_storage_2 : 0x200000 + 2 ^ 20 < (0x2FFFFF : BitVec 64).toNat + 2
    ∧ (0x300000 : BitVec 64).toNat = 0x200000 + 2 ^ 20
    ∧ leNat [15, 0, 0, 0] < 16
    ∧ 16 ≤ leNat [16, 0, 0, 0]
    ∧ (0x1FFFFF : BitVec 64).toNat < 0x200000
    ∧ p6Up pci = true
    ∧ p6Up lit = false
    ∧ sbufOff (sbufCell 0xFFF98 0 104) + (sbufCell 0xFFF98 0 104).vlen ≤ 2 ^ 20
    ∧ (sbufCell 0xFFF98 0 104).vlen = 104
    ∧ 2 ^ 20 < sbufOff (sbufCell 0xFFF99 0 104) + (sbufCell 0xFFF99 0 104).vlen
    ∧ (sbufCell 0xFFF98 104 0).field 26 16 = 104
    ∧ 2 ^ 20 < sbufOff (sbufCell 0xFFF98 105 0) + (sbufCell 0xFFF98 105 0).field 26 16 := by decide +kernel

/-- As before, further clauses. -/
theorem witness_storage_3 : (pci.put PCI_BT_QUOTA_QUOTA 0).blockTag = none
    ∧ (pci.put PCI_BT_QUOTA_QUOTA 1).blockTag = some 128
    ∧ mget false ({ pci with ends := { ({} : Ends) with blockTags := [(128, true)] } }).ends.blockTags 128 = true
    ∧ mget false pci.ends.blockTags 128 = false
    ∧ pci.get PCI_CFG_ADDR_SELF = 0
    ∧ (pci.put PCI_CFG_ADDR_SELF 1).get PCI_CFG_ADDR_SELF ≠ 0 := by decide +kernel

def host : Chip := lit.put USB_HOST_CTL_EN 1

/-- UsbHost: the host on and off; a port with and without a device; a reset under way; pipes configured while off and on; the host
disabled. -/
theorem witness_usb_host : hostRuns host = true
    ∧ hostRuns lit = false
    ∧ host.on (USB_PORT_CONNECTED 4) = false
    ∧ (host.put (USB_PORT_CONNECTED 4) 1).on (USB_PORT_CONNECTED 4) = true
    ∧ host.domainOn 13 = true
    ∧ bit ({ host with ends := { ({} : Ends) with usbReset := 8 } }).ends.usbReset 3 = true
    ∧ bit host.ends.usbReset 3 = false
    ∧ lit.get USB_HOST_CTL_EN = 0
    ∧ host.get USB_HOST_CTL_EN ≠ 0
    ∧ host.ends.pipes = []
    ∧ host.on (USB_PIPE_A_EN 31) = false
    ∧ (host.put (USB_PIPE_A_EN 31) 1).on (USB_PIPE_A_EN 31) = true := by decide +kernel

def device : Chip := Chip.puts lit [(USB_DEV_CTL_EN, 1), (DCK_TC_STAT_DROLE 0, 0), (USB_DEV_STAT_STATE, 1), (USB_DEP_EN 0 15, 1), (USB_DEP_MPS 0 15, 64), (USB_DEP_EN 1 15, 1)]

/-- UsbDeviceFunction: an endpoint that is off, halted, ready, and not ready with SILENT_EN on and off; the bus suspended and not; a
remote wake; carves at the last unit, past it, too small, and clear of the others. -/
theorem witness_usb_device : devUp device = true
    ∧ devUp lit = false
    ∧ device.get USB_DEV_STAT_STATE ≠ 0
    ∧ device.get (USB_DEP_EN 0 14) = 0
    ∧ device.get (USB_DEP_EN 0 15) ≠ 0
    ∧ (device.put (USB_DEP_HALT 0 15) 1).on (USB_DEP_HALT 0 15) = true
    ∧ device.on (USB_DEP_HALT 0 15) = false
    ∧ (device.put (USB_DEP_READY 0 15) 1).on (USB_DEP_READY 0 15) = true
    ∧ (List.replicate 64 (0 : Byte)).length ≤ ((device.put (USB_DEP_READY 0 15) 1).put (USB_DEP_SILENT 0 15) 0).get (USB_DEP_MPS 0 15)
    ∧ device.on (USB_DEP_READY 0 15) = false
    ∧ (device.put USB_DEV_CTL_SILENT_EN 1).on USB_DEV_CTL_SILENT_EN = true
    ∧ (device.put USB_DEV_CTL_SILENT_EN 0).on USB_DEV_CTL_SILENT_EN = false := by decide +kernel

/-- As before, further clauses. -/
theorem witness_usb_device_2 : (device.put (USB_DEP_SILENT 0 15) 1).get (USB_DEP_SILENT 0 15) < 2
    ∧ 2 ≤ (device.put (USB_DEP_SILENT 0 15) 2).get (USB_DEP_SILENT 0 15)
    ∧ device.on USB_DEV_STAT_SUSPENDED = false
    ∧ (device.put USB_DEV_STAT_SUSPENDED 1).on USB_DEV_STAT_SUSPENDED = true
    ∧ (device.put USB_DEV_CTL_RWAKE_EN 1).on USB_DEV_CTL_RWAKE_EN = true
    ∧ device.ends.usbWake = 0
    ∧ bits (511 + 65536) 0 9 + bits (511 + 65536) 16 5 ≤ 512
    ∧ 512 < bits (511 + 2 * 65536) 0 9 + bits (511 + 2 * 65536) 16 5
    ∧ 0 * 64 < device.get (USB_DEP_MPS 0 15)
    ∧ (device.get (USB_DEP_MPS 0 14) ≤ bits (511 + 65536) 16 5 * 64 ∨ device.get (USB_DEP_MPS 0 14) ≤ 16 * 64)
    ∧ (∀ i, i < 32 → device.on (USB_DEP_EN (i / 16) (i % 16)) = true → (i / 16, i % 16) ≠ (0, 14) → device.get (USB_CARVE_BASE (i / 16) (i % 16)) + device.get (USB_CARVE_UNITS (i / 16) (i % 16)) ≤ 496 ∨ 512 ≤ device.get (USB_CARVE_BASE (i / 16) (i % 16))) := by decide +kernel

def dspCell (op addr vlen : Nat) : Cell :=
  ⟨BitVec.ofNat 64 (addr % 65536 + 2 ^ 26 * op + 2 ^ 32 * (addr / 65536)) + BitVec.ofNat 64 (vlen * 2 ^ 47), List.replicate 104 1⟩
def shown : Chip := Chip.puts lit [(DSP_HCTL_EN 0, 1), (DSP_HCTL_MODE 0, 1), (DSP_HCTL_PSR_EN 0, 1)]

/-- DisplayHeads: the domain off; a head on and off; a commit that is pending; a surface that fits and one that does not; self-
refresh; cells of each OP, at the last byte of the store and past it; the AUX channel busy and not. -/
theorem witness_display : (lit.put PWR_STAT_DOM_ON 0).domainOn 10 = false
    ∧ shown.domainOn 10 = true
    ∧ shown.on (DSP_HCTL_EN 0) = true
    ∧ lit.on (DSP_HCTL_EN 0) = false
    ∧ (lit.put (DSP_HSTAT_HPD 0) 1).on (DSP_HSTAT_HPD 0) = true
    ∧ (lit.put (DSP_COMMIT_PEND 0) 1).on (DSP_COMMIT_PEND 0) = true
    ∧ lit.on (DSP_COMMIT_PEND 0) = false
    ∧ (Chip.puts shown [(DSP_SURF_BASE_BASE 0, 10239), (DSP_TIME_H_ACT 0, 4095), (DSP_TIME_V_ACT 0, 4095), (DSP_SURF_STRIDE_STRIDE 0, 4095)]).surfaceFits 0 = false
    ∧ (Chip.puts shown [(DSP_SURF_BASE_BASE 0, 0), (DSP_TIME_H_ACT 0, 1), (DSP_TIME_V_ACT 0, 1)]).surfaceFits 0 = true
    ∧ (shown.put (DSP_HSTAT_PSR_STATE 0) 2).selfRefresh 0 = true
    ∧ shown.selfRefresh 0 = false
    ∧ shown.get (DSP_HSTAT_PSR_STATE 0) = 0 := by decide +kernel

/-- As before, further clauses. -/
theorem witness_display_2 : shown.on (DSP_HCTL_MODE 0) = true
    ∧ shown.get (DSP_HCTL_PSR_IDLE 0) < ((shown.setHead 0 { shown.head 0 with idle := 1000 }).head 0).idle
    ∧ dspBad (dspCell 1 (frameSize - 104) 104) = false
    ∧ dspOp (dspCell 1 (frameSize - 104) 104) = 1
    ∧ dspBad (dspCell 1 (frameSize - 103) 104) = true
    ∧ dspBad (dspCell 2 0 0) = false
    ∧ dspOp (dspCell 3 0 0) = 3
    ∧ dspBad (dspCell 3 0 0) = false
    ∧ dspBad (dspCell 4 0 0) = true
    ∧ (lit.put (DSP_AUX_STAT_BUSY 0) 1).on (DSP_AUX_STAT_BUSY 0) = true
    ∧ lit.get (DSP_AUX_STAT_BUSY 0) = 0 := by decide +kernel

/-- A cell given to an endpoint port whose block reads well, and whose block is lost; a plugged head; a head with a commit in its entry to
self-refresh; the two kinds of AUX command. -/
def givenCell (p : Nat) (c : Cell) : Chip := ((lit.store 12 2 c false (.part p) 0).map (fun x => x.2.enqueue x.1 p (queueOf c) .given)).getD lit

theorem witness_given : (lit.takeGiven 7 (dspCell 1 0 4) .clean).1 = true ∧ ((givenCell 7 (dspCell 1 0 4)).takeGiven 7 (dspCell 1 0 4) .clean).1 = true
    ∧ ((givenCell 7 (dspCell 1 0 4)).takeGiven 7 (dspCell 1 0 4) (.uncorrectable 0)).1 = false
    ∧ ((givenCell 8 (dspCell 1 0 4)).takeGiven 8 (dspCell 1 0 4) (.uncorrectable 0)).1 = false
    ∧ ((givenCell 6 (sbufCell 0 0 104)).takeGiven 6 (sbufCell 0 0 104) (.uncorrectable 0)).1 = false
    ∧ (lit.put (DSP_HSTAT_HPD 0) 1).get (DSP_HSTAT_HPD 0) ≠ 0
    ∧ (lit.put (DSP_AUX_CTL_CMD 0) 1).get (DSP_AUX_CTL_CMD 0) % 2 = 1 ∧ (lit.put (DSP_AUX_CTL_CMD 0) 0).get (DSP_AUX_CTL_CMD 0) % 2 = 0 := by decide +kernel

/-! ### Field, intake, docks and power: spec/18_field_ports_and_shutter.md to spec/20_power_states.md -/

def eventSoon (t : Nat) : Chip := { lit with field := { lit.field with queue := [⟨0, true, t⟩] } }
def debouncing : Chip := { Chip.puts lit [(FLD_IN_CFG_EN 15, 1), (FLD_IN_CFG_EDGE 15, 1)] with field := { lit.field with cand := [(15, 9)] } }
def releaseOf (ack : Nat) (n : Nat) : Order := orderOf 0x60 0 (padTo (leBytes ack 4) n)
def shut (cause live : Nat) : Chip := Chip.puts lit [(FLD_SHUT_STAT_SHUT, 1), (FLD_SHUT_CAUSE_CAUSE, cause), (FLD_SHUT_LIVE_LIVE, live)]

/-- ShutterActsAndReleases: a rail that has tripped and one that has not; the shutter open and closed; a release with a bad body,
with the shutter open, with a live cause, with a cause not acknowledged, and complete; events ahead and due; an input that
debounces and one that is off. -/
theorem witness_shutter : bit (lit.get PWR_MON_TRIP) 5 = false
    ∧ bit ((lit.setBitOf PWR_MON_TRIP 5).get PWR_MON_TRIP) 5 = true
    ∧ ((Chip.puts lit [(FLD_SHUT_STAT_SHUT, 0)]).setBitOf FLD_SHUT_CAUSE_CAUSE 12).shuttered = false
    ∧ ((shut 1 0).setBitOf FLD_SHUT_CAUSE_CAUSE 12).shuttered = true
    ∧ begins lit 0x60 anyBody (releaseOf 8192 4) = true
    ∧ begins lit 0x60 anyBody (releaseOf 0 3) = true
    ∧ ((releaseOf 0 3).bytes.drop 16).length ≠ 4
    ∧ 8192 ≤ rd ((releaseOf 8192 4).bytes.drop 16) 0 4
    ∧ rd ((releaseOf 8191 4).bytes.drop 16) 0 4 < 8192
    ∧ (begun (lit.put FLD_SHUT_STAT_SHUT 0) (releaseOf 0 4)).shuttered = false
    ∧ (begun (shut 4097 0) (releaseOf 4097 4)).shuttered = true
    ∧ (begun (shut 4097 0) (releaseOf 4097 4)).get FLD_SHUT_LIVE_LIVE = 0 := by decide +kernel

/-- As before, further clauses. -/
theorem witness_shutter_2 : (begun (shut 4097 0) (releaseOf 4097 4)).get FLD_SHUT_CAUSE_CAUSE &&& 4097 = (begun (shut 4097 0) (releaseOf 4097 4)).get FLD_SHUT_CAUSE_CAUSE
    ∧ (begun (shut 4097 0) (releaseOf 1 4)).get FLD_SHUT_CAUSE_CAUSE &&& 1 ≠ (begun (shut 4097 0) (releaseOf 1 4)).get FLD_SHUT_CAUSE_CAUSE
    ∧ (begun (shut 4097 2) (releaseOf 4097 4)).get FLD_SHUT_LIVE_LIVE ≠ 0
    ∧ lit.field.queue = []
    ∧ (eventSoon 0).field.queue = [⟨0, true, 0⟩]
    ∧ mget 0 lit.field.cand 15 = 0
    ∧ mget 0 debouncing.field.cand 15 ≠ 0
    ∧ debouncing.get (FLD_IN_CFG_EN 15) ≠ 0
    ∧ debouncing.domainOn 14 = true
    ∧ edgeMatches (debouncing.get (FLD_IN_CFG_EDGE 15)) (bit debouncing.field.raw 15) = true
    ∧ debouncing.get (FLD_IN_CFG_ROUTE_EN 15) = 0
    ∧ edgeMatches 0 (bit debouncing.field.raw 15) = false := by decide +kernel

/-- As before, further clauses. -/
theorem witness_shutter_3 : lit.on (FLD_IN_CFG_EN 0) = false := by decide +kernel

def chan (c st : Nat) : Chip := Chip.puts lit [(HVI_CTL_OWNER, 1), (HVI_CH_STAT_STATE c, st), (HVI_BRK_I c 0, 100), (HVI_BRK_T c 0, 10), (FLD_SHUT_STAT_SHUT, 0)]

/-- IntakeChannels: a channel that is open, on, tripped and damaged; one that may close and one that may not; a breaker point
reached and none; retries left and none. -/
theorem witness_intake : (chan 0 0).chanOn 0 = false
    ∧ (chan 0 0).mayClose 0 = true
    ∧ (chan 0 3).mayClose 0 = false
    ∧ (chan 0 2).chanOn 0 = true
    ∧ ((chan 0 2).setChan 0 { (chan 0 2).chan 0 with timers := [10, 0, 0, 0, 0, 0, 0, 0] }).reachedPoint 0 = some 0
    ∧ ((chan 0 2).setChan 0 { (chan 0 2).chan 0 with timers := [9, 0, 0, 0, 0, 0, 0, 0] }).reachedPoint 0 = none
    ∧ (chan 0 3).get (HVI_CH_STAT_STATE 0) = 3
    ∧ (chan 0 3).get (HVI_CH_STAT_RETRIES 0) < (Chip.put (chan 0 3) (HVI_CH_CTL_RETRY_LIM 0) 1).get (HVI_CH_CTL_RETRY_LIM 0)
    ∧ (Chip.put (chan 0 3) (HVI_CH_CTL_RETRY_LIM 0) 0).get (HVI_CH_CTL_RETRY_LIM 0) ≤ (chan 0 3).get (HVI_CH_STAT_RETRIES 0)
    ∧ (Chip.put (chan 0 3) (HVI_CH_CTL_ON 0) 1).on (HVI_CH_CTL_ON 0) = true
    ∧ (chan 0 3).lockable 0 = false
    ∧ (chan 5 3).lockable 5 = true := by decide +kernel

/-- As before, further clauses. -/
theorem witness_intake_2 : (chan 5 3).shuttered = false
    ∧ (chan 5 3).onDockPower = false
    ∧ (Chip.put (chan 0 0) (HVI_CH_CTL_ON 0) 0).get (HVI_CH_CTL_ON 0) = 0
    ∧ (chan 0 0).get (HVI_CH_STAT_STATE 0) ≠ 4
    ∧ isDock 0 = false
    ∧ (Chip.put (chan 0 0) (HVI_CH_CTL_ON 0) 1).get (HVI_CH_CTL_ON 0) ≠ 0
    ∧ (chan 5 3).lodgeHolds 5 = false
    ∧ (Chip.put (chan 5 3) HVI_CTL_OWNER 0).lodgeHolds 5 = true
    ∧ (Chip.put (chan 0 0) HVI_CTL_OWNER 0).get HVI_CTL_OWNER = 0
    ∧ (chan 0 0).get HVI_CTL_OWNER ≠ 0 := by decide +kernel

def dock (st : Nat) (x : Dock) : Chip := (Chip.puts lit [(DCK_TC_STAT_STATE 1, st), (DCK_TC_CTL_PD_EN 1, 1), (DCK_TC_CTL_MOIST_EN 1, 1)]).setDck 1 x

/-- DockPorts: each state of the port; a GoodCRC, a message seen before, a new one and a Soft_Reset; a message sent once and three
times; a FIFO with a message and an empty one; moisture on and off. -/
theorem witness_docks : (dock dckSnk {}).dckState 1 = dckSnk
    ∧ (dock dckSrc {}).dckState 1 = dckSrc
    ∧ (dock dckAttachedSnk {}).dckState 1 ≠ dckSnk
    ∧ (dock dckAttachedSnk {}).dckState 1 ≠ dckSrc
    ∧ (dock dckAttachedSrc {}).attached 1 = true
    ∧ (dock dckSnk {}).attached 1 = false
    ∧ (dock dckDischarging {}).dckState 1 = dckDischarging
    ∧ (dock dckWet {}).dckState 1 = dckWet
    ∧ (dock dckWet {}).get (DCK_TC_CTL_MOIST_EN 1) ≠ 0
    ∧ (dock dckDisabled {}).dckState 1 = dckDisabled
    ∧ (dock dckAttachedSrc {}).get (DCK_TC_CTL_PD_EN 1) = 1
    ∧ (lit.get (DCK_TC_CTL_PD_EN 1) = 0 ∨ lit.attached 1 = false) := by decide +kernel

/-- As before, further clauses. -/
theorem witness_docks_2 : ((dock dckAttachedSrc {}).dck 1).sent = none
    ∧ ((dock dckAttachedSrc { sent := some (0, []), tries := 1 }).dck 1).tries < 2
    ∧ 2 ≤ ((dock dckAttachedSrc { sent := some (0, []), tries := 2 }).dck 1).tries
    ∧ pdIsControl (1 + 2 ^ 9 * 7) pdGoodCrc = true
    ∧ pdIsControl (13 + 2 ^ 9 * 7) pdSoftReset = true
    ∧ pdIsControl (3 + 2 ^ 9 * 7) pdGoodCrc = false
    ∧ ((dock dckAttachedSrc { lastRx := 8 }).dck 1).lastRx = pdId (3 + 2 ^ 9 * 7) + 1
    ∧ ((dock dckAttachedSrc {}).dck 1).lastRx ≠ pdId (3 + 2 ^ 9 * 7) + 1
    ∧ ((dock dckAttachedSrc { fifo := [(3, [])] }).dck 1).fifo = [(3, [])]
    ∧ ((dock dckAttachedSrc {}).dck 1).fifo = [] := by decide +kernel

/-- A port whose CC line is open and reads closed again, with nothing held; a Soft_Reset that waits for its answer; no message seen. -/
theorem witness_docks_3 : (dock dckSnk {}).readCc 1 true = dock dckSnk {}
    ∧ (dock dckWet { wetAttached := true }).detachable 1 = true ∧ (dock dckWet {}).detachable 1 = false
    ∧ ((dock dckDischarging { discharging := true }).dck 1).discharging = true ∧ ((dock dckWet {}).dck 1).discharging = false
    ∧ ((dock dckAttachedSrc { ccOpen := true }).dck 1).held = [] ∧ ((dock dckAttachedSrc { ccOpen := true }).dck 1).ccOpen = true
    ∧ (((dock dckAttachedSrc { ccOpen := true }).readCc 1 false).dck 1).ccOpen = false
    ∧ ((dock dckAttachedSrc { sent := some (13, []) }).dck 1).sent = some (13, []) ∧ pdIsControl 13 pdSoftReset = true
    ∧ ((dock dckAttachedSrc {}).readCc 1 false).attached 1 = true ∧ ((dock dckAttachedSrc {}).readCc 1 false).get (DCK_TC_CTL_PD_EN 1) = 1 := by decide +kernel

def powerOf (st gate : Nat) (pad : Byte) : Order := orderOf 0x10 0 ([BitVec.ofNat 8 st, pad] ++ leBytes gate 2 ++ [0, 0, 0, 0])
def running (target : Nat) : Chip := { lit with power := { ({} : Power) with seq := some ⟨⟨0, 1⟩, target, 0, 0, false, none⟩ } }

/-- PowerStates: an order with a reserved byte, with a GATE outside Trim, in a running sequence, for the present state, one that is
refused and one that starts; a drain; a wake source that is enabled and one that is not, in Dormant, outside it, and during a
sequence to it. -/
theorem witness_power : begins lit 0x10 (fun b => rd b 0 1 == 0) (powerOf 0 0 0) = true
    ∧ begins lit 0x10 (fun b => rd b 0 1 == 1) (powerOf 1 0x7FC0 0) = true
    ∧ begins lit 0x10 (fun b => rd b 0 1 == 3) (powerOf 3 0 0) = true
    ∧ zeroBytes ((powerOf 0 0 1).bytes.drop 16) [1, 4, 5, 6, 7] = false
    ∧ zeroBytes ((powerOf 1 0x7FC0 0).bytes.drop 16) [1, 4, 5, 6, 7] = true
    ∧ (0x20 : Nat) &&& 0x7FC0 ≠ 0x20
    ∧ (0x7FC0 : Nat) &&& 0x7FC0 = 0x7FC0
    ∧ (begun (running 1) (powerOf 0 0 0)).power.seq.isSome = true
    ∧ (begun lit (powerOf 0 0 0)).power.seq = none
    ∧ (begun lit (powerOf 0 0 0)).get PWR_STAT_STATE = 0
    ∧ (begun lit (powerOf 0 0 0)).power.gate = 0
    ∧ (begun lit (powerOf 1 0x40 0)).power.gate ≠ 0x40 := by decide +kernel

/-- As before, further clauses. -/
theorem witness_power_2 : (begun lit (powerOf 1 0x40 0)).powerRefused 1 0x40 = false
    ∧ (begun (lit.put CLK_STRAP_ROWHEAD 1) (powerOf 3 0 0)).powerRefused 3 0 = true
    ∧ (running 3).power.seq = some ⟨⟨0, 1⟩, 3, 0, 0, false, none⟩
    ∧ bit ((lit.put PWR_WAKE_EN 0).get PWR_WAKE_EN) 2 = false
    ∧ bit ((lit.put PWR_WAKE_EN 7).get PWR_WAKE_EN) 2 = true
    ∧ (lit.put PWR_STAT_STATE pwrDormant).get PWR_STAT_STATE = pwrDormant
    ∧ lit.get PWR_STAT_STATE ≠ pwrDormant := by decide +kernel

/-! ### Tinker, the log, the Vault, updates and repair: spec/21_vault.md to spec/24_tinker_and_records.md -/

def enterOf (slot : Nat) : Order := orderOf 0xA0 0 ([1, BitVec.ofNat 8 slot] ++ leBytes 10 2 ++ leBytes 7 4)
def leaveOf (pad : Byte) : Order := orderOf 0xA0 0 [2, pad, 0, 0, 0, 0, 0, 0]
def tinkerKey : Chip := { lit with vault := { ({} : Vault) with slots := [(127, ⟨1, 2 ^ useTinker, 2, false, 1, true, List.replicate 32 1⟩)] } }
def logOf (from_ count flags : Nat) : Order := orderOf 0x80 0 (leBytes from_ 2 ++ [BitVec.ofNat 8 count, BitVec.ofNat 8 flags, 0, 0, 0, 0])

/-- StanceLogAndCounters: ENTER with a slot out of range, refused, and accepted; LEAVE with a reserved byte and without; both
stances; READ_LOG with counts at its ends and outside; LOG_CONSUME of an entry and past the end. -/
theorem witness_stance_and_log : begins lit 0xA0 (fun b => rd b 0 1 == 1) (enterOf 128) = true
    ∧ (begun lit (enterOf 127)).enterRefused 127 = true
    ∧ (begun (tinkerKey.put GLB_STANCE_STANCE 0) (enterOf 127)).enterRefused 127 = false
    ∧ begins lit 0xA0 (fun b => rd b 0 1 == 2) (leaveOf 1) = true
    ∧ zeroBytes ((leaveOf 1).bytes.drop 16) [1, 2, 3, 4, 5, 6, 7] = false
    ∧ zeroBytes ((leaveOf 0).bytes.drop 16) [1, 2, 3, 4, 5, 6, 7] = true
    ∧ lit.get GLB_STANCE_STANCE = 0
    ∧ (lit.put GLB_STANCE_STANCE 1).get GLB_STANCE_STANCE ≠ 0
    ∧ begins lit 0x80 anyBody (logOf 4095 31 1) = true
    ∧ rd ((logOf 4095 31 1).bytes.drop 16) 0 2 = 4095
    ∧ rd ((logOf 4096 32 2).bytes.drop 16) 2 1 = 32
    ∧ rd ((logOf 0xFFFF 0 2).bytes.drop 16) 3 1 = 2 := by decide +kernel

/-- As before, further clauses. -/
theorem witness_stance_and_log_2 : rd ((logOf 0xFFFF 0 2).bytes.drop 16) 2 1 = 0
    ∧ (1 % 4096 + 4096 - (lit.put LOG_STAT_HEAD 1).get LOG_STAT_TAIL) % 4096 ≤ (lit.put LOG_STAT_HEAD 1).unread
    ∧ (lit.put LOG_STAT_HEAD 1).unread < (2 % 4096 + 4096 - (lit.put LOG_STAT_HEAD 1).get LOG_STAT_TAIL) % 4096 := by decide +kernel

/-- A KEY order under key slot 5, so that it is no plain order, or a plain one. -/
def keyOf (keySlot : Nat) (body : List Byte) : Order := { orderOf 0x70 4 body with keySlot := keySlot }

/-- The KEY order in slot 0 is performed. -/
def performs (c : Chip) (action len : Nat) (zeros : List Nat) (plain : Bool) (o : Order) : Bool :=
  begins c 0x70 (fun b => rd b 0 1 == action) o && decide ((o.bytes.drop 16).length = len) && zeroBytes (o.bytes.drop 16) zeros
    && (plain || !(begun c o).restricted o.path o.keySlot) && !(begun c o).on VLT_STAT_TAMPERED

theorem performs_keyStarts {c : Chip} {action len : Nat} {zeros : List Nat} {plain : Bool} {o : Order}
    (h : performs c action len zeros plain o = true) : (ordered c o).keyStarts ⟨0, 0⟩ action len zeros plain o := by
  unfold performs begun at h
  simp only [Bool.and_eq_true, decide_eq_true_eq, Bool.or_eq_true, Bool.not_eq_true'] at h
  exact ⟨begins_starts h.1.1.1.1, h.1.1.1.2, h.1.1.2, h.1.2, h.2⟩

def stockKey (uses count : Nat) : VSlot := ⟨1, uses, 0, true, count, false, List.replicate 32 1⟩
/-- A rootstock in slots 0 and 1, a stock that derives in slot 2, and slot 127 free. -/
def vaulted (count : Nat) : Chip :=
  { lit with vault := { ({} : Vault) with slots := [(0, stockKey 0 unlimited), (1, stockKey 0 unlimited), (2, stockKey (2 ^ useDerive) count)] } }
def deriveBody (stock dest exp : Nat) : List Byte := [1, BitVec.ofNat 8 stock, BitVec.ofNat 8 dest, 2, BitVec.ofNat 8 exp] ++ leBytes 9 4 ++ List.replicate 48 3
def sessionBody (stock sess : Nat) : List Byte := [2, BitVec.ofNat 8 stock, BitVec.ofNat 8 sess] ++ List.replicate 6 0 ++ List.replicate 8 4

/-- KeyOrderChecks: a body of another length, one with a reserved byte set, a plain frame, a tampered Vault, and a slot, DEST,
EXPIRE, session and step out of range. -/
theorem witness_key_checks : begins lit 0x70 (fun b => rd b 0 1 == 1) (keyOf 5 (deriveBody 2 127 0)) = true
    ∧ ((keyOf 5 (deriveBody 2 127 0)).bytes.drop 16).length = 57
    ∧ ((keyOf 5 [1, 0]).bytes.drop 16).length ≠ 57
    ∧ zeroBytes ((keyOf 5 ([2, 0, 0, 1] ++ List.replicate 13 0)).bytes.drop 16) [3, 4, 5, 6, 7, 8] = false
    ∧ (begun lit (keyOf 255 (deriveBody 2 127 0))).restricted .dock 255 = true
    ∧ (begun lit (keyOf 5 (deriveBody 2 127 0))).restricted .dock 5 = false
    ∧ (begun (lit.put VLT_STAT_TAMPERED 1) (keyOf 5 (deriveBody 2 127 0))).get VLT_STAT_TAMPERED = 1
    ∧ performs lit 1 57 [] false (keyOf 5 (deriveBody 128 127 0)) = true
    ∧ performs lit 1 57 [] false (keyOf 5 (deriveBody 2 254 0)) = true
    ∧ performs lit 1 57 [] false (keyOf 5 (deriveBody 2 127 2)) = true
    ∧ performs lit 2 17 [3, 4, 5, 6, 7, 8] true (keyOf 255 (sessionBody 2 4)) = true := by decide +kernel

/-- KeysMadeAndErased: a DERIVE into a slot that is taken, from a stock that does not derive, with no use left, and performed into
the last slot and the lowest free one; a SESSION in each case; an INVALIDATE of slots 1 and 2; a slot that waits for its scrub. -/
theorem witness_keys_made : performs (vaulted 5) 1 57 [] false (keyOf 5 (deriveBody 2 127 1)) = true
    ∧ (begun (vaulted 5) (keyOf 5 (deriveBody 2 2 0))).destination 2 = none
    ∧ (begun (vaulted 5) (keyOf 5 (deriveBody 2 127 0))).destination 127 = some 127
    ∧ (begun (vaulted 5) (keyOf 5 (deriveBody 2 255 0))).destination 255 = some 3
    ∧ (begun (vaulted 5) (keyOf 5 (deriveBody 0 127 0))).grants 0 useDerive = false
    ∧ (begun (vaulted 5) (keyOf 5 (deriveBody 2 127 0))).grants 2 useDerive = true
    ∧ ((begun (vaulted 0) (keyOf 5 (deriveBody 2 127 0))).vslot 2).count = 0
    ∧ ((begun (vaulted 5) (keyOf 5 (deriveBody 2 127 0))).vslot 2).count ≠ 0
    ∧ performs (vaulted 5) 2 17 [3, 4, 5, 6, 7, 8] true (keyOf 255 (sessionBody 2 3)) = true
    ∧ (begun (vaulted 5) (keyOf 255 (sessionBody 2 3))).vault.trngBad = false
    ∧ (begun { vaulted 5 with vault := { (vaulted 5).vault with trngBad := true } } (keyOf 255 (sessionBody 2 3))).vault.trngBad = true
    ∧ mget 0 (begun (vaulted 5) (keyOf 255 (sessionBody 2 3))).vault.scions 3 = 0 := by decide +kernel

/-- As before, further clauses. -/
theorem witness_keys_made_2 : (begun (vaulted 5) (keyOf 255 (sessionBody 2 3))).freeSlot = some 3
    ∧ performs (vaulted 5) 3 2 [] false (keyOf 5 [3, 1]) = true
    ∧ performs (vaulted 5) 3 2 [] false (keyOf 5 [3, 2]) = true
    ∧ (vaulted 5).keyValid 2 = true
    ∧ (vaulted 5).keyValid 3 = false
    ∧ (vaulted 5).vault.scrub = []
    ∧ ({ vaulted 5 with vault := { (vaulted 5).vault with scrub := [9] } }).vault.scrub = [9] := by decide +kernel

def provisionBody (dest : Nat) : List Byte := [4, BitVec.ofNat 8 dest, 2, 0, 0] ++ leBytes 9 4 ++ List.replicate 32 6
def blobHead : List Byte := leBytes 0x4C454153 4 ++ [1, 1, 2, 0] ++ leBytes 9 4 ++ List.replicate 12 5
def blobOf (c : Chip) : List Byte :=
  blobHead ++ List.replicate 32 7 ++ padTo (Config.gcmTag c.sealKey (List.replicate 12 5) blobHead (List.replicate 32 7)) 16

/-- KeyMaterial: a PROVISION through JTAG, with a row key held, and with no free slot; a SEAL of a stock, of a free slot and of a
key that expires; a bad blob; a LOAD_PUB. -/
theorem witness_key_material : performs (lit.put VLT_STAT_DEBUG_OPEN 1) 4 41 [3, 4] false { keyOf 5 (provisionBody 127) with path := .jtag } = true
    ∧ (begun (lit.put VLT_STAT_DEBUG_OPEN 1) { keyOf 5 (provisionBody 127) with path := .jtag }).provisionOpen .jtag = true
    ∧ (begun (vaulted 5) (keyOf 5 (provisionBody 127))).provisionOpen .dock = false
    ∧ (begun (vaulted 5) (keyOf 5 (provisionBody 2))).destination 2 = none
    ∧ (begun (vaulted 5) (keyOf 5 (provisionBody 127))).destination 127 = some 127
    ∧ (begun (vaulted 5) (keyOf 5 (provisionBody 127))).vault.ledgerKey = 0
    ∧ lit.boot.admitted = none
    ∧ ({ lit with boot := { lit.boot with admitted := some 5 } }).boot.admitted = some 5
    ∧ performs (vaulted 5) 5 2 [] false (keyOf 5 [5, 2]) = true
    ∧ (begun (vaulted 5) (keyOf 5 [5, 2])).keyValid 0 = true
    ∧ ((begun (vaulted 5) (keyOf 5 [5, 2])).vslot 2).kind = 1
    ∧ ((begun (vaulted 5) (keyOf 5 [5, 2])).vslot 2).expire = false := by decide +kernel

/-- As before, further clauses. -/
theorem witness_key_material_2 : (begun (vaulted 5) (keyOf 5 [5, 3])).keyValid 3 = false
    ∧ performs (vaulted 5) 6 77 [2, 3, 4] false (keyOf 5 ([6, 255, 0, 0, 0] ++ List.replicate 72 0)) = true
    ∧ (begun (vaulted 5) (keyOf 5 ([6, 255, 0, 0, 0] ++ List.replicate 72 0))).openBlob (List.replicate 72 0) = none
    ∧ performs (vaulted 5) 7 101 [2, 3, 4] false (keyOf 5 ([7, 255, 0, 0, 0] ++ List.replicate 96 0)) = true := by decide +kernel

/-- KeyMaterial: a blob whose tag is right opens. -/
theorem witness_blob : ((vaulted 5).openBlob (blobOf (vaulted 5))).isSome = true := by
  have h : slice (blobOf (vaulted 5)) 56 16 = padTo (Config.gcmTag (vaulted 5).sealKey (List.replicate 12 5) blobHead (List.replicate 32 7)) 16 := rfl
  unfold Chip.openBlob
  rw [if_neg]
  · rfl
  · intro e
    rcases e with e | e | e
    · exact absurd e (by decide)
    · exact e rfl
    · exact e h.symm

/-- AttestInfoAndDebug: ATTEST with and without a key, INFO, ENROL_PUF with each PUF_FAIL, HELPER_READ at the end of the data and
past it, DEBUG with a challenge and without; a tamper source that is enabled and one that is not. -/
theorem witness_attest_and_debug : performs (vaulted 5) 8 36 [1, 2, 3] true (keyOf 255 ([8, 0, 0, 0] ++ List.replicate 32 1)) = true
    ∧ (begun (vaulted 5) (keyOf 255 ([8, 0, 0, 0] ++ List.replicate 32 1))).keyValid 1 = true
    ∧ (begun lit (keyOf 255 ([8, 0, 0, 0] ++ List.replicate 32 1))).keyValid 1 = false
    ∧ performs (vaulted 5) 9 1 [] true (keyOf 255 [9]) = true
    ∧ performs (vaulted 5) 10 2 [] true (keyOf 255 [10, 127]) = true
    ∧ performs (vaulted 5) 11 1 [] false (keyOf 5 [11]) = true
    ∧ (begun (lit.put VLT_STAT_ROOTSTOCK 1) (keyOf 5 [11])).get VLT_STAT_ROOTSTOCK = 1
    ∧ (begun (Chip.puts lit [(VLT_STAT_ROOTSTOCK, 0), (VLT_STAT_PUF_FAIL, 2)]) (keyOf 5 [11])).get VLT_STAT_PUF_FAIL = 2
    ∧ (begun (Chip.puts lit [(VLT_STAT_ROOTSTOCK, 0), (VLT_STAT_PUF_FAIL, 2)]) (keyOf 5 [11])).get VLT_STAT_ROOTSTOCK ≠ 1
    ∧ performs (vaulted 5) 13 6 [1] false (keyOf 5 ([13, 0] ++ leBytes 3096 2 ++ leBytes 1000 2)) = true
    ∧ rd ([13, 0] ++ leBytes 3096 2 ++ leBytes 1000 2) 2 2 + rd ([13, 0] ++ leBytes 3096 2 ++ leBytes 1000 2) 4 2 ≤ 4096
    ∧ 4096 < rd ([13, 0] ++ leBytes 3097 2 ++ leBytes 1000 2) 2 2 + rd ([13, 0] ++ leBytes 3097 2 ++ leBytes 1000 2) 4 2 := by decide +kernel

/-- As before, further clauses. -/
theorem witness_attest_and_debug_2 : performs (vaulted 5) 12 20 [2, 3] true (keyOf 255 ([12, 1, 0, 0] ++ List.replicate 16 1)) = true
    ∧ lit.vault.challenge = none
    ∧ 2 ∈ ({ vaulted 5 with vault := { (vaulted 5).vault with challenge := some [1] } }).debugStocks
    ∧ bit ((lit.setBitOf VLT_TAMPER_ACTIVE 3).get VLT_TAMPER_EN) 3 = bit (lit.get VLT_TAMPER_EN) 3
    ∧ bit (((lit.put VLT_TAMPER_EN 0).setBitOf VLT_TAMPER_ACTIVE 3).get VLT_TAMPER_EN) 3 = false
    ∧ bit (((lit.put VLT_TAMPER_EN 15).setBitOf VLT_TAMPER_ACTIVE 3).get VLT_TAMPER_EN) 3 = true
    ∧ ((lit.put VLT_TAMPER_EN 15).setBitOf VLT_TAMPER_ACTIVE 3).domainOn 15 = true := by decide +kernel

/-- A segment of a file of 257 bytes for the configuration set, unit 0, at an offset, with a number of bytes. -/
def putBody (kind inst off n : Nat) : List Byte :=
  [BitVec.ofNat 8 kind, BitVec.ofNat 8 inst, 0, 0] ++ leBytes off 4 ++ leBytes 257 4 ++ leBytes 0 4 ++ List.replicate n 3
def putOf (ks kind inst off n : Nat) : Order := { orderOf 0x30 0 (putBody kind inst off n) with keySlot := ks }
def verifyOf (ks kind inst key : Nat) : Order := { orderOf 0x31 0 [BitVec.ofNat 8 kind, BitVec.ofNat 8 inst, BitVec.ofNat 8 key, 0] with keySlot := ks }
def armed (phase : Nat) (units : List (Nat × Nat)) (swapping : List Nat) : Chip :=
  { lit.put UPD_STAT_PHASE phase with upd := { ({} : Updates) with planting := some ⟨⟨0, 1⟩, 5, false, units, [], [], swapping, none⟩ } }

/-- TransferAndVerification: a segment at the end of its file, past it, of an unbound image on a plain frame, and of a unit that is
armed; a VERIFY with a bad body, with a key on a plain frame, with no file; a file whose header is not laid out. -/
theorem witness_transfer : begins lit 0x30 anyBody (putOf 5 7 255 256 1) = true
    ∧ putOk 0 (putBody 7 255 256 1) = true
    ∧ putOk 0 (putBody 7 255 256 2) = false
    ∧ putOk 1 (putBody 7 255 256 1) = false
    ∧ (begun lit (putOf 255 7 255 0 9)).isPlain (putOf 255 7 255 0 9) = true
    ∧ showsUnbound (putBody 7 255 0 9) = false
    ∧ showsUnbound (putBody 7 255 0 9 |>.set 24 0) = true
    ∧ (begun lit (putOf 5 7 255 256 1)).isPlain (putOf 5 7 255 256 1) = false
    ∧ (begun (armed 1 [(7, 255)] []) (putOf 5 7 255 256 1)).planted 7 255 = true
    ∧ (begun lit (putOf 5 7 255 256 1)).planted 7 255 = false
    ∧ lit.upd.reception = none
    ∧ (⟨7, 255, 257, [(256, 1)]⟩ : Reception).has (256 / 4096) = false := by decide +kernel

/-- As before, further clauses. -/
theorem witness_transfer_2 : begins lit 0x31 anyBody (verifyOf 5 7 255 127) = true
    ∧ unitOf 7 = some 0
    ∧ instOk 7 255 = true
    ∧ instOk 7 0 = false
    ∧ (begun lit (verifyOf 255 7 255 127)).isPlain (verifyOf 255 7 255 127) = true
    ∧ State.received { at_ lit with chip := begun lit (verifyOf 5 7 255 127) } 7 255 = none
    ∧ updHeaderOk 7 255 127 257 (List.replicate 160 0) = false
    ∧ updHeaderOk 7 255 255 257 (padTo (leBytes 0x47495055 4 ++ leBytes 1 2 ++ [7, 255, 2, 0, 0, 0] ++ leBytes 1 4 ++ List.replicate 24 0 ++ leBytes 1 4) 160) = true
    ∧ updBound (padTo (leBytes 0x47495055 4 ++ leBytes 1 2 ++ [7, 255, 2, 0, 0, 0] ++ leBytes 1 4 ++ List.replicate 24 0 ++ leBytes 1 4) 160) = true
    ∧ lit.signedOk (List.replicate 160 0) [] = false := by decide +kernel

def verifier : Chip := { lit with vault := { ({} : Vault) with slots := [(2, ⟨3, 64, 0, true, unlimited, false, [1]⟩)] } }
/-- TransferAndVerification: signature verification is uninterpreted (log entry 4), so a file whose signature passes is one under that
premise: then the clauses about a good signature are met. -/
theorem witness_signature (header sig : List Byte) (h : Config.ecdsaOk [1] (Config.sha384 header) sig = true) :
    verifier.signedOk header sig = true := by
  have e : verifier.verifyKey = some [1] := by decide +kernel
  unfold Chip.signedOk
  rw [e]
  exact h

def plantBodyOf (t flags n kind inst : Nat) : List Byte := leBytes t 8 ++ [BitVec.ofNat 8 n, BitVec.ofNat 8 flags, 0, 0] ++ (List.replicate n [BitVec.ofNat 8 kind, BitVec.ofNat 8 inst]).flatten
def plantOf (t flags n kind inst : Nat) : Order := { orderOf 0x32 0 (plantBodyOf t flags n kind inst) with keySlot := 5 }
def staging : Chip := { lit with upd := { ({} : Updates) with staged := [(6, 15)] } }

/-- Planting: a PLANT with a bad body, refused because nothing is staged, the instant is too near or too far or a planting is armed,
and accepted; a CANCEL with nothing armed and before the instant; each phase; a bench of the planting frozen and not; a unit
that reported and one that did not. -/
theorem witness_planting : begins staging 0x32 (fun b => !isCancel b) (plantOf 60000000000 0 1 6 15) = true
    ∧ plantOk 0 (plantBodyOf 60000000000 0 1 6 15) = true
    ∧ plantOk 0 (plantBodyOf 60000000000 0 0 6 15) = false
    ∧ plantOk 0 (plantBodyOf 60000000000 0 20 6 15) = true
    ∧ (begun staging (plantOf 60000000000 0 1 6 15)).isPlain (plantOf 60000000000 0 1 6 15) = false
    ∧ (begun staging (plantOf 60000000000 0 1 6 15)).plantRefused 60000000000 [(6, 15)] = false
    ∧ (begun staging (plantOf 60000000000 0 1 6 15)).plantRefused 60000000001 [(6, 15)] = true
    ∧ (begun staging (plantOf 60000000000 0 1 6 15)).plantRefused 0 [(6, 15)] = true
    ∧ (begun lit (plantOf 60000000000 0 1 6 15)).plantRefused 60000000000 [(6, 15)] = true
    ∧ begins lit 0x32 isCancel (plantOf 0 2 0 0 0) = true
    ∧ ((plantOf 0 2 0 0 0).bytes.drop 16).length = 12
    ∧ rd ((plantOf 0 2 0 0 0).bytes.drop 16) 9 1 ≤ 3 := by decide +kernel

/-- As before, further clauses. -/
theorem witness_planting_2 : (begun lit (plantOf 0 2 0 0 0)).upd.planting = none
    ∧ (begun (armed 2 [(6, 15)] []) (plantOf 0 2 0 0 0)).beforeInstant = true
    ∧ (begun (armed 3 [(6, 15)] []) (plantOf 0 2 0 0 0)).beforeInstant = false
    ∧ (armed 1 [(6, 15)] []).get UPD_STAT_PHASE = 1
    ∧ (armed 3 [(6, 15)] [15]).get UPD_STAT_PHASE = 3
    ∧ (armed 3 [(6, 15)] [15]).allFrozen 15 = true
    ∧ (Chip.setHand (armed 3 [(6, 15)] [15]) 60 worker).allFrozen 15 = false
    ∧ lit.upd.rewriting = none
    ∧ (armed 4 [(6, 15)] []).get UPD_STAT_PHASE = 4
    ∧ (armed 4 [(6, 15)] []).unitCause ⟨⟨0, 1⟩, 5, false, [(6, 15)], [], [], [], none⟩ (6, 15) = 3
    ∧ ((armed 4 [(6, 15)] []).put UPD_HEALTH_OK 0xFFFFFF).unitCause ⟨⟨0, 1⟩, 5, false, [(6, 15)], [], [], [], none⟩ (6, 15) = 0 := by decide +kernel

/-- Planting: Shugon has rewritten its unit, and the Porter record in flash is the one that runs: its signature is uninterpreted (log
entry 4), so that it is good is a premise. -/
def porterItem : FlashEntry :=
  let e : FlashEntry := ⟨3, 0, true, true, 255, 0, 0, 0, 1, List.replicate 64 7, [], [], [1, 2, 3, 4], []⟩
  { e.written [1, 2, 3, 4] with offset := 0x2000 }
def rewritten : Chip :=
  { armed 3 [(3, 255)] [] with upd := { (armed 3 [(3, 255)] []).upd with rewriting := some 3, dirA := some (DirCopy.made 1 [porterItem]) } }

theorem witness_rewrite : rewritten.upd.rewriting = some 3 ∧ rewritten.get UPD_STAT_PHASE ≠ 5 ∧ rewritten.stagedItem 3 255 = none
    ∧ rewritten.activeItem 3 255 = some porterItem := by decide +kernel

/-- Planting: no rewrite under way, and before the instant. -/
theorem witness_plant_instant : (armed 2 [(6, 15)] []).upd.rewriting = none ∧ (armed 2 [(6, 15)] []).beforeInstant = true
    ∧ (armed 2 [(6, 15)] []).upd.planting.map (·.instant) = some 5 ∧ (armed 2 [(6, 15)] []).ns < 5
    ∧ 5 ≤ ({ armed 2 [(6, 15)] [] with chain := { ({} : Chip).chain with count := 2 ^ 36 } } : Chip).ns := by decide +kernel

theorem witness_rewrite_record (h : rewritten.recordOk porterItem = true) : rewritten.porterRecord true = some porterItem := by
  unfold Chip.porterRecord Chip.goodItem
  rw [witness_rewrite.2.2.1, witness_rewrite.2.2.2]
  simp [h]

def repairOf (body : List Byte) : Order := { orderOf 0x90 0 body with keySlot := 5 }
def migrating : Chip := { lit with rep := { ({} : Repair) with migration := some ⟨⟨0, 1⟩, 0, 15, true⟩ } }

/-- RepairOrders: each action with a bad body, refused and accepted, at the last bank, row and spare; a copy that waits for a hand
and one that may start; a hand that resumes. -/
theorem witness_repairs : begins lit 0x90 (fun b => rd b 0 1 == 1) (repairOf [1, 0, 1, 0, 0, 0, 0, 0]) = true
    ∧ migrateBad [1, 16, 0, 0, 0, 0, 0, 0] = true
    ∧ migrateBad [1, 15, 1, 0, 0, 0, 0, 0] = false
    ∧ (begun lit (repairOf [1, 15, 1, 0, 0, 0, 0, 0])).migrateRefused [1, 15, 1, 0, 0, 0, 0, 0] = true
    ∧ (begun lit (repairOf [1, 0, 1, 0, 0, 0, 0, 0])).migrateRefused [1, 0, 1, 0, 0, 0, 0, 0] = false
    ∧ (begun lit (repairOf [1, 0, 1, 0, 0, 0, 0, 0])).get REP_STAT_BUSY = 0
    ∧ (begun (lit.put REP_STAT_BUSY 1) (repairOf [1, 0, 1, 0, 0, 0, 0, 0])).get REP_STAT_BUSY = 1
    ∧ (begun lit (repairOf [1, 0, 1, 0, 0, 0, 0, 0])).power.seq = none
    ∧ lit.rep.migration = none
    ∧ migrating.mayCopy 0 = true
    ∧ (migrating.setHand 0 worker).mayCopy 0 = false
    ∧ ({ worker with state := .frozen, frozenFrom := .run } : Hand).tvec ≠ 0 := by decide +kernel

/-- As before, further clauses. -/
theorem witness_repairs_2 : begins lit 0x90 (fun b => rd b 0 1 == 3) (repairOf ([3, 0, 0, 0] ++ leBytes 63 2 ++ leBytes 4095 2)) = true
    ∧ remapBad ([3, 0, 0, 0] ++ leBytes 63 2 ++ leBytes 4095 2) = false
    ∧ remapBad ([3, 0, 0, 0] ++ leBytes 64 2 ++ leBytes 4095 2) = true
    ∧ (begun lit (repairOf ([3, 0, 0, 0] ++ leBytes 63 2 ++ leBytes 4095 2))).rowFree 0 0 63 = true
    ∧ begins lit 0x90 (fun b => rd b 0 1 == 4) (repairOf [4, 0, 0, 0, 0, 0, 0, 0]) = true
    ∧ (begun ready (repairOf [4, 0, 0, 0, 0, 0, 0, 0])).standbyReady = true
    ∧ (begun lit (repairOf [4, 0, 0, 0, 0, 0, 0, 0])).standbyReady = false
    ∧ zeroBytes [4, 0, 0, 0, 0, 0, 0, 1] [1, 2, 3, 4, 5, 6, 7] = false := by decide +kernel

/-- Port ND up at four lanes each way, with lanes to spare, and its link Active. -/
def spareable (x : Option Sparing) : Chip :=
  let l : LanePort := { verdict := some 0x1FF, partnerVerdict := some 0x1FF, finds := (List.range 9).map (fun i => ⟨Fin.ofNat 9 i, Fin.ofNat 9 i, false, 0, 0, 64⟩) }
  let c := (Chip.puts lit ([(TRK_STAT_STATE 1, laneUp), (TRK_STAT_WIDTH 1, 1), (TRK_LOS_LOS_LANE 1, 0)]
    ++ (List.range 8).map (fun i => (TRK_LANE_MAP_RX_LOG 1 i, if i < 4 then i else 15)) ++ (List.range 8).map (fun i => (TRK_LANE_MAP_TX_LOG 1 i, if i < 4 then i else 15)))).setLane .nd l
  { c.setLink .nd { state := .active } with rep := { ({} : Repair) with sparing := (PerPort.all none).set .nd x } }
def spareFlit (ct l a q r : Nat) : List Byte := flitOf 1 ([BitVec.ofNat 8 ct, 1, 0, 0] ++ [l, a, q, r].map (BitVec.ofNat 8)) 0 0
def sparingOf (transmits copying : Bool) : Sparing := ⟨none, transmits, copying, 3, 3, 4⟩

/-- LaneSparing: a SPARE_LANE that is accepted and one on a port that is down; SPARE_ASK, SPARE, SPARE_ACK and SPARE_NAK flits at an
end that transmits, one that receives and one with no sparing; a dwell; AUTO_SPARE on and off. -/
theorem witness_sparing : begins (spareable none) 0x90 (fun b => rd b 0 1 == 2) (repairOf [2, 1, 0, 3, 0, 0, 0, 0]) = true
    ∧ spareBad [2, 1, 0, 3, 0, 0, 0, 0] = false
    ∧ spareBad [2, 1, 0, 8, 0, 0, 0, 0] = true
    ∧ (begun (spareable none) (repairOf [2, 1, 0, 3, 0, 0, 0, 0])).spareRefused .nd true 3 = false
    ∧ (begun lit (repairOf [2, 1, 0, 3, 0, 0, 0, 0])).spareRefused .nd true 3 = true
    ∧ (spareable none).sparePair .nd true 3 = some (3, 4)
    ∧ (spareable none).sparePair .nd false 3 = some (3, 4)
    ∧ ((spareable none).receive .nd (spareFlit 5 3 3 4 0)).1 = some (spareFlit 5 3 3 4 0)
    ∧ ((spareable none).receive .nd (spareFlit 5 3 3 4 0)).2.spareRefused .nd true (rd (spareFlit 5 3 3 4 0) 8 1) = false
    ∧ ctlOf (spareFlit 6 3 3 4 0) = 6
    ∧ rd (spareFlit 6 3 3 4 0) 8 1 = 3
    ∧ rd (spareFlit 6 3 3 4 0) 9 1 = 3 := by decide +kernel

/-- As before, further clauses. -/
theorem witness_sparing_2 : rd (spareFlit 6 3 3 4 0) 10 1 = 4
    ∧ rd (spareFlit 8 3 3 4 2) 11 1 = 2
    ∧ ((spareable (some (sparingOf false false))).receive .nd (spareFlit 6 3 3 4 0)).2.rep.sparing.get .nd = some (sparingOf false false)
    ∧ ((spareable (some (sparingOf true true))).receive .nd (spareFlit 7 3 3 4 0)).2.rep.sparing.get .nd = some (sparingOf true true)
    ∧ (lit.receive .nd (spareFlit 5 3 3 4 0)).1 = none
    ∧ ((spareable (some (sparingOf false true))).rep.sparing.get .nd) = some (sparingOf false true)
    ∧ ((spareable none).activeRx .nd).findIdx? (fun x => x == 3) = some 3
    ∧ ((spareable none).activeRx .nd).findIdx? (fun x => x == 8) = none
    ∧ ((spareable none).put REP_CTL_AUTO_SPARE 1).get REP_CTL_AUTO_SPARE ≠ 0
    ∧ ((spareable none).put REP_CTL_AUTO_SPARE 1).spareRefused .nd false 3 = false
    ∧ ((spareable none).put REP_CTL_AUTO_SPARE 0).get REP_CTL_AUTO_SPARE = 0 := by decide +kernel

/-- A record of 1600 bytes for position 1 of row 0. -/
def ledgerOf (gen : Nat) : List Byte := leBytes 0x4744454C 4 ++ leBytes 1 2 ++ leBytes 1 2 ++ leBytes gen 4 ++ List.replicate 1588 0

/-- TrellisOrdersAndLedgerRecords: the own record from the sponsor fits, one from elsewhere does not, and a node that is being
rewritten. -/
theorem witness_ledger : (Chip.put head BRD_STAT_POS 1).recordFits 2 (ledgerOf 1) = true
    ∧ (Chip.put head BRD_STAT_POS 1).recordFits 5 (ledgerOf 1) = false
    ∧ rewriting.absent = true
    ∧ (Chip.put head BRD_STAT_POS 1).ledgerSlot 1 = some 2
    ∧ (head.put BRD_STAT_POS 1).absent = false := by decide +kernel

/-- TrellisOrdersAndLedgerRecords: the sponsor's record at a node without Porter, and one that is no one's; RepairOrders: a migration between two benches over
an empty memory. -/
theorem witness_ledger_2 : lit.absent = false ∧ lit.boot.porter = false ∧ (Chip.put lit BRD_STAT_POS 1).fromSponsor 9 (ledgerOf 1) = false
    ∧ (Chip.puts lit [(BRD_STAT_POS, 1), (BRD_STAT_POS_VALID, 1)]).fromSponsor 2 (ledgerOf 1) = true ∧ rewriting.absent = true
    ∧ migrating.rep.migration.map (fun m => (m.src, m.dst)) = some (0, 15) ∧ Memory.wf [] = true := by decide +kernel

/-- OrdersStartInTurn: a slot with no order, one with an order of another code, and one past its DEADLINE. -/
theorem witness_orders_in_turn : (lit.orderAt ⟨0, 0⟩ 0x20 anyBody) = none
    ∧ ((ordered lit (orderOf 0x21 0 (closeBody 1 0))).orderAt ⟨0, 0⟩ 0x20 anyBody) = none
    ∧ (({ ordered lit { orderOf 0x20 0 (openBody 1) with bytes := (orderOf 0x20 0 (openBody 1)).bytes.set 8 1 } with chain := { ({} : Chain) with count := 2 ^ 33 } }).orderAt ⟨0, 0⟩ 0x20 anyBody).isSome = true
    ∧ rd ((orderOf 0x20 0 (openBody 1)).bytes.set 8 1) 8 8 = 1
    ∧ 1 ≤ ({ lit with chain := { ({} : Chain) with count := 2 ^ 33 } }).ns
    ∧ lit.handTag 64 ≠ none := by decide +kernel

/-! ### Reset and well-formedness -/

theorem test_reset_mem : Memory.wf State.reset.mem = true := by decide

/-- A cell of 104 bytes and one of 103; a flit of 16 blocks and one of 17. -/
theorem test_wellformed_cells : (Instr.dataCell ⟨0, List.replicate 104 0⟩ .clean).wellFormed = true
    ∧ (Instr.dataCell ⟨0, List.replicate 103 0⟩ .clean).wellFormed = false
    ∧ (Instr.cellFlit .nd (List.replicate 16 ⟨0, 0⟩)).wellFormed = true
    ∧ (Instr.cellFlit .nd (List.replicate 17 ⟨0, 0⟩)).wellFormed = false := by decide +kernel

/-- Lists of lanes, errors, channels and data objects that are too long or too short, and a CELL.CRC without bytes. -/
theorem test_wellformed_lists : (Instr.ts1 .nd (List.replicate 10 ⟨0, 0, false, 0, 0, 64⟩) ⟨0, 0⟩).wellFormed = false
    ∧ (Instr.verifyDwellEnd .nd (List.replicate 10 0) []).wellFormed = false
    ∧ (Instr.hviSample (List.replicate 5 ⟨0, 0⟩) 0 0).wellFormed = false
    ∧ (Instr.pdMessageRx 0 0 (List.replicate 8 0)).wellFormed = false
    ∧ (Instr.auxDone 0 0 (List.replicate 17 0)).wellFormed = false
    ∧ (Instr.cellCrc 0 0 0 0 true 0).wellFormed = false
    ∧ (Instr.cellCrc 0 0 0 0 true 104).wellFormed = true := by decide +kernel

/-- Bytes of a completion, a frame and a USB packet that are too many. -/
theorem test_wellformed_bytes : (Instr.farCompletion (.tag 0) 0 (List.replicate 65 0)).wellFormed = false
    ∧ (Instr.usbToken true 0 (List.replicate 1025 0) true).wellFormed = false
    ∧ (Instr.ethFrameRx 0 (List.replicate 9217 0)).wellFormed = false := by decide +kernel

/-! ### The worked example "classifying a cell by tunnel" of spec/10_fungatre_core_instructions.md: w2 holds 0x0200, where the low
word of the header of a cell of tunnel 12 lies -/

/-- The chip after a command. -/
def after (i : Instr) (s : State) : Option Chip := match exec i s with
  | .next t => some t.chip
  | _ => none

/-- Hand 0 runs at pc with the given registers. -/
def classify (pc : Nat) (l : List (Nat × Word)) : State := { at_ (busyAs 0 (fun x => { x with pc := pc, regs := l })) with
  mem := [(dataAddr 0 0x200, 0x58), (dataAddr 0 0x201, 0x02), (dataAddr 0 0x202, 0x0C), (dataAddr 0 0x203, 0x70)] }

theorem test_classify_ldw : ((after (.ldw 0 3 2 0) (classify 0x410 [(2, 0x200)])).map (fun c => ((c.hand 0).w 3, (c.hand 0).pc)))
    = some (0x700C0258, 0x414) := by decide +kernel

theorem test_classify_shifti : ((after (.shifti 0 4 3 0x30) (classify 0x414 [(3, 0x700C0258)])).map (fun c => (c.hand 0).w 4))
    = some 0x700C := by decide +kernel

theorem test_classify_andi : ((after (.andi 0 4 4 0x3FF) (classify 0x418 [(4, 0x700C)])).map (fun c => (c.hand 0).w 4)) = some 0xC := by
  decide +kernel

/-- CMPI of 12 and of 0 with 0. -/
theorem test_classify_cmpi : ((after (.cmpi 0 5 4 0) (classify 0x41C [(4, 0xC)])).map (fun c => (c.hand 0).w 5)) = some 0
    ∧ ((after (.cmpi 0 5 4 0) (classify 0x41C [(5, 7)])).map (fun c => (c.hand 0).w 5)) = some 0x19 := by decide +kernel

/-- BR BS 0 is not taken for tunnel 12 and taken, to 0x0438, for tunnel 0. -/
theorem test_classify_br : ((after (.br 0 0x10 5 6) (classify 0x420 [(5, 0)])).map (fun c => (c.hand 0).pc)) = some 0x424
    ∧ ((after (.br 0 0x10 5 6) (classify 0x420 [(5, 0x19)])).map (fun c => (c.hand 0).pc)) = some 0x438 := by decide +kernel

/-! ### Codes: the published check values of CRC-32C and CRC-32 over the ASCII digits 1 to 9 -/

theorem test_crc_check_values : crc32c [0x31, 0x32, 0x33, 0x34, 0x35, 0x36, 0x37, 0x38, 0x39] = 0xE3069283
    ∧ crc32e [0x31, 0x32, 0x33, 0x34, 0x35, 0x36, 0x37, 0x38, 0x39] = 0xCBF43926 := by decide +kernel

end Sys2Proof.Tests
end

/-! SUPPORT. The scope of the model (spec/00_scope.md): every step answers a next state and keeps the queue's rest and the canonical
form, what reset leaves, and what a CSR write does by the access codes of Table 0.3. -/

namespace Sys2Proof.Proofs
open Sys2Proof Sys2Proof.Machine Sys2Proof.Machine.Reg Sys2Proof.Laws

/-! ### Every command answers a next state -/

/-- A result is a next state: neither a fault nor a refusal. -/
def Answers (r : Result) : Prop := ∃ t, r = .next t

theorem answers_next (t : State) : Answers (.next t) := ⟨t, rfl⟩

theorem answers_ite {a b : Result} (c : Prop) [Decidable c] (ha : Answers a) (hb : Answers b) : Answers (if c then a else b) := by
  split
  · exact ha
  · exact hb

/-- An instruction of a hand does nothing, takes what waits at its boundary, traps on its fetch, or has its effect; each is a next
state. -/
theorem answers_issue (s : State) (h : HandId) (f : State → State) : Answers (s.issue h f) :=
  answers_ite _ (answers_next _) (answers_ite _ (answers_next _) (answers_ite _ (answers_next _) (answers_next _)))

theorem answers_issueChip (s : State) (h : HandId) (f : Chip → Chip) : Answers (s.issueChip h f) := answers_issue _ _ _

/-- No command has a fault or a refusal for its meaning: an instruction of a hand is issued, a cell of the USB and display rings and
an illegal word are told apart by their operands first, and every other command is a next state outright. -/
theorem completes_exec (i : Instr) (s : State) : Completes i s := by
  show Answers (exec i s)
  unfold exec
  cases i
  case add | sub | and | or | xor | andn | sll | srl | sra | ror | cmp | min | max | minu | maxu | mul | mulh | mulhu | div |
      divu | rem | remu | clz | popc | bswap | sextb | sexth | addi | andi | ori | xori | lui | shifti | cmpi | br | jal | jalr |
      csrr | cycleLo | csrw | cregClaim | cregFree | doorbell | wdog | trap | eret | yield | halt | take | peek | give |
      cellExtr | cellEdit | cellCrc | moveDir0 | wait | tnow | tat | talm | talmCancel | seqNext | seqLast | seqState | fenceL |
      fenceX | fenceK | lock | unlock =>
    exact answers_issueChip _ _ _
  case ldw | ldh | ldb | stw | sth | stb | moveDir1 | ldx | ldxMemoryForm | stx => exact answers_issue _ _ _
  case setup | out | inReq | cancel | dspWrite | dspCommit | dspSync => exact answers_ite _ (answers_next _) (answers_next _)
  case illegalInstruction => exact answers_ite _ (answers_next _) (answers_issueChip _ _ _)
  all_goals exact answers_next _

/-! ### A step -/

theorem step_cons {c : Instr} {rest : List Instr} {s : State} (h : s.pending = c :: rest) :
    step s = exec c { s with pending := rest } := by
  unfold step
  rw [h]

theorem step_nil {s : State} (h : s.pending = []) : step s = .next { s with chip := s.chip.cycle } := by
  obtain ⟨q, m, c⟩ := s
  subst h
  rfl

/-- Settles O57, by the two branches of `step`. -/
theorem stepTakesTheFront : Obligations.StepTakesTheFront := by
  unfold Obligations.StepTakesTheFront
  exact fun _ _ s => ⟨step_cons, fun h => ⟨s.chip.cycle, step_nil h⟩⟩

/-- Settles O59, by the queue's front: with none a cycle passes, and a command answers a next state (`completes_exec`) that keeps
the queue it was run on and the canonical form (`keeps_exec`). -/
theorem everyStepGoesOn : Obligations.EveryStepGoesOn := by
  unfold Obligations.EveryStepGoesOn
  intro s
  cases hq : s.pending with
  | nil => exact ⟨_, step_nil hq, hq, id⟩
  | cons c rest =>
    obtain ⟨t, ht⟩ := completes_exec c { s with pending := rest }
    have hk : Keeps { s with pending := rest } t := keeps_exec c _ t ht
    exact ⟨t, (step_cons hq).trans ht, hk.pending, hk.wf⟩

/-! ### Reset -/

theorem byte_nil (a : Nat) : Memory.byte [] a = 0 := rfl

/-- Settles O58: every part reads its default, and the lanes and links theirs port by port. -/
theorem resetLeaves : Obligations.ResetLeaves := by
  unfold Obligations.ResetLeaves
  refine ⟨rfl, rfl, rfl, fun _ => rfl, fun _ => rfl, fun _ => rfl, fun p => ⟨?_, ?_⟩, rfl, rfl, rfl, rfl, rfl, byte_nil⟩
  · cases p <;> rfl
  · cases p <;> rfl

/-! ### A write to one field, by its access code (Table 0.3, R5, R7, R8) -/

section WriteField
variable {c : Chip} {f : FieldRow} {v : Nat}

theorem writeField_ro (h : f.acc = .ro ∨ f.acc = .wo) : c.writeField v f = c := by
  rcases h with h | h <;> simp [Chip.writeField, h]

theorem writeField_rw (h : f.acc = .rw) :
    c.writeField v f = if f.permits (bits v f.fld.lo f.fld.width) then c.put f.fld (bits v f.fld.lo f.fld.width) else c := by
  simp [Chip.writeField, h]

theorem writeField_w1s (h : f.acc = .w1s) :
    c.writeField v f = c.put f.fld (c.get f.fld ||| bits v f.fld.lo f.fld.width) := by
  simp [Chip.writeField, h]

theorem writeField_w1c (h : f.acc = .w1c) :
    c.writeField v f = c.put f.fld (c.get f.fld - ((c.get f.fld &&& bits v f.fld.lo f.fld.width)
      - (c.get f.fld &&& bits v f.fld.lo f.fld.width &&& c.raisedNow f.fld))) := by
  simp [Chip.writeField, h]

theorem writeField_rwl (h : f.acc = .rwl) :
    c.writeField v f = if c.locked f.fld then c else if f.permits (bits v f.fld.lo f.fld.width)
      then (c.put f.fld (bits v f.fld.lo f.fld.width)).lockField f.fld else c := by
  simp [Chip.writeField, h]

end WriteField

/-- All that a write to a field can do: nothing, set the field, or set and lock it. -/
theorem writeField_cases (c : Chip) (v : Nat) (f : FieldRow) :
    c.writeField v f = c ∨ (∃ x, c.writeField v f = c.put f.fld x) ∨ ∃ x, c.writeField v f = (c.put f.fld x).lockField f.fld := by
  cases h : f.acc
  case ro => exact .inl (writeField_ro (.inl h))
  case wo => exact .inl (writeField_ro (.inr h))
  case rw =>
    rw [writeField_rw h]
    split
    · exact .inr (.inl ⟨_, rfl⟩)
    · exact .inl rfl
  case w1c => exact .inr (.inl ⟨_, writeField_w1c h⟩)
  case w1s => exact .inr (.inl ⟨_, writeField_w1s h⟩)
  case rwl =>
    rw [writeField_rwl h]
    split
    · exact .inl rfl
    · split
      · exact .inr (.inr ⟨_, rfl⟩)
      · exact .inl rfl

@[simp] theorem writeField_log (c : Chip) (v : Nat) (f : FieldRow) : (c.writeField v f).log = c.log := by
  obtain h | ⟨_, h⟩ | ⟨_, h⟩ := writeField_cases c v f <;> rw [h] <;> rfl

@[simp] theorem writeField_tick (c : Chip) (v : Nat) (f : FieldRow) : (c.writeField v f).tick = c.tick := by
  obtain h | ⟨_, h⟩ | ⟨_, h⟩ := writeField_cases c v f <;> rw [h] <;> rfl

@[simp] theorem writeField_cores (c : Chip) (v : Nat) (f : FieldRow) : (c.writeField v f).cores = c.cores := by
  obtain h | ⟨_, h⟩ | ⟨_, h⟩ := writeField_cases c v f <;> rw [h] <;> rfl

@[simp] theorem writeField_raisedNow (c : Chip) (v : Nat) (f : FieldRow) (g : Fld) :
    (c.writeField v f).raisedNow g = c.raisedNow g := by
  simp [Chip.raisedNow]

/-- A write to a field changes no other field. -/
theorem get_writeField_other (c : Chip) (v : Nat) (f : FieldRow) (g : Fld) (hg : g.key ≠ f.fld.key) :
    (c.writeField v f).get g = c.get g := by
  obtain h | ⟨_, h⟩ | ⟨_, h⟩ := writeField_cases c v f <;> rw [h]
  · exact get_put_other _ _ _ _ hg
  · exact get_put_other _ _ _ _ hg

/-- A write to a field locks no other field. -/
theorem locked_writeField_other (c : Chip) (v : Nat) (f : FieldRow) (g : Fld) (hg : g.key ≠ f.fld.key) :
    (c.writeField v f).locked g = c.locked g := by
  obtain h | ⟨_, h⟩ | ⟨_, h⟩ := writeField_cases c v f <;> rw [h]
  · rfl
  · exact mget_mset_other false c.locks _ _ true hg

/-- What a field reads after a write to it rests on its value, what hardware has set of it in the cycle, and its lock alone. -/
theorem get_writeField_congr {c d : Chip} (v : Nat) (f : FieldRow) (hg : c.get f.fld = d.get f.fld)
    (hr : c.raisedNow f.fld = d.raisedNow f.fld) (hl : c.locked f.fld = d.locked f.fld) :
    (c.writeField v f).get f.fld = (d.writeField v f).get f.fld := by
  cases h : f.acc
  case ro => rw [writeField_ro (.inl h), writeField_ro (.inl h), hg]
  case wo => rw [writeField_ro (.inr h), writeField_ro (.inr h), hg]
  case rw =>
    rw [writeField_rw h, writeField_rw h]
    split
    · rw [get_put_same, get_put_same]
    · exact hg
  case w1c => rw [writeField_w1c h, writeField_w1c h, get_put_same, get_put_same, hg, hr]
  case w1s => rw [writeField_w1s h, writeField_w1s h, get_put_same, get_put_same, hg]
  case rwl =>
    rw [writeField_rwl h, writeField_rwl h, hl]
    split
    · exact hg
    · split
      · exact (get_put_same _ _ _).trans (get_put_same _ _ _).symm
      · exact hg

/-! ### A write to the fields of a register -/

theorem writeFields_cons (c : Chip) (f : FieldRow) (fs : List FieldRow) (v : Nat) :
    c.writeFields (f :: fs) v = (c.writeField v f).writeFields fs v := rfl

theorem cores_writeFields (c : Chip) (fs : List FieldRow) (v : Nat) : (c.writeFields fs v).cores = c.cores :=
  foldl_keeps (fun c : Chip => c.cores) _ _ _ (fun _ _ => writeField_cores _ _ _)

theorem hand_writeFields (c : Chip) (fs : List FieldRow) (v : Nat) (h : HandId) : (c.writeFields fs v).hand h = c.hand h := by
  simp only [Chip.hand, cores_writeFields]

theorem writeFields_ro {fs : List FieldRow} (h : ∀ f ∈ fs, f.acc = .ro) (c : Chip) (v : Nat) : c.writeFields fs v = c :=
  foldl_keeps_mem (id : Chip → Chip) _ _ _ (fun _ f hf => writeField_ro (.inl (h f hf)))

theorem get_writeFields_other (c : Chip) (fs : List FieldRow) (v : Nat) (g : Fld) (h : ∀ f ∈ fs, g.key ≠ f.fld.key) :
    (c.writeFields fs v).get g = c.get g :=
  foldl_keeps_mem (fun c : Chip => c.get g) _ _ _ (fun c f hf => get_writeField_other c v f g (h f hf))

/-- Each field of a register is written as if it were the register's only one. -/
theorem get_writeFields_mem {fs : List FieldRow} (hd : fs.Pairwise (fun f g => f.fld.key ≠ g.fld.key)) (c : Chip) (v : Nat)
    {f : FieldRow} (hf : f ∈ fs) : (c.writeFields fs v).get f.fld = (c.writeField v f).get f.fld := by
  induction fs generalizing c with
  | nil => exact absurd hf List.not_mem_nil
  | cons g r ih =>
    obtain ⟨hg, hr⟩ := List.pairwise_cons.mp hd
    rw [writeFields_cons]
    obtain rfl | hmem := List.mem_cons.mp hf
    · exact get_writeFields_other _ _ _ _ hg
    · have hk : f.fld.key ≠ g.fld.key := (hg f hmem).symm
      rw [ih hr _ hmem]
      exact get_writeField_congr v f (get_writeField_other c v g _ hk) (writeField_raisedNow c v g _)
        (locked_writeField_other c v g _ hk)

/-! ### The kinds of field of the clock unit's registers (Table 14.11) -/

theorem bits_one (v lo : Nat) : bits v lo 1 = if bit v lo then 1 else 0 := by
  have : v / 2 ^ lo % 2 < 2 := Nat.mod_lt _ (by decide)
  simp only [bits, bit, Nat.pow_one, decide_eq_true_eq]
  split <;> omega

theorem bits_lt (v lo w : Nat) : bits v lo w < 2 ^ w := Nat.mod_lt _ (Nat.two_pow_pos w)

/-- A W1C field of one bit that hardware has not set in the cycle is cleared by a bit written 1 and kept by a bit written 0. -/
theorem get_writeField_w1c_bit {c : Chip} {f : FieldRow} (v : Nat) (ha : f.acc = .w1c) (hw : f.fld.width = 1)
    (hg : c.get f.fld < 2) (hr : c.raisedNow f.fld = 0) :
    (c.writeField v f).get f.fld = if bit v f.fld.lo then 0 else c.get f.fld := by
  rw [writeField_w1c ha, get_put_same, hr, hw, bits_one]
  generalize c.get f.fld = x at hg
  obtain rfl | rfl : x = 0 ∨ x = 1 := by omega
  · cases bit v f.fld.lo <;> rfl
  · cases bit v f.fld.lo <;> rfl

/-- An RW field whose only reserved encoding is 0 keeps its value where 0 is written to it. -/
theorem get_writeField_rw_nonzero {c : Chip} {f : FieldRow} (v : Nat) (ha : f.acc = .rw)
    (hl : f.legal = [(1, 2 ^ f.fld.width - 1)]) :
    (c.writeField v f).get f.fld
      = if bits v f.fld.lo f.fld.width = 0 then c.get f.fld else bits v f.fld.lo f.fld.width := by
  have hlt := bits_lt v f.fld.lo f.fld.width
  rw [writeField_rw ha]
  generalize bits v f.fld.lo f.fld.width = x at hlt
  have hp : f.permits x = decide (x ≠ 0) := by
    simp only [FieldRow.permits, hl, List.isEmpty_cons, List.any_cons, List.any_nil, Bool.false_or, Bool.or_false]
    exact decide_eq_decide.mpr (by omega)
  by_cases hx : x = 0
  · rw [hp, if_neg (by simp [hx]), if_pos hx]
  · rw [hp, if_pos (by simp [hx]), if_neg hx, get_put_same, Nat.mod_eq_of_lt hlt]

/-! ### A write to a register -/

/-- The registers whose write acts on more than the chip's registers, or starts or ends a unit (`State.csrPut`). -/
def stateWriteBases : List Nat := [0xa0000, 0xa0024, 0xa002c, 0xe8000, 0xd0000]

/-- The registers whose write has an effect of its own (`Chip.writeRow`, and CLK_CTL of `State.csrPut`). -/
def chipWriteBases : List Nat := [0x28, 0x10000, 0x30000, 0x40000, 0x50000, 0x50008, 0x60000, 0x60030, 0x60034, 0x70030, 0x70100,
  0x82000, 0x82004, 0x88000, 0x88010, 0x88020, 0x88024, 0x88400, 0x88404, 0x88100, 0x88200, 0xa0030, 0xa0100, 0xa0800, 0xb0400,
  0xb0404, 0xb0408, 0xb040c, 0xc0000, 0xd0010, 0xd0014, 0xd0018, 0xe0000, 0xe0024, 0xe0100, 0xe0104, 0xe0200, 0xe0300, 0xe0380,
  0xf0100, 0xf0108, 0xf010c, 0xf0110, 0xf0114, 0xf0118, 0xf0120, 0xf0124, 0xf0128, 0xf0130, 0xf0134, 0xf0140, 0x100000, 0x100200,
  0x110000, 0x110100, 0x110120, 0x120000, 0x120010, 0x160014, 0x170050, 0x180010]

theorem writeRow_plain {r : RegRow} (h : r.base ∉ chipWriteBases) (c : Chip) (addr : Nat) (ix : List Nat) (v : Nat) :
    c.writeRow addr r ix v = c.writeFields (r.fields ix) v := by
  unfold Chip.writeRow
  extract_lets
  split
  case h_62 => rfl
  all_goals
    rename_i hbase
    rw [hbase] at h
    exact absurd (by decide) h

theorem csrPut_none {addr : Nat} (h : rowAt (unalias addr) = none) (s : State) (v : Nat) : s.csrPut addr v = s := by
  unfold State.csrPut
  simp only [h]

/-- A register whose write has no effect of its own has its fields written, and nothing else happens. -/
theorem csrPut_plain {s : State} {addr : Nat} {r : RegRow} {ix : List Nat} (h : rowAt (unalias addr) = some (r, ix))
    (ht : s.chip.tnkShut (unalias addr) = false) (hs : r.base ∉ stateWriteBases) (hc : r.base ∉ chipWriteBases) (v : Nat) :
    s.csrPut addr v = { s with chip := s.chip.writeFields (r.fields ix) v } := by
  have hclk : r.base ≠ 0x10000 := fun e => hc (by rw [e]; decide)
  simp only [stateWriteBases, List.mem_cons, List.not_mem_nil, or_false, not_or] at hs
  simp only [State.csrPut, h, ht, hs, hclk, writeRow_plain hc, Bool.false_eq_true, if_false]

section Write
variable {addr : BitVec 24} {size : AccSize} {s : State} (v : Word)

theorem execCsrWrite_refused (h : wholeWord addr.toNat size = false ∨ s.chip.csrReach addr.toNat = false) :
    exec (.csrWrite addr size v) s = .next s := by
  show Host.Outcome.next (s.csrWrite addr.toNat size v.toNat).2 = _
  rw [State.csrWrite, if_pos h]

theorem execCsrWrite_put (hw : wholeWord addr.toNat size = true) (hr : s.chip.csrReach addr.toNat = true) :
    exec (.csrWrite addr size v) s = .next (s.csrPut addr.toNat v.toNat) := by
  show Host.Outcome.next (s.csrWrite addr.toNat size v.toNat).2 = _
  rw [State.csrWrite, if_neg (by simp [hw, hr])]

theorem execCsrWrite_plain {r : RegRow} {ix : List Nat} (hw : wholeWord addr.toNat size = true)
    (hr : s.chip.csrReach addr.toNat = true) (h : rowAt (unalias addr.toNat) = some (r, ix))
    (ht : s.chip.tnkShut (unalias addr.toNat) = false) (hs : r.base ∉ stateWriteBases) (hc : r.base ∉ chipWriteBases) :
    exec (.csrWrite addr size v) s = .next { s with chip := s.chip.writeFields (r.fields ix) v.toNat } := by
  rw [execCsrWrite_put v hw hr, csrPut_plain h ht hs hc]

end Write

/-! ### CLK_STAT, CLK_EVT and CLK_BOOT_TMR (spec/14_clocks_reset_boot.md Table 14.11) -/

def clkStatFields : List FieldRow := [⟨CLK_STAT_ROOT_ACT, .ro, []⟩, ⟨CLK_STAT_LOCK_A, .ro, []⟩, ⟨CLK_STAT_LOCK_B, .ro, []⟩,
  ⟨CLK_STAT_REF_OK, .ro, []⟩, ⟨CLK_STAT_ALIGNED, .ro, []⟩]

def clkEvts : List Fld := [CLK_EVT_REF_FAIL, CLK_EVT_LOCK_A_LOST, CLK_EVT_LOCK_B_LOST, CLK_EVT_FREQ_A, CLK_EVT_FREQ_B,
  CLK_EVT_SWAP, CLK_EVT_BOOT_FAIL]

def clkEvtFields : List FieldRow := clkEvts.map (fun f => ⟨f, .w1c, []⟩)

def clkBootTmrFields : List FieldRow := [⟨CLK_BOOT_TMR_GATE_TMO, .rw, [(1, 255)]⟩, ⟨CLK_BOOT_TMR_SEED_TMO, .rw, [(1, 255)]⟩]

theorem rowAt_clkStat : rowAt (unalias 0x10004) = some (⟨0x10004, [], fun _ => clkStatFields⟩, []) := rfl
theorem rowAt_clkEvt : rowAt (unalias 0x10008) = some (⟨0x10008, [], fun _ => clkEvtFields⟩, []) := rfl
theorem rowAt_clkBootTmr : rowAt (unalias 0x10018) = some (⟨0x10018, [], fun _ => clkBootTmrFields⟩, []) := rfl

section Clock
variable {s : State} (hd : s.chip.domainOn 0 = true) (v : Word)
include hd

theorem exec_write_clkStat : exec (.csrWrite 0x10004 .word v) s = .next s := by
  have hrun := execCsrWrite_plain (addr := 0x10004) (size := .word) v rfl hd rowAt_clkStat rfl (by decide) (by decide)
  rwa [writeFields_ro (by decide)] at hrun

theorem exec_write_clkEvt :
    exec (.csrWrite 0x10008 .word v) s = .next { s with chip := s.chip.writeFields clkEvtFields v.toNat } :=
  execCsrWrite_plain (addr := 0x10008) (size := .word) v rfl hd rowAt_clkEvt rfl (by decide) (by decide)

theorem exec_write_clkBootTmr :
    exec (.csrWrite 0x10018 .word v) s = .next { s with chip := s.chip.writeFields clkBootTmrFields v.toNat } :=
  execCsrWrite_plain (addr := 0x10018) (size := .word) v rfl hd rowAt_clkBootTmr rfl (by decide) (by decide)

end Clock

theorem get_write_clkEvt (c : Chip) (v : Nat) {f : Fld} (hf : f ∈ clkEvts) (hg : c.get f < 2) (hr : c.raisedNow f = 0) :
    (c.writeFields clkEvtFields v).get f = if bit v f.lo then 0 else c.get f := by
  have hw : ∀ g ∈ clkEvts, g.width = 1 := by decide
  have hmem : (⟨f, .w1c, []⟩ : FieldRow) ∈ clkEvtFields := List.mem_map.mpr ⟨f, hf, rfl⟩
  exact (get_writeFields_mem (by decide) c v hmem).trans (get_writeField_w1c_bit v rfl (hw f hf) hg hr)

theorem get_write_clkBootTmr (c : Chip) (v : Nat) {f : FieldRow} (hf : f ∈ clkBootTmrFields) :
    (c.writeFields clkBootTmrFields v).get f.fld
      = if bits v f.fld.lo f.fld.width = 0 then c.get f.fld else bits v f.fld.lo f.fld.width := by
  have hk : ∀ g ∈ clkBootTmrFields, g.acc = .rw ∧ g.legal = [(1, 2 ^ g.fld.width - 1)] := by decide
  obtain ⟨ha, hl⟩ := hk f hf
  exact (get_writeFields_mem (by decide) c v hf).trans (get_writeField_rw_nonzero v ha hl)

/-- Settles O30, by the address: what does not reach a register, what reaches none, what reaches one without an effect of its own;
then by the field's access code; and the three registers of the clock unit as cases of the same lemmas. -/
theorem csrWritesByAccessCode : Obligations.CsrWritesByAccessCode := by
  unfold Obligations.CsrWritesByAccessCode
  intro v s
  refine ⟨fun _ _ => execCsrWrite_refused v, fun addr size hw hr => ⟨execCsrWrite_put v hw hr, fun hnone => ?_,
    fun r ix hrow hshut hs hc => execCsrWrite_plain v hw hr hrow hshut hs hc⟩, ?_,
    fun hd => ⟨exec_write_clkStat hd v, ?_, ?_⟩⟩
  · rw [execCsrWrite_put v hw hr, csrPut_none hnone]
  · rintro c f _ rfl
    exact ⟨writeField_ro, fun ha hp => by rw [writeField_rw ha, if_pos hp], fun ha hp => by simp [writeField_rw ha, hp],
      writeField_w1s, writeField_w1c, fun ha hl => by rw [writeField_rwl ha, if_pos hl],
      fun ha hl hp => by simp [writeField_rwl ha, hl, hp]⟩
  · exact ⟨_, exec_write_clkEvt hd v, rfl, fun _ hf hg hr => get_write_clkEvt s.chip v.toNat hf hg hr⟩
  · have hget := fun f (hf : f ∈ clkBootTmrFields) => get_write_clkBootTmr s.chip v.toNat hf
    exact ⟨_, exec_write_clkBootTmr hd v, rfl, hget ⟨CLK_BOOT_TMR_GATE_TMO, .rw, [(1, 255)]⟩ (.head _),
      hget ⟨CLK_BOOT_TMR_SEED_TMO, .rw, [(1, 255)]⟩ (.tail _ (.head _)), fun h => hand_writeFields _ _ _ h⟩

end Sys2Proof.Proofs

/-! SUPPORT. Admission (spec/04_braid_and_graft.md R127 to R132): QUERY and IDENT, the outcome of Table 4.4, the sponsor's wait and
time-out, the restore instant, the hold-off and recovery. -/

namespace Sys2Proof.Proofs
open Sys2Proof Sys2Proof.Machine Sys2Proof.Machine.Reg Sys2Proof.Laws

/-! ### The commands of admission change the chip alone -/

theorem exec_query (p : TPort) (cell : Cell) (s : State) :
    exec (.query p cell) s = .next { s with chip := query p cell s.chip } := rfl
theorem exec_ident (p : TPort) (cell : Cell) (s : State) :
    exec (.ident p cell) s = .next { s with chip := (ident p cell s.chip).reviewSplits } := rfl
theorem exec_sponsorWait (p : TPort) (s : State) : exec (.sponsorWait p) s = .next { s with chip := sponsorWait p s.chip } := rfl
theorem exec_admitTmo (p : TPort) (s : State) : exec (.admitTmo p) s = .next { s with chip := admitTmo p s.chip } := rfl
theorem exec_restore (p : TPort) (s : State) : exec (.restore p) s = .next { s with chip := restoreDue p s.chip } := rfl
theorem exec_holdoff (p : TPort) (s : State) : exec (.holdoff p) s = .next { s with chip := holdoffEnd p s.chip } := rfl
theorem exec_recoveryHold (p : TPort) (s : State) : exec (.recoveryHold p) s = .next { s with chip := recoveryEnd p s.chip } := rfl

section Admission
variable {p : TPort} {q : Nat} {cell : Cell} {c : Chip}

/-! ### QUERY (R17, R128) -/

/-- The first QUERY gives a node that is not the A head its address. -/
def addressTaken (c : Chip) (a : Nat) : Chip :=
  if c.get BRD_STAT_ROLE ≠ 1 ∧ c.braid.fromQuery = false then { c with braid := { c.braid with fromQuery := true } }.setAddress a else c

/-- The IDENT by which a node answers a QUERY received on a port. -/
def identAnswer (c : Chip) (p : TPort) : Notice :=
  { ntype := 0x11, subject := c.get BRD_STAT_POS, port := p.num, state := posAdmitting, uid := c.uidBytes,
    likeness := c.get GLB_LIKENESS_CLASS, digest := recordDigest (c.record (c.get BRD_STAT_POS)) }

theorem query_of_not_notice (h : isNotice cell 0x10 = false) : query p cell c = c := if_pos h

theorem query_of_notice (h : isNotice cell 0x10 = true) {a : Chip} (ha : a = addressTaken c cell.dest) :
    query p cell c = if a.get BRD_STAT_POS_VALID = 0 ∨ cell.dest ≠ a.node then a
      else a.sendAdmission p (a.noticeCell (nReporter cell.data) (identAnswer a p)) := by
  subst ha
  exact if_neg (by simp [h])

/-! ### The outcome of Table 4.4 -/

theorem outcomeOf_same_likeness {uid lik : Nat} {r : List Byte} (hr : c.record q = some r) (hl : rd r 28 4 = lik) :
    c.outcomeOf q uid lik = if rd r 12 16 = uid then 0 else 1 := by
  simp only [Chip.outcomeOf, hr, if_pos hl]

theorem outcomeOf_other_likeness {uid lik : Nat} {r : List Byte} (hr : c.record q = some r) (hl : rd r 28 4 ≠ lik) :
    c.outcomeOf q uid lik = if c.on (BRD_TRELLIS_OVERRIDE q) ∧ mget 0 c.braid.overrides q = uid + 1 then 2 else 4 := by
  simp only [Chip.outcomeOf, hr, if_neg hl]

theorem outcomeOf_no_record {uid lik : Nat} (hr : c.record q = none) :
    c.outcomeOf q uid lik
      = if c.on (BRD_TRELLIS_OPENED q) ∧ (mget 0 c.braid.enrolled q = 0 ∨ mget 0 c.braid.enrolled q = uid + 1) then 3 else 5 := by
  simp only [Chip.outcomeOf, hr]

/-! ### IDENT, the sponsor's wait and ADMIT_TMO (R128 to R131, R616) -/

theorem ident_no_partner (hq : c.partnerPos p = none) : ident p cell c = c := by
  simp only [ident, hq]

theorem ident_not_deciding (hq : c.partnerPos p = some q)
    (h : isNotice cell 0x11 = false ∨ c.braid.sponsor.get p ≠ .queried ∨ nSubject cell.data ≠ q ∨ c.braid.decided.get p = true) :
    ident p cell c = c := by
  simp only [ident, hq, if_pos h]

theorem ident_deciding (hq : c.partnerPos p = some q) (hn : isNotice cell 0x11 = true) (hs : c.braid.sponsor.get p = .queried)
    (hsub : nSubject cell.data = q) (hd : c.braid.decided.get p = false) {uid o : Nat} (hu : uid = rd cell.data 28 16)
    (ho : o = c.outcomeOf q uid (rd cell.data 44 4)) :
    ident p cell c = if o < 4 then c.admitCandidate p q o uid (slice cell.data 48 48) else c.refuse p q (o - 4) := by
  have hdecides : ¬ (isNotice cell 0x11 = false ∨ c.braid.sponsor.get p ≠ .queried ∨ nSubject cell.data ≠ q
      ∨ c.braid.decided.get p = true) := by simp [hn, hs, hsub, hd]
  simp only [ident, hq, if_neg hdecides, ho, hu]

theorem sponsorWait_no_partner (hq : c.partnerPos p = none) : sponsorWait p c = c := by
  simp only [sponsorWait, hq]

theorem sponsorWait_waiting {n : Nat} (hq : c.partnerPos p = some q) (hw : c.braid.sponsor.get p = .waiting n) :
    sponsorWait p c =
      if c.braid.decided.get p ∨ c.posState q ≠ posAdmitting ∨ c.selfMember = false ∨ c.get BRD_CTL_SPONSOR_EN = 0 then
        { c with braid := { c.braid with sponsor := c.braid.sponsor.set p .idle } }
      else c.becomeSponsor p q := by
  simp only [sponsorWait, hq, hw]

theorem admitTmo_no_partner (hq : c.partnerPos p = none) : admitTmo p c = c := by
  simp only [admitTmo, hq]

theorem admitTmo_partner (hq : c.partnerPos p = some q) :
    admitTmo p c = if c.braid.sponsor.get p = .queried ∧ c.braid.decided.get p = false then c.refuse p q 2 else c := by
  simp only [admitTmo, hq]

/-! ### The restore instant, the hold-off and recovery (R132, R124, R125, R389) -/

theorem restoreDue_none (h : c.braid.restoreAt.get p = none) : restoreDue p c = c := by
  simp only [restoreDue, h]

theorem restoreDue_some {t : Nat} (h : c.braid.restoreAt.get p = some t) :
    restoreDue p c = if t ≤ c.ns then c.restorePort p else c := by
  simp only [restoreDue, h]

theorem holdoffEnd_not_running (h : bit (c.get BRD_PORT_SVC_HOLDOFF_RUN) p.num = false) : holdoffEnd p c = c :=
  if_neg (by simp [h])

theorem holdoffEnd_running (h : bit (c.get BRD_PORT_SVC_HOLDOFF_RUN) p.num = true) {x y : Chip}
    (hx : x = c.clrBitOf BRD_PORT_SVC_HOLDOFF_RUN p.num)
    (hy : y = if x.refusedAt p ∧ x.laneState p = laneParked then x.setLane p { x.lane p with leave := true } else x) :
    holdoffEnd p c = if y.get (TRK_LOS_LOS_CK p.num) = 0 then { y with braid := { y.braid with permit := y.braid.permit.set p true } }
      else y := by
  subst hx hy
  exact if_pos h

theorem recoveryEnd_kept (h : bit (c.get BRD_PORT_SVC_RECOVERY) p.num = false ∨ c.partnerIs p posMember = false) :
    recoveryEnd p c = c := by
  refine if_neg (fun ⟨hr, hm⟩ => ?_)
  obtain h | h := h
  · exact Bool.false_ne_true (h.symm.trans hr)
  · exact Bool.false_ne_true (h.symm.trans hm)

theorem recoveryEnd_ended (hr : bit (c.get BRD_PORT_SVC_RECOVERY) p.num = true) (hm : c.partnerIs p posMember = true) {x : Chip}
    (hx : x = c.clrBitOf BRD_PORT_SVC_RECOVERY p.num) :
    recoveryEnd p c = if x.boot.porter then x.put (LNK_CTL_STRICT p.num) 0 else x := by
  subst hx
  exact if_pos ⟨hr, hm⟩

end Admission

/-- Settles O37, command by command: each changes the chip alone, by its lemma for the case, told apart by the cell, the partner's
position, the sponsor's state and the port's service bits. -/
theorem admissionDecided : Obligations.AdmissionDecided := by
  unfold Obligations.AdmissionDecided
  rintro p cell s _ rfl
  refine ⟨?queryOther, ?query, fun q hq => ⟨?identKept, ?identDecides, ?wait, ?timeout⟩, fun hq => ⟨?identAlone, ?waitAlone, ?timeoutAlone⟩,
    ?noRestore, ?restore, ?noHoldoff, ?holdoff, ?recovery, ?noRecovery⟩
  case queryOther =>
    intro hn
    rw [exec_query, query_of_not_notice hn]
  case query =>
    rintro hn c _ hc rfl
    rw [exec_query, query_of_notice hn hc]
    rfl
  case identKept =>
    intro h
    rw [exec_ident, ident_not_deciding hq h]
  case identDecides =>
    rintro hn hs hsub hd uid lik o hu rfl ho
    refine ⟨fun _ hr hl => ho.trans (outcomeOf_same_likeness hr hl), fun _ hr hl => ho.trans (outcomeOf_other_likeness hr hl),
      fun hr => ho.trans (outcomeOf_no_record hr), ?_⟩
    rw [exec_ident, ident_deciding hq hn hs hsub hd hu ho]
  case wait =>
    intro n hw
    rw [exec_sponsorWait, sponsorWait_waiting hq hw]
  case timeout => rw [exec_admitTmo, admitTmo_partner hq]
  case identAlone => rw [exec_ident, ident_no_partner hq]
  case waitAlone => rw [exec_sponsorWait, sponsorWait_no_partner hq]
  case timeoutAlone => rw [exec_admitTmo, admitTmo_no_partner hq]
  case noRestore =>
    intro h
    rw [exec_restore, restoreDue_none h]
  case restore =>
    intro t ht
    rw [exec_restore, restoreDue_some ht]
  case noHoldoff =>
    intro h
    rw [exec_holdoff, holdoffEnd_not_running h]
  case holdoff =>
    intro h x c hx hc
    rw [exec_holdoff, holdoffEnd_running h hx hc]
  case recovery =>
    intro hr hm c hc
    rw [exec_recoveryHold, recoveryEnd_ended hr hm hc]
  case noRecovery =>
    intro h
    rw [exec_recoveryHold, recoveryEnd_kept h]

end Sys2Proof.Proofs

/-! SUPPORT. Receiving a flit (spec/03_trunk_link_layer.md R73 to R84, R100 to R103): what becomes of it by its correction and its
CRC, and what a passed flit does by its kind. -/

namespace Sys2Proof.Proofs
open Sys2Proof Sys2Proof.Machine Sys2Proof.Machine.Reg Sys2Proof.Laws

/-! ### A command that changes the chip alone -/

theorem exec_onChip {i : Instr} {f : Chip → Chip} {s : State} (hi : exec i s = s.onChip f) {d : Chip} (h : f s.chip = d) :
    exec i s = .next { s with chip := d } := by
  rw [hi, ← h]
  rfl

theorem exec_onChip_same {i : Instr} {f : Chip → Chip} {s : State} (hi : exec i s = s.onChip f) (h : f s.chip = s.chip) :
    exec i s = .next s := exec_onChip hi h

/-! ### The flit commands -/

/-- A command that brings a flit of any kind but a beacon. -/
def BringsFlit (i : Instr) (p : TPort) (blks : List RxBlock) : Prop :=
  i = .cellFlit p blks ∨ i = .flitFail p blks ∨ i = .poisonFlit p blks ∨ i = .idleFlit p blks ∨ i = .init p blks ∨ i = .resume p blks
    ∨ i = .nak p blks ∨ i = .hold p blks

theorem exec_bringsFlit {i : Instr} {p : TPort} {blks : List RxBlock} (h : BringsFlit i p blks) (s : State) :
    exec i s = s.onChip (flitIn p blks) := by
  obtain rfl | rfl | rfl | rfl | rfl | rfl | rfl | rfl := h <;> rfl

theorem flitIn_of_rxFlit {p : TPort} {blks : List RxBlock} {c u : Chip} {flit : List Byte} (h : c.rxFlit p blks = (flit, u)) :
    flitIn p blks c = (u.receive p flit).2 := by
  simp only [flitIn, h]

section Receive
variable {p : TPort} {flit w : List Byte} {u c d x : Chip}

/-! ### Correction and the CRC (R74, R75, R79, R84) -/

theorem receive_closed (h : u.laneState p ≠ laneUp ∨ (u.link p).state = .down) : u.receive p flit = (none, u) := if_pos h

/-- A port that takes flits: it is Up and its link layer is not Down (R67, R73). -/
def TakesFlits (u : Chip) (p : TPort) : Prop := ¬ (u.laneState p ≠ laneUp ∨ (u.link p).state = .down)

theorem takesFlits_of_up (hl : u.laneState p = laneUp) (hs : (u.link p).state ≠ .down) : TakesFlits u p :=
  not_or.mpr ⟨not_not.mpr hl, hs⟩

theorem receive_uncorrectable (h : TakesFlits u p) (hd : rsDecode (padTo flit 128) = none) :
    u.receive p flit = (none, ((u.inc (LNK_RS_FAIL p.num)).evt (LNK_EVT_RS_FAIL p.num)).enterWait p) := by
  rw [Chip.receive, if_neg h, hd]

/-- A flit that needed correction is counted (R74). -/
def correctionCounted (u : Chip) (p : TPort) (flit w : List Byte) : Chip :=
  if w = padTo flit 128 then u else u.inc (LNK_RS_CORR p.num)

/-- A link control flit of the handshake, INIT or RESUME, by its kind and CTYPE. -/
def isHandshakeFlit (w : List Byte) : Bool := decide (hdrKind w = 1 ∧ (ctlOf w = 1 ∨ ctlOf w = 2))

/-- The CRC passes where it is formed with sequence number `q`, or that of a handshake message with 0 (R75). -/
def CrcPasses (w : List Byte) (q : Nat) : Prop := rd w 116 4 = flitCrc q w ∨ (isHandshakeFlit w ∧ rd w 116 4 = flitCrc 0 w)

theorem not_crcPasses {q : Nat} (hh : isHandshakeFlit w = false) (hne : rd w 116 4 ≠ flitCrc q w) : ¬ CrcPasses w q := by
  simp [CrcPasses, hh, hne]

theorem receive_passed (h : TakesFlits u p) (hd : rsDecode (padTo flit 128) = some w)
    (hc : c = correctionCounted u p flit w) (hp : CrcPasses w (u.link p).expect) :
    u.receive p flit = (some w, c.passFlit p w) := by
  rw [Chip.receive, if_neg h, hd, hc]
  exact if_pos hp

/-- The cell of a flit whose CRC does not pass goes to the switch as not accepted (R78, R170). -/
def failedCell (c : Chip) (p : TPort) (w : List Byte) (wait : Bool) : Chip :=
  if hdrKind w = 0 then c.switchCell p (flitCell w) (hdrVc w) false
    (if wait = true ∨ admissionCell (flitCell w) = true then none else c.cutTarget p (flitCell w))
  else c

theorem receive_poisoned (h : TakesFlits u p) (hd : rsDecode (padTo flit 128) = some w)
    (hc : c = correctionCounted u p flit w) (hp : ¬ CrcPasses w (u.link p).expect)
    (hx : x = failedCell c p w (u.link p).rxWait) (hk : rd w 116 4 = flitCrc (u.link p).expect w ^^^ 0xFFFFFFFF) :
    u.receive p flit = (none, (x.setLink p { x.link p with rxWait := false }).inc (LNK_POISON_RX p.num)) := by
  rw [Chip.receive, if_neg h, hd, hx, hc]
  exact (if_neg hp).trans (if_pos hk)

theorem receive_crcFailed (h : TakesFlits u p) (hd : rsDecode (padTo flit 128) = some w)
    (hc : c = correctionCounted u p flit w) (hp : ¬ CrcPasses w (u.link p).expect)
    (hx : x = failedCell c p w (u.link p).rxWait) (hk : rd w 116 4 ≠ flitCrc (u.link p).expect w ^^^ 0xFFFFFFFF) :
    u.receive p flit = (none, (if (u.link p).rxWait = true then x
      else (x.inc (LNK_CRC_FAIL p.num)).evt (LNK_EVT_CRC_FAIL p.num)).enterWait p) := by
  rw [Chip.receive, if_neg h, hd, hx, hc]
  exact (if_neg hp).trans (if_neg hk)

/-! ### A passed flit by its kind (R73, R82, R83, R94, R100, R101, R103) -/

/-- A passed flit is counted (R110). -/
def flitCounted (c : Chip) (p : TPort) : Chip := c.addWrap64 (LNK_FLIT_RX_LO p.num) (LNK_FLIT_RX_HI p.num) 1

/-- A passed flit ends replay wait (R84). -/
def waitEnded (c : Chip) (p : TPort) : Chip := c.setLink p { c.link p with rxWait := false }

@[simp] theorem link_waitEnded (c : Chip) (p : TPort) : (waitEnded c p).link p = { c.link p with rxWait := false } :=
  link_setLink _ _ _

/-- A passed flit that is no handshake message completes a handshake whose message has come (R103). -/
def handshakeCompleted (c : Chip) (p : TPort) : Chip :=
  if (c.link p).accepted = true ∧ ((c.link p).state = .init ∨ (c.link p).state = .resume) then c.activate p else c

theorem handshakeCompleted_active (h : (c.link p).state = .active) : handshakeCompleted c p = c := if_neg (by simp [h])

theorem handshakeCompleted_accepted (ha : (c.link p).accepted = true) (hs : (c.link p).state = .init ∨ (c.link p).state = .resume) :
    handshakeCompleted c p = c.activate p := if_pos ⟨ha, hs⟩

/-- What a passed flit that is no handshake message carries, once its header has been taken. -/
def carried (d : Chip) (p : TPort) (w : List Byte) : Chip :=
  if hdrKind w = 0 then d.cellIn p w (if admissionCell (flitCell w) then none else d.cutTarget p (flitCell w))
  else if hdrKind w = 1 then (waitEnded d p).controlFlit p w
  else waitEnded d p

theorem passFlit_handshake (h : hdrKind w = 1 ∧ (ctlOf w = 1 ∨ ctlOf w = 2) ∧ rd w 5 1 = 1) :
    c.passFlit p w = ((if ctlOf w = 1 then (waitEnded (flitCounted c p) p).initIn p w
      else (waitEnded (flitCounted c p) p).resumeIn p w).headerIn p w).reviewService p := if_pos h

theorem passFlit_other (h : ¬ (hdrKind w = 1 ∧ (ctlOf w = 1 ∨ ctlOf w = 2) ∧ rd w 5 1 = 1)) :
    c.passFlit p w = handshakeCompleted (carried ((flitCounted c p).headerIn p w) p w) p := if_neg h

theorem carried_cell (hk : hdrKind w = 0) :
    carried d p w = d.cellIn p w (if admissionCell (flitCell w) then none else d.cutTarget p (flitCell w)) := if_pos hk

theorem carried_control (hk : hdrKind w = 1) : carried d p w = (waitEnded d p).controlFlit p w := by simp [carried, hk]

theorem carried_idle (hk : hdrKind w = 3) : carried d p w = waitEnded d p := by simp [carried, hk]

/-! ### Control flits that are no handshake message (R85, R96, R100) -/

theorem controlFlit_nak (hv : rd w 5 1 = 1) (ht : ctlOf w = 3) :
    c.controlFlit p w = (c.inc (LNK_NAK_RX p.num)).nakSeq p (rd w 6 2 % 4096) := by
  simp [Chip.controlFlit, hv, ht]

theorem controlFlit_hold (hv : rd w 5 1 = 1) (ht : ctlOf w = 4) {l : LinkPort} (hl : c.link p = l) {f : Nat → Nat}
    (hf : f = fun v => if bit (rd w 18 1) v = true then c.tick + 1 else l.holdAt.get v) :
    c.controlFlit p w = c.setLink p { l with holdAt := ⟨f 0, f 1, f 2, f 3⟩ } := by
  subst hf hl
  simp [Chip.controlFlit, hv, ht]

end Receive

/-- Settles O23: the blocks bring one flit whichever command carries them, and its fate is told apart by the port, the correction,
the CRC and the kind. -/
theorem flitsReceived : Obligations.FlitsReceived := by
  unfold Obligations.FlitsReceived
  intro p blks s i flit u hi hrx
  have hrun {x : Chip} (h : (u.receive p flit).2 = x) : exec i s = .next { s with chip := x } :=
    exec_onChip (exec_bringsFlit hi s) ((flitIn_of_rxFlit hrx).trans h)
  refine ⟨fun h => hrun (by rw [receive_closed h]),
    fun hl hs hd => hrun (by rw [receive_uncorrectable (takesFlits_of_up hl hs) hd]), ?_⟩
  rintro w c _ hl hs hd hc rfl
  have hopen := takesFlits_of_up hl hs
  refine ⟨?_, ?_, ?_⟩
  · intro d hcount
    have hpass {e x : Chip} (he : e = d.headerIn p w) (hk : rd w 116 4 = flitCrc (u.link p).expect w)
        (hn : ¬ (hdrKind w = 1 ∧ (ctlOf w = 1 ∨ ctlOf w = 2) ∧ rd w 5 1 = 1)) (hx : handshakeCompleted (carried e p w) p = x) :
        exec i s = .next { s with chip := x } := by
      subst he hcount hx
      exact hrun (by rw [receive_passed hopen hd hc (.inl hk), passFlit_other hn]; rfl)
    refine ⟨?completes, ?idle, ?nak, ?hold, ?cell⟩
    case completes =>
      intro e he hk hkind ha hst
      refine hpass he hk (by simp [hkind]) ?_
      rw [carried_idle hkind]
      exact handshakeCompleted_accepted (by simpa using ha) (by simpa using hst)
    case idle =>
      intro hk hkind e he hst
      refine hpass he hk (by simp [hkind]) ?_
      rw [carried_idle hkind]
      exact handshakeCompleted_active (by simpa using hst)
    case nak =>
      rintro hk hkind ht hv e _ he rfl hst
      refine hpass he hk (by simp [ht]) ?_
      rw [carried_control hkind, controlFlit_nak hv ht]
      exact handshakeCompleted_active hst
    case hold =>
      intro hk hkind ht hv e f he hst hf
      refine hpass he hk (by simp [ht]) ?_
      rw [carried_control hkind, controlFlit_hold hv ht (link_waitEnded e p) hf]
      exact handshakeCompleted_active (by simpa using hst)
    case cell =>
      rintro hk hkind e _ he rfl hst
      refine hpass he hk (by simp [hkind]) ?_
      rw [carried_cell hkind]
      exact handshakeCompleted_active hst
  · rintro _ rfl hk hkind hv
    have hpass {x : Chip} (ht : ctlOf w = 1 ∨ ctlOf w = 2) (hx : c.passFlit p w = x) : exec i s = .next { s with chip := x } := by
      refine hrun ?_
      rw [receive_passed hopen hd hc (hk.imp_right fun h => ⟨by simp [isHandshakeFlit, hkind, ht], h⟩), hx]
    refine ⟨fun ht => hpass (.inl ht) ?_, fun ht => hpass (.inr ht) ?_⟩
    · rw [passFlit_handshake ⟨hkind, .inl ht, hv⟩, if_pos ht]
      rfl
    · rw [passFlit_handshake ⟨hkind, .inr ht, hv⟩, if_neg (by simp [ht])]
      rfl
  · intro x hx hkind hne
    have hfail : ¬ CrcPasses w (u.link p).expect := by
      refine not_crcPasses ?_ hne
      obtain h | h := hkind <;> simp [isHandshakeFlit, h]
    refine ⟨fun hk => hrun ?_, fun hk hwait => hrun ?_, fun hk hwait => hrun ?_⟩
    · rw [receive_poisoned hopen hd hc hfail hx hk]
    · rw [receive_crcFailed hopen hd hc hfail hx hk, hwait]
      rfl
    · rw [receive_crcFailed hopen hd hc hfail hx hk, if_pos hwait]

end Sys2Proof.Proofs

/-! SUPPORT. The time limits of training (spec/02_trunk_lanes.md R58, R60, R66): the end of the verify dwell, TRAIN_TMO, RETRY_INT and
FAST_TMO. -/

namespace Sys2Proof.Proofs
open Sys2Proof Sys2Proof.Machine Sys2Proof.Machine.Reg Sys2Proof.Laws

section TimeLimits
variable {p : TPort} {errors : List Nat} {tails : List (BitVec 58)} {c d : Chip}

theorem exec_verifyDwellEnd (s : State) : exec (.verifyDwellEnd p errors tails) s = s.onChip (verifyDwellEnd p errors tails) := rfl
theorem exec_trainTmo (s : State) : exec (.trainTmo p) s = s.onChip (trainTmo p) := rfl
theorem exec_retryInt (s : State) : exec (.retryInt p) s = s.onChip (retryInt p) := rfl
theorem exec_fastTmo (s : State) : exec (.fastTmo p) s = s.onChip (fastTmo p) := rfl

/-! ### The end of the verify dwell (R58 steps 6 and 7) -/

theorem verifyDwellEnd_otherStep (h : (c.lane p).step ≠ 6) : verifyDwellEnd p errors tails c = c := if_pos h

/-- The descramblers hold the last 58 bits received in the dwell (R37). -/
def tailsTaken (l : LanePort) (tails : List (BitVec 58)) : LanePort :=
  { l with descramblers := l.descramblers.mapIdx (fun i d => match tails[i]? with
    | some t => t.toNat
    | none => d) }

/-- The lanes that pass: usable, within ERR_THR, in block lock and without LOS. -/
def lanesPassed (c : Chip) (p : TPort) (errors : List Nat) : Nat :=
  (((lanesOf (c.lane p).usable).filter (fun i => decide (errors.getD i 0 ≤ c.get (TRK_VERIFY_ERR_THR p.num)) && bit (c.lane p).locked i
    && !bit (c.get (TRK_LOS_LOS_LANE p.num)) i)).map (fun i => 2 ^ i)).foldl (· ||| ·) 0

theorem verifyDwellEnd_step6 (h : (c.lane p).step = 6) {l : LanePort} {mask : Nat} (hl : l = tailsTaken (c.lane p) tails)
    (hm : mask = lanesPassed c p errors) :
    verifyDwellEnd p errors tails c = ((((c.setLane p { l with step := 7, verdict := some mask }).put (TRK_STAT_GOOD_MASK p.num) mask).sendBlock
      p 0xA4 (c.lane p).rate (c.lane p).width (l.txMask mask) 0).conclude p) := by
  subst hl hm
  exact if_neg (not_not.mpr h)

/-! ### TRAIN_TMO (R60, R66) -/

/-- A failed attempt is counted, and in start-up's steps 6 to 8 recorded as its failure. -/
def failureCounted (c : Chip) (p : TPort) : Chip :=
  if 6 ≤ (c.inc (TRK_FAIL_CNT_FAILS p.num)).get CLK_BOOT_STEP ∧ (c.inc (TRK_FAIL_CNT_FAILS p.num)).get CLK_BOOT_STEP ≤ 8 then
    (c.inc (TRK_FAIL_CNT_FAILS p.num)).bootFail 8
  else c.inc (TRK_FAIL_CNT_FAILS p.num)

theorem trainTmo_full (ha : (c.lane p).attempt = .full) (hd : d = failureCounted c p) :
    trainTmo p c =
      if (c.lane p).fails + 1 < d.get (TRK_RETRY_RETRY_LIM p.num) then d.nextAttempt p (c.lane p).rate ((c.lane p).fails + 1)
      else if d.on (TRK_CTL_FALLBACK_EN p.num) = true ∧ (c.lane p).rate < 3 then d.nextAttempt p ((c.lane p).rate + 1) 0
      else ((d.setLane p { c.lane p with attempt := .none, step := 0, fails := 0 }).put (TRK_STAT_STATE p.num) laneRetryWait).evt
        (TRK_EVT_TRAIN_FAIL p.num) := by
  subst hd
  unfold trainTmo
  simp only [ha]
  rfl

theorem trainTmo_belowLimit (ha : (c.lane p).attempt = .full) (hd : d = failureCounted c p)
    (h : (c.lane p).fails + 1 < d.get (TRK_RETRY_RETRY_LIM p.num)) :
    trainTmo p c = d.nextAttempt p (c.lane p).rate ((c.lane p).fails + 1) := by
  rw [trainTmo_full ha hd, if_pos h]

theorem trainTmo_fallsBack (ha : (c.lane p).attempt = .full) (hd : d = failureCounted c p)
    (h : d.get (TRK_RETRY_RETRY_LIM p.num) ≤ (c.lane p).fails + 1) (hf : d.on (TRK_CTL_FALLBACK_EN p.num) = true)
    (hr : (c.lane p).rate < 3) : trainTmo p c = d.nextAttempt p ((c.lane p).rate + 1) 0 := by
  rw [trainTmo_full ha hd, if_neg (Nat.not_lt.mpr h), if_pos ⟨hf, hr⟩]

theorem trainTmo_retryWait (ha : (c.lane p).attempt = .full) (hd : d = failureCounted c p)
    (h : d.get (TRK_RETRY_RETRY_LIM p.num) ≤ (c.lane p).fails + 1)
    (hf : d.on (TRK_CTL_FALLBACK_EN p.num) = false ∨ 3 ≤ (c.lane p).rate) :
    trainTmo p c = ((d.setLane p { c.lane p with attempt := .none, step := 0, fails := 0 }).put (TRK_STAT_STATE p.num) laneRetryWait).evt
      (TRK_EVT_TRAIN_FAIL p.num) := by
  have hno : ¬ (d.on (TRK_CTL_FALLBACK_EN p.num) = true ∧ (c.lane p).rate < 3) := by
    rintro ⟨hon, hlt⟩
    obtain hoff | hle := hf
    · exact Bool.false_ne_true (hoff.symm.trans hon)
    · exact Nat.not_lt.mpr hle hlt
  rw [trainTmo_full ha hd, if_neg (Nat.not_lt.mpr h), if_neg hno]

theorem trainTmo_rateChange (ha : (c.lane p).attempt = .rateChange) : trainTmo p c = c.portLost p 1 := by
  simp only [trainTmo, ha]

theorem trainTmo_noAttempt (ha : (c.lane p).attempt = .none) : trainTmo p c = c := by
  simp only [trainTmo, ha]

/-! ### RETRY_INT and FAST_TMO (R60, R66) -/

theorem retryInt_retryWait (h : c.laneState p = laneRetryWait) : retryInt p c = c.nextAttempt p (c.tgtRate p) 0 := if_pos h
theorem retryInt_elsewhere (h : c.laneState p ≠ laneRetryWait) : retryInt p c = c := if_neg h
theorem fastTmo_fast (h : (c.lane p).attempt = .fast) : fastTmo p c = c.portLost p 1 := if_pos h
theorem fastTmo_other (h : (c.lane p).attempt ≠ .fast) : fastTmo p c = c := if_neg h

end TimeLimits

/-- Settles O22, command by command: the dwell's end by the step, TRAIN_TMO by the kind of attempt, its failures and its rate,
RETRY_INT by the port's state and FAST_TMO by the kind of attempt. -/
theorem trainingTimeouts : Obligations.TrainingTimeouts := by
  unfold Obligations.TrainingTimeouts
  intro p s
  refine ⟨fun _ _ h => exec_onChip_same (exec_verifyDwellEnd s) (verifyDwellEnd_otherStep h),
    fun _ _ _ _ h hl hm => exec_onChip (exec_verifyDwellEnd s) (verifyDwellEnd_step6 h hl hm), ?full,
    fun h => exec_onChip (exec_trainTmo s) (trainTmo_rateChange h), fun h => exec_onChip_same (exec_trainTmo s) (trainTmo_noAttempt h),
    fun h => exec_onChip (exec_retryInt s) (retryInt_retryWait h), fun h => exec_onChip_same (exec_retryInt s) (retryInt_elsewhere h),
    fun h => exec_onChip (exec_fastTmo s) (fastTmo_fast h), fun h => exec_onChip_same (exec_fastTmo s) (fastTmo_other h)⟩
  case full =>
    rintro _ d ha rfl hd
    exact ⟨fun h => exec_onChip (exec_trainTmo s) (trainTmo_belowLimit ha hd h),
      fun h hf hr => exec_onChip (exec_trainTmo s) (trainTmo_fallsBack ha hd h hf hr),
      fun h hf => exec_onChip (exec_trainTmo s) (trainTmo_retryWait ha hd h hf)⟩

end Sys2Proof.Proofs

/-! SUPPORT. Lane signals, retrain requests, parking and the training exchange (spec/02_trunk_lanes.md R40, R44, R51 to R54, R56, R58,
R59, R62 to R65, R68). -/

namespace Sys2Proof.Proofs
open Sys2Proof Sys2Proof.Machine Sys2Proof.Machine.Reg Sys2Proof.Laws

/-! ### LOS and LOL (R51 to R54) -/

section Signals
variable {p : TPort} {lane : Nat} {c d : Chip}

theorem exec_losAssert (l : Fin 10) (s : State) : exec (.losAssert p l) s = s.onChip (losAssert p l) := rfl
theorem exec_losDeassert (l : Fin 10) (s : State) : exec (.losDeassert p l) s = s.onChip (losDeassert p l) := rfl
theorem exec_lol (out : Bool) (s : State) : exec (.lol p out) s = s.onChip (lolAssert p out) := rfl
theorem exec_lockLost (l : Fin 9) (bad : Nat) (s : State) : exec (.lockLost p l bad) s = s.onChip (lockLost p l bad) := rfl
theorem exec_driftTrack (l : Fin 9) (later : Bool) (s : State) :
    exec (.driftTrack p l later) s = s.onChip (driftTrack p l later) := rfl
theorem exec_hidChanged (hid : Fin 16) (s : State) : exec (.hidChanged hid) s = s.onChip (hidChanged hid) := rfl

theorem losAssert_clock :
    losAssert p 9 c = (((c.put (TRK_LOS_LOS_CK p.num) 1).evt (TRK_EVT_LOS_CK p.num)).presenceEdge p).portLost p 0 := if_pos rfl

/-- LOS on a data lane is recorded in its bit, with its event. -/
def losRecorded (c : Chip) (p : TPort) (lane : Nat) : Chip := (c.setBitOf (TRK_LOS_LOS_LANE p.num) lane).evtBit (TRK_EVT_LOS_LANE p.num) lane

theorem losAssert_data (hl : lane ≠ 9) (hd : d = losRecorded c p lane) :
    losAssert p lane c =
      if d.on (TRK_STAT_PARTNERED p.num) = false ∨ (d.activeRx p).contains lane = false then d
      else if (d.activeRx p).all (fun i => bit (d.get (TRK_LOS_LOS_LANE p.num)) i) then d.portLost p 0
      else if d.laneState p = laneUp then d.laneFault p lane else d := by
  subst hd
  exact if_neg hl

theorem losAssert_unused (hl : lane ≠ 9) (hd : d = losRecorded c p lane)
    (h : d.on (TRK_STAT_PARTNERED p.num) = false ∨ (d.activeRx p).contains lane = false) : losAssert p lane c = d := by
  rw [losAssert_data hl hd, if_pos h]

theorem losAssert_lastLane (hl : lane ≠ 9) (hd : d = losRecorded c p lane) (hp : d.on (TRK_STAT_PARTNERED p.num) = true)
    (hu : (d.activeRx p).contains lane = true) (hall : ∀ i ∈ d.activeRx p, bit (d.get (TRK_LOS_LOS_LANE p.num)) i = true) :
    losAssert p lane c = d.portLost p 0 := by
  rw [losAssert_data hl hd, if_neg (by rw [hp, hu]; simp), if_pos (List.all_eq_true.mpr hall)]

theorem losAssert_oneOfSeveral (hl : lane ≠ 9) (hd : d = losRecorded c p lane) (hp : d.on (TRK_STAT_PARTNERED p.num) = true)
    (hup : d.laneState p = laneUp) (hu : (d.activeRx p).contains lane = true)
    (hsome : ∃ i ∈ d.activeRx p, bit (d.get (TRK_LOS_LOS_LANE p.num)) i = false) : losAssert p lane c = d.laneFault p lane := by
  have hnot : ¬ (d.activeRx p).all (fun i => bit (d.get (TRK_LOS_LOS_LANE p.num)) i) = true := by
    obtain ⟨i, hi, hb⟩ := hsome
    exact fun hall => Bool.false_ne_true (hb.symm.trans (List.all_eq_true.mp hall i hi))
  rw [losAssert_data hl hd, if_neg (by rw [hp, hu]; simp), if_neg hnot, if_pos hup]

theorem losDeassert_data (hl : lane ≠ 9) : losDeassert p lane c = c.clrBitOf (TRK_LOS_LOS_LANE p.num) lane := if_neg hl

theorem losDeassert_clock (hd : d = ((c.put (TRK_LOS_LOS_CK p.num) 0).presenceEdge p).seenUp p) :
    losDeassert p 9 c = if p.up = true ∧ d.get BRD_STAT_ROLE = 1 then (d.put BRD_STAT_HEAD_CONFLICT 1).evt BRD_EVT_HEAD_CONFLICT else d := by
  subst hd
  exact if_pos rfl

theorem lolAssert_noClock {out : Bool} (h : c.on (TRK_LOS_LOS_CK p.num) = true) : lolAssert p out c = c := if_pos h

theorem lolAssert_measured {out : Bool} (h : c.on (TRK_LOS_LOS_CK p.num) = false) :
    lolAssert p out c = if out = true then (((c.put (TRK_LOS_LOL p.num) 1).evt (TRK_EVT_LOL p.num)).put (TRK_STAT_DLL_LOCK p.num) 0).portLost p 0
      else c.put (TRK_LOS_LOL p.num) 0 := if_neg (by simp [h])

/-! ### Bad headers, drift and HID (R40, R44, R65) -/

/-- Bad headers are counted at an Up port. -/
def badHeadersCounted (c : Chip) (p : TPort) (lane bad : Nat) : Chip :=
  if c.laneState p = laneUp then c.addSat (TRK_BERR_HDR_ERR p.num lane) bad else c

/-- A lane is out of block lock. -/
def unlocked (c : Chip) (p : TPort) (lane : Nat) : Chip := c.setLane p { c.lane p with locked := clrBit (c.lane p).locked lane }

theorem lockLost_few {bad : Nat} (h : bad < 16) : lockLost p lane bad c = badHeadersCounted c p lane bad := by
  simp [lockLost, h, badHeadersCounted]

theorem lockLost_many {bad : Nat} (h : 16 ≤ bad) (hd : d = unlocked (badHeadersCounted c p lane bad) p lane) :
    lockLost p lane bad c = if c.laneState p = laneUp ∧ (d.activeRx p).contains lane = true
      then (d.evt (TRK_EVT_LOCK_LOST p.num)).laneFault p lane else d := by
  subst hd
  simp only [lockLost, if_neg (Nat.not_lt.mpr h), decide_eq_true_eq]
  rfl

theorem driftTrack_off {later : Bool} (h : c.get (TRK_CTL_DRIFT_EN p.num) = 0) : driftTrack p lane later c = c := if_pos h

theorem driftTrack_on {later : Bool} (h : c.get (TRK_CTL_DRIFT_EN p.num) ≠ 0) :
    driftTrack p lane later c = c.setLane p { c.lane p with
      finds := (c.lane p).finds.map (fun f => if f.rx.val = lane then stepFind f later else f) } := if_neg h

theorem hidChanged_boot (hid : Nat) (c : Chip) : (hidChanged hid c).boot = { c.boot with hid := hid } := by
  refine foldl_keeps (fun c : Chip => c.boot) _ _ _ (fun c q => ?_)
  split
  · exact evt_boot _ _
  · rfl

theorem hidChanged_lanes (hid : Nat) (c : Chip) : (hidChanged hid c).lanes = c.lanes := by
  refine foldl_keeps (fun c : Chip => c.lanes) _ _ _ (fun c q => ?_)
  split
  · exact evt_lanes _ _
  · rfl

end Signals

/-! ### Received blocks (R36, R57) -/

section Blocks
variable {p : TPort} {blk : RxBlock} {w : BitVec 64} {b : List Byte} {c d e : Chip} {s : State}

theorem exec_retrainRequest : exec (.retrainRequest p blk) s = s.onChip (fun c => c.onBlock p blk (retrainRequest p)) := rfl
theorem exec_parkBlock : exec (.parkBlock p blk) s = s.onChip (fun c => c.onBlock p blk (parkBlock p)) := rfl
theorem exec_ts1 {found : List LaneFind} : exec (.ts1 p found blk) s = s.onChip (fun c => c.onBlock p blk (ts1 p found)) := rfl
theorem exec_ts2 : exec (.ts2 p blk) s = s.onChip (fun c => c.onBlock p blk (ts2 p)) := rfl
theorem exec_ts3 : exec (.ts3 p blk) s = s.onChip (fun c => c.onBlock p blk (ts3 p)) := rfl
theorem exec_ts4 : exec (.ts4 p blk) s = s.onChip (fun c => c.onBlock p blk (ts4 p)) := rfl
theorem exec_ts5 : exec (.ts5 p blk) s = s.onChip (fun c => c.onBlock p blk (ts5 p)) := rfl
theorem exec_retrain : exec (.retrain p) s = s.onChip (retrainWrite p) := rfl
theorem exec_park : exec (.park p) s = s.onChip (fun c => c.parkPort p 1) := rfl
theorem exec_trainingStart : exec (.trainingStart p) s = s.onChip (trainingStart p) := rfl

/-- A block that is no control block is received and has no other effect. -/
theorem exec_onBlock_none {i : Instr} {f : BitVec 64 → Chip → Chip} (hi : exec i s = s.onChip (fun c => c.onBlock p blk f))
    (hrx : s.chip.rxControl p blk = (none, c)) : exec i s = .next { s with chip := c } :=
  exec_onChip hi (by simp only [Chip.onBlock, hrx])

/-- A control block acts by its payload. -/
theorem exec_onBlock {i : Instr} {f : BitVec 64 → Chip → Chip} (hi : exec i s = s.onChip (fun c => c.onBlock p blk f))
    (hrx : s.chip.rxControl p blk = (some w, c)) (h : f w c = d) : exec i s = .next { s with chip := d } :=
  exec_onChip hi (by simp only [Chip.onBlock, hrx, h])

theorem rxControl_not_control (h : syncHeader blk ≠ 2) : (c.rxControl p blk).1 = none := if_neg h

/-! ### Retrain requests and writes (R62 to R64) -/

theorem retrainRequest_follower (hb : blockOf 0xA6 w = some b) (hl : p.leads = false) : retrainRequest p w c = c := by
  simp only [retrainRequest, hb, if_pos hl]

theorem retrainRequest_collision (hb : blockOf 0xA6 w = some b) (hl : p.leads = true) (ha : (c.lane p).attempt ≠ .none) :
    retrainRequest p w c = c.evt (TRK_EVT_COLLISION p.num) := by
  simp only [retrainRequest, hb, hl, Bool.true_eq_false, if_false, if_pos ha]

theorem retrainRequest_starts (hb : blockOf 0xA6 w = some b) (hl : p.leads = true) (ha : (c.lane p).attempt = .none)
    (hup : c.laneState p = laneUp) :
    retrainRequest p w c = (c.setLane p { c.lane p with
      txFailed := (c.lane p).txFailed ||| (allLanes p - (allLanes p &&& tbMask b)) }).startRetrain p (tbRate b) (tbReason b) := by
  simp only [retrainRequest, hb, hl, Bool.true_eq_false, if_false, ha, ne_eq, not_true_eq_false, if_pos hup]

theorem retrainWrite_parked (h : c.laneState p = laneParked) : retrainWrite p c = c.setLane p { c.lane p with leave := true } := if_pos h
theorem retrainWrite_other (h : c.laneState p ≠ laneParked) : retrainWrite p c = c.askRetrain p 1 := if_neg h

/-! ### Park blocks (R68) -/

theorem parkBlock_off (hb : blockOf 0xA7 w = some b) (ht : c.trunkOn p = false) : parkBlock p w c = c := by
  simp only [parkBlock, hb, if_pos ht]

theorem parkBlock_parked (hb : blockOf 0xA7 w = some b) (ht : c.trunkOn p = true) (hs : c.laneState p = laneParked) :
    parkBlock p w c = c.evt (TRK_EVT_PARKED_BY_PARTNER p.num) := by
  simp only [parkBlock, hb, ht, Bool.true_eq_false, if_false, if_pos hs]

/-- The port is parked by its partner, which in start-up's step 7 fails for a REASON of 0. -/
def parkedByPartner (c : Chip) (p : TPort) (b : List Byte) : Chip :=
  if ((c.enterParked p).evt (TRK_EVT_PARKED_BY_PARTNER p.num)).get CLK_BOOT_STEP = 7 ∧ tbReason b = 0 then
    ((c.enterParked p).evt (TRK_EVT_PARKED_BY_PARTNER p.num)).bootFail 9
  else (c.enterParked p).evt (TRK_EVT_PARKED_BY_PARTNER p.num)

/-- A Member that has announced itself Dormant parks with REASON 5 (spec/04_braid_and_graft.md R136). -/
def parksDormant (c : Chip) (p : TPort) (b : List Byte) : Bool :=
  c.braid.dormantSeen.get p && decide (tbReason b = 5) && c.partnerIs p posMember

theorem parkBlock_parks (hb : blockOf 0xA7 w = some b) (ht : c.trunkOn p = true) (hs : c.laneState p ≠ laneParked)
    (he : e = parkedByPartner c p b) (hd : d = { e with braid := { e.braid with dormantSeen := e.braid.dormantSeen.set p false } }) :
    parkBlock p w c = (if parksDormant c p b = true then d.observe p posDormant else d).reviewSplit p.up := by
  subst hd he
  simp only [parkBlock, hb, ht, Bool.true_eq_false, if_false, if_neg hs]
  rfl

/-! ### Training starts (R56, R60) -/

theorem trainingStart_refused (h : c.mayTrain p = false) : trainingStart p c = c := if_neg (by simp [h])

/-- A port that waits, or whose park has been ended. -/
def WaitsToTrain (c : Chip) (p : TPort) : Prop :=
  c.laneState p = laneOff ∨ c.laneState p = laneWaiting ∨ (c.laneState p = laneParked ∧ (c.lane p).leave = true)

/-- An Absent, Grafted or Dormant partner is seen Training. -/
def partnerSeenTraining (c : Chip) (p : TPort) : Chip :=
  if c.partnerIs p posAbsent = true ∨ c.partnerIs p posGrafted = true ∨ c.partnerIs p posDormant = true then c.observe p posTraining else c

theorem trainingStart_first (hm : c.mayTrain p = true) (hw : WaitsToTrain c p) (hd : d = partnerSeenTraining c p)
    (ht : (d.lane p).pendingTry = none) : trainingStart p c = d.beginAttempt p (d.tgtRate p) 0 := by
  subst hd
  rw [trainingStart, if_pos ⟨hm, hw⟩]
  simp only [partnerSeenTraining] at ht ⊢
  rw [ht]

theorem trainingStart_pending (hm : c.mayTrain p = true) (hw : WaitsToTrain c p) (hd : d = partnerSeenTraining c p) {r n : Nat}
    (ht : (d.lane p).pendingTry = some (r, n)) : trainingStart p c = d.beginAttempt p r n := by
  subst hd
  rw [trainingStart, if_pos ⟨hm, hw⟩]
  simp only [partnerSeenTraining] at ht ⊢
  rw [ht]

/-! ### TS1 (R58 steps 1 to 3, R62, R68, R126) -/

theorem ts1_none {found : List LaneFind} (hb : blockOf 0xA1 w = none) : ts1 p found w c = c := by simp only [ts1, hb]

section TakenTs1
variable {found : List LaneFind} (hb : blockOf 0xA1 w = some b)
include hb

theorem ts1_pruned (hp : c.partnerIs p posPruned = true) : ts1 p found w c = c.sendBlock p 0xA7 (c.tgtRate p) (c.tgtWidth p) 0 1 := by
  simp only [ts1, hb, if_pos hp]

variable (hp : c.partnerIs p posPruned = false)
include hp

theorem ts1_up (hs : c.laneState p = laneUp) : ts1 p found w c = (c.startRetrain p (tbRate b) 0).lanesFound p found := by
  simp only [ts1, hb, hp, Bool.false_eq_true, if_false, if_pos hs]

theorem ts1_parked (hs : c.laneState p = laneParked) : ts1 p found w c = c.setLane p { c.lane p with leave := true } := by
  have hup : c.laneState p ≠ laneUp := by rw [hs]; decide
  simp only [ts1, hb, hp, Bool.false_eq_true, if_false, if_neg hup, if_pos hs]

theorem ts1_attempt (hup : c.laneState p ≠ laneUp) (hpk : c.laneState p ≠ laneParked) (ha : (c.lane p).attempt ≠ .none) :
    ts1 p found w c = if 4 ≤ (c.lane p).step then (c.again p (max (c.wantRate p) (tbRate b))).lanesFound p found
      else c.lanesFound p found := by
  simp only [ts1, hb, hp, Bool.false_eq_true, if_false, if_neg hup, if_neg hpk, if_neg ha]

end TakenTs1

/-! ### TS2 (R58 steps 4 and 5) -/

theorem ts2_kept (h : blockOf 0xA2 w = none ∨ (c.lane p).step ≠ 4) : ts2 p w c = c := by
  unfold ts2
  obtain hb | hs := h
  · rw [hb]
  · split
    · rfl
    · exact if_pos hs

/-- The partner's lanes, HID and targets are taken from its TS2. -/
def partnerTaken (c : Chip) (p : TPort) (b : List Byte) : Chip :=
  (((c.put (TRK_PARTNER_P_HID p.num) (tbHid b)).put (TRK_PARTNER_P_RATE p.num) (tbRate b)).put (TRK_PARTNER_P_WIDTH p.num)
    (tbWidth b)).setLane p { c.lane p with partnerUsable := tbMask b, step := 5 }

theorem lane_partnerTaken (c : Chip) (p : TPort) (b : List Byte) :
    (partnerTaken c p b).lane p = { c.lane p with partnerUsable := tbMask b, step := 5 } := lane_setLane _ _ _

theorem partner_keys (p : TPort) : (TRK_PARTNER_P_HID p.num).key ≠ (TRK_PARTNER_P_RATE p.num).key
    ∧ (TRK_PARTNER_P_HID p.num).key ≠ (TRK_PARTNER_P_WIDTH p.num).key
    ∧ (TRK_PARTNER_P_RATE p.num).key ≠ (TRK_PARTNER_P_WIDTH p.num).key := by cases p <;> decide

theorem get_partnerTaken (c : Chip) (p : TPort) (b : List Byte) :
    (partnerTaken c p b).get (TRK_PARTNER_P_HID p.num) = tbHid b ∧ (partnerTaken c p b).get (TRK_PARTNER_P_RATE p.num) = tbRate b
      ∧ (partnerTaken c p b).get (TRK_PARTNER_P_WIDTH p.num) = tbWidth b := by
  obtain ⟨hhr, hhw, hrw⟩ := partner_keys p
  simp only [partnerTaken, setLane_get]
  refine ⟨?_, ?_, ?_⟩
  · rw [get_put_other _ _ _ _ hhw, get_put_other _ _ _ _ hhr, get_put_same]
    exact Nat.mod_eq_of_lt (bits_lt _ _ _)
  · rw [get_put_other _ _ _ _ hrw, get_put_same]
    exact Nat.mod_eq_of_lt (bits_lt _ _ _)
  · rw [get_put_same]
    exact Nat.mod_eq_of_lt (bits_lt _ _ _)

theorem ts2_step4 (hb : blockOf 0xA2 w = some b) (hs : (c.lane p).step = 4) :
    ts2 p w c = if p.leads = true then (partnerTaken c p b).decide3 p (min (popCount (c.lane p).usable 9) (popCount (tbMask b) 9))
      else partnerTaken c p b := by
  have hu : (c.lane p).usable = ((partnerTaken c p b).lane p).usable := by rw [lane_partnerTaken]
  rw [hu]
  simp only [ts2, hb, hs, ne_eq, not_true_eq_false, if_false]
  rfl

/-! ### TS3, TS4 and TS5 (R58 steps 5 to 8) -/

theorem ts3_follower (hb : blockOf 0xA3 w = some b) (hs : 5 ≤ (c.lane p).step) (hl : p.leads = false) :
    ts3 p w c = (((c.put (TRK_STAT_STATE p.num) laneVerify).setLane p { c.lane p with
      step := 6, rate := tbRate b, width := tbWidth b, fails := (c.lane p).failsAt (tbRate b), verdict := none,
      partnerVerdict := none }).sendBlock p 0xA3 (tbRate b) (tbWidth b) 0 0).sendZeros p := by
  simp only [ts3, hb, if_neg (Nat.not_lt.mpr hs), hl, Bool.false_eq_true, if_false]

theorem ts3_leader (hb : blockOf 0xA3 w = some b) (hs : (c.lane p).step = 5) (hl : p.leads = true) :
    ts3 p w c = ((c.put (TRK_STAT_STATE p.num) laneVerify).setLane p { c.lane p with step := 6 }).sendZeros p := by
  simp only [ts3, hb, hs, Nat.lt_irrefl, hl, if_true, if_false]
  rfl

theorem ts4_verdict (hb : blockOf 0xA4 w = some b) (hs : (c.lane p).step = 6 ∨ (c.lane p).step = 7) :
    ts4 p w c = ((c.setLane p { c.lane p with partnerVerdict := some (tbMask b) }).put (TRK_PARTNER_P_MASK p.num) (tbMask b)).conclude p := by
  have hn : ¬ ((c.lane p).step ≠ 6 ∧ (c.lane p).step ≠ 7) := fun ⟨h6, h7⟩ => hs.elim h6 h7
  simp only [ts4, hb, if_neg hn]

theorem ts5_follower {own partner : Nat} (hb : blockOf 0xA5 w = some b) (hl : p.leads = false) (hs : (c.lane p).step = 7)
    (ho : (c.lane p).verdict = some own) (hp : (c.lane p).partnerVerdict = some partner) :
    ts5 p w c = (c.setLane p { c.lane p with rate := tbRate b, width := tbWidth b }).goUp p own partner := by
  simp only [ts5, hb, ho, hp]
  exact if_neg (by simp [hl, hs])

end Blocks

/-- Settles O21, command by command: a lane signal by the lane and what the port shows of it, a block by whether it is a control block,
its TYPE and CHECK, the port's end of the link, its state and its step. -/
theorem laneSignalsAndTraining : Obligations.LaneSignalsAndTraining := by
  unfold Obligations.LaneSignalsAndTraining
  refine ⟨fun p s => ⟨exec_onChip (exec_losAssert 9 s) losAssert_clock, ?los, ?losEndClock, ?lol, ?lock, ?drift, ?hid, ?noBlock, ?request,
    fun h => exec_onChip exec_retrain (retrainWrite_parked h), fun h => exec_onChip exec_retrain (retrainWrite_other h),
    exec_onChip exec_park rfl, ?parkBlock⟩,
    fun p blk s => ⟨fun h => exec_onChip_same exec_trainingStart (trainingStart_refused h), ?start, ?noTraining,
      rxControl_not_control, fun w c hrx => ⟨?ts1, ?ts2Kept, ?ts2, ?ts3Follower, ?ts3Leader, ?ts4, ?ts5⟩⟩⟩
  case los =>
    intro lane hlt c hc
    have hl : lane.val ≠ 9 := Nat.ne_of_lt hlt
    exact ⟨fun h => exec_onChip (exec_losAssert lane s) (losAssert_unused hl hc h),
      fun hp hu hall => exec_onChip (exec_losAssert lane s) (losAssert_lastLane hl hc hp hu hall),
      fun hp hup hu hsome => exec_onChip (exec_losAssert lane s) (losAssert_oneOfSeveral hl hc hp hup hu hsome),
      exec_onChip (exec_losDeassert lane s) (losDeassert_data hl)⟩
  case losEndClock =>
    intro c hc
    refine ⟨fun h => exec_onChip (exec_losDeassert 9 s) ((losDeassert_clock hc).trans (if_neg ?_)),
      fun hu hr => exec_onChip (exec_losDeassert 9 s) ((losDeassert_clock hc).trans (if_pos ⟨hu, hr⟩))⟩
    rintro ⟨hu, hr⟩
    obtain h | h := h
    · exact Bool.false_ne_true (h.symm.trans hu)
    · exact h hr
  case lol =>
    exact fun out => ⟨fun h => exec_onChip_same (exec_lol out s) (lolAssert_noClock h),
      fun h => exec_onChip (exec_lol out s) (lolAssert_measured h)⟩
  case lock =>
    rintro lane bad _ d rfl hd
    refine ⟨fun h => exec_onChip (exec_lockLost lane bad s) (lockLost_few h),
      fun h hno => exec_onChip (exec_lockLost lane bad s) ((lockLost_many h hd).trans (if_neg ?_)),
      fun h hup hu => exec_onChip (exec_lockLost lane bad s) ((lockLost_many h hd).trans (if_pos ⟨hup, hu⟩))⟩
    rintro ⟨hup, hu⟩
    obtain h | h := hno
    · exact h hup
    · exact Bool.false_ne_true (h.symm.trans hu)
  case drift =>
    exact fun lane later => ⟨fun h => exec_onChip_same (exec_driftTrack lane later s) (driftTrack_off h),
      fun h => exec_onChip (exec_driftTrack lane later s) (driftTrack_on h)⟩
  case hid =>
    intro hid
    have hboot : (hidChanged hid s.chip).boot.hid = hid := by rw [hidChanged_boot]
    exact ⟨_, exec_hidChanged hid s, hboot, congrArg some hboot, rfl, hidChanged_lanes hid s.chip⟩
  case noBlock =>
    exact fun blk c hrx => ⟨exec_onBlock_none exec_retrainRequest hrx, exec_onBlock_none exec_parkBlock hrx⟩
  case request =>
    exact fun blk w b c hrx hb => ⟨fun hl => exec_onBlock exec_retrainRequest hrx (retrainRequest_follower hb hl),
      fun hl ha => exec_onBlock exec_retrainRequest hrx (retrainRequest_collision hb hl ha),
      fun hl ha hup => exec_onBlock exec_retrainRequest hrx (retrainRequest_starts hb hl ha hup)⟩
  case parkBlock =>
    intro blk w b c hrx hb
    refine ⟨fun ht => exec_onBlock exec_parkBlock hrx (parkBlock_off hb ht),
      fun ht hs => exec_onBlock exec_parkBlock hrx (parkBlock_parked hb ht hs), ?_, ?_⟩
    · rintro _ e rfl he ht hs hno
      refine exec_onBlock exec_parkBlock hrx ((parkBlock_parks hb ht hs he rfl).trans ?_)
      have hdorm : parksDormant c p b = false := by
        obtain h | h | h := hno <;> simp [parksDormant, h]
      rw [hdorm]
      rfl
    · rintro _ e rfl he ht hs hseen hr hm
      refine exec_onBlock exec_parkBlock hrx ((parkBlock_parks hb ht hs he rfl).trans ?_)
      have hdorm : parksDormant c p b = true := by simp [parksDormant, hseen, hr, hm]
      rw [if_pos hdorm]
  case start =>
    exact fun hm hw c hc => ⟨fun ht => exec_onChip exec_trainingStart (trainingStart_first hm hw hc ht),
      fun r n ht => exec_onChip exec_trainingStart (trainingStart_pending hm hw hc ht)⟩
  case noTraining =>
    rintro c found hrx i (rfl | rfl | rfl | rfl | rfl)
    · exact exec_onBlock_none exec_ts1 hrx
    · exact exec_onBlock_none exec_ts2 hrx
    · exact exec_onBlock_none exec_ts3 hrx
    · exact exec_onBlock_none exec_ts4 hrx
    · exact exec_onBlock_none exec_ts5 hrx
  case ts1 =>
    exact fun found => ⟨fun hb => exec_onBlock exec_ts1 hrx (ts1_none hb), fun b hb =>
      ⟨fun hp => exec_onBlock exec_ts1 hrx (ts1_pruned hb hp), fun hp hs => exec_onBlock exec_ts1 hrx (ts1_up hb hp hs),
        fun hp hs => exec_onBlock exec_ts1 hrx (ts1_parked hb hp hs),
        fun hp hup hpk ha => exec_onBlock exec_ts1 hrx (ts1_attempt hb hp hup hpk ha)⟩⟩
  case ts2Kept => exact fun h => exec_onBlock exec_ts2 hrx (ts2_kept h)
  case ts2 =>
    intro b hb hs
    obtain ⟨hhid, hrate, hwidth⟩ := get_partnerTaken c p b
    exact ⟨_, lane_partnerTaken c p b, hhid, hrate, hwidth, exec_onBlock exec_ts2 hrx (ts2_step4 hb hs)⟩
  case ts3Follower => exact fun b hb hs hl => exec_onBlock exec_ts3 hrx (ts3_follower hb hs hl)
  case ts3Leader => exact fun b hb hs hl => exec_onBlock exec_ts3 hrx (ts3_leader hb hs hl)
  case ts4 => exact fun b hb hs => exec_onBlock exec_ts4 hrx (ts4_verdict hb hs)
  case ts5 => exact fun b own partner hb hl hs ho hp => exec_onBlock exec_ts5 hrx (ts5_follower hb hl hs ho hp)

end Sys2Proof.Proofs

/-! SUPPORT. The link timers, FORCE_INIT, the verdict and the choice at a flit boundary (spec/03_trunk_link_layer.md R84, R86, R87, R95,
R96, R98, R101, R102, R105, R106, R110): what each command does to the chip, case by case. -/

namespace Sys2Proof.Proofs
open Sys2Proof Sys2Proof.Machine Sys2Proof.Machine.Reg Sys2Proof.Laws

section LinkTimers
variable {p : TPort} {ecc : EccFind} {c d : Chip} {s : State}

theorem exec_flitTransmit : exec (.flitTransmit p ecc) s = s.onChip (flitTransmit p ecc) := rfl
theorem exec_holdInt : exec (.holdInt p) s = s.onChip (holdInt p) := rfl
theorem exec_handshakeRepeat : exec (.handshakeRepeat p) s = s.onChip (handshakeRepeat p) := rfl
theorem exec_handshakeTmo : exec (.handshakeTmo p) s = s.onChip (handshakeTmo p) := rfl
theorem exec_replayTmo : exec (.replayTmo p) s = s.onChip (fun c => c.startReplay p) := rfl
theorem exec_nakTmo : exec (.nakTmo p) s = s.onChip (nakTmo p) := rfl
theorem exec_creditTmo (v : Fin 4) : exec (.creditTmo p v) s = s.onChip (creditTmo p v) := rfl
theorem exec_forceInit : exec (.forceInit p) s = s.onChip (forceInit p) := rfl
theorem exec_flitTxLo (rx : Bool) : exec (.flitTxLo p rx) s = s.onChip (flitTxLo p rx) := rfl
theorem exec_crcVerdict : exec (.crcVerdict p) s = s.onChip (crcVerdict p) := rfl
theorem exec_heldCellRetry (ing : Fin 16) : exec (.heldCellRetry ing) s = s.onChip (heldRetry ing) := rfl

/-! ### A new cell at a flit boundary (R79, R92, R106 item 4, R193) -/

/-- A port at which a new cell may go: its link is Active and its replay buffer has room (R80, R81). -/
def TakesNew (c : Chip) (p : TPort) : Prop := ¬ ((c.link p).state ≠ .active ∨ 512 ≤ (c.link p).replay.length)

theorem takesNew_of_active (ha : (c.link p).state = .active) (hr : (c.link p).replay.length < 512) : TakesNew c p :=
  not_or.mpr ⟨not_not.mpr ha, Nat.not_le.mpr hr⟩

theorem sendNew_closed (h : (c.link p).state ≠ .active ∨ 512 ≤ (c.link p).replay.length) : c.sendNew p ecc = c.sendIdle p := if_pos h

theorem sendNew_cut {x : Cell} {rest : List (Cell × Option Bool)} (h : TakesNew c p) (hcut : (c.link p).cut = (x, some true) :: rest) :
    c.sendNew p ecc = if (c.link p).avail (vcOf x.tc) = 0 ∨ c.gateLeft p.num x.tc < c.flitTime p.num then c.sendIdle p
      else (c.setLink p { c.link p with cut := rest }).newCell p x := by
  simp only [Chip.sendNew, if_neg h, hcut]

theorem sendNew_poisoned {x : Cell} {rest : List (Cell × Option Bool)} (h : TakesNew c p)
    (hcut : (c.link p).cut = (x, some false) :: rest) :
    c.sendNew p ecc = (c.setLink p { c.link p with cut := rest }).sendFlit p (vcOf x.tc) 0 x.toBytes (c.link p).next true := by
  simp only [Chip.sendNew, if_neg h, hcut]

/-- The scheduler's choice at a flit boundary: a queue that may go and whose VC has credit (R92, R106). -/
def chosen (c : Chip) (p : TPort) : Option Nat × Chip :=
  c.select p.num (fun q => c.eligible p.num q (c.flitTime p.num) && decide (0 < (c.link p).avail (vcOf (q / 8)))) (fun _ => 128)

theorem sendNew_noneChosen (h : TakesNew c p) (hcut : (c.link p).cut = []) (hq : (chosen c p).1 = none) :
    c.sendNew p ecc = (chosen c p).2.sendIdle p := by
  unfold chosen at hq ⊢
  simp only [Chip.sendNew, if_neg h, hcut, hq]

theorem sendNew_chosen {q : Nat} (h : TakesNew c p) (hcut : (c.link p).cut = []) (hq : (chosen c p).1 = some q) :
    c.sendNew p ecc = (chosen c p).2.sendStored p q ecc := by
  unfold chosen at hq ⊢
  simp only [Chip.sendNew, if_neg h, hcut, hq]

/-! ### The order of a flit boundary (R106) -/

theorem flitTransmit_closed (h : c.laneState p ≠ laneUp ∨ (c.link p).state = .down) : flitTransmit p ecc c = c := if_pos h

theorem flitTransmit_beacon (h : TakesFlits c p) (hb : c.beaconReady p = true) :
    flitTransmit p ecc c = ((c.setLink p { c.link p with beaconDue := false }).sendFlit p 3 2 (c.beaconBytes p) (c.link p).nextSeq
      false).beaconSent p := (if_neg h).trans (if_pos hb)

/-- A flit boundary that neither the port's state nor a beacon decides. -/
def BoundaryOpen (c : Chip) (p : TPort) : Prop := TakesFlits c p ∧ ¬ c.beaconReady p = true

theorem flitTransmit_nak {x : Nat} {rest : List Ctl} (h : BoundaryOpen c p) (hctl : (c.link p).ctl = .nak x :: rest) :
    flitTransmit p ecc c = ((c.setLink p { c.link p with ctl := rest }).inc (LNK_NAK_TX p.num)).sendFlit p 0 1 (Ctl.nak x).bytes
      (c.link p).nextSeq false := by
  rw [flitTransmit, if_neg h.1, if_neg h.2, hctl]
  rfl

theorem flitTransmit_hold {m : Nat} {rest : List Ctl} (h : BoundaryOpen c p) (hctl : (c.link p).ctl = .hold m :: rest) :
    flitTransmit p ecc c = (c.setLink p { c.link p with ctl := rest }).sendFlit p 0 1 (Ctl.hold m).bytes (c.link p).nextSeq false := by
  rw [flitTransmit, if_neg h.1, if_neg h.2, hctl]
  rfl

/-- A handshake message goes with sequence number 0 (R76). -/
theorem flitTransmit_handshake {x : Ctl} {rest : List Ctl} (h : BoundaryOpen c p) (hctl : (c.link p).ctl = x :: rest)
    (hx : x.isHandshake = true) :
    flitTransmit p ecc c = (c.setLink p { c.link p with ctl := rest }).sendFlit p 0 1 x.bytes 0 false := by
  rw [flitTransmit, if_neg h.1, if_neg h.2, hctl]
  cases x with
  | init | resume => rfl
  | nak | hold | spare => cases hx

theorem flitTransmit_replay {q : Nat} {x : Cell} (h : BoundaryOpen c p) (hctl : (c.link p).ctl = []) (hat : (c.link p).replayAt = some q)
    (hfind : (c.link p).replay.find? (fun e => e.1 == q) = some (q, x)) :
    flitTransmit p ecc c = ((c.setLink p { c.link p with
      replayAt := if (q + 1) % 4096 = (c.link p).next then none else some ((q + 1) % 4096)
      }).inc (LNK_REPLAY_FLITS p.num)).sendCell p x q := by
  simp only [flitTransmit, if_neg h.1, if_neg h.2, hctl, hat, hfind]

theorem flitTransmit_new (h : BoundaryOpen c p) (hctl : (c.link p).ctl = []) (hat : (c.link p).replayAt = none) :
    flitTransmit p ecc c = c.sendNew p ecc := by
  simp only [flitTransmit, if_neg h.1, if_neg h.2, hctl, hat]

/-! ### HOLD_INT (R95) -/

/-- The VCs with no free receive buffer, as a HOLD names them. -/
def fullVcs (l : LinkPort) : Nat :=
  b2n (decide (l.freeBuffers.v0 = 0)) + 2 * b2n (decide (l.freeBuffers.v1 = 0)) + 4 * b2n (decide (l.freeBuffers.v2 = 0))
    + 8 * b2n (decide (l.freeBuffers.v3 = 0))

theorem holdInt_full (hm : fullVcs (c.link p) ≠ 0) (hs : (c.link p).state ≠ .down) :
    holdInt p c = c.sendCtl p (.hold (fullVcs (c.link p))) := if_neg (not_or.mpr ⟨hm, hs⟩)

theorem holdInt_free (hm : fullVcs (c.link p) = 0) : holdInt p c = c := if_pos (.inl hm)

/-! ### The handshake, FORCE_INIT and NAK_TMO (R84, R101, R102, R105) -/

/-- The link's handshake is under way. -/
def Handshakes (c : Chip) (p : TPort) : Prop := (c.link p).state = .init ∨ (c.link p).state = .resume

theorem not_handshakes_of_active (h : (c.link p).state = .active) : ¬ Handshakes c p := by simp [Handshakes, h]

theorem handshakeRepeat_unfinished (h : Handshakes c p) :
    handshakeRepeat p c = c.setLink p { c.link p with
      ctl := (c.link p).ctl.filter (fun x => !x.isHandshake) ++ [(c.link p).handshake] } := if_pos h
theorem handshakeRepeat_over (h : ¬ Handshakes c p) : handshakeRepeat p c = c := if_neg h
theorem handshakeTmo_unfinished (h : Handshakes c p) : handshakeTmo p c = c.linkBroken p 3 := if_pos h
theorem handshakeTmo_over (h : ¬ Handshakes c p) : handshakeTmo p c = c := if_neg h

theorem forceInit_down (h : (c.link p).state = .down) : forceInit p c = c := if_pos h
theorem forceInit_linked (h : (c.link p).state ≠ .down) : forceInit p c = (c.enterInit p).reviewService p := if_neg h

theorem nakTmo_waiting (hw : (c.link p).rxWait = true) (hs : (c.link p).state ≠ .down) :
    nakTmo p c = c.sendCtl p (.nak (c.link p).expect) := if_pos ⟨hw, hs⟩
theorem nakTmo_notWaiting (hw : (c.link p).rxWait = false) : nakTmo p c = c := if_neg (by simp [hw])

/-! ### A credit timeout (R96, R98) -/

/-- A VC that has stalled for want of credit: cells wait on it, no credit is left, and no HOLD names it. -/
def Stalls (c : Chip) (p : TPort) (v : Nat) : Prop :=
  ¬ ((c.link p).state ≠ .active ∨ 0 < (c.link p).avail v ∨ c.vcWaits p v = false ∨ c.heldBy p v = true)

theorem stalls_of_noCredit {v : Nat} (ha : (c.link p).state = .active) (hv : (c.link p).avail v = 0) (hw : c.vcWaits p v = true)
    (hh : c.heldBy p v = false) : Stalls c p v := by
  simp [Stalls, ha, hv, hw, hh]

theorem creditTmo_noStall {v : Nat}
    (h : (c.link p).state ≠ .active ∨ 0 < (c.link p).avail v ∨ c.vcWaits p v = false ∨ c.heldBy p v = true) :
    creditTmo p v c = c := if_pos h

theorem creditTmo_strict {v : Nat} (h : Stalls c p v) (hd : d = c.inc (LNK_CREDIT_STALL_CNT p.num)) (hs : d.strict p = true) :
    creditTmo p v c = d.linkBroken p 2 := by
  subst hd
  exact (if_neg h).trans (if_pos hs)

theorem creditTmo_service {v : Nat} (h : Stalls c p v) (hd : d = c.inc (LNK_CREDIT_STALL_CNT p.num)) (hs : d.strict p = false) :
    creditTmo p v c = if (d.evt (LNK_EVT_CREDIT_STALL p.num)).on (LNK_CTL_AUDIT_ON_STALL p.num) = true then
      (d.evt (LNK_EVT_CREDIT_STALL p.num)).askRetrain p 4 else d.evt (LNK_EVT_CREDIT_STALL p.num) := by
  subst hd
  exact (if_neg h).trans (if_neg (by simp [hs]))

/-! ### The verdict (R78, R170, R171) -/

theorem crcVerdict_noCell (h : (c.link p).inflight = []) : crcVerdict p c = c := by simp only [crcVerdict, h]

/-- The oldest cell received leaves the list of those without a verdict. -/
def verdictTaken (c : Chip) (p : TPort) (rest : List InFlight) : Chip := c.setLink p { c.link p with inflight := rest }

theorem crcVerdict_stored {x : InFlight} {rest : List InFlight} (h : (c.link p).inflight = x :: rest) (hx : x.cut = none) :
    crcVerdict p c = if x.accepted = true then (verdictTaken c p rest).linkStored p x else (verdictTaken c p rest).giveUp x.blk := by
  simp only [crcVerdict, h, hx]
  rfl

/-- The cell cut through to port `q` takes its verdict there. -/
def cutDecided (u : Chip) (q : TPort) (x : InFlight) : Chip :=
  u.setLink q { u.link q with cut := decideCut (u.link q).cut x.cell x.accepted }

/-- A cell cut through to port `q` waits there for its verdict: the port has not gone down and flushed it. -/
def cutWaits (u : Chip) (q : TPort) (x : InFlight) : Bool := (u.link q).cut.any (fun e => e.1 == x.cell && e.2.isNone)

theorem crcVerdict_cut {x : InFlight} {rest : List InFlight} {q : TPort} {u : Chip} (h : (c.link p).inflight = x :: rest)
    (hx : x.cut = some q) (hu : u = verdictTaken c p rest) :
    crcVerdict p c = if x.accepted = true then (((cutDecided u q x).countIn p.num).countKept x.cell).freeRx p x.vc
      else if cutWaits u q x = true then ((cutDecided u q x).inc SWX_POISON_CNT).evt SWX_EVT_POISON else cutDecided u q x := by
  subst hu
  simp only [crcVerdict, h, hx]
  rfl

/-! ### Held cells (R167) -/

/-- What the retry does at every ingress: its held cells, the rings bound to it, its endpoint's cells and the clusters. -/
def heldOffered (c : Chip) (ing : Nat) : Chip :=
  (((List.range 64).foldl (fun (x : Chip) r => if x.get (BCH_RING_PORT r) = ing then x.pump r else x)
    (c.retryHeld ing)).retryEnds ing).pumpClusters

theorem heldRetry_other {ing : Nat} (hd : d = heldOffered c ing) (h : ing ≠ 12) : heldRetry ing c = d := by
  rw [hd]
  exact if_neg h

theorem heldRetry_p12 {ing : Nat} (hd : d = heldOffered c ing) (h : ing = 12) :
    heldRetry ing c = ((d.pumpT0).retryOutgoing).retryEth := by
  rw [hd]
  exact if_pos h

end LinkTimers

/-- Settles O24, command by command: a flit boundary by what waits at the port in the order of R106, each timer by the link's state, the
verdict by the path of the cell and its acceptance, the held cells by their ingress. -/
theorem linkTimersAndFlitBoundary : Obligations.LinkTimersAndFlitBoundary := by
  unfold Obligations.LinkTimersAndFlitBoundary
  rintro p s _ rfl
  refine ⟨fun h _ => exec_onChip_same exec_flitTransmit (flitTransmit_closed h), ?boundary,
    fun hl hs hb _ => exec_onChip exec_flitTransmit (flitTransmit_beacon (takesFlits_of_up hl hs) hb), ?holdInt,
    fun h => ⟨exec_onChip exec_handshakeRepeat (handshakeRepeat_unfinished h),
      exec_onChip exec_handshakeTmo (handshakeTmo_unfinished h)⟩,
    fun h => ⟨exec_onChip_same exec_handshakeRepeat (handshakeRepeat_over (not_handshakes_of_active h)),
      exec_onChip_same exec_handshakeTmo (handshakeTmo_over (not_handshakes_of_active h))⟩,
    exec_onChip exec_replayTmo rfl, fun hw hs => exec_onChip exec_nakTmo (nakTmo_waiting hw hs),
    fun hw => exec_onChip_same exec_nakTmo (nakTmo_notWaiting hw),
    fun v => ⟨fun h => exec_onChip_same (exec_creditTmo v) (creditTmo_noStall h), ?stall⟩,
    fun h => exec_onChip_same exec_forceInit (forceInit_down h), fun h => exec_onChip exec_forceInit (forceInit_linked h),
    exec_onChip (exec_flitTxLo false) rfl, exec_onChip (exec_flitTxLo true) rfl,
    fun h => exec_onChip_same exec_crcVerdict (crcVerdict_noCell h), ?stored, ?cut, ?held⟩
  case boundary =>
    intro hl hs hb ecc
    have hopen : BoundaryOpen s.chip p := ⟨takesFlits_of_up hl hs, Bool.eq_false_iff.mp hb⟩
    have hnew {d : Chip} (hctl : (s.chip.link p).ctl = []) (hat : (s.chip.link p).replayAt = none) (hd : s.chip.sendNew p ecc = d) :
        exec (.flitTransmit p ecc) s = .next { s with chip := d } :=
      exec_onChip exec_flitTransmit ((flitTransmit_new hopen hctl hat).trans hd)
    refine ⟨fun m rest hctl => exec_onChip exec_flitTransmit (flitTransmit_hold hopen hctl),
      fun x rest hctl => exec_onChip exec_flitTransmit (flitTransmit_nak hopen hctl),
      fun q x hctl hat hfind => exec_onChip exec_flitTransmit (flitTransmit_replay hopen hctl hat hfind),
      fun hctl hat h => hnew hctl hat (sendNew_closed h),
      fun x rest hctl hx => exec_onChip exec_flitTransmit (flitTransmit_handshake hopen hctl hx),
      fun x rest hctl hat ha hr hcut => hnew hctl hat (sendNew_cut (takesNew_of_active ha hr) hcut),
      fun x rest hctl hat ha hr hcut => hnew hctl hat (sendNew_poisoned (takesNew_of_active ha hr) hcut), ?_⟩
    rintro _ hctl hat ha hr hcut rfl
    exact ⟨fun hq => hnew hctl hat (sendNew_noneChosen (takesNew_of_active ha hr) hcut hq),
      fun q hq => hnew hctl hat (sendNew_chosen (takesNew_of_active ha hr) hcut hq)⟩
  case holdInt =>
    rintro _ rfl
    exact ⟨fun hm hs => exec_onChip exec_holdInt (holdInt_full hm hs), fun hm => exec_onChip_same exec_holdInt (holdInt_free hm)⟩
  case stall =>
    intro c hc ha hv hw hh
    have hstall := stalls_of_noCredit ha hv hw hh
    exact ⟨fun hs => exec_onChip (exec_creditTmo v) (creditTmo_strict hstall hc hs),
      fun hs hoff => exec_onChip (exec_creditTmo v) ((creditTmo_service hstall hc hs).trans (if_neg (Bool.eq_false_iff.mp hoff))),
      fun hs hon => exec_onChip (exec_creditTmo v) ((creditTmo_service hstall hc hs).trans (if_pos hon))⟩
  case stored =>
    rintro x rest _ h hx rfl
    exact ⟨fun ha => exec_onChip exec_crcVerdict ((crcVerdict_stored h hx).trans (if_pos ha)),
      fun ha => exec_onChip exec_crcVerdict ((crcVerdict_stored h hx).trans (if_neg (Bool.eq_false_iff.mp ha)))⟩
  case cut =>
    rintro x rest q u _ h hx hu rfl
    have hverdict := crcVerdict_cut h hx hu
    refine ⟨fun ha => exec_onChip exec_crcVerdict (hverdict.trans (if_pos ha)), fun ha hthere => ?_, fun ha hgone => ?_⟩
    · exact exec_onChip exec_crcVerdict (hverdict.trans ((if_neg (Bool.eq_false_iff.mp ha)).trans (if_pos hthere)))
    · exact exec_onChip exec_crcVerdict (hverdict.trans ((if_neg (Bool.eq_false_iff.mp ha)).trans (if_neg (Bool.eq_false_iff.mp hgone))))
  case held =>
    exact fun ing c hc => ⟨fun h => exec_onChip (exec_heldCellRetry ing) (heldRetry_other hc h),
      fun h => exec_onChip (exec_heldCellRetry ing) (heldRetry_p12 hc h)⟩

end Sys2Proof.Proofs

/-! SUPPORT. TRELLIS orders (spec/04_braid_and_graft.md R133 to R135) and received ledger records (spec/23_in_service_repair.md R557,
R559): what an order answers by the checks of its body, and what a record must have to be stored. -/

namespace Sys2Proof.Proofs
open Sys2Proof Sys2Proof.Machine Sys2Proof.Machine.Reg Sys2Proof.Laws

section TrellisOrders
variable {c : Chip} {id : SlotId} {body : List Byte} {refuse : Nat → Nat → Bool}

/-! ### A TRELLIS order at a node (R133) -/

theorem trellisOrder_notHead (h : c.headDuty = false) : c.trellisOrder id body refuse = c.docketReady id stRefused [] := if_pos h

theorem trellisOrder_badArgs (h : c.headDuty = true)
    (hbad : trellisBodyOk body = false ∨ rd body 4 2 < rd body 2 2 ∨ (rd body 0 1 = 3 ∧ rd body 4 2 ≠ rd body 2 2)) :
    c.trellisOrder id body refuse = c.docketReady id stBadArgs [] :=
  (if_neg (by simp [h])).trans (if_pos hbad)

/-- The body of a TRELLIS order that is not BAD_ARGS. -/
def TrellisBodyTaken (body : List Byte) : Prop :=
  trellisBodyOk body = true ∧ rd body 2 2 ≤ rd body 4 2 ∧ (rd body 0 1 = 3 → rd body 4 2 = rd body 2 2)

theorem not_badArgs_of_taken (h : TrellisBodyTaken body) :
    ¬ (trellisBodyOk body = false ∨ rd body 4 2 < rd body 2 2 ∨ (rd body 0 1 = 3 ∧ rd body 4 2 ≠ rd body 2 2)) := by
  obtain ⟨hok, hle, hone⟩ := h
  rintro (hbad | hlt | ⟨hact, hne⟩)
  · exact Bool.false_ne_true (hbad.symm.trans hok)
  · exact Nat.not_lt.mpr hle hlt
  · exact hne (hone hact)

theorem trellisOrder_refused (h : c.headDuty = true) (hbody : TrellisBodyTaken body)
    (hr : refuse (rd body 2 2) (rd body 4 2) = true) : c.trellisOrder id body refuse = c.docketReady id stRefused [] :=
  (if_neg (by simp [h])).trans ((if_neg (not_badArgs_of_taken hbody)).trans (if_pos hr))

theorem trellisOrder_done (h : c.headDuty = true) (hbody : TrellisBodyTaken body)
    (hr : ¬ refuse (rd body 2 2) (rd body 4 2) = true) :
    c.trellisOrder id body refuse
      = ((c.countChange.trellisAct (rd body 0 1) (rd body 2 2) (rd body 4 2) (rd body 8 16)).announce (rd body 0 1) (rd body 2 2)
          (rd body 4 2) 0 (if rd body 0 1 = 3 then slice body 8 16 else [])).docketReady id stDone [] :=
  (if_neg (by simp [h])).trans ((if_neg (not_badArgs_of_taken hbody)).trans (if_neg hr))

/-! ### The three commands (R133, R134) -/

/-- A prune alone is refused for its run: where the run holds the serving head's position, or would split the row without FORCE. -/
def trellisRefuses (act : Nat) (c : Chip) (body : List Byte) (first last : Nat) : Bool :=
  act == 2 && ((decide (first ≤ c.get BRD_STAT_POS) && decide (c.get BRD_STAT_POS ≤ last))
    || (!bit (rd body 1 1) 0 && c.wouldSplit first last))

theorem trellisRefuses_iff {act first last : Nat} :
    trellisRefuses act c body first last = true ↔ act = 2
      ∧ ((first ≤ c.get BRD_STAT_POS ∧ c.get BRD_STAT_POS ≤ last) ∨ (bit (rd body 1 1) 0 = false ∧ c.wouldSplit first last = true)) := by
  simp [trellisRefuses]

theorem not_trellisRefuses {act first last : Nat}
    (h : act = 2 → ¬(first ≤ c.get BRD_STAT_POS ∧ c.get BRD_STAT_POS ≤ last)
      ∧ (bit (rd body 1 1) 0 = true ∨ c.wouldSplit first last = false)) :
    ¬ trellisRefuses act c body first last = true := by
  rw [trellisRefuses_iff]
  rintro ⟨hact, hhead | ⟨hforce, hsplit⟩⟩
  · exact (h hact).1 hhead
  · obtain ⟨-, hf | hs⟩ := h hact
    · exact Bool.false_ne_true (hforce.symm.trans hf)
    · exact Bool.false_ne_true (hs.symm.trans hsplit)

theorem exec_trellis {i : Instr} {act : Nat} {o : Order} {s : State}
    (hi : (i = .trellisAdmit id ∧ act = 1) ∨ (i = .trellisPrune id ∧ act = 2) ∨ (i = .trellisOverride id ∧ act = 3))
    (h : s.chip.starts id 0x50 (actionIs act) o) {d : Chip}
    (hd : (s.chip.orderBegun id o).trellisOrder id (o.bytes.drop 16) (trellisRefuses act (s.chip.orderBegun id o) (o.bytes.drop 16)) = d) :
    exec i s = .next { s with chip := d } := by
  obtain ⟨rfl, rfl⟩ | ⟨rfl, rfl⟩ | ⟨rfl, rfl⟩ := hi
  · exact exec_onChip (f := trellisAdmit id) rfl ((startOrder_runs h _).trans hd)
  · exact exec_onChip (f := trellisPrune id) rfl ((startOrder_runs h _).trans hd)
  · exact exec_onChip (f := trellisOverride id) rfl ((startOrder_runs h _).trans hd)

end TrellisOrders

section LedgerRecords
variable {c d : Chip} {n q k : Nat} {r : List Byte}

/-! ### The store of a record (R554, R557) -/

@[simp] theorem boot_rewriteDir (c : Chip) (f : List FlashEntry → List FlashEntry) : (c.rewriteDir f).boot = c.boot := by
  unfold Chip.rewriteDir
  dsimp only
  split_ifs <;> rfl

@[simp] theorem boot_saveLedger (c : Chip) : c.saveLedger.boot = c.boot := by
  simp [Chip.saveLedger, Chip.showLedger]

@[simp] theorem boot_clearMarks (c : Chip) (q : Nat) : (c.clearMarks q).boot = c.boot := rfl

theorem ledger_storeRecord (h : c.ledgerSlot q = some k) (r : List Byte) :
    (c.storeRecord q r).boot.ledger = mset [] c.boot.ledger k r := by
  simp only [Chip.storeRecord, h]
  split_ifs <;> simp

/-! ### A record that fits (R557, R559) -/

theorem recordFits_iff : c.recordFits n r = true ↔ recShaped r = true ∧ recNode r / 1024 = c.get BRD_STAT_ROW
    ∧ (c.ledgerSlot (recPos r)).isSome = true ∧ c.recordLater r = true
    ∧ (c.fromSponsor n r = true ∨ (n = recNode r ∧ (c.openRecord r).isSome = true)) := by
  simp only [Chip.recordFits, Bool.and_eq_true, Bool.or_eq_true, decide_eq_true_eq, and_assoc]

theorem recordLater_held {held : List Byte} (h : c.record (recPos r) = some held) :
    c.recordLater r = true ↔ (recGen r + 2 ^ 32 - recGen held) % 2 ^ 32 ≠ 0 ∧ (recGen r + 2 ^ 32 - recGen held) % 2 ^ 32 < 2 ^ 31 := by
  simp only [Chip.recordLater, h, decide_eq_true_eq]

/-! ### LEDGER (R557) -/

theorem exec_ledger (node : BitVec 16) (r : List Byte) (s : State) : exec (.ledger node r) s = s.onChip (ledgerIn node.toNat r) := rfl

theorem ledgerIn_notTaken (h : c.absent = true ∨ (c.boot.porter = false ∧ c.fromSponsor n r = false)) : ledgerIn n r c = c := if_pos h

/-- A LEDGER message is looked at: no rewrite is under way, and Porter runs or the record is the own one from the sponsor. -/
def TakesLedger (c : Chip) (n : Nat) (r : List Byte) : Prop :=
  c.absent = false ∧ (c.boot.porter = true ∨ c.fromSponsor n r = true)

theorem ledgerIn_taken (h : TakesLedger c n r) (hd : d = c.dropInbox n (message 8 0 r)) :
    ledgerIn n r c = if d.recordFits n r then
        (if c.fromSponsor n r = true then (d.storeRecord (recPos r) r).applyOwn else d.storeRecord (recPos r) r).evt REP_EVT_LEDGER_RX
      else (d.inc REP_LEDGER_BAD_CNT).evt REP_EVT_LEDGER_BAD := by
  obtain ⟨hpresent, htaken⟩ := h
  subst hd
  refine if_neg ?_
  rintro (habsent | ⟨hporter, hown⟩)
  · exact Bool.false_ne_true (hpresent.symm.trans habsent)
  · simp [hporter, hown] at htaken

theorem get_ledgerBad (c : Chip) : ((c.inc REP_LEDGER_BAD_CNT).evt REP_EVT_LEDGER_BAD).get REP_LEDGER_BAD_CNT
    = min (c.get REP_LEDGER_BAD_CNT + 1) (2 ^ REP_LEDGER_BAD_CNT.width - 1) :=
  (get_evt_other _ _ _ (by unfold outsideLog; decide) (by decide)).trans (get_inc_same _ _)

end LedgerRecords

/-- Settles O35: an order by the checks of its body in the order of R133 and R134, a LEDGER message by whether it is taken and its
record fits. -/
theorem trellisOrdersAndLedgerRecords : Obligations.TrellisOrdersAndLedgerRecords := by
  unfold Obligations.TrellisOrdersAndLedgerRecords
  refine ⟨?orders, fun node r s => ⟨fun h => exec_onChip_same (exec_ledger node r s) (ledgerIn_notTaken h), ?taken, ?fits, ?stored⟩⟩
  case orders =>
    rintro id s i _ o _ _ _ _ hi hs rfl rfl rfl rfl rfl
    refine ⟨fun hd => exec_trellis hi hs (trellisOrder_notHead hd), fun hd => ⟨fun hbad => ?_, fun hok hle hact hr => ?_,
      fun hok hle hone hr => ?_⟩⟩
    · exact exec_trellis hi hs (trellisOrder_badArgs hd hbad)
    · exact exec_trellis hi hs (trellisOrder_refused hd ⟨hok, hle, by simp [hact]⟩ (trellisRefuses_iff.mpr ⟨hact, hr⟩))
    · exact exec_trellis hi hs (trellisOrder_done hd ⟨hok, hle, hone⟩ (not_trellisRefuses hr))
  case taken =>
    intro hpresent htaken c hc
    have hin := ledgerIn_taken ⟨hpresent, htaken⟩ hc
    refine ⟨fun h => exec_onChip (exec_ledger node r s) (hin.trans (if_pos h)),
      fun h => ⟨exec_onChip (exec_ledger node r s) (hin.trans (if_neg (Bool.eq_false_iff.mp h))), ?_, get_ledgerBad c⟩⟩
    rw [evt_boot, inc_boot]
  case fits =>
    intro c n h
    obtain ⟨hshape, hrow, hslot, hlater, hsource⟩ := recordFits_iff.mp h
    exact ⟨hshape, hrow, hslot, hsource, fun _ hh => (recordLater_held hh).mp hlater⟩
  case stored =>
    intro c q k hk
    rw [ledger_storeRecord hk, mget_mset_same]

end Sys2Proof.Proofs

/-! SUPPORT. Notices received (spec/04_braid_and_graft.md R118, R119, R123, R138, R617): which of them the braid logic takes, and what
one that is taken does by its type. -/

namespace Sys2Proof.Proofs
open Sys2Proof Sys2Proof.Machine Sys2Proof.Machine.Reg Sys2Proof.Laws

section Notices
variable {p : TPort} {cell : Cell} {c d : Chip} {s : State} {i : Instr} {k : Nat} {f : Chip → List Byte → Chip}

/-! ### Which notices are taken (R123, R138) -/

/-- A cell is a notice of a type, and it is for this node or SNOOP_EN lets it be read in passing. -/
def Hears (c : Chip) (cell : Cell) (k : Nat) : Prop :=
  isNotice cell k = true ∧ (c.get BRD_CTL_SNOOP_EN ≠ 0 ∨ cell.dest = c.node)

/-- A notice taken is counted and raises BRD_EVT.NOTICE. -/
def noticeCounted (c : Chip) : Chip := (c.inc BRD_NOTICE_CNT).evt BRD_EVT_NOTICE

/-- With the count, the ROLE of its reporter is recorded (log entry 40). -/
def reporterNoted (c : Chip) (b : List Byte) : Chip :=
  if (noticeCounted c).on (BRD_TRELLIS_SELF (nReporter b)) ∨ (noticeCounted c).on (BRD_TRELLIS_LOCAL (nReporter b)) then noticeCounted c
  else (noticeCounted c).put (BRD_TRELLIS_ROLE (nReporter b)) (nRole b)

theorem noticeIn_ignored (h : isNotice cell k = false ∨ (c.get BRD_CTL_SNOOP_EN = 0 ∧ cell.dest ≠ c.node)) :
    c.noticeIn cell k f = c :=
  if_pos h

theorem noticeIn_heard (h : Hears c cell k) (hd : d = reporterNoted c cell.data) : c.noticeIn cell k f = f d cell.data := by
  obtain ⟨hn, hfor⟩ := h
  subst hd
  refine if_neg ?_
  rintro (hother | ⟨hsnoop, hdest⟩)
  · exact Bool.false_ne_true (hother.symm.trans hn)
  · exact hfor.elim (absurd hsnoop) hdest

/-! ### The commands of the notices: their effect, then a review of the service that the port and the row have -/

theorem exec_graftNotice : exec (.graftNotice p cell) s = s.onChip (fun c => (graftNotice cell c).reviewSplits.reviewService p) := rfl
theorem exec_splitNotice : exec (.splitNotice p cell) s = s.onChip (fun c => (splitNotice cell c).reviewSplits.reviewService p) := rfl
theorem exec_rejoinNotice : exec (.rejoinNotice p cell) s = s.onChip (fun c => (rejoinNotice cell c).reviewSplits.reviewService p) := rfl
theorem exec_admitNotice : exec (.admitNotice p cell) s = s.onChip (fun c => (admitNotice cell c).reviewSplits.reviewService p) := rfl
theorem exec_refuseNotice : exec (.refuseNotice p cell) s = s.onChip (fun c => (refuseNotice cell c).reviewSplits.reviewService p) := rfl
theorem exec_dormantNotice : exec (.dormantNotice p cell) s = s.onChip (fun c => (dormantNotice cell c).reviewSplits.reviewService p) := rfl

theorem exec_notice {g : Chip → Chip} (hi : exec i s = s.onChip (fun c => (g c).reviewSplits.reviewService p)) (h : g s.chip = d) :
    exec i s = .next { s with chip := d.reviewSplits.reviewService p } :=
  exec_onChip hi (congrArg (fun c : Chip => c.reviewSplits.reviewService p) h)

/-- The command of each notice but TRELLIS, with its type (Table 4.5). -/
def NoticeCommand (p : TPort) (cell : Cell) (i : Instr) (k : Nat) : Prop :=
  (i = .graftNotice p cell ∧ k = 1) ∨ (i = .splitNotice p cell ∧ k = 2) ∨ (i = .rejoinNotice p cell ∧ k = 3)
    ∨ (i = .admitNotice p cell ∧ k = 4) ∨ (i = .refuseNotice p cell ∧ k = 5) ∨ (i = .dormantNotice p cell ∧ k = 6)

theorem exec_noticeCommand (h : NoticeCommand p cell i k) :
    ∃ f : Chip → List Byte → Chip, ∀ s, exec i s = s.onChip (fun c => (c.noticeIn cell k f).reviewSplits.reviewService p) := by
  obtain ⟨rfl, rfl⟩ | ⟨rfl, rfl⟩ | ⟨rfl, rfl⟩ | ⟨rfl, rfl⟩ | ⟨rfl, rfl⟩ | ⟨rfl, rfl⟩ := h <;> exact ⟨_, fun _ => rfl⟩

theorem exec_notice_ignored (hi : NoticeCommand p cell i k)
    (h : isNotice cell k = false ∨ (s.chip.get BRD_CTL_SNOOP_EN = 0 ∧ cell.dest ≠ s.chip.node)) :
    exec i s = .next { s with chip := s.chip.reviewSplits.reviewService p } := by
  obtain ⟨f, hf⟩ := exec_noticeCommand hi
  exact exec_notice (hf s) (noticeIn_ignored h)

/-! ### Notices of one position (R118, R130, R131, R136, R150) -/

theorem graftNotice_heard (h : Hears c cell 1) (hd : d = reporterNoted c cell.data) :
    graftNotice cell c = d.learn (nSubject cell.data) (nState cell.data) := noticeIn_heard h hd

theorem splitNotice_heard (h : Hears c cell 2) (hd : d = reporterNoted c cell.data) :
    splitNotice cell c = (d.learn (nSubject cell.data) (nState cell.data)).splitSeen (nSubject cell.data) := noticeIn_heard h hd

theorem rejoinNotice_heard (h : Hears c cell 3) (hd : d = reporterNoted c cell.data) :
    rejoinNotice cell c = d.learn (nSubject cell.data) (nState cell.data) := noticeIn_heard h hd

theorem admitNotice_heard (h : Hears c cell 4) (hd : d = reporterNoted c cell.data) :
    admitNotice cell c = d.applyAdmit (nSubject cell.data) (rd cell.data 16 8) := noticeIn_heard h hd

theorem refuseNotice_heard (h : Hears c cell 5) (hd : d = reporterNoted c cell.data) :
    refuseNotice cell c = d.applyRefuse (nSubject cell.data) := noticeIn_heard h hd

theorem dormantNotice_elsewhere (h : Hears c cell 6) (hd : d = reporterNoted c cell.data) (hp : d.portTo (nSubject cell.data) = none) :
    dormantNotice cell c = d.learn (nSubject cell.data) posDormant := by
  rw [dormantNotice, noticeIn_heard h hd]
  simp only [hp]

theorem dormantNotice_partner {q : TPort} (h : Hears c cell 6) (hd : d = reporterNoted c cell.data)
    (hp : d.portTo (nSubject cell.data) = some q) :
    dormantNotice cell c = { d with braid := { d.braid with dormantSeen := d.braid.dormantSeen.set q true } } := by
  rw [dormantNotice, noticeIn_heard h hd]
  simp only [hp]

/-! ### TRELLIS (R119, R617) -/

theorem exec_trellisNotice (h : trellisNotice cell s.chip = d) :
    exec (.trellisNotice p cell) s = .next { s with chip := (d.reviewService p).reviewSplits } :=
  exec_onChip (f := fun c => ((trellisNotice cell c).reviewService p).reviewSplits) rfl
    (congrArg (fun c : Chip => (c.reviewService p).reviewSplits) h)

theorem trellisNotice_copy (hn : isNotice cell 7 = true) (hd : nDetail cell.data = 4) : trellisNotice cell c = c.trellisCopy cell.data :=
  if_pos ⟨hn, hd⟩

theorem not_copy (h : nDetail cell.data ≠ 4) : ¬ (isNotice cell 7 = true ∧ nDetail cell.data = 4) := fun hc => h hc.2

theorem trellisNotice_stale (h : Hears c cell 7) (hd : d = reporterNoted c cell.data) (hdet : nDetail cell.data ≠ 4)
    (hl : d.tgenLater (nTgen cell.data) = false) : trellisNotice cell c = d := by
  rw [trellisNotice, if_neg (not_copy hdet), noticeIn_heard h hd]
  exact if_pos hl

/-- DETAIL 0: an entry of the run takes the state, unless it is LOCAL or this node's. -/
def stateTaken (st : Nat) (c : Chip) (q : Nat) : Chip :=
  if c.on (BRD_TRELLIS_LOCAL q) ∨ c.on (BRD_TRELLIS_SELF q) then c else c.setPos q st

theorem trellisNotice_states (h : Hears c cell 7) (hd : d = reporterNoted c cell.data) (hdet : nDetail cell.data = 0)
    (hl : d.tgenLater (nTgen cell.data) = true) :
    trellisNotice cell c = (runOf (nSubject cell.data) (rd cell.data 16 2 % 1024)).foldl (stateTaken (nState cell.data))
      (d.setTgen (nTgen cell.data)) := by
  rw [trellisNotice, if_neg (not_copy (by omega)), noticeIn_heard h hd]
  simp only [hl, hdet]
  rfl

theorem trellisNotice_action (h : Hears c cell 7) (hd : d = reporterNoted c cell.data)
    (hdet : nDetail cell.data = 1 ∨ nDetail cell.data = 2) (hl : d.tgenLater (nTgen cell.data) = true) :
    trellisNotice cell c
      = (d.setTgen (nTgen cell.data)).trellisAct (nDetail cell.data) (nSubject cell.data) (rd cell.data 16 2 % 1024) 0 := by
  rw [trellisNotice, if_neg (not_copy (by omega)), noticeIn_heard h hd]
  obtain hdet | hdet := hdet <;> simp [hl, hdet]

theorem trellisNotice_override (h : Hears c cell 7) (hd : d = reporterNoted c cell.data) (hdet : nDetail cell.data = 3)
    (hl : d.tgenLater (nTgen cell.data) = true) :
    trellisNotice cell c
      = (d.setTgen (nTgen cell.data)).trellisAct 3 (nSubject cell.data) (rd cell.data 16 2 % 1024) (rd cell.data 28 16) := by
  rw [trellisNotice, if_neg (not_copy (by omega)), noticeIn_heard h hd]
  simp [hl, hdet]

end Notices

/-- Settles O36, notice by notice: one that is ignored leaves the reviews alone; one that is heard has the effect of its type, and
TRELLIS that of its DETAIL where its TGEN is later. -/
theorem noticesTaken : Obligations.NoticesTaken := by
  unfold Obligations.NoticesTaken
  rintro p cell s _ rfl
  refine ⟨fun i k hi h => exec_notice_ignored hi h, ?_⟩
  rintro k c _ hn hfor rfl hc
  refine ⟨?graft, ?split, ?rejoin, ?admitted, ?refuse, ?dormant, ?park, ?stale, ?states, ?action, ?override, ?copy⟩
  case graft => rintro rfl; exact exec_notice exec_graftNotice (graftNotice_heard ⟨hn, hfor⟩ hc)
  case split => rintro rfl; exact exec_notice exec_splitNotice (splitNotice_heard ⟨hn, hfor⟩ hc)
  case rejoin => rintro rfl; exact exec_notice exec_rejoinNotice (rejoinNotice_heard ⟨hn, hfor⟩ hc)
  case admitted => rintro rfl; exact exec_notice exec_admitNotice (admitNotice_heard ⟨hn, hfor⟩ hc)
  case refuse => rintro rfl; exact exec_notice exec_refuseNotice (refuseNotice_heard ⟨hn, hfor⟩ hc)
  case dormant => rintro rfl hp; exact exec_notice exec_dormantNotice (dormantNotice_elsewhere ⟨hn, hfor⟩ hc hp)
  case park => rintro q rfl hp; exact exec_notice exec_dormantNotice (dormantNotice_partner ⟨hn, hfor⟩ hc hp)
  case stale => rintro rfl hdet hl; exact exec_trellisNotice (trellisNotice_stale ⟨hn, hfor⟩ hc hdet hl)
  case states => rintro rfl hdet hl; exact exec_trellisNotice (trellisNotice_states ⟨hn, hfor⟩ hc hdet hl)
  case action => rintro rfl hdet hl; exact exec_trellisNotice (trellisNotice_action ⟨hn, hfor⟩ hc hdet hl)
  case override => rintro rfl hdet hl; exact exec_trellisNotice (trellisNotice_override ⟨hn, hfor⟩ hc hdet hl)
  case copy => rintro rfl hdet; exact exec_trellisNotice (trellisNotice_copy hn hdet)

end Sys2Proof.Proofs

/-! SUPPORT. Chain time (spec/05_chain_time.md R143, R145, R149 to R151, R154, R155, R158, R160): beacons due and received, LOSS_TMO and
HOLDOVER_LIM, LOAD, RESYNC, the origin's adjustments and the latched read. -/

namespace Sys2Proof.Proofs
open Sys2Proof Sys2Proof.Machine Sys2Proof.Machine.Reg Sys2Proof.Laws

section ChainTime
variable {p : TPort} {blks : List RxBlock} {stamp : BitVec 80} {value : Word} {c d u : Chip} {s : State} {flit w : List Byte} {t : Nat}

theorem exec_beacon : exec (.beacon p blks stamp) s = s.onChip (beaconIn p blks stamp.toNat) := rfl
theorem exec_holdoverLim : exec .holdoverLim s = s.onChip holdoverLim := rfl
theorem exec_load : exec .load s = s.onChip loadTime := rfl
theorem exec_resync : exec .resync s = s.onChip resyncTime := rfl
theorem exec_adjPhase : exec (.adjPhase value) s = s.onChip (fun c =>
    if c.on CTM_STAT_IS_ORIGIN then c.setChain { c.chain with slew := c.chain.slew + value.toInt * 2 ^ 24 } else c) := rfl
theorem exec_adjFreq : exec (.adjFreq value) s = s.onChip (fun c =>
    if c.on CTM_STAT_IS_ORIGIN then c.put CTM_ADJ_FREQ_FREQ value.toNat else c) := rfl

/-! ### A beacon flit (R146) -/

theorem beaconIn_passed {n : Nat} (hx : c.rxFlit p blks = (flit, u)) (h : u.receive p flit = (some w, d)) (hk : hdrKind w = 2) :
    beaconIn p blks n c = d.takeBeacon p (slice w 4 112) n := by
  simp only [beaconIn, hx, h, hk, if_true]

theorem beaconIn_notPassed {n : Nat} (hx : c.rxFlit p blks = (flit, u)) (h : u.receive p flit = (none, d)) :
    beaconIn p blks n c = d := by
  simp only [beaconIn, hx, h]

/-! ### HOLDOVER_LIM (Table 5.2, R154) -/

theorem holdoverLim_other (h : c.on CTM_STAT_IS_ORIGIN = true ∨ c.ctState = ctLocked ∨ c.ctState = ctLost) : holdoverLim c = c := by
  refine if_pos ?_
  obtain ho | hs | hs := h
  · exact .inl ho
  · rw [hs]
    exact .inr (by decide)
  · rw [hs]
    exact .inr (by decide)

/-- The node's time is LOST: no phase term is left, VALID and ALIGNED clear, and the node is shuttered. -/
def timeLost (c : Chip) : Chip :=
  (((((c.endPhase.put CTM_STAT_ALIGNED 0).put CTM_STAT_STATE ctLost).setValid false).inc CTM_LOST_CNT).evt CTM_EVT_LOST).shutter causeTime

theorem holdoverLim_lost (ho : c.on CTM_STAT_IS_ORIGIN = false)
    (hs : c.ctState = ctHoldover ∨ c.ctState = ctAcquire ∨ c.ctState = ctFree) : holdoverLim c = c.beaconOnChange timeLost := by
  refine if_neg (not_or.mpr ⟨by simp [ho], ?_⟩)
  rintro ⟨hh, ha, hf⟩
  obtain h | h | h := hs
  · exact hh h
  · exact ha h
  · exact hf h

/-! ### LOAD (R143, R150) -/

theorem stepTo_forward (h : c.chain.count ≤ t) :
    c.stepTo t = Chip.evt { c with chain := { c.chain with count := t, target := none } } CTM_EVT_STEP := by
  rw [Chip.stepTo, if_pos (Int.ofNat_le.mpr h)]
  rfl

theorem stepTo_back (h : t < c.chain.count) :
    c.stepTo t = Chip.evt { c with chain := { c.chain with target := some t } } CTM_EVT_STEP := by
  rw [Chip.stepTo, if_neg (not_le.mpr (Int.ofNat_lt.mpr h))]
  rfl

/-- The instant that CTM_SET holds, in 2^-32 ns. -/
def setInstant (c : Chip) : Nat := (c.get CTM_SET_LO_NS + 2 ^ 32 * c.get CTM_SET_HI_NS) * 2 ^ 32 + c.get CTM_SET_FRAC_FRAC * 2 ^ 16

/-- The step of a LOAD: an origin's time is then VALID. -/
def loadedTo (t : Nat) (c : Chip) : Chip := if (c.stepTo t).on CTM_STAT_IS_ORIGIN then (c.stepTo t).enterLocked else c.stepTo t

theorem loadTime_valid (h : c.on CTM_STAT_VALID = true) : loadTime c = c := if_pos h

theorem loadTime_invalid (h : c.on CTM_STAT_VALID = false) : loadTime c = c.beaconOnChange (loadedTo (setInstant c)) :=
  if_neg (by simp [h])

/-! ### RESYNC (R155) -/

@[simp] theorem setChain_get (c : Chip) (x : Chain) (g : Fld) : (c.setChain x).get g = c.get g := rfl

/-- A change of VALID sets VALID and the live condition of TIME, and no other field. -/
theorem get_setValid_other (c : Chip) (b : Bool) (g : Fld) (hv : g.key ≠ CTM_STAT_VALID.key) (hl : g.key ≠ FLD_SHUT_LIVE_LIVE.key) :
    (c.setValid b).get g = c.get g := by
  have hput : (c.put CTM_STAT_VALID (b2n b)).get g = c.get g := get_put_other _ _ _ _ hv
  cases b
  · exact (get_setBitOf_other _ _ _ _ hl).trans hput
  · exact (get_put_other _ _ _ _ hl).trans hput

theorem get_setValid_same (c : Chip) (b : Bool) : (c.setValid b).get CTM_STAT_VALID = b2n b := by
  cases b
  · exact (get_setBitOf_other _ _ _ _ (by decide)).trans (get_put_same _ _ _)
  · exact (get_put_other _ _ _ _ (by decide)).trans (get_put_same _ _ _)

/-- A node that acquires afresh, before it chooses its parent again. -/
def acquiringAfresh (c : Chip) : Chip :=
  ((((c.put CTM_STAT_STATE ctAcquire).setValid false).put CTM_STAT_IS_ORIGIN 0).put CTM_STAT_ALIGNED 0).setChain { c.chain with
    good := 0, stepDue := true, waiting := c.chain.waiting || c.on CTM_STAT_IS_ORIGIN,
    slew := if c.on CTM_STAT_IS_ORIGIN then 0 else c.chain.slew }

theorem resyncTime_eq (c : Chip) : resyncTime c = c.beaconOnChange (fun c => (acquiringAfresh c).reviewTime) := rfl

/-- Giving up the origin role and clearing ALIGNED leave every other field as the change of VALID left it. -/
theorem acquiringAfresh_get (g : Fld) (ho : g.key ≠ CTM_STAT_IS_ORIGIN.key) (ha : g.key ≠ CTM_STAT_ALIGNED.key) :
    (acquiringAfresh c).get g = ((c.put CTM_STAT_STATE ctAcquire).setValid false).get g := by
  rw [acquiringAfresh, setChain_get, get_put_other _ _ _ _ ha, get_put_other _ _ _ _ ho]

theorem acquiringAfresh_state : (acquiringAfresh c).get CTM_STAT_STATE = ctAcquire := by
  rw [acquiringAfresh_get _ (by decide) (by decide), get_setValid_other _ _ _ (by decide) (by decide), get_put_same]
  rfl

theorem acquiringAfresh_valid : (acquiringAfresh c).get CTM_STAT_VALID = 0 := by
  rw [acquiringAfresh_get _ (by decide) (by decide), get_setValid_same]
  rfl

theorem acquiringAfresh_isOrigin : (acquiringAfresh c).get CTM_STAT_IS_ORIGIN = 0 := by
  rw [acquiringAfresh, setChain_get, get_put_other _ _ _ _ (by decide), get_put_same]
  rfl

theorem acquiringAfresh_aligned : (acquiringAfresh c).get CTM_STAT_ALIGNED = 0 := by
  rw [acquiringAfresh, setChain_get, get_put_same]
  rfl

end ChainTime

/-- Settles O38, command by command: what is outright the named operation, the branches of those that first ask who is origin, which
state the time is in or what VALID is, and for RESYNC the chip that reviews its parent. -/
theorem chainTimeChanges : Obligations.ChainTimeChanges := by
  unfold Obligations.ChainTimeChanges
  intro p blks stamp value s
  refine ⟨rfl, ?passed, ?notPassed, rfl, fun h => exec_onChip_same exec_holdoverLim (holdoverLim_other h),
    fun ho hs => exec_onChip exec_holdoverLim (holdoverLim_lost ho hs), rfl,
    fun h => exec_onChip_same exec_load (loadTime_valid h), ?load, ?resync, ?elsewhere, ?origin, rfl⟩
  case passed =>
    rintro x w c rfl hr hk
    exact exec_onChip exec_beacon (beaconIn_passed rfl hr hk)
  case notPassed =>
    rintro x c rfl hr
    exact exec_onChip exec_beacon (beaconIn_notPassed rfl hr)
  case load =>
    rintro h t rfl
    exact ⟨exec_onChip exec_load (loadTime_invalid h), stepTo_forward, stepTo_back⟩
  case resync =>
    exact ⟨_, exec_onChip exec_resync (resyncTime_eq s.chip), _, rfl, acquiringAfresh s.chip, rfl, acquiringAfresh_state,
      acquiringAfresh_valid, acquiringAfresh_isOrigin, acquiringAfresh_aligned, rfl, rfl, rfl⟩
  case elsewhere =>
    intro h
    have hn : ¬ s.chip.on CTM_STAT_IS_ORIGIN = true := by simp [h]
    exact ⟨exec_onChip_same exec_adjPhase (if_neg hn), exec_onChip_same exec_adjFreq (if_neg hn)⟩
  case origin =>
    exact fun h => ⟨exec_onChip exec_adjPhase (if_pos h), exec_onChip exec_adjFreq (if_pos h)⟩

end Sys2Proof.Proofs

/-! SUPPORT. The switch core's commands, the time gates and a ring's retry (spec/06_switch_core.md R166, R174, R178, R181 to R183;
spec/07_scheduling_and_allotment.md R191, R194, R200): what each does to the chip, case by case. -/

namespace Sys2Proof.Proofs
open Sys2Proof Sys2Proof.Machine Sys2Proof.Machine.Reg Sys2Proof.Laws

section SwitchCommands
variable {p : Fin 16} {value : Word} {c d : Chip} {s : State}

theorem exec_swxCarve : exec (.swxCarve p value) s = s.onChip (swxCarve p value) := rfl
theorem exec_mirCtlEn : exec (.mirCtlEn value) s = s.onChip (mirCtl value) := rfl
theorem exec_scrub (fs : List ScrubFind) : exec (.scrub fs) s = s.onChip (scrub fs) := rfl
theorem exec_flushDone : exec (.flushDone p) s = s.onChip (flushDone p) := rfl
theorem exec_gateEntry : exec (.gateEntry p) s = s.onChip (fun c => c.setGate p) := rfl
theorem exec_gateSwitch : exec (.gateSwitch p) s = s.onChip (gateSwitch p) := rfl
theorem exec_arm : exec (.arm p value) s = s.onChip (gateCtlWrite p value.toNat) := rfl
theorem exec_gateBankWrite (addr : BitVec 24) :
    exec (.gateBankWrite addr value) s = s.onChip (gateBankSet (addr.toNat / 4 * 4) value.toNat) := rfl
theorem exec_policerRetry (r : Fin 64) : exec (.policerRetry r) s = s.onChip (fun c => c.pump r) := rfl

/-! ### RESERVE_p (R166) -/

/-- ΣRESERVE once a port's RESERVE is written. -/
def reservedWith (c : Chip) (p : Fin 16) (value : Word) : Nat := c.reserved - c.get (SWX_CARVE_RESERVE p) + value.toNat % 2 ^ 18

/-- The blocks of a port beyond its new RESERVE, charged to the shared pool. -/
def excessShared (c : Chip) (p r : Nat) : Chip :=
  (((c.blocks.filter (fun e => e.2.charge = .part p)).take (c.occ p - r)).map (·.1)).foldl
    (fun (x : Chip) b => x.setBlock b { x.block b with charge := .shared [p] }) c

theorem excessShared_noExcess {p r : Nat} (h : c.occ p ≤ r) : excessShared c p r = c := by
  rw [excessShared, Nat.sub_eq_zero_of_le h, List.take_zero]
  rfl

theorem swxCarve_exceeds (h : keepFirst < reservedWith c p value) : swxCarve p value c = c.evt SWX_EVT_CARVE_ERR := if_pos h

theorem swxCarve_fits (h : reservedWith c p value ≤ keepFirst) :
    swxCarve p value c
      = (excessShared c p (value.toNat % 2 ^ 18)).put (SWX_CARVE_RESERVE p) (value.toNat % 2 ^ 18) := if_neg (Nat.not_lt.mpr h)

theorem get_swxCarve_fits (h : reservedWith c p value ≤ keepFirst) :
    (swxCarve p value c).get (SWX_CARVE_RESERVE p) = value.toNat % 2 ^ 18 := by
  rw [swxCarve_fits h, get_put_same]
  exact Nat.mod_mod _ _

/-! ### MIR_CTL (R174) -/

theorem mirCtl_noFlush (h : value.toNat % 2 = 0 ∨ c.get SWX_MIR_CTL_EN ≠ 0) :
    mirCtl value c = (c.put SWX_MIR_CTL_EN (value.toNat % 2)).put SWX_MIR_CTL_FLOW_EN (bits value.toNat 1 4) := by
  have hstays : ¬ (value.toNat % 2 = 1 ∧ c.get SWX_MIR_CTL_EN = 0) := by omega
  simp only [mirCtl, if_neg hstays]

theorem mirCtl_flushes (hv : value.toNat % 2 = 1) (hen : c.get SWX_MIR_CTL_EN = 0) :
    mirCtl value c = ((c.portDown 5 ⟨0, 0, 0, 0⟩).put SWX_MIR_CTL_EN 1).put SWX_MIR_CTL_FLOW_EN (bits value.toNat 1 4) := by
  simp only [mirCtl, hv, hen, and_self, if_true]

/-! ### The scrubber (R181 to R183) -/

/-- One find, and the remap of its row where the word is beyond correction. -/
def scrubStep (c : Chip) (f : ScrubFind) : Chip :=
  if f.uncorrectable = true then (c.scrubFind f).autoRemap 0 0 (128 * (f.block % blockEnd) + 8 * (f.word % 16)) else c.scrubFind f

theorem scrub_off {fs : List ScrubFind} (h : c.get SWX_CTL_SCRUB_EN = 0) : scrub fs c = c := if_pos h

theorem scrub_on {fs : List ScrubFind} (h : c.get SWX_CTL_SCRUB_EN ≠ 0) : scrub fs c = fs.foldl scrubStep c := if_neg h

theorem scrubStep_corrected {f : ScrubFind} (h : f.uncorrectable = false) :
    scrubStep c f = (c.inc SWX_ECC_CORR).evt SWX_EVT_ECC_CORR :=
  (if_neg (Bool.eq_false_iff.mp h)).trans (if_pos h)

/-! ### The end of a flush walk (R178, R179) -/

theorem flushDone_noWalk {p : Nat} (h : c.sw.walks.find? (fun w => w.port == p) = none) : flushDone p c = c := by
  simp only [flushDone, h]

/-- The walk is over: its descriptors are reported lost and give up their blocks. -/
def walkOver (c : Chip) (p : Nat) (w : Walk) : Chip :=
  w.descs.foldl (fun (x : Chip) e => x.dropDesc e) ((c.setSw { c.sw with walks := c.sw.walks.erase w }).descsLost w.descs p)

/-- The port of the walk and how many cells it discarded are recorded. -/
def walkRecorded (c : Chip) (p : Nat) (w : Walk) : Chip :=
  ((walkOver c p w).put SWX_FLUSH_STAT_PORT p).put SWX_FLUSH_STAT_CELLS w.descs.length

theorem flushDone_walk {p : Nat} {w : Walk} (h : c.sw.walks.find? (fun w => w.port == p) = some w) (hd : d = walkRecorded c p w) :
    flushDone p c = (if d.sw.walks = [] then d.put SWX_STAT_FLUSH_BUSY 0 else d).evt SWX_EVT_FLUSH_DONE := by
  subst hd
  simp only [flushDone, h]
  rfl

/-- FLUSH_BUSY and FLUSH_DONE come after the record and leave it. -/
theorem get_flushDone_recorded {p : Nat} {w : Walk} (h : c.sw.walks.find? (fun w => w.port == p) = some w) (g : Fld)
    (hlog : outsideLog g) (hevt : g.key ≠ SWX_EVT_FLUSH_DONE.key) (hbusy : g.key ≠ SWX_STAT_FLUSH_BUSY.key) :
    (flushDone p c).get g = (walkRecorded c p w).get g := by
  rw [flushDone_walk h rfl, get_evt_other _ _ _ hlog hevt]
  split
  · exact get_put_other _ _ _ _ hbusy
  · rfl

theorem get_flushDone_port {w : Walk} (h : c.sw.walks.find? (fun w => w.port == p.val) = some w) :
    (flushDone p c).get SWX_FLUSH_STAT_PORT = p.val := by
  rw [get_flushDone_recorded h _ (by unfold outsideLog; decide) (by decide) (by decide), walkRecorded,
    get_put_other _ _ _ _ (by decide), get_put_same]
  exact Nat.mod_eq_of_lt p.isLt

theorem get_flushDone_cells {p : Nat} {w : Walk} (h : c.sw.walks.find? (fun w => w.port == p) = some w) :
    (flushDone p c).get SWX_FLUSH_STAT_CELLS = w.descs.length % 2 ^ SWX_FLUSH_STAT_CELLS.width := by
  rw [get_flushDone_recorded h _ (by unfold outsideLog; decide) (by decide) (by decide), walkRecorded, get_put_same]

/-- A walk that has no descriptors loses nothing: it leaves the list of walks, and no more of the switch changes. -/
theorem sw_walkRecorded_empty {p : Nat} {w : Walk} (hdescs : w.descs = []) :
    (walkRecorded c p w).sw = { c.sw with walks := c.sw.walks.erase w } := by
  rw [walkRecorded, walkOver, hdescs]
  rfl

section LastWalk
variable {p : Nat} {w : Walk} (hw : c.sw.walks = [w]) (hport : w.port = p)
include hw hport

theorem find_onlyWalk : c.sw.walks.find? (fun w => w.port == p) = some w := by simp [hw, hport]

theorem flushDone_lastWalk (hdescs : w.descs = []) :
    flushDone p c = ((walkRecorded c p w).put SWX_STAT_FLUSH_BUSY 0).evt SWX_EVT_FLUSH_DONE
      ∧ (walkRecorded c p w).sw.walks = [] := by
  have hnone : (walkRecorded c p w).sw.walks = [] := by simp [sw_walkRecorded_empty hdescs, hw]
  exact ⟨by rw [flushDone_walk (find_onlyWalk hw hport) rfl, if_pos hnone], hnone⟩

end LastWalk

/-! ### Time gates (R191, R194) -/

theorem setGate_entry {p b e : Nat} (hb : b = c.get (SCH_GATE_CTL_ACT_BANK p))
    (he : e = c.entryAt p b ((c.ns : Int) - (c.gateCycle p b c.ns).1).toNat) :
    c.setGate p = (c.put (SCH_GATE_STAT_ENTRY p) e).put (SCH_GATE_STAT_OPEN p) (c.get (SCH_GCL_OPEN_OPEN p b e)) := by
  subst hb he
  rfl

theorem gateSwitch_waits {p : Nat} (h : c.get (SCH_GATE_CTL_PEND p) = 0 ∨ (c.ns : Int) < c.switchAt p) : gateSwitch p c = c := if_pos h

theorem gateSwitch_due {p : Nat} (hp : c.get (SCH_GATE_CTL_PEND p) ≠ 0) (hat : c.switchAt p ≤ (c.ns : Int)) :
    gateSwitch p c = (((c.put (SCH_GATE_CTL_ACT_BANK p) (1 - c.get (SCH_GATE_CTL_ACT_BANK p))).put (SCH_GATE_CTL_PEND p) 0).evt
      SCH_EVT_GATE_SWITCH).setGate p := if_neg (not_or.mpr ⟨hp, not_lt.mpr hat⟩)

/-- With no switch pending both lengths are taken, and ARM sets the switch pending. -/
theorem gateCtlWrite_arms {p v : Nat} (hp : c.on (SCH_GATE_CTL_PEND p) = false) (harm : bit v 17 = true)
    (h0 : 1 ≤ bits v 0 7 ∧ bits v 0 7 ≤ 64) (h1 : 1 ≤ bits v 8 7 ∧ bits v 8 7 ≤ 64) :
    gateCtlWrite p v c = ((c.put (SCH_GATE_CTL_LEN_0 p) (bits v 0 7)).put (SCH_GATE_CTL_LEN_1 p) (bits v 8 7)).put
      (SCH_GATE_CTL_PEND p) 1 := by
  simp [gateCtlWrite, hp, harm, h0, h1]

section GateBank
variable {addr q b o v : Nat} (ha : gateAddr addr = some (q, b, o))
include ha

theorem gateBankSet_pending (hp : c.on (SCH_GATE_CTL_PEND q) = true) (hb : b ≠ c.get (SCH_GATE_CTL_ACT_BANK q)) :
    gateBankSet addr v c = c.evt SCH_EVT_GATE_ERR := by
  simp only [gateBankSet, ha, if_pos (And.intro hp hb)]

/-- With no switch pending a write goes by the register: CYCLE, BASE, or OPEN and DURATION of an entry. -/
theorem gateBankSet_notPending (hp : c.on (SCH_GATE_CTL_PEND q) = false) :
    gateBankSet addr v c =
      if o < 0x18 then
        if 1000 ≤ bits v 0 30 ∧ bits v 0 30 ≤ 1000000000 then c.put (SCH_GATE_CYCLE_CYCLE q b) (bits v 0 30) else c
      else if o < 0x30 then
        if o % 8 = 0 then c.put (SCH_GATE_BASE_LO_BASE q b) v else c.put (SCH_GATE_BASE_HI_BASE q b) v
      else if o % 8 = 0 then c.put (SCH_GCL_OPEN_OPEN q b ((o - 0x400) % 0x200 / 8)) v
      else if 1 ≤ bits v 0 30 ∧ bits v 0 30 ≤ 1000000000 then c.put (SCH_GCL_DUR_DURATION q b ((o - 0x400) % 0x200 / 8)) (bits v 0 30)
      else c := by
  have hfree : ¬ (c.on (SCH_GATE_CTL_PEND q) = true ∧ b ≠ c.get (SCH_GATE_CTL_ACT_BANK q)) := fun h => by simp [hp] at h
  simp only [gateBankSet, ha, if_neg hfree]

variable (hp : c.on (SCH_GATE_CTL_PEND q) = false)
include hp

theorem gateBankSet_cycle (ho : o < 0x18) (hlo : 1000 ≤ bits v 0 30) (hhi : bits v 0 30 ≤ 1000000000) :
    gateBankSet addr v c = c.put (SCH_GATE_CYCLE_CYCLE q b) (bits v 0 30) := by
  rw [gateBankSet_notPending ha hp, if_pos ho, if_pos ⟨hlo, hhi⟩]

theorem gateBankSet_cycleShort (ho : o < 0x18) (hlo : bits v 0 30 < 1000) : gateBankSet addr v c = c := by
  rw [gateBankSet_notPending ha hp, if_pos ho, if_neg (fun h => Nat.not_le.mpr hlo h.1)]

theorem gateBankSet_base (hlo : 0x18 ≤ o) (hhi : o < 0x30) :
    gateBankSet addr v c = if o % 8 = 0 then c.put (SCH_GATE_BASE_LO_BASE q b) v else c.put (SCH_GATE_BASE_HI_BASE q b) v := by
  rw [gateBankSet_notPending ha hp, if_neg (Nat.not_lt.mpr hlo), if_pos hhi]

theorem gateBankSet_open (ho : 0x400 ≤ o) (h8 : o % 8 = 0) :
    gateBankSet addr v c = c.put (SCH_GCL_OPEN_OPEN q b ((o - 0x400) % 0x200 / 8)) v := by
  rw [gateBankSet_notPending ha hp, if_neg (by omega), if_neg (by omega), if_pos h8]

theorem gateBankSet_duration (ho : 0x400 ≤ o) (h8 : o % 8 ≠ 0) (hlo : 1 ≤ bits v 0 30) (hhi : bits v 0 30 ≤ 1000000000) :
    gateBankSet addr v c = c.put (SCH_GCL_DUR_DURATION q b ((o - 0x400) % 0x200 / 8)) (bits v 0 30) := by
  rw [gateBankSet_notPending ha hp, if_neg (by omega), if_neg (by omega), if_neg h8, if_pos ⟨hlo, hhi⟩]

end GateBank

/-! ### A ring's give side (R200) -/

theorem pump_on {r : Nat} (hv : c.ringValid r = true) (hd : c.domainOn (if c.get (BCH_RING_BENCH r) < 8 then 8 else 9) = true) :
    c.pump r = c.pumpRing r (c.ring r).give.length := if_pos ⟨hv, hd⟩

end SwitchCommands

end Sys2Proof.Proofs

/-! SUPPORT. An allotment in three phases (spec/07_scheduling_and_allotment.md R201 to R204): the orders that the head and a node
perform, the epoch, the guard and the docket; and the statement on the switch's and the scheduler's commands. -/

namespace Sys2Proof.Proofs
open Sys2Proof Sys2Proof.Machine Sys2Proof.Machine.Reg Sys2Proof.Laws

section Allotment
variable {id : SlotId} {o : Order} {s : State} {c d : Chip} {b : List Byte}

/-! ### The orders of the four phases (R202) -/

theorem exec_allotRequest (h : s.chip.starts id 0x40 (phaseIs 0) o)
    (hd : allotRequest (s.chip.orderBegun id o) id (o.bytes.drop 16) = d) :
    exec (.allotRequest id) s = .next { s with chip := d } :=
  exec_onChip (f := fun c => c.startOrder id 0x40 (phaseIs 0) (fun c _ b => allotRequest c id b)) rfl ((startOrder_runs h _).trans hd)

theorem exec_allotStage (h : s.chip.starts id 0x40 (phaseIs 1) o)
    (hd : allotStage (s.chip.orderBegun id o) id (o.bytes.drop 16) = d) :
    exec (.allotStage id) s = .next { s with chip := d.allotReview } :=
  exec_onChip (f := fun c => (c.startOrder id 0x40 (phaseIs 1) (fun c _ b => allotStage c id b)).allotReview) rfl
    (congrArg Chip.allotReview ((startOrder_runs h _).trans hd))

theorem exec_allotCommit (h : s.chip.starts id 0x40 (phaseIs 2) o)
    (hd : allotCommit (s.chip.orderBegun id o) id (o.bytes.drop 16) = d) :
    exec (.allotCommit id) s = .next { s with chip := d.allotReview } :=
  exec_onChip (f := fun c => (c.startOrder id 0x40 (phaseIs 2) (fun c _ b => allotCommit c id b)).allotReview) rfl
    (congrArg Chip.allotReview ((startOrder_runs h _).trans hd))

theorem exec_allotCancel (h : s.chip.starts id 0x40 (phaseIs 3) o)
    (hd : allotCancel (s.chip.orderBegun id o) id (o.bytes.drop 16) = d) :
    exec (.allotCancel id) s = .next { s with chip := d } :=
  exec_onChip (f := fun c => c.startOrder id 0x40 (phaseIs 3) (fun c _ b => allotCancel c id b)) rfl ((startOrder_runs h _).trans hd)

/-! ### A request at the serving head (R202 steps 1 and 2) -/

/-- A body with entries in the form and the ranges of Tables 7.2 and 7.3. -/
def EntriesOk (b : List Byte) : Prop := allotBodyOk b true = true ∧ (allotEntries b).all AllotEntry.ok = true

theorem entriesOk_not_bad (h : EntriesOk b) : ¬ (allotBodyOk b true = false ∨ (allotEntries b).all AllotEntry.ok = false) :=
  not_or.mpr ⟨ne_false_of_eq_true h.1, ne_false_of_eq_true h.2⟩

theorem allotRequest_badArgs (h : (allotEntries b).all AllotEntry.ok = false) :
    allotRequest c id b = c.docketReady id stBadArgs [] := if_pos (.inr (.inr h))

theorem requestOk_not_bad (h : EntriesOk b) (href : allotRef b = 0) :
    ¬ (allotBodyOk b true = false ∨ allotRef b ≠ 0 ∨ (allotEntries b).all AllotEntry.ok = false) := by
  obtain ⟨hbody, hok⟩ := h
  exact not_or.mpr ⟨ne_false_of_eq_true hbody, not_or.mpr ⟨not_not.mpr href, ne_false_of_eq_true hok⟩⟩

theorem allotRequest_notHead (h : EntriesOk b) (href : allotRef b = 0) (hd : c.headDuty = false) :
    allotRequest c id b = c.docketReady id stRefused [] := (if_neg (requestOk_not_bad h href)).trans (if_pos hd)

theorem allotRequest_tooNear (h : EntriesOk b) (href : allotRef b = 0) (hd : c.headDuty = true)
    (hnear : allotEpoch b * 1000000 < c.ns + c.get SCH_ALLOT_TMR_ALLOT_LEAD * 10000) :
    allotRequest c id b = c.docketReady id stRefused [] :=
  (if_neg (requestOk_not_bad h href)).trans ((if_neg (ne_false_of_eq_true hd)).trans (if_pos hnear))

/-- The target nodes of a body. -/
def targets (b : List Byte) : List Nat := ((allotEntries b).map (·.node)).dedup

/-- The head takes the next reference and holds the request, with nothing answered. -/
def requestHeld (c : Chip) (id : SlotId) (b : List Byte) : Chip :=
  c.setSw { c.sw with
    nextRef := if c.sw.nextRef = 32767 then 1 else c.sw.nextRef + 1
    requests := c.sw.requests ++ [⟨id, c.sw.nextRef, allotEpoch b, (targets b).map (fun n => ⟨n, none, none⟩), false, false, none⟩] }

/-- A node is sent its own entries under a reference. -/
def stageSent (id : SlotId) (ref : Nat) (b : List Byte) (c : Chip) (n : Nat) : Chip :=
  (c.sendMsg n (message 1 id.sess (allotOrder (stageTag ref) (allotEpoch b) ((allotEntries b).filter (fun e => e.node = n)).length 1 ref
    (((allotEntries b).filter (fun e => e.node = n)).flatMap allotBytes)))).2

theorem allotRequest_sent (h : EntriesOk b) (href : allotRef b = 0) (hd : c.headDuty = true)
    (hfar : c.ns + c.get SCH_ALLOT_TMR_ALLOT_LEAD * 10000 ≤ allotEpoch b * 1000000) :
    allotRequest c id b = (targets b).foldl (stageSent id c.sw.nextRef b) (requestHeld c id b) :=
  (if_neg (requestOk_not_bad h href)).trans ((if_neg (ne_false_of_eq_true hd)).trans (if_neg (Nat.not_lt.mpr hfar)))

/-! ### A stage, a commit and a cancel at a node (R202) -/

theorem allotStage_badArgs (h : allotBodyOk b true = false ∨ (allotEntries b).all AllotEntry.ok = false) :
    allotStage c id b = c.docketReady id stBadArgs [] := if_pos h

theorem allotStage_off (h : EntriesOk b) (hen : c.get SCH_CTL_ALLOT_EN = 0) :
    allotStage c id b = (c.evt SCH_EVT_STAGE_REFUSED).docketReady id stRefused [] :=
  (if_neg (entriesOk_not_bad h)).trans (if_pos (.inl hen))

theorem allotStage_held (h : EntriesOk b) (hen : c.get SCH_CTL_ALLOT_EN ≠ 0)
    (hroom : c.stagedEntries + (allotEntries b).length ≤ 128) (htwo : (c.stagedEpochs.filter (fun e => e != allotEpoch b)).length < 2)
    (hnow : c.ns < allotEpoch b * 1000000) :
    allotStage c id b
      = (c.setSw { c.sw with stages := c.sw.stages ++ [⟨allotRef b, allotEpoch b, false, allotEntries b⟩] }).docketReady id stDone [] := by
  refine (if_neg (entriesOk_not_bad h)).trans (if_neg ?_)
  rintro (hoff | hfull | hthird | hpast)
  · exact hen hoff
  · exact Nat.not_lt.mpr hroom hfull
  · exact Nat.not_le.mpr htwo hthird
  · exact Nat.not_le.mpr hnow hpast

theorem allotCommit_staged (hbody : allotBodyOk b false = true) (href : c.sw.stages.any (fun x => x.ref == allotRef b) = true) :
    allotCommit c id b = (c.setSw { c.sw with
      stages := c.sw.stages.map (fun x => if x.ref = allotRef b then { x with committed := true } else x) }).docketReady id stDone [] :=
  (if_neg (ne_false_of_eq_true hbody)).trans (if_pos href)

theorem allotCommit_notStaged (hbody : allotBodyOk b false = true) (href : c.sw.stages.any (fun x => x.ref == allotRef b) = false) :
    allotCommit c id b = c.docketReady id stRefused [] :=
  (if_neg (ne_false_of_eq_true hbody)).trans (if_neg (Bool.eq_false_iff.mp href))

theorem allotCancel_drops (hbody : allotBodyOk b false = true) :
    allotCancel c id b
      = (c.setSw { c.sw with stages := c.sw.stages.filter (fun x => x.ref != allotRef b) }).docketReady id stDone [] :=
  if_neg (ne_false_of_eq_true hbody)

/-! ### The epoch (R202, R203) -/

theorem exec_epochApplied : exec .epochApplied s = s.onChip epochApplied := rfl

/-- The committed stages whose epoch has begun. -/
def dueCommitted (c : Chip) : List Stage := c.sw.stages.filter (fun x => decide (x.epoch * 1000000 ≤ c.ns) && x.committed)

/-- Every stage whose epoch has begun is dropped. -/
def dueDropped (c : Chip) : Chip := c.setSw { c.sw with stages := c.sw.stages.filter (fun x => decide (c.ns < x.epoch * 1000000)) }

/-- The entries staged for an epoch are applied; EPOCH, ALLOT_CNT and EPOCH_APPLIED say so. -/
def epochTaken (now : List Stage) (c : Chip) (e : Nat) : Chip :=
  ((((((now.filter (fun y => y.epoch = e)).flatMap (·.entries)).foldl (fun (z : Chip) y => z.applyEntry y) c).put SCH_EPOCH_LO_EPOCH e).put
    SCH_EPOCH_HI_EPOCH (e / 2 ^ 32)).inc SCH_ALLOT_CNT).evt SCH_EVT_EPOCH_APPLIED

theorem epochApplied_eq :
    epochApplied c = ((dueCommitted c).map (·.epoch)).dedup.foldl (epochTaken (dueCommitted c)) (dueDropped c) := by
  have hnow : (c.sw.stages.filter (fun x => decide (x.epoch * 1000000 ≤ c.ns))).filter (·.committed) = dueCommitted c := by
    simp only [dueCommitted, List.filter_filter, Bool.and_comm]
  simp only [epochApplied, hnow]
  rfl

theorem epochApplied_noneDue (h : c.sw.stages.filter (fun x => decide (x.epoch * 1000000 ≤ c.ns)) = []) :
    epochApplied c = dueDropped c := by
  have hnow : dueCommitted c = [] := by
    rw [List.filter_eq_nil_iff] at h
    exact List.filter_eq_nil_iff.mpr (fun x hx hdue => h x hx (Bool.and_eq_true_iff.mp hdue).1)
  rw [epochApplied_eq, hnow]
  rfl

theorem epochApplied_one {x : Stage} (hst : c.sw.stages = [x]) (hdue : x.epoch * 1000000 ≤ c.ns) (hcom : x.committed = true) :
    epochApplied c
      = ((((x.entries.foldl (fun (y : Chip) e => y.applyEntry e) (c.setSw { c.sw with stages := [] })).put SCH_EPOCH_LO_EPOCH x.epoch).put
          SCH_EPOCH_HI_EPOCH (x.epoch / 2 ^ 32)).inc SCH_ALLOT_CNT).evt SCH_EVT_EPOCH_APPLIED := by
  have hnow : dueCommitted c = [x] := by simp [dueCommitted, hst, hdue, hcom]
  have hleft : dueDropped c = c.setSw { c.sw with stages := [] } := by simp [dueDropped, hst, hdue]
  rw [epochApplied_eq, hnow, hleft]
  simp [epochTaken]

/-! ### The guard and the docket (R202 step 3, R204) -/

section Reference
variable {ref : Nat} {r : AllotReq}

theorem exec_allotGuard (ref : BitVec 16) : exec (.allotGuard ref) s = s.onChip (allotGuard ref.toNat) := rfl
theorem exec_allotDocket (ref : BitVec 16) : exec (.allotDocket ref) s = s.onChip (allotDocket ref.toNat) := rfl

theorem allotGuard_unknown (h : c.allotReview.sw.requests.find? (fun r => r.ref == ref) = none) :
    allotGuard ref c = c.allotReview := by
  simp only [allotGuard, h]

theorem allotDocket_unknown (h : c.allotReview.sw.requests.find? (fun r => r.ref == ref) = none) :
    allotDocket ref c = c.allotReview := by
  simp only [allotDocket, h]

variable (hd : d = c.allotReview) (h : d.sw.requests.find? (fun r => r.ref == ref) = some r)
include hd h

theorem allotDocket_begun (he : r.epoch * 1000000 ≤ d.ns) :
    allotDocket ref c
      = (d.setSw { d.sw with requests := d.sw.requests.filter (fun x => x.ref != ref) }).docketReady r.at_ r.status [] := by
  subst hd
  simp only [allotDocket, h, if_neg (Nat.not_lt.mpr he)]

theorem allotGuard_known : allotGuard ref c = if r.committed = true ∨ r.cancelled = true ∨ d.inGuard r = false then d
    else d.closeStage r false := by
  subst hd
  simp only [allotGuard, h]

theorem allotGuard_closed (hr : r.committed = true ∨ r.cancelled = true
    ∨ d.ns + d.get SCH_ALLOT_TMR_ALLOT_GUARD * 1000 < r.epoch * 1000000) : allotGuard ref c = d := by
  refine (allotGuard_known hd h).trans (if_pos ?_)
  obtain hc | hx | hlater := hr
  · exact .inl hc
  · exact .inr (.inl hx)
  · exact .inr (.inr (decide_eq_false (Nat.not_le.mpr hlater)))

theorem allotGuard_cancels (hc : r.committed = false) (hx : r.cancelled = false)
    (hin : r.epoch * 1000000 ≤ d.ns + d.get SCH_ALLOT_TMR_ALLOT_GUARD * 1000) : allotGuard ref c = d.closeStage r false := by
  have hguard : d.inGuard r = true := decide_eq_true hin
  exact (allotGuard_known hd h).trans (if_neg (by simp [hc, hx, hguard]))

end Reference

end Allotment

/-- Settles O25, command by command: a write of RESERVE by whether it fits, MIR_CTL by whether it sets EN, the scrubber by SCRUB_EN, a
flush walk by whether the port has one, the gates by what is pending; then the allotment phase by phase, at the head and at a node, and
its epoch, guard and docket by what is staged and requested. -/
theorem switchCommandsAndAllotment : Obligations.SwitchCommandsAndAllotment := by
  unfold Obligations.SwitchCommandsAndAllotment
  refine ⟨fun p v s => ⟨fun h => exec_onChip exec_swxCarve (swxCarve_exceeds h), ?carve,
    fun h => exec_onChip exec_mirCtlEn (mirCtl_noFlush h), fun hv hen => exec_onChip exec_mirCtlEn (mirCtl_flushes hv hen),
    fun fs => ⟨fun h => exec_onChip_same (exec_scrub fs) (scrub_off h), fun h => exec_onChip (exec_scrub fs) (scrub_on h)⟩,
    fun f hf h => exec_onChip (exec_scrub [f]) ((scrub_on h).trans (scrubStep_corrected hf)),
    fun h => exec_onChip_same exec_flushDone (flushDone_noWalk h),
    fun w h => ⟨_, exec_flushDone, rfl, get_flushDone_port h, get_flushDone_cells h⟩, ?lastWalk,
    fun b e hb he => exec_onChip exec_gateEntry (setGate_entry hb he),
    fun h => exec_onChip_same exec_gateSwitch (gateSwitch_waits h), fun hp hat => exec_onChip exec_gateSwitch (gateSwitch_due hp hat),
    fun hp harm h0 h0' h1 h1' => exec_onChip exec_arm (gateCtlWrite_arms hp harm ⟨h0, h0'⟩ ⟨h1, h1'⟩), ?bank,
    fun r => ⟨exec_policerRetry r, fun hv hd => exec_onChip (exec_policerRetry r) (pump_on hv hd)⟩⟩, ?allotment⟩
  case carve =>
    refine fun h => ⟨_, exec_swxCarve, get_swxCarve_fits h, rfl, fun hocc => ?_⟩
    exact (swxCarve_fits h).trans (congrArg (fun x : Chip => x.put _ _) (excessShared_noExcess hocc))
  case lastWalk =>
    intro w hw hport hdescs
    obtain ⟨hdone, hnone⟩ := flushDone_lastWalk hw hport hdescs
    have hfind := find_onlyWalk hw hport
    refine ⟨_, exec_flushDone, get_flushDone_port hfind, (get_flushDone_cells hfind).trans (by simp [hdescs]), ?_, ?_⟩
    · rw [hdone, get_evt_other _ _ _ (by unfold outsideLog; decide) (by decide), get_put_same]
      rfl
    · rw [hdone, evt_sw, put_sw, hnone]
  case bank =>
    intro addr q b o ha
    have hrun {d : Chip} (h : gateBankSet (addr.toNat / 4 * 4) v.toNat s.chip = d) :
        exec (.gateBankWrite addr v) s = .next { s with chip := d } := exec_onChip (exec_gateBankWrite addr) h
    exact ⟨fun hp hb => hrun (gateBankSet_pending ha hp hb), fun hp hlo hhi => hrun (gateBankSet_base ha hp hlo hhi),
      fun hp ho h8 => hrun (gateBankSet_open ha hp ho h8), fun hp ho h8 hlo hhi => hrun (gateBankSet_duration ha hp ho h8 hlo hhi),
      fun hp ho hlo hhi => hrun (gateBankSet_cycle ha hp ho hlo hhi), fun hp ho hlo => hrun (gateBankSet_cycleShort ha hp ho hlo)⟩
  case allotment =>
    rintro id o s _ _ rfl rfl
    refine ⟨?request, ?stage, ?commit, fun hs hbody => exec_allotCancel hs (allotCancel_drops hbody),
      fun h => exec_onChip exec_epochApplied (epochApplied_noneDue h), ?epoch,
      fun x hst hdue hcom => exec_onChip exec_epochApplied (epochApplied_one hst hdue hcom),
      fun ref h => ⟨exec_onChip (exec_allotGuard ref) (allotGuard_unknown h), exec_onChip (exec_allotDocket ref) (allotDocket_unknown h)⟩,
      fun ref r d hd h => ⟨fun he => exec_onChip (exec_allotDocket ref) (allotDocket_begun hd h he),
        fun hr => exec_onChip (exec_allotGuard ref) (allotGuard_closed hd h hr),
        fun hc hx hin => exec_onChip (exec_allotGuard ref) (allotGuard_cancels hd h hc hx hin)⟩⟩
    case request =>
      refine fun hs hbody href => ⟨fun hbad => exec_allotRequest hs (allotRequest_badArgs hbad),
        fun hok hduty hnear => exec_allotRequest hs (allotRequest_tooNear ⟨hbody, hok⟩ href hduty hnear),
        fun hok hduty => exec_allotRequest hs (allotRequest_notHead ⟨hbody, hok⟩ href hduty), ?_⟩
      rintro hok hduty hfar _ rfl
      exact exec_allotRequest hs (allotRequest_sent ⟨hbody, hok⟩ href hduty hfar)
    case stage =>
      exact fun hs => ⟨fun hbad => exec_allotStage hs (allotStage_badArgs hbad), fun hbody hok =>
        ⟨fun hen => exec_allotStage hs (allotStage_off ⟨hbody, hok⟩ hen),
          fun hen hroom htwo hnow => exec_allotStage hs (allotStage_held ⟨hbody, hok⟩ hen hroom htwo hnow)⟩⟩
    case commit =>
      exact fun hs hbody => ⟨fun href => exec_allotCommit hs (allotCommit_staged hbody href),
        fun href => exec_allotCommit hs (allotCommit_notStaged hbody href)⟩
    case epoch =>
      rintro _ rfl
      exact exec_onChip exec_epochApplied epochApplied_eq

end Sys2Proof.Proofs

/-! SUPPORT. The orders and the timers of the tunnel layer (spec/08_tunnels_and_ordering.md R212 to R214, R221 to R235): an end is
opened and closed, and each timer by the ends it acts on. -/

namespace Sys2Proof.Proofs
open Sys2Proof Sys2Proof.Machine Sys2Proof.Machine.Reg Sys2Proof.Laws

section TunnelOrders
variable {id : SlotId} {o : Order} {s : State} {c d : Chip} {b : List Byte}

/-! ### TUNNEL_OPEN (R213) -/

theorem exec_tunnelOpen (h : s.chip.starts id 0x20 anyBody o) (hd : tunnelOpen (s.chip.orderBegun id o) id (o.bytes.drop 16) = d) :
    exec (.tunnelOpen id) s = .next { s with chip := d } :=
  exec_onChip (f := fun c => c.startOrder id 0x20 anyBody (fun c _ b => tunnelOpen c id b)) rfl ((startOrder_runs h _).trans hd)

/-- A body of TUNNEL_OPEN with each field in the range of Table 8.4. -/
def OpenBodyOk (b : List Byte) : Prop :=
  1 ≤ rd b 0 2 ∧ rd b 0 2 ≤ 1023 ∧ rd b 2 1 ≤ 31 ∧ rd b 3 1 ≤ 63 ∧ rd b 6 2 ≤ 1023 ∧ rd b 10 6 = 0

theorem openBodyOk_iff : OpenBodyOk b
    ↔ ¬ (rd b 0 2 = 0 ∨ 1023 < rd b 0 2 ∨ 31 < rd b 2 1 ∨ 63 < rd b 3 1 ∨ 1023 < rd b 6 2 ∨ rd b 10 6 ≠ 0) := by
  unfold OpenBodyOk
  omega

theorem tunnelOpen_badArgs (h : ¬ OpenBodyOk b) : tunnelOpen c id b = c.docketReady id stBadArgs [] :=
  if_pos (not_not.mp (mt openBodyOk_iff.mpr h))

theorem tunnelOpen_refused (h : OpenBodyOk b) (hst : (c.tun (rd b 0 2)).state ≠ .closed) :
    tunnelOpen c id b = c.docketReady id stRefused [] := (if_neg (openBodyOk_iff.mp h)).trans (if_pos hst)

theorem tunnelOpen_opens (h : OpenBodyOk b) (hst : (c.tun (rd b 0 2)).state = .closed) :
    tunnelOpen c id b = (c.setTun (rd b 0 2) (openedTun b)).docketReady id stDone [] :=
  (if_neg (openBodyOk_iff.mp h)).trans (if_neg (not_not.mpr hst))

/-! ### TUNNEL_CLOSE (R214) -/

theorem exec_tunnelClose (h : s.chip.starts id 0x21 anyBody o) (hd : tunnelClose (s.chip.orderBegun id o) id (o.bytes.drop 16) = d) :
    exec (.tunnelClose id) s = .next { s with chip := d } :=
  exec_onChip (f := fun c => c.startOrder id 0x21 anyBody (fun c _ b => tunnelClose c id b)) rfl ((startOrder_runs h _).trans hd)

/-- A body of TUNNEL_CLOSE with each field in its range. -/
def CloseBodyOk (b : List Byte) : Prop := 1 ≤ rd b 0 2 ∧ rd b 0 2 ≤ 1023 ∧ rd b 2 1 ≤ 1 ∧ rd b 3 5 = 0

theorem CloseBodyOk.not_bad (h : CloseBodyOk b) : ¬ (rd b 0 2 = 0 ∨ 1023 < rd b 0 2 ∨ 1 < rd b 2 1 ∨ rd b 3 5 ≠ 0) := by
  unfold CloseBodyOk at h
  omega

theorem tunnelClose_refused (h : CloseBodyOk b) (hst : (c.tun (rd b 0 2)).state = .closed) :
    tunnelClose c id b = c.docketReady id stRefused [] := (if_neg h.not_bad).trans (if_pos hst)

theorem tunnelClose_sink (h : CloseBodyOk b) (hst : (c.tun (rd b 0 2)).state ≠ .closed) (hsink : (c.tun (rd b 0 2)).sink = true) :
    tunnelClose c id b = ((c.dropHeld (c.tun (rd b 0 2)).held).setTun (rd b 0 2) Tun.closedEnd).docketReady id stDone
      (leBytes (seqSub (c.tun (rd b 0 2)).expect 1) 2) :=
  (if_neg h.not_bad).trans ((if_neg hst).trans (if_pos hsink))

theorem tunnelClose_source (h : CloseBodyOk b) (hst : (c.tun (rd b 0 2)).state ≠ .closed) (hsink : (c.tun (rd b 0 2)).sink = false) :
    tunnelClose c id b = if rd b 2 1 = 1
      then (c.setTun (rd b 0 2) { c.tun (rd b 0 2) with draining := (c.tun (rd b 0 2)).draining ++ [id] }).drainEnd (rd b 0 2)
      else (c.abandonFences (rd b 0 2)).closeSource (rd b 0 2) ((c.tun (rd b 0 2)).draining ++ [id]) :=
  (if_neg h.not_bad).trans ((if_neg hst).trans (if_neg (ne_true_of_eq_false hsink)))

end TunnelOrders

section TunnelTimers
variable {s : State} {c : Chip} {t : Nat}

/-! ### ACK_INT and HOLE_TMO at a sink (R221, R223) -/

theorem exec_ackInt (t : Fin 1088) : exec (.ackInt t) s = s.onChip (ackInt t) := rfl
theorem exec_holeTmo (t : Fin 1088) : exec (.holeTmo t) s = s.onChip (holeTmo t) := rfl

theorem ackInt_acks (hk : c.keptSink t = true) (hn : (c.tun t).sinceAck ≠ 0) : ackInt t c = c.sendAck t := if_pos ⟨hk, hn⟩

theorem ackInt_same (h : c.keptSink t = false ∨ (c.tun t).sinceAck = 0) : ackInt t c = c := by
  refine if_neg ?_
  rintro ⟨hk, hn⟩
  obtain hk' | hn' := h
  · exact ne_true_of_eq_false hk' hk
  · exact hn hn'

theorem holeTmo_noHole (h : (c.tun t).lowestHeld = none) : holeTmo t c = c := by
  simp only [holeTmo, h]

theorem holeTmo_asks {q : Nat} (h : (c.tun t).lowestHeld = some q) (hk : c.keptSink t = true) :
    holeTmo t c = ((c.setTun t { c.tun t with resendSent := true }).sendControl t 2 (c.tun t).expect
      (seqSub q (c.tun t).expect) 0).evt TUN_EVT_RESEND_TX := by
  simp only [holeTmo, h, if_pos hk]

/-! ### KEEP_TMO at a source (R225) -/

theorem exec_keepTmo (t : Fin 1088) : exec (.keepTmo t) s = s.onChip (keepTmo t) := rfl

theorem keepTmo_same (h : (c.tun t).kept = false ∨ (c.tun t).oldest = (c.tun t).next) : keepTmo t c = c :=
  if_pos (h.imp_right (fun hq => .inr (.inr hq)))

/-- The keep timer of the end has expired once more. -/
def keepExpired (t : Nat) (c : Chip) : Chip := (c.setTun t { c.tun t with expiries := (c.tun t).expiries + 1 }).evt TUN_EVT_KEEP_TMO

theorem keepTmo_runs (hk : (c.tun t).kept = true) (hs : (c.tun t).sink = false) (hl : (c.tun t).live = true)
    (hq : (c.tun t).oldest ≠ (c.tun t).next) :
    keepTmo t c = if (keepExpired t c).get TUN_LIMITS_RESEND_LIM ≤ (c.tun t).expiries + 1
      then (((keepExpired t c).sendControl t 3 (seqSub (c.tun t).oldest 1) 0 1).tunBroken t 1 false).afterAck t
      else (keepExpired t c).resendRun t (c.tun t).oldest
        ((c.tun t).sendable (c.tun t).oldest (seqSub (c.tun t).next (c.tun t).oldest)) false :=
  if_neg (by simp [hk, hs, hl, hq])

/-! ### LOOSE_HOLD and an idle peer entry (R229, R235) -/

theorem exec_looseHold (t : Fin 1088) : exec (.looseHold t) s = s.onChip (looseHold t) := rfl
theorem exec_peerIdle (k : Fin 64) : exec (.peerIdle k) s = s.onChip (peerIdle k) := rfl

theorem looseHold_gap (hk : (c.tun t).kept = false) (hs : (c.tun t).sink = true) (ho : (c.tun t).state = .opened) :
    looseHold t c = c.declareGap t := if_pos ⟨hk, hs, ho⟩

theorem looseHold_kept (hk : (c.tun t).kept = true) : looseHold t c = c := if_neg (fun h => ne_false_of_eq_true hk h.1)

theorem peerIdle_unacknowledged {k : Nat} (h : (c.tun (1024 + k)).oldest ≠ (c.tun (1024 + k)).next) : peerIdle k c = c :=
  if_neg (fun hi => h hi.1)

theorem peerIdle_frees {k : Nat} (h : (c.tun (1024 + k)).oldest = (c.tun (1024 + k)).next)
    (hw : c.mbx.outWait.all (fun e => e.node != (c.tun (1024 + k)).peer) = true) :
    peerIdle k c = (c.dropHeld (c.tun (1024 + k)).held).freePeer (1024 + k) := if_pos ⟨h, hw⟩

end TunnelTimers

/-- Settles O26: an order by the range of its body, then by the state and the role of the end it names; a timer by what its end is and
by what it waits for. -/
theorem tunnelOpenAndClose : Obligations.TunnelOpenAndClose := by
  unfold Obligations.TunnelOpenAndClose
  rintro id o s _ _ rfl rfl
  refine ⟨fun hs => ⟨fun h0 => ?zero, ?opens⟩, ?closes, ?timers, ?peers⟩
  case zero =>
    exact exec_tunnelOpen hs (tunnelOpen_badArgs (fun ⟨h1, _⟩ => Nat.ne_of_gt h1 h0))
  case opens =>
    intro h1 h1023 hmode hring hpeer hzero
    have hok : OpenBodyOk (o.bytes.drop 16) := ⟨h1, h1023, hmode, hring, hpeer, hzero⟩
    exact ⟨fun hst => exec_tunnelOpen hs (tunnelOpen_refused hok hst), fun hst => exec_tunnelOpen hs (tunnelOpen_opens hok hst)⟩
  case closes =>
    rintro hs h1 h1023 hdrain hzero _ rfl
    have hok : CloseBodyOk (o.bytes.drop 16) := ⟨h1, h1023, hdrain, hzero⟩
    refine ⟨fun hst => exec_tunnelClose hs (tunnelClose_refused hok hst),
      fun hst hsink => exec_tunnelClose hs (tunnelClose_sink hok hst hsink), fun hst hsink hd => ?_, fun hst hsink hd => ?_⟩
    · exact exec_tunnelClose hs ((tunnelClose_source hok hst hsink).trans (if_pos hd))
    · exact exec_tunnelClose hs ((tunnelClose_source hok hst hsink).trans (if_neg (hd ▸ Nat.zero_ne_one)))
  case timers =>
    rintro t _ rfl
    refine ⟨fun hk hn => exec_onChip (exec_ackInt t) (ackInt_acks hk hn), fun h => exec_onChip_same (exec_ackInt t) (ackInt_same h),
      fun h => exec_onChip_same (exec_holeTmo t) (holeTmo_noHole h), fun q h hk => exec_onChip (exec_holeTmo t) (holeTmo_asks h hk),
      fun h => exec_onChip_same (exec_keepTmo t) (keepTmo_same h), ?keep,
      fun hk hsink ho => exec_onChip (exec_looseHold t) (looseHold_gap hk hsink ho),
      fun hk => exec_onChip_same (exec_looseHold t) (looseHold_kept hk)⟩
    case keep =>
      rintro hk hsink hl hq _ rfl
      have hrun := keepTmo_runs hk hsink hl hq
      exact ⟨fun hlt => exec_onChip (exec_keepTmo t) (hrun.trans (if_neg (Nat.not_le.mpr hlt))),
        fun hle => exec_onChip (exec_keepTmo t) (hrun.trans (if_pos hle))⟩
  case peers =>
    rintro k _ rfl
    exact ⟨fun hq => exec_onChip_same (exec_peerIdle k) (peerIdle_unacknowledged hq),
      fun hq hw => exec_onChip (exec_peerIdle k) (peerIdle_frees hq hw)⟩

end Sys2Proof.Proofs

/-! SUPPORT. The cells that the tunnel layer takes (spec/08_tunnels_and_ordering.md R211, R215 to R235): a data cell at the end it
names, and an ACK, a RESEND and a BREAK. -/

namespace Sys2Proof.Proofs
open Sys2Proof Sys2Proof.Machine Sys2Proof.Machine.Reg Sys2Proof.Laws

section DataCells
variable {c : Cell} {ecc : EccFind} {s : State} {d e : Chip} {blk : Option Nat} {t : Nat}

/-! ### A data cell comes in -/

theorem exec_dataCell : exec (.dataCell c ecc) s = s.onChip (dataCell c ecc) := rfl

/-- A cell that `dataCell` takes: neither a notice nor a control cell, and not one that waits for Porter's rewrite (R537). -/
def IsDataCell (c : Cell) (d : Chip) : Prop := c.flag 2 = false ∧ c.flag 3 = false ∧ (c.tun ≠ 0 ∨ d.upd.rewriting = none)

theorem IsDataCell.not_ignored (h : IsDataCell c d) :
    ¬ (c.flag 2 = true ∨ c.flag 3 = true ∨ (c.tun = 0 ∧ d.upd.rewriting.isSome = true)) := by
  obtain ⟨h2, h3, hw⟩ := h
  obtain ht | hr := hw
  · simp [h2, h3, ht]
  · simp [h2, h3, hr]

theorem dataCell_ignored (h : c.flag 2 = true ∨ c.flag 3 = true ∨ (c.tun = 0 ∧ d.upd.rewriting.isSome = true)) :
    dataCell c ecc d = d := if_pos h

theorem dataCell_lost (h : IsDataCell c d) (he : d.takeTunnel c ecc = (none, e)) : dataCell c ecc d = e.pumpClusters := by
  refine (if_neg h.not_ignored).trans ?_
  rw [he]

theorem dataCell_read (h : IsDataCell c d) (he : d.takeTunnel c ecc = (some blk, e)) :
    dataCell c ecc d = (if c.tun = 0 then e.dataT0 c blk else e.dataAt c blk).pumpClusters.allotReview := by
  refine (if_neg h.not_ignored).trans ?_
  rw [he]

theorem exec_dataCell_tunnel (h2 : c.flag 2 = false) (h3 : c.flag 3 = false) (ht : c.tun ≠ 0)
    (hd : s.chip.takeTunnel c ecc = (some blk, d)) (he : d.dataAt c blk = e) :
    exec (.dataCell c ecc) s = .next { s with chip := e.pumpClusters.allotReview } :=
  exec_onChip exec_dataCell ((dataCell_read ⟨h2, h3, .inl ht⟩ hd).trans (by rw [if_neg ht, he]))

theorem exec_dataCell_porter (h2 : c.flag 2 = false) (h3 : c.flag 3 = false) (ht : c.tun = 0) (hr : s.chip.upd.rewriting = none)
    (hd : s.chip.takeTunnel c ecc = (some blk, d)) (he : d.dataT0 c blk = e) :
    exec (.dataCell c ecc) s = .next { s with chip := e.pumpClusters.allotReview } :=
  exec_onChip exec_dataCell ((dataCell_read ⟨h2, h3, .inr hr⟩ hd).trans (by rw [if_pos ht, he]))

/-! ### At the end of a tunnel other than 0 (R211, R215, R233) -/

theorem dataAt_closed (h : (d.tun c.tun).state = .closed) : d.dataAt c blk = (d.dropBlk blk).unknownTun := if_pos h

theorem dataAt_bad (h : (d.tun c.tun).state ≠ .closed) (hbad : (d.tun c.tun).sink = false ∨ badData c = true) :
    d.dataAt c blk = (d.dropBlk blk).tunBad := (if_neg h).trans (if_pos hbad)

theorem dataAt_goodSink (h : (d.tun c.tun).state ≠ .closed) (hs : (d.tun c.tun).sink = true) (hg : badData c = false) :
    d.dataAt c blk = if (d.tun c.tun).state = .broken then (d.dropBlk blk).answerBreak c.tun else d.sinkCell c.tun c blk :=
  (if_neg h).trans (if_neg (by simp [hs, hg]))

theorem dataAt_broken (h : (d.tun c.tun).state = .broken) (hs : (d.tun c.tun).sink = true) (hg : badData c = false) :
    d.dataAt c blk = (d.dropBlk blk).answerBreak c.tun := (dataAt_goodSink (by simp [h]) hs hg).trans (if_pos h)

theorem dataAt_delivers (h : (d.tun c.tun).state = .opened ∨ (d.tun c.tun).state = .breaking) (hs : (d.tun c.tun).sink = true)
    (hg : badData c = false) : d.dataAt c blk = d.sinkCell c.tun c blk := by
  obtain h | h := h
  · exact (dataAt_goodSink (by simp [h]) hs hg).trans (if_neg (by simp [h]))
  · exact (dataAt_goodSink (by simp [h]) hs hg).trans (if_neg (by simp [h]))

/-! ### Tunnel 0 at Porter (R211, R215, R235) -/

theorem dataT0_stopped (h : d.boot.porter = false) : d.dataT0 c blk = (d.dropBlk blk).unknownTun := if_pos h

theorem dataT0_bad (h : d.boot.porter = true) (hbad : badData c = true) : d.dataT0 c blk = (d.dropBlk blk).tunBad :=
  (if_neg (ne_false_of_eq_true h)).trans (if_pos hbad)

theorem dataT0_peer (h : d.boot.porter = true) (hg : badData c = false) (ha : d.allocPeer (rd c.data 0 2) = (some t, e)) :
    d.dataT0 c blk = e.sinkCell t c blk := by
  refine (if_neg (ne_false_of_eq_true h)).trans ((if_neg (ne_true_of_eq_false hg)).trans ?_)
  rw [ha]

/-! ### At an open sink, by the distance of its SEQ from EXPECT (R217, R227 to R230) -/

theorem isPeer_eq_false (ht : t < 1024) : isPeer t = false := decide_eq_false (Nat.not_le.mpr ht)

/-- Only a peer entry of tunnel 0 is synchronised (R235). -/
theorem sync_of_not_peer (ht : t < 1024) : d.sync t c = d := if_pos (isPeer_eq_false ht)

/-- An early cell is held, and the hole before it is a new one where nothing was held (R223, R227). -/
def earlyTaken (d : Chip) (t : Nat) (c : Cell) (blk : Option Nat) : Chip :=
  (if (d.tun t).held = [] then d.setTun t { d.tun t with resendSent := false } else d).holdEarly t c blk

section NotPeer
variable (ht : t < 1024)
include ht

theorem sinkCell_expected (h : seqSub c.seq (d.tun t).expect = 0) : d.sinkCell t c blk = d.deliverAt t c blk := by
  unfold Chip.sinkCell
  rw [sync_of_not_peer ht]
  exact if_pos h

theorem sinkCell_later (h1 : 1 ≤ seqSub c.seq (d.tun t).expect) (hw : seqSub c.seq (d.tun t).expect ≤ 8191) :
    d.sinkCell t c blk = if (d.tun t).held.any (fun e => e.1 == c.seq) then d.duplicate t blk
      else if (d.tun t).kept = false ∧ ((earlyTaken d t c blk).tun t).held.length ≠ 0
          ∧ (earlyTaken d t c blk).get TUN_WINDOWS_RESEQ_DEPTH ≤ ((earlyTaken d t c blk).tun t).held.length
        then (earlyTaken d t c blk).declareGap t else earlyTaken d t c blk := by
  unfold Chip.sinkCell
  rw [sync_of_not_peer ht]
  exact (if_neg (Nat.ne_of_gt h1)).trans (if_pos hw)

theorem sinkCell_past (h : 57344 ≤ seqSub c.seq (d.tun t).expect) :
    d.sinkCell t c blk = if (d.tun t).kept then d.duplicate t blk else ((d.dropBlk blk).inc TUN_LATE_DROP).evt TUN_EVT_LATE := by
  unfold Chip.sinkCell
  rw [sync_of_not_peer ht]
  exact (if_neg (by omega)).trans ((if_neg (by omega)).trans (if_pos h))

theorem sinkCell_outside (hw : 8192 ≤ seqSub c.seq (d.tun t).expect) (h : seqSub c.seq (d.tun t).expect < 57344) :
    d.sinkCell t c blk = (d.dropBlk blk).tunBad := by
  unfold Chip.sinkCell
  rw [sync_of_not_peer ht]
  exact (if_neg (by omega)).trans ((if_neg (by omega)).trans (if_neg (by omega)))

end NotPeer

end DataCells

section ControlCells
variable {c : Cell} {ecc : EccFind} {s : State} {d e : Chip} {blk : Option Nat} {t k : Nat} {f : Chip → Nat → Chip}

/-! ### A control cell comes in (R220) -/

/-- The command takes the control cells of a CTYPE. -/
def TakesControl (i : Instr) (c : Cell) (ecc : EccFind) (k : Nat) : Prop :=
  (i = .ack c ecc ∧ k = 1) ∨ (i = .resend c ecc ∧ k = 2) ∨ (i = .breakCell c ecc ∧ k = 3)

theorem exec_ack : exec (.ack c ecc) s = s.onChip (fun d => d.controlIn c 1 ecc (ackAt c)) := rfl
theorem exec_resend : exec (.resend c ecc) s = s.onChip (fun d => d.controlIn c 2 ecc (resendAt c)) := rfl
theorem exec_breakCell : exec (.breakCell c ecc) s = s.onChip (fun d => d.controlIn c 3 ecc (breakAt c)) := rfl

theorem exec_control {i : Instr} (h : TakesControl i c ecc k) : ∃ f, exec i s = s.onChip (fun d => d.controlIn c k ecc f) := by
  obtain ⟨rfl, rfl⟩ | ⟨rfl, rfl⟩ | ⟨rfl, rfl⟩ := h
  · exact ⟨_, exec_ack⟩
  · exact ⟨_, exec_resend⟩
  · exact ⟨_, exec_breakCell⟩

theorem controlIn_ignored (h : c.flag 2 = true ∨ c.flag 3 = false ∨ (badControl c = false ∧ ctlType c ≠ k)) :
    d.controlIn c k ecc f = d := if_pos h

section IsControl
variable (h2 : c.flag 2 = false) (h3 : c.flag 3 = true)
include h2 h3

theorem not_ignored_of_control (h : badControl c = true ∨ ctlType c = k) :
    ¬ (c.flag 2 = true ∨ c.flag 3 = false ∨ (badControl c = false ∧ ctlType c ≠ k)) := by
  obtain hb | hk := h
  · simp [h2, h3, hb]
  · simp [h2, h3, hk]

theorem controlIn_lost (h : badControl c = true ∨ ctlType c = k) (he : d.takeTunnel c ecc = (none, e)) :
    d.controlIn c k ecc f = e.pumpClusters := by
  refine (if_neg (not_ignored_of_control h2 h3 h)).trans ?_
  rw [he]

theorem controlIn_bad (hb : badControl c = true) (he : d.takeTunnel c ecc = (some blk, e)) :
    d.controlIn c k ecc f = (e.dropBlk blk).tunBad.pumpClusters := by
  refine (if_neg (not_ignored_of_control h2 h3 (.inl hb))).trans ?_
  rw [he]
  exact congrArg Chip.pumpClusters (if_pos hb)

theorem controlIn_tunnel (hb : badControl c = false) (hk : ctlType c = k) (ht : c.tun ≠ 0) (he : d.takeTunnel c ecc = (some blk, e)) :
    d.controlIn c k ecc f = (if ((e.dropBlk blk).tun c.tun).state = .closed then (e.dropBlk blk).unknownTun
      else f (e.dropBlk blk) c.tun).pumpClusters := by
  refine (if_neg (not_ignored_of_control h2 h3 (.inr hk))).trans ?_
  rw [he]
  exact congrArg Chip.pumpClusters ((if_neg (ne_true_of_eq_false hb)).trans (if_neg ht))

theorem controlIn_closed (hb : badControl c = false) (hk : ctlType c = k) (ht : c.tun ≠ 0) (he : d.takeTunnel c ecc = (some blk, e))
    (hst : ((e.dropBlk blk).tun c.tun).state = .closed) : d.controlIn c k ecc f = (e.dropBlk blk).unknownTun.pumpClusters :=
  (controlIn_tunnel h2 h3 hb hk ht he).trans (congrArg Chip.pumpClusters (if_pos hst))

theorem controlIn_opened (hb : badControl c = false) (hk : ctlType c = k) (ht : c.tun ≠ 0) (he : d.takeTunnel c ecc = (some blk, e))
    (hst : ((e.dropBlk blk).tun c.tun).state = .opened) : d.controlIn c k ecc f = (f (e.dropBlk blk) c.tun).pumpClusters :=
  (controlIn_tunnel h2 h3 hb hk ht he).trans (congrArg Chip.pumpClusters (if_neg (by simp [hst])))

end IsControl

/-! ### At an open end (R222, R224, R231) -/

theorem breakAt_loose (hk : (d.tun t).kept = false) : breakAt c d t = d := if_pos hk

section Opened
variable (ho : (d.tun t).state = .opened)
include ho

theorem not_broken_of_opened : ¬ (d.tun t).state = .broken := by simp [ho]

theorem ackAt_source (ht : t < 1024) (hs : (d.tun t).sink = false) : ackAt c d t = (d.takeAck t (ctlSeq c)).afterAck t :=
  (if_neg (not_broken_of_opened ho)).trans ((if_neg (ne_true_of_eq_false hs)).trans
    (if_neg (ne_true_of_eq_false (isPeer_eq_false ht))))

theorem ackAt_sink (hs : (d.tun t).sink = true) : ackAt c d t = d.tunBad := (if_neg (not_broken_of_opened ho)).trans (if_pos hs)

theorem resendAt_source (hs : (d.tun t).sink = false) :
    resendAt c d t = (d.resendRun t (ctlSeq c) ((d.tun t).sendable (ctlSeq c) (ctlCount c)) true).evt TUN_EVT_RESEND_RX :=
  (if_neg (not_broken_of_opened ho)).trans (if_neg (ne_true_of_eq_false hs))

theorem resendAt_sink (hs : (d.tun t).sink = true) : resendAt c d t = d.tunBad :=
  (if_neg (not_broken_of_opened ho)).trans (if_pos hs)

theorem breakAt_stops (hk : (d.tun t).kept = true) (hr : ctlReason c = 2) (hs : (d.tun t).sink = true) :
    breakAt c d t = (d.setTun t { d.tun t with state := .breaking, rxBreak := some (ctlSeq c) }).sinkBreakReached t :=
  (if_neg (ne_false_of_eq_true hk)).trans ((if_neg (not_broken_of_opened ho)).trans (if_pos ⟨hr, .inl hs⟩))

theorem breakAt_breaks (ht : t < 1024) (hk : (d.tun t).kept = true) (hr : ctlReason c ≠ 2) :
    breakAt c d t = (d.tunBroken t (ctlReason c) (d.tun t).sink).afterAck t := by
  refine (if_neg (ne_false_of_eq_true hk)).trans ((if_neg (not_broken_of_opened ho)).trans ((if_neg (fun h => hr h.1)).trans ?_))
  simp only [Tun.brokenSink, isPeer_eq_false ht, Bool.false_eq_true, if_false]

end Opened

end ControlCells

/-- Settles O27: a cell by whether the command takes it and what the read leaves; a data cell by the tunnel, the state and the role of
its end and the distance of its SEQ, and a control cell by its form, then by the end and its role. -/
theorem tunnelCellsReceived : Obligations.TunnelCellsReceived := by
  unfold Obligations.TunnelCellsReceived
  refine fun c ecc s => ⟨fun h => exec_onChip_same exec_dataCell (dataCell_ignored h), fun d hd => ?lost,
    fun blk d hd => ⟨?data, ?porter, ?control, ?opened⟩⟩
  case lost =>
    exact ⟨fun h2 h3 hw => exec_onChip exec_dataCell (dataCell_lost ⟨h2, h3, hw⟩ hd),
      fun h2 h3 h => exec_onChip exec_ack (controlIn_lost h2 h3 h hd),
      fun h2 h3 h => exec_onChip exec_resend (controlIn_lost h2 h3 h hd),
      fun h2 h3 h => exec_onChip exec_breakCell (controlIn_lost h2 h3 h hd)⟩
  case data =>
    rintro h2 h3 ht _ rfl
    have hrun {e : Chip} (he : d.dataAt c blk = e) := exec_dataCell_tunnel (s := s) h2 h3 ht hd he
    refine ⟨fun hst => hrun (dataAt_closed hst), fun hst hbad => hrun (dataAt_bad hst hbad),
      fun hst hs hg => hrun (dataAt_broken hst hs hg), ?_⟩
    rintro hst hs hg h1024 _ rfl
    have hsink := dataAt_delivers (blk := blk) hst hs hg
    refine ⟨fun h => hrun (hsink.trans (sinkCell_expected h1024 h)), fun h1 hw hheld => ?_, ?_,
      fun hw h => hrun (hsink.trans (sinkCell_outside h1024 hw h)), fun h hk => ?_, fun h hk => ?_⟩
    · exact hrun (hsink.trans ((sinkCell_later h1024 h1 hw).trans (if_pos hheld)))
    · rintro _ _ rfl rfl h1 hw hheld
      exact hrun (hsink.trans ((sinkCell_later h1024 h1 hw).trans (if_neg (ne_true_of_eq_false hheld))))
    · exact hrun (hsink.trans ((sinkCell_past h1024 h).trans (if_pos hk)))
    · exact hrun (hsink.trans ((sinkCell_past h1024 h).trans (if_neg (ne_true_of_eq_false hk))))
  case porter =>
    intro h2 h3 ht hr
    have hrun {e : Chip} (he : d.dataT0 c blk = e) := exec_dataCell_porter h2 h3 ht hr hd he
    exact ⟨fun hp => hrun (dataT0_stopped hp), fun hp hbad => hrun (dataT0_bad hp hbad),
      fun t e hp hg ha => hrun (dataT0_peer hp hg ha)⟩
  case control =>
    intro i k hi
    obtain ⟨f, hexec⟩ := exec_control (s := s) hi
    exact ⟨fun h => exec_onChip_same hexec (controlIn_ignored h), fun h2 h3 hb => exec_onChip hexec (controlIn_bad h2 h3 hb hd),
      fun h2 h3 hb hk ht hst => exec_onChip hexec (controlIn_closed h2 h3 hb hk ht hd hst)⟩
  case opened =>
    rintro _ _ rfl rfl h2 h3 hb ht h1024 ho
    have hrun {i : Instr} {k : Nat} {f : Chip → Nat → Chip} {e : Chip} (hi : exec i s = s.onChip (fun d => d.controlIn c k ecc f))
        (hk : ctlType c = k) (he : f (d.dropBlk blk) c.tun = e) : exec i s = .next { s with chip := e.pumpClusters } :=
      exec_onChip hi ((controlIn_opened h2 h3 hb hk ht hd ho).trans (congrArg Chip.pumpClusters he))
    exact ⟨fun hk hs => hrun exec_ack hk (ackAt_source ho h1024 hs), fun hk hs => hrun exec_ack hk (ackAt_sink ho hs),
      fun hk hs => hrun exec_resend hk (resendAt_source ho hs), fun hk hs => hrun exec_resend hk (resendAt_sink ho hs),
      fun hk hl => hrun exec_breakCell hk (breakAt_loose hl), fun hk hkept hr hs => hrun exec_breakCell hk (breakAt_stops ho hkept hr hs),
      fun hk hkept hr => hrun exec_breakCell hk (breakAt_breaks ho h1024 hkept hr)⟩

end Sys2Proof.Proofs

/-! SUPPORT. A hand's own registers (spec/09_fungatre_machine.md R251 to R255, R261 to R265): what completing an instruction changes,
CSRR and CSRW of Table 9.2, and the trap that TRAP enters. -/

namespace Sys2Proof.Proofs
open Sys2Proof Sys2Proof.Machine Sys2Proof.Machine.Reg Sys2Proof.Laws

/-! ### An instruction that issues -/

section Issued
variable {i : Instr} {h : HandId} {s : State} {f : Chip → Chip} {c : Chip}

theorem exec_issued (he : exec i s = s.issueChip h f) (hs : s.chip.issues h = true) (hf : f s.chip = c) :
    exec i s = .next (s.settle c) := by
  rw [he, State.issueChip, issue_runs hs, hf]

/-- An instruction whose effect leaves Porter running keeps the addressed memories. -/
theorem exec_issued_chip (he : exec i s = s.issueChip h f) (hs : s.chip.issues h = true) (hf : f s.chip = c)
    (hr : c.cores.restarts = s.chip.cores.restarts) : exec i s = .next { s with chip := c } := by
  rw [exec_issued he hs hf, settle_eq hr]

end Issued

/-! ### Completion (R251, R296) -/

theorem setW_frame (x : Hand) (d : BitVec 5) (v : Word) : ∃ regs, x.setW d v = { x with regs := regs } := by
  unfold Hand.setW
  split
  · exact ⟨x.regs, rfl⟩
  · exact ⟨_, rfl⟩

theorem w_setW (x : Hand) (d r : BitVec 5) (v : Word) : (x.setW d v).w r = if r = d ∧ d ≠ 0 then v else x.w r := by
  by_cases hr : r = d
  · subst hr
    by_cases hd : r = 0
    · simp [hd]
    · rw [w_setW_same _ _ _ hd, if_pos ⟨rfl, hd⟩]
  · rw [w_setW_other _ _ _ _ hr, if_neg (fun e => hr e.1)]

/-- Settles O8: the hand's next record is the one with `d` written, counted and moved on, and `setW` changes the registers alone. -/
theorem completionChangesOneRegister : Obligations.CompletionChangesOneRegister := by
  unfold Obligations.CompletionChangesOneRegister
  rintro s h d v _ rfl x _ rfl rfl
  have hy : (s.completes h d v).chip.hand h = ((s.chip.hand h).setW d v).done (nextPc h (s.chip.hand h).pc) :=
    hand_complete _ _ _ _
  have hw (r : BitVec 5) : ((s.completes h d v).chip.hand h).w r = if r = d ∧ d ≠ 0 then v else (s.chip.hand h).w r := by
    rw [hy, w_done, w_setW]
  obtain ⟨regs, hregs⟩ := setW_frame (s.chip.hand h) d v
  refine ⟨hw, ?_⟩
  rw [hy, hregs]
  exact ⟨rfl, rfl, rfl, rfl, rfl, rfl, rfl, rfl, rfl, rfl, rfl, rfl, fun k hk => hand_complete_other _ _ _ _ _ hk,
    fun _ => rfl, rfl, rfl, fun _ => rfl, rfl, rfl⟩

/-! ### Hand CSRs (Table 9.2) -/

theorem restarts_csrLatch (c : Chip) (h : HandId) (n : Nat) : (c.csrLatch h n).cores.restarts = c.cores.restarts := by
  unfold Chip.csrLatch
  dsimp only
  split <;> rfl

theorem restarts_feedWdog (c : Chip) (h : HandId) (v : Nat) : (c.feedWdog h v).cores.restarts = c.cores.restarts := by
  unfold Chip.feedWdog
  dsimp only
  split <;> rfl

theorem restarts_claimCregs (c : Chip) (h : HandId) (m : Nat) : (c.claimCregs h m).cores.restarts = c.cores.restarts :=
  foldl_keeps (fun c : Chip => c.cores.restarts) _ _ _ (fun _ _ => by split <;> rfl)

theorem restarts_releaseCregs (c : Chip) (h : HandId) (m : Nat) : (c.releaseCregs h m).cores.restarts = c.cores.restarts :=
  foldl_keeps (fun c : Chip => c.cores.restarts) _ _ _ (fun _ _ => by split <;> rfl)

theorem restarts_ringBells (c : Chip) (h : HandId) (m : Nat) : (c.ringBells h m).cores.restarts = c.cores.restarts :=
  foldl_keeps (fun c : Chip => c.cores.restarts) _ _ _ (fun _ _ => by split <;> rfl)

theorem restarts_csrWriteValue (c : Chip) (h : HandId) (n v : Nat) :
    (c.csrWriteValue h n v).cores.restarts = c.cores.restarts := by
  unfold Chip.csrWriteValue
  dsimp only
  split
  case h_5 => exact restarts_feedWdog c h v
  case h_6 => exact restarts_claimCregs c h v
  case h_7 => exact restarts_releaseCregs c h v
  case h_8 => exact restarts_ringBells c h v
  case h_9 => split <;> rfl
  all_goals rfl

section HandCsrs
variable {h : HandId} {s : State} (hs : s.chip.issues h = true)
include hs

theorem exec_csrr_known (d : BitVec 5) {n : BitVec 16} (hk : csrKnown h n.toNat = true) :
    exec (.csrr h d n) s
      = .next { s with chip := (s.chip.csrLatch h n.toNat).complete h d (BitVec.ofNat 32 (s.chip.csrValue h n.toNat)) } :=
  exec_issued_chip (f := fun c => c.csrr h d n) rfl hs (if_pos hk) (restarts_csrLatch _ _ _)

theorem exec_csrr_unknown (d : BitVec 5) {n : BitVec 16} (hk : csrKnown h n.toNat = false) :
    exec (.csrr h d n) s = .next (s.settle (s.chip.trapHere h 1 (fmtI 0x28 d 0 n))) :=
  exec_issued (f := fun c => c.csrr h d n) rfl hs (if_neg (ne_true_of_eq_false hk))

theorem exec_csrw_known (a : BitVec 5) {n : BitVec 16} (hk : csrKnown h n.toNat = true) :
    exec (.csrw h a n) s
      = .next { s with chip := (s.chip.csrWriteValue h n.toNat ((s.chip.hand h).w a).toNat).advance h } :=
  exec_issued_chip (f := fun c => c.csrw h a n) rfl hs (if_pos hk) (restarts_csrWriteValue _ _ _ _)

theorem exec_csrw_unknown (a : BitVec 5) {n : BitVec 16} (hk : csrKnown h n.toNat = false) :
    exec (.csrw h a n) s = .next (s.settle (s.chip.trapHere h 1 (fmtI 0x29 0 a n))) :=
  exec_issued (f := fun c => c.csrw h a n) rfl hs (if_neg (ne_true_of_eq_false hk))

end HandCsrs

/-- The stretches of numbers that Table 9.2 leaves out. -/
theorem csrKnown_unlisted (h : HandId) {n : Nat} (hn : 7 ≤ n ∧ n < 0x10 ∨ 0x12 ≤ n ∧ n < 0x20 ∨ 0x51 ≤ n) :
    csrKnown h n = false := by
  have h1 : ¬ (n ≤ 6 ∨ n = 0x10 ∨ n = 0x11 ∨ n = 0x30 ∨ n = 0x31 ∨ (0x40 ≤ n ∧ n ≤ 0x43) ∨ n = 0x50) := by omega
  have h2 : ¬ (0x20 ≤ n ∧ n ≤ 0x22) := by omega
  simp [csrKnown, h1, h2]

theorem feedWdog_feeds {c : Chip} {h : HandId} {v : Nat} (hv : v % 65536 ≠ 0 ∨ c.fieldOwner h = false) :
    c.feedWdog h v = c.setHand h { c.hand h with wdogPeriod := v % 65536, wdogFrom := c.tick, unfed := false } :=
  if_neg (fun e => hv.elim (fun hne => hne e.1) (fun hno => ne_true_of_eq_false hno e.2))

/-- A field-owning hand cannot disable its watchdog (R265). -/
theorem feedWdog_ignored {c : Chip} {h : HandId} {v : Nat} (hv : v % 65536 = 0) (ho : c.fieldOwner h = true) :
    c.feedWdog h v = c := if_pos ⟨hv, ho⟩

/-- Settles O9, by the number: whether Table 9.2 has it, and then what it reads, latches or sets. -/
theorem handCsrs : Obligations.HandCsrs := by
  unfold Obligations.HandCsrs
  have hofNat (v : Word) : BitVec.ofNat 32 v.toNat = v := by simp
  constructor
  · rintro h d s hs x rfl
    have hread (n : BitVec 16) (hk : csrKnown h n.toNat = true) {v : Word} (hv : BitVec.ofNat 32 (s.chip.csrValue h n.toNat) = v) :
        exec (.csrr h d n) s = .next { s with chip := (s.chip.csrLatch h n.toNat).complete h d v } := hv ▸ exec_csrr_known hs d hk
    exact ⟨hread 0x000 rfl rfl, hread 0x001 rfl rfl, hread 0x002 rfl rfl, hread 0x003 rfl rfl, hread 0x004 rfl rfl,
      hread 0x005 rfl (hofNat _), hread 0x006 rfl (hofNat _), hread 0x010 rfl rfl, hread 0x031 rfl rfl,
      hread 0x050 rfl rfl, hread 0x042 rfl rfl, hread 0x040 rfl rfl,
      fun v hv => hread 0x043 rfl (congrArg (fun o : Option Nat => BitVec.ofNat 32 (o.getD _)) hv),
      fun n hn => exec_csrr_unknown hs d (csrKnown_unlisted h hn)⟩
  · rintro h a s hs x v after rfl rfl hafter
    have hwrite (n : BitVec 16) (hk : csrKnown h n.toNat = true) {c : Chip}
        (hc : s.chip.csrWriteValue h n.toNat ((s.chip.hand h).w a).toNat = c) :
        exec (.csrw h a n) s = .next { s with chip := c.advance h } := by
      rw [exec_csrw_known hs a hk, hc]
    simp only [hafter]
    refine ⟨hwrite 0x001 rfl ?_, hwrite 0x002 rfl rfl, hwrite 0x004 rfl rfl, hwrite 0x006 rfl ?_, fun hv => hwrite 0x031 rfl ?_,
      fun hv => hwrite 0x031 rfl ?_, ?_, fun hv => ⟨hwrite 0x010 rfl (feedWdog_feeds hv), rfl⟩,
      fun hv ho => hwrite 0x010 rfl (feedWdog_ignored hv ho), fun n hn => exec_csrw_unknown hs a (csrKnown_unlisted h hn)⟩
    · exact congrArg (fun b => s.chip.setHand h { s.chip.hand h with inTrap := b }) (bit_toNat _ 0)
    · exact congrArg (fun v => s.chip.setHand h { s.chip.hand h with tscratch := v }) (hofNat _)
    · exact if_pos ((bit_toNat _ 0).trans hv)
    · exact if_neg (ne_true_of_eq_false ((bit_toNat _ 0).trans hv))
    · rintro n (rfl | rfl | rfl)
      · exact hwrite 0x000 rfl rfl
      · exact hwrite 0x003 rfl rfl
      · exact hwrite 0x005 rfl rfl

/-! ### A hand that goes down (R263, Table 9.4) -/

theorem benchOf_lt {h : HandId} (hb : onBench h = true) : benchOf h < 16 := by
  have : h.val < 64 := of_decide_eq_true hb
  unfold benchOf
  omega

theorem handOf_lt (h : HandId) : handOf h < 4 := Nat.mod_lt _ (by decide)

theorem programFailed_outsideHealth {c : Chip} (hp : c.get UPD_STAT_PHASE ≠ 4) (h : HandId) (cause : Nat) :
    c.programFailed h cause = c := by
  have hunit (kind inst : Nat) : c.unitFailed kind inst cause = c := by simp [Chip.unitFailed, Chip.inHealth, hp]
  unfold Chip.programFailed
  rw [hunit, hunit]
  split
  · rfl
  · exact ite_self c

/-- A bench hand that goes down outside a health window halts. -/
theorem handDown_bench {c : Chip} {h : HandId} (hb : onBench h = true) (hp : c.get UPD_STAT_PHASE ≠ 4) :
    c.handDown h = c.haltHand h := by
  rw [Chip.handDown, if_pos hb, programFailed_outsideHealth]
  rwa [get_haltHand]

/-- BCH_HAND_CAUSE_b_h and BCH_EVT_b.TRAP lie apart, each field in its own place, below the planting unit's registers. -/
theorem handCause_keys {b k : Nat} (hb : b < 16) (hk : k < 4) :
    (BCH_EVT_TRAP b).key < (BCH_HAND_CAUSE_CAUSE b k).key
    ∧ (BCH_HAND_CAUSE_CAUSE b k).key < (BCH_HAND_CAUSE_DOUBLE b k).key
    ∧ (BCH_HAND_CAUSE_DOUBLE b k).key < (BCH_HAND_CAUSE_EPC b k).key
    ∧ (BCH_HAND_CAUSE_EPC b k).key < UPD_STAT_PHASE.key := by
  simp only [Fld.key, BCH_EVT_TRAP, BCH_HAND_CAUSE_CAUSE, BCH_HAND_CAUSE_DOUBLE, BCH_HAND_CAUSE_EPC, UPD_STAT_PHASE]
  omega

theorem recordCause_bench {h : HandId} (hb : onBench h = true) (c : Chip) (cause : Nat) (dbl : Bool) (epc : BitVec 18) :
    c.recordCause h cause dbl epc = ((c.put (BCH_HAND_CAUSE_CAUSE (benchOf h) (handOf h)) cause).put
      (BCH_HAND_CAUSE_DOUBLE (benchOf h) (handOf h)) (b2n dbl)).put (BCH_HAND_CAUSE_EPC (benchOf h) (handOf h)) epc.toNat :=
  if_pos hb

theorem outsideLog_of_le_phase {f : Fld} (hf : f.key ≤ UPD_STAT_PHASE.key) : outsideLog f := by
  have : UPD_STAT_PHASE.key < 0x18 * 2 ^ 21 := by decide
  unfold outsideLog
  omega

theorem phase_outsideLog : outsideLog UPD_STAT_PHASE := outsideLog_of_le_phase (Nat.le_refl _)

section BenchRecord
variable {h : HandId} (hb : onBench h = true)
include hb

theorem phase_recordCause (c : Chip) (cause : Nat) (dbl : Bool) (epc : BitVec 18) :
    (c.recordCause h cause dbl epc).get UPD_STAT_PHASE = c.get UPD_STAT_PHASE := by
  obtain ⟨htc, hcd, hde, hep⟩ := handCause_keys (benchOf_lt hb) (handOf_lt h)
  rw [recordCause_bench hb, get_put_other _ _ _ _ (by omega), get_put_other _ _ _ _ (by omega), get_put_other _ _ _ _ (by omega)]

theorem phase_trapRecord (c : Chip) (cause : Nat) (dbl : Bool) (epc : BitVec 18) :
    (trapRecord c h cause dbl epc).get UPD_STAT_PHASE = c.get UPD_STAT_PHASE := by
  obtain ⟨htc, hcd, hde, hep⟩ := handCause_keys (benchOf_lt hb) (handOf_lt h)
  rw [trapRecord, if_pos hb, get_evtBit_other _ _ _ _ phase_outsideLog (by omega), phase_recordCause hb]

theorem trapRecord_shows (c : Chip) (cause : Nat) (dbl : Bool) (epc : BitVec 18) :
    (trapRecord c h cause dbl epc).get (BCH_HAND_CAUSE_CAUSE (benchOf h) (handOf h)) = cause % 256
    ∧ (trapRecord c h cause dbl epc).get (BCH_HAND_CAUSE_DOUBLE (benchOf h) (handOf h)) = b2n dbl % 2
    ∧ (trapRecord c h cause dbl epc).get (BCH_HAND_CAUSE_EPC (benchOf h) (handOf h)) = epc.toNat % 65536
    ∧ (trapRecord c h cause dbl epc).get (BCH_EVT_TRAP (benchOf h)) = setBit (c.get (BCH_EVT_TRAP (benchOf h))) (handOf h) % 16 := by
  obtain ⟨htc, hcd, hde, hep⟩ := handCause_keys (benchOf_lt hb) (handOf_lt h)
  rw [trapRecord, if_pos hb, recordCause_bench hb]
  refine ⟨?_, ?_, ?_, ?_⟩
  · rw [get_evtBit_other _ _ _ _ (outsideLog_of_le_phase (by omega)) (by omega), get_put_other _ _ _ _ (by omega),
      get_put_other _ _ _ _ (by omega), get_put_same]
    rfl
  · rw [get_evtBit_other _ _ _ _ (outsideLog_of_le_phase (by omega)) (by omega), get_put_other _ _ _ _ (by omega), get_put_same]
    rfl
  · rw [get_evtBit_other _ _ _ _ (outsideLog_of_le_phase (by omega)) (by omega), get_put_same]
    rfl
  · rw [get_evtBit_same _ _ _ (outsideLog_of_le_phase (by omega)), get_put_other _ _ _ _ (by omega),
      get_put_other _ _ _ _ (by omega), get_put_other _ _ _ _ (by omega)]
    rfl

end BenchRecord

/-! ### TRAP (R261, R263, R290) -/

/-- TRAP counts, and its trap is taken with TEPC past it. -/
theorem trapInstr_taken {c : Chip} {h : HandId} {x : Hand} (hx : c.hand h = x) (ht : x.takesTrap = true) (imm : BitVec 16) :
    c.trapInstr h imm = ((trapRecord (c.setHand h x.count) h 8 false x.pc).withdrawStalled h).setHand h
      (trapped x.count 8 (zext16 imm) (nextPc h x.pc)) := by
  subst hx
  have hhand : (c.setHand h (c.hand h).count).hand h = (c.hand h).count := hand_setHand _ _ _
  rw [Chip.trapInstr, trap_taken _ _ _ _ _ (by rw [hhand]; exact ht) rfl, hhand]
  rfl

/-- A trap in a handler, or without one, takes a bench hand down (R263 step 5). -/
theorem trap_double {c : Chip} {h : HandId} {x : Hand} (hb : onBench h = true) (hx : c.hand h = x) (ht : x.takesTrap = false)
    (ho : c.fieldOwner h = false) (cause : Nat) (tval : Word) (epc : BitVec 18) :
    c.trap h cause tval epc
      = ((trapRecord c h cause true x.pc).evt (BCH_EVT_DOUBLE_TRAP (benchOf h))).handDown h := by
  subst hx
  have hdbl : ((c.hand h).inTrap || decide ((c.hand h).tvec = 0)) = true := by
    simp only [Hand.takesTrap] at ht
    cases hi : (c.hand h).inTrap <;> simp_all
  unfold Chip.trap
  simp only [hdbl, hb, ho, if_true, Bool.false_eq_true, if_false, trapRecord]

/-- Settles O11, by whether the hand takes the trap: what `trap` records and the record it leaves, or the hand that goes down. -/
theorem trapEntersHandler : Obligations.TrapEntersHandler := by
  unfold Obligations.TrapEntersHandler
  rintro h imm s hs x rfl
  refine ⟨fun ht => ?taken, fun ht hb hp ho => ?double⟩
  case taken =>
    have heq := trapInstr_taken (c := s.chip) rfl ht imm
    refine ⟨_, exec_issued_chip (f := fun c => c.trapInstr h imm) rfl hs heq ?_, rfl, hand_setHand _ _ _, fun hb => ?_⟩
    · rw [setHand_restarts, restarts_withdrawStalled, trapRecord_cores]
      rfl
    · simp only [setHand_get, get_withdrawStalled]
      exact trapRecord_shows hb (s.chip.setHand h (s.chip.hand h).count) 8 false (s.chip.hand h).pc
  case double =>
    refine ⟨_, exec_issued (f := fun c => c.trapInstr h imm) rfl hs rfl, ?_⟩
    rw [settle_chip, Chip.trapInstr, trap_double (x := (s.chip.hand h).count) hb (hand_setHand _ _ _) ht ho, handDown_bench hb]
    · exact state_haltHand _ h
    · rw [get_evt_other _ _ _ phase_outsideLog, phase_trapRecord hb]
      · exact hp
      · have := benchOf_lt hb
        simp only [Fld.key, UPD_STAT_PHASE, BCH_EVT_DOUBLE_TRAP]
        omega

end Sys2Proof.Proofs

/-! SUPPORT. The hands of a core taken one by one, and the cell registers of a bench (spec/09_fungatre_machine.md R252, R253, R269,
spec/11_fungatre_tunnel_instructions.md R303 to R307, R318): claims, EXTR, EDIT, CRC and MOVE. -/

namespace Sys2Proof.Proofs
open Sys2Proof Sys2Proof.Machine Sys2Proof.Machine.Reg Sys2Proof.Laws

/-! ### A change made at each hand of a core -/

section BenchHands
variable {b k : Nat} (hb : b < 16)
include hb

theorem benchHand_val (hk : k < 4) : (benchHand b k).val = 4 * b + k := by
  unfold benchHand
  rw [dif_pos (by omega)]

theorem coreOf_benchHand (hk : k < 4) : coreOf (benchHand b k) = b := by
  have := benchHand_val hb hk
  unfold coreOf
  rw [if_pos (by omega)]
  omega

theorem handsOf_bench :
    (handsOf b).zipIdx = [(benchHand b 0, 0), (benchHand b 1, 1), (benchHand b 2, 2), (benchHand b 3, 3)] := by
  unfold handsOf
  rw [if_pos hb]
  rfl

theorem mem_handsOf_bench (hk : k < 4) : (benchHand b k, k) ∈ (handsOf b).zipIdx := by
  rw [handsOf_bench hb]
  interval_cases k <;> simp

theorem coreOf_of_mem_handsOf {e : HandId × Nat} (he : e ∈ (handsOf b).zipIdx) : coreOf e.1 = b := by
  simp only [handsOf_bench hb, List.mem_cons, List.not_mem_nil, or_false] at he
  obtain rfl | rfl | rfl | rfl := he <;> exact coreOf_benchHand hb (by decide)

theorem nodup_handsOf_bench : ((handsOf b).zipIdx.map Prod.fst).Nodup := by
  have hval (k : Nat) (hk : k < 4) := benchHand_val hb hk
  simp only [handsOf_bench hb, List.map_cons, List.map_nil, List.nodup_cons, List.mem_cons, List.not_mem_nil, or_false, not_or,
    Fin.ext_iff, hval 0 (by decide), hval 1 (by decide), hval 2 (by decide), hval 3 (by decide)]
  simp

end BenchHands

/-- Porter and Steward have one hand each. -/
theorem handsOf_alone {h : HandId} (hb : onBench h = false) : handsOf (coreOf h) = [h] := by
  have : ¬ h.val < 64 := of_decide_eq_false hb
  have hval : h.val = 64 ∨ h.val = 65 := by omega
  obtain rfl | rfl : h = 64 ∨ h = 65 := hval.imp Fin.ext Fin.ext
  · rfl
  · rfl

/-- Where each step of a fold acts on its own hand and keeps `P`, a hand is what its step makes of it, on a chip that has the hand as
it was and satisfies `P`. -/
theorem hand_foldl {f : Chip → HandId × Nat → Chip} {P : Chip → Prop} (hP : ∀ c e, P c → P (f c e))
    (hother : ∀ c e k, k ≠ e.1 → (f c e).hand k = c.hand k) {l : List (HandId × Nat)} (hl : (l.map Prod.fst).Nodup) {s : Chip}
    (hs : P s) {e : HandId × Nat} (he : e ∈ l) :
    ∃ c, P c ∧ c.hand e.1 = s.hand e.1 ∧ (l.foldl f s).hand e.1 = (f c e).hand e.1 := by
  induction l generalizing s with
  | nil => exact absurd he List.not_mem_nil
  | cons x r ih =>
    obtain ⟨hx, hr⟩ := List.nodup_cons.mp hl
    have hne {y : HandId × Nat} (hy : y ∈ r) : y.1 ≠ x.1 := fun heq => hx (heq ▸ List.mem_map_of_mem hy)
    obtain rfl | her := List.mem_cons.mp he
    · exact ⟨s, hs, rfl, foldl_keeps_mem (fun c : Chip => c.hand e.1) _ _ _ (fun c y hy => hother c y e.1 (hne hy).symm)⟩
    · obtain ⟨c, hc, hhand, hfold⟩ := ih hr (hP s x hs) her
      exact ⟨c, hc, hhand.trans (hother s x e.1 (hne her)), hfold⟩

/-! ### DOORBELL (R289) -/

/-- What a write of DOORBELL does at one hand. -/
def bellStep (m : Nat) (c : Chip) (e : HandId × Nat) : Chip :=
  if bit m e.2 then c.setHand e.1 { c.hand e.1 with dbPend := true } else c

theorem ringBells_eq (c : Chip) (h : HandId) (m : Nat) :
    c.ringBells h m = (handsOf (coreOf h)).zipIdx.foldl (bellStep m) c := rfl

theorem bellStep_other (m : Nat) (c : Chip) (e : HandId × Nat) (k : HandId) (hk : k ≠ e.1) :
    (bellStep m c e).hand k = c.hand k := by
  unfold bellStep
  split
  · exact hand_setHand_other _ _ _ _ hk
  · rfl

theorem dbPend_bellStep (m : Nat) (c : Chip) (e : HandId × Nat) :
    ((bellStep m c e).hand e.1).dbPend = (bit m e.2 || (c.hand e.1).dbPend) := by
  unfold bellStep
  cases bit m e.2 <;> simp

theorem dbPend_ringBells (c : Chip) (h : HandId) (m : Nat) (hn : ((handsOf (coreOf h)).zipIdx.map Prod.fst).Nodup)
    {e : HandId × Nat} (he : e ∈ (handsOf (coreOf h)).zipIdx) :
    ((c.ringBells h m).hand e.1).dbPend = (bit m e.2 || (c.hand e.1).dbPend) := by
  obtain ⟨d, -, hd, hfold⟩ := hand_foldl (P := fun _ => True)
    (fun _ _ h => h) (bellStep_other m) hn (s := c) trivial he
  rw [ringBells_eq, hfold, dbPend_bellStep, hd]

theorem dbPend_advance (c : Chip) (h k : HandId) : ((c.advance h).hand k).dbPend = (c.hand k).dbPend := by
  by_cases hk : k = h
  · rw [hk, hand_advance]
    rfl
  · rw [hand_advance_other _ _ _ hk]

/-! ### The owners of the cell registers (R252, R253) -/

/-- A pass over cell registers that hands those named by a mask from one owner to another. -/
theorem owner_foldl (b mask old new : Nat) {l : List Nat} (hl : l.Nodup) (s : Chip) (k : Nat) :
    mget 0 (l.foldl (fun (s : Chip) c =>
        if bit mask c ∧ mget 0 s.cores.cregOwner (8 * b + c) = old then s.setOwner b c new else s) s).cores.cregOwner (8 * b + k)
      = if k ∈ l ∧ bit mask k ∧ mget 0 s.cores.cregOwner (8 * b + k) = old then new
        else mget 0 s.cores.cregOwner (8 * b + k) := by
  induction l generalizing s with
  | nil => simp
  | cons x r ih =>
    obtain ⟨hx, hr⟩ := List.nodup_cons.mp hl
    rw [List.foldl_cons, ih hr]
    by_cases hk : k = x
    · subst hk
      simp only [hx, List.mem_cons_self, true_and, false_and, if_false]
      split
      · exact mget_mset_same _ _ _ _
      · rfl
    · have hkeep : mget 0 (if bit mask x ∧ mget 0 s.cores.cregOwner (8 * b + x) = old then s.setOwner b x new
          else s).cores.cregOwner (8 * b + k) = mget 0 s.cores.cregOwner (8 * b + k) := by
        split
        · exact mget_mset_other _ _ _ _ _ (by omega)
        · rfl
      simp only [hkeep, List.mem_cons, hk, false_or]

theorem owner_claimCregs (c : Chip) (h : HandId) (m : Nat) {k : Nat} (hk : k < 8) :
    mget 0 (c.claimCregs h m).cores.cregOwner (8 * benchOf h + k)
      = if bit m k ∧ mget 0 c.cores.cregOwner (8 * benchOf h + k) = 0 then handOf h + 1
        else mget 0 c.cores.cregOwner (8 * benchOf h + k) := by
  rw [Chip.claimCregs, owner_foldl _ _ _ _ List.nodup_range]
  simp only [List.mem_range, hk, true_and]

theorem owner_releaseCregs (c : Chip) (h : HandId) (m : Nat) {k : Nat} (hk : k < 8) :
    mget 0 (c.releaseCregs h m).cores.cregOwner (8 * benchOf h + k)
      = if bit m k ∧ mget 0 c.cores.cregOwner (8 * benchOf h + k) = handOf h + 1 then 0
        else mget 0 c.cores.cregOwner (8 * benchOf h + k) := by
  rw [Chip.releaseCregs, owner_foldl _ _ _ _ List.nodup_range]
  simp only [List.mem_range, hk, true_and]

theorem hand_claimCregs (c : Chip) (h k : HandId) (m : Nat) : (c.claimCregs h m).hand k = c.hand k :=
  foldl_keeps (fun c : Chip => c.hand k) _ _ _ (fun _ _ => by split <;> rfl)

theorem csrKnown_cregs {h : HandId} {n : Nat} (hn : n = 0x21 ∨ n = 0x22) : csrKnown h n = onBench h := by
  obtain rfl | rfl := hn <;> simp [csrKnown]

/-! ### An instruction that only benches have, on a bench (R269) -/

section OnBench
variable {i : Instr} {h : HandId} {s : State} {w : Word} {f : Chip → Chip} {c : Chip}

theorem exec_onBench (he : exec i s = s.issueChip h (fun c => c.benchOnly h w f)) (hs : s.chip.issues h = true)
    (hb : onBench h = true) (hf : f s.chip = c) : exec i s = .next (s.settle c) :=
  exec_issued he hs ((if_pos hb).trans hf)

theorem exec_onBench_chip (he : exec i s = s.issueChip h (fun c => c.benchOnly h w f)) (hs : s.chip.issues h = true)
    (hb : onBench h = true) (hf : f s.chip = c) (hr : c.cores.restarts = s.chip.cores.restarts) :
    exec i s = .next { s with chip := c } :=
  exec_issued_chip he hs ((if_pos hb).trans hf) hr

end OnBench

/-! ### EXTR, EDIT and CRC (R303, R304) -/

section CellData
variable {c : Chip} {h : HandId} {d b : BitVec 5} {creg : Fin 8} {size : AccSize} {off : BitVec 7} {at_ : Nat}
  (hat : at_ = off.toNat + ((c.hand h).w b).toNat)
include hat

/-- A range past byte 111 traps, whoever owns the register. -/
theorem cellRange_past (hp : 112 < at_ + size.bytes) :
    cellExtr h d creg b size off c = c.trapHere h 2 (BitVec.ofNat 32 at_)
    ∧ cellEdit h d creg b size off c = c.trapHere h 2 (BitVec.ofNat 32 at_) := by
  subst hat
  exact ⟨if_pos hp, if_pos hp⟩

theorem cellRange_unowned (hp : at_ + size.bytes ≤ 112) (ho : c.owns h creg = false) :
    cellExtr h d creg b size off c = c.trapHere h 7 (BitVec.ofNat 32 creg.val)
    ∧ cellEdit h d creg b size off c = c.trapHere h 7 (BitVec.ofNat 32 creg.val) := by
  subst hat
  exact ⟨(if_neg (Nat.not_lt.mpr hp)).trans (if_pos ho), (if_neg (Nat.not_lt.mpr hp)).trans (if_pos ho)⟩

theorem cellExtr_reads (hp : at_ + size.bytes ≤ 112) (ho : c.owns h creg = true) :
    cellExtr h d creg b size off c
      = c.complete h d (BitVec.ofNat 32 (leNat (slice (c.creg (benchOf h) creg) at_ size.bytes))) := by
  subst hat
  exact (if_neg (Nat.not_lt.mpr hp)).trans (if_neg (ne_false_of_eq_true ho))

theorem cellEdit_writes (hp : at_ + size.bytes ≤ 112) (ho : c.owns h creg = true) :
    cellEdit h d creg b size off c = (c.setCreg (benchOf h) creg ((c.creg (benchOf h) creg).take at_
      ++ leBytes ((c.hand h).w d).toNat size.bytes ++ (c.creg (benchOf h) creg).drop (at_ + size.bytes))).advance h := by
  subst hat
  exact (if_neg (Nat.not_lt.mpr hp)).trans (if_neg (ne_false_of_eq_true ho))

end CellData

theorem cellCrc_badLength {c : Chip} {h : HandId} {d b : BitVec 5} {creg : Fin 8} {ieee : Bool} {len : BitVec 7}
    (hl : len.toNat = 0 ∨ 104 < len.toNat) : cellCrc h d creg b ieee len c
      = c.trapHere h 1 (fmtR 0x1B d (BitVec.ofNat 5 creg.val) b (cellFunc 2 (b2n ieee) len.toNat)) := if_pos hl

theorem cellCrc_runs {c : Chip} {h : HandId} {d b : BitVec 5} {creg : Fin 8} {ieee : Bool} {len : BitVec 7}
    (h1 : 1 ≤ len.toNat) (h104 : len.toNat ≤ 104) (ho : c.owns h creg = true) : cellCrc h d creg b ieee len c
      = c.complete h d (BitVec.ofNat 32 (crcRun (if ieee then polyE else polyC) ((c.hand h).w b).toNat
        (slice (c.creg (benchOf h) creg) 8 len.toNat))) :=
  (if_neg (by omega)).trans (if_neg (ne_false_of_eq_true ho))

/-! ### MOVE (R305 to R307) -/

theorem moveBad_of_range {ea : Word} (h : ea.toNat % 4 ≠ 0 ∨ 0x1FF90 < ea.toNat % 2 ^ 17) : moveBad ea = true := decide_eq_true h

theorem moveBad_of_fits {ea : Word} (h4 : ea.toNat % 4 = 0) (hend : ea.toNat % 2 ^ 17 ≤ 0x1FF90) : moveBad ea = false :=
  decide_eq_false (by omega)

section Move
variable {c : Chip} {s : State} {h : HandId} {creg : Fin 8} {a : BitVec 5} {off : BitVec 14} {ea : Word}

theorem moveOut_bad (hea : ea = c.moveEa h a off) (hbad : moveBad ea = true) : moveOut h creg a off c = c.trapHere h 2 ea := by
  subst hea
  exact if_pos hbad

theorem moveOut_starts (hea : ea = c.moveEa h a off) (hok : moveBad ea = false) (ho : c.owns h creg = true)
    (hm : (c.hand h).move = none) : moveOut h creg a off c
      = (c.advance h).setHand h { (c.advance h).hand h with move := some (dataAddr h ea, c.creg (benchOf h) creg) } := by
  subst hea
  exact (if_neg (ne_true_of_eq_false hok)).trans ((if_neg (ne_false_of_eq_true ho)).trans (if_neg (by simp [hm])))

theorem moveIn_bad (hb : onBench h = true) (hea : ea = s.chip.moveEa h a off) (hbad : moveBad ea = true) :
    s.moveIn h creg a off = s.settle (s.chip.trapHere h 2 ea) := by
  subst hea
  exact (if_neg (ne_false_of_eq_true hb)).trans (if_pos hbad)

/-- MOVE with DIR 1 of words that hold no error corrects and marks nothing. -/
theorem moveIn_clean (hb : onBench h = true) (hea : ea = s.chip.moveEa h a off) (hok : moveBad ea = false)
    (ho : s.chip.owns h creg = true) (hclean : ∀ i, i < 28 → s.chip.soft (dataAddr h ea + 4 * i) = 0) :
    s.moveIn h creg a off
      = { s with chip := (s.chip.setCreg (benchOf h) creg (Memory.bytes s.mem (dataAddr h ea) 112)).advance h } := by
  subst hea
  have hnone : (List.range 28).find? (fun i => decide (s.chip.soft (dataAddr h (s.chip.moveEa h a off) + 4 * i) = 2)) = none := by
    simp only [List.find?_eq_none, List.mem_range, decide_eq_true_eq]
    intro i hi
    rw [hclean i hi]
    decide
  have hsame : (List.range 28).foldl (fun (c : Chip) i => if c.soft (dataAddr h (s.chip.moveEa h a off) + 4 * i) = 0 then c
      else c.corrected h (dataAddr h (s.chip.moveEa h a off) + 4 * i)) s.chip = s.chip :=
    List.foldlRecOn (motive := (· = s.chip)) _ _ rfl
      (fun _ hc i hi => by rw [hc, hclean i (List.mem_range.mp hi), if_pos rfl])
  simp only [State.moveIn, hb, hok, ho, hnone, hsame, Bool.true_eq_false, Bool.false_eq_true, if_false]

theorem moveDone_some {m : Nat} {w : List Byte} (hm : (s.chip.hand h).move = some (m, w)) :
    ∃ c : Chip, c.hand h = s.chip.hand h ∧ s.moveDone h
      = { s with chip := (c.setHand h { c.hand h with move := none }).raise h 2, mem := Memory.setBytes s.mem m w } := by
  refine ⟨(List.range 28).foldl (fun (c : Chip) i => c.heal (m + 4 * i)) s.chip,
    foldl_keeps (fun c : Chip => c.hand h) _ _ _ (fun _ _ => rfl), ?_⟩
  simp only [State.moveDone, hm]

end Move

theorem hand_raise (c : Chip) (h : HandId) (e : Nat) : (c.raise h e).hand h = { c.hand h with events := setBit (c.hand h).events e } :=
  hand_setHand _ _ _

/-! ### FENCE.L (R318) -/

theorem fenceLBody_waits {c : Chip} {h : HandId} {x : Nat × List Byte} (hm : (c.hand h).move = some x) :
    fenceLBody h c = c.stall h (.fenceL h) := if_pos (by rw [hm]; rfl)

theorem fenceLBody_goesOn {c : Chip} {h : HandId} (hm : (c.hand h).move = none) : fenceLBody h c = c.advance h :=
  if_neg (by simp [hm])

/-! ### Cell registers and MOVE at a bench hand -/

/-- The registers named are claimed or freed, and the hand completes (R253). -/
theorem exec_csrw_owners {i : Instr} {h : HandId} {a : BitVec 5} {s : State} {n : BitVec 16} {c : Chip} {o : Nat → Nat}
    (hi : exec i s = exec (.csrw h a n) s) (hs : s.chip.issues h = true) (hk : csrKnown h n.toNat = true)
    (hc : s.chip.csrWriteValue h n.toNat ((s.chip.hand h).w a).toNat = c) (hhand : c.hand h = s.chip.hand h)
    (ho : ∀ k, k < 8 → mget 0 c.cores.cregOwner (8 * benchOf h + k) = o k) :
    ∃ t, exec i s = .next t ∧ t.mem = s.mem ∧ t.chip.hand h = (s.advances h).chip.hand h
      ∧ ∀ k, k < 8 → mget 0 t.chip.cores.cregOwner (8 * benchOf h + k) = o k := by
  refine ⟨_, hi.trans (exec_csrw_known hs a hk), rfl, ?_, fun k hlt => ?_⟩
  · rw [hc]
    show (c.advance h).hand h = (s.chip.advance h).hand h
    rw [hand_advance, hand_advance, hhand]
  · rw [hc]
    exact ho k hlt

theorem exec_doorbell {h : HandId} {s : State} (hs : s.chip.issues h = true) (a : BitVec 5) :
    exec (.doorbell h a) s = .next { s with chip := (s.chip.ringBells h ((s.chip.hand h).w a).toNat).advance h } :=
  exec_csrw_known (n := 0x30) hs a rfl

/-- Settles O10: the CSRs by the pass that each makes over the cell registers or the hands; an instruction on a cell register by its
range, the register's owner, and the MOVE that is under way. -/
theorem cellRegisters : Obligations.CellRegisters := by
  unfold Obligations.CellRegisters
  constructor
  · rintro h a s hs _ owner rfl howner
    simp only [howner, ← bit_toNat]
    refine ⟨fun hb => ⟨?claim, ?free, ?bells⟩, fun hb => ⟨?noClaim, ?noFree, ?bell⟩⟩
    case claim =>
      exact exec_csrw_owners (n := 0x21) rfl hs ((csrKnown_cregs (.inl rfl)).trans hb) rfl (hand_claimCregs _ _ _ _)
        (fun _ => owner_claimCregs _ _ _)
    case free =>
      exact exec_csrw_owners (n := 0x22) rfl hs ((csrKnown_cregs (.inr rfl)).trans hb) rfl (hand_releaseCregs _ _ _ _)
        (fun _ => owner_releaseCregs _ _ _)
    case bells =>
      have hcore : coreOf h = benchOf h := if_pos (of_decide_eq_true hb)
      refine ⟨_, exec_doorbell hs a, rfl, fun k hk => ?_⟩
      rw [dbPend_advance]
      refine dbPend_ringBells _ h _ ?_ (e := (benchHand (benchOf h) k, k)) ?_
      · rw [hcore]
        exact nodup_handsOf_bench (benchOf_lt hb)
      · rw [hcore]
        exact mem_handsOf_bench (benchOf_lt hb) hk
    case noClaim => exact exec_csrw_unknown (n := 0x21) hs a ((csrKnown_cregs (.inl rfl)).trans hb)
    case noFree => exact exec_csrw_unknown (n := 0x22) hs a ((csrKnown_cregs (.inr rfl)).trans hb)
    case bell =>
      refine ⟨_, exec_doorbell hs a, ?_⟩
      rw [dbPend_advance]
      refine dbPend_ringBells _ h _ ?_ (e := (h, 0)) ?_
      · simp [handsOf_alone hb]
      · simp [handsOf_alone hb]
  · rintro h d a b creg size off off14 ieee s hs hb at_ ea _ rfl hat hea
    have hin : exec (.moveDir1 h creg a off14) s = .next (s.moveIn h creg a off14) :=
      issue_runs hs (fun s => s.moveIn h creg a off14)
    refine ⟨fun ho => ⟨fun hp => ⟨?extr, ?edit⟩, fun h1 h104 => ?crc, fun h4 hend => ⟨fun hm => ?out, fun hclean => ?into⟩⟩,
      fun m w hm hw => ⟨?stalls, ?done⟩, fun hm => ?fence, fun hp i hi => ?past,
      fun hl => ⟨_, exec_onBench rfl hs hb (cellCrc_badLength hl)⟩,
      fun hbad i hi => ?badEa, fun ho hp i hi => ?unowned⟩
    case extr => exact exec_onBench_chip rfl hs hb (cellExtr_reads hat hp ho) rfl
    case edit => exact exec_onBench_chip rfl hs hb (cellEdit_writes hat hp ho) rfl
    case crc => exact exec_onBench_chip rfl hs hb (cellCrc_runs h1 h104 ho) rfl
    case out =>
      exact ⟨_, exec_onBench_chip rfl hs hb (moveOut_starts hea (moveBad_of_fits h4 hend) ho hm) rfl, rfl, hand_setHand _ _ _⟩
    case into => exact hin.trans (congrArg _ (moveIn_clean hb hea (moveBad_of_fits h4 hend) ho hclean))
    case stalls => exact exec_issued_chip rfl hs (fenceLBody_waits hm) rfl
    case done =>
      obtain ⟨c, hc, hdone⟩ := moveDone_some hm
      refine ⟨_, congrArg Host.Outcome.next hdone, ?_, ?_, fun i hi => byte_setBytes_inside m w i hi,
        fun k hk => byte_setBytes_outside m w k (by omega)⟩
      · rw [hand_raise]
        simp
      · rw [hand_raise]
        simp [hc]
    case fence => exact exec_issued_chip rfl hs (fenceLBody_goesOn hm) rfl
    case past =>
      obtain ⟨hx, he⟩ := cellRange_past (d := d) (creg := creg) hat hp
      obtain rfl | rfl := hi
      · exact exec_onBench rfl hs hb hx
      · exact exec_onBench rfl hs hb he
    case badEa =>
      obtain rfl | rfl := hi
      · exact exec_onBench rfl hs hb (moveOut_bad hea (moveBad_of_range hbad))
      · exact hin.trans (congrArg _ (moveIn_bad hb hea (moveBad_of_range hbad)))
    case unowned =>
      obtain ⟨hx, he⟩ := cellRange_unowned (d := d) hat hp ho
      obtain rfl | rfl := hi
      · exact exec_onBench rfl hs hb hx
      · exact exec_onBench rfl hs hb he

end Sys2Proof.Proofs

/-! SUPPORT. The commands of a bench and its stores (spec/09_fungatre_machine.md R241 to R244, R248 to R250, R272): START and HALT as
passes over the bench's hands, SWAP, the loads through BCH_ILOAD_b and BCH_DLOAD_b, and the scrubber. -/

namespace Sys2Proof.Proofs
open Sys2Proof Sys2Proof.Machine Sys2Proof.Machine.Reg Sys2Proof.Laws

/-! ### START (R242, R243) -/

/-- What a write of START bits does at one hand of bench `b`. -/
def startStep (b mask : Nat) (c : Chip) (e : HandId × Nat) : Chip :=
  if bit mask e.2 ∧ (c.hand e.1).state = .halted then c.startHand e.1 (c.get (BCH_ENTRY_ENTRY b e.2)) else c

/-- The registers and the time that START reads are those of `s`. -/
def SameClockAndFields (s c : Chip) : Prop := (∀ f, c.get f = s.get f) ∧ c.tick = s.tick

theorem exec_start (b : Fin 16) (mask : BitVec 4) (s : State) :
    exec (.start b mask) s = s.onChip (fun c => c.startBench b mask.toNat) := rfl

theorem startBench_runs {c : Chip} {b : Nat} (hd : c.domainOn (coreDomain b) = true) (hs : c.get BCH_SPARE_BENCH ≠ b) (mask : Nat) :
    c.startBench b mask = (handsOf b).zipIdx.foldl (startStep b mask) c := if_neg (by simp [hd, hs])

theorem startBench_spare {c : Chip} {b : Nat} (hs : c.get BCH_SPARE_BENCH = b) (mask : Nat) : c.startBench b mask = c :=
  if_pos (.inr hs)

theorem startStep_other (b mask : Nat) (c : Chip) (e : HandId × Nat) (k : HandId) (hk : k ≠ e.1) :
    (startStep b mask c e).hand k = c.hand k := by
  unfold startStep
  split
  · exact hand_setHand_other _ _ _ _ hk
  · rfl

theorem startStep_sameFields {s : Chip} (b mask : Nat) (c : Chip) (e : HandId × Nat) (h : SameClockAndFields s c) :
    SameClockAndFields s (startStep b mask c e) := by
  unfold startStep
  split
  · exact h
  · exact h

/-- START changes nothing but hands. -/
theorem startSteps_frame (b mask : Nat) (l : List (HandId × Nat)) (c : Chip) :
    ∃ hands : SMap Hand, l.foldl (startStep b mask) c = { c with cores := { c.cores with hands := hands } } := by
  refine List.foldlRecOn (motive := fun d => ∃ hands : SMap Hand, d = { c with cores := { c.cores with hands := hands } }) l _
    ⟨c.cores.hands, rfl⟩ ?_
  rintro _ ⟨hands, rfl⟩ e _
  unfold startStep
  split
  · exact ⟨_, rfl⟩
  · exact ⟨hands, rfl⟩

/-- A hand after START (R242). -/
theorem hand_startStep {s c : Chip} {b : Nat} {e : HandId × Nat} (hb : b < 16) (hcore : coreOf e.1 = b) (hc : SameClockAndFields s c)
    (hh : c.hand e.1 = s.hand e.1) (mask : Nat) :
    (startStep b mask c e).hand e.1 = if bit mask e.2 = true ∧ (s.hand e.1).state = .halted then
        { state := .run, pc := BitVec.ofNat 18 (s.get (BCH_ENTRY_ENTRY b e.2)), wdogPeriod := s.get (BCH_WDOG_PERIOD b),
          wdogFrom := s.tick, cycleFrom := s.tick, move := (s.hand e.1).move }
      else s.hand e.1 := by
  obtain ⟨hget, htick⟩ := hc
  have hwdog : c.wdogDefault (coreOf e.1) = s.get (BCH_WDOG_PERIOD b) := by
    rw [hcore, Chip.wdogDefault, if_pos hb, hget]
  simp only [startStep, hh]
  split
  · simp only [Chip.startHand, hand_setHand, hwdog, hget, htick, hh]
  · exact hh

/-! ### HALT (R241, R253) -/

/-- What a write of HALT bits does at one hand. -/
def haltStep (mask : Nat) (c : Chip) (e : HandId × Nat) : Chip :=
  if bit mask e.2 ∧ (c.hand e.1).state ≠ .halted then
    let c := c.setHand e.1 { c.hand e.1 with haltAsked := true }
    if (c.hand e.1).haltDue then c.boundary e.1 else c
  else c

theorem haltBench_runs {c : Chip} {b : Nat} (hd : c.domainOn (coreDomain b) = true) (mask : Nat) :
    c.haltBench b mask = (handsOf b).zipIdx.foldl (haltStep mask) c := if_neg (by simp [hd])

/-- A HALT that is due is the first thing taken at a boundary (R262). -/
theorem boundary_haltDue {c : Chip} {h : HandId} (hdue : (c.hand h).haltDue = true) :
    c.boundary h = if c.atBoundary h = false ∨ c.coreOn h = false then c else c.haltHand h := by
  simp only [Chip.boundary, hdue, if_true]

/-- A write of HALT leaves a hand as it was, marks it, or marks and halts it. -/
theorem haltStep_cases (mask : Nat) (c : Chip) (e : HandId × Nat) :
    haltStep mask c e = c ∨ ∃ x, haltStep mask c e = c.setHand e.1 x ∨ haltStep mask c e = (c.setHand e.1 x).haltHand e.1 := by
  unfold haltStep
  split
  · refine .inr ⟨{ c.hand e.1 with haltAsked := true }, ?_⟩
    dsimp only
    split
    · rename_i hdue
      rw [boundary_haltDue hdue]
      split
      · exact .inl rfl
      · exact .inr rfl
    · exact .inl rfl
  · exact .inl rfl

theorem haltStep_other (mask : Nat) (c : Chip) (e : HandId × Nat) (k : HandId) (hk : k ≠ e.1) :
    (haltStep mask c e).hand k = c.hand k := by
  obtain h | ⟨x, h | h⟩ := haltStep_cases mask c e <;> rw [h]
  · exact hand_setHand_other _ _ _ _ hk
  · rw [hand_haltHand_other _ _ _ hk, hand_setHand_other _ _ _ _ hk]

theorem get_haltStep (mask : Nat) (c : Chip) (e : HandId × Nat) (f : Fld) : (haltStep mask c e).get f = c.get f := by
  obtain h | ⟨x, h | h⟩ := haltStep_cases mask c e <;> rw [h]
  · rfl
  · rw [get_haltHand]
    rfl

theorem haltStep_unnamed {mask : Nat} {e : HandId × Nat} (hm : bit mask e.2 = false) (c : Chip) : haltStep mask c e = c :=
  if_neg (fun h => ne_true_of_eq_false hm h.1)

/-- A named hand in Run or Wait is at a boundary and halts. -/
theorem haltStep_named {mask : Nat} {c : Chip} {e : HandId × Nat} (hm : bit mask e.2 = true)
    (hst : (c.hand e.1).state = .run ∨ (c.hand e.1).state = .wait) (hon : c.coreOn e.1 = true) :
    ((haltStep mask c e).hand e.1).state = .halted := by
  have hne : (c.hand e.1).state ≠ .halted := by rcases hst with h | h <;> simp [h]
  let d := c.setHand e.1 { c.hand e.1 with haltAsked := true }
  have hd : d.hand e.1 = { c.hand e.1 with haltAsked := true } := hand_setHand _ _ _
  have hdue : (d.hand e.1).haltDue = true := by
    rw [hd, Hand.haltDue]
    rcases hst with h | h <;> simp [h]
  have hat : d.atBoundary e.1 = true := by
    rw [Chip.atBoundary, hd]
    rcases hst with h | h <;> simp [h]
  have hstep : haltStep mask c e = d.haltHand e.1 := by
    refine (if_pos ⟨hm, hne⟩).trans ((if_pos hdue).trans ((boundary_haltDue hdue).trans (if_neg ?_)))
    simp only [hat, show d.coreOn e.1 = true from hon, Bool.true_eq_false, or_self, not_false_eq_true]
  rw [hstep]
  exact state_haltHand d e.1

/-! ### BCH_ILOAD_b and BCH_DLOAD_b (R272, R250) -/

theorem iload_off {s : State} {b : Nat} (hd : s.chip.domainOn (coreDomain b) = false) (v : Nat) : s.iload b v = s := if_pos hd

theorem dload_off {s : State} {b : Nat} (hd : s.chip.domainOn (coreDomain b) = false) (v : Option Nat) : s.dload b v = s := if_pos hd

/-- The chip with the parity of the word at `a` good. -/
def parityGood (c : Chip) (a : Nat) : Chip := { c with cores := { c.cores with imark := mset false c.cores.imark (a / 4) false } }

theorem iload_on {s : State} {b a : Nat} (hd : s.chip.domainOn (coreDomain b) = true)
    (ha : a = imemBase b (1 - s.chip.bank b) + 4 * s.chip.get (BCH_ILOAD_ADDR_ADDR b)) (v : Nat) :
    s.iload b v = { s with chip := (parityGood s.chip a).addWrap (BCH_ILOAD_ADDR_ADDR b) 1, mem := Memory.write s.mem a 4 v } := by
  subst ha
  exact if_neg (ne_false_of_eq_true hd)

theorem dload_write {s : State} {b a : Nat} (hd : s.chip.domainOn (coreDomain b) = true)
    (ha : a = dmemBase b + 4 * s.chip.get (BCH_DLOAD_ADDR_ADDR b)) (v : Nat) :
    s.dload b (some v) = { s with chip := (s.chip.heal a).addWrap (BCH_DLOAD_ADDR_ADDR b) 1, mem := Memory.write s.mem a 4 v } := by
  subst ha
  exact if_neg (ne_false_of_eq_true hd)

theorem dload_read {s : State} {b : Nat} (hd : s.chip.domainOn (coreDomain b) = true) :
    s.dload b none = { s with chip := s.chip.addWrap (BCH_DLOAD_ADDR_ADDR b) 1 } := if_neg (ne_false_of_eq_true hd)

/-- The chip with the error of the word at `a` set to `n`. -/
def softSet (c : Chip) (a n : Nat) : Chip := { c with cores := { c.cores with dmark := mset 0 c.cores.dmark (a / 4) n } }

theorem soft_softSet (c : Chip) (a n : Nat) : (softSet c a n).soft a = n := mget_mset_same _ _ _ _

theorem soft_heal (c : Chip) (a : Nat) : (c.heal a).soft a = 0 := soft_softSet c a 0

/-! ### The scrubber (R249) -/

theorem exec_benchScrub_on {b : Fin 16} {s : State} (hd : s.chip.domainOn (coreDomain b) = true) (l : List ScrubFind) :
    exec (.benchScrub b l) s = .next { s with chip := l.foldl (fun c f => c.benchFind b f) s.chip } :=
  exec_onChip (f := fun c => if c.domainOn (coreDomain b) = false then c else l.foldl (fun c f => c.benchFind b f) c) rfl
    (if_neg (ne_false_of_eq_true hd))

theorem benchFind_corrected {f : ScrubFind} (hf : f.uncorrectable = false) (c : Chip) (b : Nat) :
    c.benchFind b f = softSet c (dmemBase b + (16 * f.block + 4 * f.word) % 2 ^ 17) 0 := if_neg (ne_true_of_eq_false hf)

theorem autoRemap_off {c : Chip} (h : c.on REP_CTL_AUTO_REMAP = false) (mem inst addr : Nat) : c.autoRemap mem inst addr = c :=
  if_neg (fun e => ne_true_of_eq_false h e.1)

theorem benchFind_uncorrectable {f : ScrubFind} (hf : f.uncorrectable = true) {c : Chip} {b : Nat} (hb : b < 16)
    (hr : c.on REP_CTL_AUTO_REMAP = false) : c.benchFind b f
      = (softSet c (dmemBase b + (16 * f.block + 4 * f.word) % 2 ^ 17) 2).evt (BCH_EVT_ECC_UNCORR b) := by
  refine (if_pos hf).trans (autoRemap_off ?_ _ _ _)
  have hkey : REP_CTL_AUTO_REMAP.key ≠ (BCH_EVT_ECC_UNCORR b).key := by
    simp only [Fld.key, REP_CTL_AUTO_REMAP, BCH_EVT_ECC_UNCORR]
    omega
  rw [Chip.on, get_evt_other _ _ _ (by unfold outsideLog; decide) hkey]
  exact hr

theorem soft_evt (c : Chip) (f : Fld) (a : Nat) : (c.evt f).soft a = c.soft a := by simp [Chip.soft]

theorem eccUncorr_key {b : Nat} (hb : b < 16) : (BCH_EVT_ECC_UNCORR b).key < UPD_STAT_PHASE.key := by
  simp only [Fld.key, BCH_EVT_ECC_UNCORR, UPD_STAT_PHASE]
  omega

theorem get_evt_bit {c : Chip} {f : Fld} (hf : outsideLog f) (hw : f.width = 1) : (c.evt f).get f = 1 := by
  rw [get_evt_same _ _ hf, hw]
  exact Nat.or_mod_two_eq_one.mpr (.inr rfl)

/-- Settles O15: START and HALT by what each pass makes of one hand, the loads by their word, and a find by what it marks. -/
theorem benchCommandsAndStores : Obligations.BenchCommandsAndStores := by
  unfold Obligations.BenchCommandsAndStores
  constructor
  · intro b mask s hd
    have hb : b.val < 16 := b.isLt
    refine ⟨fun hsp => ?start, fun hsp => exec_onChip_same (exec_start b mask s) (startBench_spare hsp _), ?halt,
      fun hall => exec_onChip rfl (if_pos ⟨hd, hall⟩),
      fun hall => exec_onChip_same rfl (if_neg (fun h => ne_true_of_eq_false hall h.2))⟩
    case start =>
      obtain ⟨hands, hframe⟩ := startSteps_frame b mask.toNat (handsOf b).zipIdx s.chip
      refine ⟨_, exec_onChip (exec_start b mask s) (startBench_runs hd hsp mask.toNat), rfl, fun k hk => ?_,
        fun h hh => ?_, fun f => ?_, ?_, ?_⟩
      · obtain ⟨c, hc, hhand, hfold⟩ := hand_foldl (P := SameClockAndFields s.chip) (startStep_sameFields b mask.toNat)
          (startStep_other b mask.toNat) (nodup_handsOf_bench hb) ⟨fun _ => rfl, rfl⟩ (mem_handsOf_bench hb hk)
        rw [← bit_toNat]
        exact hfold.trans (hand_startStep hb (coreOf_benchHand hb hk) hc hhand mask.toNat)
      · exact foldl_keeps_mem (fun c : Chip => c.hand h) _ _ _ (fun c e he =>
          startStep_other _ _ c e h (fun hk => hh (hk ▸ coreOf_of_mem_handsOf hb he)))
      · rw [hframe]
        rfl
      · rw [hframe]
      · rw [hframe]
    case halt =>
      refine ⟨_, congrArg (fun c => Host.Outcome.next (s.settle c)) (haltBench_runs hd mask.toNat), fun k hk => ?_, fun f => ?_⟩
      · obtain ⟨c, hc, hhand, hfold⟩ := hand_foldl (P := fun c => ∀ f, c.get f = s.chip.get f)
          (fun c e h f => (get_haltStep _ c e f).trans (h f)) (haltStep_other mask.toNat) (nodup_handsOf_bench hb) (fun _ => rfl)
          (mem_handsOf_bench hb hk)
        have hon : c.coreOn (benchHand b k) = true := by
          rw [Chip.coreOn, coreOf_benchHand hb hk, Chip.domainOn, hc]
          exact hd
        rw [← bit_toNat]
        refine ⟨fun hm hst => ?_, fun hm => ?_⟩
        · rw [settle_chip, hfold]
          exact haltStep_named hm (hhand ▸ hst) hon
        · rw [settle_chip, hfold, haltStep_unnamed hm]
          exact hhand
      · exact foldl_keeps (fun c : Chip => c.get f) _ _ _ (fun c e => get_haltStep _ c e f)
  · intro b v s
    refine ⟨fun hd => ⟨fun m k hm hk => ?iload, fun m k hm hk => ⟨?write, ?read⟩, exec_benchScrub_on hd,
      fun f hf => ?corrected, fun f hf hr => ?marked⟩, fun hd i hi => ?off⟩
    case iload =>
      refine ⟨_, congrArg Host.Outcome.next (iload_on hd hm v.toNat), byte_write_inside _ _ _ _ hk,
        fun a ha => byte_write_outside _ _ _ _ ha, mget_mset_same false s.chip.cores.imark (m / 4) false, get_addWrap_same _ _ _,
        fun _ => rfl⟩
    case write =>
      refine ⟨_, congrArg Host.Outcome.next (dload_write hd hm v.toNat), byte_write_inside _ _ _ _ hk,
        fun a ha => byte_write_outside _ _ _ _ ha, soft_heal _ _, get_addWrap_same _ _ _⟩
    case read => exact ⟨_, congrArg Host.Outcome.next (dload_read hd), rfl, get_addWrap_same _ _ _⟩
    case corrected =>
      refine ⟨_, exec_benchScrub_on hd [f], rfl, ?_⟩
      rw [List.foldl_cons, benchFind_corrected hf]
      exact soft_softSet _ _ _
    case marked =>
      refine ⟨_, exec_benchScrub_on hd [f], rfl, ?_, ?_⟩
      · rw [List.foldl_cons, benchFind_uncorrectable hf b.isLt hr]
        exact (soft_evt _ _ _).trans (soft_softSet _ _ _)
      · rw [List.foldl_cons, benchFind_uncorrectable hf b.isLt hr]
        exact get_evt_bit (outsideLog_of_le_phase (eccUncorr_key b.isLt).le) rfl
    case off =>
      obtain rfl | rfl | rfl | rfl := hi
      · exact congrArg Host.Outcome.next (iload_off hd _)
      · exact congrArg Host.Outcome.next (dload_off hd _)
      · exact congrArg Host.Outcome.next (dload_off hd _)
      · exact exec_onChip_same rfl (if_pos hd)

end Sys2Proof.Proofs

/-! SUPPORT. Rings bound by BCH_RING_r (spec/09_fungatre_machine.md R243, R258, R274), and what comes to a hand from outside its
program: the watchdog, a word that is no instruction, the end of a stall, and a reclaimed tag (R257, R260, R264, R265, R276). -/

namespace Sys2Proof.Proofs
open Sys2Proof Sys2Proof.Machine Sys2Proof.Machine.Reg Sys2Proof.Laws

/-! ### Fields set one after another -/

/-- The fields of a list set in turn. -/
def putAll (c : Chip) (l : List (Fld × Nat)) : Chip := l.foldl (fun c e => c.put e.1 e.2) c

theorem get_putAll_other (c : Chip) {l : List (Fld × Nat)} {g : Fld} (hg : ∀ e ∈ l, g.key ≠ e.1.key) :
    (putAll c l).get g = c.get g :=
  foldl_keeps_mem (fun c : Chip => c.get g) _ _ _ (fun c e he => get_put_other c e.1 g e.2 (hg e he))

theorem hand_putAll (c : Chip) (l : List (Fld × Nat)) (h : HandId) : (putAll c l).hand h = c.hand h :=
  foldl_keeps (fun c : Chip => c.hand h) _ _ _ (fun _ _ => rfl)

/-- Of fields that lie apart each reads what it was set to. -/
theorem get_putAll {l : List (Fld × Nat)} (hd : l.Pairwise (fun e g => e.1.key ≠ g.1.key)) (c : Chip) {e : Fld × Nat}
    (he : e ∈ l) (hlt : e.2 < 2 ^ e.1.width) : (putAll c l).get e.1 = e.2 := by
  induction l generalizing c with
  | nil => exact absurd he List.not_mem_nil
  | cons x r ih =>
    obtain ⟨hx, hr⟩ := List.pairwise_cons.mp hd
    obtain rfl | her := List.mem_cons.mp he
    · exact (get_putAll_other (c.put e.1 e.2) hx).trans ((get_put_same _ _ _).trans (Nat.mod_eq_of_lt hlt))
    · exact ih hr (c.put x.1 x.2) her

/-! ### A write to BCH_RING_r (R274) -/

/-- The fields of BCH_RING_r with the values that a legal write gives them (Table 9.10). -/
def ringFields (r n : Nat) : List (Fld × Nat) :=
  [(BCH_RING_BENCH r, bits n 0 4), (BCH_RING_HAND r, bits n 4 2), (BCH_RING_PORT r, bits n 6 4), (BCH_RING_TAKE_DEPTH r, bits n 10 7),
    (BCH_RING_GIVE_DEPTH r, bits n 17 7), (BCH_RING_FROZEN r, b2n (bit n 24)), (BCH_RING_VALID r, b2n (bit n 25))]

/-- Event 1 at the hand of a ring whose full give side has gained room (Table 11.3). -/
def roomNoted (full : Bool) (r : Nat) (c : Chip) : Chip :=
  if full ∧ c.giveFull r = false ∧ c.ringValid r then c.raise (c.ringHand r) 1 else c

/-- The write would bind the ring otherwise than it is bound. -/
def RingRebinds (c : Chip) (r n : Nat) : Prop :=
  bits n 0 4 ≠ c.get (BCH_RING_BENCH r) ∨ bits n 4 2 ≠ c.get (BCH_RING_HAND r) ∨ bits n 6 4 ≠ c.get (BCH_RING_PORT r)

theorem ringFields_apart (r n : Nat) : (ringFields r n).Pairwise (fun e g => e.1.key ≠ g.1.key) := by
  simp only [ringFields, List.pairwise_cons, List.mem_cons, List.not_mem_nil, or_false, forall_eq_or_imp, forall_eq, Fld.key,
    BCH_RING_BENCH, BCH_RING_HAND, BCH_RING_PORT, BCH_RING_TAKE_DEPTH, BCH_RING_GIVE_DEPTH, BCH_RING_FROZEN, BCH_RING_VALID]
  simp

theorem b2n_lt (b : Bool) : b2n b < 2 ^ 1 := by cases b <;> decide

theorem ringFields_fit {r n : Nat} {e : Fld × Nat} (he : e ∈ ringFields r n) : e.2 < 2 ^ e.1.width := by
  simp only [ringFields, List.mem_cons, List.not_mem_nil, or_false] at he
  obtain rfl | rfl | rfl | rfl | rfl | rfl | rfl := he
  · exact bits_lt _ _ _
  · exact bits_lt _ _ _
  · exact bits_lt _ _ _
  · exact bits_lt _ _ _
  · exact bits_lt _ _ _
  · exact b2n_lt _
  · exact b2n_lt _

@[simp] theorem get_roomNoted (full : Bool) (r : Nat) (c : Chip) (f : Fld) : (roomNoted full r c).get f = c.get f := by
  unfold roomNoted
  split <;> rfl

theorem ringHand_roomNoted (full : Bool) (r : Nat) (c : Chip) : (roomNoted full r c).ringHand r = c.ringHand r := by
  simp [Chip.ringHand]

theorem hand_roomNoted {full : Bool} {r : Nat} {c : Chip} {h : HandId} (hh : full = false ∨ h ≠ c.ringHand r) :
    (roomNoted full r c).hand h = c.hand h := by
  unfold roomNoted
  split
  · rename_i hroom
    exact hand_setHand_other _ _ _ _ (hh.resolve_left (ne_false_of_eq_true hroom.1))
  · rfl

theorem ringWrite_refused {c : Chip} {r n : Nat} (hv : bit n 25 = true) (hvalid : c.ringValid r = true)
    (hfrozen : c.ringFrozen r = false) (hport : 4 ≤ bits n 6 4 ∧ bits n 6 4 ≤ 11) (hre : RingRebinds c r n) :
    c.ringWrite r n = c := by
  unfold Chip.ringWrite
  extract_lets bench hand port
  split
  · rfl
  · refine if_pos ⟨hv, hvalid, hfrozen, ?_⟩
    rwa [show port = bits n 6 4 from if_pos hport]

/-- A write of permitted encodings (R5) that does not rebind a ring in use sets every field, and then the ring is refilled. -/
theorem ringWrite_sets {c : Chip} {r n : Nat} (hport : 4 ≤ bits n 6 4 ∧ bits n 6 4 ≤ 11)
    (htake : 1 ≤ bits n 10 7 ∧ bits n 10 7 ≤ 64) (hgive : 1 ≤ bits n 17 7 ∧ bits n 17 7 ≤ 64)
    (hspare : bit n 25 = false ∨ bits n 0 4 ≠ c.get BCH_SPARE_BENCH)
    (hok : ¬ (bit n 25 = true ∧ c.ringValid r = true ∧ c.ringFrozen r = false ∧ RingRebinds c r n)) :
    c.ringWrite r n = (roomNoted (c.giveFull r) r (putAll c (ringFields r n))).refill r := by
  unfold Chip.ringWrite
  simp only [hport, htake, hgive, and_self, if_true]
  exact (if_neg (fun h => hspare.elim (fun hv => ne_true_of_eq_false hv h.1) (fun hne => hne h.2.1))).trans (if_neg hok)

theorem get_roomNoted_ringFields (full : Bool) (c : Chip) {r n x : Nat} {f : Fld} (he : (f, x) ∈ ringFields r n) :
    (roomNoted full r (putAll c (ringFields r n))).get f = x := by
  rw [get_roomNoted]
  exact get_putAll (e := (f, x)) (ringFields_apart r n) c he (ringFields_fit he)

/-- Settles O16, by whether the write rebinds the ring: a rebinding is refused where the ring is valid and not frozen, and any other
write sets each field. -/
theorem ringRebindingNeedsFrozen : Obligations.RingRebindingNeedsFrozen := by
  unfold Obligations.RingRebindingNeedsFrozen
  rintro r v s _ rfl
  have hexec : exec (.ringBind r v) s = s.onChip (fun c => c.ringWrite r v.toNat) := rfl
  refine ⟨fun hv hvalid hfrozen hp4 hp11 hre => exec_onChip_same hexec (ringWrite_refused hv hvalid hfrozen ⟨hp4, hp11⟩ hre),
    fun hp4 hp11 ht1 ht64 hg1 hg64 hspare hmay => ?_⟩
  have hok : ¬ (bit v.toNat 25 = true ∧ s.chip.ringValid r = true ∧ s.chip.ringFrozen r = false
      ∧ RingRebinds s.chip r v.toNat) := by
    rintro ⟨hv, hvalid, hfrozen, hre⟩
    obtain h | h | h | ⟨hb, hh, hp⟩ := hmay
    · exact ne_true_of_eq_false h hv
    · exact ne_true_of_eq_false h hvalid
    · exact ne_false_of_eq_true h hfrozen
    · exact hre.elim (· hb) (fun h => h.elim (· hh) (· hp))
  have hget {f : Fld} {x : Nat} (he : (f, x) ∈ ringFields r v.toNat) := get_roomNoted_ringFields (s.chip.giveFull r) s.chip he
  refine ⟨_, exec_onChip hexec (ringWrite_sets ⟨hp4, hp11⟩ ⟨ht1, ht64⟩ ⟨hg1, hg64⟩ hspare hok), hget ?_, hget ?_, hget ?_,
    hget ?_, hget ?_, hget ?_, hget ?_, fun h hh => ?frame⟩
  case frame =>
    rw [ringHand_roomNoted] at hh
    exact (hand_roomNoted hh).trans (hand_putAll _ _ h)
  all_goals simp [ringFields]

/-! ### The watchdog (R265) -/

theorem settle_self (s : State) : s.settle s.chip = s := settle_eq rfl

theorem hand_shutter (c : Chip) (cause : Nat) (h : HandId) : (c.shutter cause).hand h = c.hand h := by
  simp only [Chip.hand, shutter_cores]

/-- A bench hand that is bitten outside a health window halts. -/
theorem state_bite {c : Chip} {h : HandId} (hb : onBench h = true) (hp : c.get UPD_STAT_PHASE ≠ 4) :
    ((c.bite h).hand h).state = .halted := by
  have hkey : UPD_STAT_PHASE.key ≠ (BCH_EVT_WDOG_BITE (benchOf h)).key := by
    have := benchOf_lt hb
    simp only [Fld.key, UPD_STAT_PHASE, BCH_EVT_WDOG_BITE]
    omega
  unfold Chip.bite
  extract_lets d e
  rw [show e = d.evt (BCH_EVT_WDOG_BITE (benchOf h)) from if_pos hb, hand_shutter, handDown_bench hb]
  · exact state_haltHand _ h
  · rwa [get_evt_other _ _ _ phase_outsideLog hkey, phase_recordCause hb]

section Watchdog
variable {c : Chip} {h : HandId}

theorem wdogExpires_disabled (hp : (c.hand h).wdogPeriod = 0) : c.wdogExpires h = c := if_pos (.inl hp)

/-- A running hand's watchdog counts. -/
theorem wdogExpires_counts (hp : (c.hand h).wdogPeriod ≠ 0) (hst : (c.hand h).state = .run) (hon : c.coreOn h = true) :
    c.wdogExpires h = if (c.hand h).unfed then c.bite h else (c.setHand h { c.hand h with
      expired := true
      unfed := true
      wdogFrom := c.tick
      pend06 := true }).boundary h :=
  if_neg (by simp [hp, hst, hon])

end Watchdog

/-! ### A stalled hand (R257) -/

section Stall
variable {s : State} {h : HandId}

theorem resumeStall_not_stalled (hst : (s.chip.hand h).state ≠ .stall) : s.resumeStall h = s := by
  unfold State.resumeStall
  dsimp only
  split
  · rename_i hstall _
    exact absurd hstall hst
  · rfl

theorem resumeStall_again {i : Instr} (hst : (s.chip.hand h).state = .stall) (hi : (s.chip.hand h).stalled = some i)
    (hon : s.chip.coreOn h = true) (hq : (s.chip.hand h).pendingCause = false ∨ s.chip.atBoundary h = false) :
    s.resumeStall h = s.again h i := by
  simp only [State.resumeStall, hst, hi, hon, Bool.true_eq_false, if_false]
  exact if_neg (fun hp => hq.elim (fun hno => ne_true_of_eq_false hno hp.1) (fun hno => ne_true_of_eq_false hno hp.2))

theorem again_fenceL (hm : (s.chip.hand h).move = none) : s.again h (.fenceL h) = s.advances h :=
  (congrArg s.settle (fenceLBody_goesOn hm)).trans (settle_eq rfl)

end Stall

/-! ### A reclaimed tag (R260, R318) -/

theorem find_mdel {α : Type} (m : SMap α) (k : Nat) : (mdel m k).find? (fun e => decide (e.1 = k)) = none := by
  induction m with
  | nil => rfl
  | cons e r ih =>
    obtain ⟨j, v⟩ := e
    unfold mdel
    split
    · exact ih
    · rename_i hne
      rw [List.find?_cons_of_neg (by simpa using fun e => hne e.symm)]
      exact ih

theorem tagAt_dropTag (c : Chip) (t : Nat) : (c.dropTag t).tagAt t = none := by
  rw [Chip.tagAt, Chip.dropTag, find_mdel]
  rfl

@[simp] theorem farLog_cores (c : Chip) (h : HandId) (far code : Nat) (opened : Bool) :
    (c.farLog h far code opened).cores = c.cores := by
  simp [Chip.farLog, Chip.inc]

theorem hand_withdrawTag (c : Chip) (t : Nat) (h : HandId) : (c.withdrawTag t).hand h = c.hand h :=
  foldl_keeps (fun c : Chip => c.hand h) _ _ _ (fun _ _ => rfl)

theorem noteFailed_frame (x : Hand) (n : Nat) (far : Word) : ∃ w, x.noteFailed n far = { x with failedWrite := w } := by
  unfold Hand.noteFailed
  split
  · split
    · exact ⟨x.failedWrite, rfl⟩
    · exact ⟨_, rfl⟩
  · exact ⟨_, rfl⟩

theorem noteFailed_first {x : Hand} (hx : x.failedWrite = none) (n : Nat) (far : Word) :
    (x.noteFailed n far).failedWrite = some (n, far) := by
  simp only [Hand.noteFailed, hx]

/-- Of two failed writes the one issued first is kept. -/
theorem noteFailed_earlier {x : Hand} {w : Nat × Word} (hx : x.failedWrite = some w) (n : Nat) (far : Word) :
    (x.noteFailed n far).failedWrite = some w ∨ n ≤ w.1 ∧ (x.noteFailed n far).failedWrite = some (n, far) := by
  by_cases hlt : w.1 < n
  · exact .inl (by simp only [Hand.noteFailed, hx, hlt, if_true])
  · exact .inr ⟨Nat.not_lt.mp hlt, by simp only [Hand.noteFailed, hx, hlt, if_false]⟩

/-- The chip as an access of tag `t` has ended with error `code`: the tag free, the error logged. -/
def tagFailed (c : Chip) (t : Nat) (r : FarReq) (code : Nat) : Chip := (c.dropTag t).farLog r.hand r.far.toNat code true

theorem hand_tagFailed (c : Chip) (t : Nat) (r : FarReq) (code : Nat) (h : HandId) : (tagFailed c t r code).hand h = c.hand h := by
  simp only [Chip.hand, tagFailed, farLog_cores]
  rfl

theorem tagAt_tagFailed (c : Chip) (t : Nat) (r : FarReq) (code : Nat) : (tagFailed c t r code).tagAt t = none := by
  simp only [Chip.tagAt, tagFailed, farLog_cores]
  exact tagAt_dropTag c t

theorem endAccess_stx_fails {s : State} {t code : Nat} {x : Tag} (hk : x.kind = .stx) (hc : code ≠ 0) (v : Word) :
    ∃ n, s.endAccess t x code v = { s with chip := ((tagFailed s.chip t x.req code).setHand x.req.hand
      ((s.chip.hand x.req.hand).noteFailed n x.req.far)).raise x.req.hand 3 } := by
  refine ⟨(((tagFailed s.chip t x.req code).tagUse t).map (·.no)).getD 0, ?_⟩
  rw [← hand_tagFailed s.chip t x.req code]
  simp only [State.endAccess, hk, hc, if_false]
  rfl

theorem exec_tagTimeout_open {k : Fin 2048} {s : State} {x : Tag} (hx : s.chip.tagAt k = some x) :
    exec (.tagTimeout k) s = .next (State.endAccess { s with chip := s.chip.withdrawTag k } k x 8 0) := by
  show execTagTimeout k s = _
  simp only [execTagTimeout, hx]

/-- Settles O17, by the command: whether the watchdog counts and bites, the word is an instruction, the hand is in Stall, and what the
tag's access was for. -/
theorem watchdogTagAndStall : Obligations.WatchdogTagAndStall := by
  unfold Obligations.WatchdogTagAndStall
  intro h s
  have hexpiry {c : Chip} (hc : s.chip.wdogExpires h = c) : exec (.wdogExpiry h) s = .next (s.settle c) :=
    congrArg (fun c => Host.Outcome.next (s.settle c)) hc
  refine ⟨fun hb hp hst hon hu hph => ?bites, fun hp => ?disabled, fun hp hst hon hu => ?pends, fun w hs hw => ?illegal,
    fun hst hi hon hq hm => ?fence, fun i hst hi hon hq => congrArg Host.Outcome.next (resumeStall_again hst hi hon hq),
    fun hst => congrArg Host.Outcome.next (resumeStall_not_stalled hst), fun _ _ => exec_tagTimeout_open, fun k x hx hk => ?store⟩
  case bites =>
    refine ⟨_, hexpiry ((wdogExpires_counts hp hst hon).trans (if_pos hu)), ?_⟩
    exact state_bite hb hph
  case disabled => rw [hexpiry (wdogExpires_disabled hp), settle_self]
  case pends => exact hexpiry ((wdogExpires_counts hp hst hon).trans (if_neg (ne_true_of_eq_false hu)))
  case illegal => exact exec_issued (f := fun c => c.trapHere h 1 w) (if_neg (ne_true_of_eq_false hw)) hs rfl
  case fence => exact congrArg Host.Outcome.next ((resumeStall_again hst hi hon (.inl hq)).trans (again_fenceL hm))
  case store =>
    obtain ⟨n, hend⟩ := endAccess_stx_fails (s := { s with chip := s.chip.withdrawTag k }) (t := k) (code := 8) hk (by decide) 0
    have hkept := hand_withdrawTag s.chip k x.req.hand
    refine ⟨_, (exec_tagTimeout_open hx).trans (congrArg Host.Outcome.next hend), tagAt_tagFailed _ _ _ _, ?_, ?_, ?_, rfl⟩
    · intro hnone
      rw [hand_raise, hand_setHand, hkept]
      exact ⟨n, noteFailed_first hnone _ _⟩
    · intro w hsome
      rw [hand_raise, hand_setHand, hkept]
      exact (noteFailed_earlier hsome n x.req.far).imp_right (fun h => ⟨n, h⟩)
    · rw [hand_raise, hand_setHand, hkept]
      obtain ⟨_, hfr⟩ := noteFailed_frame (s.chip.hand x.req.hand) n x.req.far
      rw [hfr]

end Sys2Proof.Proofs

/-! SUPPORT. The instructions that compute (spec/10_fungatre_core_instructions.md R278 to R282): what each operation answers, the
edge cases of division, the bits of the compare word, and SHIFTI by its kind. -/

namespace Sys2Proof.Proofs
open Sys2Proof Sys2Proof.Machine Sys2Proof.Machine.Reg Sys2Proof.Laws

/-! ### An instruction that computes a value completes with it -/

section Computes
variable {i : Instr} {h : HandId} {d a b : BitVec 5} {s : State} {v : Word}

theorem exec_alu2 {f : Word → Word → Word} (he : exec i s = s.issueChip h (fun c => c.alu2 h d a b f))
    (hs : s.chip.issues h = true) (hv : f ((s.chip.hand h).w a) ((s.chip.hand h).w b) = v) :
    exec i s = .next (s.completes h d v) :=
  exec_issued_chip he hs (congrArg (s.chip.complete h d) hv) rfl

theorem exec_alu1 {f : Word → Word} (he : exec i s = s.issueChip h (fun c => c.alu1 h d a f))
    (hs : s.chip.issues h = true) (hv : f ((s.chip.hand h).w a) = v) : exec i s = .next (s.completes h d v) :=
  exec_issued_chip he hs (congrArg (s.chip.complete h d) hv) rfl

end Computes

/-! ### Lesser and greater (Table 10.3) -/

/-- Whether equal numbers count as less makes no difference where equal numbers give equal choices. -/
theorem ite_lt_eq_ite_le {α β γ : Type} [LinearOrder β] {f : α → β} (hf : Function.Injective f) {x y : α} {p q : γ}
    (hpq : x = y → p = q) : (if f x < f y then p else q) = if f x ≤ f y then p else q := by
  by_cases hxy : x = y
  · rw [hpq hxy, ite_self, ite_self]
  · have hne : f x ≠ f y := hf.ne hxy
    simp only [hne.le_iff_lt]

theorem opMin_eq (x y : Word) : opMin x y = if x.toInt ≤ y.toInt then x else y := by
  simp only [opMin, BitVec.slt, decide_eq_true_eq]
  exact ite_lt_eq_ite_le (fun _ _ => BitVec.eq_of_toInt_eq) id

theorem opMax_eq (x y : Word) : opMax x y = if x.toInt ≤ y.toInt then y else x := by
  simp only [opMax, BitVec.slt, decide_eq_true_eq]
  exact ite_lt_eq_ite_le (fun _ _ => BitVec.eq_of_toInt_eq) Eq.symm

theorem opMinu_eq (x y : Word) : opMinu x y = if x.toNat ≤ y.toNat then x else y := by
  simp only [opMinu, BitVec.ult, decide_eq_true_eq]
  exact ite_lt_eq_ite_le (fun _ _ => BitVec.eq_of_toNat_eq) id

theorem opMaxu_eq (x y : Word) : opMaxu x y = if x.toNat ≤ y.toNat then y else x := by
  simp only [opMaxu, BitVec.ult, decide_eq_true_eq]
  exact ite_lt_eq_ite_le (fun _ _ => BitVec.eq_of_toNat_eq) Eq.symm

/-! ### One-source functions (Table 10.3) -/

/-- The zeros above the highest one bit: the word lies below the power of two that they leave, and not below the next lower one. -/
theorem opClz_counts (x : Word) :
    ∃ n, n ≤ 32 ∧ opClz x = BitVec.ofNat 32 n ∧ x.toNat < 2 ^ (32 - n) ∧ (n < 32 → 2 ^ (31 - n) ≤ x.toNat) := by
  by_cases hx : x = 0
  · subst hx
    exact ⟨32, by decide⟩
  · have hne : x.toNat ≠ 0 := fun e => hx (BitVec.eq_of_toNat_eq e)
    have hlog : x.toNat.log2 < 32 := (Nat.log2_lt hne).mpr x.isLt
    refine ⟨31 - x.toNat.log2, by omega, by rw [opClz, if_neg hx], ?_, fun _ => ?_⟩
    · rw [show 32 - (31 - x.toNat.log2) = x.toNat.log2 + 1 by omega]
      exact Nat.lt_log2_self
    · rw [show 31 - (31 - x.toNat.log2) = x.toNat.log2 by omega]
      exact Nat.log2_self_le hne

theorem opPopc_eq (x : Word) : opPopc x = BitVec.ofNat 32 ((List.range 32).countP (fun i => x.getLsbD i)) := by
  simp only [opPopc, popCount, List.countP_eq_length_filter, bit_toNat]

theorem opBswap_eq (x : Word) : opBswap x = BitVec.ofNat 32 (leNat (leBytes x.toNat 4).reverse) := by
  have hbytes : (leBytes x.toNat 4).reverse = [BitVec.ofNat 8 (x.toNat / 256 ^ 3), BitVec.ofNat 8 (x.toNat / 256 ^ 2),
    BitVec.ofNat 8 (x.toNat / 256 ^ 1), BitVec.ofNat 8 (x.toNat / 256 ^ 0)] := rfl
  rw [hbytes, opBswap]
  congr 1
  simp only [bits, leNat, BitVec.toNat_ofNat, Nat.reducePow]
  omega

/-- Settles O1, function by function: most are the operation itself, MIN to MAXU differ from it where the operands are equal, and the
counts and the reversal are read off the number. -/
theorem registerArithmetic : Obligations.RegisterArithmetic := by
  unfold Obligations.RegisterArithmetic
  constructor
  · rintro h d a b s hs _ _ rfl rfl
    exact ⟨exec_alu2 rfl hs rfl, exec_alu2 rfl hs rfl, exec_alu2 rfl hs rfl, exec_alu2 rfl hs rfl, exec_alu2 rfl hs rfl,
      exec_alu2 rfl hs rfl, exec_alu2 rfl hs rfl, exec_alu2 rfl hs rfl, exec_alu2 rfl hs rfl, exec_alu2 rfl hs rfl,
      exec_alu2 rfl hs rfl, exec_alu2 rfl hs (opMin_eq _ _), exec_alu2 rfl hs (opMax_eq _ _), exec_alu2 rfl hs (opMinu_eq _ _),
      exec_alu2 rfl hs (opMaxu_eq _ _), exec_alu2 rfl hs rfl, exec_alu2 rfl hs rfl, exec_alu2 rfl hs rfl,
      fun hy => ⟨exec_alu2 rfl hs (if_neg hy), exec_alu2 rfl hs (if_neg hy), exec_alu2 rfl hs (if_neg hy),
        exec_alu2 rfl hs (if_neg hy)⟩⟩
  · rintro h d a s hs x rfl
    obtain ⟨n, hn, hclz, hbelow, habove⟩ := opClz_counts ((s.chip.hand h).w a)
    exact ⟨⟨n, hn, exec_alu1 rfl hs hclz, hbelow, habove⟩, exec_alu1 rfl hs (opPopc_eq _), exec_alu1 rfl hs (opBswap_eq _),
      exec_alu1 rfl hs rfl, exec_alu1 rfl hs rfl⟩

/-! ### The compare word (Table 10.4) -/

/-- The word with the given bits 0 to 4 and no other. -/
def flagWord (b0 b1 b2 b3 b4 : Bool) : Word :=
  BitVec.ofNat 32 (b2n b0 + 2 * b2n b1 + 4 * b2n b2 + 8 * b2n b3 + 16 * b2n b4)

theorem cmpword_eq (x y : Word) : cmpword x y = flagWord (x == y) (x.slt y) (x.ult y) (x.sle y) (x.ule y) := rfl

theorem getLsbD_flagWord : ∀ b0 b1 b2 b3 b4 : Bool,
    (flagWord b0 b1 b2 b3 b4).getLsbD 0 = b0 ∧ (flagWord b0 b1 b2 b3 b4).getLsbD 1 = b1
    ∧ (flagWord b0 b1 b2 b3 b4).getLsbD 2 = b2 ∧ (flagWord b0 b1 b2 b3 b4).getLsbD 3 = b3
    ∧ (flagWord b0 b1 b2 b3 b4).getLsbD 4 = b4 := by decide

theorem getLsbD_flagWord_high (b0 b1 b2 b3 b4 : Bool) {i : Nat} (hi : 5 ≤ i) :
    (flagWord b0 b1 b2 b3 b4).getLsbD i = false := by
  have hb (b : Bool) : b2n b < 2 := b2n_lt b
  have hlt : b2n b0 + 2 * b2n b1 + 4 * b2n b2 + 8 * b2n b3 + 16 * b2n b4 < 2 ^ i :=
    calc _ < 2 ^ 5 := by have := hb b0; have := hb b1; have := hb b2; have := hb b3; have := hb b4; omega
      _ ≤ 2 ^ i := Nat.pow_le_pow_right (by decide) hi
  rw [flagWord, BitVec.getLsbD_ofNat, Nat.testBit_lt_two_pow hlt, Bool.and_false]

/-- Settles O2: a division answers by whether its divisor is 0, and the compare word is the word of its five comparisons. -/
theorem divisionAndCompareWord : Obligations.DivisionAndCompareWord := by
  unfold Obligations.DivisionAndCompareWord
  constructor
  · rintro h d a b s hs x y hx hy
    have hdiv {v : Word} (hv : opDiv x y = v) : exec (.div h d a b) s = .next (s.completes h d v) :=
      exec_alu2 rfl hs (hx ▸ hy ▸ hv)
    have hrem {v : Word} (hv : opRem x y = v) : exec (.rem h d a b) s = .next (s.completes h d v) :=
      exec_alu2 rfl hs (hx ▸ hy ▸ hv)
    have hdivu {v : Word} (hv : opDivu x y = v) : exec (.divu h d a b) s = .next (s.completes h d v) :=
      exec_alu2 rfl hs (hx ▸ hy ▸ hv)
    have hremu {v : Word} (hv : opRemu x y = v) : exec (.remu h d a b) s = .next (s.completes h d v) :=
      exec_alu2 rfl hs (hx ▸ hy ▸ hv)
    refine ⟨⟨_, hdiv rfl⟩, ⟨_, hdivu rfl⟩, ⟨_, hrem rfl⟩, ⟨_, hremu rfl⟩, fun hzero => ?byZero, fun hmin hneg => ?overflow⟩
    case byZero => exact ⟨hdiv (if_pos hzero), hdivu (if_pos hzero), hrem (if_pos hzero), hremu (if_pos hzero)⟩
    case overflow =>
      rw [hmin, hneg] at hdiv hrem
      exact ⟨hdiv (by decide), hrem (by decide)⟩
  · intro x y
    rw [cmpword_eq]
    obtain ⟨heq, hslt, hult, hsle, hule⟩ := getLsbD_flagWord (x == y) (x.slt y) (x.ult y) (x.sle y) (x.ule y)
    exact ⟨heq.trans (beq_eq_decide x y), hslt, hult, hsle, hule, fun _ hi => getLsbD_flagWord_high _ _ _ _ _ hi⟩

/-! ### Immediates (R281, R282) -/

theorem ofNat_lui (imm : BitVec 16) : BitVec.ofNat 32 (imm.toNat * 65536) = imm.zeroExtend 32 <<< 16 := by
  apply BitVec.eq_of_toNat_eq
  have := imm.isLt
  simp only [BitVec.toNat_ofNat, BitVec.toNat_shiftLeft, BitVec.truncate_eq_setWidth, BitVec.toNat_setWidth, Nat.shiftLeft_eq]
  omega

/-- A shift count below 32 survives being made a word. -/
theorem shiftCount (n : Nat) : (BitVec.ofNat 32 (n % 32)).toNat % 32 = n % 32 := by
  rw [BitVec.toNat_ofNat]
  omega

section Shifti
variable {h : HandId} {d a : BitVec 5} {imm : BitVec 16} {s : State}

theorem exec_shifti : exec (.shifti h d a imm) s = s.issueChip h (fun c =>
    if 128 ≤ imm.toNat then c.trapHere h 1 (fmtI 0x06 d a imm)
    else c.alu1 h d a (fun x => opShift (imm.toNat / 32) x (imm.toNat % 32))) := rfl

theorem exec_shifti_legal (hs : s.chip.issues h = true) (hi : imm.toNat / 128 = 0) {kind : Nat} (hk : imm.toNat / 32 = kind)
    {v : Word} (hv : opShift kind ((s.chip.hand h).w a) (imm.toNat % 32) = v) :
    exec (.shifti h d a imm) s = .next (s.completes h d v) := by
  subst hk
  have hlegal : ¬ 128 ≤ imm.toNat := by omega
  exact exec_issued_chip exec_shifti hs ((if_neg hlegal).trans (congrArg (s.chip.complete h d) hv)) rfl

theorem exec_shifti_reserved (hs : s.chip.issues h = true) (hi : imm.toNat / 128 ≠ 0) :
    exec (.shifti h d a imm) s = .next (s.settle (s.chip.trapHere h 1 (fmtI 0x06 d a imm))) := by
  have hreserved : 128 ≤ imm.toNat := by omega
  exact exec_issued exec_shifti hs (if_pos hreserved)

end Shifti

/-- Settles O3: the six by their operation, SHIFTI by whether its immediate is reserved and then by its kind. -/
theorem immediateInstructions : Obligations.ImmediateInstructions := by
  unfold Obligations.ImmediateInstructions
  constructor
  · rintro h d a imm s hs x rfl
    exact ⟨exec_alu1 rfl hs rfl, exec_alu1 rfl hs rfl, exec_alu1 rfl hs rfl, exec_alu1 rfl hs rfl,
      exec_issued_chip (f := fun c => c.complete h d (BitVec.ofNat 32 (imm.toNat * 65536))) rfl hs
        (congrArg (s.chip.complete h d) (ofNat_lui imm)) rfl,
      exec_alu1 rfl hs rfl⟩
  · rintro h d a imm s hs x rfl
    have hcount := shiftCount imm.toNat
    exact ⟨fun hi => ⟨fun hk => exec_shifti_legal hs hi hk (congrArg (fun n : Nat => (s.chip.hand h).w a <<< n) hcount),
      fun hk => exec_shifti_legal hs hi hk (congrArg (fun n : Nat => (s.chip.hand h).w a >>> n) hcount),
      fun hk => exec_shifti_legal hs hi hk (congrArg ((s.chip.hand h).w a).sshiftRight hcount),
      fun hk => exec_shifti_legal hs hi hk (congrArg ((s.chip.hand h).w a).rotateRight hcount)⟩, exec_shifti_reserved hs⟩

end Sys2Proof.Proofs

/-! SUPPORT. Loads and stores (spec/10_fungatre_core_instructions.md R283, R284, spec/09_fungatre_machine.md R246, R247), and the traps
of a misaligned access and of a word beyond correction. -/

namespace Sys2Proof.Proofs
open Sys2Proof Sys2Proof.Machine Sys2Proof.Machine.Reg Sys2Proof.Laws

/-! ### The instructions by access size -/

/-- LDB, LDH or LDW. -/
def loadInstr (h : HandId) (d a : BitVec 5) (imm : BitVec 16) : AccSize → Instr
  | .byte => .ldb h d a imm
  | .half => .ldh h d a imm
  | .word => .ldw h d a imm

/-- STB, STH or STW. -/
def storeInstr (h : HandId) (d a : BitVec 5) (imm : BitVec 16) : AccSize → Instr
  | .byte => .stb h d a imm
  | .half => .sth h d a imm
  | .word => .stw h d a imm

section Issued
variable {h : HandId} {d a : BitVec 5} {imm : BitVec 16} {s t : State} (hs : s.chip.issues h = true)
include hs

theorem exec_loadInstr (size : AccSize) (ht : s.load h d a imm size = t) : exec (loadInstr h d a imm size) s = .next t := by
  have he : exec (loadInstr h d a imm size) s = s.issue h (fun s => s.load h d a imm size) := by cases size <;> rfl
  rw [he, issue_runs hs, ht]

theorem exec_storeInstr (size : AccSize) (ht : s.store h d a imm size = t) : exec (storeInstr h d a imm size) s = .next t := by
  have he : exec (storeInstr h d a imm size) s = s.issue h (fun s => s.store h d a imm size) := by cases size <;> rfl
  rw [he, issue_runs hs, ht]

end Issued

/-! ### What a load or a store does, by its address and the error of the addressed word -/

section LoadStore
variable {s : State} {h : HandId} {d a : BitVec 5} {imm : BitVec 16} {size : AccSize} {ea : Word} {m : Nat}
  (hea : ea = s.chip.ea h a imm)
include hea

theorem load_misaligned (hal : ea.toNat % size.bytes ≠ 0) : s.load h d a imm size = s.settle (s.chip.trapHere h 2 ea) := by
  subst hea
  exact if_pos hal

theorem store_misaligned (hal : ea.toNat % size.bytes ≠ 0) : s.store h d a imm size = s.settle (s.chip.trapHere h 2 ea) := by
  subst hea
  exact if_pos hal

theorem jalr_misaligned (hal : ea.toNat % 4 ≠ 0) : s.chip.jalr h d a imm = s.chip.trapHere h 2 ea := by
  subst hea
  exact if_pos hal

/-- A byte or halfword stored to a word beyond correction traps (R247). -/
theorem store_uncorrectable (hal : ea.toNat % size.bytes = 0) (hsize : size.bytes < 4) (hsoft : s.chip.soft (dataAddr h ea) = 2) :
    s.store h d a imm size = s.settle (s.chip.trapHere h 9 ea) := by
  subst hea
  exact (if_neg (not_not_intro hal)).trans (if_pos ⟨hsize, hsoft⟩)

variable (hm : m = dataAddr h ea)
include hm

theorem load_clean (hal : ea.toNat % size.bytes = 0) (hsoft : s.chip.soft m = 0) :
    s.load h d a imm size = s.completes h d (BitVec.ofNat 32 (Memory.read s.mem m size.bytes)) := by
  subst hea hm
  simp only [State.load, hal, hsoft, ne_eq, not_true_eq_false, if_false, if_true, OfNat.zero_ne_ofNat]
  rfl

theorem load_corrected (hal : ea.toNat % size.bytes = 0) (hsoft : s.chip.soft m = 1) :
    s.load h d a imm size
      = { s with chip := (s.chip.corrected h m).complete h d (BitVec.ofNat 32 (Memory.read s.mem m size.bytes)) } := by
  subst hea hm
  simp only [State.load, hal, hsoft, ne_eq, not_true_eq_false, if_false, OfNat.one_ne_ofNat, one_ne_zero]

/-- A store that does not trap replaces the bytes, and with them the word's error. -/
theorem store_writes (hal : ea.toNat % size.bytes = 0) (hsoft : size.bytes < 4 → s.chip.soft m ≠ 2) :
    s.store h d a imm size
      = { s with chip := (s.chip.heal m).advance h, mem := Memory.write s.mem m size.bytes ((s.chip.hand h).w d).toNat } := by
  subst hea hm
  exact (if_neg (not_not_intro hal)).trans (if_neg (fun e => hsoft e.1 e.2))

end LoadStore

/-! ### The chip after a store or a corrected load -/

theorem hand_evt (c : Chip) (f : Fld) (k : HandId) : (c.evt f).hand k = c.hand k := by
  simp only [Chip.hand, evt_cores]

/-- Completing an instruction that writes no register leaves the registers of every hand. -/
theorem w_advance (c : Chip) (h k : HandId) (r : BitVec 5) : ((c.advance h).hand k).w r = (c.hand k).w r := by
  by_cases hk : k = h
  · rw [hk, hand_advance, w_done]
  · rw [hand_advance_other _ _ _ hk]

/-- Correcting a word touches no hand. -/
theorem hand_corrected (c : Chip) (h k : HandId) (m : Nat) : (c.corrected h m).hand k = c.hand k := by
  unfold Chip.corrected
  extract_lets e
  split
  · rw [hand_evt]
    rfl
  · rfl

theorem soft_corrected (c : Chip) (h : HandId) (m : Nat) : (c.corrected h m).soft m = 0 := by
  unfold Chip.corrected
  extract_lets e
  split
  · rw [soft_evt]
    exact soft_heal c m
  · exact soft_heal c m

/-- BCH_EVT_b.ECC_CORR lies before BCH_ECC_CORR_b, and both lie below the planting unit's registers. -/
theorem eccCorr_keys {b : Nat} (hb : b < 16) :
    (BCH_EVT_ECC_CORR b).key < (BCH_ECC_CORR b).key ∧ (BCH_ECC_CORR b).key < UPD_STAT_PHASE.key := by
  simp only [Fld.key, BCH_EVT_ECC_CORR, BCH_ECC_CORR, UPD_STAT_PHASE]
  omega

/-- On a bench a corrected word is counted in BCH_ECC_CORR_b (R247). -/
theorem get_corrected_count {h : HandId} (hb : onBench h = true) (c : Chip) (m : Nat) :
    (c.corrected h m).get (BCH_ECC_CORR (benchOf h)) = min (c.get (BCH_ECC_CORR (benchOf h)) + 1) (2 ^ 32 - 1) := by
  obtain ⟨hlt, hphase⟩ := eccCorr_keys (benchOf_lt hb)
  rw [show c.corrected h m = ((c.heal m).inc (BCH_ECC_CORR (benchOf h))).evt (BCH_EVT_ECC_CORR (benchOf h)) from if_pos hb,
    get_evt_other _ _ _ (outsideLog_of_le_phase hphase.le) hlt.ne', get_inc_same]
  rfl

/-! ### Stores -/

/-- The store instructions with the size of each. -/
theorem eq_storeInstr {i : Instr} {h : HandId} {d a : BitVec 5} {imm : BitVec 16} {k : Nat} {p : Prop}
    (hi : i = .stw h d a imm ∧ k = 4 ∨ i = .sth h d a imm ∧ k = 2 ∧ p ∨ i = .stb h d a imm ∧ k = 1 ∧ p) :
    ∃ size : AccSize, size.bytes = k ∧ i = storeInstr h d a imm size ∧ (size.bytes < 4 → p) := by
  obtain ⟨rfl, rfl⟩ | ⟨rfl, rfl, hp⟩ | ⟨rfl, rfl, hp⟩ := hi
  · exact ⟨.word, rfl, rfl, fun hlt => absurd hlt (by decide)⟩
  · exact ⟨.half, rfl, rfl, fun _ => hp⟩
  · exact ⟨.byte, rfl, rfl, fun _ => hp⟩

/-- Settles O5: every store that does not trap is `store_writes` at its size, and a write changes the bytes it names alone. -/
theorem storesWriteDataMemory : Obligations.StoresWriteDataMemory := by
  unfold Obligations.StoresWriteDataMemory
  intro h d a imm s hs ea m hea hm i k hi hal
  obtain ⟨size, rfl, rfl, hsoft⟩ := eq_storeInstr hi
  refine ⟨_, exec_storeInstr hs size (store_writes hea hm hal hsoft), fun n hn => byte_write_inside _ _ _ _ hn,
    fun b hb => byte_write_outside _ _ _ _ hb, fun j r => w_advance (s.chip.heal m) h j r, fun _ => rfl, ?pc, soft_heal _ _,
    wf_write _ _ _⟩
  case pc =>
    show (((s.chip.heal m).advance h).hand h).pc = _
    rw [hand_advance]
    rfl

/-! ### Loads -/

/-- Settles O4: a load by the error of the addressed word; a misaligned address and a word beyond correction by the trap that comes
before any access. -/
theorem loadsAndMisalignment : Obligations.LoadsAndMisalignment := by
  unfold Obligations.LoadsAndMisalignment
  constructor
  · intro h d a imm s hs ea m hea hm
    refine ⟨fun hsoft => ⟨fun hal => exec_loadInstr hs .word (load_clean hea hm hal hsoft),
      fun hal => exec_loadInstr hs .half (load_clean hea hm hal hsoft),
      exec_loadInstr hs .byte (load_clean hea hm (Nat.mod_one _) hsoft)⟩, fun hsoft hb hal => ?corrected⟩
    case corrected =>
      refine ⟨_, exec_loadInstr hs .word (load_corrected hea hm hal hsoft), rfl, ?_, get_corrected_count hb s.chip m,
        soft_corrected s.chip h m⟩
      show ((s.chip.corrected h m).complete h d _).hand h = (s.chip.complete h d _).hand h
      rw [hand_complete, hand_complete, hand_corrected]
      rfl
  · intro h d a imm s hs ea hea
    refine ⟨fun hal i hi => ?word, fun hal i hi => ?half, fun hsoft =>
      ⟨exec_storeInstr hs .byte (store_uncorrectable hea (Nat.mod_one _) (by decide) hsoft),
        fun hal => exec_storeInstr hs .half (store_uncorrectable hea hal (by decide) hsoft)⟩⟩
    case word =>
      obtain rfl | rfl | rfl := hi
      · exact exec_loadInstr hs .word (load_misaligned hea hal)
      · exact exec_storeInstr hs .word (store_misaligned hea hal)
      · exact exec_issued (f := fun c => c.jalr h d a imm) rfl hs (jalr_misaligned hea hal)
    case half =>
      obtain rfl | rfl := hi
      · exact exec_loadInstr hs .half (load_misaligned hea hal)
      · exact exec_storeInstr hs .half (store_misaligned hea hal)

end Sys2Proof.Proofs

/-! SUPPORT. Branches, jumps and the instructions that control a hand (spec/10_fungatre_core_instructions.md R285 to R287, R291 to
R293): BR by its condition, JAL and JALR, and ERET, YIELD and HALT by what waits at the hand's boundary. -/

namespace Sys2Proof.Proofs
open Sys2Proof Sys2Proof.Machine Sys2Proof.Machine.Reg Sys2Proof.Laws

/-! ### BR (R285) -/

/-- The conditions from 7 on: the reserved ones, then those that test a bit of the low byte. -/
theorem brCond_high {c : BitVec 5} (h7 : 7 ≤ c.toNat) (v : Word) :
    brCond c v = if c.toNat < 16 then none
      else if c.toNat < 24 then some (v.getLsbD (c.toNat - 16)) else some (!v.getLsbD (c.toNat - 24)) := by
  unfold brCond
  extract_lets n
  have hne (k : Nat) (hk : k < 7) : n ≠ k := by omega
  rw [if_neg (hne 0 (by decide)), if_neg (hne 1 (by decide)), if_neg (hne 2 (by decide)), if_neg (hne 3 (by decide)),
    if_neg (hne 4 (by decide)), if_neg (hne 5 (by decide)), if_neg (hne 6 (by decide))]

theorem brCond_reserved {c : BitVec 5} (h7 : 7 ≤ c.toNat) (h15 : c.toNat ≤ 15) (v : Word) : brCond c v = none := by
  rw [brCond_high h7, if_pos (by omega)]

theorem toNat_ofNat5 {n : Nat} (hn : n < 32) : (BitVec.ofNat 5 n).toNat = n := Nat.mod_eq_of_lt hn

/-- The conditions that test a bit are not ALWAYS. -/
theorem ofNat5_ne_always {n : Nat} (h16 : 16 ≤ n) (hn : n < 32) : BitVec.ofNat 5 n ≠ 6 := fun e => by
  have h6 : n = 6 := (toNat_ofNat5 hn).symm.trans (congrArg BitVec.toNat e)
  omega

theorem brCond_bitSet {k : Nat} (hk : k < 8) (v : Word) : brCond (BitVec.ofNat 5 (16 + k)) v = some (v.getLsbD k) := by
  have hc : (BitVec.ofNat 5 (16 + k)).toNat = 16 + k := toNat_ofNat5 (by omega)
  rw [brCond_high (by omega), if_neg (by omega), if_pos (by omega), hc, Nat.add_sub_cancel_left]

theorem brCond_bitClear {k : Nat} (hk : k < 8) (v : Word) : brCond (BitVec.ofNat 5 (24 + k)) v = some (!v.getLsbD k) := by
  have hc : (BitVec.ofNat 5 (24 + k)).toNat = 24 + k := toNat_ofNat5 (by omega)
  rw [brCond_high (by omega), if_neg (by omega), if_neg (by omega), hc, Nat.add_sub_cancel_left]

section Branch
variable {h : HandId} {cond a : BitVec 5} {imm : BitVec 16} {s : State} (hs : s.chip.issues h = true)
include hs

/-- A branch on a condition that is not reserved goes to its target or to the next instruction. -/
theorem exec_br {taken : Bool} (hc : brCond cond ((s.chip.hand h).w a) = some taken) (hl : cond ≠ 6 ∨ a = 0) :
    exec (.br h cond a imm) s = .next (if taken then
        { s with chip := s.chip.goto h (wrapPc h ((s.chip.hand h).pc.zeroExtend 32 + imm.signExtend 32 * 4)) }
      else s.advances h) := by
  have hlegal : ¬ (cond = 6 ∧ a ≠ 0) := fun e => hl.elim (fun h6 => h6 e.1) (fun h0 => e.2 h0)
  have hbr : s.chip.br h cond a imm = if taken then
      s.chip.goto h (wrapPc h ((s.chip.hand h).pc.zeroExtend 32 + imm.signExtend 32 * 4)) else s.chip.advance h := by
    unfold Chip.br
    simp only [hc]
    exact if_neg hlegal
  cases taken with
  | false => exact exec_issued_chip (f := fun c => c.br h cond a imm) rfl hs hbr rfl
  | true => exact exec_issued_chip (f := fun c => c.br h cond a imm) rfl hs hbr rfl

theorem exec_br_reserved (hc : brCond cond ((s.chip.hand h).w a) = none) :
    exec (.br h cond a imm) s = .next (s.settle (s.chip.trapHere h 1 (fmtI 0x10 cond a imm))) :=
  exec_issued (f := fun c => c.br h cond a imm) rfl hs (by simp only [Chip.br, hc])

end Branch

/-- Settles O6: each condition is one row of Table 10.7, and a branch follows it. -/
theorem branchTakenByCondition : Obligations.BranchTakenByCondition := by
  unfold Obligations.BranchTakenByCondition
  rintro h a imm s hs x goes rfl hgoes
  have hbr {cond : BitVec 5} {taken : Bool} (hc : brCond cond ((s.chip.hand h).w a) = some taken) (hl : cond ≠ 6 ∨ a = 0) :
      exec (.br h cond a imm) s = .next (goes taken) := by
    rw [hgoes]
    exact exec_br hs hc hl
  have hzero : ((s.chip.hand h).w a == 0) = decide ((s.chip.hand h).w a = 0) := beq_eq_decide _ _
  have hnonzero : ((s.chip.hand h).w a != 0) = decide ((s.chip.hand h).w a ≠ 0) := by
    rw [bne, hzero, decide_not]
  have hmsb : ((s.chip.hand h).w a).getLsbD 31 = ((s.chip.hand h).w a).msb := (BitVec.msb_eq_getLsbD_last _).symm
  rw [hmsb]
  exact ⟨hbr (congrArg some hzero) (.inl (by decide)), hbr (congrArg some hnonzero) (.inl (by decide)),
    hbr rfl (.inl (by decide)), hbr rfl (.inl (by decide)),
    hbr (congrArg (fun b => some (!((s.chip.hand h).w a).msb && b)) hnonzero) (.inl (by decide)),
    hbr (congrArg (fun b => some (((s.chip.hand h).w a).msb || b)) hzero) (.inl (by decide)), fun ha => hbr rfl (.inr ha),
    fun k hk => ⟨hbr (brCond_bitSet hk _) (.inl (ofNat5_ne_always (by omega) (by omega))),
      hbr (brCond_bitClear hk _) (.inl (ofNat5_ne_always (by omega) (by omega)))⟩,
    fun c h7 h15 => exec_br_reserved hs (brCond_reserved h7 h15 _)⟩

/-! ### A hand that issues -/

/-- The hand is in Run and not yielding, its core is on, and nothing waits at its boundary. -/
theorem of_issues {c : Chip} {h : HandId} (hs : c.issues h = true) :
    (c.hand h).state = .run ∧ (c.hand h).yielding = false ∧ c.coreOn h = true ∧ (c.hand h).pendingCause = false := by
  simp only [Chip.issues, Chip.ready, Bool.and_eq_true, Bool.not_eq_true', beq_iff_eq] at hs
  obtain ⟨⟨⟨⟨hrun, hyield⟩, hon⟩, hquiet⟩, -⟩ := hs
  exact ⟨hrun, hyield, hon, hquiet⟩

theorem haltDue_of_run {x : Hand} (hx : x.state = .run) : x.haltDue = x.haltAsked := by
  simp [Hand.haltDue, hx]

theorem pendingCause_eq_false {x : Hand} : x.pendingCause = false ↔
    x.haltDue = false ∧ x.pend06 = false ∧ x.pend05 = none ∧ (x.inTrap = true ∨ x.checkpoint = false ∧ x.pend0A = false) := by
  simp only [Hand.pendingCause, Bool.or_eq_false_iff, Bool.and_eq_false_iff, Bool.not_eq_false', Option.isSome_eq_false_iff,
    Option.isNone_iff_eq_none, and_assoc, or_comm]

/-! ### The boundary (R262) -/

/-- Where nothing is pending, a boundary is passed. -/
theorem boundary_quiet {c : Chip} {h : HandId} (hq : (c.hand h).pendingCause = false) : c.boundary h = c := by
  obtain ⟨hdue, h06, h05, hlate⟩ := pendingCause_eq_false.mp hq
  simp only [Chip.boundary, hdue, h06, h05, Bool.false_eq_true, if_false]
  obtain hin | ⟨hcheck, h0A⟩ := hlate
  · simp only [hin, if_true, ite_self]
  · simp only [hcheck, h0A, Bool.false_eq_true, if_false, ite_self]

/-- A pending cause 0x0A is taken at a boundary outside a handler. -/
theorem boundary_takes0A {c : Chip} {h : HandId} {y : Hand} (hy : c.hand h = y) (hrun : y.state = .run) (hon : c.coreOn h = true)
    (hdue : y.haltDue = false) (h06 : y.pend06 = false) (h05 : y.pend05 = none) (hin : y.inTrap = false)
    (hcheck : y.checkpoint = false) (h0A : y.pend0A = true) :
    c.boundary h = (c.setHand h { y with pend0A := false }).trapHere h 10 0 := by
  subst hy
  have hat : c.atBoundary h = true := by simp only [Chip.atBoundary, hrun]
  simp only [Chip.boundary, hat, hon, hdue, h06, h05, hin, hcheck, h0A, Bool.true_eq_false, Bool.false_eq_true, or_self, if_false,
    if_true]

/-! ### JAL and JALR (R286, R287) -/

/-- The hand after a jump: the link written and pc at the target. -/
def jumped (h : HandId) (x : Hand) (d : BitVec 5) (target : BitVec 18) : Hand :=
  (x.setW d ((nextPc h x.pc).zeroExtend 32)).done target

theorem exec_jump {i : Instr} {h : HandId} {d a : BitVec 5} {off : BitVec 21} {imm : BitVec 16} {s : State} {x : Hand} {t : Word}
    {target : BitVec 18} (hs : s.chip.issues h = true) (hx : x = s.chip.hand h) (ht : t = x.w a + imm.signExtend 32)
    (hi : i = .jal h d off ∧ target = wrapPc h (x.pc.zeroExtend 32 + off.signExtend 32 * 4)
      ∨ i = .jalr h d a imm ∧ t.toNat % 4 = 0 ∧ target = wrapPc h t) :
    exec i s = .next { s with chip := s.chip.setHand h (jumped h x d target) } := by
  subst hx ht
  obtain ⟨rfl, rfl⟩ | ⟨rfl, hal, rfl⟩ := hi
  · exact exec_issued_chip (f := fun c => c.jal h d off) rfl hs rfl rfl
  · exact exec_issued_chip (f := fun c => c.jalr h d a imm) rfl hs (if_neg (not_not_intro hal)) rfl

theorem jumped_fields (h : HandId) (x : Hand) (d : BitVec 5) (target : BitVec 18) :
    (jumped h x d target).pc = target ∧ (jumped h x d target).instret = (x.instret + 1) % 2 ^ 64
    ∧ ∀ r, (jumped h x d target).w r = if r = d ∧ d ≠ 0 then (nextPc h x.pc).zeroExtend 32 else x.w r := by
  obtain ⟨regs, hregs⟩ := setW_frame x d ((nextPc h x.pc).zeroExtend 32)
  refine ⟨rfl, ?_, fun r => ?_⟩
  · rw [jumped, hregs]
    rfl
  · rw [jumped, w_done, w_setW]

/-! ### ERET (R291) -/

/-- The hand that ERET has taken out of its handler. -/
def returned (x : Hand) : Hand := { x.done x.tepc with inTrap := false }

section Eret
variable {h : HandId} {s : State} (hs : s.chip.issues h = true)
include hs

theorem exec_eret_outside (hin : (s.chip.hand h).inTrap = false) :
    exec (.eret h) s = .next (s.settle (s.chip.trapHere h 1 0xAC000000)) :=
  exec_issued (f := fun c => c.eret h) rfl hs (if_neg (ne_true_of_eq_false hin))

/-- Of what the boundary asks for, a hand that issues has none. -/
theorem returned_quiet : (returned (s.chip.hand h)).haltDue = false ∧ (returned (s.chip.hand h)).pend06 = false
    ∧ (returned (s.chip.hand h)).pend05 = none := by
  obtain ⟨hrun, -, -, hquiet⟩ := of_issues hs
  obtain ⟨hdue, h06, h05, -⟩ := pendingCause_eq_false.mp hquiet
  refine ⟨?_, h06, h05⟩
  rw [haltDue_of_run rfl]
  exact (haltDue_of_run hrun).symm.trans hdue

theorem exec_eret_returns (hin : (s.chip.hand h).inTrap = true) (hcheck : (s.chip.hand h).checkpoint = false)
    (h0A : (s.chip.hand h).pend0A = false) :
    exec (.eret h) s = .next { s with chip := s.chip.setHand h (returned (s.chip.hand h)) } := by
  obtain ⟨hdue, h06, h05⟩ := returned_quiet hs
  have hquiet : (returned (s.chip.hand h)).pendingCause = false :=
    pendingCause_eq_false.mpr ⟨hdue, h06, h05, .inr ⟨hcheck, h0A⟩⟩
  exact exec_issued_chip (f := fun c => c.eret h) rfl hs
    ((if_pos hin).trans (boundary_quiet ((congrArg Hand.pendingCause (hand_setHand _ _ _)).trans hquiet))) rfl

theorem exec_eret_takes0A (hin : (s.chip.hand h).inTrap = true) (hcheck : (s.chip.hand h).checkpoint = false)
    (h0A : (s.chip.hand h).pend0A = true) :
    ∃ c : Chip, c.hand h = { returned (s.chip.hand h) with pend0A := false }
      ∧ exec (.eret h) s = .next (s.settle (c.trapHere h 10 0)) := by
  obtain ⟨-, -, hon, -⟩ := of_issues hs
  obtain ⟨hdue, h06, h05⟩ := returned_quiet hs
  exact ⟨(s.chip.setHand h (returned (s.chip.hand h))).setHand h { returned (s.chip.hand h) with pend0A := false },
    hand_setHand _ _ _, exec_issued (f := fun c => c.eret h) rfl hs
      ((if_pos hin).trans (boundary_takes0A (hand_setHand _ _ _) rfl hon hdue h06 h05 rfl hcheck h0A))⟩

end Eret

/-! ### YIELD (R292) -/

section Yield
variable {h : HandId} {s : State} (hs : s.chip.issues h = true)
include hs

theorem exec_yield_zero : exec (.yield h 0) s = .next (s.advances h) :=
  exec_issued_chip (f := fun c => c.yieldInstr h 0) rfl hs rfl rfl

theorem exec_yield {imm : BitVec 16} (hi : imm ≠ 0) : exec (.yield h imm) s
    = .next { s with chip := (s.advances h).chip.setHand h { (s.advances h).chip.hand h with yielding := true } } :=
  exec_issued_chip (f := fun c => c.yieldInstr h imm) rfl hs (if_neg hi) rfl

/-- A hand that has completed an instruction is as quiet as the one that issued it, and not yielding. -/
theorem advanced_quiet :
    ((s.advances h).chip.hand h).pendingCause = false ∧ ((s.advances h).chip.hand h).yielding = false := by
  obtain ⟨hrun, hyield, -, hquiet⟩ := of_issues hs
  obtain ⟨hdue, hrest⟩ := pendingCause_eq_false.mp hquiet
  have hhand : (s.advances h).chip.hand h = (s.chip.hand h).done (nextPc h (s.chip.hand h).pc) := hand_advance _ _
  rw [hhand]
  refine ⟨pendingCause_eq_false.mpr ⟨?_, hrest⟩, hyield⟩
  rw [haltDue_of_run rfl]
  exact (haltDue_of_run hrun).symm.trans hdue

end Yield

/-- The end of a YIELD at a hand where nothing waits makes it ready again. -/
theorem hand_yieldEnd {c : Chip} {h : HandId} {x : Hand} {t : State} (hx : x.pendingCause = false) (hy : x.yielding = false)
    (ht : t.chip = c.setHand h { x with yielding := true }) :
    ∃ u, exec (.yieldEnd h) t = .next u ∧ u.chip.hand h = x := by
  have hx' : { x with yielding := false } = x := by rw [← hy]
  have hhand : (t.chip.setHand h { t.chip.hand h with yielding := false }).hand h = x := by
    rw [hand_setHand, ht, hand_setHand]
    exact hx'
  exact ⟨_, congrArg (fun c => Host.Outcome.next (t.settle c)) (boundary_quiet (by rwa [hhand])), hhand⟩

/-! ### HALT (R293) -/

/-- A bench hand that holds a tag waits in Stall, and otherwise halts. -/
theorem haltInstr_bench {c : Chip} {h : HandId} (hb : onBench h = true) : c.haltInstr h = if c.tagsHeld h ≠ 0 then c.stall h (.halt h)
    else ((c.advance h).haltHand h).evt (BCH_EVT_HALTED (benchOf h)) := by
  have hlt : h.val < 64 := of_decide_eq_true hb
  exact (if_neg hlt.ne).trans (if_neg (by omega))

theorem haltInstr_porter (c : Chip) : c.haltInstr 64 = c.trapHere 64 1 0xB4000000 := rfl

section Halt
variable {h : HandId} {s : State} (hs : s.chip.issues h = true)
include hs

theorem exec_halt_halts (hb : onBench h = true) (ht : s.chip.tagsHeld h = 0) : ∃ t, exec (.halt h) s = .next t
    ∧ (t.chip.hand h).state = .halted ∧ t.chip.get (BCH_EVT_HALTED (benchOf h)) = 1 := by
  have hkey : (BCH_EVT_HALTED (benchOf h)).key ≤ UPD_STAT_PHASE.key := by
    have := benchOf_lt hb
    simp only [Fld.key, BCH_EVT_HALTED, UPD_STAT_PHASE]
    omega
  refine ⟨_, exec_issued (f := fun c => c.haltInstr h) rfl hs ((haltInstr_bench hb).trans (if_neg (not_not_intro ht))), ?_,
    get_evt_bit (outsideLog_of_le_phase hkey) rfl⟩
  rw [settle_chip, hand_evt]
  exact state_haltHand _ _

theorem exec_halt_stalls (hb : onBench h = true) (ht : s.chip.tagsHeld h ≠ 0) :
    exec (.halt h) s = .next { s with chip := s.chip.stall h (.halt h) } :=
  exec_issued_chip (f := fun c => c.haltInstr h) rfl hs ((haltInstr_bench hb).trans (if_pos ht)) rfl

end Halt

/-- Settles O7: the jumps by the record they leave, ERET by what waits at the boundary it comes to, YIELD by its two ends, and HALT by
the tags that the hand holds. -/
theorem jumpsAndHandControl : Obligations.JumpsAndHandControl := by
  unfold Obligations.JumpsAndHandControl
  constructor
  · intro h d a off imm s hs x t hx ht i target hi
    obtain ⟨hpc, hcount, hw⟩ := jumped_fields h x d target
    refine ⟨_, exec_jump hs hx ht hi, rfl, ?_, ?_, fun r => ?_, fun k hk => hand_setHand_other _ _ _ _ hk, fun _ => rfl⟩
    · rw [hand_setHand, hpc]
    · rw [hand_setHand, hcount]
    · rw [hand_setHand, hw]
  · rintro h imm s hs x y rfl rfl
    obtain ⟨hquiet, hyield⟩ := advanced_quiet hs
    refine ⟨exec_eret_returns hs, exec_eret_takes0A hs, exec_eret_outside hs, exec_yield_zero hs, fun hi => ?yields,
      exec_halt_halts hs, exec_halt_stalls hs, ?porter⟩
    case yields =>
      refine ⟨_, exec_yield hs hi, rfl, hand_setHand _ _ _, ?_, hand_yieldEnd hquiet hyield rfl⟩
      simp [Chip.ready]
    case porter =>
      rintro rfl
      exact exec_issued (f := fun c => c.haltInstr 64) rfl hs (haltInstr_porter _)

end Sys2Proof.Proofs

/-! SUPPORT. Cells taken and given (spec/11_fungatre_tunnel_instructions.md R299 to R302): TAKE and PEEK by the ring and its take
side, GIVE by the ring's port and the tunnel end. -/

namespace Sys2Proof.Proofs
open Sys2Proof Sys2Proof.Machine Sys2Proof.Machine.Reg Sys2Proof.Laws

/-! ### TAKE and PEEK (R299, R300) -/

section TakeBody
variable {c : Chip} {h : HandId} {d : BitVec 5} {ring : Fin 64} {creg : Fin 8} {nb peek : Bool} {i : Instr}

theorem takeBody_unowned (ho : c.owns h creg = false) :
    takeBody h d ring creg nb peek i c = c.trapHere h 7 (BitVec.ofNat 32 creg.val) := if_pos ho

variable (ho : c.owns h creg = true)
include ho

theorem takeBody_unbound (hb : c.bound h ring = false) :
    takeBody h d ring creg nb peek i c = c.trapHere h 4 (BitVec.ofNat 32 ring.val) :=
  (if_neg (ne_false_of_eq_true ho)).trans (if_pos hb)

variable (hb : c.bound h ring = true)
include hb

theorem takeBody_frozen (hf : c.ringFrozen ring = true) : takeBody h d ring creg nb peek i c = c.stall h i :=
  (if_neg (ne_false_of_eq_true ho)).trans ((if_neg (ne_false_of_eq_true hb)).trans (if_pos hf))

variable (hf : c.ringFrozen ring = false)
include hf

theorem takeBody_empty (ht : (c.ring ring).take = []) :
    takeBody h d ring creg nb peek i c = if nb then c.complete h d takeNone else c.stall h i := by
  simp only [takeBody, ho, hb, hf, ht, Bool.true_eq_false, Bool.false_eq_true, if_false]

/-- The cell at the head is copied, and TAKE also lets the next one of those queued in. -/
theorem takeBody_cell {e : TakeEntry} {rest : List TakeEntry} (ht : (c.ring ring).take = e :: rest) :
    takeBody h d ring creg nb peek i c = Chip.complete
      (if peek then c.setCreg (benchOf h) creg e.cell.toBytes else
        ((c.setCreg (benchOf h) creg e.cell.toBytes).setRing ring { c.ring ring with take := rest }).refill ring)
      h d (BitVec.ofNat 32 (takeStatus e)) := by
  simp only [takeBody, ho, hb, hf, ht, Bool.true_eq_false, Bool.false_eq_true, if_false]
  rfl

end TakeBody

theorem restarts_refill (c : Chip) (r : Nat) : (c.refill r).cores.restarts = c.cores.restarts :=
  refill_keeps Cores.restarts c r (fun _ _ => rfl)

/-! ### GIVE (R301, R302) -/

section GiveBody
variable {c : Chip} {h : HandId} {d : BitVec 5} {wa : Nat} {ring : Fin 64} {creg : Fin 8} {nb eom : Bool} {i : Instr}
  (ho : c.owns h creg = true) (hb : c.bound h ring = true) (hf : c.ringFrozen ring = false)
include ho hb hf

theorem giveBody_endpoint (hp : c.get (BCH_RING_PORT ring) < 10) (hroom : c.giveFull ring = false) :
    giveBody h d wa ring creg nb eom i c
      = (c.complete h d 0).pushGive ring ⟨Cell.ofBytes (c.creg (benchOf h) creg), none, false⟩ := by
  simp only [giveBody, ho, hb, hf, hp, hroom, Bool.true_eq_false, Bool.false_eq_true, if_false, if_true]

variable {t vlen : Nat} {x : Tun} (ht : t = bits wa 0 10) (hv : vlen = bits wa 16 7) (hx : x = c.tun t)
  (hp : 10 ≤ c.get (BCH_RING_PORT ring))
include ht hv hx hp

theorem giveBody_badTunnel (hbad : x.state = .closed ∨ x.sink = true ∨ x.ring ≠ ring.val ∨ vlen = 0 ∨ 104 < vlen) :
    giveBody h d wa ring creg nb eom i c = c.trapHere h 4 (BitVec.ofNat 32 ring.val) := by
  subst ht hv hx
  simp only [giveBody, ho, hb, hf, Nat.not_lt.mpr hp, Bool.true_eq_false, Bool.false_eq_true, if_false]
  by_cases htun : (c.tun (bits wa 0 10)).state = .closed ∨ (c.tun (bits wa 0 10)).sink = true
      ∨ (c.tun (bits wa 0 10)).ring ≠ ring.val
  · exact if_pos htun
  · refine (if_neg htun).trans (if_pos ?_)
    obtain h1 | h2 | h3 | hlen := hbad
    · exact absurd (.inl h1) htun
    · exact absurd (.inr (.inl h2)) htun
    · exact absurd (.inr (.inr h3)) htun
    · exact hlen

variable (hopen : x.state ≠ .closed) (hsrc : x.sink = false) (hring : x.ring = ring.val) (h1 : 1 ≤ vlen) (h104 : vlen ≤ 104)
include hopen hsrc hring h1 h104

/-- At a source end of the ring a GIVE goes by whether the tunnel is Broken and whether the cell would wait. -/
theorem giveBody_source : giveBody h d wa ring creg nb eom i c
    = if x.state = .broken then c.complete h d 0x20000
      else if c.giveWaits ring t then (if nb then c.complete h d 0x10000 else c.stall h i)
      else ((c.complete h d (BitVec.ofNat 32 x.next)).setTun t { x with next := (x.next + 1) % 65536 }).pushGive ring
        ⟨⟨giveHdr x eom (bit wa 24) vlen, (c.creg (benchOf h) creg).drop 8⟩, some t, false⟩ := by
  subst ht hv hx
  have hlen : ¬ (bits wa 16 7 = 0 ∨ 104 < bits wa 16 7) := by omega
  simp only [giveBody, ho, hb, hf, Nat.not_lt.mpr hp, hopen, hsrc, hring, hlen, ne_eq, not_true_eq_false, Bool.true_eq_false,
    Bool.false_eq_true, or_self, if_false]

end GiveBody

theorem exec_give {s : State} {h : HandId} {d a : BitVec 5} {ring : Fin 64} {creg : Fin 8} {nb eom : Bool} {c : Chip}
    (hs : s.chip.issues h = true) (hb : onBench h = true)
    (hc : giveBody h d ((s.chip.hand h).w a).toNat ring creg nb eom (.give h d a ring creg nb eom) s.chip = c) :
    exec (.give h d a ring creg nb eom) s = .next (s.settle c) :=
  exec_issued (f := fun c => c.benchOnly h (fmtI 0x19 d a (giveImm ring creg nb eom))
    (giveBody h d ((c.hand h).w a).toNat ring creg nb eom (.give h d a ring creg nb eom))) rfl hs ((if_pos hb).trans hc)

/-- Settles O12: TAKE and PEEK by the owner, the binding, the freeze and the take side; GIVE by the ring's port, the tunnel end and
what the cell waits for. -/
theorem takePeekGive : Obligations.TakePeekGive := by
  unfold Obligations.TakePeekGive
  constructor
  · intro h d ring creg nb s hs hbench
    refine ⟨fun ho hb hf => ⟨?cell, fun ht => ?empty⟩, fun ho hb hf => ?frozen,
      fun i hi => ⟨fun ho hb => ?unbound, fun ho => ?unowned⟩⟩
    case cell =>
      rintro e rest _ ht rfl
      exact ⟨exec_onBench_chip rfl hs hbench (takeBody_cell ho hb hf ht) (restarts_refill _ _),
        exec_onBench_chip rfl hs hbench (takeBody_cell ho hb hf ht) rfl⟩
    case empty =>
      exact ⟨exec_onBench_chip rfl hs hbench (takeBody_empty ho hb hf ht) rfl,
        exec_onBench_chip rfl hs hbench (takeBody_empty ho hb hf ht) rfl,
        exec_onBench_chip rfl hs hbench (takeBody_empty ho hb hf ht) rfl,
        exec_onBench_chip rfl hs hbench (takeBody_empty ho hb hf ht) rfl⟩
    case frozen =>
      exact ⟨exec_onBench_chip rfl hs hbench (takeBody_frozen ho hb hf) rfl,
        exec_onBench_chip rfl hs hbench (takeBody_frozen ho hb hf) rfl⟩
    case unbound =>
      obtain rfl | rfl := hi <;> exact exec_onBench rfl hs hbench (takeBody_unbound ho hb)
    case unowned =>
      obtain rfl | rfl := hi <;> exact exec_onBench rfl hs hbench (takeBody_unowned ho)
  · rintro h d a ring creg nb eom s hs hbench ho hb hf t vlen mcast x bytes rfl ht hv rfl hx
    replace ht : t = bits ((s.chip.hand h).w a).toNat 0 10 := ht.trans (by simp [bits])
    have hgive {nb : Bool} {c : Chip} (hr : c.cores.restarts = s.chip.cores.restarts)
        (hc : giveBody h d ((s.chip.hand h).w a).toNat ring creg nb eom (.give h d a ring creg nb eom) s.chip = c) :
        exec (.give h d a ring creg nb eom) s = .next { s with chip := c } := by
      rw [exec_give hs hbench hc, settle_eq hr]
    refine ⟨fun hp hroom => exec_give hs hbench (giveBody_endpoint ho hb hf hp hroom), fun hp =>
      ⟨fun hopen hsrc hring h1 h104 => ?source, fun hbad => exec_give hs hbench (giveBody_badTunnel ho hb hf ht hv hx hp hbad)⟩⟩
    case source =>
      have hsource {nb i} := giveBody_source (d := d) (nb := nb) (eom := eom) (i := i)
        ho hb hf ht hv hx hp hopen hsrc hring h1 h104
      refine ⟨fun hlive hready => ?gives, fun hbroken => hgive rfl (hsource.trans (if_pos hbroken)), fun hlive hwaits =>
        ⟨hgive rfl (hsource.trans ((if_neg hlive).trans (if_pos hwaits))),
          hgive rfl (hsource.trans ((if_neg hlive).trans (if_pos hwaits)))⟩⟩
      case gives =>
        rw [← bit_toNat]
        exact exec_give hs hbench (hsource.trans ((if_neg hlive).trans (if_neg (ne_true_of_eq_false hready))))

end Sys2Proof.Proofs

/-! SUPPORT. WAIT, chain time, SEQ and the fences (spec/11_fungatre_tunnel_instructions.md R308 to R319): what a hand waits for, the
events that TAT and TALM set up, what SEQ reads, and what FENCE.K and FENCE.X order. -/

namespace Sys2Proof.Proofs
open Sys2Proof Sys2Proof.Machine Sys2Proof.Machine.Reg Sys2Proof.Laws

/-! ### WAIT (R308 to R310) -/

section Wait
variable {c : Chip} {h : HandId} {d a : BitVec 5} {imm : BitVec 16} {rep : Nat}

/-- Tinker takes no value of its LFSR while it is off (spec/24_tinker_and_records.md R568). -/
theorem jitter_tinkerOff (hk : c.tinkerOn = false) (core : Nat) : c.jitter core = c := if_neg (by simp [hk])

/-- A WAIT that Tinker does not perturb: with no timeout, or with Tinker off. -/
theorem waitBody_unperturbed (hk : imm.toNat % 2 ^ 14 = 0 ∨ c.tinkerOn = false)
    (hr : rep = c.pending h &&& (((c.hand h).w a).toNat % 1024)) :
    waitBody h d a imm c = if rep ≠ 0 then c.report h d rep else if imm = 0 then c.complete h d 0
      else c.setHand h { c.hand h with
        state := .wait
        waiting := some (d, ((c.hand h).w a).toNat % 1024 + 1024 * b2n (decide (imm.toNat % 2 ^ 14 ≠ 0))) } := by
  have hsame : (if decide (imm.toNat % 2 ^ 14 ≠ 0) then c.jitter (coreOf h) else c) = c := by
    obtain h0 | hoff := hk
    · exact if_neg (by simpa using h0)
    · rw [jitter_tinkerOff hoff, ite_self]
  subst hr
  simp only [waitBody, hsame]

variable {m : Nat}

theorem waitEvent_waiting (hw : (c.hand h).waiting = some (d, m)) (hst : (c.hand h).state = .wait)
    (hon : c.coreOn h = true) (hr : rep = c.pending h &&& (m % 1024)) : waitEvent h c = if rep ≠ 0 then c.report h d rep else c := by
  subst hr
  simp only [waitEvent, hw, hst, hon, true_and, and_true]

theorem waitTimeout_waiting (hw : (c.hand h).waiting = some (d, m)) (hst : (c.hand h).state = .wait) (hon : c.coreOn h = true)
    (htimed : 1024 ≤ m) (hr : rep = c.pending h &&& (m % 1024)) :
    waitTimeout h c = if rep ≠ 0 then c.report h d rep else c.complete h d 0x80000000 := by
  subst hr
  simp only [waitTimeout, hw, hst, hon, Nat.not_lt.mpr htimed, ne_eq, not_true_eq_false, Bool.true_eq_false, or_self, if_false]

theorem waitEvent_notWaiting (hw : (c.hand h).waiting = none) : waitEvent h c = c := by simp only [waitEvent, hw]

theorem waitTimeout_notWaiting (hw : (c.hand h).waiting = none) : waitTimeout h c = c := by simp only [waitTimeout, hw]

/-- A WAIT that reports completes with the events it reports, and clears them. -/
theorem hand_report (c : Chip) (h : HandId) (d : BitVec 5) (rep : Nat) : (c.report h d rep).hand h
    = { (c.complete h d (BitVec.ofNat 32 rep)).hand h with events := (c.hand h).events &&& (1023 - rep) } := by
  unfold Chip.report
  rw [hand_complete, hand_complete, hand_setHand]
  unfold Hand.setW
  split <;> rfl

end Wait

/-- Settles O13: WAIT by what is pending and its imm16; the end of a wait by whether the hand waits and what is pending then. -/
theorem waitReportsEvents : Obligations.WaitReportsEvents := by
  unfold Obligations.WaitReportsEvents
  refine ⟨fun h d a imm s rep hs hr => ⟨fun hne => ?reports, fun h0 => ?polls, fun h0 himm hk => ?waits⟩,
    fun h d m rep s hst hon hw hr => ⟨fun hne i hi => ?event, fun h0 => ?none, fun h0 htimed => ?timeout⟩, fun h s hw => ?idle⟩
  case reports =>
    exact exec_issued_chip rfl hs ((waitBody_unperturbed (.inl rfl) hr).trans (if_pos hne)) rfl
  case polls =>
    exact exec_issued_chip rfl hs
      ((waitBody_unperturbed (.inl rfl) hr).trans ((if_neg (not_not_intro h0)).trans (if_pos rfl))) rfl
  case waits =>
    exact exec_issued_chip rfl hs
      ((waitBody_unperturbed (.inr hk) hr).trans ((if_neg (not_not_intro h0)).trans (if_neg himm))) rfl
  case event =>
    refine ⟨{ s with chip := s.chip.report h d rep }, ?_, rfl, hand_report _ _ _ _⟩
    obtain rfl | ⟨rfl, htimed⟩ := hi
    · exact exec_onChip rfl ((waitEvent_waiting hw hst hon hr).trans (if_pos hne))
    · exact exec_onChip rfl ((waitTimeout_waiting hw hst hon htimed hr).trans (if_pos hne))
  case none => exact exec_onChip_same rfl ((waitEvent_waiting hw hst hon hr).trans (if_neg (not_not_intro h0)))
  case timeout =>
    exact exec_onChip rfl ((waitTimeout_waiting hw hst hon htimed hr).trans (if_neg (not_not_intro h0)))
  case idle => exact ⟨exec_onChip_same rfl (waitEvent_notWaiting hw), exec_onChip_same rfl (waitTimeout_notWaiting hw)⟩

/-! ### TNOW (R313) -/

theorem exec_tnow {h : HandId} {d b : BitVec 5} {s : State} (hs : s.chip.issues h = true) : exec (.tnow h d b) s = .next { s with
    chip := s.chip.setHand h ((((s.chip.hand h).setW d (BitVec.ofNat 32 s.chip.ns)).setW b
      (BitVec.ofNat 32 (s.chip.ns / 2 ^ 32))).done (nextPc h (s.chip.hand h).pc)) } := by
  show execTnow h d b s = _
  rw [execTnow, issueChip_runs hs]
  rfl

/-! ### TAT (R312, R314) -/

section AcceptTat
variable {c : Chip} {d : BitVec 5} {w : TatWait}

theorem acceptTat_shuttered (hsh : c.shuttered = true) :
    c.acceptTat d w = ((c.inc FLD_EVQ_DISCARD).evt FLD_EVT_EVQ_DISCARD).complete w.hand d 2 := if_pos (by simp [hsh])

variable (hcut : w.cut = false) (hsh : c.shuttered = false)
include hcut hsh

theorem acceptTat_late (hr : w.event.target ≤ c.ns) : c.acceptTat d w
    = (((c.drainDue.driveOut w.event.output w.event.level).inc FLD_LATE_CNT).evt FLD_EVT_LATE).complete w.hand d 1 :=
  (if_neg (by simp [hcut, hsh])).trans (if_pos hr)

theorem acceptTat_queued (hr : c.ns < w.event.target) : c.acceptTat d w
    = Chip.complete { c with field := { c.field with queue := insertEvent c.field.queue w.event } } w.hand d 0 :=
  (if_neg (by simp [hcut, hsh])).trans (if_neg (Nat.not_le.mpr hr))

end AcceptTat

section Tat
variable {c : Chip} {h : HandId} {d a b : BitVec 5} {desc : Nat} {ahead : Int}

theorem tatBody_noOutputs (ho : c.fieldOwner h = false) : tatBody h d a b c = c.trapHere h 1 (fmtR 0x21 d a b 1) := if_pos ho

variable (ho : c.fieldOwner h = true)
include ho

theorem tatBody_shuttered (hsh : c.shuttered = true) :
    tatBody h d a b c = ((c.inc FLD_EVQ_DISCARD).evt FLD_EVT_EVQ_DISCARD).complete h d 2 :=
  (if_neg (ne_false_of_eq_true ho)).trans ((if_neg (fun e => ne_false_of_eq_true hsh e.1)).trans (acceptTat_shuttered hsh))

variable (hdesc : desc = ((c.hand h).w a).toNat) (hahead : ahead = c.ahead ((c.hand h).w b).toNat)
include hdesc hahead

theorem tatBody_waits (hsh : c.shuttered = false) (hfull : 256 ≤ c.field.queue.length ∨ c.field.waiting ≠ []) :
    tatBody h d a b c = Chip.stall { c with field := { c.field with waiting := (c.dropTat h).field.waiting
      ++ [⟨h, ⟨desc % 16, bit desc 4, (c.ns + ahead).toNat⟩, false⟩] } } h (.tat h d a b) := by
  subst hdesc hahead
  exact (if_neg (ne_false_of_eq_true ho)).trans (if_pos ⟨hsh, hfull⟩)

variable (hq : c.field.queue.length < 256) (hw : c.field.waiting = [])
include hq hw

/-- With room in the queue and no TAT that waits, the field unit takes the event at once. -/
theorem tatBody_accepted :
    tatBody h d a b c = c.acceptTat d ⟨h, ⟨desc % 16, bit desc 4, (c.ns + ahead).toNat⟩, false⟩ := by
  subst hdesc hahead
  exact (if_neg (ne_false_of_eq_true ho)).trans
    (if_neg (fun e => e.2.elim (Nat.not_le.mpr hq) (fun hne => hne hw)))

variable (hsh : c.shuttered = false)
include hsh

theorem tatBody_late (hn : ahead ≤ 0) : tatBody h d a b c
    = (((c.drainDue.driveOut (desc % 16) (bit desc 4)).inc FLD_LATE_CNT).evt FLD_EVT_LATE).complete h d 1 := by
  have htarget : (c.ns + ahead).toNat ≤ c.ns := by omega
  rw [tatBody_accepted ho hdesc hahead hq hw, acceptTat_late rfl hsh htarget]

theorem tatBody_queued (hn : 0 < ahead) : tatBody h d a b c = Chip.complete { c with field := { c.field with
    queue := insertEvent c.field.queue ⟨desc % 16, bit desc 4, c.ns + ahead.toNat⟩ } } h d 0 := by
  have htarget : (c.ns + ahead).toNat = c.ns + ahead.toNat := by omega
  have hlater : c.ns < c.ns + ahead.toNat := by omega
  rw [tatBody_accepted ho hdesc hahead hq hw, htarget, acceptTat_queued rfl hsh hlater]

end Tat

/-! ### TALM and the alarm (R316) -/

section Alarm
variable {c : Chip} {h : HandId} {a : BitVec 5}

/-- A target already reached sets event 5 at once. -/
theorem talm_reached (hn : c.ahead ((c.hand h).w a).toNat ≤ 0) :
    (talm h a c).hand h = { (c.advance h).hand h with alarm := none, events := setBit (c.hand h).events 5 } := by
  rw [show talm h a c = ((c.advance h).setHand h { (c.advance h).hand h with alarm := none }).raise h 5 from if_pos hn,
    hand_raise, hand_setHand, hand_advance]
  rfl

theorem talm_ahead (hn : 0 < c.ahead ((c.hand h).w a).toNat) : (talm h a c).hand h
    = { (c.advance h).hand h with alarm := some (c.ns + (c.ahead ((c.hand h).w a).toNat).toNat) } := by
  rw [show talm h a c = (c.advance h).setHand h { (c.advance h).hand h with
    alarm := some (c.ns + (c.ahead ((c.hand h).w a).toNat).toNat) } from if_neg (Int.not_le.mpr hn), hand_setHand]

theorem exec_talmCancel {s : State} (hs : s.chip.issues h = true) : exec (.talmCancel h) s = .next { s with
    chip := (s.chip.advance h).setHand h { (s.chip.advance h).hand h with alarm := none } } := by
  show execTalmCancel h s = _
  rw [execTalmCancel, issueChip_runs hs]
  rfl

theorem chainAlarm_set {t : Nat} (hal : (c.hand h).alarm = some t) : chainAlarm h c
    = if t ≤ c.ns then (c.setHand h { c.hand h with alarm := none }).raise h 5 else c := by
  simp only [chainAlarm, hal]

end Alarm

/-! ### SEQ (R317) -/

theorem seqRead_none {c : Chip} {t : Nat} (ht : t = 0 ∨ (c.tun t).state = .closed) (what : Nat) : c.seqRead t what = 0 :=
  if_pos ht

section SeqRead
variable {c : Chip} {t : Nat} {x : Tun} (hx : x = c.tun t) (h0 : t ≠ 0) (hopen : x.state = .opened)
include hx h0 hopen

theorem seqRead_next : c.seqRead t 0 = if x.sink then x.expect else x.next := by
  subst hx
  simp [Chip.seqRead, h0, hopen]

theorem seqRead_last : c.seqRead t 1 = ((if x.sink then x.expect else x.oldest) + 65535) % 65536 := by
  subst hx
  simp [Chip.seqRead, h0, hopen, seqSub]

theorem seqRead_state : c.seqRead t 2 = 1 + 8 * b2n x.sink + 16 * b2n x.kept + 32 * x.held.length := by
  subst hx
  simp [Chip.seqRead, h0, hopen]

end SeqRead

section ExecSeq
variable {i : Instr} {h : HandId} {d a : BitVec 5} {s : State} {what : Nat} (hi : exec i s = s.issueChip h (seqBody h d a what))
  (hs : s.chip.issues h = true)
include hi hs

theorem exec_seq (hb : onBench h = true) {v : Nat} (hv : s.chip.seqRead (((s.chip.hand h).w a).toNat % 1024) what = v) :
    exec i s = .next (s.completes h d (BitVec.ofNat 32 v)) := by
  subst hv
  exact exec_onBench_chip hi hs hb rfl rfl

theorem exec_seq_offBench (hb : onBench h = false) :
    exec i s = .next (s.settle (s.chip.trapHere h 1 (fmtR 0x22 d a 0 what))) :=
  exec_issued hi hs (if_neg (ne_true_of_eq_false hb))

end ExecSeq

/-! ### FENCE.K and FENCE.X (R318, R319) -/

section Fences
variable {c : Chip} {h : HandId} {d : BitVec 5}

theorem fenceKBody_nothing (hf : (c.hand h).fence = none) (hn : c.fenceTunnels h = []) : fenceKBody h d c = c.complete h d 0 := by
  simp only [fenceKBody, hf, hn]
  rfl

/-- A FENCE.K waits for the one tunnel of its rings that is open and has cells unacknowledged. -/
theorem fenceKBody_waits {u : Nat} {y : Tun} (hf : (c.hand h).fence = none) (hn : c.fenceTunnels h = [(u, y)]) (hu : c.tun u = y)
    (hy : y.state = .opened) (hp : passed y.oldest (seqSub y.next 1) = false) :
    fenceKBody h d c = c.setHand h { c.hand h with
      state := .stall, stalled := some (.fenceK h d), fence := some ⟨[(u, seqSub y.next 1)], none⟩ } := by
  have hleft : c.fenceLeft [(u, seqSub y.next 1)] = [(u, seqSub y.next 1)] := by
    simp [Chip.fenceLeft, hu, hy, hp]
  have hbroken : c.fenceBroken [(u, seqSub y.next 1)] = none := by
    simp [Chip.fenceBroken, hleft, hu, hy]
  have hvalues : (c.fenceTunnels h).filterMap (fun e => if e.2.state = .closed then none else some (e.1, seqSub e.2.next 1))
      = [(u, seqSub y.next 1)] := by
    simp [hn, hy]
  simp only [fenceKBody, hf, hvalues, Chip.fenceStep, hbroken, hleft]
  rfl

theorem fenceXBody_busy (hb : c.farBusy h = true) : fenceXBody h c = c.stall h (.fenceX h) := if_pos hb

theorem fenceXBody_done (hb : c.farBusy h = false) (hw : (c.hand h).failedWrite = none) : fenceXBody h c = c.advance h := by
  simp only [fenceXBody, hb, hw, Bool.false_eq_true, if_false]

theorem fenceXBody_failed (hb : c.farBusy h = false) {w : Nat × Word} (hw : (c.hand h).failedWrite = some w) :
    fenceXBody h c = (c.setHand h { c.hand h with failedWrite := none }).trapHere h 3 w.2 := by
  simp only [fenceXBody, hb, hw, Bool.false_eq_true, if_false]

end Fences

/-- Settles O14: TNOW by the registers it writes, TAT by the shutter, the room and its target, TALM by its target, SEQ by the tunnel
end, and a fence by what is left to wait for. -/
theorem chainTimeSequenceAndFences : Obligations.ChainTimeSequenceAndFences := by
  unfold Obligations.ChainTimeSequenceAndFences
  constructor
  · rintro h d a b s hs _ _ ahead _ rfl rfl rfl
    refine ⟨⟨_, exec_tnow hs, rfl, hand_setHand _ _ _⟩, ?tat, ?talm, ⟨_, exec_talmCancel hs, hand_setHand _ _ _⟩,
      fun T hT => ⟨fun hle => ?alarm, fun hlt => ?early⟩⟩
    case tat =>
      intro hahead
      have htat {c : Chip} (hc : tatBody h d a b s.chip = c) : exec (.tat h d a b) s = .next (s.settle c) :=
        exec_issued rfl hs hc
      exact ⟨fun ho hsh hq hw =>
          ⟨fun hn => exec_issued_chip rfl hs (tatBody_queued ho rfl hahead hq hw hsh hn) rfl,
            fun hn => htat (tatBody_late ho rfl hahead hq hw hsh hn)⟩,
        fun ho hsh => htat (tatBody_shuttered ho hsh),
        fun ho hsh hfull => exec_issued_chip rfl hs (tatBody_waits ho rfl hahead hsh hfull) rfl,
        fun ho => htat (tatBody_noOutputs ho)⟩
    case talm =>
      rintro rfl
      exact ⟨fun hpos => ⟨_, exec_issued rfl hs rfl, talm_ahead hpos⟩,
        fun hneg => ⟨_, exec_issued rfl hs rfl, talm_reached hneg⟩⟩
    case alarm =>
      refine ⟨_, exec_onChip rfl ((chainAlarm_set hT).trans (if_pos hle)), ?_⟩
      rw [hand_raise, hand_setHand]
    case early => exact exec_onChip_same rfl ((chainAlarm_set hT).trans (if_neg (Nat.not_le.mpr hlt)))
  · rintro h d a s hs t x rfl hx
    refine ⟨fun hb => ⟨fun h0 hopen => ⟨fun hsrc => ⟨?next, ?last⟩, fun hsink => ⟨?expect, ?delivered⟩, ?state⟩,
        fun hnone i hi => ?none, fun hf hn => ?fence, fun u y hf hn hu hy hp => ?waits⟩,
      fun hb i w hi => ?off, fun hb => ?busy, fun hb => ⟨fun hw => ?done, fun w hw => ?failed⟩⟩
    case next => exact exec_seq rfl hs hb ((seqRead_next hx h0 hopen).trans (if_neg (ne_true_of_eq_false hsrc)))
    case last => exact exec_seq rfl hs hb ((seqRead_last hx h0 hopen).trans (by rw [hsrc]; rfl))
    case expect => exact exec_seq rfl hs hb ((seqRead_next hx h0 hopen).trans (if_pos hsink))
    case delivered => exact exec_seq rfl hs hb ((seqRead_last hx h0 hopen).trans (by rw [hsink]; rfl))
    case state => exact exec_seq rfl hs hb (seqRead_state hx h0 hopen)
    case none =>
      subst hx
      obtain rfl | rfl | rfl := hi <;> exact exec_seq rfl hs hb (seqRead_none hnone _)
    case fence => exact exec_onBench_chip rfl hs hb (fenceKBody_nothing hf hn) rfl
    case waits => exact ⟨_, exec_onBench_chip rfl hs hb (fenceKBody_waits hf hn hu hy hp) rfl, rfl, hand_setHand _ _ _⟩
    case off =>
      obtain ⟨rfl, rfl⟩ | ⟨rfl, rfl⟩ | ⟨rfl, rfl⟩ | ⟨rfl, rfl⟩ := hi
      · exact exec_seq_offBench rfl hs hb
      · exact exec_seq_offBench rfl hs hb
      · exact exec_seq_offBench rfl hs hb
      · exact exec_issued (f := fun c => c.benchOnly h (fmtI 0x23 d 0 2) (fenceKBody h d)) rfl hs
          (if_neg (ne_true_of_eq_false hb))
    case busy => exact exec_issued_chip rfl hs (fenceXBody_busy hb) rfl
    case done => exact exec_issued_chip rfl hs (fenceXBody_done hb hw) rfl
    case failed => exact exec_issued rfl hs (fenceXBody_failed hb hw)

end Sys2Proof.Proofs

/-! SUPPORT. Far accesses of a hand (spec/11_fungatre_tunnel_instructions.md R320 to R323, spec/12_bridge_and_accessory_bus.md
R336): LDX and STX by their address and the tag they take, and FAR_COMPLETION by what the tag or the bus holds. -/

namespace Sys2Proof.Proofs
open Sys2Proof Sys2Proof.Machine Sys2Proof.Machine.Reg Sys2Proof.Laws

/-- An instruction whose effect reaches more than the chip. -/
theorem exec_issued_state {i : Instr} {h : HandId} {s t : State} {f : State → State} (he : exec i s = s.issue h f)
    (hs : s.chip.issues h = true) (hf : f s = t) : exec i s = .next t := by
  rw [he, issue_runs hs, hf]

/-! ### LDX and STX (R320 to R323) -/

section Issue
variable {s : State} {h : HandId} {d a b : BitVec 5} {size : AccSize} {far at_ : Word} {cause t : Nat} {r : FarReq}
  (hfar : far = (s.chip.hand h).w a) (hcause : cause = s.chip.farTrap h far size)
include hfar hcause

theorem ldxBody_traps (hne : cause ≠ 0) : s.ldxBody h d a size = s.settle (s.chip.trapHere h cause far) := by
  subst hfar hcause
  exact if_pos hne

theorem stxBody_traps (hne : cause ≠ 0) : s.stxBody h d a size = s.settle (s.chip.trapHere h cause far) := by
  subst hfar hcause
  exact if_pos hne

theorem ldxMemBody_misaligned (h2 : cause = 2) : s.ldxMemBody h a b size = s.settle (s.chip.trapHere h 2 far) := by
  subst hfar hcause
  exact if_pos h2

/-- The data address traps before the window does (R322). -/
theorem ldxMemBody_misalignedData (hat : at_ = (s.chip.hand h).w b) (h2 : cause ≠ 2) (hal : at_.toNat % 4 ≠ 0) :
    s.ldxMemBody h a b size = s.settle (s.chip.trapHere h 2 at_) := by
  subst hfar hcause hat
  exact (if_neg h2).trans (if_pos hal)

variable (h0 : cause = 0)
include h0

theorem ldxBody_noTag (ht : s.chip.handTag h = none) :
    s.ldxBody h d a size = { s with chip := s.chip.stall h (.ldx h d a size) } := by
  subst hfar hcause
  simp only [State.ldxBody, h0, ht, ne_eq, not_true_eq_false, if_false]

theorem ldxBody_opens (ht : s.chip.handTag h = some t) (hr : r = s.chip.farReq h far size none (some t)) :
    s.ldxBody h d a size
      = State.perform { s with chip := (s.chip.stall h (.ldx h d a size)).openTag t ⟨r, .ldxReg d, none⟩ } r := by
  subst hfar hcause hr
  simp only [State.ldxBody, h0, ht, ne_eq, not_true_eq_false, if_false]

theorem stxBody_posted {v : Word} (hv : v = narrow size ((s.chip.hand h).w d))
    (hp : s.chip.on (BRG_WIN_CFG_POSTED (winOf far)) = true)
    (hr : r = s.chip.farReq h far size (some v) none) (hk : r.kind ≠ 4) :
    s.stxBody h d a size = State.perform (s.advances h) r := by
  subst hfar hcause hv hr
  simp only [State.stxBody, h0, hp, hk, ne_eq, not_true_eq_false, false_and, if_false, if_true]
  rfl

theorem stxBody_opens {v : Word} (hv : v = narrow size ((s.chip.hand h).w d))
    (hp : s.chip.on (BRG_WIN_CFG_POSTED (winOf far)) = false)
    (ht : s.chip.handTag h = some t) (hr : r = s.chip.farReq h far size (some v) (some t)) :
    s.stxBody h d a size = State.perform { s with chip := (s.chip.openTag t ⟨r, .stx, none⟩).advance h } r := by
  subst hfar hcause hv hr
  simp only [State.stxBody, h0, hp, ht, ne_eq, not_true_eq_false, Bool.false_eq_true, if_false]

variable (hat : at_ = (s.chip.hand h).w b) (hal : at_.toNat % 4 = 0)
include hat hal

theorem ldxMemBody_noTag (ht : s.chip.handTag h = none) :
    s.ldxMemBody h a b size = { s with chip := s.chip.stall h (.ldxMemoryForm h a b size) } := by
  subst hfar hcause hat
  simp only [State.ldxMemBody, h0, hal, ht, ne_eq, not_true_eq_false, OfNat.zero_ne_ofNat, if_false]

theorem ldxMemBody_opens (ht : s.chip.handTag h = some t) (hr : r = s.chip.farReq h far size none (some t)) :
    s.ldxMemBody h a b size
      = State.perform { s with chip := (s.chip.openTag t ⟨r, .ldxMem (dataAddr h at_), none⟩).advance h } r := by
  subst hfar hcause hat hr
  simp only [State.ldxMemBody, h0, hal, ht, ne_eq, not_true_eq_false, OfNat.zero_ne_ofNat, if_false]

end Issue

/-! ### FAR_COMPLETION (R322, R323, R336) -/

section Completion
variable {s u : State} {t : Fin 2048} {code : Nat} {bytes : List Byte} {x : Tag}

/-- A tag that holds no access leaves no order to go on. -/
theorem csrGoOn_free (ht : s.chip.tagAt t = none) : s.csrGoOn t = s := by
  simp only [State.csrGoOn, ht]

theorem exec_farCompletion_tag {code : FarCode} (hu : s.farComplete (.tag t) code bytes = u) :
    exec (.farCompletion (.tag t) code bytes) s = .next (u.csrGoOn t) := by
  rw [← hu]
  rfl

theorem farComplete_transfer {k : Nat} {r : FarReq} (hk : s.chip.busOfTag t = some k) (hr : (s.chip.bus k).busy = some r) :
    s.farComplete (.tag t) code bytes = s.transferDone k r code bytes := by
  simp only [State.farComplete, hk, hr]

theorem farComplete_late (hbus : s.chip.busOfTag t = none) (ht : s.chip.tagAt t = none) :
    s.farComplete (.tag t) code bytes = { s with chip := s.chip.lateError t code } := by
  simp only [State.farComplete, hbus, ht]

/-- An access whose result is known ends with it, whatever the completion says. -/
theorem farComplete_known (hbus : s.chip.busOfTag t = none) (hx : s.chip.tagAt t = some x) {e : Nat} {v : Word}
    (hr : x.result = some (e, v)) : s.farComplete (.tag t) code bytes = s.endAccess t x e v := by
  simp only [State.farComplete, hbus, hx, hr]

theorem farComplete_postedIdle {k : Fin 5} (hk : (s.chip.bus k).busy = none) : s.farComplete (.posted k) code bytes = s := by
  simp only [State.farComplete, hk]

theorem farComplete_posted {k : Fin 5} {r : FarReq} (hk : (s.chip.bus k).busy = some r) (hr : r.tag = none) :
    s.farComplete (.posted k) code bytes = { s with
      chip := if code = 0 then s.chip.endTransfer k else (s.chip.endTransfer k).farLog r.hand r.far.toNat code false } := by
  simp only [State.farComplete, hk, hr, State.transferDone, Option.isNone_none, if_true]

theorem endAccess_ldxReg {d : BitVec 5} (hk : x.kind = .ldxReg d) (v : Word) :
    s.endAccess t x 0 v = s.settle (((s.chip.dropTag t).complete x.req.hand d v).boundary x.req.hand) := by
  simp only [State.endAccess, hk, if_true]

theorem endAccess_ldxReg_fails {d : BitVec 5} (hk : x.kind = .ldxReg d) {e : Nat} (he : e ≠ 0) (v : Word) :
    s.endAccess t x e v
      = s.settle (((s.chip.dropTag t).farLog x.req.hand x.req.far.toNat e true).trapHere x.req.hand 3 x.req.far) := by
  simp only [State.endAccess, hk, he, if_false]

theorem endAccess_stx (hk : x.kind = .stx) (v : Word) :
    s.endAccess t x 0 v = { s with chip := (s.chip.dropTag t).raise x.req.hand 3 } := by
  simp only [State.endAccess, hk, if_true]

end Completion

/-- Settles O28: an access at issue by its address, its data address and the tag it takes; a completion by what the tag or the bus
holds. -/
theorem farAccessIssue : Obligations.FarAccessIssue := by
  unfold Obligations.FarAccessIssue
  intro h d a b size s far at_ cause hs hfar hat hcause
  have hldx {u : State} (hu : s.ldxBody h d a size = u) : exec (.ldx h d a size) s = .next u :=
    exec_issued_state (f := fun s => s.ldxBody h d a size) rfl hs hu
  have hmem {u : State} (hu : s.ldxMemBody h a b size = u) : exec (.ldxMemoryForm h a b size) s = .next u :=
    exec_issued_state (f := fun s => s.ldxMemBody h a b size) rfl hs hu
  have hstx {u : State} (hu : s.stxBody h d a size = u) : exec (.stx h d a size) s = .next u :=
    exec_issued_state (f := fun s => s.stxBody h d a size) rfl hs hu
  refine ⟨fun hne => ⟨hldx (ldxBody_traps hfar hcause hne), hstx (stxBody_traps hfar hcause hne)⟩,
    fun h2 => hmem (ldxMemBody_misaligned hfar hcause h2),
    fun h2 hal => hmem (ldxMemBody_misalignedData hfar hcause hat h2 hal),
    fun h0 hal => ⟨fun ht => ⟨hldx (ldxBody_noTag hfar hcause h0 ht), hmem (ldxMemBody_noTag hfar hcause h0 hat hal ht)⟩,
      fun t r ht hr => ⟨hldx (ldxBody_opens hfar hcause h0 ht hr), hmem (ldxMemBody_opens hfar hcause h0 hat hal ht hr)⟩,
      fun v hv => ⟨fun r hp hr hk => hstx (stxBody_posted hfar hcause h0 hv hp hr hk),
        fun t r hp ht hr => hstx (stxBody_opens hfar hcause h0 hv hp ht hr)⟩⟩,
    fun t code bytes hbus => ⟨fun ht hlate => ?late, fun x v hx hk hr => ?read, fun x v e hx hk he hr => ?readFails,
      fun x v hx hk hr => ?store⟩,
    fun t k code bytes r hk hr => exec_farCompletion_tag (farComplete_transfer hk hr),
    fun k code bytes => ⟨fun hk => congrArg Host.Outcome.next (farComplete_postedIdle hk),
      fun r hk hr => congrArg Host.Outcome.next (farComplete_posted hk hr)⟩⟩
  case late => rw [exec_farCompletion_tag (farComplete_late hbus ht), csrGoOn_free hlate]
  case read => exact exec_farCompletion_tag ((farComplete_known hbus hx hr).trans (endAccess_ldxReg hk v))
  case readFails => exact exec_farCompletion_tag ((farComplete_known hbus hx hr).trans (endAccess_ldxReg_fails hk he v))
  case store =>
    have hfree : ((s.chip.dropTag t).raise x.req.hand 3).tagAt t = none := tagAt_dropTag s.chip t
    refine ⟨_, exec_farCompletion_tag ((farComplete_known hbus hx hr).trans (endAccess_stx hk v)), ?_⟩
    rw [csrGoOn_free hfree]
    refine ⟨hfree, rfl, ?_⟩
    rw [hand_raise]
    rfl

end Sys2Proof.Proofs

/-! SUPPORT. Locks and the far buses (spec/11_fungatre_tunnel_instructions.md R325, R326, spec/12_bridge_and_accessory_bus.md R329,
R333, R338, R343 to R347): LOCK and UNLOCK by the window's bus, writes to a window's registers, and the commands of a bus. -/

namespace Sys2Proof.Proofs
open Sys2Proof Sys2Proof.Machine Sys2Proof.Machine.Reg Sys2Proof.Laws

/-! ### LOCK (R325) -/

section Lock
variable {c : Chip} {h : HandId} {d a : BitVec 5} {nb : Bool} {far : Word} {n k : Nat}
  (hfar : far = (c.hand h).w a) (hn : n = winOf far) (hu : c.lockUse h = false)
include hfar hn hu

theorem lockBody_noBus (hk : c.winBus n = none) : lockBody h d a nb c = c.trapHere h 3 far := by
  subst hfar hn
  simp only [lockBody, hu, hk, Bool.false_eq_true, if_false]

variable (hk : c.winBus n = some k)
include hk

theorem lockBody_notLockable (hl : c.get (BRG_WIN_CFG_LOCKABLE n) = 0 ∨ c.get (BRG_WIN_CFG_EN n) = 0) :
    lockBody h d a nb c = c.trapHere h 3 far := by
  subst hfar hn
  simp only [lockBody, hu, hk, hl, Bool.false_eq_true, if_false, if_true]

variable (hl : c.get (BRG_WIN_CFG_LOCKABLE n) ≠ 0) (hen : c.get (BRG_WIN_CFG_EN n) ≠ 0)
include hl hen

theorem lockBody_free {x : Bus} (hx : x = c.bus k) (hheld : x.held = false) (hpresent : x.present = [])
    (hbehind : c.behind k ⟨h, none, n, false⟩ = false) : lockBody h d a nb c
      = ((c.setBus k { x with last := coreOf h, losses := mset 0 x.losses (coreOf h) 0 }).holdLock k h n).complete h d 1 := by
  subst hfar hn hx
  simp only [lockBody, hu, hk, hl, hen, hheld, hpresent, hbehind, Bool.false_eq_true, or_self, and_self, if_false, if_true]

theorem lockBody_held (hheld : (c.bus k).held = true) : lockBody h d a nb c
    = if nb then (c.attempt k ⟨h, none, n, false⟩).complete h d 0
      else (c.attempt k ⟨h, none, n, false⟩).stall h (.lock h d a nb) := by
  subst hfar hn
  simp only [lockBody, hu, hk, hl, hen, hheld, Bool.true_eq_false, Bool.false_eq_true, or_self, false_and, if_false]

end Lock

/-! ### UNLOCK (R326) -/

section Unlock
variable {c : Chip} {h : HandId} {d a : BitVec 5} {n k : Nat} (hn : n = winOf ((c.hand h).w a))
include hn

theorem unlockBody_busy (hb : c.windowBusy h n = true) : unlockBody h d a c = c.stall h (.unlock h d a) := by
  subst hn
  exact if_pos hb

variable (hb : c.windowBusy h n = false)
include hb

theorem unlockBody_noBus (hk : c.winBus n = none) : unlockBody h d a c = c.complete h d 0 := by
  subst hn
  simp only [unlockBody, hb, hk, Bool.false_eq_true, if_false]

/-- At a window's bus UNLOCK goes by the lock and the requests of the hand. -/
theorem unlockBody_bus (hk : c.winBus n = some k) : unlockBody h d a c
    = if (c.bus k).lock = some h then ((c.setBus k { c.bus k with lock := none }).endSequence k).complete h d 1
      else if (c.bus k).tries.any (fun t => decide (t.hand = h) && t.req.isNone) then
        (c.setBus k { c.bus k with
          tries := (c.bus k).tries.filter (fun t => !(decide (t.hand = h) && t.req.isNone)) }).complete h d 1
      else c.complete h d 0 := by
  subst hn
  simp only [unlockBody, hb, hk, Bool.false_eq_true, if_false]

end Unlock

/-! ### Window registers (R329) -/

section Window
variable {c : Chip} {m reg v : Nat} {f : Fld}

theorem winField_closed (hen : c.get (BRG_WIN_CFG_EN m) = 0) : c.winField m reg f v = c.put f v :=
  if_neg (by simp [Chip.on, hen])

theorem winField_refused (hen : c.get (BRG_WIN_CFG_EN m) = 1)
    (hne : winShown reg (c.get (BRG_WIN_CFG_KIND m)) v ≠ winShown reg (c.get (BRG_WIN_CFG_KIND m)) (c.get f)) :
    c.winField m reg f v = c.evt BRG_EVT_CFG_ERR :=
  (if_pos (decide_eq_true hen)).trans (if_neg hne)

/-- POSTED of an enabled window does not change while EN stays 1. -/
theorem winCfg_refused (hen : c.get (BRG_WIN_CFG_EN m) = 1) (h1 : bits v 0 1 = 1)
    (hp : bits v 4 1 ≠ c.get (BRG_WIN_CFG_POSTED m)) :
    c.winCfg m v = c.evt BRG_EVT_CFG_ERR :=
  if_pos ⟨hen, h1, fun e => hp (List.cons.inj (List.cons.inj e).2).1⟩

theorem winCfg_sets (hen : c.get (BRG_WIN_CFG_EN m) = 0) (hkind : bits v 1 3 ≤ 4)
    (hok : winAllowed (bits v 1 3) (bits v 5 1) (bits v 6 1) (bits v 7 1) (bits v 8 5) = true) : c.winCfg m v
      = ((((((c.put (BRG_WIN_CFG_EN m) (bits v 0 1)).put (BRG_WIN_CFG_KIND m) (bits v 1 3)).put
        (BRG_WIN_CFG_POSTED m) (bits v 4 1)).put (BRG_WIN_CFG_PREFETCH m) (bits v 5 1)).put
        (BRG_WIN_CFG_LOCKABLE m) (bits v 6 1)).put (BRG_WIN_CFG_BUS m) (bits v 7 1)).put (BRG_WIN_CFG_SIZE m) (bits v 8 5) := by
  simp only [Chip.winCfg, hen, hkind, hok, zero_ne_one, Bool.true_eq_false, false_and, if_false, if_true]

end Window

/-! ### Arbitration, back-off and the lock watchdog (R344, R346, R347) -/

section Buses
variable {c : Chip} {k : Nat} {h : HandId}

theorem arbitrate_busy (hb : (c.bus k).busy.isSome = true) : c.arbitrate k = c := if_pos hb

theorem lockGranted_none (hw : winner (c.bus k).last (c.bus k).present = none) : lockGranted k c = c := by
  simp only [lockGranted, hw]

theorem lockGranted_lock {w : BusTry} (hw : winner (c.bus k).last (c.bus k).present = some w) (hheld : (c.bus k).held = false)
    (hr : w.req = none) : lockGranted k c = c.arbitrate k := by
  simp only [lockGranted, hw, hheld, hr, Option.isNone_none, and_self, if_true]

theorem backOff_none (ht : (c.bus k).tries.find? (fun t => decide (t.hand = h) && t.backedOff) = none) : backOff k h c = c := by
  simp only [backOff, ht]

/-- An attempt made again loses where the bus is held, and otherwise stands. -/
theorem backOff_again {t : BusTry} (ht : (c.bus k).tries.find? (fun t => decide (t.hand = h) && t.backedOff) = some t) :
    backOff k h c = if (c.bus k).held ∧ (c.bus k).lock ≠ some h then c.lose k t else c.setBus k { c.bus k with
      tries := (c.bus k).tries.map (fun x => if x = t then { x with backedOff := false } else x) } := by
  simp only [backOff, ht]

variable {s : State} {sda : Nat}

theorem lockWdog_idle (hl : (s.chip.bus k).lock = none) (hb : (s.chip.bus k).busy = none) : s.lockWdog k sda = s := by
  simp only [State.lockWdog, hl, hb]

theorem lockWdog_still (hl : (s.chip.bus k).lock = some h) (hb : (s.chip.bus k).busy = none) : s.lockWdog k sda
    = s.settle (((s.chip.freeBus k sda).farLog h (2 ^ 26 * (s.chip.bus k).lockWin) 9 false).lockBite k h true) := by
  simp only [State.lockWdog, hl, hb]

/-- A bus at which nothing waits ends no access. -/
theorem failBus_idle (code : Nat) (hb : (s.chip.bus k).busy = none) (ht : (s.chip.bus k).tries = []) :
    s.failBus k code = { s with chip := s.chip.setBus k (s.chip.bus k) } := by
  have hsame : { s.chip.bus k with busy := none, tries := [] } = s.chip.bus k := by rw [← hb, ← ht]
  simp only [State.failBus, hb, ht, Option.toList_none, List.filterMap_nil, List.append_nil, List.foldl_nil, List.filter_nil, hsame]

end Buses

theorem bus_evt (c : Chip) (f : Fld) (k : Nat) : (c.evt f).bus k = c.bus k := by
  simp only [Chip.bus, evt_cores]

/-- Settles O29: LOCK and UNLOCK by the window's bus and who holds or waits for it, a window write by EN and what it would change, and
each command of a bus by what is at the bus. -/
theorem bridgeLocksAndBuses : Obligations.BridgeLocksAndBuses := by
  unfold Obligations.BridgeLocksAndBuses
  rintro h d a nb s far n sda hfar hn
  have hn' : n = winOf ((s.chip.hand h).w a) := hfar ▸ hn
  have hwin {m : Fin 64} {reg : Fin 4} {v : Word} {c : Chip} (hc : s.chip.windowWrite m reg v.toNat = c) :
      exec (.windowConfig m reg v) s = .next { s with chip := c } :=
    exec_onChip (f := fun c => c.windowWrite m reg v.toNat) rfl hc
  have harb {k : Fin 5} {c : Chip} (hc : s.chip.arbitrate k = c) : exec (.arbitration k) s = .next (s.settle c) := hc ▸ rfl
  have hgrant {k : Fin 5} {c : Chip} (hc : lockGranted k s.chip = c) : exec (.lockGranted k) s = .next (s.settle c) :=
    hc ▸ rfl
  refine ⟨fun hs hu => ⟨fun hk => ?noBus, fun k hk hl => ?notLockable,
      fun k x hk hx hl hen hheld hpresent hbehind => ?free, fun k hk hl hen hheld hnb => ?queued,
      fun k hk hl hen hheld hnb => ?waits⟩,
    fun hs hb => ⟨fun k hk hl => ?releases, fun k b hk hx hl ht => ?withdraws, fun k b hk hx hl ht => ?holdsNone,
      fun hk => ?noUnlock⟩,
    fun hs hb => exec_issued rfl hs (unlockBody_busy hn' hb),
    fun m v hen => ⟨fun h1 hp => hwin (winCfg_refused hen h1 hp), fun hkind hne => ?baseRefused⟩,
    fun m v hen => ⟨hwin (winField_closed hen), hwin (winField_closed hen), hwin (winField_closed hen),
      fun hok hkind => hwin (winCfg_sets hen hkind hok)⟩,
    fun k => ⟨fun hb => ?noArbitration, harb rfl, fun hw => ?noGrant,
      fun w hw hheld hr => hgrant (lockGranted_lock hw hheld hr), fun ht => exec_onChip_same rfl (backOff_none ht),
      fun t ht hheld => ?again, fun t ht hheld hl => ?loses, fun hl hb => congrArg Host.Outcome.next (lockWdog_idle hl hb),
      fun j hl hb => congrArg Host.Outcome.next (lockWdog_still hl hb)⟩,
    fun m => rfl, fun i => ⟨_, rfl, get_put_same _ _ _, rfl⟩, fun i => rfl, fun i hb ht => ?stuck⟩
  case noBus => exact exec_issued rfl hs (lockBody_noBus hfar hn hu hk)
  case notLockable => exact exec_issued rfl hs (lockBody_notLockable hfar hn hu hk hl)
  case free => exact exec_issued rfl hs (lockBody_free hfar hn hu hk hl hen hx hheld hpresent hbehind)
  case queued => exact exec_issued rfl hs ((lockBody_held hfar hn hu hk hl hen hheld).trans (if_pos hnb))
  case waits => exact exec_issued rfl hs ((lockBody_held hfar hn hu hk hl hen hheld).trans (if_neg (ne_true_of_eq_false hnb)))
  case releases => exact exec_issued rfl hs ((unlockBody_bus hn' hb hk).trans (if_pos hl))
  case withdraws =>
    subst hx
    exact exec_issued rfl hs ((unlockBody_bus hn' hb hk).trans ((if_neg hl).trans (if_pos ht)))
  case holdsNone =>
    subst hx
    exact exec_issued_chip rfl hs ((unlockBody_bus hn' hb hk).trans ((if_neg hl).trans (if_neg (ne_true_of_eq_false ht)))) rfl
  case noUnlock => exact exec_issued_chip rfl hs (unlockBody_noBus hn' hb hk) rfl
  case baseRefused =>
    refine hwin (winField_refused hen ?_)
    rw [hkind]
    exact fun e => hne e.symm
  case noArbitration => rw [harb (arbitrate_busy hb), settle_self]
  case noGrant => rw [hgrant (lockGranted_none hw), settle_self]
  case again => exact exec_onChip rfl ((backOff_again ht).trans (if_neg (fun e => ne_true_of_eq_false hheld e.1)))
  case loses => exact exec_onChip rfl ((backOff_again ht).trans (if_pos ⟨hheld, hl⟩))
  case stuck =>
    have hbus : ((s.chip.setBitOf BRG_STAT_I2C_STUCK i).evt BRG_EVT_I2C_STUCK).bus (3 + i.val) = s.chip.bus (3 + i.val) :=
      bus_evt _ _ _
    refine (congrArg Host.Outcome.next (failBus_idle 5 ?_ ?_)).trans ?_
    · exact (congrArg Bus.busy hbus).trans hb
    · exact (congrArg Bus.tries hbus).trans ht
    · rw [hbus]

end Sys2Proof.Proofs

/-! SUPPORT. Starting an order (spec/13_management_and_dockets.md R362, R363): what every command that starts one does where no such
order waits and where the order's DEADLINE has passed. -/

namespace Sys2Proof.Proofs
open Sys2Proof Sys2Proof.Machine Sys2Proof.Machine.Reg Sys2Proof.Laws

/-- A command waits for its order: with none it changes nothing, and one past its DEADLINE returns TIMEOUT (R362). -/
def OrderTurn (i : Instr) (id : SlotId) (code : Nat) (row : List Byte → Bool) (s : State) : Prop :=
  (s.chip.orderAt id code row = none → exec i s = .next s)
  ∧ (∀ o, s.chip.orderAt id code row = some o → rd o.bytes 8 8 ≠ 0 → rd o.bytes 8 8 ≤ s.chip.ns →
      exec i s = .next { s with chip := s.chip.docketReady id stTimeout [] })

section Turn
variable {i : Instr} {id : SlotId} {code : Nat} {row : List Byte → Bool} {s : State}

theorem orderTurn_onChip {f : Chip → Order → List Byte → Chip} (he : exec i s = s.onChip (fun c => c.startOrder id code row f)) :
    OrderTurn i id code row s :=
  ⟨fun h => exec_onChip_same he (startOrder_none h f), fun _ h hd hn => exec_onChip he (startOrder_late h hd hn f)⟩

theorem orderTurn_next {f : State → Order → List Byte → State} (he : exec i s = .next (s.startOrder id code row f)) :
    OrderTurn i id code row s :=
  ⟨fun h => he.trans (congrArg _ (startOrderS_none h f)), fun _ h hd hn => he.trans (congrArg _ (startOrderS_late h hd hn f))⟩

/-- An order of device CSR space takes its turn where Porter has a tag. -/
theorem csrOrder_starts {t : Nat} (ht : s.chip.handTag 64 = some t) : s.csrOrder id code
    = s.startOrder id code anyBody (fun s o body =>
        if csrBodyOk code body = false then s.docketReady id stBadArgs []
        else if s.chip.isPlain o ∧ csrPlainOk code body = false then s.docketReady id stAuthFail []
        else s.csrRun t id code body 0 [] (csrCount code body)) := by
  simp only [State.csrOrder, ht]

theorem orderTurn_csrOrder (ht : s.chip.handTag 64 ≠ none) (he : exec i s = .next (s.csrOrder id code)) :
    OrderTurn i id code anyBody s := by
  obtain ⟨t, ht⟩ := Option.ne_none_iff_exists'.mp ht
  exact orderTurn_next (he.trans (congrArg _ (csrOrder_starts ht)))

theorem orderTurn_keyOrder {action len : Nat} {zeros : List Nat} {plain : Bool} {f : Chip → Order → List Byte → Chip}
    (he : exec i s = s.onChip (fun c => c.keyOrder id action len zeros plain f)) :
    OrderTurn i id 0x70 (fun b => rd b 0 1 == action) s :=
  orderTurn_onChip (he.trans rfl)

theorem orderTurn_keyOrderS {action len : Nat} {zeros : List Nat} {f : State → Order → List Byte → State}
    (he : exec i s = .next (s.keyOrder id action len zeros f)) : OrderTurn i id 0x70 (fun b => rd b 0 1 == action) s :=
  orderTurn_next (he.trans rfl)

theorem orderTurn_repairOrder {action : Nat} {bad : List Byte → Bool} {refused : Chip → List Byte → Bool}
    {f : State → List Byte → State} (he : exec i s = .next (s.repairOrder id action bad refused f)) :
    OrderTurn i id 0x90 (fun b => rd b 0 1 == action) s :=
  orderTurn_next (he.trans rfl)

/-- STAGE and COMMIT take their turn and then review the head's own requests. -/
theorem exec_reviewed {f : Chip → Order → List Byte → Chip} {d : Chip}
    (he : exec i s = s.onChip (fun c => (c.startOrder id code row f).allotReview)) (h : s.chip.startOrder id code row f = d) :
    exec i s = .next { s with chip := d.allotReview } :=
  exec_onChip he (congrArg Chip.allotReview h)

end Turn

/-- Settles O60, command by command: each starts its order on the chip or on the state, and STAGE and COMMIT review the requests
afterwards. -/
theorem ordersStartInTurn : Obligations.OrdersStartInTurn := by
  unfold Obligations.OrdersStartInTurn
  intro id i code row s
  refine ⟨fun h => ?turn, fun h => ⟨fun hn => ?noReview, fun o ho hd hn => ?lateReview⟩⟩
  case turn =>
    show OrderTurn i id code row s
    rcases h with ⟨rfl, rfl, rfl⟩ | ⟨rfl, rfl, rfl⟩ | ⟨rfl, rfl, rfl⟩ | ⟨rfl, rfl, rfl⟩ | ⟨rfl, rfl, rfl⟩ | ⟨rfl, rfl, rfl⟩
      | ⟨k, rfl, rfl, hallot⟩ | ⟨k, rfl, rfl, htrellis⟩ | ⟨rfl, rfl, rfl⟩ | ⟨k, rfl, rfl, hkey⟩ | ⟨rfl, rfl, rfl⟩
      | ⟨k, rfl, rfl, hrepair⟩ | ⟨k, rfl, rfl, hstance⟩ | ⟨ht, rfl, hcsr⟩
    · exact orderTurn_onChip rfl
    · exact orderTurn_onChip rfl
    · exact orderTurn_next rfl
    · exact orderTurn_next rfl
    · exact orderTurn_onChip rfl
    · exact orderTurn_onChip rfl
    · rcases hallot with ⟨rfl, rfl⟩ | ⟨rfl, rfl⟩ <;> exact orderTurn_onChip rfl
    · rcases htrellis with ⟨rfl, rfl⟩ | ⟨rfl, rfl⟩ | ⟨rfl, rfl⟩ <;> exact orderTurn_onChip rfl
    · exact orderTurn_onChip rfl
    · rcases hkey with ⟨rfl, rfl⟩ | ⟨rfl, rfl⟩ | ⟨rfl, rfl⟩ | ⟨rfl, rfl⟩ | ⟨rfl, rfl⟩ | ⟨rfl, rfl⟩ | ⟨rfl, rfl⟩ | ⟨rfl, rfl⟩
        | ⟨rfl, rfl⟩ | ⟨rfl, rfl⟩ | ⟨rfl, rfl⟩ | ⟨rfl, rfl⟩ | ⟨rfl, rfl⟩
      case inr.inr.inr.inl => exact orderTurn_keyOrderS rfl
      all_goals exact orderTurn_keyOrder rfl
    · exact orderTurn_onChip rfl
    · rcases hrepair with ⟨rfl, rfl⟩ | ⟨rfl, rfl⟩ | ⟨rfl, rfl⟩ | ⟨rfl, rfl⟩ <;> exact orderTurn_repairOrder rfl
    · rcases hstance with ⟨rfl, rfl⟩ | ⟨rfl, rfl⟩ <;> exact orderTurn_onChip rfl
    · rcases hcsr with ⟨rfl, rfl⟩ | ⟨rfl, rfl⟩ | ⟨rfl, rfl⟩ <;> exact orderTurn_csrOrder ht rfl
  case noReview =>
    rcases h with ⟨rfl, rfl⟩ | ⟨rfl, rfl⟩ <;> exact exec_reviewed rfl (startOrder_none hn _)
  case lateReview =>
    rcases h with ⟨rfl, rfl⟩ | ⟨rfl, rfl⟩ <;> exact exec_reviewed rfl (startOrder_late ho hd hn _)

end Sys2Proof.Proofs

/-! SUPPORT. The mailbox (spec/13_management_and_dockets.md R350 to R371): which orders are accepted, the answer on each path that
leaves every slot alone, READ and ACK, and the heartbeat. -/

namespace Sys2Proof.Proofs
open Sys2Proof Sys2Proof.Machine Sys2Proof.Machine.Reg Sys2Proof.Laws

/-! ### What leaves the mailbox alone -/

@[simp] theorem mirror_mbx (c : Chip) (b : Nat) (pt : Nat × Bool) : (c.mirror b pt).mbx = c.mbx := by
  unfold Chip.mirror
  split
  · rfl
  · split
    · simp
    · rfl

@[simp] theorem mirrorEnd_mbx (c : Chip) (b ing : Nat) : (c.mirrorEnd b ing).mbx = c.mbx := by
  unfold Chip.mirrorEnd
  split
  · exact mirror_mbx _ _ _
  · rfl

@[simp] theorem mirrorOut_mbx (c : Chip) (b p : Nat) : (c.mirrorOut b p).mbx = c.mbx := by
  unfold Chip.mirrorOut
  split
  · exact mirror_mbx _ _ _
  · rfl

@[simp] theorem enqueue_mbx (c : Chip) (b p q : Nat) (use : DescUse) : (c.enqueue b p q use).mbx = c.mbx := mirrorOut_mbx _ _ _

theorem store_mbx {c d : Chip} {ing vc b refs : Nat} {cell : Cell} {keep : Bool} {ch : Charge}
    (h : c.store ing vc cell keep ch refs = some (b, d)) : d.mbx = c.mbx := by
  unfold Chip.store at h
  dsimp only at h
  split at h
  · exact nomatch h
  · cases h
    rfl

@[simp] theorem placeLocal_mbx (c : Chip) (ing p : Nat) (cell : Cell) (use : DescUse) :
    (c.placeLocal ing p cell use).chip.mbx = c.mbx := by
  unfold Chip.placeLocal
  dsimp only
  split
  · rfl
  · split
    · rfl
    · rfl
    · split
      · rfl
      · next hs => exact (enqueue_mbx _ _ _ _ _).trans ((mirrorEnd_mbx _ _ _).trans (store_mbx hs :))

/-! ### Slots -/

theorem slot_of_slots {c d : Chip} (h : d.mbx.slots = c.mbx.slots) (id : SlotId) : d.slot id = c.slot id := by
  simp only [Chip.slot, h]

theorem slot_of_mbx {c d : Chip} (h : d.mbx = c.mbx) (id : SlotId) : d.slot id = c.slot id := slot_of_slots (congrArg Mailbox.slots h) id

theorem slots_pumpEth (fuel : Nat) (c : Chip) : (c.pumpEth fuel).mbx.slots = c.mbx.slots := by
  induction fuel generalizing c with
  | zero => rfl
  | succ n ih =>
    rw [Chip.pumpEth]
    split
    · rfl
    · dsimp only
      split
      · rfl
      · rw [ih]
        exact (congrArg Mailbox.slots (placeLocal_mbx _ _ _ _ _) :)

theorem slots_sendEth (c : Chip) (mac : Nat) (bytes : List Byte) : (c.sendEth mac bytes).mbx.slots = c.mbx.slots := slots_pumpEth _ _

theorem slots_answerFrame (c : Chip) (sess ks : Nat) (content : List Byte) :
    (c.answerFrame sess ks content).2.mbx.slots = c.mbx.slots := by
  unfold Chip.answerFrame
  dsimp only
  split <;> rfl

/-- An answer outside the row changes no slot. -/
theorem slots_answer {path : MsgPath} (ht : ∀ n, path ≠ .tunnel0 n) (hr : ∀ n, path ≠ .relay n) (c : Chip) (sess ks : Nat)
    (content : List Byte) : (c.answer path sess ks content).mbx.slots = c.mbx.slots := by
  unfold Chip.answer
  split
  · rfl
  · cases path with
    | tunnel0 n => exact absurd rfl (ht n)
    | relay n => exact absurd rfl (hr n)
    | eth0 src => exact (slots_sendEth _ _ _).trans (slots_answerFrame _ _ _ _)
    | dock => exact slots_answerFrame _ _ _ _
    | jtag => exact slots_answerFrame _ _ _ _

/-! ### The heartbeat (R371) -/

@[simp] theorem live_mbx (c : Chip) (cause : Nat) (b : Bool) : (c.live cause b).mbx = c.mbx := by
  cases b <;> rfl

@[simp] theorem live_chain (c : Chip) (cause : Nat) (b : Bool) : (c.live cause b).chain = c.chain := by
  cases b <;> rfl

theorem get_live (c : Chip) (cause : Nat) (b : Bool) (f : Fld) (h : f.key ≠ FLD_SHUT_LIVE_LIVE.key) :
    (c.live cause b).get f = c.get f := by
  cases b <;> exact get_put_other _ _ _ _ h

@[simp] theorem reloadHb_mbx (c : Chip) (sess : Nat) : (c.reloadHb sess).mbx = c.mbx := by
  unfold Chip.reloadHb
  split
  · exact live_mbx _ _ _
  · rfl

@[simp] theorem reloadHb_chain (c : Chip) (sess : Nat) : (c.reloadHb sess).chain = c.chain := by
  unfold Chip.reloadHb
  split
  · exact live_chain _ _ _
  · rfl

theorem get_reloadHb (c : Chip) (sess : Nat) (f : Fld) (h1 : f.key ≠ GLB_HB_LOST.key) (h2 : f.key ≠ FLD_SHUT_LIVE_LIVE.key) :
    (c.reloadHb sess).get f = c.get f := by
  unfold Chip.reloadHb
  split
  · exact (get_live _ _ _ _ h2).trans (get_put_other _ _ _ _ h1)
  · rfl

theorem get_reloadHb_lost {c : Chip} {sess : Nat} (hs : sess < 2) (ht : c.get GLB_HB_HB_TMO ≠ 0) : (c.reloadHb sess).get GLB_HB_LOST = 0 := by
  rw [Chip.reloadHb, if_pos ⟨hs, ht⟩, get_live _ _ _ _ (by decide), get_put_same]
  rfl

theorem glbHb_zero {value : Word} {c : Chip} (h : bits value.toNat 0 13 = 0) :
    glbHb value c = ((c.put GLB_HB_HB_TMO 0).put GLB_HB_LOST 0).live causeHb false := if_pos h

theorem glbHb_kept {value : Word} {c : Chip} (h0 : bits value.toNat 0 13 ≠ 0)
    (h : bits value.toNat 0 13 < 10 ∨ 6000 < bits value.toNat 0 13) : glbHb value c = c := (if_neg h0).trans (if_pos h)

theorem glbHb_sets {value : Word} {c : Chip} (h10 : 10 ≤ bits value.toNat 0 13) (h6000 : bits value.toNat 0 13 ≤ 6000) :
    glbHb value c = c.put GLB_HB_HB_TMO (bits value.toNat 0 13) := (if_neg (by omega)).trans (if_neg (by omega))

/-! ### Accepting an order (R361) -/

section Accept
variable {c : Chip} {path : MsgPath} {sess : Fin 4} {ks : Nat} {bytes : List Byte} {id : SlotId}
  (hlen : 16 ≤ bytes.length) (ha : c.absent = false) (hid : id = slotOf sess (rd bytes 2 2))
include hlen ha hid

theorem acceptOrder_disabled (hen : bit (c.get MBX_CTL_EN) sess = false) :
    c.acceptOrder path sess ks bytes = c.sendOnce path sess ks bytes stRefused (c.slot id).gen := by
  subst hid
  rw [Chip.acceptOrder, if_neg (by simp [ha, hlen]), if_pos hen]

theorem acceptOrder_occupied (hen : bit (c.get MBX_CTL_EN) sess = true) (ho : (c.slot id).occupied = true) :
    c.acceptOrder path sess ks bytes
      = ((c.sendOnce path sess ks bytes stRefused (c.slot id).gen).inc MBX_BUSY_CNT).evt MBX_EVT_BUSY := by
  subst hid
  rw [Chip.acceptOrder, if_neg (by simp [ha, hlen]), if_neg (by simp [hen]), if_pos ho]

end Accept

/-- The chip in which an order has been stored in its slot and the heartbeat reloaded. -/
def orderStored (c : Chip) (path : MsgPath) (sess : Fin 4) (ks : Nat) (bytes : List Byte) (id : SlotId) : Chip :=
  let d := (c.setSlot id ⟨(c.slot id).gen, some ⟨bytes, path, ks, false, c.mbx.accepted⟩, none⟩).reloadHb sess
  { d with mbx := { d.mbx with accepted := d.mbx.accepted + 1 } }

/-- What becomes at once of an order that has been stored (Table 13.6). -/
def orderChecked (c : Chip) (path : MsgPath) (ks : Nat) (bytes : List Byte) (id : SlotId) : Chip :=
  if 1008 < rd bytes 4 2 ∨ rd bytes 4 2 ≠ (bytes.drop 16).length ∨ rd bytes 6 1 ≠ 0
      ∨ orderKnown (rd bytes 0 2) (rd bytes 7 1) (bytes.drop 16) = false then c.docketReady id stBadArgs []
  else if c.restricted path ks ∧ plainAllowed (rd bytes 0 2) (onDock path) = false then c.docketReady id stAuthFail []
  else if rd bytes 8 8 ≠ 0 ∧ rd bytes 8 8 ≤ c.ns then c.docketReady id stTimeout []
  else c

theorem acceptOrder_free {c : Chip} {path : MsgPath} {sess : Fin 4} {ks : Nat} {bytes : List Byte} {id : SlotId}
    (hlen : 16 ≤ bytes.length) (ha : c.absent = false) (hid : id = slotOf sess (rd bytes 2 2))
    (hen : bit (c.get MBX_CTL_EN) sess = true) (ho : (c.slot id).occupied = false) :
    c.acceptOrder path sess ks bytes = orderChecked (orderStored c path sess ks bytes id) path ks bytes id := by
  subst hid
  rw [Chip.acceptOrder, if_neg (by simp [ha, hlen]), if_neg (by simp [hen]), if_neg (by simp [ho])]
  rfl

section Stored
variable (c : Chip) (path : MsgPath) (sess : Fin 4) (ks : Nat) (bytes : List Byte) (id : SlotId)

theorem slots_orderStored : (orderStored c path sess ks bytes id).mbx.slots
    = (c.setSlot id ⟨(c.slot id).gen, some ⟨bytes, path, ks, false, c.mbx.accepted⟩, none⟩).mbx.slots :=
  (congrArg Mailbox.slots (reloadHb_mbx _ _) :)

theorem slot_orderStored : (orderStored c path sess ks bytes id).slot id
    = ⟨(c.slot id).gen, some ⟨bytes, path, ks, false, c.mbx.accepted⟩, none⟩ :=
  (slot_of_slots (slots_orderStored ..) id).trans (slot_setSlot _ _ _)

theorem slot_orderStored_other {j : SlotId} (h : j ≠ id) : (orderStored c path sess ks bytes id).slot j = c.slot j :=
  (slot_of_slots (slots_orderStored ..) j).trans (slot_setSlot_other _ _ _ _ h)

theorem accepted_orderStored : (orderStored c path sess ks bytes id).mbx.accepted = c.mbx.accepted + 1 := by
  show (Chip.reloadHb _ _).mbx.accepted + 1 = _
  rw [reloadHb_mbx]
  rfl

theorem ns_orderStored : (orderStored c path sess ks bytes id).ns = c.ns := by
  show (Chip.reloadHb _ _).ns = _
  rw [Chip.ns, reloadHb_chain]
  rfl

theorem orderStored_lost (hs : sess.val < 2) (ht : c.get GLB_HB_HB_TMO ≠ 0) :
    (orderStored c path sess ks bytes id).get GLB_HB_LOST = 0 :=
  get_reloadHb_lost hs ht

end Stored

theorem orderIn_absent {path : MsgPath} {sess : Fin 4} {keyed : Bool} {bytes : List Byte} {c : Chip} (h : c.absent = true) :
    orderIn path sess keyed bytes c = c := if_pos h

theorem orderIn_path {path : MsgPath} {sess : Fin 4} {keyed : Bool} {bytes : List Byte} {c : Chip} (ht : ∀ n, path ≠ .tunnel0 n)
    (ha : c.absent = false) :
    orderIn path sess keyed bytes c = c.acceptOrder path sess (if keyed then c.sessionKey sess else plainSlot) bytes := by
  refine (if_neg (by simp [ha])).trans ?_
  cases path with
  | tunnel0 n => exact absurd rfl (ht n)
  | _ => rfl

theorem absent_of_tunnel0 {c : Chip} (h : c.noTunnel0 = false) : c.absent = false := (Bool.or_eq_false_iff.mp h).1

theorem orderIn_noTunnel0 {n : BitVec 16} {sess : Fin 4} {keyed : Bool} {bytes : List Byte} {c : Chip} (h : c.noTunnel0 = true) :
    orderIn (.tunnel0 n) sess keyed bytes c = c := by
  show (if c.absent then c else if c.noTunnel0 then c else _) = c
  rw [if_pos h, ite_self]

theorem orderIn_tunnel0 {n : BitVec 16} {sess : Fin 4} {keyed : Bool} {bytes : List Byte} {c d : Chip} (h : c.noTunnel0 = false)
    (hd : d = c.dropInbox n.toNat (message 1 sess bytes)) : orderIn (.tunnel0 n) sess keyed bytes c
      = if d.fromServingHead n.toNat then d.acceptOrder (.tunnel0 n) sess plainSlot bytes else d.srcDrop := by
  subst hd
  exact (if_neg (by simp [absent_of_tunnel0 h])).trans (if_neg (by simp [h]))

/-- Settles O32, by the path: a message of tunnel 0 by its source; an order on any other path by its session and its slot, and one that
is stored by the checks of Table 13.6. -/
theorem ordersAccepted : Obligations.OrdersAccepted := by
  unfold Obligations.OrdersAccepted
  intro path sess keyed bytes s
  refine ⟨fun h => exec_onChip_same rfl (orderIn_absent h), fun n hp h => ?_, fun n hp h d hd => ?_,
    fun ht ha hlen ks id x hks hid hx => ?_⟩
  · subst hp
    exact exec_onChip_same rfl (orderIn_noTunnel0 h)
  · subst hp
    exact exec_onChip rfl (orderIn_tunnel0 h hd)
  · subst hx
    have hrun {t : Chip} (h : s.chip.acceptOrder path sess ks bytes = t) :
        exec (.order path sess keyed bytes) s = .next { s with chip := t } :=
      exec_onChip rfl ((orderIn_path ht ha).trans (hks ▸ h))
    refine ⟨fun hen => hrun (acceptOrder_disabled hlen ha hid hen), fun hen ho => hrun (acceptOrder_occupied hlen ha hid hen ho),
      fun hen ho => ⟨orderStored s.chip path sess ks bytes id, _, hrun (acceptOrder_free hlen ha hid hen ho), ?stored, ?checked⟩⟩
    case stored =>
      exact ⟨slot_orderStored .., accepted_orderStored .., orderStored_lost _ _ _ _ _ _, fun _ h => slot_orderStored_other (h := h) ..,
        ns_orderStored ..⟩
    case checked =>
      intro bad auth late hbad hauth hlate
      rw [orderChecked, ns_orderStored, List.length_drop, hbad, hauth, hlate]
      simp only [decide_eq_true_eq, Bool.and_eq_true, Bool.not_eq_true']

end Sys2Proof.Proofs

/-! SUPPORT. READ, ACK and the heartbeat (spec/13_management_and_dockets.md R368, R369, R371). -/

namespace Sys2Proof.Proofs
open Sys2Proof Sys2Proof.Machine Sys2Proof.Machine.Reg Sys2Proof.Laws

/-! ### READ (R368) -/

theorem readIn_path {path : MsgPath} {id : SlotId} {c : Chip} (ht : ∀ n, path ≠ .tunnel0 n) (ha : c.absent = false) :
    readIn path id c = c.serveRead path id plainSlot := by
  refine (if_neg (by simp [ha])).trans ?_
  cases path with
  | tunnel0 n => exact absurd rfl (ht n)
  | _ => rfl

theorem readIn_tunnel0 {n : BitVec 16} {id : SlotId} {c d : Chip} (h : c.noTunnel0 = false)
    (hd : d = c.dropInbox n.toNat (message 3 id.sess [BitVec.ofNat 8 id.slot])) :
    readIn (.tunnel0 n) id c = if d.fromServingHead n.toNat then d.serveRead (.tunnel0 n) id plainSlot else d.srcDrop := by
  subst hd
  exact (if_neg (by simp [absent_of_tunnel0 h])).trans (if_neg (by simp [h]))

theorem slot_serveRead {path : MsgPath} (ht : ∀ n, path ≠ .tunnel0 n) (hr : ∀ n, path ≠ .relay n) (c : Chip) (at_ : SlotId) (ks : Nat)
    (id : SlotId) : (c.serveRead path at_ ks).slot id = c.slot id := by
  refine slot_of_slots ((slots_answer ht hr _ _ _ _).trans ?_) id
  rw [reloadHb_mbx]

/-! ### MBX_ACK (R369) -/

/-- The slot that an MBX_ACK word names. -/
def ackSlot (w : Nat) : SlotId := ⟨⟨bits w 8 2, bits_lt w 8 2⟩, ⟨bits w 0 6, bits_lt w 0 6⟩⟩

theorem eq_ackSlot {id : SlotId} {w : Nat} (hs : id.sess.val = bits w 8 2) (ht : id.slot.val = bits w 0 6) : ackSlot w = id := by
  obtain ⟨⟨a, _⟩, ⟨b, _⟩⟩ := id
  subst hs ht
  rfl

theorem ne_ackSlot {id : SlotId} {w : Nat} (h : id.sess.val ≠ bits w 8 2 ∨ id.slot.val ≠ bits w 0 6) : id ≠ ackSlot w := by
  rintro rfl
  exact h.elim (fun h => h rfl) (fun h => h rfl)

section Ack
variable {c : Chip} {w : Nat} {id : SlotId} (hid : ackSlot w = id)
include hid

theorem ackWord_consumes (hr : (c.slot id).ready.isSome = true) (hg : bits w 16 8 = (c.slot id).gen) :
    c.ackWord w = (c.setSlot id ⟨(c.slot id).gen, none, none⟩).reloadHb id.sess := by
  subst hid
  exact if_pos ⟨hr, hg⟩

theorem ackWord_stale (h : (c.slot id).ready.isSome = false ∨ bits w 16 8 ≠ (c.slot id).gen) : c.ackWord w = c.inc MBX_ACK_STALE := by
  subst hid
  refine if_neg (fun ⟨hr, hg⟩ => ?_)
  rcases h with h | h
  · exact Bool.false_ne_true (h.symm.trans hr)
  · exact h hg

end Ack

theorem slot_reloadHb (c : Chip) (sess : Nat) (id : SlotId) : (c.reloadHb sess).slot id = c.slot id := slot_of_mbx (reloadHb_mbx _ _) id

/-- A word that names another slot leaves this one. -/
theorem slot_ackWord_other {c : Chip} {w : Nat} {id : SlotId} (h : id ≠ ackSlot w) : (c.ackWord w).slot id = c.slot id := by
  by_cases hr : (c.slot (ackSlot w)).ready.isSome = true ∧ bits w 16 8 = (c.slot (ackSlot w)).gen
  · obtain ⟨hr, hg⟩ := hr
    rw [ackWord_consumes rfl hr hg, slot_reloadHb, slot_setSlot_other _ _ _ _ h]
  · rw [ackWord_stale rfl ((not_and_or.mp hr).imp_left eq_false_of_ne_true)]
    rfl

theorem mbxAck_noTunnel0 {n : BitVec 16} {v : Word} {c : Chip} (h : c.noTunnel0 = true) : mbxAck (some n) v c = c := if_pos h

theorem mbxAck_message {n : BitVec 16} {v : Word} {c d : Chip} (h : c.noTunnel0 = false)
    (hd : d = c.dropInbox n.toNat (message 4 (bits v.toNat 8 2) (leBytes v.toNat 4))) :
    mbxAck (some n) v c = if d.fromServingHead n.toNat then d.ackWord v.toNat else d.srcDrop := by
  subst hd
  exact if_neg (by simp [h])

/-! ### The heartbeat's expiry (R371) -/

theorem heartbeatExpiry_idle {c : Chip} (h : c.get GLB_HB_HB_TMO = 0 ∨ c.get CLK_BOOT_STEP ≠ 9) : heartbeatExpiry c = c := if_pos h

theorem heartbeatExpiry_lost {c : Chip} (ht : c.get GLB_HB_HB_TMO ≠ 0) (hs : c.get CLK_BOOT_STEP = 9) :
    heartbeatExpiry c = (((c.put GLB_HB_LOST 1).evt MBX_EVT_HB_LOST).live causeHb true).shutter causeHb := if_neg (by simp [ht, hs])

/-- Settles O34: a READ by its path, an ACK by whether it names a ready docket of its generation, an ACK message by its source, and the
heartbeat by its timer and the value written. -/
theorem readsAcksAndHeartbeat : Obligations.ReadsAcksAndHeartbeat := by
  unfold Obligations.ReadsAcksAndHeartbeat
  intro path at_ value s
  refine ⟨fun ha ht => ⟨exec_onChip rfl (readIn_path ht ha), fun id hr => slot_serveRead ht hr _ _ plainSlot _⟩,
    fun n c h0 hp hc => ?readMessage, ⟨s.chip.ackWord value.toNat, rfl, fun id _ => ⟨fun hs ht => ?names, fun h => ?other⟩⟩,
    fun n => ⟨fun h => exec_onChip_same rfl (mbxAck_noTunnel0 h), fun c h0 hc => ?ackMessage⟩,
    fun h => exec_onChip_same rfl (heartbeatExpiry_idle h), fun ht hs => exec_onChip rfl (heartbeatExpiry_lost ht hs),
    fun v hv => ⟨glbHb value s.chip, rfl, ?stops, ?sets, ?kept⟩⟩
  case readMessage =>
    subst hp
    exact exec_onChip rfl (readIn_tunnel0 h0 hc)
  case names =>
    have hid := eq_ackSlot hs ht
    refine ⟨fun hr hg => ?_, fun h => ?_⟩
    · rw [ackWord_consumes hid hr hg]
      have hslot : ((s.chip.setSlot id ⟨(s.chip.slot id).gen, none, none⟩).reloadHb id.sess).slot id = ⟨(s.chip.slot id).gen, none, none⟩ :=
        (slot_reloadHb _ _ _).trans (slot_setSlot _ _ _)
      exact ⟨hslot, by rw [hslot]; rfl, get_reloadHb _ _ _ (by decide) (by decide)⟩
    · rw [ackWord_stale hid h]
      exact ⟨rfl, get_inc_same _ _⟩
  case other => exact slot_ackWord_other (ne_ackSlot h)
  case ackMessage =>
    have hrun := mbxAck_message h0 hc
    refine ⟨fun hh => ?_, fun hh => exec_onChip rfl (hrun.trans (if_neg (by simp [hh])))⟩
    have hack : exec (.mbxAck (some n) value) s = .next { s with chip := c.ackWord value.toNat } := exec_onChip rfl (hrun.trans (if_pos hh))
    exact ⟨hack.trans rfl, hack⟩
  case stops =>
    rintro h
    rw [glbHb_zero (hv.symm.trans h), get_live _ _ _ _ (by decide), get_live _ _ _ _ (by decide), get_put_other _ _ _ _ (by decide),
      get_put_same, get_put_same]
    exact ⟨rfl, rfl⟩
  case sets =>
    subst hv
    exact fun h10 h6000 => glbHb_sets h10 h6000
  case kept =>
    subst hv
    exact fun h0 h => glbHb_kept (by omega) h

end Sys2Proof.Proofs

/-! SUPPORT. Device CSR space from outside (spec/13_management_and_dockets.md R359, R364 to R367, R372, R619;
spec/12_bridge_and_accessory_bus.md R260): the accesses of other nodes with their answers, and the CSR orders. -/

namespace Sys2Proof.Proofs
open Sys2Proof Sys2Proof.Machine Sys2Proof.Machine.Reg Sys2Proof.Laws

/-! ### RCSR_RD and RCSR_WR -/

section Remote
variable {s : State} {node rid addr value : Nat} {c : Chip} {allowed served : Bool}

theorem csrRead_served (hw : wholeWord addr .word = true) (hr : s.chip.csrReach addr = true) :
    s.csrRead addr .word = (⟨0, (s.csrGet addr).1⟩, (s.csrGet addr).2) := if_neg (by simp [hw, hr])

theorem csrRead_refused (h : (wholeWord addr .word && s.chip.csrReach addr) = false) : s.csrRead addr .word = (⟨1, 0⟩, s) :=
  if_pos (Bool.and_eq_false_iff.mp h)

theorem csrWrite_served (hw : wholeWord addr .word = true) (hr : s.chip.csrReach addr = true) :
    s.csrWrite addr .word value = (⟨0, 0⟩, s.csrPut addr value) := if_neg (by simp [hw, hr])

theorem csrWrite_refused (h : (wholeWord addr .word && s.chip.csrReach addr) = false) : s.csrWrite addr .word value = (⟨1, 0⟩, s) :=
  if_pos (Bool.and_eq_false_iff.mp h)

section Read
variable (hc : c = s.chip.dropInbox node (message 5 0 (leBytes rid 2 ++ leBytes addr 4)))
  (ha : allowed = (c.on GLB_RCSR_RD_EN && c.isMember node && decide (addr < 2 ^ 24)))
  (hs : served = (wholeWord addr .word && c.csrReach addr))
include hc ha

theorem rcsrRead_forbidden (h : allowed = false) : s.rcsrRead node rid addr = { s with chip := c.rcsrAnswer node rid 7 0 } := by
  subst hc
  refine if_neg (fun ⟨h1, h2, h3⟩ => ?_)
  rw [ha, h1, h2, decide_eq_true h3] at h
  exact Bool.noConfusion h

theorem rcsrRead_allowed (h : allowed = true) : s.rcsrRead node rid addr
    = let x := State.csrRead { s with chip := c } addr .word
      { x.2 with chip := x.2.chip.rcsrAnswer node rid x.1.code x.1.value } := by
  subst hc
  rw [ha] at h
  simp only [Bool.and_eq_true, decide_eq_true_eq] at h
  obtain ⟨⟨h1, h2⟩, h3⟩ := h
  exact if_pos ⟨h1, h2, h3⟩

include hs

theorem rcsrRead_served (h : allowed = true) (hv : served = true) {x : Nat × State} (hx : x = State.csrGet { s with chip := c } addr) :
    s.rcsrRead node rid addr = { x.2 with chip := x.2.chip.rcsrAnswer node rid 0 x.1 } := by
  rw [hs, Bool.and_eq_true] at hv
  obtain ⟨hw, hr⟩ := hv
  rw [rcsrRead_allowed hc ha h, csrRead_served hw hr, hx]

theorem rcsrRead_refused (h : allowed = false ∨ served = false) :
    s.rcsrRead node rid addr = { s with chip := c.rcsrAnswer node rid 7 0 } := by
  by_cases hf : allowed = false
  · exact rcsrRead_forbidden hc ha hf
  · have hv : (wholeWord addr .word && c.csrReach addr) = false := hs ▸ h.resolve_left hf
    rw [rcsrRead_allowed hc ha (eq_true_of_ne_false hf), csrRead_refused hv]
    rfl

end Read

section Write
variable (hc : c = s.chip.dropInbox node (message 6 0 (leBytes rid 2 ++ leBytes addr 4 ++ leBytes value 4)))
  (ha : allowed = ((c.fromServingHead node || (c.on GLB_RCSR_WR_ANY && c.isMember node)) && decide (addr < 2 ^ 24)))
  (hs : served = (wholeWord addr .word && c.csrReach addr))
include hc ha

theorem rcsrWrite_forbidden (h : allowed = false) :
    s.rcsrWrite node rid addr value = { s with chip := c.rcsrAnswer node rid 7 0 } := by
  subst hc
  refine if_neg (fun ⟨h1, h2⟩ => ?_)
  rw [ha, decide_eq_true h2, Bool.and_true, Bool.or_eq_false_iff, Bool.and_eq_false_iff] at h
  obtain ⟨hh, hm⟩ := h
  rcases h1 with h1 | ⟨h1, h3⟩
  · exact Bool.false_ne_true (hh.symm.trans h1)
  · exact hm.elim (fun e => Bool.false_ne_true (e.symm.trans h1)) (fun e => Bool.false_ne_true (e.symm.trans h3))

theorem rcsrWrite_allowed (h : allowed = true) : s.rcsrWrite node rid addr value
    = let x := State.csrWrite { s with chip := c } addr .word value
      { x.2 with chip := x.2.chip.rcsrAnswer node rid x.1.code 0 } := by
  subst hc
  rw [ha] at h
  simp only [Bool.and_eq_true, Bool.or_eq_true, decide_eq_true_eq] at h
  exact if_pos h

include hs

theorem rcsrWrite_served (h : allowed = true) (hv : served = true) {x : State} (hx : x = State.csrPut { s with chip := c } addr value) :
    s.rcsrWrite node rid addr value = { x with chip := x.chip.rcsrAnswer node rid 0 0 } := by
  rw [hs, Bool.and_eq_true] at hv
  obtain ⟨hw, hr⟩ := hv
  rw [rcsrWrite_allowed hc ha h, csrWrite_served hw hr, hx]

theorem rcsrWrite_refused (h : allowed = false ∨ served = false) :
    s.rcsrWrite node rid addr value = { s with chip := c.rcsrAnswer node rid 7 0 } := by
  by_cases hf : allowed = false
  · exact rcsrWrite_forbidden hc ha hf
  · have hv : (wholeWord addr .word && c.csrReach addr) = false := hs ▸ h.resolve_left hf
    rw [rcsrWrite_allowed hc ha (eq_true_of_ne_false hf), csrWrite_refused hv]
    rfl

end Write

/-! ### RCSR_RSP -/

theorem toNat_eq_zero_iff {code : BitVec 8} : code.toNat = 0 ↔ code = 0 := ⟨fun h => BitVec.eq_of_toNat_eq h, fun h => h ▸ rfl⟩

section Response
variable {v : Word} {code : BitVec 8}
  (hc : c = s.chip.dropInbox node (message 7 0 (leBytes rid 2 ++ leBytes code.toNat 1 ++ leBytes v.toNat 4)))
include hc

theorem rcsrResponse_recordOther {w : Nat × FarReq} (hw : c.cores.remoteWrites.find? (fun x => decide (x.1 = rid)) = some w)
    (hn : w.2.acc ≠ node) : s.rcsrResponse node rid code.toNat v = { s with chip := c.lateResponse rid } := by
  subst hc
  simp only [State.rcsrResponse, hw, hn, ne_eq, not_false_eq_true, if_true]

theorem rcsrResponse_record {w : Nat × FarReq} {d : Chip} (hw : c.cores.remoteWrites.find? (fun x => decide (x.1 = rid)) = some w)
    (hn : w.2.acc = node) (hd : d = { c with cores := { c.cores with remoteWrites := mdel c.cores.remoteWrites rid } }) :
    s.rcsrResponse node rid code.toNat v
      = { s with chip := if code = 0 then d else d.farLog w.2.hand w.2.far.toNat 7 false } := by
  simp only [State.rcsrResponse, ← hc, hw, hn, ← hd, ne_eq, not_true_eq_false, if_false]
  by_cases h0 : code = 0
  · rw [if_pos (toNat_eq_zero_iff.mpr h0), if_pos rfl, if_pos h0]
  · rw [if_neg (mt toNat_eq_zero_iff.mp h0), if_neg (by decide), if_neg h0]

variable (hw : c.cores.remoteWrites.find? (fun x => decide (x.1 = rid)) = none)
include hw

theorem rcsrResponse_none (ht : c.tagAt rid = none) :
    s.rcsrResponse node rid code.toNat v = { s with chip := c.lateError rid (if code = 0 then 0 else 7) } := by
  subst hc
  simp only [State.rcsrResponse, hw, ht, toNat_eq_zero_iff]

theorem rcsrResponse_otherAccess {x : Tag} (ht : c.tagAt rid = some x)
    (hx : x.req.kind ≠ 4 ∨ x.req.acc ≠ node ∨ x.result.isSome = true) :
    s.rcsrResponse node rid code.toNat v = { s with chip := c.lateResponse rid } := by
  subst hc
  simp only [State.rcsrResponse, hw, ht]
  refine if_neg (fun ⟨h1, h2, h3⟩ => ?_)
  rcases hx with hx | hx | hx
  · exact hx h1
  · exact hx h2
  · rw [Option.isNone_iff_eq_none.mp h3] at hx
    exact Bool.false_ne_true hx

theorem rcsrResponse_access {x : Tag} (ht : c.tagAt rid = some x) (hk : x.req.kind = 4) (hn : x.req.acc = node)
    (hr : x.result = none) : s.rcsrResponse node rid code.toNat v
      = (State.endAccess { s with chip := c } rid x (if code = 0 then 0 else 7) v).csrGoOn rid := by
  subst hc
  simp only [State.rcsrResponse, hw, ht, hk, hn, hr, toNat_eq_zero_iff, Option.isNone_none, and_self, if_true]

end Response
end Remote

section Record
variable {rid : BitVec 16} {s : State}

theorem exec_recordTimeout {e : Nat × FarReq} (h : s.chip.cores.remoteWrites.find? (fun e => decide (e.1 = rid.toNat)) = some e) :
    exec (.rcsrRecordTimeout rid) s = .next { s with
      chip := Chip.farLog { s.chip with cores := { s.chip.cores with remoteWrites := mdel s.chip.cores.remoteWrites e.1 } }
        e.2.hand e.2.far.toNat 8 false } := by
  show execRcsrRecordTimeout rid s = _
  simp only [execRcsrRecordTimeout, State.onChip, h]

theorem exec_recordTimeout_none (h : s.chip.cores.remoteWrites.find? (fun e => decide (e.1 = rid.toNat)) = none) :
    exec (.rcsrRecordTimeout rid) s = .next s := by
  show execRcsrRecordTimeout rid s = _
  simp only [execRcsrRecordTimeout, State.onChip, h]

end Record

/-! ### READ_CSR, WRITE_CSR and READ_CSR_BLOCK (R364 to R367) -/

section CsrOrder
variable {s : State} {id : SlotId} {code t : Nat} {o : Order} {c : Chip} {body : List Byte}

theorem csrOrder_noTag (ht : s.chip.handTag 64 = none) : s.csrOrder id code = s := by
  simp only [State.csrOrder, ht]

section Started
variable (ht : s.chip.handTag 64 = some t) (ho : s.chip.starts id code anyBody o) (hc : c = s.chip.orderBegun id o)
  (hb : body = o.bytes.drop 16)
include ht ho hc hb

theorem csrOrder_badBody (h : csrBodyOk code body = false) :
    s.csrOrder id code = { s with chip := c.docketReady id stBadArgs [] } := by
  subst hc hb
  rw [csrOrder_starts ht, startOrderS_runs ho]
  exact if_pos h

theorem csrOrder_plain (h : csrBodyOk code body = true) (hp : c.isPlain o = true) (hr : csrPlainOk code body = false) :
    s.csrOrder id code = { s with chip := c.docketReady id stAuthFail [] } := by
  subst hc hb
  rw [csrOrder_starts ht, startOrderS_runs ho]
  exact (if_neg (by simp [h])).trans (if_pos ⟨hp, hr⟩)

theorem csrOrder_performs (h : csrBodyOk code body = true) (hp : c.isPlain o = false ∨ csrPlainOk code body = true) :
    s.csrOrder id code = State.csrRun { s with chip := c } t id code body 0 [] (csrCount code body) := by
  subst hc hb
  rw [csrOrder_starts ht, startOrderS_runs ho]
  refine (if_neg (by simp [h])).trans (if_neg (fun ⟨h1, h2⟩ => ?_))
  rcases hp with hp | hp
  · exact Bool.false_ne_true (hp.symm.trans h1)
  · exact Bool.false_ne_true (h2.symm.trans hp)

end Started

/-! The first access of an order that cannot be performed ends it with none performed (R366, R367). -/

section FirstAccess
variable {far : Word} (hf : far = BitVec.ofNat 32 (csrFar code body 0)) (hn : 0 < csrCount code body)
include hf hn

theorem csrRun_first_misaligned (h : s.chip.farTrap 64 far (csrSize code body 0) = 2) :
    s.csrRun t id code body 0 [] (csrCount code body) = { s with chip := s.chip.csrDone t id code stBadArgs 0 [] } := by
  subst hf
  obtain ⟨n, hk⟩ := Nat.exists_eq_add_of_lt hn
  rw [hk, Nat.zero_add, State.csrRun, if_neg (by omega)]
  exact if_pos (.inl h)

theorem csrRun_first_noWindow (h0 : s.chip.farTrap 64 far (csrSize code body 0) ≠ 0)
    (h2 : s.chip.farTrap 64 far (csrSize code body 0) ≠ 2) :
    s.csrRun t id code body 0 [] (csrCount code body) = { s with chip := s.chip.csrDone t id code stFarError 0 [] } := by
  subst hf
  obtain ⟨n, hk⟩ := Nat.exists_eq_add_of_lt hn
  rw [hk, Nat.zero_add, State.csrRun, if_neg (by omega)]
  exact (if_neg (fun h => h.elim h2 (fun h => h0 h.1))).trans (if_pos h0)

theorem csrRun_first_notWord (h0 : s.chip.farTrap 64 far (csrSize code body 0) = 0) (hk0 : s.chip.get (BRG_WIN_CFG_KIND (winOf far)) = 0)
    (hw : wholeWord (s.chip.farReq 64 far (csrSize code body 0) (csrValue code body 0) (some t)).addr (csrSize code body 0) = false) :
    s.csrRun t id code body 0 [] (csrCount code body) = { s with chip := s.chip.csrDone t id code stBadArgs 0 [] } := by
  subst hf
  obtain ⟨n, hk⟩ := Nat.exists_eq_add_of_lt hn
  rw [hk, Nat.zero_add, State.csrRun, if_neg (by omega)]
  exact if_pos (.inr ⟨h0, hk0, hw⟩)

end FirstAccess
end CsrOrder

/-- Settles O31: a message by what R359 allows and the register it names, a response by what it answers, and an order by its tag, its
body, its frame and its first access. -/
theorem registerAccessFromOutside : Obligations.RegisterAccessFromOutside := by
  unfold Obligations.RegisterAccessFromOutside
  refine ⟨fun node rid addr value code s => ⟨fun c allowed served hc ha hs => ⟨fun h hv x hx => ?rd, fun h => ?rdRefused⟩,
      fun c allowed served hc ha hs => ⟨fun h hv x hx => ?wr, fun h => ?wrRefused⟩,
      fun c hc => ⟨fun w hw => ⟨fun hn => ?recordOther, fun hn d hd => ?record⟩, fun hw ht => ?late,
        fun x hw ht hx => ?otherAccess, fun x hw ht hk hn hr => ?access⟩,
      fun _ h => exec_recordTimeout h, exec_recordTimeout_none⟩,
    fun id s i code hi => ?order⟩
  case rd => exact congrArg Host.Outcome.next (rcsrRead_served hc ha hs h hv hx)
  case rdRefused => exact congrArg Host.Outcome.next (rcsrRead_refused hc ha hs h)
  case wr => exact congrArg Host.Outcome.next (rcsrWrite_served hc ha hs h hv hx)
  case wrRefused => exact congrArg Host.Outcome.next (rcsrWrite_refused hc ha hs h)
  case recordOther => exact congrArg Host.Outcome.next (rcsrResponse_recordOther hc hw hn)
  case record => exact congrArg Host.Outcome.next (rcsrResponse_record hc hw hn hd)
  case late => exact congrArg Host.Outcome.next (rcsrResponse_none hc hw ht)
  case otherAccess => exact congrArg Host.Outcome.next (rcsrResponse_otherAccess hc hw ht hx)
  case access => exact congrArg Host.Outcome.next (rcsrResponse_access hc hw ht hk hn hr)
  case order =>
    have he : exec i s = .next (s.csrOrder id code) := by
      rcases hi with ⟨rfl, rfl⟩ | ⟨rfl, rfl⟩ | ⟨rfl, rfl⟩ <;> rfl
    have hrun {t : State} (h : s.csrOrder id code = t) : exec i s = .next t := he.trans (congrArg Host.Outcome.next h)
    refine ⟨fun ht => hrun (csrOrder_noTag ht), fun t o c body ht ho hc hb => ⟨fun h => hrun (csrOrder_badBody ht ho hc hb h),
      fun h hp hr => hrun (csrOrder_plain ht ho hc hb h hp hr), fun h hp => ?_⟩⟩
    have hall := csrOrder_performs ht ho hc hb h hp
    exact ⟨hrun hall, fun far hf hn => ⟨fun h2 => hrun (hall.trans (csrRun_first_misaligned hf hn h2)),
      fun h0 h2 => hrun (hall.trans (csrRun_first_noWindow hf hn h0 h2)),
      fun h0 hk hw => hrun (hall.trans (csrRun_first_notWord hf hn h0 hk hw))⟩⟩

end Sys2Proof.Proofs

/-! SUPPORT. Management frames and the JTAG port (spec/13_management_and_dockets.md R353, R355 to R357, R359;
spec/26_electrical_and_thermal.md R604): who is handed a frame, what a keyed frame must pass, and the instructions of the port. -/

namespace Sys2Proof.Proofs
open Sys2Proof Sys2Proof.Machine Sys2Proof.Machine.Reg Sys2Proof.Laws

/-! ### A frame that is checked (R353) -/

section TakeFrame
variable {c : Chip} {path : MsgPath} {sess : Fin 4} {bytes : List Byte} {ks n : Nat} (hks : ks = rd bytes 5 1)
include hks

theorem takeFrame_plain (h : ks = plainSlot) :
    c.takeFrame path sess bytes = c.performFrame path (rd bytes 1 1) sess plainSlot (bytes.drop 16) := by
  have hp : rd bytes 5 1 = plainSlot := hks.symm.trans h
  simp only [Chip.takeFrame, Chip.checkFrame, hp, if_true]

theorem takeFrame_unusable (h : ks ≠ plainSlot) (hu : bytes.length < 32 ∨ c.on VLT_STAT_TAMPERED = true ∨ 127 < ks) :
    c.takeFrame path sess bytes = c.authDrop := by
  subst hks
  simp only [Chip.takeFrame, Chip.checkFrame, h, hu, if_false, if_true]

variable (hn : n = rd bytes 8 8) (h127 : ks ≤ 127) (ht : c.on VLT_STAT_TAMPERED = false) (hlen : 32 ≤ bytes.length)
  {u : Bool × Chip} {aad cipher nonce : List Byte} (hu : u = c.useKey ks useMgmt) (haad : aad = bytes.take 16)
  (hcipher : cipher = (bytes.drop 16).take (bytes.length - 32)) (hnonce : nonce = frameNonce (rd bytes 2 2) (rd bytes 4 1) 0 n)
include hn h127 ht hlen hu haad hcipher hnonce

/-- What a keyed frame's check answers, once its length and slot are in range: by the key, the tag and the counter. -/
theorem checkFrame_keyed : c.checkFrame bytes
    = if u.1 = false then (none, u.2.authDrop)
      else if padTo (Config.gcmTag (c.keyBytes ks) nonce aad cipher) 16 ≠ bytes.drop (bytes.length - 16) then (none, c.authDrop)
      else if n ≤ mget 0 c.mbx.rxCounter (rd bytes 4 1) then (none, u.2.replayDrop)
      else (some (padTo (Config.gcmPlain (c.keyBytes ks) nonce aad cipher) cipher.length),
        { u.2 with mbx := { u.2.mbx with rxCounter := mset 0 u.2.mbx.rxCounter (rd bytes 4 1) n } }) := by
  subst hks hn hu haad hcipher hnonce
  have hplain : rd bytes 5 1 ≠ plainSlot := fun e => absurd (e ▸ h127 : plainSlot ≤ 127) (by decide)
  have hin : ¬ (bytes.length < 32 ∨ c.on VLT_STAT_TAMPERED = true ∨ 127 < rd bytes 5 1) := by
    rintro (h | h | h)
    · omega
    · exact Bool.false_ne_true (ht.symm.trans h)
    · omega
  rw [Chip.checkFrame]
  exact (if_neg hplain).trans (if_neg hin)

theorem takeFrame_noKey (h : u.1 = false) : c.takeFrame path sess bytes = u.2.authDrop := by
  rw [Chip.takeFrame, checkFrame_keyed hks hn h127 ht hlen hu haad hcipher hnonce, if_pos h]

variable (h1 : u.1 = true)
include h1

theorem takeFrame_wrongTag (h : padTo (Config.gcmTag (c.keyBytes ks) nonce aad cipher) 16 ≠ bytes.drop (bytes.length - 16)) :
    c.takeFrame path sess bytes = c.authDrop := by
  rw [Chip.takeFrame, checkFrame_keyed hks hn h127 ht hlen hu haad hcipher hnonce, if_neg (by simp [h1]), if_pos h]

variable (htag : padTo (Config.gcmTag (c.keyBytes ks) nonce aad cipher) 16 = bytes.drop (bytes.length - 16))
include htag

theorem takeFrame_replayed (h : n ≤ mget 0 c.mbx.rxCounter (rd bytes 4 1)) : c.takeFrame path sess bytes = u.2.replayDrop := by
  rw [Chip.takeFrame, checkFrame_keyed hks hn h127 ht hlen hu haad hcipher hnonce, if_neg (by simp [h1]), if_neg (not_not.mpr htag),
    if_pos h]

theorem takeFrame_passes (h : mget 0 c.mbx.rxCounter (rd bytes 4 1) < n) : c.takeFrame path sess bytes
    = Chip.performFrame { u.2 with mbx := { u.2.mbx with rxCounter := mset 0 u.2.mbx.rxCounter (rd bytes 4 1) n } } path
        (rd bytes 1 1) sess ks (padTo (Config.gcmPlain (c.keyBytes ks) nonce aad cipher) cipher.length) := by
  rw [Chip.takeFrame, checkFrame_keyed hks hn h127 ht hlen hu haad hcipher hnonce, if_neg (by simp [h1]), if_neg (not_not.mpr htag),
    if_neg (by omega), hks]

end TakeFrame

/-! ### A frame on ETH0, D0 or JTAG (R353, R357) -/

/-- A frame's header: as Table 13.2 has it, and of a kind that a node takes. -/
def HeaderGood (bytes : List Byte) (sess : Fin 4) : Prop :=
  16 ≤ bytes.length ∧ rd bytes 0 1 = 1 ∧ (rd bytes 1 1 = 1 ∨ rd bytes 1 1 = 3 ∨ rd bytes 1 1 = 4) ∧ rd bytes 4 1 = sess ∧ rd bytes 6 2 = 0

section FrameIn
variable {c : Chip} {bytes : List Byte} {sess : Fin 4}

theorem frameIn_bad (h : bytes.length < 16 ∨ rd bytes 0 1 ≠ 1 ∨ rd bytes 6 2 ≠ 0) {path : MsgPath} (hp : path ≠ .jtag) :
    c.frameIn path bytes = c := by
  have hbad : c.absent = true ∨ bytes.length < 16 ∨ rd bytes 0 1 ≠ 1 ∨ (rd bytes 1 1 ≠ 1 ∧ rd bytes 1 1 ≠ 3 ∧ rd bytes 1 1 ≠ 4)
      ∨ sessionFits path (rd bytes 4 1) = false ∨ rd bytes 6 2 ≠ 0 := by tauto
  cases path
  case jtag => exact absurd rfl hp
  all_goals exact if_pos hbad

theorem sessFin (hs : rd bytes 4 1 = sess) (h : rd bytes 4 1 % 4 < 4) : (⟨rd bytes 4 1 % 4, h⟩ : Fin 4) = sess :=
  Fin.ext ((congrArg (· % 4) hs).trans (Nat.mod_eq_of_lt sess.isLt))

variable (ha : c.absent = false) (hg : HeaderGood bytes sess)
include ha hg

theorem header_passes {path : MsgPath} (hf : sessionFits path sess = true) :
    ¬ (c.absent = true ∨ bytes.length < 16 ∨ rd bytes 0 1 ≠ 1 ∨ (rd bytes 1 1 ≠ 1 ∧ rd bytes 1 1 ≠ 3 ∧ rd bytes 1 1 ≠ 4)
      ∨ sessionFits path (rd bytes 4 1) = false ∨ rd bytes 6 2 ≠ 0) := by
  obtain ⟨hlen, h0, hk, hs, h6⟩ := hg
  rw [ha, hs, hf, h0, h6]
  rintro (h | h | h | h | h | h)
  · exact Bool.noConfusion h
  · omega
  · exact h rfl
  · omega
  · exact Bool.noConfusion h
  · exact h rfl

section Eth
variable (hs : sess.val < 2) (src : BitVec 48)
include hs

/-- A frame on ETH0 whose header passes, by the head's duty and the node that it names. -/
theorem frameIn_eth0 : c.frameIn (.eth0 src) bytes
    = if c.headDuty = false then c
      else if rd bytes 2 2 = c.node then c.takeFrame (.eth0 src) sess bytes
      else if rd bytes 2 2 / 1024 = c.get BRD_STAT_ROW then
        (Chip.sendMsg { c with mbx := { c.mbx with
            relay := mset 0 c.mbx.relay (2 * (rd bytes 2 2 % 1024) + rd bytes 4 1) (src.toNat + 1) } }
          (rd bytes 2 2) (message 9 (rd bytes 4 1) bytes)).2
      else c.sendOnce (.eth0 src) (rd bytes 4 1) plainSlot (if rd bytes 5 1 = plainSlot then bytes.drop 16 else []) stRefused 0 := by
  have hpass := header_passes (path := .eth0 src) ha hg (decide_eq_true hs)
  obtain ⟨_, _, _, hsess, _⟩ := hg
  refine (if_neg hpass).trans ?_
  rw [sessFin hsess]

end Eth

theorem frameIn_dock (hs : sess.val = 2) (hn : rd bytes 2 2 = c.node ∨ c.get BRD_STAT_POS_VALID ≠ 1) :
    c.frameIn .dock bytes = c.takeFrame .dock sess bytes := by
  have hpass := header_passes (path := .dock) ha hg (decide_eq_true hs)
  obtain ⟨_, _, _, hsess, _⟩ := hg
  refine (if_neg hpass).trans ((if_neg (fun h => Bool.noConfusion h.1)).trans ?_)
  rw [sessFin hsess]
  exact if_neg (fun h => hn.elim h.1 (fun hv => hv h.2))

/-- A frame on JTAG is taken without its trailing bytes (R356). -/
theorem frameIn_jtag {raw : List Byte} (htrim : trimJtag raw = bytes) (hs : sess.val = 3)
    (hn : rd bytes 2 2 = c.node ∨ c.get BRD_STAT_POS_VALID ≠ 1) :
    c.frameIn .jtag raw = if rd bytes 5 1 = plainSlot then c.takeFrame .jtag sess bytes else c := by
  have hpass := header_passes (path := .jtag) ha hg (decide_eq_true hs)
  obtain ⟨_, _, _, hsess, _⟩ := hg
  subst htrim
  refine (if_neg hpass).trans ?_
  rw [sessFin hsess]
  by_cases hp : rd (trimJtag raw) 5 1 = plainSlot
  · rw [if_pos hp]
    exact (if_neg (fun h => h.2 hp)).trans (if_neg (fun h => hn.elim h.1 (fun hv => hv h.2)))
  · rw [if_neg hp]
    exact if_pos ⟨rfl, hp⟩

end FrameIn

theorem exec_managementFrame_dock (bytes : List Byte) (s : State) :
    exec (.managementFrame .dock bytes) s = s.onChip (fun c => c.frameIn .dock bytes) := rfl

theorem exec_managementFrame_jtag (bytes : List Byte) (s : State) :
    exec (.managementFrame .jtag bytes) s = s.onChip (fun c => c.frameIn .jtag bytes) := rfl

section OnEth
variable {s : State} {bytes : List Byte} {src : BitVec 48}

theorem exec_managementFrame_eth0 : exec (.managementFrame (.eth0 src) bytes) s = s.onChip (fun c =>
    if c.domainOn 11 = false ∨ c.get (ETH_STAT_LINK 0) = 0 then c else (c.inc (ETH_RX_OK 0)).frameIn (.eth0 src) bytes) := rfl

/-- On ETH0 a frame is counted where the port is on with its link up. -/
theorem exec_frameEth0 {d e : Chip} (hd : s.chip.domainOn 11 = true) (hl : s.chip.get (ETH_STAT_LINK 0) ≠ 0)
    (he : e = s.chip.inc (ETH_RX_OK 0)) (h : e.frameIn (.eth0 src) bytes = d) :
    exec (.managementFrame (.eth0 src) bytes) s = .next { s with chip := d } := by
  subst he
  exact exec_onChip exec_managementFrame_eth0 ((if_neg (by simp [hd, hl])).trans h)

theorem exec_frameEth0_down (h : s.chip.domainOn 11 = false ∨ s.chip.get (ETH_STAT_LINK 0) = 0) :
    exec (.managementFrame (.eth0 src) bytes) s = .next s :=
  exec_onChip_same exec_managementFrame_eth0 (if_pos h)

end OnEth

/-! ### A FRAME message (R357, R359) -/

section FrameMsg
variable {s c : Chip} {node : BitVec 16} {bytes : List Byte}

theorem frameMsg_noTunnel0 (h : s.noTunnel0 = true) : frameMsg node bytes s = s := if_pos h

variable (h0 : s.noTunnel0 = false) (hc : c = s.dropInbox node.toNat (message 9 (rd bytes 4 1) bytes))
include h0 hc

theorem frameMsg_source (h : c.frameSource node.toNat = false) : frameMsg node bytes s = c.srcDrop := by
  subst hc
  exact (if_neg (by simp [h0])).trans (if_pos h)

theorem frameMsg_answer {mac : Nat} (hk : rd bytes 1 1 = 2) (hm : mac = mget 0 c.mbx.relay (2 * (node.toNat % 1024) + rd bytes 4 1)) :
    frameMsg node bytes s = if c.frameSource node.toNat = false then c.srcDrop
      else if c.headDuty = false ∨ mac = 0 then c else c.sendEth (mac - 1) bytes := by
  subst hc hm
  refine (if_neg (by simp [h0])).trans ?_
  dsimp only
  rw [if_pos hk]

theorem frameMsg_taken {sess : Fin 4} (hg : HeaderGood bytes sess) (hk : rd bytes 1 1 ≠ 2) (h : c.frameSource node.toNat = true)
    (hs : sess.val < 2) (hn : rd bytes 2 2 = c.node) : frameMsg node bytes s = c.takeFrame (.relay node) sess bytes := by
  obtain ⟨hlen, hv, _, hsess, h6⟩ := hg
  subst hc
  rw [frameMsg, if_neg (by simp [h0]), if_neg (by simp [h]), if_neg hk, sessFin hsess]
  refine if_neg ?_
  rintro (h | h | h | h | h)
  · omega
  · exact h hv
  · omega
  · exact h hn
  · exact h h6

end FrameMsg

/-! ### The JTAG port (R356, R604) -/

theorem mboxOut_empty {c : Chip} (h : c.mbx.jtagOut = []) :
    mboxOut c = Chip.emit { c with mbx := { c.mbx with jtagIr := 11 } } (.jtag 0) := by
  simp only [mboxOut, h]

theorem mboxOut_word {c : Chip} {f : List Byte} {rest : List (List Byte)} (h : c.mbx.jtagOut = f :: rest) :
    mboxOut c = Chip.emit { c with mbx := { c.mbx with jtagIr := 11, jtagOut := if f.length ≤ 4 then rest else f.drop 4 :: rest } }
      (.jtag (rd f 0 4 + (if f.length ≤ 4 then 2 ^ 32 else 0) + 2 ^ 33)) := by
  by_cases hf : f.length ≤ 4
  · simp [mboxOut, h, hf, b2n]
  · simp [mboxOut, h, hf, b2n]

theorem exec_bypass {code : BitVec 4} {s : State}
    (h : ¬ (code.toNat = 0 ∨ code.toNat = 1 ∨ code.toNat = 2 ∨ code.toNat = 10 ∨ code.toNat = 11)) :
    exec (.bypass code) s = .next { s with chip := Chip.emit { s.chip with mbx := { s.chip.mbx with jtagIr := 15 } } (.jtag 0) } := by
  show execBypass code s = _
  simp only [execBypass, State.onChip, if_neg h]

/-- Settles O33: a frame by its path, its header and the node it names, a keyed one by its key, tag and counter, and each instruction of
the JTAG port by what it selects. -/
theorem framesCheckedAndJtag : Obligations.FramesCheckedAndJtag := by
  unfold Obligations.FramesCheckedAndJtag
  refine ⟨fun bytes node s ha => ⟨fun sess hlen h0 hk hsess h6 => ?good, fun h => ⟨fun src hd hl => ?badEth, ?badDock⟩,
      fun src h => exec_frameEth0_down h, fun h => exec_onChip_same rfl (frameMsg_noTunnel0 h),
      fun c mac h0 hc hk hm => exec_onChip rfl (frameMsg_answer h0 hc hk hm), fun c path sess ks n hks hn => ?checked⟩,
    fun value code s => ⟨rfl, rfl, fun h => exec_onChip rfl (mboxOut_empty h), fun f rest h => exec_onChip rfl (mboxOut_word h),
      ?idcode, fun k hk h => ?bypass, rfl, rfl⟩⟩
  case good =>
    have hg : HeaderGood bytes sess := ⟨hlen, h0, hk, hsess, h6⟩
    refine ⟨fun src e hs hd hl he => ?_, fun hs hn => exec_onChip (exec_managementFrame_dock _ _) (frameIn_dock ha hg hs hn),
      fun hs htrim hn => exec_onChip (exec_managementFrame_jtag _ _) (frameIn_jtag ha hg htrim hs hn),
      fun c h0 hc hk2 => ⟨fun h => exec_onChip rfl (frameMsg_source h0 hc h),
        fun h hs hn => exec_onChip rfl (frameMsg_taken h0 hc hg hk2 h hs hn)⟩⟩
    have hae : e.absent = false := by rw [he]; exact ha
    have hrun {d : Chip} := exec_frameEth0 (s := s) (bytes := bytes) (src := src) (d := d) hd hl he
    have heth := frameIn_eth0 hae hg hs src
    refine ⟨fun hduty => hrun (heth.trans (if_pos hduty)), fun hduty hn => hrun (heth.trans ?_),
      fun hduty hn hrow c hc => hrun (heth.trans ?_), fun hduty hn hrow => hrun (heth.trans ?_)⟩
    · rw [if_neg (by simp [hduty]), if_pos hn]
    · rw [if_neg (by simp [hduty]), if_neg hn, if_pos hrow, hc]
    · rw [if_neg (by simp [hduty]), if_neg hn, if_neg hrow]
  case badEth => exact exec_frameEth0 hd hl rfl (frameIn_bad h nofun)
  case badDock => exact exec_onChip_same (exec_managementFrame_dock _ _) (frameIn_bad h nofun)
  case checked =>
    refine ⟨takeFrame_plain hks, takeFrame_unusable hks, fun h127 ht hlen u aad cipher nonce hu haad hcipher hnonce => ?_⟩
    exact ⟨takeFrame_noKey hks hn h127 ht hlen hu haad hcipher hnonce, takeFrame_wrongTag hks hn h127 ht hlen hu haad hcipher hnonce,
      fun h1 htag => ⟨takeFrame_replayed hks hn h127 ht hlen hu haad hcipher hnonce h1 htag,
        takeFrame_passes hks hn h127 ht hlen hu haad hcipher hnonce h1 htag⟩⟩
  case idcode => exact ⟨(s.chip.fresh 11).1, _, rfl, rfl, rfl, List.getLast?_concat ..⟩
  case bypass =>
    subst hk
    exact exec_bypass (by tauto)

end Sys2Proof.Proofs

/-! SUPPORT. What cells, rings, the shutter and the channels leave alone: any part of the chip beside the registers, the switch, the
tunnels, the rings, the ends, the records, the spare rows, the channels, the field unit and the outbox. -/

namespace Sys2Proof.Proofs
open Sys2Proof Sys2Proof.Machine Sys2Proof.Machine.Reg Sys2Proof.Laws

/-- A part of the chip that lies beside what cells and the shutter reach. -/
structure Beside {γ : Type} (g : Chip → γ) : Prop where
  csr : ∀ (c : Chip) x, g { c with csr := x } = g c
  sw : ∀ (c : Chip) x, g { c with sw := x } = g c
  cores : ∀ (c : Chip) x, g { c with cores := x } = g c
  ends : ∀ (c : Chip) x, g { c with ends := x } = g c
  log : ∀ (c : Chip) x, g { c with log := x } = g c
  hvi : ∀ (c : Chip) x, g { c with hvi := x } = g c
  field : ∀ (c : Chip) x, g { c with field := x } = g c
  outbox : ∀ (c : Chip) x, g { c with outbox := x } = g c

theorem beside_upd : Beside Chip.upd := ⟨fun _ _ => rfl, fun _ _ => rfl, fun _ _ => rfl, fun _ _ => rfl, fun _ _ => rfl, fun _ _ => rfl,
  fun _ _ => rfl, fun _ _ => rfl⟩

theorem beside_boot : Beside Chip.boot := ⟨fun _ _ => rfl, fun _ _ => rfl, fun _ _ => rfl, fun _ _ => rfl, fun _ _ => rfl, fun _ _ => rfl,
  fun _ _ => rfl, fun _ _ => rfl⟩

section Beside
variable {γ : Type} {g : Chip → γ} (hg : Beside g)
include hg

/-! ### Registers and events -/

theorem put_beside (c : Chip) (f : Fld) (v : Nat) : g (c.put f v) = g c := hg.csr _ _

theorem emit_beside (c : Chip) (o : Out) : g (c.emit o) = g c := hg.outbox _ _

theorem logEntry_beside (c : Chip) (src code inst d0 d1 : Nat) : g (c.logEntry src code inst d0 d1) = g c := by
  obtain ⟨csr, log, e⟩ := logEntry_frame c src code inst d0 d1
  rw [e]
  exact (hg.log { c with csr := csr } log).trans (hg.csr _ _)

theorem evtDetail_beside (c : Chip) (f : Fld) (i d0 d1 : Nat) : g (c.evtDetail f i d0 d1) = g c :=
  (logEntry_beside hg _ _ _ _ _ _).trans ((hg.log _ _).trans (put_beside hg _ _ _))

theorem evtBit_beside (c : Chip) (f : Fld) (i : Nat) : g (c.evtBit f i) = g c := evtDetail_beside hg _ _ _ _ _

theorem evt_beside (c : Chip) (f : Fld) : g (c.evt f) = g c := evtBit_beside hg _ _ _

theorem inc_beside (c : Chip) (f : Fld) : g (c.inc f) = g c := put_beside hg _ _ _

theorem addSat_beside (c : Chip) (f : Fld) (n : Nat) : g (c.addSat f n) = g c := put_beside hg _ _ _

theorem setBitOf_beside (c : Chip) (f : Fld) (i : Nat) : g (c.setBitOf f i) = g c := put_beside hg _ _ _

theorem live_beside (c : Chip) (cause : Nat) (b : Bool) : g (c.live cause b) = g c := by
  cases b <;> exact put_beside hg _ _ _

/-! ### The switch -/

theorem setBlock_beside (c : Chip) (b : Nat) (x : Block) : g (c.setBlock b x) = g c := hg.sw _ _

theorem setQueue_beside (c : Chip) (p q : Nat) (l : List Desc) : g (c.setQueue p q l) = g c := hg.sw _ _

theorem setFull_beside (c : Chip) (p : Nat) (b : Bool) : g (c.setFull p b) = g c := hg.sw _ _

theorem mirror_beside (c : Chip) (b : Nat) (pt : Nat × Bool) : g (c.mirror b pt) = g c := by
  unfold Chip.mirror
  split
  · rfl
  · split
    · rw [evt_beside hg, inc_beside hg]
    · exact (setQueue_beside hg _ _ _ _).trans (setBlock_beside hg _ _ _)

theorem mirrorEnd_beside (c : Chip) (b ing : Nat) : g (c.mirrorEnd b ing) = g c := by
  unfold Chip.mirrorEnd
  split
  · exact mirror_beside hg _ _ _
  · rfl

theorem mirrorOut_beside (c : Chip) (b p : Nat) : g (c.mirrorOut b p) = g c := by
  unfold Chip.mirrorOut
  split
  · exact mirror_beside hg _ _ _
  · rfl

theorem enqueue_beside (c : Chip) (b p q : Nat) (use : DescUse) : g (c.enqueue b p q use) = g c :=
  (mirrorOut_beside hg _ _ _).trans ((setQueue_beside hg _ _ _ _).trans (setBlock_beside hg _ _ _))

theorem tidyBlock_beside (c : Chip) (b : Nat) : g (c.tidyBlock b) = g c := by
  unfold Chip.tidyBlock
  dsimp only
  split
  · exact setBlock_beside hg _ _ _
  · rfl

theorem dropRef_beside (c : Chip) (b : Nat) : g (c.dropRef b) = g c := (tidyBlock_beside hg _ _).trans (setBlock_beside hg _ _ _)

theorem dropDesc_beside (c : Chip) (d : Desc) : g (c.dropDesc d) = g c := by
  unfold Chip.dropDesc
  dsimp only
  rw [dropRef_beside hg]
  split
  · exact setBlock_beside hg _ _ _
  · rfl

theorem store_beside {c d : Chip} {ing vc b refs : Nat} {cell : Cell} {keep : Bool} {ch : Charge}
    (h : c.store ing vc cell keep ch refs = some (b, d)) : g d = g c := by
  unfold Chip.store at h
  dsimp only at h
  split at h
  · exact nomatch h
  · cases h
    exact setBlock_beside hg _ _ _

theorem placeLocal_beside (c : Chip) (ing p : Nat) (cell : Cell) (use : DescUse) : g (c.placeLocal ing p cell use).chip = g c := by
  have hin : g (c.countIn ing) = g c := hg.log _ _
  unfold Chip.placeLocal
  dsimp only
  split
  · exact hin
  · split
    · exact (inc_beside hg _ _).trans ((setFull_beside hg _ _ _).trans hin)
    · exact (setFull_beside hg _ _ _).trans hin
    · split
      · exact (setFull_beside hg _ _ _).trans hin
      · next hs =>
        exact (enqueue_beside hg _ _ _ _ _).trans ((mirrorEnd_beside hg _ _ _).trans ((setFull_beside hg _ _ _).trans
          ((store_beside hg hs).trans hin)))

/-! ### The scheduler's choice at a local port -/

theorem drr_beside (c : Chip) (p : Nat) (ok : Nat → Bool) (cost : Nat → Nat) (moves fuel : Nat) : g (c.drr p ok cost moves fuel).2 = g c := by
  induction fuel generalizing c moves with
  | zero => rfl
  | succ n ih =>
    rw [Chip.drr]
    split
    · rfl
    · dsimp only
      split
      · exact hg.sw _ _
      · split
        · exact (ih _ _).trans (hg.sw _ _)
        · exact (ih _ _).trans (hg.sw _ _)

theorem select_beside (c : Chip) (p : Nat) (ok : Nat → Bool) (cost : Nat → Nat) : g (c.select p ok cost).2 = g c := by
  unfold Chip.select
  dsimp only
  split
  · exact hg.sw _ _
  · split
    · exact hg.sw _ _
    · exact drr_beside hg _ _ _ _ _ _

theorem serve_beside (c : Chip) (p q cost : Nat) : g (c.serve p q cost).2 = g c := by
  unfold Chip.serve
  split
  · rfl
  · dsimp only
    have hs (d : Chip) (b : Prop) [Decidable b] (x : Switch) (h : g d = g c) : g (if b then d.setSw x else d) = g c := by
      split
      · exact (hg.sw _ _).trans h
      · exact h
    refine hs _ _ _ ?_
    split
    · exact setQueue_beside hg _ _ _ _
    · exact (hg.sw _ _).trans (setQueue_beside hg _ _ _ _)

theorem takeLocal_beside {c d : Chip} {p : Nat} {want : Desc → Bool} {x : Desc} (h : c.takeLocal p want = some (x, d)) : g d = g c := by
  unfold Chip.takeLocal at h
  dsimp only at h
  split at h
  · exact nomatch h
  · split at h
    · exact nomatch h
    · split at h
      · cases h
        exact (hg.log _ _).trans ((serve_beside hg _ _ _ _).trans (select_beside hg _ _ _ _))
      · exact nomatch h

/-! ### Lost cells -/

theorem requeue_beside (c : Chip) (b : Nat) : g (c.requeue b) = g c := by
  unfold Chip.requeue
  dsimp only
  split
  · exact (evt_beside hg _ _).trans (inc_beside hg _ _)
  · rfl
  · split
    · rfl
    · exact enqueue_beside hg _ _ _ _ _

theorem resendRun_beside (c : Chip) (t first count : Nat) (tally : Bool) : g (c.resendRun t first count tally) = g c := by
  unfold Chip.resendRun
  dsimp only
  have hrun := foldl_keeps g (fun (c : Chip) (e : Nat × Nat) => c.requeue e.2)
    ((c.tun t).copies.filter (fun e => decide (seqSub e.1 first < count))) c (fun _ _ => requeue_beside hg _ _)
  split
  · exact (addSat_beside hg _ _ _).trans hrun
  · exact hrun

theorem resendFlushed_beside (c : Chip) (t first count : Nat) : g (c.resendFlushed t first count) = g c := by
  unfold Chip.resendFlushed
  dsimp only
  split
  · exact (evt_beside hg _ _).trans (resendRun_beside hg _ _ _ _ _)
  · rfl

theorem flushRecord_beside (c : Chip) (r : FlushRecord) : g (c.flushRecord r) = g c := by
  unfold Chip.flushRecord
  split
  · exact addSat_beside hg _ _ _
  · split
    · rfl
    · split
      · exact foldl_keeps g _ _ _ (fun _ _ => resendFlushed_beside hg _ _ _ _)
      · exact resendFlushed_beside hg _ _ _ _

theorem descsLost_beside (c : Chip) (l : List Desc) (port : Nat) : g (c.descsLost l port) = g c :=
  (foldl_keeps g _ _ _ (fun _ _ => flushRecord_beside hg _ _)).trans (addSat_beside hg _ _ _)

theorem countUncorr_beside (c : Chip) (b word : Nat) : g (c.countUncorr b word) = g c :=
  (evt_beside hg _ _).trans ((put_beside hg _ _ _).trans ((put_beside hg _ _ _).trans (inc_beside hg _ _)))

/-- A cell that is read with no word in error. -/
theorem readBlock_beside (c : Chip) (d : Desc) (port : Nat) : g (c.readBlock d port .clean).2 = g c := by
  unfold Chip.readBlock
  split
  · next h => exact nomatch h
  · exact (descsLost_beside hg _ _ _).trans (countUncorr_beside hg _ _ _)
  · next h _ => exact nomatch h
  · rfl

/-! ### Rings -/

theorem refill_beside (c : Chip) (r : Nat) : g (c.refill r) = g c := by
  unfold Chip.refill
  dsimp only
  split
  · rfl
  · rw [foldl_keeps g]
    · exact hg.cores _ _
    · intro c e
      split
      · exact dropRef_beside hg _ _
      · rfl

theorem toRing_beside (c : Chip) (r : Nat) (cell : Cell) (gap : Nat) (blk : Option Nat) : g (c.toRing r cell gap blk) = g c :=
  (refill_beside hg _ _).trans (hg.cores _ _)

theorem ringCell_beside (c : Chip) (d : Desc) (p : Nat) : g (c.ringCell d p) = g c := by
  unfold Chip.ringCell
  split
  · dsimp only
    split
    · exact (toRing_beside hg _ _ _ _ _).trans (readBlock_beside hg _ _ _)
    · exact (dropDesc_beside hg _ _).trans (readBlock_beside hg _ _ _)
  · exact dropDesc_beside hg _ _

theorem pumpPort_beside (p fuel : Nat) (c : Chip) : g (c.pumpPort p fuel) = g c := by
  induction fuel generalizing c with
  | zero => rfl
  | succ n ih =>
    rw [Chip.pumpPort]
    split
    · rfl
    · next ht => exact (ih _).trans ((ringCell_beside hg _ _ _).trans (takeLocal_beside hg ht))

theorem pumpClusters_beside (c : Chip) : g c.pumpClusters = g c := (pumpPort_beside hg _ _ _).trans (pumpPort_beside hg _ _ _)

theorem tryRing_beside (c : Chip) (ing r : Nat) (cell : Cell) : g (c.tryRing ing r cell).2 = g c := by
  unfold Chip.tryRing
  split
  · rfl
  · dsimp only
    split
    · exact hg.sw _ _
    · exact (pumpClusters_beside hg _).trans (placeLocal_beside hg _ _ _ _ _)

theorem endToRing_beside (c : Chip) (ing r : Nat) (cell : Cell) : g (c.endToRing ing r cell) = g c := by
  unfold Chip.endToRing
  dsimp only
  split
  · exact hg.ends _ _
  · split
    · exact tryRing_beside hg _ _ _ _
    · exact (evt_beside hg _ _).trans ((hg.ends _ _).trans (tryRing_beside hg _ _ _ _))

/-! ### The USB host's pipes -/

theorem setPipe_beside (c : Chip) (k : Nat) (x : UsbPipe) : g (c.setPipe k x) = g c := hg.ends _ _

theorem usbReturn_beside (c : Chip) (k : Nat) (cell : Cell) : g (c.usbReturn k cell) = g c := endToRing_beside hg _ _ _ _

theorem returnData_beside (c : Chip) (k : Nat) (got : List Byte) : g (c.returnData k got) = g c :=
  foldl_keeps g _ _ _ (fun _ _ => usbReturn_beside hg _ _ _)

theorem endTransferOf_beside (c : Chip) (k status : Nat) : g (c.endTransferOf k status) = g c := by
  unfold Chip.endTransferOf
  dsimp only
  split
  · rfl
  · exact (usbReturn_beside hg _ _ _).trans ((returnData_beside hg _ _ _).trans (setPipe_beside hg _ _ _))

theorem settlePipe_beside (k fuel : Nat) (c : Chip) : g (c.settlePipe k fuel) = g c := by
  induction fuel generalizing c with
  | zero => rfl
  | succ n ih =>
    rw [Chip.settlePipe]
    split
    · rfl
    · split
      · exact (ih _).trans (endTransferOf_beside hg _ _ _)
      · split
        · exact (ih _).trans ((inc_beside hg _ _).trans (endTransferOf_beside hg _ _ _))
        · split
          · exact (ih _).trans (endTransferOf_beside hg _ _ _)
          · rfl

theorem usbPortDown_beside (c : Chip) (port : Nat) : g (c.usbPortDown port) = g c := by
  refine (foldl_keeps g _ _ _ (fun d k => ?_)).trans (put_beside hg _ _ _)
  split
  · exact settlePipe_beside hg _ _ _
  · rfl

theorem upwrLost_beside (c : Chip) : g c.upwrLost = g c := by
  unfold Chip.upwrLost
  split
  · rfl
  · exact (evt_beside hg _ _).trans (foldl_keeps g _ _ _ (fun _ _ => usbPortDown_beside hg _ _))

/-! ### Channels, outputs and the shutter -/

theorem openChannel_beside (c : Chip) (k st : Nat) : g (c.openChannel k st) = g c := by
  have hputs : g (((c.put (HVI_CH_STAT_STATE k) st).put (HVI_CH_STAT_PG k) 0).put (HVI_CH_STAT_FAULT_TMR k) 0) = g c := by
    rw [put_beside hg, put_beside hg, put_beside hg]
  have hon (d : Chip) : g (if st = 3 then d else d.put (HVI_CH_CTL_ON k) 0) = g d := by
    split
    · rfl
    · exact put_beside hg _ _ _
  unfold Chip.openChannel
  dsimp only
  split
  · split
    · exact (upwrLost_beside hg _).trans ((evtBit_beside hg _ _ _).trans ((hg.hvi _ _).trans ((hon _).trans hputs)))
    · exact (evtBit_beside hg _ _ _).trans ((hg.hvi _ _).trans ((hon _).trans hputs))
  · exact (hg.hvi _ _).trans ((hon _).trans hputs)

theorem lockPower_beside (c : Chip) : g c.lockPower = g c := by
  refine foldl_keeps g _ _ _ (fun d k => ?_)
  split
  · exact openChannel_beside hg _ _ _
  · rfl

theorem driveOut_beside (c : Chip) (i : Nat) (b : Bool) : g (c.driveOut i b) = g c := by
  unfold Chip.driveOut
  split
  · rfl
  · exact (emit_beside hg _ _).trans (put_beside hg _ _ _)

theorem driveAll_beside (c : Chip) (p : Nat) : g (c.driveAll p) = g c := foldl_keeps g _ _ _ (fun _ _ => driveOut_beside hg _ _ _)

theorem shutter_beside (c : Chip) (cause : Nat) : g (c.shutter cause) = g c := by
  have hcause : g (c.setBitOf FLD_SHUT_CAUSE_CAUSE cause) = g c := setBitOf_beside hg _ _ _
  have hevt (d : Chip) (n : Nat) : g (if n = 0 then d else d.evt FLD_EVT_EVQ_DISCARD) = g d := by
    split
    · rfl
    · exact evt_beside hg _ _
  unfold Chip.shutter
  dsimp only
  split
  · exact hcause
  · rw [evtDetail_beside hg, put_beside hg, put_beside hg, inc_beside hg, put_beside hg, hevt, addSat_beside hg]
    refine (hg.field _ _).trans ?_
    rw [lockPower_beside hg, emit_beside hg, driveAll_beside hg, put_beside hg, hcause]

theorem ownerToLodge_beside (c : Chip) : g c.ownerToLodge = g c := by
  unfold Chip.ownerToLodge
  split
  · rfl
  · refine (evt_beside hg _ _).trans ((foldl_keeps g _ _ _ (fun d k => ?_)).trans (put_beside hg _ _ _))
    split
    · exact openChannel_beside hg _ _ _
    · rfl

end Beside

end Sys2Proof.Proofs

/-! SUPPORT. Resets (spec/14_clocks_reset_boot.md R380 to R386; spec/21_vault.md R525; spec/24_tinker_and_records.md R564): what a cold
reset and a node reset leave of the chip and of the addressed memories. -/

namespace Sys2Proof.Proofs
open Sys2Proof Sys2Proof.Machine Sys2Proof.Machine.Reg Sys2Proof.Laws

/-! ### What the domains lose -/

/-- The pins that follow the registers change nothing but the outbox. -/
theorem pins_frame (old new : Chip) : ∃ outbox, old.pins new = { new with outbox := outbox } := by
  unfold Chip.pins
  dsimp only
  split <;> split <;> exact ⟨_, rfl⟩

theorem get_pins (old new : Chip) (f : Fld) : (old.pins new).get f = new.get f := by
  obtain ⟨outbox, h⟩ := pins_frame old new
  rw [h]
  rfl

/-- A fold of steps that change registers alone. -/
theorem foldl_csr {β : Type} (f : Chip → β → Chip) (hf : ∀ c b, ∃ csr, f c b = { c with csr := csr }) (l : List β) (c : Chip) :
    ∃ csr, l.foldl f c = { c with csr := csr } := by
  induction l generalizing c with
  | nil => exact ⟨c.csr, rfl⟩
  | cons b r ih =>
    obtain ⟨x, hx⟩ := hf c b
    obtain ⟨y, hy⟩ := ih (f c b)
    exact ⟨y, by rw [List.foldl_cons, hy, hx]⟩

theorem freeRows_frame (c : Chip) (mask : Nat) : ∃ csr rep, c.freeRows mask = { c with csr := csr, rep := rep } := by
  unfold Chip.freeRows
  dsimp only
  obtain ⟨csr, h⟩ := foldl_csr (fun (s : Chip) (m : Nat) =>
    let n := ((s.rep.used.filter (fun e => decide (e.1 / 128 / 32 = m))).map (·.2)).foldl (· + ·) 0
    (s.put (REP_SPARE_ROWS_USED m) n).put (REP_SPARE_ROWS_FREE m) (spareRowsTotal m - n)) (fun _ _ => ⟨_, rfl⟩) (List.range 6) _
  exact ⟨csr, _, h⟩

theorem loadFuses_frame (c : Chip) (mask : Nat) : ∃ csr, c.loadFuses mask = { c with csr := csr } := by
  unfold Chip.loadFuses
  split
  · exact ⟨c.csr, rfl⟩
  · refine foldl_csr _ (fun d e => ?_) _ _
    split
    · split
      · exact ⟨_, rfl⟩
      · exact ⟨d.csr, rfl⟩
    · exact ⟨d.csr, rfl⟩

theorem resetRegs_frame (c : Chip) (mask : Nat) :
    ∃ csr locks latches, c.resetRegs mask = { c with csr := csr, locks := locks, latches := latches } := by
  obtain ⟨csr, h⟩ := loadFuses_frame { c with
    csr := c.csr.filter (fun e => !bit mask (domainOf (e.1 / 32)))
    locks := c.locks.filter (fun e => !bit mask (domainOf (e.1 / 32)))
    latches := c.latches.filter (fun e => !bit mask (domainOf e.1)) } mask
  exact ⟨csr, _, _, h⟩

/-- What a reset of every domain but PD-LODGE makes of the parts that no domain's registers hold. -/
structure DomainsGone (c d : Chip) : Prop where
  sw : d.sw = {}
  tuns : d.tuns = []
  mbx : d.mbx = {}
  rings : d.cores.rings = []
  tags : d.cores.tags = []
  porter : d.boot.porter = false
  dirA : d.upd.dirA = c.upd.dirA
  dirB : d.upd.dirB = c.upd.dirB

theorem domainsGone_resetDomains (c : Chip) : DomainsGone c (c.resetDomains 0xFFFE) := by
  obtain ⟨csr, locks, latches, hregs⟩ := resetRegs_frame c 0xFFFE
  obtain ⟨csr', rep, hrows⟩ := freeRows_frame (Chip.resetEnds { (TPort.list.foldl (fun (s : Chip) p =>
    if bit 0xFFFE (4 + p.num) then s.resetTrunk p else s) ((c.resetRegs 0xFFFE).resetCores 0xFFFE).resetFabric).resetPorter.resetSteward.resetField
      with vault := {} } 0xFFFE) 0xFFFE
  have hall : c.resetDomains 0xFFFE = _ := hrows
  rw [hall, hregs]
  exact ⟨rfl, rfl, rfl, rfl, rfl, rfl, rfl, rfl⟩

/-! ### A node reset -/

/-- The chip of a node reset in which the domains have been reset. -/
def domainsReset (c : Chip) : Chip := (c.shutter causeReset).ownerToLodge.settleRes.resetDomains 0xFFFE

theorem domainsGone_domainsReset (c : Chip) : DomainsGone c (domainsReset c) := by
  have hupd : (c.shutter causeReset).ownerToLodge.settleRes.upd = c.upd :=
    (ownerToLodge_beside beside_upd _).trans (shutter_beside beside_upd _ _)
  obtain ⟨hsw, htuns, hmbx, hrings, htags, hporter, hA, hB⟩ := domainsGone_resetDomains (c.shutter causeReset).ownerToLodge.settleRes
  exact ⟨hsw, htuns, hmbx, hrings, htags, hporter, hA.trans (congrArg Updates.dirA hupd), hB.trans (congrArg Updates.dirB hupd)⟩

/-- The chip of a node reset once its domains have been reset, before the log's entry for a node that leaves TEST. -/
def resetRecorded (c d : Chip) (kind : Nat) : Chip :=
  let s := (d.put VLT_TAMPER_ACTIVE (c.get VLT_TAMPER_ACTIVE)).put VLT_STAT_TAMPERED (b2n (c.on VLT_STAT_TAMPERED && c.tampering))
  let s := { s with
    boot := { held := s.boot.held, clockFail := s.boot.clockFail, hid := s.boot.hid, fuses := s.boot.fuses }
    power := { s.power with gate := 0, seq := none } }
  let s := ((s.put PWR_STAT_STATE 0).put PWR_STAT_BUSY 0).put PWR_STAT_DOM_ON (if s.get CLK_BOOT_FAIL = 1 then 1 else 0xFFFF)
  let s := (s.put CLK_BOOT_STEP 1).put GLB_STANCE_STANCE 0
  let s := s.put GLB_LIKENESS_CLASS (s.get (REP_LIKE_CAP_CLASS 0))
  ((s.put CLK_RST_CAUSE_KIND kind).inc CLK_RESET_CNT).live causeTime true

theorem nodeReset_eq (c : Chip) (kind : Nat) : c.nodeReset kind
    = if c.get GLB_STANCE_STANCE = 1 then (resetRecorded c (domainsReset c) kind).logEntry 0x17 1 0 (c.get TNK_STAT_SLOT) 3
      else resetRecorded c (domainsReset c) kind :=
  rfl

theorem domainsGone_log {c d : Chip} (h : DomainsGone c d) (src code inst d0 d1 : Nat) : DomainsGone c (d.logEntry src code inst d0 d1) := by
  obtain ⟨hsw, htuns, hmbx, hrings, htags, hporter, hA, hB⟩ := h
  exact ⟨(logEntry_sw ..).trans hsw, (logEntry_tuns ..).trans htuns, (logEntry_mbx ..).trans hmbx,
    (congrArg Cores.rings (logEntry_cores ..)).trans hrings, (congrArg Cores.tags (logEntry_cores ..)).trans htags,
    (congrArg Boot.porter (logEntry_boot ..)).trans hporter, (congrArg Updates.dirA (logEntry_upd ..)).trans hA,
    (congrArg Updates.dirB (logEntry_upd ..)).trans hB⟩

theorem domainsGone_resetRecorded {c e : Chip} (h : DomainsGone c e) (d : Chip) (kind : Nat) : DomainsGone c (resetRecorded d e kind) := by
  obtain ⟨hsw, htuns, hmbx, hrings, htags, -, hA, hB⟩ := h
  exact ⟨hsw, htuns, hmbx, hrings, htags, rfl, hA, hB⟩

theorem domainsGone_nodeReset (c : Chip) (kind : Nat) : DomainsGone c (c.nodeReset kind) := by
  have h := domainsGone_resetRecorded (domainsGone_domainsReset c) c kind
  rw [nodeReset_eq]
  split
  · exact domainsGone_log h _ _ _ _ _
  · exact h

theorem get_nodeReset {c : Chip} {kind : Nat} {f : Fld} (h : f.key / 2 ^ 21 ≠ 0x18) :
    (c.nodeReset kind).get f = (resetRecorded c (domainsReset c) kind).get f := by
  rw [nodeReset_eq]
  split
  · exact get_logEntry _ _ _ _ _ _ _ h
  · rfl

/-- What a node reset records in the registers of PD-LODGE. -/
structure ResetShown (c : Chip) (kind : Nat) : Prop where
  kind : c.get CLK_RST_CAUSE_KIND = kind % 8
  step : c.get CLK_BOOT_STEP = 1
  domOn : c.get PWR_STAT_DOM_ON = if c.get CLK_BOOT_FAIL = 1 then 1 else 0xFFFF
  state : c.get PWR_STAT_STATE = 0
  stance : c.get GLB_STANCE_STANCE = 0

theorem resetShown_resetRecorded (c d : Chip) (kind : Nat) : ResetShown (resetRecorded c d kind) kind := by
  have hboot (s : Chip) (boot : Boot) (power : Power) (f : Fld) : Chip.get { s with boot := boot, power := power } f = s.get f := rfl
  constructor
  case domOn =>
    simp (disch := decide) only [resetRecorded, get_live, get_put_other, get_put_same, get_inc_other, hboot]
    split <;> rfl
  all_goals
    simp (disch := decide) only [resetRecorded, get_live, get_put_other, get_put_same, get_inc_other]
    rfl

theorem resetShown_nodeReset (c : Chip) (kind : Nat) : ResetShown (c.nodeReset kind) kind := by
  obtain ⟨hkind, hstep, hdom, hstate, hstance⟩ := resetShown_resetRecorded c (domainsReset c) kind
  refine ⟨?_, ?_, ?_, ?_, ?_⟩ <;> rw [get_nodeReset (by decide)]
  · exact hkind
  · exact hstep
  · rw [get_nodeReset (by decide)]
    exact hdom
  · exact hstate
  · exact hstance

/-! ### After the reset: the pins, the straps, the hold -/

theorem domainsGone_pins {c d : Chip} (h : DomainsGone c d) (old : Chip) : DomainsGone c (old.pins d) := by
  obtain ⟨outbox, e⟩ := pins_frame old d
  obtain ⟨hsw, htuns, hmbx, hrings, htags, hporter, hA, hB⟩ := h
  rw [e]
  exact ⟨hsw, htuns, hmbx, hrings, htags, hporter, hA, hB⟩

theorem domainsGone_straps {c d : Chip} (h : DomainsGone c d) (straps : Nat) : DomainsGone c (d.sampleStraps straps) := by
  obtain ⟨hsw, htuns, hmbx, hrings, htags, hporter, hA, hB⟩ := h
  exact ⟨hsw, htuns, hmbx, hrings, htags, hporter, hA, hB⟩

theorem resetShown_pins {d : Chip} {kind : Nat} (h : ResetShown d kind) (old : Chip) : ResetShown (old.pins d) kind := by
  obtain ⟨hkind, hstep, hdom, hstate, hstance⟩ := h
  constructor <;> rw [get_pins]
  case domOn => rwa [get_pins]
  all_goals assumption

theorem resetShown_straps {d : Chip} {kind : Nat} (h : ResetShown d kind) (straps : Nat) : ResetShown (d.sampleStraps straps) kind := by
  obtain ⟨hkind, hstep, hdom, hstate, hstance⟩ := h
  constructor <;> simp (disch := decide) only [Chip.sampleStraps, get_put_other, hkind, hstep, hdom, hstate, hstance]

theorem get_straps (d : Chip) (straps : BitVec 3) : (d.sampleStraps straps.toNat).get CLK_STRAP_ROWHEAD = straps.toNat % 2
    ∧ (d.sampleStraps straps.toNat).get CLK_STRAP_BOOTMODE = straps.toNat / 2 := by
  have hlt := straps.isLt
  constructor
  · simp (disch := decide) only [Chip.sampleStraps, get_put_other, get_put_same]
    exact Nat.mod_mod _ _
  · rw [Chip.sampleStraps, get_put_same]
    exact Nat.mod_eq_of_lt (show straps.toNat / 2 < 4 by omega)

/-! ### The addressed memories -/

/-- Clearing stretches that lie below an address leaves its byte. -/
theorem byte_clears_above {l : List (Nat × Nat)} {m : Memory} {a : Nat} (hm : Memory.wf m = true) (hl : ∀ r ∈ l, r.2 ≤ a) :
    Memory.byte (l.foldl (fun (m : Memory) r => Memory.clear m r.1 r.2) m) a = Memory.byte m a := by
  induction l generalizing m with
  | nil => rfl
  | cons r l ih =>
    have hr : r.2 ≤ a := hl r List.mem_cons_self
    rw [List.foldl_cons, ih (wf_clear _ _ hm) (fun x hx => hl x (List.mem_cons_of_mem _ hx)), byte_clear _ _ _ hm, if_neg (by omega)]

/-- The memories of the domains lie below the staging region. -/
theorem domainMemory_below {d : Nat} (hd : d ∈ domainsOf 0xFFFE) : ∀ r ∈ domainMemory d, r.2 ≤ stagingBase := by
  revert d
  decide

theorem byte_clears_domains {ds : List Nat} {m : Memory} {a : Nat} (hm : Memory.wf m = true)
    (hds : ∀ d ∈ ds, ∀ r ∈ domainMemory d, r.2 ≤ a) :
    Memory.byte (ds.foldl (fun (m : Memory) d => (domainMemory d).foldl (fun (m : Memory) r => Memory.clear m r.1 r.2) m) m) a
      = Memory.byte m a := by
  induction ds generalizing m with
  | nil => rfl
  | cons d l ih =>
    rw [List.foldl_cons, ih (wf_foldl_clear _ _ hm) (fun x hx => hds x (List.mem_cons_of_mem _ hx)),
      byte_clears_above hm (hds d List.mem_cons_self)]

theorem byte_clearDomains {s : State} {mask a : Nat} (hm : s.MemOk) (hds : ∀ d ∈ domainsOf mask, ∀ r ∈ domainMemory d, r.2 ≤ a) :
    Memory.byte (s.clearDomains mask).mem a = Memory.byte s.mem a := byte_clears_domains hm hds

/-- What a node reset of a kind leaves of a state. -/
structure NodeReset (s t : State) (kind : Nat) : Prop where
  gone : DomainsGone s.chip t.chip
  shown : ResetShown t.chip kind
  kept : s.MemOk → ∀ a, stagingBase ≤ a → Memory.byte t.mem a = Memory.byte s.mem a

theorem nodeReset_leaves (s : State) (kind : Nat) : NodeReset s (s.nodeReset kind) kind :=
  ⟨domainsGone_pins (domainsGone_nodeReset _ _) _, resetShown_pins (resetShown_nodeReset _ _) _, fun hm _ ha =>
    byte_clearDomains (s := s.withChip fun c => c.pins (c.nodeReset kind)) hm
      (fun _ hd r hr => (domainMemory_below hd r hr).trans ha)⟩

theorem nodeReset_straps {s t : State} {kind : Nat} (h : NodeReset s t kind) (straps : Nat) :
    NodeReset s (t.withChip fun c => c.sampleStraps straps) kind := by
  obtain ⟨hgone, hshown, hkept⟩ := h
  exact ⟨domainsGone_straps hgone _, resetShown_straps hshown _, hkept⟩

theorem nodeReset_held {s t : State} {kind : Nat} (h : NodeReset s t kind) (b : Bool) :
    NodeReset s (t.withChip fun c => { c with boot := { c.boot with held := b } }) kind := by
  obtain ⟨⟨hsw, htuns, hmbx, hrings, htags, hporter, hA, hB⟩, ⟨hkind, hstep, hdom, hstate, hstance⟩, hkept⟩ := h
  exact ⟨⟨hsw, htuns, hmbx, hrings, htags, hporter, hA, hB⟩, ⟨hkind, hstep, hdom, hstate, hstance⟩, hkept⟩

/-! ### RESET_N -/

theorem exec_resetNAsserted_held {s : State} (h : s.chip.boot.held = true) : exec .resetNAsserted s = .next s :=
  congrArg Host.Outcome.next (if_pos h)

theorem exec_resetNAsserted {s : State} (h : s.chip.boot.held = false) : exec .resetNAsserted s
    = .next ((s.nodeReset kindResetN).withChip fun c => { c with boot := { c.boot with held := true } }) :=
  congrArg Host.Outcome.next (if_neg (by simp [h]))

/-- RESET_N high ends the hold and goes on at step 2, or at step 1 without the fuse shadow. -/
def holdEnded (c : Chip) (straps : Nat) : Chip :=
  ({ c with boot := { c.boot with held := false } }.sampleStraps straps).put CLK_BOOT_STEP (if c.boot.fuses.isSome then 2 else 1)

theorem exec_resetN (straps : BitVec 3) (s : State) : exec (.resetN straps) s
    = .next (State.withChip (if s.chip.boot.held then s else s.nodeReset kindResetN) fun c => holdEnded c straps.toNat) := rfl

/-! ### COLD_RESET -/

/-- The chip of a cold reset before the straps are sampled. -/
def coldChip (c : Chip) : Chip :=
  { upd := { dirA := c.upd.dirA, dirB := c.upd.dirB }, field := { raw := c.field.raw }, power := { resAt := c.tick },
    boot := { hid := c.boot.hid }, tick := c.tick, free := c.free, outbox := c.outbox }

theorem coldReset_eq (s : State) (straps : Nat) : s.coldReset straps = { s with
    mem := Memory.clear s.mem 0 stagingBase, chip := s.chip.fieldLow.pins ((coldChip s.chip.fieldLow).sampleStraps straps) } := rfl

theorem fieldLow_upd (c : Chip) : c.fieldLow.upd = c.upd := by
  unfold Chip.fieldLow
  dsimp only
  split
  · exact driveAll_beside beside_upd _ _
  · exact driveAll_beside beside_upd _ _

theorem get_coldChip (c : Chip) (f : Fld) : (coldChip c).get f = f.rst := Nat.zero_xor _

/-- Settles O18: a cold reset by the chip it starts afresh; the three node resets by what a node reset leaves, with the straps sampled
or the hold begun; and RESET_N's end by whether it was held. -/
theorem resetsReachTheirDomains : Obligations.ResetsReachTheirDomains := by
  unfold Obligations.ResetsReachTheirDomains
  intro straps s
  refine ⟨⟨s.coldReset straps.toNat, rfl, rfl, ?cold⟩, fun i kind hi => ?node,
    fun h => ⟨exec_resetNAsserted_held h, ?ends⟩, fun h => ?pulse⟩
  case cold =>
    obtain ⟨outbox, hpins⟩ := pins_frame s.chip.fieldLow ((coldChip s.chip.fieldLow).sampleStraps straps.toNat)
    obtain ⟨hrow, hmode⟩ := get_straps (coldChip s.chip.fieldLow) straps
    rw [coldReset_eq]
    refine ⟨fun f h1 h2 => ?_, (get_pins _ _ _).trans hrow, (get_pins _ _ _).trans hmode, fun hm a => ?_, ?_, ?_, fun h => ?_⟩
    · exact (get_pins _ _ _).trans ((get_put_other _ _ _ _ h2).trans ((get_put_other _ _ _ _ h1).trans (get_coldChip _ _)))
    · show Memory.byte (Memory.clear s.mem 0 stagingBase) a = _
      rw [byte_clear _ _ _ hm]
      simp only [Nat.zero_le, true_and]
      rfl
    · rw [hpins]
      exact (congrArg Updates.dirA (fieldLow_upd s.chip) :)
    · rw [hpins]
      exact (congrArg Updates.dirB (fieldLow_upd s.chip) :)
    · rw [hpins]
      rfl
  case node =>
    suffices h : ∃ t, exec i s = .next t ∧ NodeReset s t kind ∧ kind < 8 ∧ (i = .resetNAsserted → t.chip.boot.held = true)
        ∧ (i ≠ .resetNAsserted → t.chip.get CLK_STRAP_ROWHEAD = straps.toNat % 2
          ∧ t.chip.get CLK_STRAP_BOOTMODE = straps.toNat / 2) by
      obtain ⟨t, he, ⟨⟨hsw, htuns, hmbx, hrings, htags, hporter, hA, hB⟩, ⟨hkind, hstep, hdom, hstate, hstance⟩, hkept⟩, hk, hheld,
        hstraps⟩ := h
      exact ⟨t, he, hkind.trans (Nat.mod_eq_of_lt hk), hstep, hdom, hstate, hstance, htuns, hsw, hmbx, hrings, htags, hporter, hA, hB,
        hkept, hheld, hstraps⟩
    rcases hi with ⟨rfl, rfl⟩ | ⟨rfl, rfl⟩ | ⟨rfl, rfl, h⟩
    · exact ⟨_, rfl, nodeReset_straps (nodeReset_leaves _ _) _, by decide, nofun, fun _ => get_straps _ _⟩
    · exact ⟨_, rfl, nodeReset_straps (nodeReset_leaves _ _) _, by decide, nofun, fun _ => get_straps _ _⟩
    · exact ⟨_, exec_resetNAsserted h, nodeReset_held (nodeReset_leaves _ _) _, by decide, fun _ => rfl, fun h => absurd rfl h⟩
  case ends =>
    rw [exec_resetN, if_pos h]
    rfl
  case pulse =>
    obtain ⟨⟨hsw, htuns, hmbx, -, -, -, -, -⟩, ⟨hkind, -, -, -, -⟩, -⟩ := nodeReset_held (nodeReset_leaves s kindResetN) false
    obtain ⟨hrow, hmode⟩ := get_straps { (s.nodeReset kindResetN).chip with
      boot := { (s.nodeReset kindResetN).chip.boot with held := false } } straps
    rw [exec_resetN, if_neg (by simp [h])]
    refine ⟨_, rfl, rfl, ?_, ?_, htuns, hsw, hmbx, (get_put_other _ _ _ _ (by decide)).trans hrow,
      (get_put_other _ _ _ _ (by decide)).trans hmode⟩
    · exact (get_put_other _ _ _ _ (by decide)).trans ((get_put_other _ _ _ _ (by decide)).trans
        ((get_put_other _ _ _ _ (by decide)).trans hkind))
    · refine (get_put_same _ _ _).trans ?_
      show _ = if (s.nodeReset kindResetN).chip.boot.fuses.isSome then 2 else 1
      split <;> rfl

end Sys2Proof.Proofs

/-! SUPPORT. Clock failures and root swaps (spec/14_clocks_reset_boot.md R377 to R379; spec/23_in_service_repair.md R553): what the
shutter leaves of the clock unit's registers, and the trips by the root, the standby and AUTO_SWAP. -/

namespace Sys2Proof.Proofs
open Sys2Proof Sys2Proof.Machine Sys2Proof.Machine.Reg Sys2Proof.Laws

/-! ### Registers that the shutter leaves -/

/-- A field outside the log unit, the field unit and the channels. -/
def OutsideShutter (f : Fld) : Prop := f.key / 2 ^ 21 ≠ 0x18 ∧ f.key / 2 ^ 21 ≠ 0x10 ∧ f.key / 2 ^ 21 ≠ 0x11

/-- A field outside the log unit and the channels. -/
def OutsideChannels (f : Fld) : Prop := f.key / 2 ^ 21 ≠ 0x18 ∧ f.key / 2 ^ 21 ≠ 0x11

theorem OutsideShutter.channels {f : Fld} (h : OutsideShutter f) : OutsideChannels f := ⟨h.1, h.2.2⟩

section Channels
variable {g : Fld} (hg : OutsideChannels g)
include hg

theorem get_put_channel (c : Chip) {f : Fld} (v : Nat) (hf : f.key / 2 ^ 21 = 0x11) : (c.put f v).get g = c.get g :=
  get_put_other _ _ _ _ (fun e => hg.2 (e ▸ hf))

theorem get_evtBit_channel (c : Chip) {f : Fld} (i : Nat) (hf : f.key / 2 ^ 21 = 0x11) : (c.evtBit f i).get g = c.get g :=
  get_evtBit_other _ _ _ _ hg.1 (fun e => hg.2 (e ▸ hf))

theorem get_openChannel (c : Chip) {k : Nat} (st : Nat) (hk : k < 6) (h4 : k ≠ 4) : (c.openChannel k st).get g = c.get g := by
  have hstate : (HVI_CH_STAT_STATE k).key / 2 ^ 21 = 0x11 := by simp only [HVI_CH_STAT_STATE, Fld.key]; omega
  have hpg : (HVI_CH_STAT_PG k).key / 2 ^ 21 = 0x11 := by simp only [HVI_CH_STAT_PG, Fld.key]; omega
  have htmr : (HVI_CH_STAT_FAULT_TMR k).key / 2 ^ 21 = 0x11 := by simp only [HVI_CH_STAT_FAULT_TMR, Fld.key]; omega
  have hon : (HVI_CH_CTL_ON k).key / 2 ^ 21 = 0x11 := by simp only [HVI_CH_CTL_ON, Fld.key]; omega
  have hputs : (((c.put (HVI_CH_STAT_STATE k) st).put (HVI_CH_STAT_PG k) 0).put (HVI_CH_STAT_FAULT_TMR k) 0).get g = c.get g := by
    rw [get_put_channel hg _ _ htmr, get_put_channel hg _ _ hpg, get_put_channel hg _ _ hstate]
  have hput (d : Chip) : (if st = 3 then d else d.put (HVI_CH_CTL_ON k) 0).get g = d.get g := by
    split
    · rfl
    · exact get_put_channel hg _ _ hon
  unfold Chip.openChannel
  dsimp only
  rw [if_neg h4]
  split
  · exact (get_evtBit_channel hg _ _ rfl).trans ((hput _).trans hputs)
  · exact (hput _).trans hputs

theorem get_lockPower (c : Chip) : c.lockPower.get g = c.get g := by
  refine foldl_keeps_mem (fun c : Chip => c.get g) _ _ _ (fun d k hk => ?_)
  have hin : k < 6 ∧ k ≠ 4 := by
    revert hk
    revert k
    decide
  obtain ⟨h6, h4⟩ := hin
  split
  · exact get_openChannel hg _ _ h6 h4
  · rfl

end Channels

theorem get_driveOut {g : Fld} (h : g.key ≠ FLD_OUT_LEVEL.key) (c : Chip) (i : Nat) (b : Bool) : (c.driveOut i b).get g = c.get g := by
  unfold Chip.driveOut
  split
  · rfl
  · exact get_put_other _ _ _ _ h

theorem get_driveAll {g : Fld} (h : g.key ≠ FLD_OUT_LEVEL.key) (c : Chip) (p : Nat) : (c.driveAll p).get g = c.get g :=
  foldl_keeps (fun c : Chip => c.get g) _ _ _ (fun _ _ => get_driveOut h _ _ _)

section Shutter
variable {g : Fld} (hg : OutsideShutter g)
include hg

theorem ne_of_unit {f : Fld} (hf : f.key / 2 ^ 21 = 0x10 ∨ f.key / 2 ^ 21 = 0x11) : g.key ≠ f.key := by
  obtain ⟨-, h10, h11⟩ := hg
  intro e
  rw [e] at h10 h11
  exact hf.elim h10 h11

theorem get_put_unit (c : Chip) {f : Fld} (v : Nat) (hf : f.key / 2 ^ 21 = 0x10 ∨ f.key / 2 ^ 21 = 0x11) : (c.put f v).get g = c.get g :=
  get_put_other _ _ _ _ (ne_of_unit hg hf)

theorem get_evtBit_unit (c : Chip) {f : Fld} (i : Nat) (hf : f.key / 2 ^ 21 = 0x10 ∨ f.key / 2 ^ 21 = 0x11) :
    (c.evtBit f i).get g = c.get g := get_evtBit_other _ _ _ _ hg.1 (ne_of_unit hg hf)

/-- A source of doubt changes no register outside the log unit, the field unit and the channels. -/
theorem get_shutter (c : Chip) (cause : Nat) : (c.shutter cause).get g = c.get g := by
  have hevt (d : Chip) (n : Nat) : (if n = 0 then d else d.evt FLD_EVT_EVQ_DISCARD).get g = d.get g := by
    split
    · rfl
    · exact get_evtBit_unit hg _ _ (.inl rfl)
  unfold Chip.shutter
  dsimp only
  split
  · exact get_put_unit hg _ _ (.inl rfl)
  · rw [get_evtDetail_other _ _ _ _ _ _ hg.1 (ne_of_unit hg (.inl rfl)), get_put_unit hg _ _ (.inl rfl),
      get_put_unit hg _ _ (.inl rfl)]
    refine (get_put_unit hg _ _ (.inl rfl)).trans ((get_put_unit hg _ _ (.inl rfl)).trans ((hevt _ _).trans
      ((get_put_unit hg _ _ (.inl rfl)).trans ((get_lockPower hg.channels _).trans ((get_driveAll (ne_of_unit hg (.inl rfl)) _ _).trans
        ((get_put_unit hg _ _ (.inl rfl)).trans (get_put_unit hg _ _ (.inl rfl))))))))

end Shutter

/-! ### Trips (R377 to R379) -/

theorem get_reviewClock (c : Chip) (f : Fld) (h : f.key ≠ FLD_SHUT_LIVE_LIVE.key) : c.reviewClock.get f = c.get f := get_live _ _ _ _ h

theorem reviewClock_boot (c : Chip) : c.reviewClock.boot = c.boot := live_beside beside_boot _ _ _

theorem lockTrip_boot (c : Chip) (root : Nat) : (c.lockTrip root).boot = c.boot := by
  refine (put_beside beside_boot _ _ _).trans ?_
  split <;> exact (put_beside beside_boot _ _ _).trans (evt_boot _ _)

theorem get_lockTrip_aligned (c : Chip) (root : Nat) : (c.lockTrip root).get CLK_STAT_ALIGNED = 0 := get_put_same _ _ _

theorem get_lockTrip_lock (c : Chip) (root : Nat) :
    (c.lockTrip root).get (if root = 0 then CLK_STAT_LOCK_A else CLK_STAT_LOCK_B) = 0 := by
  unfold Chip.lockTrip
  split
  · exact (get_put_other _ _ _ _ (by decide)).trans (get_put_same _ _ _)
  · exact (get_put_other _ _ _ _ (by decide)).trans (get_put_same _ _ _)

/-- What a trip of either monitor records leaves the root, its control and the swaps counted. -/
structure TripRecorded (c d : Chip) : Prop where
  root : d.get CLK_STAT_ROOT_ACT = c.get CLK_STAT_ROOT_ACT
  auto : d.get CLK_CTL_AUTO_SWAP = c.get CLK_CTL_AUTO_SWAP
  swaps : d.get CLK_SWAP_CNT = c.get CLK_SWAP_CNT
  boot : d.boot = c.boot

theorem tripRecorded_lock (c : Chip) (root : Nat) : TripRecorded c (c.lockTrip root) := by
  refine ⟨?_, ?_, ?_, lockTrip_boot _ _⟩ <;>
    (unfold Chip.lockTrip; dsimp only; rw [get_put_other _ _ _ _ (by decide)]; split) <;>
    exact (get_put_other _ _ _ _ (by decide)).trans (get_evt_other _ _ _ (by unfold outsideLog; decide) (by decide))

theorem tripRecorded_freq (c : Chip) (root : Nat) : TripRecorded c (c.evt (if root = 0 then CLK_EVT_FREQ_A else CLK_EVT_FREQ_B)) := by
  refine ⟨?_, ?_, ?_, evt_boot _ _⟩ <;> split <;> exact get_evt_other _ _ _ (by unfold outsideLog; decide) (by decide)

theorem tripRecorded_shutter {c d : Chip} (h : TripRecorded c d) (cause : Nat) : TripRecorded c (d.shutter cause) := by
  obtain ⟨hroot, hauto, hswaps, hboot⟩ := h
  exact ⟨(get_shutter (by unfold OutsideShutter; decide) _ _).trans hroot, (get_shutter (by unfold OutsideShutter; decide) _ _).trans hauto,
    (get_shutter (by unfold OutsideShutter; decide) _ _).trans hswaps, (shutter_beside beside_boot _ _).trans hboot⟩

section RootTrip
variable {s : State} {c d : Chip} {root : Nat} {ready : Bool} (hd : TripRecorded c d)
include hd

theorem rootTrip_standby (h : c.get CLK_STAT_ROOT_ACT ≠ root) :
    State.rootTrip { s with chip := d } root ready = { s with chip := d.shutter causeClock } :=
  if_neg (mt (tripRecorded_shutter hd causeClock).root.symm.trans h)

variable (h : c.get CLK_STAT_ROOT_ACT = root)
include h

theorem rootTrip_swaps (ha : c.on CLK_CTL_AUTO_SWAP = true) (hr : ready = true) :
    State.rootTrip { s with chip := d } root ready = { s with chip := (d.shutter causeClock).swapRoots.reviewClock } := by
  obtain ⟨hroot, hauto, -, -⟩ := tripRecorded_shutter hd causeClock
  have hon : (d.shutter causeClock).on CLK_CTL_AUTO_SWAP = true := by rw [Chip.on, hauto]; exact ha
  exact (if_pos (hroot.trans h)).trans (if_pos ⟨hon, hr⟩)

theorem rootTrip_fails (hno : c.on CLK_CTL_AUTO_SWAP = false ∨ ready = false) : State.rootTrip { s with chip := d } root ready
    = State.clockFailure { s with chip := (d.shutter causeClock).reviewClock } := by
  obtain ⟨hroot, hauto, -, -⟩ := tripRecorded_shutter hd causeClock
  refine (if_pos (hroot.trans h)).trans (if_neg (fun ⟨ha, hr⟩ => ?_))
  have hon : c.on CLK_CTL_AUTO_SWAP = true := by rw [Chip.on, ← hauto]; exact ha
  rcases hno with hno | hno
  · exact Bool.false_ne_true (hno.symm.trans hon)
  · exact Bool.false_ne_true (hno.symm.trans hr)

end RootTrip

/-- A swap makes the other root active, and counts. -/
theorem swapped {c d : Chip} (hd : TripRecorded c d) {root : Nat} (hroot : root < 2) (h : c.get CLK_STAT_ROOT_ACT = root) :
    d.swapRoots.reviewClock.get CLK_STAT_ROOT_ACT = 1 - root ∧ d.swapRoots.reviewClock.get CLK_STAT_ALIGNED = 0
      ∧ d.swapRoots.reviewClock.get CLK_SWAP_CNT = min (c.get CLK_SWAP_CNT + 1) (2 ^ 32 - 1) ∧ d.swapRoots.reviewClock.boot = c.boot := by
  obtain ⟨hact, -, hswaps, hboot⟩ := hd
  refine ⟨?_, ?_, ?_, (reviewClock_boot _).trans ((evt_boot _ _).trans hboot)⟩ <;>
    rw [get_reviewClock _ _ (by decide), Chip.swapRoots, get_evt_other _ _ _ (by unfold outsideLog; decide) (by decide)]
  · rw [get_inc_other _ _ _ (by decide), get_put_other _ _ _ _ (by decide), get_put_same, hact, h]
    exact Nat.mod_eq_of_lt (show 1 - root < 2 by omega)
  · rw [get_inc_other _ _ _ (by decide), get_put_same]
    rfl
  · rw [get_inc_same, get_put_other _ _ _ _ (by decide), get_put_other _ _ _ _ (by decide), hswaps]
    rfl

/-- A clock failure is a node reset of kind 2 that is held. -/
theorem clockFailure_leaves (s : State) : s.clockFailure.chip.get CLK_RST_CAUSE_KIND = 2 ∧ s.clockFailure.chip.boot.clockFail = true
    ∧ s.clockFailure.chip.tuns = [] := by
  obtain ⟨⟨-, htuns, -, -, -, -, -, -⟩, ⟨hkind, -, -, -, -⟩, -⟩ := nodeReset_leaves s kindClock
  exact ⟨hkind, rfl, htuns⟩

/-! ### CLOCK_RECOVERY and STANDBY_ROOT_ALIGNED (R378, R379) -/

theorem b2n_mod (b : Bool) : b2n b % 2 ^ 1 = b2n b := by cases b <;> rfl

/-- A node that a clock failure holds restarts at step 1 on the root that locked. -/
theorem clockRecovery_restarts {c : Chip} {straps : Nat} {lockA lockB : Bool} (hf : c.boot.clockFail = true)
    (hl : lockA = true ∨ lockB = true) : ∃ t, clockRecovery straps lockA lockB c = t ∧ t.boot.clockFail = false
      ∧ t.get CLK_STAT_REF_OK = 1 ∧ t.get CLK_STAT_LOCK_A = b2n lockA ∧ t.get CLK_STAT_LOCK_B = b2n lockB
      ∧ t.get CLK_STAT_ROOT_ACT = b2n (!lockA) ∧ t.get CLK_BOOT_STEP = 1 ∧ t.get CLK_BOOT_FAIL = c.get CLK_BOOT_FAIL := by
  have hrun : ¬ (c.boot.clockFail = false ∨ (lockA = false ∧ lockB = false)) := by
    rintro (h | ⟨h1, h2⟩)
    · exact Bool.false_ne_true (h.symm.trans hf)
    · exact hl.elim (fun h => Bool.false_ne_true (h1.symm.trans h)) (fun h => Bool.false_ne_true (h2.symm.trans h))
  have hget (boot : Boot) (f : Fld) : Chip.get { c with boot := boot } f = c.get f := rfl
  refine ⟨_, if_neg hrun, congrArg Boot.clockFail (reviewClock_boot _), ?_⟩
  simp (disch := decide) only [get_reviewClock, Chip.sampleStraps, get_put_other, get_put_same, hget, and_true]
  exact ⟨rfl, b2n_mod _, b2n_mod _, b2n_mod _, rfl⟩

theorem standbyAligned_leaves (c : Chip) : (standbyAligned c).get CLK_STAT_ALIGNED = 1
    ∧ (c.get CLK_STAT_ROOT_ACT = 0 → (standbyAligned c).get CLK_STAT_LOCK_B = 1)
    ∧ (c.get CLK_STAT_ROOT_ACT = 1 → (standbyAligned c).get CLK_STAT_LOCK_A = 1)
    ∧ (standbyAligned c).get CLK_STAT_ROOT_ACT = c.get CLK_STAT_ROOT_ACT := by
  unfold standbyAligned
  dsimp only
  refine ⟨get_put_same _ _ _, fun h => ?_, fun h => ?_, ?_⟩
  · rw [get_put_other _ _ _ _ (by decide), if_pos h, get_put_same]
    rfl
  · rw [get_put_other _ _ _ _ (by decide), if_neg (by omega), get_put_same]
    rfl
  · rw [get_put_other _ _ _ _ (by decide)]
    split <;> exact get_put_other _ _ _ _ (by decide)

/-- A trip of either monitor records itself and then is the trip of its root. -/
theorem exec_trip {s : State} {root : Fin 2} {i : Instr} (hi : i = .lockMonitorTrip root ∨ i = .freqMonitorTrip root) :
    ∃ d, TripRecorded s.chip d ∧ exec i s = .next (State.rootTrip { s with chip := d } root s.chip.standbyReady) := by
  rcases hi with rfl | rfl
  · exact ⟨_, tripRecorded_lock _ _, rfl⟩
  · exact ⟨_, tripRecorded_freq _ _, rfl⟩

/-- Settles O19: a trip by whether its root is active and a swap may be made, REF_MONITOR_TRIP as the clock failure that it is, and the
recovery by whether a failure holds and a root has locked. -/
theorem clockFailuresAndRootSwaps : Obligations.ClockFailuresAndRootSwaps := by
  unfold Obligations.ClockFailuresAndRootSwaps
  intro straps lockA lockB root s
  refine ⟨⟨_, rfl, clockFailure_leaves _⟩, fun h ha hr i hi => ?swaps, fun h hno i hi => ?fails, fun h => ?standby, fun h => ?idle,
    fun hf hl => ?recovers, ⟨_, rfl, rfl, standbyAligned_leaves _⟩⟩
  case swaps =>
    obtain ⟨d, hd, he⟩ := exec_trip hi
    obtain ⟨hact, hal, hcnt, hboot⟩ := swapped (tripRecorded_shutter hd causeClock) root.isLt h
    exact ⟨_, he.trans (congrArg Host.Outcome.next (rootTrip_swaps hd h ha hr)), hact, hal, rfl, hcnt, hboot⟩
  case fails =>
    obtain ⟨d, hd, he⟩ := exec_trip hi
    obtain ⟨hkind, hfail, -⟩ := clockFailure_leaves { s with chip := (d.shutter causeClock).reviewClock }
    exact ⟨_, he.trans (congrArg Host.Outcome.next (rootTrip_fails hd h hno)), hkind, hfail⟩
  case standby =>
    refine ⟨congrArg Host.Outcome.next (rootTrip_standby (tripRecorded_lock _ _) h),
      congrArg Host.Outcome.next (rootTrip_standby (tripRecorded_freq _ _) h), ?_, ?_⟩
    · refine (get_shutter ?_ _ _).trans (get_lockTrip_lock _ _)
      unfold OutsideShutter
      split <;> decide
    · exact (get_shutter (by unfold OutsideShutter; decide) _ _).trans (get_lockTrip_aligned _ _)
  case idle => exact exec_onChip_same rfl (if_pos h)
  case recovers =>
    obtain ⟨t, he, hrest⟩ := clockRecovery_restarts (straps := straps.toNat) hf hl
    exact ⟨_, exec_onChip rfl he, rfl, hrest⟩

end Sys2Proof.Proofs

/-! SUPPORT. Start-up, the training gate, net seeding and the head decision (spec/14_clocks_reset_boot.md R387 to R391;
spec/01_rows_and_nodes.md R13, R14), by the branches of Tables 14.5 and 14.7. -/

namespace Sys2Proof.Proofs
open Sys2Proof Sys2Proof.Machine Sys2Proof.Machine.Reg Sys2Proof.Laws

/-! ### Start-up's steps (Table 14.5) -/

section StartUp
variable {s : State} {f : StartFind}

theorem startUp_held (h : s.chip.boot.held = true ∨ s.chip.boot.clockFail = true ∨ s.chip.get CLK_BOOT_FAIL = 1) : s.startUp f = s :=
  if_pos (h.imp_right (Or.imp_right (fun h1 => Or.inr (Or.inr h1))))

/-- Start-up may run at step `n`: no reset is held and step 1 has not failed. -/
structure MayStart (s : State) (n : Nat) : Prop where
  held : s.chip.boot.held = false
  lock : s.chip.boot.clockFail = false
  fuses : s.chip.get CLK_BOOT_FAIL ≠ 1
  step : s.chip.get CLK_BOOT_STEP = n

theorem startUp_step1 (h : MayStart s 1) :
    s.startUp f = if f.fuseOk = false then s.withChip (fun c => (c.put PWR_STAT_DOM_ON 1).bootFail 1)
      else if f.lockA = false ∧ f.lockB = false then
        s.withChip (fun c => { c.bootFail 2 with boot := { c.boot with clockFail := true } })
      else (s.withChip (fun c => (c.bootLodge f).bootPuf f)).bootPorter := by
  obtain ⟨h1, h2, h3, h4⟩ := h
  simp [State.startUp, h1, h2, h3, h4, State.withChip]

theorem startUp_step2 (h : MayStart s 2) : s.startUp f = (s.withChip (fun c => c.bootPuf f)).bootPorter := by
  obtain ⟨h1, h2, h3, h4⟩ := h
  simp [State.startUp, h1, h2, h3, h4]

theorem startUp_step3 (h : MayStart s 3) : s.startUp f = s.bootPorter := by
  obtain ⟨h1, h2, h3, h4⟩ := h
  simp [State.startUp, h1, h2, h3, h4]

theorem startUp_badFuses (h : MayStart s 1) (hf : f.fuseOk = false) :
    s.startUp f = s.withChip (fun c => (c.put PWR_STAT_DOM_ON 1).bootFail 1) := (startUp_step1 h).trans (if_pos hf)

theorem startUp_noLock (h : MayStart s 1) (hf : f.fuseOk = true) (ha : f.lockA = false) (hb : f.lockB = false) :
    s.startUp f = s.withChip (fun c => { c.bootFail 2 with boot := { c.boot with clockFail := true } }) := by
  rw [startUp_step1 h, if_neg (by simp [hf]), if_pos ⟨ha, hb⟩]

theorem startUp_locked (h : MayStart s 1) (hf : f.fuseOk = true) (hl : f.lockA = true ∨ f.lockB = true) :
    s.startUp f = (s.withChip (fun c => (c.bootLodge f).bootPuf f)).bootPorter := by
  rw [startUp_step1 h, if_neg (by simp [hf]), if_neg (fun hn => by simp [hn] at hl)]

theorem get_bootFail (c : Chip) (code : Nat) : (c.bootFail code).get CLK_BOOT_FAIL = code % 2 ^ CLK_BOOT_FAIL.width := by
  rw [Chip.bootFail, get_evt_other _ _ _ (by unfold outsideLog; decide) (by decide), get_put_same]

end StartUp

/-! ### Porter's steps 3 to 5 -/

section Porter
variable {s : State} {d : Chip} (hd : d = (s.chip.put CLK_BOOT_STEP 3).loadVkey)
include hd

theorem bootPorter_waits (hm : d.get CLK_STRAP_BOOTMODE = 2) : s.bootPorter = { s with chip := d } := by
  subst hd
  exact if_pos hm

theorem bootPorter_noDirectory (hm : d.get CLK_STRAP_BOOTMODE = 0) (hn : d.dir = none) :
    s.bootPorter = { s with chip := (d.bootFail 4).startSeed } := by
  simp [State.bootPorter, State.withChip, ← hd, hm, hn]

theorem bootPorter_completes (hm : d.get CLK_STRAP_BOOTMODE = 0) (hn : d.dir.isSome = true) {e2 e3 : FlashEntry}
    (h2 : (d.put CLK_BOOT_STEP 4).pickRecord 2 255 = some e2) (h3 : (d.put CLK_BOOT_STEP 4).pickRecord 3 255 = some e3) {u : State}
    (hu : u = (State.loadPorter { s with chip := d.put CLK_BOOT_STEP 4 } e3.item).withChip (fun c => c.put CLK_BOOT_STEP 5))
    (hs : u.chip.boot.seeded = []) : s.bootPorter = u.bootTables := by
  have h0 : d.dir.isNone = false := by cases e : d.dir <;> simp_all
  have hs' : (State.loadPorter { s with chip := d.put CLK_BOOT_STEP 4 } e3.item).chip.boot.seeded = [] := by simpa [hu, State.withChip] using hs
  simp [State.bootPorter, State.withChip, ← hd, hm, h0, h2, h3, hs', hu]

end Porter

/-! ### The training gate (R388) -/

/-- A port whose domain is on drives its clock lane. -/
def clockLane (c : Chip) (p : TPort) : Chip := if c.trunkOn p then c.setLane p { c.lane p with clkOn := true } else c

theorem clockLane_csr (c : Chip) (p : TPort) : (clockLane c p).csr = c.csr := by
  unfold clockLane
  split <;> rfl

theorem clockLane_boot (c : Chip) (p : TPort) : (clockLane c p).boot = c.boot := by
  unfold clockLane
  split <;> rfl

theorem trunkOn_of_csr {c d : Chip} (h : c.csr = d.csr) (p : TPort) : c.trunkOn p = d.trunkOn p := by
  simp only [Chip.trunkOn, Chip.domainOn, Chip.get, h]

theorem clkOn_clockLane (c : Chip) (p q : TPort) :
    ((clockLane c p).lane q).clkOn = ((c.lane q).clkOn || (decide (q = p) && c.trunkOn p)) := by
  unfold clockLane
  by_cases hq : q = p
  · subst hq
    split
    · simp_all
    · simp_all
  · split
    · rw [lane_setLane_other _ _ _ _ hq]
      simp [hq]
    · simp [hq]

theorem clkOn_clockLanes (l : List TPort) (c : Chip) (q : TPort) (h : (c.lane q).clkOn = true ∨ q ∈ l ∧ c.trunkOn q = true) :
    ((l.foldl clockLane c).lane q).clkOn = true := by
  induction l generalizing c with
  | nil => simpa using h
  | cons p r ih =>
    refine ih _ ?_
    rw [clkOn_clockLane, trunkOn_of_csr (clockLane_csr c p)]
    obtain h | ⟨h, ht⟩ := h
    · simp [h]
    · obtain rfl | h := List.mem_cons.1 h
      · simp [ht]
      · exact .inr ⟨h, ht⟩

theorem openGate_open {c : Chip} (h : c.boot.gate = true) : c.openGate = c := if_pos h

theorem openGate_gate {c : Chip} (h : c.boot.gate = false) : c.openGate.boot.gate = true := by
  rw [Chip.openGate, if_neg (by simp [h])]
  exact congrArg Boot.gate (foldl_keeps Chip.boot clockLane _ _ clockLane_boot)

theorem openGate_clkOn {c : Chip} (h : c.boot.gate = false) (hl : c.boot.ledgerNode.isSome = true) {q : TPort} (hq : c.trunkOn q = true) :
    (c.openGate.lane q).clkOn = true := by
  have hn : c.boot.ledgerNode.isNone = false := by cases e : c.boot.ledgerNode <;> simp_all
  rw [Chip.openGate, if_neg (by simp [h])]
  dsimp only
  rw [if_neg (by simp [hn])]
  refine clkOn_clockLanes TPort.list _ q (.inr ⟨by cases q <;> decide, ?_⟩)
  have hd : ∀ v, (c.put CLK_BOOT_DEFAULT_BEQ v).trunkOn q = c.trunkOn q := fun v =>
    congrArg (bit · (4 + q.num)) (get_put_other c _ _ v (by decide))
  exact (hd _).trans hq

theorem exec_gate (s : State) :
    exec .trainingGateOpen s = s.onChip (fun c => if c.boot.held ∨ c.boot.clockFail then c else c.openGate) := rfl

theorem exec_trainingGateOpen_still {s : State} (h : s.chip.boot.gate = true ∨ s.chip.boot.held = true ∨ s.chip.boot.clockFail = true) :
    exec .trainingGateOpen s = .next s := by
  refine exec_onChip_same (exec_gate s) ?_
  obtain h | h := h
  · split
    · rfl
    · exact openGate_open h
  · exact if_pos h

theorem exec_trainingGateOpen {s : State} (h1 : s.chip.boot.held = false) (h2 : s.chip.boot.clockFail = false) :
    exec .trainingGateOpen s = .next { s with chip := s.chip.openGate } :=
  exec_onChip (exec_gate s) (if_neg (by simp [h1, h2]))

/-! ### Net seeding (R390, R391; Table 14.7) -/

theorem seedReq_refused {p : TPort} {c : Cell} {x : Chip}
    (h : x.boot.porter = false ∨ rd c.data 12 4 ≠ x.get GLB_LIKENESS_CLASS ∨ rd c.data 3 1 = 0) : seedReq p c x = x := by
  refine if_pos ?_
  obtain h | h | h := h <;> simp [h]

theorem seedReq_answered {p : TPort} {c : Cell} {x : Chip} {e : FlashEntry} (hn : isNotice c 0x20 = true) (hp : x.boot.porter = true)
    (hc : rd c.data 12 4 = x.get GLB_LIKENESS_CLASS) (ho : rd c.data 4 4 % 64 = 0) (h1 : 1 ≤ rd c.data 3 1) (h64 : rd c.data 3 1 ≤ 64)
    (hk : [2, 3, 7].contains (rd c.data 2 1) = true) (he : x.activeItem (rd c.data 2 1) 255 = some e) :
    seedReq p c x = (List.range (rd c.data 3 1)).foldl (fun (x : Chip) i =>
      if rd c.data 4 4 + 64 * i < e.stored.length then
        x.sendAdmission p (x.seedCell p 0x21 (rd c.data 2 1) 0 (rd c.data 4 4 + 64 * i) e.stored.length 0
          ((e.stored.drop (rd c.data 4 4 + 64 * i)).take 64))
      else x) x := by
  have h : ¬ (isNotice c 0x20 = false ∨ x.boot.porter = false ∨ rd c.data 12 4 ≠ x.get GLB_LIKENESS_CLASS ∨ rd c.data 4 4 % 64 ≠ 0
      ∨ rd c.data 3 1 = 0 ∨ 64 < rd c.data 3 1 ∨ [2, 3, 7].contains (rd c.data 2 1) = false) := by
    simp only [hn, hp, hc, ho, hk, ne_eq, not_true_eq_false, Bool.true_eq_false, false_or, or_false]
    omega
  rw [seedReq]
  dsimp only
  rw [if_neg h, he]

section SeedData
variable {s u : State} {c : Cell} {item total : Nat} {pieces ps : SMap (List Byte)} {n : Nat} {e : FlashEntry}
  (hs : s.chip.boot.seed = some (item, total, pieces)) (hn : isNotice c 0x21 = true) (hi : rd c.data 2 1 = item)
  (ho : rd c.data 4 4 % 64 = 0) (hl : rd c.data 4 4 < rd c.data 8 4) (ht : total = 0 ∨ total = rd c.data 8 4)
  (hps : ps = mset [] pieces (rd c.data 4 4 / 64) (slice c.data 16 64)) (hnn : n = piecesRun ps 0)
  (hu : u = { s with chip := { s.chip with boot := { s.chip.boot with seed := some (item, rd c.data 8 4, ps) } } })
include hs hn hi ho hl ht hps hnn hu

theorem seedData_taken :
    s.seedData c = if rd c.data 8 4 ≤ 64 * n then
        let e := boundRecord item ((ps.flatMap (·.2)).take (rd c.data 8 4))
        if u.chip.boundOk item e.header ∧ u.chip.programOk e then (u.withChip (fun c => c.acceptSeed e)).bootPorter
        else u.withChip (fun c => c.bootFail 7)
      else if n % 64 = 0 ∧ n ≠ 0 ∧ rd c.data 4 4 / 64 + 1 = n then u.withChip Chip.askSeed
      else u := by
  have h : ¬ (isNotice c 0x21 = false ∨ rd c.data 2 1 ≠ item ∨ rd c.data 4 4 % 64 ≠ 0 ∨ rd c.data 8 4 ≤ rd c.data 4 4
      ∨ (total ≠ 0 ∧ total ≠ rd c.data 8 4)) := by
    simp only [hn, hi, ho, ne_eq, not_true_eq_false, Bool.true_eq_false, false_or]
    omega
  subst hu hnn hps
  rw [State.seedData, hs]
  dsimp only
  rw [if_neg h]
  rfl

theorem seedData_goesOn (h : 64 * n < rd c.data 8 4) (hg : n % 64 ≠ 0) : s.seedData c = u := by
  rw [seedData_taken hs hn hi ho hl ht hps hnn hu, if_neg (by omega), if_neg (fun h => hg h.1)]

theorem seedData_asks (h : 64 * n < rd c.data 8 4) (hg : n % 64 = 0 ∧ n ≠ 0 ∧ rd c.data 4 4 / 64 + 1 = n) :
    s.seedData c = { u with chip := u.chip.askSeed } := by
  rw [seedData_taken hs hn hi ho hl ht hps hnn hu, if_neg (by omega), if_pos hg]
  rfl

variable (he : e = boundRecord item ((ps.flatMap (·.2)).take (rd c.data 8 4)))
include he

theorem seedData_passes (h : rd c.data 8 4 ≤ 64 * n) (hb : u.chip.boundOk item e.header = true) (hp : u.chip.programOk e = true) :
    s.seedData c = State.bootPorter { u with chip := u.chip.acceptSeed e } := by
  rw [seedData_taken hs hn hi ho hl ht hps hnn hu, if_pos h, ← he]
  exact if_pos ⟨hb, hp⟩

theorem seedData_fails (h : rd c.data 8 4 ≤ 64 * n) (hb : u.chip.boundOk item e.header = false ∨ u.chip.programOk e = false) :
    s.seedData c = { u with chip := u.chip.bootFail 7 } := by
  rw [seedData_taken hs hn hi ho hl ht hps hnn hu, if_pos h, ← he]
  refine if_neg (fun h => ?_)
  obtain hb | hb := hb <;> simp [hb] at h

end SeedData

theorem exec_seedData_up {p : TPort} (hp : p = .nu ∨ p = .su) (c : Cell) (s : State) : exec (.seedData p c) s = .next (s.seedData c) :=
  congrArg Host.Outcome.next (if_pos hp)

theorem exec_seedData_down {p : TPort} (hp : p = .nd ∨ p = .sd) (c : Cell) (s : State) : exec (.seedData p c) s = .next s :=
  congrArg Host.Outcome.next (if_neg (by obtain rfl | rfl := hp <;> decide))

/-! ### The head decision (R13, R14) -/

/-- A field below the trellis. -/
def BelowTrellis (g : Fld) : Prop := g.key < 0x51000 * 32

theorem get_placeSelf (c : Chip) (v : Nat) {g : Fld} (hg : BelowTrellis g) : (c.placeSelf v).get g = c.get g := by
  have hself : ∀ q, g.key ≠ (BRD_TRELLIS_SELF q).key := fun q => by
    simp only [BRD_TRELLIS_SELF, Fld.key, BelowTrellis] at hg ⊢
    omega
  have hlocal : ∀ q, g.key ≠ (BRD_TRELLIS_LOCAL q).key := fun q => by
    simp only [BRD_TRELLIS_LOCAL, Fld.key, BelowTrellis] at hg ⊢
    omega
  unfold Chip.placeSelf
  dsimp only
  split
  · exact get_put_other _ _ _ _ (hself _)
  · refine (foldl_keeps (fun d : Chip => d.get g) _ _ _ (fun d p => ?_)).trans (get_put_other _ _ _ _ (hself _))
    split
    · exact get_put_other _ _ _ _ (hlocal _)
    · rfl

/-- The address is shown as A's position, with POS_VALID 1. -/
theorem get_setAddress (c : Chip) (a : Nat) :
    (c.setAddress a).get BRD_STAT_POS = a % 2 ^ BRD_STAT_POS.width ∧ (c.setAddress a).get BRD_STAT_POS_VALID = 1 := by
  unfold Chip.setAddress
  dsimp only
  rw [get_placeSelf _ _ (by unfold BelowTrellis; decide), get_placeSelf _ _ (by unfold BelowTrellis; decide)]
  simp (disch := decide) only [get_put_other, get_put_same]
  decide

/-- The head decision once its window has ended, by the strap and by what was found above. -/
def headDecided (w : Chip) : Chip :=
  if w.get CLK_STRAP_ROWHEAD = 0 then w
  else if w.braid.losNu ∧ w.braid.losSu then
    ((((((w.setAddress (1024 * (w.boot.ledgerNode.getD 0 / 1024))).put BRD_STAT_ROLE 1).put (BRD_TRELLIS_ROLE 0) 1).setPos 0
      posMember).storeAddress).applyOwn).nowMember.reviewTime
  else
    let d := w.put BRD_STAT_ROLE 2
    (if d.on BRD_STAT_POS_VALID then d.put (BRD_TRELLIS_ROLE (d.get BRD_STAT_POS)) 2 else d).reviewTime

theorem headDecision_window {c : Chip} (h : c.braid.window = true) :
    headDecision c = headDecided { c with braid := { c.braid with window := false } } := if_neg (by simp [h])

theorem exec_headDecision {s : State} (h : s.chip.braid.window = true) {w : Chip}
    (hw : w = { s.chip with braid := { s.chip.braid with window := false } }) : exec .headDecision s = .next { s with chip := headDecided w } :=
  exec_onChip rfl ((headDecision_window h).trans (congrArg headDecided hw.symm))

theorem headDecided_head {w : Chip} (hs : w.get CLK_STRAP_ROWHEAD = 1) (hn : w.braid.losNu = true) (hu : w.braid.losSu = true) :
    headDecided w = ((((((w.setAddress (1024 * (w.boot.ledgerNode.getD 0 / 1024))).put BRD_STAT_ROLE 1).put (BRD_TRELLIS_ROLE 0) 1).setPos 0
      posMember).storeAddress).applyOwn).nowMember.reviewTime := by
  rw [headDecided, if_neg (by simp [hs]), if_pos ⟨hn, hu⟩]

theorem headDecided_tail {w : Chip} (hs : w.get CLK_STRAP_ROWHEAD = 1) (hl : w.braid.losNu = false ∨ w.braid.losSu = false) :
    headDecided w = (if w.on BRD_STAT_POS_VALID then (w.put BRD_STAT_ROLE 2).put (BRD_TRELLIS_ROLE (w.get BRD_STAT_POS)) 2
      else w.put BRD_STAT_ROLE 2).reviewTime := by
  have hv : (w.put BRD_STAT_ROLE 2).on BRD_STAT_POS_VALID = w.on BRD_STAT_POS_VALID := by
    unfold Chip.on
    rw [get_put_other _ _ _ _ (by decide)]
  have hp : (w.put BRD_STAT_ROLE 2).get BRD_STAT_POS = w.get BRD_STAT_POS := get_put_other _ _ _ _ (by decide)
  rw [headDecided, if_neg (by simp [hs]), if_neg (fun h => by simp [h] at hl)]
  dsimp only
  rw [hv, hp]

theorem exec_headDecision_tail {s : State} (h : s.chip.braid.window = true) {w : Chip}
    (hw : w = { s.chip with braid := { s.chip.braid with window := false } }) (hs : s.chip.get CLK_STRAP_ROWHEAD = 1)
    (hl : s.chip.braid.losNu = false ∨ s.chip.braid.losSu = false) :
    exec .headDecision s = .next { s with chip := (if s.chip.on BRD_STAT_POS_VALID then
      (w.put BRD_STAT_ROLE 2).put (BRD_TRELLIS_ROLE (s.chip.get BRD_STAT_POS)) 2 else w.put BRD_STAT_ROLE 2).reviewTime } := by
  have hget : ∀ f, w.get f = s.chip.get f := fun f => (congrArg (fun d : Chip => d.get f) hw :)
  have hnu : w.braid.losNu = s.chip.braid.losNu := (congrArg (fun d : Chip => d.braid.losNu) hw :)
  have hsu : w.braid.losSu = s.chip.braid.losSu := (congrArg (fun d : Chip => d.braid.losSu) hw :)
  rw [exec_headDecision h hw, headDecided_tail ((hget _).trans hs) (hl.imp hnu.trans hsu.trans), Chip.on, hget, hget]
  rfl

/-- Settles O20: START_UP by the step it has reached and what it finds; the gate's loop over the ports drives the clock lane of each one
whose domain is on; the seed cells and the head decision by their conditions. -/
theorem startUpStepsAndFailures : Obligations.StartUpStepsAndFailures := by
  unfold Obligations.StartUpStepsAndFailures
  intro f p c s
  refine ⟨fun h => congrArg Host.Outcome.next (startUp_held h), fun h1 h2 h3 h4 => ⟨fun hf => ?_, fun hf ha hb => ?_⟩,
    fun h1 h2 h3 h4 d hd => ?_, fun h1 h2 h3 hf hl => ⟨fun h4 => ?_, fun h4 => ?_⟩, exec_trainingGateOpen_still, fun h1 h2 h3 => ?_,
    fun h => ?_, fun item total pieces h => ?_, fun h => ?_, ?_, fun hp => exec_seedData_down hp c s, ?_, ?_,
    fun h1 h2 h3 h4 w a hw ha => ?_, fun h => ?_, fun h1 h2 => ?_, fun h1 h2 h3 h4 => ?_, fun h1 h2 h3 h4 => ?_⟩
  · exact congrArg Host.Outcome.next (startUp_badFuses ⟨h1, h2, h3, h4⟩ hf)
  · exact ⟨_, congrArg Host.Outcome.next (startUp_noLock ⟨h1, h2, h3, h4⟩ hf ha hb), rfl, rfl, get_bootFail s.chip 2⟩
  · have hgo : exec (.startUp f) s = .next s.bootPorter := congrArg Host.Outcome.next (startUp_step3 ⟨h1, h2, h3, h4⟩)
    rw [hgo]
    exact ⟨fun hm => congrArg _ (bootPorter_waits hd hm), rfl,
      fun e2 e3 hm hn h2 h3 u hu hs => congrArg _ (bootPorter_completes hd hm hn h2 h3 hu hs),
      fun hm hn => congrArg _ (bootPorter_noDirectory hd hm hn)⟩
  · exact congrArg Host.Outcome.next (startUp_locked ⟨h1, h2, h3, h4⟩ hf hl)
  · exact congrArg Host.Outcome.next (startUp_step2 ⟨h1, h2, h3, h4⟩)
  · exact ⟨_, exec_trainingGateOpen h1 h2, rfl, openGate_gate h3, rfl, fun hl q hq => openGate_clkOn h3 hl hq⟩
  · exact exec_onChip_same rfl (by simp [seedRetry, h])
  · exact exec_onChip rfl (by simp [seedRetry, h])
  · exact exec_onChip_same rfl (seedReq_refused h)
  · rintro e off r rfl rfl hn hp hc ho h1 h64 hk he
    exact exec_onChip rfl (seedReq_answered hn hp hc ho h1 h64 hk he)
  · intro item total pieces hs hp hn hi ho hl ht n hnn h hg
    rw [exec_seedData_up hp, seedData_goesOn hs hn hi ho hl ht rfl hnn rfl h hg]
  · intro item total pieces hs hp hn hi ho hl ht ps n u e hps hnn hu he
    rw [exec_seedData_up hp]
    exact ⟨fun h hb hk => congrArg _ (seedData_passes hs hn hi ho hl ht hps hnn hu he h hb hk),
      fun h hb => congrArg _ (seedData_fails hs hn hi ho hl ht hps hnn hu he h hb),
      fun h g1 g2 g3 => congrArg _ (seedData_asks hs hn hi ho hl ht hps hnn hu h ⟨g1, g2, g3⟩)⟩
  · obtain ⟨hpos, hval⟩ := get_setAddress w (1024 * (s.chip.boot.ledgerNode.getD 0 / 1024))
    have hget : w.get CLK_STRAP_ROWHEAD = s.chip.get CLK_STRAP_ROWHEAD := (congrArg (fun d : Chip => d.get CLK_STRAP_ROWHEAD) hw :)
    have hnu : w.braid.losNu = s.chip.braid.losNu := (congrArg (fun d : Chip => d.braid.losNu) hw :)
    have hsu : w.braid.losSu = s.chip.braid.losSu := (congrArg (fun d : Chip => d.braid.losSu) hw :)
    have hboot : w.boot = s.chip.boot := (congrArg Chip.boot hw :)
    refine ⟨?_, ?_, ?_, ?_⟩
    · simp (disch := decide) only [ha, get_put_other, get_put_same]
      decide
    · simp (disch := decide) only [ha, get_put_other, hpos]
      exact Nat.mul_mod_right _ _
    · simp (disch := decide) only [ha, get_put_other, hval]
    · rw [exec_headDecision h1 hw, headDecided_head (hget.trans h2) (hnu.trans h3) (hsu.trans h4), ha, hboot]
  · exact exec_onChip_same rfl (if_pos h)
  · exact (exec_headDecision h1 rfl).trans (congrArg (fun d => Host.Outcome.next { s with chip := d }) (if_pos h2))
  · exact (exec_headDecision_tail h1 rfl h2 h3).trans (by rw [if_neg (by simp [h4])])
  · exact (exec_headDecision_tail h1 rfl h2 h3).trans (by rw [if_pos h4])

end Sys2Proof.Proofs

/-! SUPPORT. The Ethernet ports (spec/15_ethernet_and_storage.md R395 to R403): the link's two ends, a received frame by its kind, and
the stamp FIFOs. -/

namespace Sys2Proof.Proofs
open Sys2Proof Sys2Proof.Machine Sys2Proof.Machine.Reg Sys2Proof.Laws

theorem get_evt_off {f g : Fld} (c : Chip) (hg : g.key / 2 ^ 21 ≠ 0x18) (h : g.key ≠ f.key) : (c.evt f).get g = c.get g :=
  get_evt_other c f g hg h

section Ethernet
variable (p : Fin 2)

/-! ### The link (R396) -/

theorem ethUp_still {c : Chip} (h : c.domainOn 11 = false ∨ c.get (ETH_CTL_EN p) = 0) : ethUp p c = c :=
  if_pos (h.imp_right Or.inl)

theorem ethUp_up {c : Chip} (hd : c.domainOn 11 = true) (he : c.get (ETH_CTL_EN p) ≠ 0) (hl : c.get (ETH_STAT_LINK p) = 0) :
    (ethUp p c).get (ETH_STAT_LINK p) = 1 ∧ (ethUp p c).get (ETH_STAT_BLOCK_LOCK p) = 1
      ∧ (ethUp p c).get (ETH_STAT_FEC_LOCK p) = (if c.get (ETH_CTL_FEC p) = 0 then 0 else 1) := by
  rw [ethUp, if_neg (by simp [ethOn, hd, he, Chip.on, hl])]
  simp (disch := (clear * -; decide +revert)) only [get_evt_off, get_put_other, get_put_same]
  refine ⟨rfl, rfl, ?_⟩
  by_cases h : c.get (ETH_CTL_FEC p) = 0 <;> simp [h, b2n, ETH_STAT_FEC_LOCK]

theorem ethDown_down {c : Chip} (h : c.get (ETH_STAT_LINK p) = 0) (part : Bool) : c.ethDown p part = c := if_pos h

theorem ethDown_up {c : Chip} (h : c.get (ETH_STAT_LINK p) ≠ 0) (part : Bool) {d e : Chip} (hd : d = if part then c.ethDrop p else c)
    (he : e = (((d.put (ETH_STAT_LINK p) 0).put (ETH_STAT_BLOCK_LOCK p) 0).put (ETH_STAT_FEC_LOCK p) 0).put (ETH_STAT_PAUSED p) 0) :
    c.ethDown p part = ((e.ethBad p (e.ethFrames p)).endDown (4 + p)).evt (ETH_EVT_LINK_DOWN p) := by
  subst he hd
  exact if_neg h

/-! ### A received frame (R395, R397, R402) -/

section Receive
variable {frame b : List Byte} (hb : b = frame.take (frame.length - 4)) {c : Chip}

theorem ethRx_refused (h : c.domainOn 11 = false ∨ c.get (ETH_STAT_LINK p) = 0 ∨ frame.length < 64 ∨ c.get (ETH_CFG_MAXF p) < frame.length) :
    ethRx p frame c = c := if_pos h

/-- The port takes the frame: its domain is on, its link up, and the length in range. -/
structure EthTakes (c : Chip) (n : Nat) : Prop where
  on : c.domainOn 11 = true
  link : c.get (ETH_STAT_LINK p) ≠ 0
  short : 64 ≤ n
  long : n ≤ c.get (ETH_CFG_MAXF p)

include hb

theorem ethRx_taken (h : EthTakes p c frame.length) :
    ethRx p frame c = if rd frame (frame.length - 4) 4 ≠ crc32e b then c.inc (ETH_RX_FCS p)
      else if c.isPause p b then c.takePause p b
      else if (if c.isMgmt p b then none else c.pwOf p b).isNone ∧ c.ethMatch p b = false then c
      else (c.stampRx p b).2.ethAccept p b (if c.isMgmt p b then none else c.pwOf p b) (c.stampRx p b).1 := by
  obtain ⟨h1, h2, h3, h4⟩ := h
  have hn : ¬ (ethOn c = false ∨ c.get (ETH_STAT_LINK p) = 0 ∨ frame.length < 64 ∨ c.get (ETH_CFG_MAXF p) < frame.length) := by
    simp only [ethOn, h1, h2, Bool.true_eq_false, false_or]
    omega
  subst hb
  exact if_neg hn

theorem ethRx_fcs (h : EthTakes p c frame.length) (hf : rd frame (frame.length - 4) 4 ≠ crc32e b) :
    ethRx p frame c = c.inc (ETH_RX_FCS p) := (ethRx_taken p hb h).trans (if_pos hf)

theorem ethRx_pause (h : EthTakes p c frame.length) (hf : rd frame (frame.length - 4) 4 = crc32e b) (hp : c.isPause p b = true) :
    ethRx p frame c = c.takePause p b := by
  rw [ethRx_taken p hb h, if_neg (not_not.2 hf), if_pos hp]

/-- A frame that is no PAUSE frame goes on by the entry it matches and by its address. -/
theorem ethRx_frame (h : EthTakes p c frame.length) (hf : rd frame (frame.length - 4) 4 = crc32e b) (hp : c.isPause p b = false) :
    ethRx p frame c = if (if c.isMgmt p b then none else c.pwOf p b).isNone ∧ c.ethMatch p b = false then c
      else (c.stampRx p b).2.ethAccept p b (if c.isMgmt p b then none else c.pwOf p b) (c.stampRx p b).1 := by
  rw [ethRx_taken p hb h, if_neg (not_not.2 hf), if_neg (by simp [hp])]

end Receive

theorem get_stampRx (c : Chip) (b : List Byte) {g : Fld} (hg : g.key / 2 ^ 21 ≠ 0x18) (h1 : g.key ≠ (ETH_TS_OVF p).key)
    (h2 : g.key ≠ (ETH_EVT_TS_OVF p).key) : (c.stampRx p b).2.get g = c.get g := by
  unfold Chip.stampRx
  split
  · rfl
  · dsimp only
    split
    · exact (get_evt_off _ hg h2).trans (get_inc_other _ _ _ h1)
    · rfl

theorem isMgmt_stampRx (c : Chip) (b : List Byte) : (c.stampRx p b).2.isMgmt p b = c.isMgmt p b := by
  simp (disch := (clear * -; decide +revert)) only [Chip.isMgmt, Chip.station, get_stampRx]
  rfl

section Accept
variable (c : Chip) (b : List Byte) (ts : Bool)

theorem ethAccept_mgmt (h : c.isMgmt p b = true) (pw : Option Nat) :
    c.ethAccept p b pw ts = if p.val = 0 then (c.inc (ETH_RX_OK p)).frameIn (.eth0 (BitVec.ofNat 48 (rd b 6 6))) (mgmtOf b)
      else c.inc (ETH_RX_OK p) := if_pos h

theorem ethAccept_analysis (h : c.isMgmt p b = false) (hp : p.val = 1) (hm : c.on SWX_MIR_CTL_EN = true) (pw : Option Nat) :
    c.ethAccept p b pw ts = c.ethDrop p := by
  rw [Chip.ethAccept.eq_def, if_neg (by simp [h]), if_pos (by simp [Chip.onlyMirrors, hp, hm])]

theorem onlyMirrors_no (hm : p.val = 0 ∨ c.on SWX_MIR_CTL_EN = false) : c.onlyMirrors (4 + p) = false := by
  unfold Chip.onlyMirrors
  obtain h | h := hm <;> simp [h]

theorem ethAccept_entry (h : c.isMgmt p b = false) (hm : p.val = 0 ∨ c.on SWX_MIR_CTL_EN = false) (e : Nat) :
    c.ethAccept p b (some e) ts = c.ethToRing p (c.get (ETH_PW_RING e)) (b.take 12 ++ b.drop 16) e ts true := by
  rw [Chip.ethAccept.eq_def, if_neg (by simp [h]), if_neg (by simp [onlyMirrors_no p c hm])]

theorem ethAccept_address (h : c.isMgmt p b = false) (hm : p.val = 0 ∨ c.on SWX_MIR_CTL_EN = false) :
    c.ethAccept p b none ts =
      if c.on (ETH_CFG_RXRING_EN p) then c.ethToRing p (c.get (ETH_CFG_RXRING p)) b 0 ts false else c.ethDrop p := by
  rw [Chip.ethAccept.eq_def, if_neg (by simp [h]), if_neg (by simp [onlyMirrors_no p c hm])]

end Accept

/-! ### Transmission (R401) -/

theorem ethTx_still {q : Nat} {ecc : EccFind} {c : Chip}
    (h : c.domainOn 11 = false ∨ c.get (ETH_STAT_LINK p) = 0 ∨ c.on (ETH_STAT_PAUSED p) = true) : ethTx p q ecc c = c := if_pos h

theorem ethTx_sent {q : Nat} {ecc : EccFind} {c d : Chip} {f : List Desc} (h1 : c.domainOn 11 = true) (h2 : c.get (ETH_STAT_LINK p) ≠ 0)
    (h3 : c.on (ETH_STAT_PAUSED p) = false)
    (hs : c.select (4 + p.val) (fun q => c.frameReady p.val q) (fun q => c.queueCost p.val q) = (some q, d))
    (hf : c.firstFrame (c.queue (4 + p.val) q) = some f) : ethTx p q ecc c = d.sendFrame p q f ecc := by
  rw [ethTx, if_neg (by simp [ethOn, h1, h2, h3])]
  simp only [hs, hf, if_true]

/-! ### The stamp registers (R403) -/

theorem ethPort_setEth (c : Chip) (k : Nat) (x : EthPort) : (c.setEth k x).ethPort k = x := mget_mset_same _ _ _ _

theorem popRx_empty {c : Chip} (h : (c.ethPort p).rxStamps = []) :
    (c.popRx p).get (ETH_TSRX_INF_VALID p) = 0 ∧ (c.popRx p).ends = c.ends := by
  rw [Chip.popRx]
  simp only [h]
  refine ⟨?_, rfl⟩
  simp (disch := (clear * -; decide +revert)) only [get_put_other, get_put_same]
  rfl

theorem popRx_first {c : Chip} {ty seq t : Nat} {r : List (Nat × Nat × Nat)} (h : (c.ethPort p).rxStamps = (ty, seq, t) :: r) :
    ((c.popRx p).ethPort p).rxStamps = r ∧ (c.popRx p).get (ETH_TSRX_INF_VALID p) = 1
      ∧ (c.popRx p).get (ETH_TSRX_INF_MSGTYPE p) = ty % 16 ∧ (c.popRx p).get (ETH_TSRX_INF_SEQID p) = seq % 2 ^ 16 := by
  rw [Chip.popRx]
  simp only [h]
  refine ⟨congrArg EthPort.rxStamps (ethPort_setEth c p _), ?_⟩
  simp (disch := (clear * -; decide +revert)) only [get_put_other, get_put_same]
  exact ⟨rfl, rfl, rfl⟩

theorem exec_tsrxInf {tx : Bool} {s : State} (h : s.chip.domainOn 11 = true) :
    exec (.tsrxInf p tx) s = .next { s with chip := if tx then s.chip.popTx p else s.chip.popRx p } :=
  exec_onChip rfl (if_neg (by simp [ethOn, h]))

end Ethernet

/-- Settles O39: a received frame by its length, FCS and kind, the accepted one by its entry and the port's rings; the stamp that
precedes acceptance leaves the registers that decide it. -/
theorem ethernetFrames : Obligations.EthernetFrames := by
  unfold Obligations.EthernetFrames
  intro p frame b q part ecc s
  refine ⟨fun h1 h2 h3 => ⟨_, rfl, ethUp_up p h1 h2 h3⟩, fun h => exec_onChip_same rfl (ethUp_still p h),
    fun h => ?_, fun h d c hd hc => ?_, rfl,
    fun hb => ⟨fun h => exec_onChip_same rfl (ethRx_refused p h), fun h1 h2 h3 h4 => ?_⟩, fun h => exec_onChip_same rfl (ethTx_still p h),
    fun h1 h2 h3 c f hs hf => exec_onChip rfl (ethTx_sent p h1 h2 h3 hs hf), fun h => ⟨fun ty seq t r hr => ?_, fun hr => ?_, ?_⟩⟩
  · exact exec_onChip_same (f := fun c => c.ethDown p part) rfl (ethDown_down p h part)
  · exact exec_onChip (f := fun c => c.ethDown p part) rfl (ethDown_up p h part hd hc)
  · have ht : EthTakes p s.chip frame.length := ⟨h1, h2, h3, h4⟩
    refine ⟨fun hf => exec_onChip rfl (ethRx_fcs p hb ht hf), fun hf => ⟨fun hp => exec_onChip rfl (ethRx_pause p hb ht hf hp),
      fun hp c stamped hc => ?_⟩⟩
    have hframe := ethRx_frame p hb ht hf hp
    have hmgmt := isMgmt_stampRx p s.chip b
    rw [← hc] at hframe hmgmt
    dsimp only at hframe hmgmt
    refine ⟨fun hm ha => exec_onChip rfl ?_, fun hm hn ha => exec_onChip_same rfl ?_, fun hm ha h1 he => exec_onChip rfl ?_,
      fun e hm hn he => exec_onChip rfl ?_, fun hm hn ha he => exec_onChip rfl ?_⟩
    · rw [hframe, if_neg (by simp [ha]), ethAccept_mgmt p c b stamped (hmgmt.trans hm)]
    · rw [hframe, if_pos (by simp [hm, hn, ha])]
    · rw [hframe, if_neg, ethAccept_analysis p c b stamped (hmgmt.trans hm) h1 he]
      obtain ha | ha := ha
      · simp [hm, Option.isSome_iff_ne_none.1 ha]
      · simp [ha]
    · rw [hframe, if_neg (by simp [hm, hn]), if_neg (by simp [hm]), hn, ethAccept_entry p c b stamped (hmgmt.trans hm) he]
    · rw [hframe, if_neg (by simp [ha]), if_neg (by simp [hm]), hn, ethAccept_address p c b stamped (hmgmt.trans hm) he]
  · exact ⟨_, exec_tsrxInf p h, popRx_first p hr⟩
  · exact ⟨_, exec_tsrxInf p h, popRx_empty p hr⟩
  · exact exec_tsrxInf p h

end Sys2Proof.Proofs

/-! SUPPORT. The storage port (spec/15_ethernet_and_storage.md R404 to R410): the link, configuration accesses, inbound requests, the cells
of the storage buffer, and block tags. -/

namespace Sys2Proof.Proofs
open Sys2Proof Sys2Proof.Machine Sys2Proof.Machine.Reg Sys2Proof.Laws

/-! ### The link (R404, R405, R408) -/

theorem perstRel_released {c : Chip} (h : c.domainOn 12 = false ∨ c.on PCI_CTL_PERST_REL = true) : perstRel c = c := if_pos h

theorem perstRel_first {c : Chip} (hd : c.domainOn 12 = true) (hp : c.on PCI_CTL_PERST_REL = false) :
    perstRel c = (c.put PCI_CTL_PERST_REL 1).emit (.pin "PERST_N" 0 1) := if_neg (by simp [pciOn, hd, hp])

theorem pciLinkUp_refused {c : Chip} {gen width : Nat} (h : c.domainOn 12 = false ∨ c.get PCI_CTL_EN = 0 ∨ c.get PCI_CTL_PERST_REL = 0
    ∨ c.on PCI_STAT_LINK = true ∨ c.get PCI_CTL_TGT_GEN < gen ∨ width < c.get PCI_CTL_TGT_WIDTH) : pciLinkUp gen width c = c := if_pos h

theorem pciLinkUp_up {c : Chip} {gen width : Nat} (hd : c.domainOn 12 = true) (he : c.get PCI_CTL_EN ≠ 0) (hp : c.get PCI_CTL_PERST_REL ≠ 0)
    (hl : c.on PCI_STAT_LINK = false) (hg : gen ≤ c.get PCI_CTL_TGT_GEN) (hw : c.get PCI_CTL_TGT_WIDTH ≤ width) :
    pciLinkUp gen width c = (((c.put PCI_STAT_LINK 1).put PCI_STAT_GEN gen).put PCI_STAT_WIDTH width).evt PCI_EVT_LINK_UP :=
  if_neg (by simp [pciOn, hd, he, hp, hl, hg, hw])

theorem pciDown_up {s : State} (h : s.chip.on PCI_STAT_LINK = true) :
    s.pciDown = State.failBus { s with chip := (s.chip.put PCI_STAT_LINK 0).evt PCI_EVT_LINK_DOWN } 0 3 := if_pos h

theorem pciDown_down {s : State} (h : s.chip.on PCI_STAT_LINK = false) : s.pciDown = s := if_neg (by simp [h])

theorem pciDisable_off {s : State} (h : s.chip.get PCI_CTL_EN = 0) : s.pciDisable = s := if_pos h

theorem pciDisable_on {s d : State} (h : s.chip.get PCI_CTL_EN ≠ 0) (hd : d = State.pciDown { s with chip := s.chip.put PCI_CTL_EN 0 }) :
    s.pciDisable = { d with chip := d.chip.endDown 6, mem := Memory.clear d.mem sbufBase (sbufBase + 2 ^ 20) } := by
  subst hd
  exact if_neg h

theorem pciCplTmo_other {s : State} {t : Nat} (h : s.chip.busOfTag t ≠ some 0) : s.pciCplTmo t = s := if_neg h

theorem pciCplTmo_ends {s : State} {t : Nat} {x : Tag} (h : s.chip.busOfTag t = some 0) (hx : s.chip.tagAt t = some x) :
    s.pciCplTmo t = State.endAccess { s with chip := ((s.chip.endTransfer 0).inc PCI_CPL_TMO_CNT).evt PCI_EVT_CPL_TMO } t x 3 0 := by
  rw [State.pciCplTmo, if_pos h, hx]

/-! ### Configuration accesses (R405) -/

section Config
variable {c : Chip} {value : Nat} (hd : c.domainOn 12 = true)
include hd

theorem pciCfgData_read (hl : c.on PCI_STAT_LINK = true) (hs : c.get PCI_CFG_ADDR_SELF = 0) :
    pciCfgData none value c = c.put PCI_CFG_DATA_DATA value := by
  simp [pciCfgData, pciOn, hd, hl, hs]

theorem pciCfgData_write (hl : c.on PCI_STAT_LINK = true) (hs : c.get PCI_CFG_ADDR_SELF = 0) (v : Nat) :
    pciCfgData (some v) value c = c.emit (.bytes "PCI_CFG" (c.get PCI_CFG_ADDR_REG) (leBytes v 4)) := by
  simp [pciCfgData, pciOn, hd, hl, hs]

variable (ha : c.on PCI_STAT_LINK = false ∨ c.get PCI_CFG_ADDR_SELF ≠ 0)
include ha

theorem pciCfgData_readFree : pciCfgData none value c = (c.fresh 32).2.put PCI_CFG_DATA_DATA (c.fresh 32).1 := by
  obtain ha | ha := ha <;> simp [pciCfgData, pciOn, hd, ha]

theorem pciCfgData_notSent (v : Nat) : pciCfgData (some v) value c = c := by
  obtain ha | ha := ha <;> simp [pciCfgData, pciOn, hd, ha]

end Config

/-! ### Inbound requests (R406) -/

theorem inbound_off {s : State} {addr len : Nat} {w : Option (List Byte)} (h : s.chip.domainOn 12 = false ∨ s.chip.get PCI_STAT_LINK = 0) :
    s.inbound addr len w = s := if_pos h

/-- A store of bytes, read at any address. -/
theorem byte_setBytes (m : Memory) (a : Nat) (b : List Byte) (i : Nat) :
    Memory.byte (Memory.setBytes m a b) i = if a ≤ i ∧ i < a + b.length then b.getD (i - a) 0 else Memory.byte m i := by
  by_cases h : a ≤ i ∧ i < a + b.length
  · have hi : i - a < b.length := by omega
    have e : a + (i - a) = i := by omega
    have := byte_setBytes_inside (m := m) a b (i - a) hi
    rw [e] at this
    rw [if_pos h, this, List.getD_eq_getElem?_getD, List.getElem?_eq_getElem hi, Option.getD_some]
  · rw [if_neg h]
    exact byte_setBytes_outside a b i (by omega)

section Inbound
variable {s : State} {addr len base : Nat} {b : List Byte} (hd : s.chip.domainOn 12 = true) (hl : s.chip.get PCI_STAT_LINK ≠ 0)
  (hb : base = (s.chip.get PCI_SBUF_BASE_LO_BASE + 2 ^ 32 * s.chip.get PCI_SBUF_BASE_HI_BASE) / 2 ^ 21 * 2 ^ 21)
include hd hl hb

theorem inbound_read :
    s.inbound addr len none = if base ≤ addr ∧ addr + len ≤ base + 2 ^ 20 then
        { s with chip := s.chip.emit (.bytes "PCI_CPL" 0 (Memory.bytes s.mem (sbufBase + (addr - base)) len)) }
      else { s with chip := ((s.chip.inc PCI_UR_CNT).evt PCI_EVT_UR_INBOUND).emit (.bytes "PCI_UR" 0 []) } := by
  rw [State.inbound, if_neg (by simp [pciOn, hd, hl])]
  dsimp only
  rw [← hb]
  by_cases h : base ≤ addr ∧ addr + len ≤ base + sbufSize
  · exact (if_pos (decide_eq_true h)).trans (if_pos h).symm
  · exact (if_neg (by simpa only [decide_eq_true_eq] using h)).trans (if_neg h).symm

theorem inbound_write :
    s.inbound addr len (some b) = if base ≤ addr ∧ addr + b.length ≤ base + 2 ^ 20 then
        { s with mem := Memory.setBytes s.mem (sbufBase + (addr - base)) b }
      else if addr = base + 2 ^ 20 ∧ leNat b < 16 then
        if s.chip.on (PCI_MSIX_RING_EN (leNat b)) then
          { s with chip := s.chip.endToRing 6 (s.chip.get (PCI_MSIX_RING_RING (leNat b))) ⟨sbufHdr 0 (leNat b) 0 5, padTo [] 104⟩ }
        else s
      else { s with chip := (s.chip.inc PCI_UR_CNT).evt PCI_EVT_UR_INBOUND } := by
  rw [State.inbound, if_neg (by simp [pciOn, hd, hl])]
  dsimp only
  rw [← hb]
  by_cases h : base ≤ addr ∧ addr + b.length ≤ base + sbufSize
  · exact (if_pos (decide_eq_true h)).trans (if_pos h).symm
  · exact (if_neg (by simpa only [decide_eq_true_eq] using h)).trans (if_neg h).symm

theorem inbound_writeInside (h1 : base ≤ addr) (h2 : addr + b.length ≤ base + 2 ^ 20) :
    s.inbound addr len (some b) = { s with mem := Memory.setBytes s.mem (sbufBase + (addr - base)) b } :=
  (inbound_write hd hl hb).trans (if_pos ⟨h1, h2⟩)

theorem inbound_message (ha : addr = base + 2 ^ 20) (hn : b ≠ []) (hv : leNat b < 16) :
    s.inbound addr len (some b) = { s with
      chip := if s.chip.on (PCI_MSIX_RING_EN (leNat b)) then
        s.chip.endToRing 6 (s.chip.get (PCI_MSIX_RING_RING (leNat b))) ⟨sbufHdr 0 (leNat b) 0 5, padTo [] 104⟩ else s.chip } := by
  have hlen : 0 < b.length := List.length_pos_of_ne_nil hn
  rw [inbound_write hd hl hb, if_neg (by omega), if_pos ⟨ha, hv⟩]
  split <;> rfl

theorem inbound_unsupported (h1 : addr < base ∨ base + 2 ^ 20 < addr + b.length) (h2 : addr ≠ base + 2 ^ 20 ∨ 16 ≤ leNat b) :
    s.inbound addr len (some b) = { s with chip := (s.chip.inc PCI_UR_CNT).evt PCI_EVT_UR_INBOUND } := by
  rw [inbound_write hd hl hb, if_neg (by omega), if_neg (by omega)]

end Inbound

/-! ### The storage buffer's cells (R406, R407) -/

theorem sbufWr_still {s : State} {ring : Nat} {x : Cell} {ecc : EccFind} (h : p6Up s.chip = false ∨ sbufOp x = 2) :
    s.sbufWr ring x ecc = s := if_pos h

theorem sbufRd_still {s : State} {ring : Nat} {x : Cell} {ecc : EccFind} (h : p6Up s.chip = false ∨ sbufOp x ≠ 2) :
    s.sbufRd ring x ecc = s := if_pos h

section Cells
variable {s : State} {ring : Nat} {x : Cell} {ecc : EccFind} {r : Bool} {c : Chip} (hp : p6Up s.chip = true)
  (hr : (r, c) = s.chip.takeGiven 6 x ecc)
include hp hr

theorem sbufWr_taken (ho : sbufOp x ≠ 2) :
    s.sbufWr ring x ecc = if r = false ∨ sbufOp x ≠ 1 ∨ x.vlen = 0 ∨ 104 < x.vlen then { s with chip := c }
      else if 2 ^ 20 < sbufOff x + x.vlen then { s with chip := c.evt PCI_EVT_SBUF_ERR }
      else { s with
        chip := if x.field 62 1 = 1 then c.endToRing 6 ring ⟨sbufHdr (sbufOff x) 0 0 4, padTo [] 104⟩ else c
        mem := Memory.setBytes s.mem (sbufBase + sbufOff x) (slice x.data 0 x.vlen) } := by
  rw [State.sbufWr, if_neg (by simp [hp, ho])]
  dsimp only
  rw [← hr]
  rfl

theorem sbufRd_taken (ho : sbufOp x = 2) :
    s.sbufRd ring x ecc = if r = false ∨ x.field 26 16 = 0 then { s with chip := c }
      else if 2 ^ 20 < sbufOff x + x.field 26 16 then { s with chip := c.evt PCI_EVT_SBUF_ERR }
      else { s with chip := (List.range ((x.field 26 16 + 103) / 104)).foldl (fun (c : Chip) i =>
        c.endToRing 6 ring ⟨sbufHdr (sbufOff x + 104 * i) 0 (min 104 (x.field 26 16 - 104 * i)) 3,
          padTo (Memory.bytes s.mem (sbufBase + (sbufOff x + 104 * i)) (min 104 (x.field 26 16 - 104 * i))) 104⟩) c } := by
  rw [State.sbufRd, if_neg (by simp [hp, ho])]
  dsimp only
  rw [← hr]
  rfl

end Cells

/-! ### Block tags (R410) -/

section BlockTags
variable {c : Chip} (hd : c.domainOn 12 = true)
include hd

theorem btAlloc_none (h : c.blockTag = none) : btAlloc c = (c.put PCI_BT_ALLOC_TAG 0).put PCI_BT_ALLOC_NONE 1 := by
  rw [btAlloc, if_neg (by simp [pciOn, hd]), h]

theorem btAlloc_some {t : Nat} (h : c.blockTag = some t) :
    (btAlloc c).get PCI_BT_ALLOC_TAG = t % 2 ^ 11 ∧ (btAlloc c).get PCI_BT_ALLOC_NONE = 0
      ∧ (btAlloc c).ends.blockTags = mset false c.ends.blockTags t true := by
  rw [btAlloc, if_neg (by simp [pciOn, hd]), h]
  refine ⟨?_, ?_, rfl⟩
  · simp (disch := decide) only [get_put_other, get_put_same]
    rfl
  · simp only [get_put_same]
    rfl

theorem btFree_held {t : Nat} (h : mget false c.ends.blockTags t = true) :
    btFree t c = { c with ends := { c.ends with blockTags := mset false c.ends.blockTags t false } } := by
  rw [btFree, if_neg (by simp [pciOn, hd]), if_pos h]

theorem btFree_late {t : Nat} (h : mget false c.ends.blockTags t = false) :
    btFree t c = ((c.inc BCH_TAG_LATE).fresh 5).2.logEntry 0x0A 0x40 0 t ((c.inc BCH_TAG_LATE).fresh 5).1 := by
  rw [btFree, if_neg (by simp [pciOn, hd]), if_neg (by simp [h])]

end BlockTags

/-- Settles O40: the link, the inbound requests, the cells and the block tags by the conditions of R404 to R410. -/
theorem storagePort : Obligations.StoragePort := by
  unfold Obligations.StoragePort
  intro gen width tag ring cell addr len bytes value ecc s
  refine ⟨fun hd hp => exec_onChip rfl (perstRel_first hd hp), fun h => exec_onChip_same rfl (perstRel_released h),
    fun hd he hp hl hg hw => exec_onChip rfl (pciLinkUp_up hd he hp hl hg hw), fun h => exec_onChip_same rfl (pciLinkUp_refused h),
    fun h => congrArg Host.Outcome.next (pciDown_up h), fun h => congrArg Host.Outcome.next (pciDown_down h),
    fun h => congrArg Host.Outcome.next (pciDisable_off h), fun h d hd => congrArg Host.Outcome.next (pciDisable_on h hd),
    fun h => congrArg Host.Outcome.next (pciCplTmo_other h), fun x h hx => congrArg Host.Outcome.next (pciCplTmo_ends h hx),
    fun base hb => ⟨fun h w => congrArg Host.Outcome.next (inbound_off h), fun hd hl => ⟨fun h1 h2 => ?_, fun h1 h2 => ?_, fun h => ?_,
      fun ha hn hv => ?_, fun h1 h2 => ?_⟩⟩,
    fun r c off n hp hr hoff hn => ?_, fun h => congrArg Host.Outcome.next (sbufWr_still h),
    fun h => congrArg Host.Outcome.next (sbufRd_still h), fun hd => ⟨fun h => exec_onChip rfl (btAlloc_none hd h),
      fun t h => ⟨_, rfl, btAlloc_some hd h⟩, fun h => exec_onChip rfl (btFree_held hd h), fun h => ⟨_, exec_onChip rfl (btFree_late hd h)⟩,
      fun hl hs => ⟨exec_onChip rfl (pciCfgData_read hd hl hs), fun v => exec_onChip rfl (pciCfgData_write hd hl hs v.toNat)⟩,
      fun h => ⟨⟨_, exec_onChip rfl (pciCfgData_readFree hd h)⟩, fun v => exec_onChip_same rfl (pciCfgData_notSent hd h v.toNat)⟩⟩⟩
  · exact ⟨_, congrArg Host.Outcome.next (inbound_writeInside hd hl hb h1 h2), rfl, fun a => byte_setBytes _ _ _ _⟩
  · exact congrArg Host.Outcome.next ((inbound_read hd hl hb).trans (if_pos ⟨h1, h2⟩))
  · exact congrArg Host.Outcome.next ((inbound_read hd hl hb).trans (if_neg (by omega)))
  · exact congrArg Host.Outcome.next (inbound_message hd hl hb ha hn hv)
  · exact congrArg Host.Outcome.next (inbound_unsupported hd hl hb h1 h2)
  · have hw : sbufOp cell ≠ 2 → exec (.sbufWr ring cell ecc) s = .next _ := fun ho => congrArg Host.Outcome.next (sbufWr_taken hp hr ho)
    have hrd : sbufOp cell = 2 → exec (.sbufRd ring cell ecc) s = .next _ := fun ho => congrArg Host.Outcome.next (sbufRd_taken hp hr ho)
    rw [← hoff] at hw hrd
    rw [← hn] at hrd
    refine ⟨fun ho h => ?_, fun h1 ho v1 v2 hs => ?_, fun h1 ho v1 v2 hs => ?_, fun ho h => ?_, fun h1 ho h0 hs => ?_,
      fun h1 ho h0 h104 hs => ?_, fun h1 ho h0 hs => ?_⟩
    · rw [hw ho, if_pos h]
    · rw [hw (by omega), if_neg (by simp [h1, ho]; omega), if_neg (by omega)]
    · rw [hw (by omega), if_neg (by simp [h1, ho]; omega), if_pos hs]
    · rw [hrd ho, if_pos h]
    · rw [hrd ho, if_neg (by simp [h1, h0]), if_pos hs]
    · have hone : (n + 103) / 104 = 1 := by omega
      rw [hrd ho, if_neg (by simp [h1]; omega), if_neg (by omega), hone]
      simp [List.range_succ, Nat.min_eq_right h104]
    · rw [hrd ho, if_neg (by simp [h1]; omega), if_neg (by omega)]

end Sys2Proof.Proofs

/-! SUPPORT. The USB device function (spec/16_peripheral_bus.md R424 to R432): tokens and SETUP by the endpoint's state, bus reset,
suspend and remote wake, and the carve. -/

namespace Sys2Proof.Proofs
open Sys2Proof Sys2Proof.Machine Sys2Proof.Machine.Reg Sys2Proof.Laws

/-! ### Suspend and wake (R431, R432) -/

section Wake
variable {c : Chip}

theorem usbResume_still (h : devUp c = false ∨ c.get USB_DEV_STAT_SUSPENDED = 0) : usbResume c = c := if_pos h

section Up
variable (hu : devUp c = true)
include hu

theorem usbResume_awake (hs : c.get USB_DEV_STAT_SUSPENDED ≠ 0) (hw : c.ends.usbWake = 0) : usbResume c = c.usbAwake := by
  rw [usbResume, if_neg (by simp [hu, hs])]
  exact if_pos hw

theorem usbResume_wake (hs : c.get USB_DEV_STAT_SUSPENDED ≠ 0) (hw : c.ends.usbWake ≠ 0) :
    usbResume c = if c.ends.usbWake = 2 then ((c.usbAwake.setWake 0).evt USB_EVT_WAKE_DONE).emit (.pin "USB_K" 0 0)
      else (c.usbAwake.setWake 0).evt USB_EVT_WAKE_DONE := by
  rw [usbResume, if_neg (by simp [hu, hs])]
  exact if_neg hw

theorem wake_begins (hs : c.on USB_DEV_STAT_SUSPENDED = true) (hr : c.on USB_DEV_CTL_RWAKE_EN = true) (hw : c.ends.usbWake = 0) :
    wake c = c.setWake 1 := by
  simp [wake, hu, hs, hr, hw]

end Up

theorem wake_down (h : devUp c = false) : wake c = c := by
  simp [wake, h]

theorem exec_usbSuspend {s : State} :
    exec .usbSuspend s = .next { s with chip := if devUp s.chip && !s.chip.on USB_DEV_STAT_SUSPENDED then
      (s.chip.put USB_DEV_STAT_SUSPENDED 1).evt USB_EVT_SUSPEND else s.chip } := rfl

end Wake

/-! ### A token (R426, R428) -/

theorem usbToken_ignored {s : State} {isIn acked : Bool} {e : Nat} {data : List Byte} {u : State}
    (hu : u = { s with chip := usbResume s.chip })
    (h : devUp u.chip = false ∨ u.chip.get USB_DEV_STAT_STATE = 0 ∨ u.chip.get (USB_DEP_EN (b2n isIn) e) = 0) :
    s.usbToken isIn e data acked = u := by
  subst hu
  exact if_pos h

/-- The endpoint takes tokens: the device is connected and the endpoint enabled. -/
structure TakesTokens (c : Chip) (d e : Nat) : Prop where
  up : devUp c = true
  state : c.get USB_DEV_STAT_STATE ≠ 0
  enabled : c.get (USB_DEP_EN d e) ≠ 0

section Token
variable {s u : State} {acked : Bool} {e : Nat} {data : List Byte} (hu : u = { s with chip := usbResume s.chip })
include hu

theorem usbToken_halted {isIn : Bool} (ht : TakesTokens u.chip (b2n isIn) e) (hh : u.chip.on (USB_DEP_HALT (b2n isIn) e) = true) :
    s.usbToken isIn e data acked = { u with chip := (u.chip.put (USB_DEP_SILENT (b2n isIn) e) 0).emit (.pin "USB_DEV" e 2) } := by
  obtain ⟨h1, h2, h3⟩ := ht
  rw [State.usbToken, ← hu]
  dsimp only
  rw [if_neg (by simp [h1, h2, h3]), if_pos hh]
  rfl

theorem usbToken_notReady {isIn : Bool} (ht : TakesTokens u.chip (b2n isIn) e) (hh : u.chip.on (USB_DEP_HALT (b2n isIn) e) = false)
    (hr : u.chip.on (USB_DEP_READY (b2n isIn) e) = false) :
    s.usbToken isIn e data acked = if u.chip.on USB_DEV_CTL_SILENT_EN ∧ u.chip.get (USB_DEP_SILENT (b2n isIn) e) < 2 then
        { u with chip := (u.chip.put (USB_DEP_SILENT (b2n isIn) e) (u.chip.get (USB_DEP_SILENT (b2n isIn) e) + 1)).inc USB_DEV_SILENT }
      else { u with chip := (u.chip.put (USB_DEP_SILENT (b2n isIn) e) 0).emit (.pin "USB_DEV" e 1) } := by
  obtain ⟨h1, h2, h3⟩ := ht
  rw [State.usbToken, ← hu]
  dsimp only
  rw [if_neg (by simp [h1, h2, h3]), if_neg (by simp [hh]), if_neg (by simp [hr])]
  rfl

theorem usbToken_in (ht : TakesTokens u.chip 1 e) (hh : u.chip.on (USB_DEP_HALT 1 e) = false) (hr : u.chip.on (USB_DEP_READY 1 e) = true)
    {c b : Chip} (hc : c = u.chip.put (USB_DEP_SILENT 1 e) 0)
    (hb : b = c.emit (.bytes "USB_DEV" e (Memory.bytes u.mem (c.epAt 1 e) (c.get (USB_DEP_LEN 1 e))))) :
    s.usbToken true e data acked = if acked then
        let x := (b.put (USB_DEP_TOGGLE 1 e) (1 - b.get (USB_DEP_TOGGLE 1 e))).put (USB_DEP_READY 1 e) 0
        { u with chip := if e = 0 ∧ c.get (USB_DEP_LEN 1 e) = 0 then x.applyAddr else x }
      else { u with chip := b } := by
  obtain ⟨h1, h2, h3⟩ := ht
  have hd : b2n true = 1 := rfl
  subst hb hc
  rw [State.usbToken, ← hu]
  dsimp only
  rw [hd, if_neg (by simp [h1, h2, h3]), if_neg (by simp [hh]), if_pos hr]
  rfl

/-- The registers after an OUT packet of `n` bytes is taken. -/
def outTaken (c : Chip) (e n : Nat) : Chip :=
  ((((c.put (USB_DEP_TOGGLE 0 e) (1 - c.get (USB_DEP_TOGGLE 0 e))).put (USB_DEP_LEN 0 e) n).put (USB_DEP_READY 0 e) 0).evt USB_EVT_EP_DONE)

theorem usbToken_out (ht : TakesTokens u.chip 0 e) (hh : u.chip.on (USB_DEP_HALT 0 e) = false) (hr : u.chip.on (USB_DEP_READY 0 e) = true)
    (hl : data.length ≤ (u.chip.put (USB_DEP_SILENT 0 e) 0).get (USB_DEP_MPS 0 e)) :
    s.usbToken false e data acked = { u with
      chip := (outTaken (u.chip.put (USB_DEP_SILENT 0 e) 0) e data.length).emit (.pin "USB_DEV" e 0)
      mem := Memory.setBytes u.mem ((outTaken (u.chip.put (USB_DEP_SILENT 0 e) 0) e data.length).epAt 0 e) data } := by
  obtain ⟨h1, h2, h3⟩ := ht
  have hd : b2n false = 0 := rfl
  rw [State.usbToken, ← hu]
  dsimp only
  rw [hd, if_neg (by simp [h1, h2, h3]), if_neg (by simp [hh]), if_pos hr, if_neg (by simp), if_neg (by omega)]
  rfl

end Token

theorem outTaken_shows (c : Chip) (e : Fin 16) (n : Nat) :
    (outTaken c e n).get (USB_DEP_READY 0 e) = 0 ∧ (outTaken c e n).get (USB_DEP_LEN 0 e) = n % 2 ^ (USB_DEP_LEN 0 e).width
      ∧ (outTaken c e n).get (USB_CARVE_BASE 0 e) = c.get (USB_CARVE_BASE 0 e) := by
  unfold outTaken
  simp (disch := (clear * -; decide +revert)) only [get_evt_off, get_put_other, get_put_same]
  exact ⟨rfl, trivial, trivial⟩

theorem epAt_of_carve {c d : Chip} {k e : Nat} (h : c.get (USB_CARVE_BASE k e) = d.get (USB_CARVE_BASE k e)) : c.epAt k e = d.epAt k e :=
  congrArg (fun n => epmemBase + 64 * n) h

/-! ### SETUP (R427) -/

theorem setupRx_ignored {s u : State} {packet : Nat} (hu : u = { s with chip := usbResume s.chip })
    (h : devUp u.chip = false ∨ u.chip.get USB_DEV_STAT_STATE = 0) : s.setupRx packet = u := by
  subst hu
  exact if_pos h

/-- The registers after a SETUP packet. -/
def setupTaken (c : Chip) : Chip :=
  ((((c.put (USB_DEP_LEN 0 0) 8).put (USB_DEP_READY 1 0) 0).put (USB_DEP_HALT 0 0) 0).put (USB_DEP_HALT 1 0) 0).evt USB_EVT_SETUP_RX

theorem setupRx_taken {s u : State} {packet : Nat} (hu : u = { s with chip := usbResume s.chip }) (h1 : devUp u.chip = true)
    (h2 : u.chip.get USB_DEV_STAT_STATE ≠ 0) :
    (s.setupRx packet).mem = Memory.setBytes u.mem (u.chip.epAt 0 0) (leBytes packet 8)
      ∧ (s.setupRx packet).chip = (setupTaken u.chip).emit (.pin "USB_DEV" 0 0) := by
  rw [State.setupRx, ← hu]
  dsimp only
  rw [if_neg (by simp [h1, h2])]
  refine ⟨congrArg (fun a => Memory.setBytes u.mem a (leBytes packet 8)) (epAt_of_carve ?_), rfl⟩
  simp (disch := decide) only [get_put_other]

theorem setupTaken_halts (c : Chip) : (setupTaken c).get (USB_DEP_HALT 0 0) = 0 ∧ (setupTaken c).get (USB_DEP_HALT 1 0) = 0 := by
  unfold setupTaken
  simp (disch := decide) only [get_evt_off, get_put_other, get_put_same]
  exact ⟨rfl, rfl⟩

/-! ### Bus reset (R429) -/

theorem busReset_down {c : Chip} {hs : Bool} (h : devUp c = false) : busReset hs c = c := if_pos h

/-- The device's own registers and state after a bus reset, before its endpoints are reset. -/
def busAddressed (hs : Bool) (c : Chip) : Chip :=
  ((((((c.usbAwake.setWake 0).put USB_DEV_STAT_ADDR 0).put USB_DEV_CTL_ADDR_PEND 0).put USB_DEV_CTL_CONFIGURED 0).put USB_DEV_CTL_RWAKE_EN 0).put
    USB_DEV_STAT_STATE 1).put USB_DEV_STAT_HS (b2n hs)

/-- A field below the endpoints' registers is left by the reset of the endpoints. -/
theorem get_busReset {c : Chip} {hs : Bool} (h : devUp c = true) {g : Fld} (hg : g.key < 0xe0300 * 32) (hl : g.key / 2 ^ 21 ≠ 0x18)
    (he : g.key ≠ USB_EVT_BUS_RESET.key) : (busReset hs c).get g = (busAddressed hs c).get g := by
  have hdep : ∀ d e, g.key ≠ (USB_DEP_EN d e).key ∧ g.key ≠ (USB_DEP_READY d e).key ∧ g.key ≠ (USB_DEP_SILENT d e).key := fun d e => by
    simp only [USB_DEP_EN, USB_DEP_READY, USB_DEP_SILENT, Fld.key] at hg ⊢
    omega
  have hcnt : g.key ≠ USB_DEV_RESET_CNT.key := by
    have : USB_DEV_RESET_CNT.key = 0xe040c * 32 := by decide
    omega
  rw [busReset, if_neg (by simp [h])]
  dsimp only
  rw [get_inc_other _ _ _ hcnt, get_evt_off _ hl he]
  refine foldl_keeps (fun d : Chip => d.get g) _ _ _ (fun d i => ?_)
  obtain ⟨h1, h2, h3⟩ := hdep (i / 16) (i % 16)
  rw [get_put_other _ _ _ _ h3, get_put_other _ _ _ _ h2]
  split
  · rfl
  · exact get_put_other _ _ _ _ h1

theorem busReset_shows {c : Chip} {hs : Bool} (h : devUp c = true) :
    (busReset hs c).get USB_DEV_STAT_ADDR = 0 ∧ (busReset hs c).get USB_DEV_CTL_CONFIGURED = 0 ∧ (busReset hs c).get USB_DEV_STAT_STATE = 1
      ∧ (busReset hs c).get USB_DEV_STAT_HS = b2n hs := by
  simp (disch := decide) only [get_busReset h]
  unfold busAddressed
  simp (disch := decide) only [get_put_other, get_put_same]
  exact ⟨rfl, rfl, rfl, by cases hs <;> rfl⟩

/-! ### The carve (R425) -/

/-- A carve that overlaps another enabled endpoint's. -/
def carveClash (c : Chip) (d e base units : Nat) : Bool :=
  (List.range 32).any (fun i => decide ((i / 16, i % 16) ≠ (d, e)) && c.on (USB_DEP_EN (i / 16) (i % 16))
    && decide (base < c.get (USB_CARVE_BASE (i / 16) (i % 16)) + c.get (USB_CARVE_UNITS (i / 16) (i % 16))
      ∧ c.get (USB_CARVE_BASE (i / 16) (i % 16)) < base + units))

section Carve
variable {c : Chip} {d e v base units : Nat} (hd : c.domainOn 13 = true) (hb : base = bits v 0 9) (hu : units = bits v 16 5) (h16 : units ≤ 16)
include hd hb hu h16

theorem carveWrite_on :
    c.carveWrite d e v = if c.on (USB_DEP_EN d e) ∨ 512 < base + units ∨ units * 64 < c.get (USB_DEP_MPS d e) ∨ carveClash c d e base units then
        c.evt USB_EVT_CARVE_ERR
      else (c.put (USB_CARVE_BASE d e) base).put (USB_CARVE_UNITS d e) units := by
  rw [Chip.carveWrite, if_neg (by simp [usbOn, hd])]
  dsimp only
  rw [← hb, ← hu, if_pos h16]
  rfl

theorem carveWrite_refused (h : c.on (USB_DEP_EN d e) = true ∨ 512 < base + units ∨ units * 64 < c.get (USB_DEP_MPS d e)) :
    c.carveWrite d e v = c.evt USB_EVT_CARVE_ERR :=
  (carveWrite_on hd hb hu h16).trans (if_pos (h.imp_right (Or.imp_right Or.inl)))

theorem carveWrite_taken (he : c.on (USB_DEP_EN d e) = false) (hs : base + units ≤ 512) (hm : c.get (USB_DEP_MPS d e) ≤ units * 64)
    (ho : ∀ i, i < 32 → c.on (USB_DEP_EN (i / 16) (i % 16)) = true → (i / 16, i % 16) ≠ (d, e) →
      c.get (USB_CARVE_BASE (i / 16) (i % 16)) + c.get (USB_CARVE_UNITS (i / 16) (i % 16)) ≤ base
        ∨ base + units ≤ c.get (USB_CARVE_BASE (i / 16) (i % 16))) :
    c.carveWrite d e v = (c.put (USB_CARVE_BASE d e) base).put (USB_CARVE_UNITS d e) units := by
  have hclash : carveClash c d e base units = false := by
    rw [carveClash, List.any_eq_false]
    intro i hi h
    simp only [Bool.and_eq_true, decide_eq_true_eq] at h
    obtain ⟨⟨hne, hon⟩, h1, h2⟩ := h
    have := ho i (List.mem_range.1 hi) hon hne
    omega
  rw [carveWrite_on hd hb hu h16, if_neg]
  simp only [he, hclash, Bool.false_eq_true, false_or, or_false]
  omega

end Carve

/-- Settles O42: tokens by the endpoint's state; the registers of a bus reset lie below the endpoints' that it resets; the carve by its
four conditions. -/
theorem usbDeviceFunction : Obligations.UsbDeviceFunction := by
  unfold Obligations.UsbDeviceFunction
  intro isIn acked hs e data packet value s d u hd hu
  have next : ∀ {i : Instr} {a b : State}, exec i s = .next a → a = b → exec i s = .next b := fun h e => h.trans (congrArg _ e)
  subst hd
  refine ⟨fun h => next rfl (usbToken_ignored hu h), fun h1 h2 => ⟨fun h3 => ⟨fun hh => next rfl (usbToken_halted hu ⟨h1, h2, h3⟩ hh),
      fun hh hr => ⟨fun hin hl => ?_, fun hin c b hc hb => ?_⟩, fun hh hr => ⟨fun hs hn => ?_, fun hs => ?_⟩⟩, ?_⟩,
    fun h => next rfl (setupRx_ignored hu h), fun h => ⟨exec_onChip_same rfl (busReset_down h), ?_, ?_, ?_⟩,
    fun h => ⟨⟨_, rfl, busReset_shows h⟩, fun h1 => ?_, fun h1 => ?_, fun h1 h2 => ?_, fun h1 h2 c hc => ?_, fun h1 => ?_, fun h1 h2 h3 => ?_⟩,
    rfl, rfl, fun h base units hb hu16 h16 => ⟨fun h1 => ?_, fun h1 h2 h3 h4 => ?_⟩⟩
  · subst hin
    obtain ⟨g1, g2, g3⟩ := outTaken_shows (u.chip.put (USB_DEP_SILENT 0 e) 0) e data.length
    refine ⟨_, congrArg Host.Outcome.next (usbToken_out hu ⟨h1, h2, h3⟩ hh hr hl), g1, g2,
      congrArg (fun a => Memory.setBytes u.mem a data) (epAt_of_carve (g3.trans (get_put_other _ _ _ _ ?_)))⟩
    clear * -
    decide +revert
  · subst hin
    have ht := usbToken_in (data := data) (acked := acked) hu ⟨h1, h2, h3⟩ hh hr hc hb
    refine ⟨fun ha => next rfl (ht.trans (if_neg (by simp [ha]))), fun ha he => next rfl (ht.trans ((if_pos ha).trans ?_))⟩
    dsimp only
    rw [if_neg (fun h => he h.1)]
  · exact next rfl ((usbToken_notReady hu ⟨h1, h2, h3⟩ hh hr).trans (if_pos ⟨hs, hn⟩))
  · refine next rfl ((usbToken_notReady hu ⟨h1, h2, h3⟩ hh hr).trans (if_neg (fun h => ?_)))
    obtain hs | hs := hs
    · simp [hs] at h
    · omega
  · obtain ⟨hm, hc⟩ := setupRx_taken (packet := packet.toNat) hu h1 h2
    exact ⟨_, rfl, hm, (congrArg (fun c : Chip => c.get (USB_DEP_HALT 0 0)) hc).trans (setupTaken_halts _).1,
      (congrArg (fun c : Chip => c.get (USB_DEP_HALT 1 0)) hc).trans (setupTaken_halts _).2⟩
  · rw [exec_usbSuspend, if_neg (by simp [h])]
  · exact exec_onChip_same rfl (usbResume_still (.inl h))
  · exact exec_onChip_same rfl (wake_down h)
  · rw [exec_usbSuspend, if_pos (by simp [h, h1])]
  · exact exec_onChip_same rfl (usbResume_still (.inr h1))
  · exact exec_onChip rfl (usbResume_awake h h1 h2)
  · exact exec_onChip rfl (hc ▸ usbResume_wake h h1 h2)
  · rw [exec_usbSuspend, if_neg (by simp [h1])]
  · exact exec_onChip rfl (wake_begins h h1 h2 h3)
  · exact exec_onChip (f := fun c => c.carveWrite (b2n isIn) e value.toNat) rfl (carveWrite_refused h hb hu16 h16 h1)
  · exact exec_onChip (f := fun c => c.carveWrite (b2n isIn) e value.toNat) rfl (carveWrite_taken h hb hu16 h16 h1 h2 h3 h4)

end Sys2Proof.Proofs

/-! SUPPORT. The USB host (spec/16_peripheral_bus.md R415 to R422): its ports, the cells that join a pipe, the pipe's configuration and
the micro-frame. -/

namespace Sys2Proof.Proofs
open Sys2Proof Sys2Proof.Machine Sys2Proof.Machine.Reg Sys2Proof.Laws

/-! ### The host at rest -/

section Off
variable {s : State} (h : hostRuns s.chip = false)
include h

theorem usbCell_off (cell : Cell) (ecc : EccFind) : s.onChip (usbCell cell ecc) = .next s := by
  have hc : usbCell cell ecc s.chip = s.chip := if_pos h
  rw [State.onChip, hc]

theorem exec_hostPorts_off (k : Fin 4) : exec (.usbPortReset k) s = .next s ∧ exec (.usbConnect k) s = .next s
    ∧ exec (.usbDisconnect k) s = .next s ∧ exec (.portResume k) s = .next s :=
  ⟨exec_onChip_same rfl (if_pos h), exec_onChip_same rfl (if_pos (.inl h)), exec_onChip_same rfl (if_pos (.inl h)),
    exec_onChip_same (f := fun c => if hostRuns c && c.on (USB_PORT_SUSPEND (k.val + 1)) then c.evt USB_EVT_PORT_RESUME else c) rfl
      (if_neg (by simp [h]))⟩

theorem exec_hostCells_off (ring : Fin 64) (cell : Cell) (ecc : EccFind) : exec (.setup ring cell ecc) s = .next s
    ∧ exec (.out ring cell ecc) s = .next s ∧ exec (.inReq ring cell ecc) s = .next s ∧ exec (.cancel ring cell ecc) s = .next s := by
  have hc := usbCell_off h cell ecc
  refine ⟨?_, ?_, ?_, ?_⟩
  · exact (apply_ite (· = Host.Outcome.next s) _ _ _).mpr (by rw [hc]; split <;> rfl)
  · exact (apply_ite (· = Host.Outcome.next s) _ _ _).mpr (by rw [hc]; split <;> rfl)
  · exact (apply_ite (· = Host.Outcome.next s) _ _ _).mpr (by rw [hc]; split <;> rfl)
  · exact (apply_ite (· = Host.Outcome.next s) _ _ _).mpr (by rw [hc]; split <;> rfl)

end Off

/-! ### Ports (R416) -/

section Ports
variable {c : Chip} {k : Nat}

theorem usbPortReset_runs (h : hostRuns c = true) :
    usbPortReset k c = (({ c with ends := { c.ends with usbReset := setBit c.ends.usbReset k } } : Chip).usbPortDown (k + 1)).emit
      (.pin "USB_RESET" (k + 1) 1) := if_neg (by simp [h])

theorem usbConnect_new (h : hostRuns c = true) (hc : c.on (USB_PORT_CONNECTED (k + 1)) = false) :
    usbConnect k c = (c.put (USB_PORT_CONNECTED (k + 1)) 1).evt USB_EVT_CONNECT := if_neg (by simp [h, hc])

theorem usbDisconnect_gone (h : hostRuns c = true) (hc : c.get (USB_PORT_CONNECTED (k + 1)) ≠ 0) :
    usbDisconnect k c = ((c.put (USB_PORT_CONNECTED (k + 1)) 0).usbPortDown (k + 1)).evt USB_EVT_DISCONNECT := if_neg (by simp [h, hc])

theorem usbPortResetEnd_still {speed : Nat} (h : c.domainOn 13 = false ∨ bit c.ends.usbReset k = false) : usbPortResetEnd k speed c = c :=
  if_pos h

theorem usbPortResetEnd_ends {speed : Nat} (hd : c.domainOn 13 = true) (hr : bit c.ends.usbReset k = true) {d : Chip}
    (h : d = Chip.emit { c with ends := { c.ends with usbReset := clrBit c.ends.usbReset k } } (.pin "USB_RESET" (k + 1) 0)) :
    usbPortResetEnd k speed c = if d.on (USB_PORT_CONNECTED (k + 1)) ∧ speed ≠ 0 then
      (d.put (USB_PORT_SPEED (k + 1)) speed).put (USB_PORT_EN (k + 1)) 1 else d := by
  subst h
  exact if_neg (by simp [usbOn, hd, hr])

theorem usbPortSuspend_on {v : Bool} (hd : c.domainOn 13 = true) {d : Chip} (h : d = c.put (USB_PORT_SUSPEND (k + 1)) (b2n v)) :
    usbPortSuspend k v c = if c.on (USB_PORT_SUSPEND (k + 1)) ∧ v = false then
      { d with ends := { d.ends with usbResume := setBit d.ends.usbResume k } } else d := by
  subst h
  exact if_neg (by simp [usbOn, hd])

theorem usbHostDisable_off (h : c.get USB_HOST_CTL_EN = 0) : usbHostDisable c = c := if_pos h

theorem usbHostDisable_on (h : c.get USB_HOST_CTL_EN ≠ 0) {d : Chip}
    (hd : d = c.ends.pipes.foldl (fun (x : Chip) e => if e.2.queue.isEmpty then x else x.put (USB_PIPE_A_HALTED e.1) 1)
      (c.put USB_HOST_CTL_EN 0)) : usbHostDisable c = Chip.endDown { d with ends := { d.ends with pipes := [] } } 8 := by
  subst hd
  exact if_neg h

end Ports

/-! ### Pipes (R417, R419) -/

theorem pipeWrite_b {c : Chip} {k v : Nat} (hd : c.domainOn 13 = true) :
    c.pipeWrite k true v = if c.on (USB_PIPE_A_EN k) then c
      else ((c.put (USB_PIPE_B_RING k) (bits v 0 6)).put (USB_PIPE_B_PERIOD_EXP k) (bits v 8 4)).put (USB_PIPE_B_PHASE k) (bits v 16 15) :=
  if_neg (by simp [usbOn, hd])

theorem pipeWrite_a {c : Chip} {k v : Nat} (hd : c.domainOn 13 = true) : c.pipeWrite k false v = c.pipeA k v :=
  if_neg (by simp [usbOn, hd])

theorem usbCell_runs {s c : Chip} {cell : Cell} {ecc : EccFind} {r : Bool} {n : Nat} {x : UsbPipe} (h : hostRuns s = true)
    (hr : (r, c) = s.takeGiven 8 cell ecc) (hn : n = usbPipeNo cell) (hx : x = c.pipe n) :
    usbCell cell ecc s = if r = false then c
      else if usbOp cell = opCancel then (c.endTransferOf n doneCancelled).settleNow n
      else if x.skip ∧ usbOp cell = opOut then c.setPipe n { x with skip := !cell.eom }
      else (c.setPipe n { x with queue := x.queue ++ [cell], skip := false }).settleNow n := by
  subst hn hx
  rw [usbCell, if_neg (by simp [h]), ← hr]

/-- Each of the four cell commands, on a cell of its OP, is the taking of a cell. -/
theorem exec_usbCell {i : Instr} {ring : Fin 64} {cell : Cell} {ecc : EccFind} (s : State)
    (hi : (i = .setup ring cell ecc ∧ usbOp cell ≠ opOut ∧ usbOp cell ≠ opInReq ∧ usbOp cell ≠ opCancel)
      ∨ (i = .out ring cell ecc ∧ usbOp cell = opOut) ∨ (i = .inReq ring cell ecc ∧ usbOp cell = opInReq)
      ∨ (i = .cancel ring cell ecc ∧ usbOp cell = opCancel)) : exec i s = .next { s with chip := usbCell cell ecc s.chip } := by
  obtain ⟨rfl, h1, h2, h3⟩ | ⟨rfl, h⟩ | ⟨rfl, h⟩ | ⟨rfl, h⟩ := hi
  · exact if_neg (by simp [h1, h2, h3])
  · exact if_pos h
  · exact if_pos h
  · exact if_pos h

/-! ### The micro-frame (R421) -/

/-- The chip at the start of a micro-frame: its number is shown. -/
def framed (c : Chip) (m : Nat) : Chip := ((c.put USB_UFRAME_CNT m).put USB_FRAME_UFRAME m).put USB_FRAME_FRAME (m / 8)

theorem sendSof_frame {γ : Type} (g : Chip → γ) (hg : ∀ c o, g (Chip.emit c o) = g c) (c : Chip) : g c.sendSof = g c := by
  refine foldl_keeps g _ _ _ (fun d p => ?_)
  dsimp only
  split
  · exact hg _ _
  · rfl

theorem microFrame_empty {c : Chip} (h : hostRuns c = true) :
    microFrame [] c = (framed c ((c.get USB_UFRAME_CNT + 1) % 2 ^ 32)).sendSof := by
  rw [microFrame, if_neg (by simp [h])]
  exact foldl_keeps id _ (List.range 32) _ (fun d k => rfl)

theorem get_framed (c : Chip) (m : Nat) : (framed c m).get USB_UFRAME_CNT = m % 2 ^ 32 := by
  unfold framed
  simp (disch := decide) only [get_put_other, get_put_same]
  rfl

/-- Settles O41: the ports and pipes by their conditions; the cell commands are one taking of a cell; an empty micro-frame makes SOF
alone. -/
theorem usbHost : Obligations.UsbHost := by
  unfold Obligations.UsbHost
  intro k speed v pipe value ring cell ecc txns s k1 hk1
  subst hk1
  refine ⟨fun h => ?_, fun h => ⟨exec_onChip rfl (usbPortReset_runs h), fun hc => exec_onChip rfl (usbConnect_new h hc),
      fun hc => exec_onChip_same rfl (if_pos (.inr hc)), fun hc => exec_onChip rfl (usbDisconnect_gone h hc),
      fun hc => exec_onChip_same rfl (if_pos (.inr hc)), ?_, ?_, ?_, ?_⟩,
    fun hd hr c hc => exec_onChip rfl (usbPortResetEnd_ends hd hr hc), fun h => exec_onChip_same rfl (usbPortResetEnd_still h),
    fun hd c hc => exec_onChip rfl (usbPortSuspend_on hd hc), rfl, fun h => exec_onChip_same rfl (usbHostDisable_off h),
    fun h c hc => exec_onChip rfl (usbHostDisable_on h hc), fun h hp => exec_onChip rfl ?_, fun hd => ⟨fun he => ?_, fun he => ?_, ?_⟩⟩
  · obtain ⟨p1, p2, p3, p4⟩ := exec_hostPorts_off h k
    obtain ⟨c1, c2, c3, c4⟩ := exec_hostCells_off h ring cell ecc
    exact ⟨p1, p2, p3, p4, c1, c2, c3, c4, exec_onChip_same rfl (if_pos h)⟩
  · refine exec_onChip (f := fun c => if hostRuns c && c.on (USB_PORT_SUSPEND (k.val + 1)) then c.evt USB_EVT_PORT_RESUME else c) rfl ?_
    simp only [h, Bool.true_and]
  · intro r c n x hr hn hx i hi
    have hexec := exec_usbCell s hi
    rw [usbCell_runs h hr hn hx] at hexec
    refine ⟨fun h1 => ?_, fun h1 h2 => ?_, fun h1 h2 h3 => ?_, fun h1 h2 h3 => ?_⟩
    · rw [hexec, if_pos h1]
    · rw [hexec, if_neg (by simp [h1]), if_pos h2]
    · rw [hexec, if_neg (by simp [h1]), if_neg (by rw [h3]; decide), if_pos ⟨h2, h3⟩]
    · rw [hexec, if_neg (by simp [h1]), if_neg h2, if_neg]
      rintro ⟨g2, g3⟩
      obtain h3 | h3 := h3
      · simp [h3] at g2
      · exact h3 g3
  · rintro m c rfl rfl f g rfl rfl
    exact exec_onChip rfl (if_neg (by simp [h]))
  · rintro rfl
    refine ⟨_, exec_onChip rfl (microFrame_empty h), ?_, ?_, fun hd => ?_⟩
    · rw [sendSof_frame (fun d => d.get USB_UFRAME_CNT) (fun _ _ => rfl), get_framed, Nat.mod_mod]
    · exact sendSof_frame (fun d : Chip => d.ends.pipes) (fun _ _ => rfl) _
    · exact sendSof_frame (fun d => d.hand hd) (fun _ _ => rfl) _
  · rw [usbHostDisable_on h rfl, hp]
    rfl
  · exact exec_onChip_same (f := fun c => c.pipeWrite pipe true value.toNat) rfl ((pipeWrite_b hd).trans (if_pos he))
  · exact exec_onChip (f := fun c => c.pipeWrite pipe true value.toNat) rfl ((pipeWrite_b hd).trans (if_neg (by simp [he])))
  · exact exec_onChip (f := fun c => c.pipeWrite pipe false value.toNat) rfl (pipeWrite_a hd)

end Sys2Proof.Proofs

/-! SUPPORT. The display heads (spec/17_display.md R435 to R449): training and HPD, the timing and shadow registers, commits and blanks,
self-refresh, the display cells and AUX. -/

namespace Sys2Proof.Proofs
open Sys2Proof Sys2Proof.Machine Sys2Proof.Machine.Reg Sys2Proof.Laws

/-! ### The link and the registers (R436, R437, R441, R444) -/

section Registers
variable {c : Chip} {h : Nat} (hd : c.domainOn 10 = true)
include hd

theorem dspTrain_on (passes : List (Nat × Nat)) :
    dspTrain h passes c = match (combos (c.get (DSP_HCTL_RATE h)) (c.get (DSP_HCTL_LANES h))).find?
        (fun x => c.carries h x.1 x.2 && passes.contains x) with
      | some x => ((c.put (DSP_HSTAT_LINK h) 1).put (DSP_HSTAT_RATE h) x.1).put (DSP_HSTAT_LANES h) x.2
      | none => (c.put (DSP_HSTAT_LINK h) 0).evt (DSP_EVT_TRAIN_FAIL h) := if_neg (by simp [frameOn, hd])

theorem hpdUnplug_plugged (hp : c.get (DSP_HSTAT_HPD h) ≠ 0) :
    hpdUnplug h c = ((c.put (DSP_HSTAT_HPD h) 0).put (DSP_HSTAT_LINK h) 0).evt (DSP_EVT_HPD_CHG h) := if_neg (by simp [frameOn, hd, hp])

theorem hpdIrq_plugged (hp : c.on (DSP_HSTAT_HPD h) = true) : hpdIrq h c = c.evt (DSP_EVT_HPD_IRQ h) := if_pos (by simp [frameOn, hd, hp])

theorem timingWrite_zero (v : Nat) :
    c.timingWrite h 0 v = if bit v 0 ∧ c.timingOk h = false then c.evt DSP_EVT_CFG_ERR else c.hctl h v := by
  rw [Chip.timingWrite.eq_def, if_neg (by simp [frameOn, hd]), if_pos rfl]
  split
  · exact if_pos ‹_›
  · rfl

theorem timingWrite_enabled {reg : Nat} (v : Nat) (hr : reg ≠ 0) (he : c.on (DSP_HCTL_EN h) = true) :
    c.timingWrite h reg v = c.evt DSP_EVT_CFG_ERR := by
  rw [Chip.timingWrite.eq_def, if_neg (by simp [frameOn, hd]), if_neg hr, if_pos he]
  rfl

theorem shadowWrite_pending (reg v : Nat) (hp : c.on (DSP_COMMIT_PEND h) = true) : c.shadowWrite h reg v = c.evt DSP_EVT_CFG_ERR := by
  rw [Chip.shadowWrite.eq_def, if_neg (by simp [frameOn, hd]), if_pos hp]
  rfl

end Registers

/-! ### Commits and blanks (R442 to R445) -/

section Commit
variable {c : Chip} {h : Nat}

theorem commit_pending (hp : c.on (DSP_COMMIT_PEND h) = true) : c.commit h = c := if_pos hp

section Free
variable (hp : c.on (DSP_COMMIT_PEND h) = false)
include hp

theorem commit_beyond (hf : c.surfaceFits h = false) : c.commit h = c.evt DSP_EVT_CFG_ERR := by
  rw [Chip.commit, if_neg (by simp [hp]), if_pos hf]

theorem commit_atOnce (hf : c.surfaceFits h = true) (he : c.get (DSP_HCTL_EN h) = 0) :
    c.commit h = (c.copySurface h).evt (DSP_EVT_FLIP h) := by
  rw [Chip.commit, if_neg (by simp [hp]), if_neg (by simp [hf]), if_pos he]

theorem commit_waits (hf : c.surfaceFits h = true) (he : c.get (DSP_HCTL_EN h) ≠ 0) :
    c.commit h = Chip.leavePsr ((c.put (DSP_COMMIT_PEND h) 1).setHead h
      { c.head h with late := b2n (decide (c.toBlank h < 2 * c.get (DSP_TIME_H_TOTAL h))) }) h := by
  rw [Chip.commit, if_neg (by simp [hp]), if_neg (by simp [hf]), if_neg he]

end Free

theorem exec_go {h2 : Fin 2} {s : State} (hd : s.chip.domainOn 10 = true) : exec (.go h2) s = .next { s with chip := s.chip.commit h2 } :=
  exec_onChip (f := fun c => if frameOn c then c.commit h2 else c) rfl (if_pos hd)

theorem verticalBlank_still {found : List ScrubFind} (hs : c.get (DSP_HCTL_EN h) = 0 ∨ c.selfRefresh h = true) :
    verticalBlank h found c = c := if_pos (.inr hs)

theorem verticalBlank_runs {found : List ScrubFind} (hd : c.domainOn 10 = true) (he : c.get (DSP_HCTL_EN h) ≠ 0)
    (hs : c.selfRefresh h = false) {c0 c1 d : Chip} (h0 : c0 = found.foldl (fun s f => s.scanFind f) c)
    (h1 : c1 = c0.setHead h { c0.head h with blankAt := c0.tick, idle := (c0.head h).idle + 1 })
    (h2 : d = (if c1.get (DSP_HSTAT_PSR_STATE h) = 1 then (c1.put (DSP_HSTAT_PSR_STATE h) 2).evt (DSP_EVT_PSR_CHG h) else c1)) :
    verticalBlank h found c = if d.get (DSP_COMMIT_PEND h) = 0 then d
      else if (d.head h).late = 1 then (d.setHead h { d.head h with late := 2 }).evt (DSP_EVT_COMMIT_LATE h) else d.flip h := by
  subst h2 h1 h0
  exact if_neg (by simp [frameOn, hd, he, hs])

theorem underrun_late (hd : c.domainOn 10 = true) (he : c.on (DSP_HCTL_EN h) = true) (hs : c.selfRefresh h = false) :
    underrun h c = (c.inc (DSP_UNDERRUN h)).evt (DSP_EVT_UNDERRUN h) := if_pos (by simp [frameOn, hd, he, hs])

theorem psrEntry_idle (hd : c.domainOn 10 = true) (he : c.on (DSP_HCTL_EN h) = true) (hm : c.on (DSP_HCTL_MODE h) = true)
    (hp : c.on (DSP_HCTL_PSR_EN h) = true) (h0 : c.get (DSP_HSTAT_PSR_STATE h) = 0) (hi : c.get (DSP_HCTL_PSR_IDLE h) < (c.head h).idle) :
    psrEntry h c = c.put (DSP_HSTAT_PSR_STATE h) 1 := if_pos (by simp [frameOn, hd, he, hm, hp, h0, hi])

end Commit

/-! ### Display cells (R448, R449) -/

theorem dspBad_write {x : Cell} (hb : dspBad x = false) (ho : dspOp x = 1) : x.vlen ≠ 0 ∧ dspAddr x + x.vlen ≤ frameSize := by
  rw [dspBad, if_pos ho, decide_eq_false_iff_not] at hb
  omega

theorem dspCell_on {s : State} {cell : Cell} {ecc : EccFind} {r : Bool} {c : Chip} (hd : s.chip.domainOn 10 = true)
    (hr : s.chip.takeGiven 7 cell ecc = (r, c)) :
    s.dspCell cell ecc = if r = false then { s with chip := c }
      else if dspBad cell then { s with chip := (c.inc DSP_CELL_BAD).evt DSP_EVT_CELL_BAD }
      else if dspOp cell = 1 then
        { s with
          chip := (c.touched (dspAddr cell) cell.vlen).healFrame (dspAddr cell) cell.vlen
          mem := Memory.setBytes s.mem (frameBase + dspAddr cell) (slice cell.data 0 cell.vlen) }
      else if dspOp cell = 2 then { s with chip := c.commit (cell.field 30 1) }
      else { s with chip := c.endToRing 7 (c.get DSP_CTL_RING) cell } := by
  rw [State.dspCell, if_neg (by simp [frameOn, hd]), hr]

/-- Each of the three cell commands, on a cell of its OP, is the taking of a cell. -/
theorem exec_dspCell {i : Instr} {ring : Fin 64} {cell : Cell} {ecc : EccFind} (s : State)
    (hi : (i = .dspWrite ring cell ecc ∧ dspOp cell ≠ 2 ∧ dspOp cell ≠ 3) ∨ (i = .dspCommit ring cell ecc ∧ dspOp cell = 2)
      ∨ (i = .dspSync ring cell ecc ∧ dspOp cell = 3)) : exec i s = .next (s.dspCell cell ecc) := by
  obtain ⟨rfl, h1, h2⟩ | ⟨rfl, h⟩ | ⟨rfl, h⟩ := hi
  · exact if_neg (by simp [h1, h2])
  · exact if_pos h
  · exact if_pos h

theorem exec_dspCell_other {ring : Fin 64} {cell : Cell} {ecc : EccFind} (s : State) :
    (dspOp cell = 2 ∨ dspOp cell = 3 → exec (.dspWrite ring cell ecc) s = .next s)
      ∧ (dspOp cell ≠ 2 → exec (.dspCommit ring cell ecc) s = .next s) ∧ (dspOp cell ≠ 3 → exec (.dspSync ring cell ecc) s = .next s) :=
  ⟨fun h => if_pos h, fun h => if_neg h, fun h => if_neg h⟩

theorem exec_dspCells_off {s : State} (h : s.chip.domainOn 10 = false) (ring : Fin 64) (cell : Cell) (ecc : EccFind) :
    exec (.dspWrite ring cell ecc) s = .next s ∧ exec (.dspCommit ring cell ecc) s = .next s ∧ exec (.dspSync ring cell ecc) s = .next s := by
  have hc : s.dspCell cell ecc = s := if_pos h
  have hi := fun (i : Instr) hi => (exec_dspCell (ring := ring) (i := i) (ecc := ecc) (cell := cell) s hi).trans (congrArg Host.Outcome.next hc)
  obtain ⟨h1, h2, h3⟩ := exec_dspCell_other (ring := ring) (cell := cell) (ecc := ecc) s
  refine ⟨?_, ?_, ?_⟩
  · by_cases ho : dspOp cell = 2 ∨ dspOp cell = 3
    · exact h1 ho
    · exact hi _ (.inl ⟨rfl, not_or.1 ho⟩)
  · by_cases ho : dspOp cell = 2
    · exact hi _ (.inr (.inl ⟨rfl, ho⟩))
    · exact h2 ho
  · by_cases ho : dspOp cell = 3
    · exact hi _ (.inr (.inr ⟨rfl, ho⟩))
    · exact h3 ho

/-! ### AUX (R435) -/

theorem auxGo_busy {c : Chip} {h : Nat} (hb : c.on (DSP_AUX_STAT_BUSY h) = true) : auxGo h c = c := if_pos (.inr hb)

theorem auxGo_starts {c : Chip} {h : Nat} (hd : c.domainOn 10 = true) (hb : c.on (DSP_AUX_STAT_BUSY h) = false) :
    (auxGo h c).get (DSP_AUX_STAT_BUSY h) = 1 := by
  rw [auxGo, if_neg (by simp [frameOn, hd, hb])]
  exact get_put_same _ _ _

theorem auxDone_still {c : Chip} {h reply : Nat} {data : List Byte} (hb : c.get (DSP_AUX_STAT_BUSY h) = 0) : auxDone h reply data c = c :=
  if_pos (.inr hb)

theorem auxDone_busy {c d : Chip} {h reply : Nat} {data : List Byte} (hd : c.domainOn 10 = true) (hb : c.get (DSP_AUX_STAT_BUSY h) ≠ 0)
    (hc : d = (c.put (DSP_AUX_STAT_BUSY h) 0).put (DSP_AUX_STAT_REPLY h) reply) :
    auxDone h reply data c = (if reply = 0 ∧ c.get (DSP_AUX_CTL_CMD h) % 2 = 0 then
        (List.range 4).foldl (fun (x : Chip) k =>
          x.put (DSP_AUX_DATA_DATA h k) (rd (data.take (d.auxLen h) ++ (d.auxData h).drop (min (d.auxLen h) data.length)) (4 * k) 4)) d
      else d).evt (DSP_EVT_AUX_DONE h) := by
  have hcmd : d.get (DSP_AUX_CTL_CMD h) = c.get (DSP_AUX_CTL_CMD h) := by
    rw [hc, get_put_other, get_put_other]
    all_goals
      simp only [DSP_AUX_CTL_CMD, DSP_AUX_STAT_BUSY, DSP_AUX_STAT_REPLY, Fld.key]
      omega
  rw [auxDone, if_neg (by simp [frameOn, hd, hb])]
  dsimp only
  rw [← hc, hcmd]

/-- Settles O43: each command by its conditions with PD-FRAME on; with it off each is its own first test. -/
theorem displayHeads : Obligations.DisplayHeads := by
  unfold Obligations.DisplayHeads
  rintro h reply h2 passes reg sreg value ring cell ecc found rep data s rfl rfl
  have timing : exec (.dspTiming h2 reg value) s = s.onChip (fun c => c.timingWrite h2 reg value.toNat) := rfl
  have shadow : exec (.dspShadow h2 sreg value) s = s.onChip (fun c => c.shadowWrite h2 sreg value.toNat) := rfl
  refine ⟨fun hd => ?_, fun hd => ⟨fun t ht => ?_, ?_, fun hp => exec_onChip rfl (hpdUnplug_plugged hd hp),
    fun hp => exec_onChip rfl (hpdIrq_plugged hd hp), fun hr he => ?_, fun hr => ?_, fun hr he => ?_,
    fun hp => ⟨exec_onChip shadow (shadowWrite_pending hd _ _ hp), (exec_go hd).trans (congrArg _ (by rw [commit_pending hp]))⟩, fun hp => ⟨?_, fun hf => ?_, fun hf he => ?_, fun hf he => ?_⟩,
    fun hs => exec_onChip_same rfl (verticalBlank_still hs), fun he hs c0 c1 c h0 h1 hc => exec_onChip rfl (verticalBlank_runs hd he hs h0 h1 hc),
    fun he hs => exec_onChip rfl (underrun_late hd he hs), fun he hm hp h0 hi => exec_onChip rfl (psrEntry_idle hd he hm hp h0 hi), ?_,
    fun r c i hr hi => ?_, exec_dspCell_other s, fun hb => exec_onChip_same rfl (auxGo_busy hb), fun hb => ⟨_, rfl, auxGo_starts hd hb⟩,
    fun hb => exec_onChip_same rfl (auxDone_still hb), fun hb hr hm c b hc hbb => ?_, fun hb hr => ?_⟩⟩
  · obtain ⟨w1, w2, w3⟩ := exec_dspCells_off hd ring cell ecc
    have hf : frameOn s.chip = false := hd
    exact ⟨exec_onChip_same rfl (if_pos hd), exec_onChip_same rfl (if_neg (by simp [hf])), exec_onChip_same rfl (if_pos (.inl hd)),
      exec_onChip_same rfl (if_neg (by simp [hf])), exec_onChip_same timing (if_pos hd), exec_onChip_same shadow (if_pos hd),
      exec_onChip_same (f := fun c => if frameOn c then c.commit h2 else c) rfl (if_neg (by simp [hf])),
      exec_onChip_same rfl (if_pos (.inl hd)), exec_onChip_same rfl (if_neg (by simp [hf])), exec_onChip_same rfl (if_neg (by simp [hf])),
      exec_onChip_same (f := fun c => if frameOn c then c.leavePsr h2 else c) rfl (if_neg (by simp [hf])), w1, w2, w3,
      exec_onChip_same rfl (if_pos (.inl hd)), exec_onChip_same rfl (if_pos (.inl hd))⟩
  · refine exec_onChip rfl ((dspTrain_on hd _).trans ?_)
    cases t <;> simp only [ht]
  · exact exec_onChip rfl (if_pos hd)
  · exact exec_onChip timing (timingWrite_enabled hd _ (fun h => hr (Fin.ext h)) he)
  · subst hr
    exact exec_onChip timing (timingWrite_zero hd _)
  · have hr' : reg.val ≠ 0 := fun h => hr (Fin.ext h)
    refine exec_onChip timing ((if_neg (by simp [frameOn, hd])).trans ((if_neg hr').trans ((if_neg (by simp [he])).trans ?_)))
    clear hr hr' timing
    fin_cases reg <;> rfl
  · refine exec_onChip shadow ((if_neg (by simp [frameOn, hd])).trans ((if_neg (by simp [hp])).trans ?_))
    clear shadow
    fin_cases sreg <;> rfl
  · rw [exec_go hd, commit_beyond hp hf]
  · rw [exec_go hd, commit_atOnce hp hf he]
  · rw [exec_go hd, commit_waits hp hf he]
  · exact exec_onChip (f := fun c => if frameOn c then c.leavePsr h2 else c) rfl (if_pos hd)
  · rw [exec_dspCell s hi, dspCell_on hd hr]
    refine ⟨fun h1 => by rw [if_pos h1], fun h1 hb => ?_, fun h1 hb ho => ⟨?_, dspBad_write hb ho⟩, fun h1 hb ho => ?_, fun h1 hb ho => ?_⟩
    · rw [if_neg (by simp [h1]), if_pos hb]
    · rw [if_neg (by simp [h1]), if_neg (by simp [hb]), if_pos ho]
    · rw [if_neg (by simp [h1]), if_neg (by simp [hb]), if_neg (by omega), if_pos ho]
    · rw [if_neg (by simp [h1]), if_neg (by simp [hb]), if_neg (by omega), if_neg (by omega)]
  · refine exec_onChip rfl ((auxDone_busy hd hb hc).trans ?_)
    rw [if_pos ⟨congrArg Fin.val hr, hm⟩, ← hbb]
  · refine exec_onChip rfl ((auxDone_busy hd hb rfl).trans ?_)
    rw [if_neg]
    rintro ⟨g1, g2⟩
    obtain hr | hr := hr
    · exact hr (Fin.ext g1)
    · omega

end Sys2Proof.Proofs

/-! SUPPORT. Field I/O and the shutter (spec/18_field_io_and_shutter.md R452 to R463; spec/20_power_states.md R505, R506): what the
shutter action leaves, the release, the event queue and the inputs. -/

namespace Sys2Proof.Proofs
open Sys2Proof Sys2Proof.Machine Sys2Proof.Machine.Reg Sys2Proof.Laws

/-! ### The shutter action (R458, R460) -/

/-- The outputs are safe, the power locked and the queue emptied: the node after the steps of Table 18.2 that precede DONE. -/
def madeSafe (c : Chip) : Chip :=
  let s := c.put FLD_SHUT_STAT_SHUT 1
  let s := ((s.driveAll (s.get FLD_SAFE_SAFE_PATTERN)).emit (.pin "SHUTTER_N" 0 0)).lockPower
  { s with field := { s.field with queue := [], waiting := s.field.waiting.map TatWait.cutOff } }

/-- The events that the queue held are counted, and the action is recorded. -/
def shutRecorded (c : Chip) (dropped : Nat) : Chip :=
  let s := c.addSat FLD_EVQ_DISCARD dropped
  let s := if dropped = 0 then s else s.evt FLD_EVT_EVQ_DISCARD
  let s := (s.put FLD_SHUT_STAT_DONE 1).inc FLD_SHUT_CNT
  let s := (s.put FLD_SHUT_TIME_LO_NS s.ns).put FLD_SHUT_TIME_HI_NS (s.ns / 2 ^ 32)
  s.evtDetail FLD_EVT_SHUT 0 (s.get FLD_SHUT_CAUSE_CAUSE) 0

section Shutter
variable {c : Chip} {cause : Nat}

theorem shutter_again (h : (c.setBitOf FLD_SHUT_CAUSE_CAUSE cause).shuttered = true) :
    c.shutter cause = c.setBitOf FLD_SHUT_CAUSE_CAUSE cause := if_pos h

theorem shutter_first (h : (c.setBitOf FLD_SHUT_CAUSE_CAUSE cause).shuttered = false) :
    c.shutter cause = shutRecorded (madeSafe (c.setBitOf FLD_SHUT_CAUSE_CAUSE cause)) c.field.queue.length := if_neg (by simp [h])

theorem get_madeSafe_shut (c : Chip) : (madeSafe c).get FLD_SHUT_STAT_SHUT = 1 :=
  (get_lockPower (by unfold OutsideChannels; decide) _).trans ((get_driveAll (by decide) _ _).trans (get_put_same _ _ _))

theorem shutRecorded_field (c : Chip) (n : Nat) : (shutRecorded c n).field = c.field := by
  unfold shutRecorded
  dsimp only
  rw [evtDetail_field]
  by_cases h : n = 0 <;> simp [h]

/-- The record leaves every register but its own, its events and the log. -/
theorem get_shutRecorded (c : Chip) (n : Nat) {g : Fld} (hl : g.key / 2 ^ 21 ≠ 0x18) (h1 : g.key ≠ FLD_EVQ_DISCARD.key)
    (h2 : g.key ≠ FLD_EVT_EVQ_DISCARD.key) (h3 : g.key ≠ FLD_SHUT_CNT.key) (h4 : g.key ≠ FLD_SHUT_TIME_LO_NS.key)
    (h5 : g.key ≠ FLD_SHUT_TIME_HI_NS.key) (h6 : g.key ≠ FLD_EVT_SHUT.key) :
    (shutRecorded c n).get g = (c.put FLD_SHUT_STAT_DONE 1).get g := by
  have hev : (if n = 0 then c.addSat FLD_EVQ_DISCARD n else (c.addSat FLD_EVQ_DISCARD n).evt FLD_EVT_EVQ_DISCARD).get g = c.get g := by
    split
    · exact get_addSat_other _ _ _ _ h1
    · exact (get_evt_off _ hl h2).trans (get_addSat_other _ _ _ _ h1)
  unfold shutRecorded
  dsimp only
  rw [get_evtDetail_other _ _ _ _ _ _ hl h6, get_put_other _ _ _ _ h5, get_put_other _ _ _ _ h4, get_inc_other _ _ _ h3]
  by_cases hd : g.key = FLD_SHUT_STAT_DONE.key
  · simp only [Chip.get, Chip.put, hd, mget_mset_same]
  · rw [get_put_other _ _ _ _ hd, get_put_other _ _ _ _ hd, hev]

/-- An unshuttered node is shuttered with DONE, and its event queue is empty. -/
theorem shutter_acts (h : (c.setBitOf FLD_SHUT_CAUSE_CAUSE cause).shuttered = false) :
    (c.shutter cause).shuttered = true ∧ (c.shutter cause).get FLD_SHUT_STAT_DONE = 1 ∧ (c.shutter cause).field.queue = [] := by
  rw [shutter_first h]
  refine ⟨?_, ?_, ?_⟩
  · rw [Chip.shuttered, Chip.on, get_shutRecorded _ _ (by decide) (by decide) (by decide) (by decide) (by decide) (by decide) (by decide),
      get_put_other _ _ _ _ (by decide), get_madeSafe_shut]
    rfl
  · rw [get_shutRecorded _ _ (by decide) (by decide) (by decide) (by decide) (by decide) (by decide) (by decide)]
    exact get_put_same _ _ _
  · rw [shutRecorded_field]
    rfl

end Shutter

/-! ### The release (R463) -/

section Release
variable {id : SlotId} {o : Order} {s c : Chip} {body : List Byte} {ack : Nat} (hs : s.starts id 0x60 anyBody o) (hc : c = s.orderBegun id o)
  (hb : body = o.bytes.drop 16) (ha : ack = rd body 0 4)
include hs hc hb ha

theorem shutterRelease_starts :
    shutterRelease id s = if body.length ≠ 4 ∨ 8192 ≤ ack then c.docketReady id stBadArgs []
      else if c.shuttered = false then c.docketReady id stDone [0, 0, 0, 0]
      else if c.get FLD_SHUT_LIVE_LIVE ≠ 0 ∨ c.get FLD_SHUT_CAUSE_CAUSE &&& ack ≠ c.get FLD_SHUT_CAUSE_CAUSE then
        c.docketReady id stRefused (leBytes (c.get FLD_SHUT_CAUSE_CAUSE) 4 ++ leBytes (c.get FLD_SHUT_LIVE_LIVE) 4)
      else c.release.docketReady id stDone (leBytes (c.get FLD_SHUT_CAUSE_CAUSE) 4) := by
  subst ha hb hc
  exact startOrder_runs hs _

end Release

/-! ### The event queue (R452) -/

theorem exec_fieldEventDue (bad : Bool) (s : State) :
    exec (.fieldEventDue bad) s = .next (s.settle (if bad && decide (s.chip.field.queue ≠ []) then s.chip.shutter causeQueue
      else (fieldEventDue s.chip).acceptTats)) := rfl

theorem exec_fieldEventDue_empty {bad : Bool} {s : State} (h : s.chip.field.queue = []) :
    exec (.fieldEventDue bad) s = .next (s.settle s.chip.acceptTats)
      ∧ (s.chip.field.waiting = [] → exec (.fieldEventDue bad) s = .next s) := by
  have he : exec (.fieldEventDue bad) s = .next (s.settle s.chip.acceptTats) := by
    rw [exec_fieldEventDue, if_neg (by simp [h]), fieldEventDue, h]
  refine ⟨he, fun hw => he.trans ?_⟩
  rw [Chip.acceptTats, hw]
  exact congrArg _ (settle_self s)

theorem fieldEventDue_head {c : Chip} {e : FieldEvent} {r : List FieldEvent} (h : c.field.queue = e :: r) :
    fieldEventDue c = if c.ns < e.target ∨ c.shuttered = true then c
      else if r.any (fun x => decide (x.output = e.output ∧ x.target = e.target)) then { c with field := { c.field with queue := r } }
      else Chip.driveOut { c with field := { c.field with queue := r } } e.output e.level := by
  rw [fieldEventDue, h]

/-! ### The inputs (R454, R455) -/

theorem debounce_still {i : Fin 16} {c : Chip} (h : mget 0 c.field.cand i = 0 ∨ c.get (FLD_IN_CFG_EN i) = 0 ∨ c.domainOn 14 = false) :
    debounce i c = c := if_pos h

/-- The level that has held is taken. -/
def levelTaken (c : Chip) (i : Fin 16) (lv : Bool) : Chip :=
  Chip.put { c with field := { c.field with cand := mset 0 c.field.cand i 0 } } FLD_IN_LEVEL
    (if lv then setBit (c.get FLD_IN_LEVEL) i else clrBit (c.get FLD_IN_LEVEL) i)

/-- The edge is stamped and counted. -/
def edgeTaken (c : Chip) (i : Fin 16) (at_ : Nat) : Chip :=
  ((c.put (FLD_IN_STAMP_LO_NS i) (at_ / 2 * 2)).put (FLD_IN_STAMP_HI_NS i) (at_ / 2 * 2 / 2 ^ 32)).addWrap (FLD_IN_CNT_EDGES i) 1

theorem get_levelTaken (c : Chip) (i : Fin 16) (lv : Bool) {g : Fld} (h : g.key ≠ FLD_IN_LEVEL.key) : (levelTaken c i lv).get g = c.get g :=
  get_put_other { c with field := { c.field with cand := mset 0 c.field.cand i 0 } } _ _ _ h

/-- The fields of an input's configuration and count are none of what its level's taking writes. -/
theorem get_levelTaken_input (c : Chip) (i : Fin 16) (lv : Bool) :
    (levelTaken c i lv).get (FLD_IN_CFG_EDGE i) = c.get (FLD_IN_CFG_EDGE i)
      ∧ (levelTaken c i lv).get (FLD_IN_CFG_ROUTE_EN i) = c.get (FLD_IN_CFG_ROUTE_EN i)
      ∧ (levelTaken c i lv).get (FLD_IN_CNT_EDGES i) = c.get (FLD_IN_CNT_EDGES i) := by
  simp (disch := (clear * -; decide +revert)) only [get_levelTaken, and_self]

theorem get_edgeTaken (c : Chip) (i : Fin 16) (at_ : Nat) :
    (edgeTaken c i at_).get (FLD_IN_STAMP_LO_NS i) = at_ / 2 * 2 % 2 ^ 32
      ∧ (edgeTaken c i at_).get (FLD_IN_CNT_EDGES i) = (c.get (FLD_IN_CNT_EDGES i) + 1) % 2 ^ 16
      ∧ (edgeTaken c i at_).get (FLD_IN_CFG_ROUTE_EN i) = c.get (FLD_IN_CFG_ROUTE_EN i) := by
  unfold edgeTaken Chip.addWrap
  simp (disch := (clear * -; decide +revert)) only [get_put_other, get_put_same]
  exact ⟨rfl, rfl, trivial⟩

/-- A new level `lv`, first seen at `at_`, has held at an enabled input. -/
structure LevelHeld (c : Chip) (i : Fin 16) (at_ : Nat) (lv : Bool) : Prop where
  cand : mget 0 c.field.cand i ≠ 0
  en : c.get (FLD_IN_CFG_EN i) ≠ 0
  on : c.domainOn 14 = true
  since : at_ = mget 0 c.field.cand i - 1
  level : lv = bit c.field.raw i

section Held
variable {i : Fin 16} {c : Chip} {at_ : Nat} {lv : Bool} (h : LevelHeld c i at_ lv)
include h

theorem debounce_held :
    debounce i c = if edgeMatches (c.get (FLD_IN_CFG_EDGE i)) lv then
        if c.on (FLD_IN_CFG_ROUTE_EN i) then
          (edgeTaken (levelTaken c i lv) i at_).raise ((edgeTaken (levelTaken c i lv) i at_).inputHand i) 6
        else edgeTaken (levelTaken c i lv) i at_
      else levelTaken c i lv := by
  obtain ⟨h1, h2, h3, rfl, rfl⟩ := h
  obtain ⟨hedge, hroute, -⟩ := get_levelTaken_input c i (bit c.field.raw i)
  obtain ⟨-, -, hroute'⟩ := get_edgeTaken (levelTaken c i (bit c.field.raw i)) i (mget 0 c.field.cand i - 1)
  rw [← hedge, Chip.on, ← hroute, ← hroute']
  exact if_neg (by simp [h1, h2, h3])

theorem debounce_edge (he : edgeMatches (c.get (FLD_IN_CFG_EDGE i)) lv = true) (hr : c.get (FLD_IN_CFG_ROUTE_EN i) = 0) :
    (debounce i c).get (FLD_IN_STAMP_LO_NS i) = at_ / 2 * 2 % 2 ^ 32
      ∧ (debounce i c).get (FLD_IN_CNT_EDGES i) = (c.get (FLD_IN_CNT_EDGES i) + 1) % 2 ^ 16 := by
  obtain ⟨hstamp, hcount, -⟩ := get_edgeTaken (levelTaken c i lv) i at_
  obtain ⟨-, -, hlevel⟩ := get_levelTaken_input c i lv
  rw [debounce_held h, if_pos he, if_neg (by simp [Chip.on, hr])]
  exact ⟨hstamp, hlevel ▸ hcount⟩

theorem debounce_noEdge (he : edgeMatches (c.get (FLD_IN_CFG_EDGE i)) lv = false) :
    (debounce i c).get (FLD_IN_CNT_EDGES i) = c.get (FLD_IN_CNT_EDGES i)
      ∧ (debounce i c).get FLD_IN_LEVEL = (if lv then setBit (c.get FLD_IN_LEVEL) i else clrBit (c.get FLD_IN_LEVEL) i) % 2 ^ 16 := by
  obtain ⟨-, -, hlevel⟩ := get_levelTaken_input c i lv
  rw [debounce_held h, if_neg (by simp [he])]
  exact ⟨hlevel, get_put_same _ _ _⟩

end Held

/-- The fields of FLD_IN_CFG_i as a write leaves them. -/
def inputConfigured (i : Fin 16) (v : Nat) (s : Chip) : Chip :=
  let s := s.put (FLD_IN_CFG_EN i) (bits v 0 1)
  let s := if bits v 1 2 = 3 then s else s.put (FLD_IN_CFG_EDGE i) (bits v 1 2)
  let s := s.put (FLD_IN_CFG_ROUTE_EN i) (bits v 3 1)
  let s := if 16 < bits v 4 5 then s else s.put (FLD_IN_CFG_BENCH i) (bits v 4 5)
  (s.put (FLD_IN_CFG_HAND i) (bits v 9 2)).put (FLD_IN_CFG_DEBOUNCE i) (bits v 16 16)

/-- A choice between a chip and the same chip with another field written leaves a field. -/
theorem get_ite_put (p : Prop) [Decidable p] (c : Chip) {f g : Fld} (v : Nat) (h : g.key ≠ f.key) :
    (if p then c else c.put f v).get g = c.get g := by
  split
  · rfl
  · exact get_put_other _ _ _ _ h

theorem get_inputConfigured_edges (i : Fin 16) (v : Nat) (c : Chip) :
    (inputConfigured i v c).get (FLD_IN_CNT_EDGES i) = c.get (FLD_IN_CNT_EDGES i) := by
  unfold inputConfigured
  simp (disch := (clear * -; decide +revert)) only [get_put_other, get_ite_put]

theorem get_takeLevel_edges (c : Chip) (i : Fin 16) : (c.takeLevel i).get (FLD_IN_CNT_EDGES i) = c.get (FLD_IN_CNT_EDGES i) :=
  get_put_other { c with field := { c.field with cand := mset 0 c.field.cand i 0 } } _ _ _ (by clear * -; decide +revert)

theorem fieldInputEnable_set {i : Fin 16} {c : Chip} {value : Word} (ho : c.on (FLD_IN_CFG_EN i) = false) (hv : value.toNat % 2 = 1) :
    mget 0 (fieldInputEnable i value c).field.cand i = 0 ∧ (fieldInputEnable i value c).get (FLD_IN_CNT_EDGES i) = c.get (FLD_IN_CNT_EDGES i) := by
  have he : fieldInputEnable i value c = (inputConfigured i value.toNat c).takeLevel i := if_pos ⟨ho, hv⟩
  rw [he, get_takeLevel_edges, get_inputConfigured_edges]
  exact ⟨mget_mset_same 0 (inputConfigured i value.toNat c).field.cand i 0, rfl⟩

/-- Settles O44: the shutter action is the steps that make the node safe and the record of it, which keeps SHUT and the empty queue; the
rest by the conditions of the release, the queue and the inputs. -/
theorem shutterActsAndReleases : Obligations.ShutterActsAndReleases := by
  unfold Obligations.ShutterActsAndReleases
  intro i level bad value tj rail id s
  refine ⟨rfl, fun h => exec_onChip rfl (if_neg (by simp [h])), fun h => exec_onChip_same rfl (if_pos h), ?_, ?_, fun c cause h => ?_,
    fun c cause h => shutter_again h, fun o c body ack hs hc hb ha => ?_, exec_fieldEventDue_empty, fun hb hq => ?_, fun e r hb hq => ?_,
    ?_, fun h => exec_onChip_same rfl (debounce_still h), fun h1 h2 h3 at_ lv hat hlv => ⟨_, rfl, debounce_edge ⟨h1, h2, h3, hat, hlv⟩,
      debounce_noEdge ⟨h1, h2, h3, hat, hlv⟩⟩, rfl, ⟨_, rfl, fieldInputEnable_set⟩⟩
  · rintro c rfl
    rfl
  · rintro c rfl
    rfl
  · obtain ⟨hshut, hdone, hqueue⟩ := shutter_acts h
    obtain ⟨he, hw⟩ := exec_fieldEventDue_empty (bad := bad) (s := { s with chip := c.shutter cause }) hqueue
    exact ⟨hshut, hdone, hqueue, he, hw⟩
  · have hex : exec (.shutterRelease id) s = .next _ := exec_onChip rfl (shutterRelease_starts hs hc hb ha)
    refine ⟨fun h => ?_, fun h1 h2 h3 => ?_, fun h1 h2 h3 h4 => ?_, fun h1 h2 h3 h4 h5 => ?_⟩
    · rw [hex, if_pos h]
    · rw [hex, if_neg (by omega), if_pos h3]
    · rw [hex, if_neg (by omega), if_neg (by simp [h3]), if_pos h4]
    · rw [hex, if_neg (by omega), if_neg (by simp [h3]), if_neg (by simp [h4, h5])]
  · rw [exec_fieldEventDue, if_pos (by simp [hb, hq])]
    rfl
  · rw [exec_fieldEventDue, if_neg (by simp [hb]), fieldEventDue_head hq]
  · rintro c rfl
    rfl

end Sys2Proof.Proofs

/-! SUPPORT. The intake channels (spec/19_harness_intake_and_docks.md R470 to R481): a trip's registers, and the channels' commands by
their conditions. -/

namespace Sys2Proof.Proofs
open Sys2Proof Sys2Proof.Machine Sys2Proof.Machine.Reg Sys2Proof.Laws

/-! ### A trip (R475) -/

theorem get_evtBit_off {f g : Fld} (c : Chip) (i : Nat) (hg : g.key / 2 ^ 21 ≠ 0x18) (h : g.key ≠ f.key) : (c.evtBit f i).get g = c.get g :=
  get_evtBit_other c f g i hg h

theorem get_ite_evtBit {f g : Fld} (b : Bool) (c : Chip) (i : Nat) (hg : g.key / 2 ^ 21 ≠ 0x18) (h : g.key ≠ f.key) :
    (if b = true then c.evtBit f i else c).get g = c.get g := by
  split
  · exact get_evtBit_off _ _ hg h
  · rfl

/-- A channel other than UPWR, tripped and opened. -/
theorem openChannel_tripped (c : Chip) (k : Nat) (h4 : k ≠ 4) :
    ∃ x, c.openChannel k 3 = if c.on (HVI_CH_STAT_PG k) then
        Chip.evtBit { ((c.put (HVI_CH_STAT_STATE k) 3).put (HVI_CH_STAT_PG k) 0).put (HVI_CH_STAT_FAULT_TMR k) 0 with hvi := x } HVI_EVT_PG_CHG k
      else { ((c.put (HVI_CH_STAT_STATE k) 3).put (HVI_CH_STAT_PG k) 0).put (HVI_CH_STAT_FAULT_TMR k) 0 with hvi := x } := by
  refine ⟨mset {} c.hvi k { mget {} c.hvi k with timers := [0, 0, 0, 0, 0, 0, 0, 0], uv := 0 }, ?_⟩
  unfold Chip.openChannel
  dsimp only
  rw [if_pos rfl, if_neg h4]
  rfl

/-- The registers of an opened channel, behind the event of its PG. -/
theorem get_openChannel_tripped (c : Chip) (k : Fin 6) (h4 : k.val ≠ 4) {g : Fld} (hl : g.key / 2 ^ 21 ≠ 0x18) (he : g.key ≠ HVI_EVT_PG_CHG.key) :
    (c.openChannel k 3).get g = (((c.put (HVI_CH_STAT_STATE k) 3).put (HVI_CH_STAT_PG k) 0).put (HVI_CH_STAT_FAULT_TMR k) 0).get g := by
  obtain ⟨x, hx⟩ := openChannel_tripped c k h4
  exact (congrArg (fun d : Chip => d.get g) hx).trans (get_ite_evtBit _ _ _ hl he)

theorem get_trip (f : Chip) (c : Fin 6) (cause : Nat) (h4 : c.val ≠ 4) (h8 : cause < 8) :
    (f.trip c cause).get (HVI_CH_STAT_CAUSE c) = cause ∧ (f.trip c cause).get (HVI_CH_STAT_STATE c) = 3
      ∧ (f.trip c cause).get (HVI_CH_STAT_PG c) = 0 := by
  have hopen := fun {g : Fld} => get_openChannel_tripped f c h4 (g := g)
  unfold Chip.trip
  simp (disch := (clear * -; decide +revert)) only [get_evtBit_off, get_inc_other, get_put_same, get_put_other, hopen]
  exact ⟨Nat.mod_eq_of_lt h8, rfl, rfl⟩

/-! ### ON, CLEAR and the limits (R470, R471, R474, R475) -/

section Writes
variable {f : Chip} {c : Nat}

theorem writeOn_starts (ho : f.chanOn c = false) (hm : f.mayClose c = true) : f.writeOn c 1 = f.startRamp c := by
  rw [Chip.writeOn, if_neg (by decide), if_neg (by simp [ho]), if_pos hm]

theorem writeOn_refused (ho : f.chanOn c = false) (hm : f.mayClose c = false) : f.writeOn c 1 = f.evt HVI_EVT_CFG_ERR := by
  rw [Chip.writeOn, if_neg (by decide), if_neg (by simp [ho]), if_neg (by simp [hm])]

theorem writeOn_driven (ho : f.chanOn c = true) : f.writeOn c 1 = f ∧ f.writeOn c 0 = f.openChannel c (f.offState c) := by
  rw [Chip.writeOn, Chip.writeOn, if_neg (by decide), if_pos ho, if_pos rfl, if_pos ho]
  exact ⟨rfl, rfl⟩

theorem writeOn_zero (ho : f.chanOn c = false) : f.writeOn c 0 = f.put (HVI_CH_CTL_ON c) 0 := by
  rw [Chip.writeOn, if_pos rfl, if_neg (by simp [ho])]

theorem limits_harness (hc : c < 2) : f.limits c = (f.chanLimit c (HVI_CH_LIMITS_UV c), f.chanLimit c (HVI_CH_LIMITS_OV c)) := by
  have hd : isDock c = false := by
    simp only [isDock, Bool.or_eq_false_iff, beq_eq_false_iff_ne]
    omega
  exact if_neg (by simp [hd])

theorem chanLimit_lodge (hc : c < 2) (ho : f.get HVI_CTL_OWNER = 0) (g : Fld) : f.chanLimit c g = f.fused g := if_pos ⟨hc, ho⟩

theorem chanLimit_steward (ho : f.get HVI_CTL_OWNER ≠ 0) (g : Fld) : f.chanLimit c g = f.get g := if_neg (fun h => ho h.2)

end Writes

/-! ### Trips and retries (R472, R473, R475) -/

section Trips
variable {c : Fin 6} {f : Chip}

theorem breakerTrip_on (ho : f.chanOn c = true) :
    breakerTrip c f = match f.reachedPoint c with
      | some k => ((f.trip c 1).put (HVI_CH_STAT_POINT c) k).enforceDockPower
      | none => f := if_pos ho

theorem tripRetry_starts (hs : f.get (HVI_CH_STAT_STATE c) = 3) (hr : f.get (HVI_CH_STAT_RETRIES c) < f.get (HVI_CH_CTL_RETRY_LIM c))
    (ho : f.on (HVI_CH_CTL_ON c) = true) (hl : f.lodgeHolds c = false)
    (hk : f.lockable c = false ∨ (f.shuttered = false ∧ f.onDockPower = false)) :
    tripRetry c f = (f.inc (HVI_CH_STAT_RETRIES c)).put (HVI_CH_STAT_STATE c) 1 := by
  refine if_pos ⟨hs, hr, ho, hl, ?_⟩
  obtain hk | ⟨h1, h2⟩ := hk
  · simp [hk]
  · simp [h1, h2]

theorem tripRetry_not (h : f.get (HVI_CH_STAT_STATE c) ≠ 3 ∨ f.get (HVI_CH_CTL_RETRY_LIM c) ≤ f.get (HVI_CH_STAT_RETRIES c)
    ∨ f.on (HVI_CH_CTL_ON c) = false ∨ f.lodgeHolds c = true) : tripRetry c f = f := by
  refine if_neg (fun hn => ?_)
  obtain ⟨g1, g2, g3, g4, -⟩ := hn
  obtain h | h | h | h := h
  · exact h g1
  · omega
  · simp [h] at g3
  · simp [h] at g4

end Trips

/-- Settles O45: the writes, trips, retries and findings by their conditions; a trip's registers stand behind the events it sets. -/
theorem intakeChannels : Obligations.IntakeChannels := by
  unfold Obligations.IntakeChannels
  intro c d value owner channels va vb s
  refine ⟨?_, fun f => ⟨writeOn_starts, writeOn_refused, writeOn_driven, writeOn_zero⟩, rfl,
    fun ho => ⟨fun k hk => exec_onChip rfl ((breakerTrip_on ho).trans (by rw [hk])),
      fun hk => exec_onChip_same rfl ((breakerTrip_on ho).trans (by rw [hk])), exec_onChip rfl (if_pos ho)⟩,
    fun ho => ⟨exec_onChip_same rfl (if_neg (by simp [ho])), exec_onChip_same rfl (if_neg (by simp [ho]))⟩, rfl, fun f cause => get_trip f c cause,
    fun hs hr ho hl hk => exec_onChip rfl (tripRetry_starts hs hr ho hl hk), fun h => exec_onChip_same rfl (tripRetry_not h),
    fun f ho hc => ?_, fun f ho hc => ?_, fun h => ?_, fun h => ?_, fun h1 h2 h3 => exec_onChip rfl (if_pos ⟨h1, h2, h3⟩),
    fun h => exec_onChip_same rfl (if_neg (fun hn => h hn.1)), rfl, rfl, rfl⟩
  · rintro e f g rfl rfl rfl
    rfl
  · rw [limits_harness hc, chanLimit_lodge hc ho, chanLimit_lodge hc ho]
  · rw [limits_harness hc, chanLimit_steward ho, chanLimit_steward ho]
  · exact exec_onChip (f := fun f => f.clearTrip c) rfl (if_pos h)
  · exact exec_onChip_same (f := fun f => f.clearTrip c) rfl (if_neg h)

end Sys2Proof.Proofs

/-! SUPPORT. The docks (spec/19_harness_intake_and_docks.md R482 to R490): Type-C states, what a detach leaves, and the Power Delivery
messages. -/

namespace Sys2Proof.Proofs
open Sys2Proof Sys2Proof.Machine Sys2Proof.Machine.Reg Sys2Proof.Laws

theorem dck_setDck (c : Chip) (d : Nat) (x : Dock) : (c.setDck d x).dck d = x := mget_mset_same _ _ _ _

theorem dck_of_docks {c e : Chip} (h : c.docks = e.docks) (d : Nat) : c.dck d = e.dck d := by
  rw [Chip.dck, h]
  rfl

theorem chan_of_hvi {c e : Chip} (h : c.hvi = e.hvi) (k : Nat) : c.chan k = e.chan k := by
  rw [Chip.chan, h]
  rfl

/-- A field other than STATE's leaves the port's state. -/
theorem attached_of_state {c e : Chip} {d : Nat} (h : c.dckState d = e.dckState d) : c.attached d = e.attached d := by
  rw [Chip.attached, Chip.attached, h]

/-! ### CC (R490) -/

section Cc
variable {c : Chip} {d : Nat}

theorem readCc_unattached (h : c.attached d = false) (b : Bool) : c.readCc d b = c := if_pos h

theorem readCc_open (h : c.attached d = true) : c.readCc d true = c.setDck d { c.dck d with ccOpen := true } := by
  rw [Chip.readCc, if_neg (by simp [h])]
  rfl

theorem readCc_closed (h : c.attached d = true) (hh : (c.dck d).held = []) :
    c.readCc d false = c.setDck d { c.dck d with ccOpen := false, held := [] } := by
  rw [Chip.readCc, if_neg (by simp [h]), hh]
  rfl

end Cc

/-! ### Toggling, attach and detach (R482, R483) -/

section TypeC
variable {c : Chip} {d : Fin 2}

theorem drpToggle_still (h1 : c.dckState d ≠ dckSnk) (h2 : c.dckState d ≠ dckSrc) : drpToggle d c = c := if_pos ⟨h1, h2⟩

theorem drpToggle_unattached (h : c.dckState d = dckSnk ∨ c.dckState d = dckSrc) :
    drpToggle d c = c.put (DCK_TC_STAT_STATE d) (if c.get (DCK_TC_CTL_POLICY d) = 0 ∧ c.on HVI_CTL_OWNER then
      (if c.dckState d = dckSnk then dckSrc else dckSnk) else c.unattached d) := by
  rw [drpToggle, if_neg (fun hn => h.elim hn.1 hn.2)]
  split <;> rfl

theorem attach_attached {orient source : Bool} {rp : Fin 3} (h : c.attached d = true) : attach d orient source rp c = c.readCc d false :=
  if_pos h

theorem attach_other {orient source : Bool} {rp : Fin 3} (h : c.attached d = false) (hs : c.dckState d ≠ (if source then dckSrc else dckSnk)) :
    attach d orient source rp c = c := by
  rw [attach, if_neg (by simp [h]), if_pos hs]

theorem attach_matches {orient source : Bool} {rp : Fin 3} (h : c.attached d = false) (hs : c.dckState d = (if source then dckSrc else dckSnk))
    {c0 e : Chip} (h0 : c0 = ((c.put (DCK_TC_STAT_STATE d) (if source then dckAttachedSrc else dckAttachedSnk)).put (DCK_TC_STAT_ORIENT d)
      (b2n orient)).put (DCK_TC_STAT_PROLE d) (b2n source))
    (he : e = (((c0.put (DCK_TC_STAT_DROLE d) (b2n source)).put (DCK_TC_STAT_PARTNER_RP d) (if source then 0 else rp)).evt
      (DCK_EVT_ATTACH d)).inc (DCK_ATTACH_CNT d)) :
    attach d orient source rp c = if source then e else e.deadBattery d := by
  subst he h0
  rw [attach, if_neg (by simp [h]), if_neg (not_not.2 hs)]

theorem detachable_iff : c.detachable d = true ↔ (c.attached d = true ∨ (c.dckState d = dckWet ∧ (c.dck d).wetAttached = true)) := by
  simp only [Chip.detachable, Bool.or_eq_true, Bool.and_eq_true, beq_iff_eq]

theorem detachPort_still (h : c.detachable d = false) : detachPort d c = c := if_pos h

end TypeC

/-! ### What a detach leaves (R483) -/

/-- The contract has ended: VSEL and CONTRACT are 0, nothing waits to be sent, and no voltage change is under way. -/
theorem endContract_leaves (c : Chip) (d : Fin 2) :
    (c.endContract d).get (DCK_TC_STAT_VSEL d) = 0 ∧ (c.endContract d).get (DCK_TC_STAT_CONTRACT d) = 0
      ∧ ((c.endContract d).dck d).sent = none ∧ ((c.endContract d).chan (2 + d)).changing = false := by
  refine ⟨?_, get_put_same _ _ _, congrArg Dock.sent (dck_setDck _ _ _), ?_⟩
  · exact (get_put_other ((c.put (DCK_TC_STAT_VSEL d) 0).emit (.pin "VSEL" d 0)) _ _ _ (by clear * -; decide +revert)).trans
      (get_put_same _ _ _)
  · exact congrArg Chan.changing (mget_mset_same _ _ _ _)

/-- Discharge begins, the events are set, and the port is Discharging. -/
def discharged (c : Chip) (d : Fin 2) : Chip :=
  (((c.setVdis d true).evt (DCK_EVT_VOID d)).evt (DCK_EVT_DETACH d)).put (DCK_TC_STAT_STATE d) dckDischarging

theorem detachPort_detaches {c : Chip} {d : Fin 2} (h : c.detachable d = true) :
    detachPort d c = discharged ((c.openDock d).endContract d) d := if_neg (by simp [h])

theorem discharged_leaves (c : Chip) (d : Fin 2) :
    (discharged c d).dckState d = dckDischarging ∧ (discharged c d).get (DCK_TC_STAT_CONTRACT d) = c.get (DCK_TC_STAT_CONTRACT d)
      ∧ ((discharged c d).dck d).sent = (c.dck d).sent ∧ ((discharged c d).dck d).discharging = true
      ∧ (discharged c d).get (DCK_TC_STAT_VSEL d) = c.get (DCK_TC_STAT_VSEL d)
      ∧ (discharged c d).chan (2 + d) = c.chan (2 + d) := by
  have hdocks : (discharged c d).docks = (c.setVdis d true).docks := by simp [discharged]
  have hdck : (discharged c d).dck d = { c.dck d with discharging := true } :=
    (dck_of_docks hdocks d).trans (dck_setDck _ _ _)
  have hhvi : (discharged c d).hvi = c.hvi := by simp [discharged, Chip.setVdis, Chip.setDck]
  have hget : ∀ g, (c.setVdis d true).get g = c.get g := fun g => rfl
  refine ⟨?_, ?_, (congrArg Dock.sent hdck :), (congrArg Dock.discharging hdck :), ?_, chan_of_hvi hhvi _⟩
  · exact get_put_same _ _ _
  · unfold discharged
    simp (disch := (clear * -; decide +revert)) only [get_put_other, get_evt_off, hget]
  · unfold discharged
    simp (disch := (clear * -; decide +revert)) only [get_put_other, get_evt_off, hget]

/-! ### Discharge and moisture (R483, R487) -/

theorem discharging_ended (c : Chip) (d : Nat) : ((if (c.dck d).discharging then c.setVdis d false else c).dck d).discharging = false := by
  split
  · exact congrArg Dock.discharging (dck_setDck _ _ _)
  · simp_all

section Moisture
variable {c : Chip} {d : Fin 2} {lowest : BitVec 8}

theorem moistureCheck_off (h : c.get (DCK_TC_CTL_MOIST_EN d) = 0 ∨ c.dckState d = dckDisabled) : moistureCheck d lowest c = c := if_pos h

theorem moistureCheck_on (h1 : c.get (DCK_TC_CTL_MOIST_EN d) ≠ 0) (h2 : c.dckState d ≠ dckDisabled) {e : Chip} {wet : Bool}
    (he : e = c.put (DCK_MOIST_LAST_MIN d) lowest.toNat) (hw : wet = decide (lowest.toNat < e.get (DCK_MOIST_WET_THR d))) :
    moistureCheck d lowest c = if c.dckState d = dckWet then
        (if wet then e else (e.put (DCK_TC_STAT_STATE d) (e.unattached d)).evt (DCK_EVT_DRY d))
      else if wet then
        ((((e.openDock d).setDck d { e.dck d with wetAttached := e.attached d }).put (DCK_TC_STAT_STATE d) dckWet).evt (DCK_EVT_WET d)).inc
          (DCK_WET_CNT d)
      else e := by
  subst hw he
  exact if_neg (fun h => h.elim h1 h2)

end Moisture

/-! ### Power Delivery messages (R488 to R490) -/

section Messages
variable {c : Chip} {d : Fin 2}

theorem goodcrcTimeout_none (h : (c.dck d).sent = none) : goodcrcTimeout d c = c := by
  rw [goodcrcTimeout, h]

section Sent
variable {m : Nat × List Nat} (h : (c.dck d).sent = some m)
include h

theorem goodcrcTimeout_sent :
    goodcrcTimeout d c = if (c.dck d).ccOpen && pdIsControl m.1 pdSoftReset then
        (c.setDck d { c.dck d with sent := none, tries := 0 }).pdHold d (some m.1)
      else if (c.dck d).tries < 2 then (c.setDck d { c.dck d with tries := (c.dck d).tries + 1 }).pdSend d m.1 m.2
      else ((c.setDck d { c.dck d with sent := none, tries := 0, swapOut := (c.dck d).swapOut && !pdIsSwap m.1 }).evt (DCK_EVT_TX_FAIL d)).inc
        (DCK_TX_FAIL_CNT d) := by
  simp only [goodcrcTimeout, h]

end Sent

/-- The third wait without GoodCRC: nothing waits any more, and the failure is counted. -/
theorem txFailed (c : Chip) (d : Fin 2) (x : Dock) :
    let t := ((c.setDck d x).evt (DCK_EVT_TX_FAIL d)).inc (DCK_TX_FAIL_CNT d)
    t.dck d = x ∧ t.get (DCK_TX_FAIL_CNT d) = min (c.get (DCK_TX_FAIL_CNT d) + 1) (2 ^ 32 - 1) := by
  have hdocks : (((c.setDck d x).evt (DCK_EVT_TX_FAIL d)).inc (DCK_TX_FAIL_CNT d)).docks = (c.setDck d x).docks := by simp
  refine ⟨(dck_of_docks hdocks d).trans (dck_setDck _ _ _), ?_⟩
  rw [get_inc_same, get_evt_off _ (by clear * -; decide +revert) (by clear * -; decide +revert)]
  rfl

theorem pdMessageRx_off {header : BitVec 16} {objects : List Word} (h : c.attached d = false ∨ c.get (DCK_TC_CTL_PD_EN d) = 0) :
    pdMessageRx d header objects c = c := if_pos h

theorem hardResetRx_off (h : c.attached d = false ∨ c.get (DCK_TC_CTL_PD_EN d) = 0) : hardResetRx d c = c := by
  refine if_neg (fun hn => ?_)
  obtain ⟨h1, h2⟩ := hn
  obtain h | h := h
  · simp [h] at h1
  · simp [Chip.on, h] at h2

theorem pdMessageRx_on {header : BitVec 16} {objects : List Word} (ha : c.attached d = true) (hp : c.get (DCK_TC_CTL_PD_EN d) = 1) :
    pdMessageRx d header objects c = if pdIsControl header.toNat pdGoodCrc then c.pdAcked d (pdId header.toNat)
      else if (c.dck d).lastRx = pdId header.toNat + 1 ∧ pdIsControl header.toNat pdSoftReset = false then c.goodCrc d (pdId header.toNat)
      else if 4 ≤ (c.dck d).fifo.length then c
      else c.pdQueue d header.toNat ((objects.take (pdCount header.toNat)).map (·.toNat)) := if_neg (by simp [ha, hp])

theorem hardResetRx_on (ha : c.attached d = true) (hp : c.get (DCK_TC_CTL_PD_EN d) = 1) :
    hardResetRx d c = (c.evt (DCK_EVT_HARD_RESET_RX d)).inc (DCK_HARD_RESET_CNT d) := if_pos ⟨ha, by simp [Chip.on, hp]⟩

theorem pdHardReset_sent (h : (c.dck d).ccOpen = true ∨ (c.attached d = true ∧ c.get (DCK_TC_CTL_PD_EN d) ≠ 0)) :
    c.pdHardReset d = if (c.dck d).ccOpen then c.pdHold d none else (c.emit (.pin "HARD_RESET" d 1)).inc (DCK_HARD_RESET_CNT d) := by
  rw [Chip.pdHardReset]
  split
  · rfl
  · next ho =>
    obtain ⟨h1, h2⟩ := h.resolve_left ho
    exact if_neg (by simp [h1, h2])

theorem pdHardReset_not (ho : (c.dck d).ccOpen = false) (h : c.attached d = false ∨ c.get (DCK_TC_CTL_PD_EN d) = 0) :
    c.pdHardReset d = c := by
  rw [Chip.pdHardReset, if_neg (by simp [ho])]
  exact if_pos h

theorem pdRxhdr_empty (h : (c.dck d).fifo = []) :
    pdRxhdr d c = ((c.put (DCK_PD_RXHDR_HEADER d) 0).put (DCK_PD_RXHDR_FILL d) 0).put (DCK_PD_RXHDR_VALID d) 0 := by
  rw [pdRxhdr, h]

theorem pdRxhdr_pops {m : Nat × List Nat} {l : List (Nat × List Nat)} (h : (c.dck d).fifo = m :: l) : ((pdRxhdr d c).dck d).fifo = l := by
  rw [pdRxhdr, h]
  exact (foldl_keeps (fun e : Chip => (e.dck d).fifo) (fun (e : Chip) k => e.put (DCK_PD_RXDO_DO d k) (m.2.getD k 0)) (List.range 7) _
    (fun _ _ => rfl)).trans (congrArg Dock.fifo (dck_setDck _ _ _))

end Messages

/-- Settles O46: the Type-C commands by the port's state; a detach is the contract's end followed by the discharge; the messages by CC,
PD_EN and their headers. -/
theorem dockPorts : Obligations.DockPorts := by
  unfold Obligations.DockPorts
  rintro d orient source cc rp lowest value header objects s x y r rfl hr rfl
  have rxExec : exec (.pdMessageRx d header objects) s = s.onChip (fun c => pdMessageRx d header objects (c.readCc d false)) := rfl
  have hrExec : exec (.hardResetRx d) s = s.onChip (fun c => hardResetRx d (c.readCc d false)) := rfl
  have rx : ∀ {e}, pdMessageRx d header objects r = e → exec (.pdMessageRx d header objects) s = .next { s with chip := e } :=
    fun h => exec_onChip rxExec (hr ▸ h)
  have hrx : ∀ {e}, hardResetRx d r = e → exec (.hardResetRx d) s = .next { s with chip := e } := fun h => exec_onChip hrExec (hr ▸ h)
  refine ⟨fun h => readCc_unattached h cc, fun h => ⟨readCc_open h, readCc_closed h⟩, fun h1 h2 => exec_onChip_same rfl (drpToggle_still h1 h2),
    fun h => exec_onChip rfl (drpToggle_unattached h), fun h => exec_onChip rfl ((attach_attached h).trans hr.symm),
    fun h hs => exec_onChip_same rfl (attach_other h hs), fun h hs c0 c h0 hc => exec_onChip rfl (attach_matches h hs h0 hc),
    fun h => exec_onChip_same rfl (detachPort_still h), detachable_iff, fun h => ?_, fun c hc => ?_, fun h => exec_onChip rfl (if_pos h),
    fun h => ⟨fun hx => exec_onChip_same rfl ?_, exec_onChip_same rfl (if_neg h)⟩, fun h => exec_onChip_same rfl (moistureCheck_off h),
    fun h1 h2 c wet hc hw => ⟨fun h => exec_onChip rfl ((moistureCheck_on h1 h2 hc hw).trans (if_pos h)),
      fun h => exec_onChip rfl ((moistureCheck_on h1 h2 hc hw).trans (if_neg h))⟩,
    fun c e hc he => ?_, fun h => exec_onChip_same rfl (goodcrcTimeout_none h), fun m h ho hm => exec_onChip rfl ?_,
    fun m h ho => ⟨fun ht => exec_onChip rfl ?_, fun ht => ?_⟩, fun h => ⟨rx (pdMessageRx_off h), hrx (hardResetRx_off h)⟩,
    fun u hu => ⟨fun h => ?_, fun ho h => ?_⟩, fun ha hp h hh => ⟨fun h1 => ?_, fun h1 h2 h3 => ?_, fun h1 h2 => ?_, hrx (hardResetRx_on ha hp)⟩,
    fun h => exec_onChip rfl (pdRxhdr_empty h), fun m l h => ⟨_, rfl, pdRxhdr_pops h⟩⟩
  · obtain ⟨v1, v2, v3, v4⟩ := endContract_leaves (s.chip.openDock d) d
    obtain ⟨w1, w2, w3, w4, w5, w6⟩ := discharged_leaves ((s.chip.openDock d).endContract d) d
    exact ⟨_, exec_onChip rfl (detachPort_detaches h), w1, w2.trans v2, w3.trans v3, w4, w5.trans v1, (congrArg Chan.changing w6).trans v4⟩
  · exact ⟨hc ▸ discharging_ended s.chip d, hc ▸ rfl⟩
  · rw [dischargeDone, hx]
    exact if_neg h
  · subst he hc
    rfl
  · rw [goodcrcTimeout_sent h, if_pos (by simp [ho, hm])]
  · rw [goodcrcTimeout_sent h, if_neg (by obtain ho | ho := ho <;> simp [ho]), if_pos ht]
  · obtain ⟨hd, hc⟩ := txFailed s.chip d { s.chip.dck d with sent := none, tries := 0, swapOut := (s.chip.dck d).swapOut && !pdIsSwap m.1 }
    refine ⟨_, exec_onChip rfl ((goodcrcTimeout_sent h).trans ((if_neg ?_).trans (if_neg (by omega)))), congrArg Dock.sent hd,
      congrArg Dock.tries hd, hc⟩
    obtain ho | ho := ho <;> simp [ho]
  · subst hu
    exact exec_onChip (f := fun c => (c.readCc d cc).pdHardReset d) rfl (pdHardReset_sent h)
  · subst hu
    exact exec_onChip (f := fun c => (c.readCc d cc).pdHardReset d) rfl (pdHardReset_not ho h)
  · subst hh
    exact rx ((pdMessageRx_on ha hp).trans (if_pos h1))
  · subst hh
    exact rx ((pdMessageRx_on ha hp).trans ((if_neg (by simp [h1])).trans (if_pos ⟨h2, h3⟩)))
  · subst hh
    refine rx ((pdMessageRx_on ha hp).trans ((if_neg (by simp [h1])).trans (if_neg (fun hn => ?_))))
    obtain h2 | h2 := h2
    · exact h2 hn.1
    · simp [h2] at hn

end Sys2Proof.Proofs

/-! SUPPORT. Power states (spec/20_power_states.md R495 to R507): the order SET_POWER_STATE, draining, waking and residency. -/

namespace Sys2Proof.Proofs
open Sys2Proof Sys2Proof.Machine Sys2Proof.Machine.Reg Sys2Proof.Laws

/-! ### The order (R495, R496) -/

section Order
variable {id : SlotId} {st : Nat} {s c : Chip} {o : Order} {body : List Byte} {gate : Nat}
  (hs : s.starts id 0x10 (fun b => rd b 0 1 == st) o) (hc : c = s.orderBegun id o) (hb : body = o.bytes.drop 16) (hg : gate = rd body 2 2)
include hs hc hb hg

theorem setPower_starts :
    s.setPower id st = if zeroBytes body [1, 4, 5, 6, 7] = false ∨ (gate ≠ 0 ∧ st ≠ 1) ∨ gate &&& 0x7FC0 ≠ gate then c.docketReady id stBadArgs []
      else if c.power.seq.isSome then c.docketReady id stRefused []
      else if c.get PWR_STAT_STATE = st ∧ c.power.gate = gate then c.docketReady id stDone (leBytes c.pwrStat 4)
      else if c.powerRefused st gate then c.docketReady id stRefused []
      else c.startPower id st gate := by
  subst hg hb hc
  exact startOrder_runs hs _

theorem setPower_badArgs (h : zeroBytes body [1, 4, 5, 6, 7] = false ∨ (gate ≠ 0 ∧ st ≠ 1) ∨ gate &&& 0x7FC0 ≠ gate) :
    s.setPower id st = c.docketReady id stBadArgs [] := (setPower_starts hs hc hb hg).trans (if_pos h)

section WellFormed
variable (hz : zeroBytes body [1, 4, 5, 6, 7] = true) (ht : gate ≠ 0 → st = 1) (hm : gate &&& 0x7FC0 = gate)
include hz ht hm

theorem setPower_wellFormed :
    s.setPower id st = if c.power.seq.isSome then c.docketReady id stRefused []
      else if c.get PWR_STAT_STATE = st ∧ c.power.gate = gate then c.docketReady id stDone (leBytes c.pwrStat 4)
      else if c.powerRefused st gate then c.docketReady id stRefused []
      else c.startPower id st gate := by
  refine (setPower_starts hs hc hb hg).trans (if_neg (fun h => ?_))
  obtain h | ⟨h1, h2⟩ | h := h
  · simp [hz] at h
  · exact h2 (ht h1)
  · exact h hm

theorem setPower_busy (hq : c.power.seq.isSome = true) : s.setPower id st = c.docketReady id stRefused [] :=
  (setPower_wellFormed hs hc hb hg hz ht hm).trans (if_pos hq)

variable (hq : c.power.seq = none)
include hq

theorem setPower_there (h1 : c.get PWR_STAT_STATE = st) (h2 : c.power.gate = gate) :
    s.setPower id st = c.docketReady id stDone (leBytes c.pwrStat 4) := by
  rw [setPower_wellFormed hs hc hb hg hz ht hm, if_neg (by simp [hq]), if_pos ⟨h1, h2⟩]

theorem setPower_leaves (hn : c.get PWR_STAT_STATE ≠ st ∨ c.power.gate ≠ gate) :
    s.setPower id st = if c.powerRefused st gate then c.docketReady id stRefused [] else c.startPower id st gate := by
  rw [setPower_wellFormed hs hc hb hg hz ht hm, if_neg (by simp [hq]), if_neg (fun h => hn.elim (· h.1) (· h.2))]

end WellFormed
end Order

theorem exec_setPower {i : Instr} {id : SlotId} {st : Nat} (s : State) (hi : (i = .setPowerStateRun id ∧ st = 0)
    ∨ (i = .setPowerStateTrim id ∧ st = 1) ∨ (i = .setPowerStateBanked id ∧ st = 2) ∨ (i = .setPowerStateDormant id ∧ st = 3)) :
    exec i s = .next (State.powerGo (s.settle (s.chip.setPower id st))) := by
  obtain ⟨rfl, rfl⟩ | ⟨rfl, rfl⟩ | ⟨rfl, rfl⟩ | ⟨rfl, rfl⟩ := hi <;> rfl

/-! ### Draining and waking (R497, R502) -/

theorem drainDone_none {s : State} (h : s.chip.power.seq = none) : s.drainDone = s := by
  rw [State.drainDone, h]

theorem drainDone_some {s : State} {q : PowerSeq} (h : s.chip.power.seq = some q) :
    s.drainDone = if q.retraining = false ∧ s.chip.drained q then s.powerApply q else s := by
  rw [State.drainDone, h]

theorem exec_wake {w : Instr} {straps : BitVec 3} {src : Nat} (s : State) (hw : (w = .harnessWake straps ∧ src = 0)
    ∨ (w = .wakeN straps ∧ src = 1) ∨ (w = .dockWake straps ∧ src = 2)) : exec w s = .next (s.wakeFrom src straps.toNat) := by
  obtain ⟨rfl, rfl⟩ | ⟨rfl, rfl⟩ | ⟨rfl, rfl⟩ := hw <;> rfl

section Wake
variable {s : State} {src straps : Nat}

theorem wakeFrom_disabled (h : bit (s.chip.get PWR_WAKE_EN) src = false) : s.wakeFrom src straps = s := if_pos h

variable (he : bit (s.chip.get PWR_WAKE_EN) src = true)
include he

theorem wakeFrom_dormant (hd : s.chip.get PWR_STAT_STATE = pwrDormant) : s.wakeFrom src straps = s.wakeNow src straps := by
  rw [State.wakeFrom, if_neg (by simp [he]), if_pos hd]

variable (hd : s.chip.get PWR_STAT_STATE ≠ pwrDormant)
include hd

theorem wakeFrom_awake (hq : s.chip.power.seq = none) : s.wakeFrom src straps = s := by
  rw [State.wakeFrom, if_neg (by simp [he]), if_neg hd, hq]

theorem wakeFrom_entering {q : PowerSeq} (hq : s.chip.power.seq = some q) (ht : q.target = pwrDormant) (hw : q.wake = none) :
    s.wakeFrom src straps = { s with
      chip := { s.chip with power := { s.chip.power with seq := some { q with wake := some (src, straps) } } } } := by
  rw [State.wakeFrom, if_neg (by simp [he]), if_neg hd, hq]
  exact if_pos ⟨ht, by simp [hw]⟩

end Wake

/-! ### Residency (R507) -/

theorem mget_latch (c : Chip) (a v : Nat) : mget 0 (c.latch a v).latches a = v + 1 :=
  mget_mset_same 0 c.latches a (v + 1)

theorem pwrResLo_shows (k : Fin 4) (c : Chip) :
    (pwrResLo k c).get (PWR_RES_LO_US k) = c.residency k % 2 ^ 32
      ∧ mget 0 (pwrResLo k c).latches (PWR_RES_HI_US k).addr = c.residency k / 2 ^ 32 + 1 := by
  refine ⟨(get_put_other (c.put (PWR_RES_LO_US k) (c.residency k)) _ _ _ ?_).trans (get_put_same _ _ _), mget_latch _ _ _⟩
  clear * -
  decide +revert

/-- Settles O47: the order by its body, the sequence under way and R496; the wake sources by what is enabled and what is under way. -/
theorem powerStates : Obligations.PowerStates := by
  unfold Obligations.PowerStates
  intro id i st s hi
  have hex := exec_setPower s hi
  refine ⟨fun o c body gate hs hc hb hg => ⟨fun h => ?_, fun hz ht hm => ⟨fun hq => ?_, fun hq h1 h2 => ?_, fun hq hn hr => ?_,
      fun hq hn hr => ?_⟩⟩, fun h => congrArg Host.Outcome.next (drainDone_none h), fun q h => congrArg Host.Outcome.next (drainDone_some h),
    fun straps w src hw => ?_, fun k => ⟨_, rfl, pwrResLo_shows k s.chip⟩⟩
  · rw [hex, setPower_badArgs hs hc hb hg h]
  · rw [hex, setPower_busy hs hc hb hg hz ht hm hq]
  · rw [hex, setPower_there hs hc hb hg hz ht hm hq h1 h2]
  · rw [hex, setPower_leaves hs hc hb hg hz ht hm hq hn, if_pos hr]
  · rw [hex, setPower_leaves hs hc hb hg hz ht hm hq hn, if_neg (by simp [hr])]
  · rw [exec_wake s hw]
    exact ⟨fun h => congrArg _ (wakeFrom_disabled h), fun he => ⟨fun hd => congrArg _ (wakeFrom_dormant he hd),
      fun hd hq => congrArg _ (wakeFrom_awake he hd hq), fun q hd hq ht hw => congrArg _ (wakeFrom_entering he hd hq ht hw)⟩⟩

end Sys2Proof.Proofs

/-! SUPPORT. The stance TEST, the event log's reads and the byte counters (spec/24_tinker_and_records.md R564 to R573). -/

namespace Sys2Proof.Proofs
open Sys2Proof Sys2Proof.Machine Sys2Proof.Machine.Reg Sys2Proof.Laws

/-! ### The stance (R564, R566) -/

/-- Entries that a filter keeps are read as before. -/
theorem mget_filter_kept {α : Type} (d : α) (m : SMap α) (p : Nat → Bool) {k : Nat} (hk : p k = true) :
    mget d (m.filter (fun e => p e.1)) k = mget d m k := by
  induction m with
  | nil => rfl
  | cons e r ih =>
    obtain ⟨k', v⟩ := e
    by_cases h : k = k'
    · subst h
      simp [hk, mget]
    · rw [List.filter_cons]
      split
      · simp only [mget, h, if_false]
        exact ih
      · simp only [mget, h, if_false]
        exact ih

/-- A register outside the log is not changed by a log entry. -/
theorem get_logEntry_off {g : Fld} (c : Chip) (src code inst d0 d1 : Nat) (hg : g.key / 2 ^ 21 ≠ 0x18) :
    (c.logEntry src code inst d0 d1).get g = c.get g := get_logEntry c src code inst d0 d1 g hg

theorem leaveTest_service {c : Chip} {cause : Nat} (h : c.get GLB_STANCE_STANCE = 0) : c.leaveTest cause = c := if_pos h

theorem leaveTest_test {c : Chip} {cause : Nat} (h : c.get GLB_STANCE_STANCE ≠ 0) :
    (c.leaveTest cause).tink = {} ∧ (c.leaveTest cause).get GLB_STANCE_STANCE = 0 ∧ ∀ e ∈ (c.leaveTest cause).csr, e.1 / 32 / 65536 ≠ 0x17 := by
  rw [Chip.leaveTest, if_neg h]
  refine ⟨rfl, ?_, fun e he => by simpa using (List.mem_filter.1 he).2⟩
  refine (congrArg (· ^^^ GLB_STANCE_STANCE.rst) (mget_filter_kept 0 _ (fun k => k / 32 / 65536 != 0x17) (by decide))).trans ?_
  exact (get_logEntry_off (c.put GLB_STANCE_STANCE 0) _ _ _ _ _ (by decide)).trans (get_put_same _ _ _)

/-- The registers of an accepted ENTER. -/
def testEntered (c : Chip) (slot seed : Nat) : Chip :=
  ((((c.spend slot).put GLB_STANCE_STANCE 1).put TNK_STAT_TEST 1).put TNK_STAT_SLOT slot).put TNK_SEED_SEED (if seed = 0 then 1 else seed)

theorem get_enterTest (c : Chip) (slot duration seed : Nat) {g : Fld} (hg : g.key / 2 ^ 21 ≠ 0x18) :
    (c.enterTest slot duration seed).get g = (testEntered c slot seed).get g :=
  get_logEntry_off { testEntered c slot seed with tink := _ } _ _ _ _ _ hg

theorem enterTest_shows (c : Chip) {slot : Nat} (duration seed : Nat) (hs : slot ≤ 127) :
    (c.enterTest slot duration seed).get GLB_STANCE_STANCE = 1 ∧ (c.enterTest slot duration seed).get TNK_STAT_SLOT = slot := by
  have h256 : slot < 2 ^ TNK_STAT_SLOT.width := lt_of_le_of_lt hs (by decide)
  rw [get_enterTest _ _ _ _ (by decide), get_enterTest _ _ _ _ (by decide)]
  unfold testEntered
  simp (disch := decide) only [get_put_other, get_put_same]
  exact ⟨rfl, Nat.mod_eq_of_lt h256⟩

section Enter
variable {id : SlotId} {s c : Chip} {o : Order} {body : List Byte} (hc : c = s.orderBegun id o) (hb : body = o.bytes.drop 16)
include hc hb

theorem enter_starts {slot : Nat} (hs : s.starts id 0xA0 (fun b => rd b 0 1 == 1) o) (hslot : slot = rd body 1 1) :
    enter id s = if 127 < slot then c.docketReady id stBadArgs []
      else if c.enterRefused slot then
        (if c.grants slot useTinker ∧ (c.vslot slot).count = 0 then c.evt VLT_EVT_USE_ZERO else c).docketReady id stRefused []
      else (c.enterTest slot (rd body 2 2) (rd body 4 4)).docketReady id stDone (leBytes (c.enterTest slot (rd body 2 2) (rd body 4 4)).tnkStat 4) := by
  subst hslot hb hc
  exact startOrder_runs hs _

theorem leave_starts (hs : s.starts id 0xA0 (fun b => rd b 0 1 == 2) o) :
    leave id s = if zeroBytes body [1, 2, 3, 4, 5, 6, 7] = false then c.docketReady id stBadArgs []
      else (c.leaveTest 0).docketReady id stDone (leBytes (c.leaveTest 0).tnkStat 4) := by
  subst hb hc
  exact startOrder_runs hs _

/-! ### The event log (R569, R572) -/

theorem readLog_starts {count flags from_ : Nat} (hs : s.starts id 0x80 anyBody o) (hcount : count = rd body 2 1) (hflags : flags = rd body 3 1)
    (hfrom : from_ = rd body 0 2) :
    readLog id s = if count = 0 ∨ 31 < count ∨ 1 < flags ∨ (4096 ≤ from_ ∧ from_ ≠ 0xFFFF) then c.docketReady id stBadArgs []
      else
        let first := if from_ = 0xFFFF then c.get LOG_STAT_TAIL else from_
        let n := min count (c.unread - (first + 4096 - c.get LOG_STAT_TAIL) % 4096)
        (if flags = 1 ∧ n ≠ 0 then c.logTail (first + n) else c).docketReady id stDone (leBytes c.logStat 4 ++ leBytes (c.get LOG_OVERRUN) 4
          ++ leBytes first 2 ++ leBytes n 1 ++ leBytes 0 5 ++ (List.range n).flatMap (fun i => (c.logAt (first + i)).toBytes)) := by
  subst hfrom hflags hcount hb hc
  exact startOrder_runs hs _

end Enter

theorem logTail_shows (c : Chip) (v : Nat) :
    (c.logTail v).get LOG_STAT_TAIL = v % 4096 ∧ (c.logTail v).get LOG_STAT_FULL = 0 ∧ (c.logTail v).get LOG_STAT_HEAD = c.get LOG_STAT_HEAD := by
  unfold Chip.logTail
  simp (disch := decide) only [get_put_other, get_put_same]
  exact ⟨rfl, rfl, trivial⟩

/-! ### The byte counters (R573) -/

theorem logBytesLo_shows (p : Fin 16) (tx : Bool) (c : Chip) {n : Nat}
    (hn : n = (if tx then mget 0 c.log.txBytes p else mget 0 c.log.rxBytes p) % 2 ^ 64) :
    (logBytesLo p tx c).get (if tx then LOG_TXB_LO_BYTES p else LOG_RXB_LO_BYTES p) = n % 2 ^ 32
      ∧ mget 0 (logBytesLo p tx c).latches (if tx then LOG_TXB_HI_BYTES p else LOG_RXB_HI_BYTES p).addr = n / 2 ^ 32 + 1 := by
  have hrx : (LOG_RXB_LO_BYTES p).key ≠ (LOG_RXB_HI_BYTES p).key := by
    clear * -
    decide +revert
  have htx : (LOG_TXB_LO_BYTES p).key ≠ (LOG_TXB_HI_BYTES p).key := by
    clear * -
    decide +revert
  subst hn
  cases tx
  · exact ⟨(get_put_other (c.put (LOG_RXB_LO_BYTES p) _) _ _ _ hrx).trans (get_put_same _ _ _), mget_latch _ _ _⟩
  · exact ⟨(get_put_other (c.put (LOG_TXB_LO_BYTES p) _) _ _ _ htx).trans (get_put_same _ _ _), mget_latch _ _ _⟩

/-- Settles O48: ENTER, LEAVE and READ_LOG by their bodies; leaving TEST filters the TNK registers out and keeps the rest; the log's TAIL
and the byte counters by their registers. -/
theorem stanceLogAndCounters : Obligations.StanceLogAndCounters := by
  unfold Obligations.StanceLogAndCounters
  intro id value p tx s
  refine ⟨fun o c body slot hs hc hb hslot => ?_, fun o c body hs hc hb => ?_, rfl, fun c cause => ⟨leaveTest_service, leaveTest_test⟩,
    fun o c body count flags from_ hs hc hb hcount hflags hfrom => ?_, fun d hd => ⟨fun h1 h2 => ?_, fun h => exec_onChip_same rfl ?_⟩,
    fun n hn => ⟨_, rfl, logBytesLo_shows p tx s.chip hn⟩⟩
  · have hex : exec (.enter id) s = .next _ := exec_onChip rfl (enter_starts hc hb hs hslot)
    refine ⟨fun h => ?_, fun h1 h2 => ?_, fun h1 h2 d hd => ⟨?_, hd ▸ enterTest_shows c _ _ h1⟩⟩
    · rw [hex, if_pos h]
    · rw [hex, if_neg (by omega), if_pos h2]
    · rw [hex, if_neg (by omega), if_neg (by simp [h2]), hd]
  · have hex : exec (.leave id) s = .next _ := exec_onChip rfl (leave_starts hc hb hs)
    refine ⟨fun h => ?_, fun h d hd => ?_⟩
    · rw [hex, if_pos h]
    · rw [hex, if_neg (by simp [h]), hd]
  · have hex : exec (.readLog id) s = .next _ := exec_onChip rfl (readLog_starts hc hb hs hcount hflags hfrom)
    refine ⟨fun h => ?_, fun h1 h2 h3 h4 first n hfirst hn => ?_⟩
    · rw [hex, if_pos h]
    · subst hn hfirst
      rw [hex, if_neg (by omega)]
  · exact ⟨_, exec_onChip rfl (if_pos (hd ▸ ⟨h1, h2⟩)), logTail_shows s.chip value.toNat⟩
  · exact if_neg (by rw [← hd]; omega)

end Sys2Proof.Proofs

/-! SUPPORT. What every KEY order checks before its action (spec/21_vault.md R519, R525), and the fields each action refuses
(Table 21.3). -/

namespace Sys2Proof.Proofs
open Sys2Proof Sys2Proof.Machine Sys2Proof.Machine.Reg Sys2Proof.Laws

/-- A KEY command answers the three checks that come before its action: the body's form, the frame, the Vault. -/
def KeyChecked (i : Instr) (id : SlotId) (action len : Nat) (zeros : List Nat) (plain : Bool) (s : State) : Prop :=
  ∀ o c body, s.chip.starts id 0x70 (fun b => rd b 0 1 == action) o → c = s.chip.orderBegun id o → body = o.bytes.drop 16 →
    (body.length ≠ len ∨ zeroBytes body zeros = false → exec i s = .next { s with chip := c.docketReady id stBadArgs [] })
    ∧ (body.length = len → zeroBytes body zeros = true →
      (plain = false → c.restricted o.path o.keySlot = true → exec i s = .next { s with chip := c.docketReady id stAuthFail [] })
      ∧ (plain = true ∨ c.restricted o.path o.keySlot = false → c.get VLT_STAT_TAMPERED = 1 →
        exec i s = .next { s with chip := (c.inc VLT_REFUSE_CNT).docketReady id stRefused [] }))

theorem on_of_get {c : Chip} {g : Fld} (h : c.get g = 1) : c.on g = true := by simp [Chip.on, h]

section Checks
variable {i : Instr} {id : SlotId} {action len : Nat} {zeros : List Nat} {s : State}

theorem keyChecked_onChip {plain : Bool} {f : Chip → Order → List Byte → Chip}
    (he : exec i s = s.onChip (fun c => c.keyOrder id action len zeros plain f)) : KeyChecked i id action len zeros plain s := by
  intro o c body hs hc hb
  subst hc hb
  refine ⟨fun hbad => ?form, fun hlen hzero => ⟨fun hplain hres => ?frame, fun hfree htam => ?tampered⟩⟩
  all_goals refine exec_onChip he ((startOrder_runs hs _).trans ?_)
  case form => exact if_pos hbad
  case frame => exact (if_neg (by simp [hlen, hzero])).trans (if_pos ⟨hplain, hres⟩)
  case tampered =>
    exact (if_neg (by simp [hlen, hzero])).trans ((if_neg (by rcases hfree with q | q <;> simp [q])).trans (if_pos (on_of_get htam)))

theorem keyChecked_next {f : State → Order → List Byte → State}
    (he : exec i s = .next (s.keyOrder id action len zeros f)) : KeyChecked i id action len zeros false s := by
  intro o c body hs hc hb
  subst hc hb
  refine ⟨fun hbad => ?form, fun hlen hzero => ⟨fun _ hres => ?frame, fun hfree htam => ?tampered⟩⟩
  all_goals refine he.trans (congrArg _ ((startOrderS_runs hs _).trans ?_))
  case form => exact if_pos hbad
  case frame => exact (if_neg (by simp [hlen, hzero])).trans (if_pos hres)
  case tampered =>
    have hopen := hfree.resolve_left Bool.false_ne_true
    exact (if_neg (by simp [hlen, hzero])).trans ((if_neg (by simp [hopen])).trans (if_pos (on_of_get htam)))

/-- A KEY action on the chip that is performed. -/
theorem exec_keyOrder {plain : Bool} {o : Order} {f : Chip → Order → List Byte → Chip} {d : Chip}
    (he : exec i s = s.onChip (fun c => c.keyOrder id action len zeros plain f)) (hk : s.chip.keyStarts id action len zeros plain o)
    (h : f (s.chip.orderBegun id o) o (o.bytes.drop 16) = d) : exec i s = .next { s with chip := d } :=
  exec_onChip he ((keyOrder_runs hk f).trans h)

theorem badSlot_of {k : Nat} (h : 127 < k) : badSlot k = true := decide_eq_true h

theorem badDest_of {k : Nat} (h : 127 < k ∧ k ≠ 255) : badDest k = true := decide_eq_true h

end Checks

/-- Settles O49, command by command: the three checks are the same for every action, and each action refuses its own fields. -/
theorem keyOrderChecks : Obligations.KeyOrderChecks := by
  unfold Obligations.KeyOrderChecks
  intro id i action len zeros plain s hi
  refine ⟨(?checks : KeyChecked i id action len zeros plain s), fun o c body k hk hc hb hfield hbad => ?fields⟩
  case checks =>
    rcases hi with ⟨rfl, rfl, rfl, rfl, rfl⟩ | ⟨rfl, rfl, rfl, rfl, rfl⟩ | ⟨rfl, rfl, rfl, rfl, rfl⟩ | ⟨rfl, rfl, rfl, rfl, rfl⟩
      | ⟨rfl, rfl, rfl, rfl, rfl⟩ | ⟨rfl, rfl, rfl, rfl, rfl⟩ | ⟨rfl, rfl, rfl, rfl, rfl⟩ | ⟨rfl, rfl, rfl, rfl, rfl⟩
      | ⟨rfl, rfl, rfl, rfl, rfl⟩ | ⟨rfl, rfl, rfl, rfl, rfl⟩ | ⟨rfl, rfl, rfl, rfl, rfl⟩ | ⟨rfl, rfl, rfl, rfl, rfl⟩
      | ⟨rfl, rfl, rfl, rfl, rfl⟩
    case inr.inr.inr.inl => exact keyChecked_next rfl
    all_goals exact keyChecked_onChip rfl
  case fields =>
    subst hc hb hfield
    rcases hi with ⟨rfl, rfl, rfl, rfl, rfl⟩ | ⟨rfl, rfl, rfl, rfl, rfl⟩ | ⟨rfl, rfl, rfl, rfl, rfl⟩ | ⟨rfl, rfl, rfl, rfl, rfl⟩
      | ⟨rfl, rfl, rfl, rfl, rfl⟩ | ⟨rfl, rfl, rfl, rfl, rfl⟩ | ⟨rfl, rfl, rfl, rfl, rfl⟩ | ⟨rfl, rfl, rfl, rfl, rfl⟩
      | ⟨rfl, rfl, rfl, rfl, rfl⟩ | ⟨rfl, rfl, rfl, rfl, rfl⟩ | ⟨rfl, rfl, rfl, rfl, rfl⟩ | ⟨rfl, rfl, rfl, rfl, rfl⟩
      | ⟨rfl, rfl, rfl, rfl, rfl⟩
    all_goals norm_num at hbad
    case inl => exact exec_keyOrder rfl hk (if_pos (by simp only [badSlot, badDest, decide_eq_true_eq]; tauto))
    case inr.inl => exact exec_keyOrder rfl hk (if_pos (by simp only [badSlot, decide_eq_true_eq]; tauto))
    case inr.inr.inl => exact exec_keyOrder rfl hk (if_pos (badSlot_of hbad))
    case inr.inr.inr.inl => exact congrArg Host.Outcome.next ((keyOrderS_runs hk _).trans (if_pos (badDest_of hbad)))
    case inr.inr.inr.inr.inl => exact exec_keyOrder rfl hk (if_pos (badSlot_of hbad))
    case inr.inr.inr.inr.inr.inl => exact exec_keyOrder rfl hk (if_pos (badDest_of hbad))
    case inr.inr.inr.inr.inr.inr.inl => exact exec_keyOrder rfl hk (if_pos (badDest_of hbad))
    case inr.inr.inr.inr.inr.inr.inr.inr.inr.inl => exact exec_keyOrder rfl hk (if_pos (badSlot_of hbad))
    case inr.inr.inr.inr.inr.inr.inr.inr.inr.inr.inr.inl => exact exec_keyOrder rfl hk (if_pos hbad)

end Sys2Proof.Proofs

/-! SUPPORT. The Vault's slots (spec/21_vault.md R513–R518): what a key's use, a new key and a lost one leave in the slots; and what
DERIVE, SESSION and INVALIDATE do with them. -/

namespace Sys2Proof.Proofs
open Sys2Proof Sys2Proof.Machine Sys2Proof.Machine.Reg Sys2Proof.Laws

/-! ### A use of a key -/

theorem useKey_refused {c : Chip} {k use : Nat} (h : c.grants k use = false) : c.useKey k use = (false, c) := if_pos h

theorem useKey_empty {c : Chip} {k use : Nat} (h : c.grants k use = true) (h0 : (c.vslot k).count = 0) :
    c.useKey k use = (false, c.evt VLT_EVT_USE_ZERO) := (if_neg (by simp [h])).trans (if_pos h0)

theorem useKey_spends {c : Chip} {k use : Nat} (h : c.grants k use = true) (h0 : (c.vslot k).count ≠ 0) :
    c.useKey k use = (true, c.spend k) := (if_neg (by simp [h])).trans (if_neg h0)

/-! ### The slots -/

theorem vslot_setVslot (c : Chip) (k : Nat) (x : VSlot) : (c.setVslot k x).vslot k = x := mget_mset_same VSlot.none c.vault.slots k x

theorem vslot_setVslot_other (c : Chip) {j k : Nat} (x : VSlot) (h : j ≠ k) : (c.setVslot k x).vslot j = c.vslot j :=
  mget_mset_other VSlot.none c.vault.slots k j x h

theorem vslot_showSlots (c : Chip) (j : Nat) : c.showSlots.vslot j = c.vslot j := by
  simp only [Chip.showSlots, Chip.vslot, put_vault]

theorem vslot_takeSlot (c : Chip) (k : Nat) (x : VSlot) : (c.takeSlot k x).vslot k = x :=
  (vslot_showSlots _ k).trans (vslot_setVslot c k x)

theorem vslot_takeSlot_other (c : Chip) {j k : Nat} (x : VSlot) (h : j ≠ k) : (c.takeSlot k x).vslot j = c.vslot j :=
  (vslot_showSlots _ j).trans (vslot_setVslot_other c x h)

theorem spend_unlimited {c : Chip} {k : Nat} (h : (c.vslot k).count = unlimited) : c.spend k = c := if_pos h

theorem count_spend {c : Chip} {k : Nat} (h : (c.vslot k).count ≠ unlimited) :
    ((c.spend k).vslot k).count = (c.vslot k).count - 1 := by
  have hs : c.spend k = c.setVslot k { c.vslot k with count := (c.vslot k).count - 1 } := if_neg h
  rw [hs, vslot_setVslot]

/-! ### Descent and invalidation -/

theorem mem_descent (c : Chip) (k : Nat) : k ∈ c.descent k :=
  List.foldlRecOn (motive := fun l => k ∈ l) (List.range 128) _ (List.mem_singleton_self k) (fun _ h _ _ => List.mem_append_left _ h)

theorem children_singleton (c : Chip) (k : Nat) : c.children [k]
    = (c.vault.slots.filter (fun e => decide (2 ≤ e.1) && !e.2.installed && decide (e.2.parent = k) && decide (e.1 ≠ k))).map (·.1) := by
  unfold Chip.children
  congr 2
  funext e
  simp [List.contains_eq_mem]

theorem invalidateSlot_empty {c : Chip} {k : Nat} (h : c.keyValid k = false) : c.invalidateSlot k = (0, c) := if_pos h

theorem invalidateSlot_valid {c : Chip} {k : Nat} (h : c.keyValid k = true) :
    ∃ d : Chip, c.invalidateSlot k = ((c.descent k).length, d.put VLT_STAT_SCRUB_BUSY 1) := by
  unfold Chip.invalidateSlot
  exact ⟨_, if_neg (by simp [h])⟩

theorem invalidateSlot_count {c : Chip} {k : Nat} (h : c.keyValid k = true) : (c.invalidateSlot k).1 = (c.descent k).length := by
  obtain ⟨d, hd⟩ := invalidateSlot_valid h
  rw [hd]

theorem invalidateSlot_busy {c : Chip} {k : Nat} (h : c.keyValid k = true) : (c.invalidateSlot k).2.get VLT_STAT_SCRUB_BUSY = 1 := by
  obtain ⟨d, hd⟩ := invalidateSlot_valid h
  rw [hd]
  exact get_put_same d VLT_STAT_SCRUB_BUSY 1

theorem slotScrubDone_frees {c : Chip} {k : Nat} {l : List Nat} (h : c.vault.scrub = k :: l) : (slotScrubDone c).vault.scrub = l
    ∧ (slotScrubDone c).get VLT_STAT_SCRUB_BUSY = if l = [] then 0 else c.get VLT_STAT_SCRUB_BUSY := by
  unfold slotScrubDone Chip.showSlots
  rw [h]
  cases l with
  | nil => exact ⟨by simp, (get_put_same _ _ _).trans (if_pos rfl).symm⟩
  | cons j l => exact ⟨by simp, (get_put_other _ _ _ _ (by decide)).trans (if_neg (by simp)).symm⟩

/-! ### The orders -/

section Orders
variable {id : SlotId} {s : State} {o : Order} {c : Chip} {body : List Byte}

/-- DERIVE with fields that Table 21.3 allows: the destination decides first, then the use of the stock. -/
theorem exec_derive {stock dest : Nat} (hk : s.chip.keyStarts id 1 57 [] false o) (hc : c = s.chip.orderBegun id o)
    (hb : body = o.bytes.drop 16) (hs : stock = rd body 1 1) (hd : dest = rd body 2 1) (h1 : stock ≤ 127) (h2 : dest ≤ 127 ∨ dest = 255)
    (h3 : rd body 4 1 ≤ 1) {d : Chip}
    (h : (match c.destination dest with
      | none => c.keyOver id stRefused []
      | some k =>
        if (c.useKey stock useDerive).1 = false then (c.useKey stock useDerive).2.keyOver id stRefused []
        else ((c.useKey stock useDerive).2.takeSlot k ⟨1, rd body 3 1, stock, false, rd body 5 4, decide (rd body 4 1 = 1),
          scion (c.keyBytes stock) (slice body 9 16) (slice body 25 32)⟩).keyOver id stDone (leBytes k 1)) = d) :
    exec (.derive id) s = .next { s with chip := d } := by
  subst hc hb hs hd
  refine exec_keyOrder rfl hk ((if_neg ?_).trans h)
  simp only [badSlot, badDest, decide_eq_true_eq]
  omega

/-- SESSION with fields that Table 21.3 allows, a healthy TRNG and a stock that grants DERIVE: `f` is the loss of the earlier scion. -/
theorem exec_session {stock sess : Nat} {f : Chip → Chip} (hk : s.chip.keyStarts id 2 17 [3, 4, 5, 6, 7, 8] true o)
    (hc : c = s.chip.orderBegun id o) (hb : body = o.bytes.drop 16) (hs : stock = rd body 1 1) (hd : sess = rd body 2 1)
    (h1 : stock ≤ 127) (h2 : sess ≤ 3)
    (hf : f = (fun x => if mget 0 c.vault.scions sess = 0 then x else (x.invalidateSlot (mget 0 c.vault.scions sess - 1)).2)) {d : Chip}
    (h : (if c.vault.trngBad ∨ c.grants stock useDerive = false then c.keyOver id stRefused []
      else match (f c).freeSlot with
      | none => (f c).keyOver id stRefused []
      | some k =>
        if ((f c).useKey stock useDerive).1 = false then ((f c).useKey stock useDerive).2.keyOver id stRefused []
        else (((f ((c.random 16).2.keyOver id stDone (leBytes k 1 ++ leBytes 0 7 ++ (c.random 16).1))).useKey stock useDerive).2.takeSlot k
          { kind := 1, uses := 2, parent := stock, installed := false, count := unlimited, expire := true,
            key := scion (c.keyBytes stock) labelSession
              (leBytes c.node 2 ++ leBytes sess 1 ++ leBytes 0 5 ++ slice body 9 8 ++ (c.random 16).1) }).newScion sess k) = d) :
    exec (.session id) s = .next { s with chip := d } := by
  subst hc hb hs hd hf
  refine exec_keyOrder rfl hk ((if_neg ?_).trans h)
  simp only [badSlot, decide_eq_true_eq]
  omega

/-- INVALIDATE of a slot there is. -/
theorem exec_invalidate {k : Nat} (hk : s.chip.keyStarts id 3 2 [] false o) (hc : c = s.chip.orderBegun id o)
    (hb : body = o.bytes.drop 16) (hs : k = rd body 1 1) (h1 : k ≤ 127) {d : Chip}
    (h : (if k < 2 then c.keyOver id stRefused []
      else ((c.keyOver id stDone (leBytes (c.invalidateSlot k).1 1)).invalidateSlot k).2) = d) :
    exec (.invalidate id) s = .next { s with chip := d } := by
  subst hc hb hs
  refine exec_keyOrder rfl hk ((if_neg ?_).trans h)
  simp only [badSlot, decide_eq_true_eq]
  omega

end Orders

/-- Settles O50: each order by the branch its hypotheses choose, the slots by the laws above. -/
theorem keysMadeAndErased : Obligations.KeysMadeAndErased := by
  unfold Obligations.KeysMadeAndErased
  intro id s
  refine ⟨fun o c body stock dest hk hc hb hs hd h1 h2 h3 => ?derive,
    fun o c body stock sess k f hk hc hb hs hd h1 h2 hf => ?session, fun o c body k hk hc hb hs h1 => ?invalidate,
    fun c k j x => ?slots, fun h => ?idle, fun k l h => ?scrub⟩
  case derive =>
    have hex := fun d => exec_derive hk hc hb hs hd h1 h2 h3 (d := d)
    refine ⟨fun h => hex _ (by rw [h]), fun k h => ⟨fun hg => hex _ ?_, fun hg h0 => hex _ ?_, fun hg h0 => hex _ ?_⟩⟩
    · rw [h, useKey_refused hg]; rfl
    · rw [h, useKey_empty hg h0]; rfl
    · rw [h, useKey_spends hg h0]; rfl
  case session =>
    have hex := fun d => exec_session hk hc hb hs hd h1 h2 hf (d := d)
    refine ⟨fun h => hex _ (if_pos h), fun ht hg h => hex _ ?_, fun ht hg h =>
      ⟨fun hu => hex _ ?_, fun hu h0 => hex _ ?_, fun hu h0 r e key hr he hkey => hex _ ?_⟩⟩
    all_goals rw [if_neg (by simp [ht, hg]), h]
    · dsimp only; rw [useKey_refused hu]; rfl
    · dsimp only; rw [useKey_empty hu h0]; rfl
    · subst hr he hkey
      dsimp only
      rw [if_neg (by rw [useKey_spends hu h0]; exact Bool.noConfusion)]
  case invalidate =>
    exact ⟨fun h => exec_invalidate hk hc hb hs h1 (if_pos h), fun h => exec_invalidate hk hc hb hs h1 (if_neg (by omega))⟩
  case slots =>
    exact ⟨vslot_takeSlot c k x, vslot_takeSlot_other c x, count_spend, spend_unlimited, mget_mset_same 0 c.mbx.rxCounter j 0,
      mget_mset_same 0 c.mbx.txCounter j 0, fun h => ⟨invalidateSlot_count h, invalidateSlot_busy h⟩, invalidateSlot_empty,
      mem_descent c k, children_singleton c k⟩
  case idle => exact exec_onChip_same rfl (by unfold slotScrubDone; rw [h])
  case scrub => exact ⟨_, rfl, slotScrubDone_frees h⟩

end Sys2Proof.Proofs

/-! SUPPORT. Keys that come from outside or leave sealed (spec/21_vault.md R520–R522): PROVISION, SEAL, UNSEAL, LOAD_PUB, and the sealed
blob of Table 21.4. -/

namespace Sys2Proof.Proofs
open Sys2Proof Sys2Proof.Machine Sys2Proof.Machine.Reg Sys2Proof.Laws

/-! ### Bytes at their places -/

/-- A field between others is read at its place. -/
theorem slice_field {a m b : List Byte} {off k : Nat} (ha : a.length = off) (hm : m.length = k) : slice (a ++ (m ++ b)) off k = m := by
  subst ha hm
  refine List.ext_getElem (by simp [slice]) (fun i h1 h2 => ?_)
  have hat : (a ++ (m ++ b))[a.length + i]? = some m[i] := by
    rw [List.getElem?_append_right (by omega), Nat.add_sub_cancel_left, List.getElem?_append_left h2, List.getElem?_eq_getElem h2]
  simp [slice, hat]

theorem rd_field {a b : List Byte} {off k v : Nat} (ha : a.length = off) : rd (a ++ (leBytes v k ++ b)) off k = v % 256 ^ k :=
  (congrArg leNat (slice_field ha (length_leBytes v k))).trans (leNat_leBytes v k)

section Blob
variable (key nonce : List Byte) (x : VSlot)

/-- What stands after the sealed key's header. -/
def sealTail : List Byte :=
  let head := leBytes 0x4C454153 4 ++ leBytes 1 2 ++ leBytes x.uses 1 ++ [0] ++ leBytes x.count 4 ++ nonce
  let cipher := padTo (Config.gcmCipher key nonce head x.key) 32
  cipher ++ padTo (Config.gcmTag key nonce head cipher) 16

theorem length_sealTail : (sealTail key nonce x).length = 48 := by simp [sealTail, padTo, slice]

theorem sealBlob_eq : sealBlob key x nonce = leBytes 0x4C454153 4 ++ (leBytes 1 2 ++ (leBytes x.uses 1 ++ ([0] ++ (leBytes x.count 4
    ++ (nonce ++ sealTail key nonce x))))) := by
  simp only [sealBlob, sealTail, List.append_assoc]

theorem sealBlob_magic : rd (sealBlob key x nonce) 0 4 = 0x4C454153 := by
  rw [sealBlob_eq]
  exact rd_field (a := []) (k := 4) (v := 0x4C454153) rfl

theorem sealBlob_uses : rd (sealBlob key x nonce) 6 1 = x.uses % 256 := by
  rw [sealBlob_eq, ← List.append_assoc (leBytes _ 4)]
  exact rd_field (by simp)

theorem sealBlob_count : rd (sealBlob key x nonce) 8 4 = x.count % 2 ^ 32 := by
  rw [sealBlob_eq, ← List.append_assoc (leBytes _ 4), ← List.append_assoc (_ ++ _), ← List.append_assoc (_ ++ _)]
  exact rd_field (by simp)

theorem sealBlob_nonce (h : nonce.length = 12) : slice (sealBlob key x nonce) 12 12 = nonce := by
  rw [sealBlob_eq, ← List.append_assoc (leBytes _ 4), ← List.append_assoc (_ ++ _), ← List.append_assoc (_ ++ _),
    ← List.append_assoc (_ ++ _)]
  exact slice_field (by simp) h

theorem length_sealBlob (h : nonce.length = 12) : (sealBlob key x nonce).length = 72 := by
  simp [sealBlob_eq, length_sealTail, h]

end Blob

/-! ### Opening a blob -/

theorem openBlob_attrs {c : Chip} {blob : List Byte} {x : VSlot} (h : c.openBlob blob = some x) :
    x.kind = 1 ∧ x.installed = true ∧ x.uses = rd blob 6 1 ∧ x.count = rd blob 8 4 ∧ x.expire = false := by
  unfold Chip.openBlob at h
  dsimp only at h
  split at h
  next => exact nomatch h
  next =>
    cases h
    exact ⟨rfl, rfl, rfl, rfl, rfl⟩

/-! ### When PROVISION is open -/

theorem provisionOpen_jtag (c : Chip) : c.provisionOpen .jtag = c.rowKey.isNone := Bool.and_true _

theorem provisionOpen_tunnel (c : Chip) (n : BitVec 16) {t : Nat} (h : c.boot.admitted = some t) :
    c.provisionOpen (.tunnel0 n) = (c.rowKey.isNone && (c.fromServingHead n.toNat && decide (c.tick ≤ t + 12000000000))) := by
  unfold Chip.provisionOpen
  rw [h]
  rfl

theorem provisionOpen_unadmitted (c : Chip) (n : BitVec 16) (h : c.boot.admitted = none) : c.provisionOpen (.tunnel0 n) = false := by
  unfold Chip.provisionOpen
  simp [h]

/-! ### The orders -/

section Orders
variable {id : SlotId} {s : State} {o : Order} {c : Chip} {body : List Byte} {dest : Nat}

theorem badDest_not (h : dest ≤ 127 ∨ dest = 255) : ¬ badDest dest = true := by
  simp only [badDest, decide_eq_true_eq]
  omega

/-- PROVISION with a destination that Table 21.3 allows. -/
theorem exec_provision (hk : s.chip.keyStarts id 4 41 [3, 4] false o) (hc : c = s.chip.orderBegun id o) (hb : body = o.bytes.drop 16)
    (hd : dest = rd body 1 1) (h1 : dest ≤ 127 ∨ dest = 255) {t : State}
    (h : (match (if c.provisionOpen o.path then c.destination dest else none) with
      | none => { s with chip := c.keyOver id stRefused [] }
      | some k => State.replacementSettings { s with chip :=
          (c.takeSlot k ⟨1, rd body 2 1, 0, true, rd body 5 4, false, slice body 9 32⟩).keyOver id stDone (leBytes k 1) }) = t) :
    exec (.provision id) s = .next t := by
  subst hc hb hd
  exact congrArg Host.Outcome.next ((keyOrderS_runs hk _).trans ((if_neg (badDest_not h1)).trans h))

/-- SEAL of a slot there is. -/
theorem exec_seal {k : Nat} (hk : s.chip.keyStarts id 5 2 [] false o) (hc : c = s.chip.orderBegun id o)
    (hs : k = rd (o.bytes.drop 16) 1 1) (h1 : k ≤ 127) {d : Chip}
    (h : (if c.keyValid k = false ∨ (c.vslot k).kind ≠ 1 ∨ (c.vslot k).expire ∨ c.keyValid 0 = false ∨ c.vault.trngBad then
        c.keyOver id stRefused []
      else (c.random 12).2.keyOver id stDone (sealBlob c.sealKey (c.vslot k) (c.random 12).1)) = d) :
    exec (.seal id) s = .next { s with chip := d } := by
  subst hc hs
  refine exec_keyOrder rfl hk ((if_neg ?_).trans h)
  simp only [badSlot, decide_eq_true_eq]
  omega

/-- UNSEAL with a destination that Table 21.3 allows. -/
theorem exec_unseal (hk : s.chip.keyStarts id 6 77 [2, 3, 4] false o) (hc : c = s.chip.orderBegun id o) (hb : body = o.bytes.drop 16)
    (hd : dest = rd body 1 1) (h1 : dest ≤ 127 ∨ dest = 255) {d : Chip}
    (h : (match c.destination dest, c.openBlob (slice body 5 72) with
      | some k, some x => ((c.takeSlot k x).keyOver id stDone (leBytes k 1)).deriveLedger
      | _, _ => c.keyOver id stRefused []) = d) : exec (.unseal id) s = .next { s with chip := d } := by
  subst hc hb hd
  exact exec_keyOrder rfl hk ((if_neg (badDest_not h1)).trans h)

/-- LOAD_PUB with a destination that Table 21.3 allows. -/
theorem exec_loadPub (hk : s.chip.keyStarts id 7 101 [2, 3, 4] false o) (hc : c = s.chip.orderBegun id o) (hb : body = o.bytes.drop 16)
    (hd : dest = rd body 1 1) (h1 : dest ≤ 127 ∨ dest = 255) {d : Chip}
    (h : (match c.destination dest with
      | none => c.keyOver id stRefused []
      | some k =>
        if padTo (Config.sha384 (slice body 5 96)) 48 ≠ (List.range 12).flatMap (fun k => leBytes (c.get (VLT_VKEY_HASH_HASH k)) 4) then
          c.keyOver id stRefused []
        else (c.takeSlot k ⟨3, 64, 0, true, unlimited, false, slice body 5 96⟩).keyOver id stDone (leBytes k 1)) = d) :
    exec (.loadPub id) s = .next { s with chip := d } := by
  subst hc hb hd
  exact exec_keyOrder rfl hk ((if_neg (badDest_not h1)).trans h)

end Orders

/-! ### The ledger scion after PROVISION -/

/-- The own record is applied where this was the ledger scion's first derivation. -/
theorem replacementSettings_first {s : State} (h0 : s.chip.vault.ledgerKey = 0) (h1 : s.chip.deriveLedger.vault.ledgerKey ≠ 0) :
    s.replacementSettings = (State.applyOwnRecord { s with chip := s.chip.deriveLedger }).withChip (fun c => c.publish) :=
  if_pos ⟨h0, h1⟩

theorem replacementSettings_kept {s : State} (h : s.chip.vault.ledgerKey ≠ 0 ∨ s.chip.deriveLedger.vault.ledgerKey = 0) :
    s.replacementSettings = { s with chip := s.chip.deriveLedger } :=
  if_neg (fun hn => h.elim (· hn.1) hn.2)

/-- Settles O51: each order by the branch its hypotheses choose, and the sealed blob field by field. -/
theorem keyMaterial : Obligations.KeyMaterial := by
  unfold Obligations.KeyMaterial
  intro id s
  refine ⟨fun o c body dest hk hc hb hd h1 => ?provision, fun c n => ⟨provisionOpen_jtag c,
      fun t => provisionOpen_tunnel c n, provisionOpen_unadmitted c n⟩, fun o c k hk hc hs h1 => ?seals,
    fun key nonce x h => ⟨length_sealBlob key nonce x h, sealBlob_magic key nonce x, sealBlob_uses key nonce x, sealBlob_count key nonce x,
      sealBlob_nonce key nonce x h⟩, fun o c body dest hk hc hb hd h1 => ?opened, fun c blob h => if_pos h,
    fun c blob x => openBlob_attrs, fun o c body dest hash hk hc hb hd h1 hh => ?loadPub⟩
  case provision =>
    have hex := fun t => exec_provision hk hc hb hd h1 (t := t)
    refine ⟨fun h => hex _ ?closed, fun k ho hdst d hd2 => ⟨fun h => hex _ ?kept, fun h0 h => hex _ ?first⟩⟩
    case closed =>
      have hnone : (if c.provisionOpen o.path then c.destination dest else none) = none := by
        rcases h with h | h <;> simp [h]
      rw [hnone]
    all_goals
      subst hd2
      rw [if_pos ho, hdst]
    case kept => exact replacementSettings_kept h
    case first => exact replacementSettings_first h0 h
  case seals =>
    have hex := fun d => exec_seal hk hc hs h1 (d := d)
    exact ⟨fun h => hex _ (if_pos h), fun hv hkind he h0 ht => hex _ (if_neg (by simp [hv, hkind, he, h0, ht]))⟩
  case opened =>
    have hex := fun d => exec_unseal hk hc hb hd h1 (d := d)
    refine ⟨fun h => hex _ ?_, fun k x hdst hx => hex _ (by rw [hdst, hx])⟩
    rcases h with h | h
    · rw [h]
    · rw [h]
      cases c.destination dest <;> rfl
  case loadPub =>
    subst hh
    have hex := fun d => exec_loadPub hk hc hb hd h1 (d := d)
    refine ⟨fun h => hex _ ?_, fun k hdst hp => hex _ (by rw [hdst]; exact if_neg (not_not_intro hp))⟩
    rcases hdst : c.destination dest with _ | k
    · rfl
    · exact if_pos (h.resolve_left (by simp [hdst]))

end Sys2Proof.Proofs

/-! SUPPORT. Attestation, the Vault's own information, enrolment, JTAG unlock, tamper and the TRNG's health (spec/21_vault.md R512,
R522–R526). -/

namespace Sys2Proof.Proofs
open Sys2Proof Sys2Proof.Machine Sys2Proof.Machine.Reg Sys2Proof.Laws

/-! ### The stance's review -/

theorem vault_leaveTest (c : Chip) (cause : Nat) : (c.leaveTest cause).vault = c.vault := by
  unfold Chip.leaveTest
  split
  next => rfl
  next => simp

theorem get_leaveTest {g : Fld} (c : Chip) (cause : Nat) (hl : g.key / 2 ^ 21 ≠ 0x18) (ht : (g.key / 32 / 65536 != 0x17) = true)
    (hs : g.key ≠ GLB_STANCE_STANCE.key) : (c.leaveTest cause).get g = c.get g := by
  unfold Chip.leaveTest
  split
  next => rfl
  next =>
    refine (congrArg (· ^^^ g.rst) (mget_filter_kept 0 _ (fun k => k / 32 / 65536 != 0x17) ht)).trans ?_
    exact (get_logEntry_off (c.put GLB_STANCE_STANCE 0) _ _ _ _ _ hl).trans (get_put_other c _ _ _ hs)

theorem vault_reviewStance (c : Chip) : c.reviewStance.vault = c.vault := by
  unfold Chip.reviewStance
  split
  next => exact vault_leaveTest c 2
  next => rfl

theorem get_reviewStance {g : Fld} (c : Chip) (hl : g.key / 2 ^ 21 ≠ 0x18) (ht : (g.key / 32 / 65536 != 0x17) = true)
    (hs : g.key ≠ GLB_STANCE_STANCE.key) : c.reviewStance.get g = c.get g := by
  unfold Chip.reviewStance
  split
  next => exact get_leaveTest c 2 hl ht hs
  next => rfl

/-! ### Tamper -/

theorem eraseSlots_vault (c : Chip) : c.eraseSlots.vault.slots = [] ∧ c.eraseSlots.vault.scions = [] := by
  simp [Chip.eraseSlots, vault_reviewStance, Chip.showSlots]

theorem eraseSlots_rootstock (c : Chip) : c.eraseSlots.get VLT_STAT_ROOTSTOCK = 0 := by
  unfold Chip.eraseSlots Chip.showSlots
  simp (disch := decide) only [get_reviewStance, get_put_other, get_put_same, Nat.zero_mod]

theorem get_eraseSlots_tamperCnt (c : Chip) : c.eraseSlots.get VLT_TAMPER_CNT = c.get VLT_TAMPER_CNT := by
  unfold Chip.eraseSlots Chip.showSlots
  simp (disch := decide) only [get_reviewStance, get_put_other]
  rfl

/-- The Vault after a tamper source has erased it, before the chip's other units answer. -/
def tamperErased (c : Chip) : Chip := ((c.eraseSlots.put VLT_STAT_TAMPERED 1).evt VLT_EVT_TAMPER).inc VLT_TAMPER_CNT

theorem tamperErased_leaves (c : Chip) : (tamperErased c).vault.slots = [] ∧ (tamperErased c).vault.scions = []
    ∧ (tamperErased c).get VLT_STAT_TAMPERED = 1 ∧ (tamperErased c).get VLT_STAT_ROOTSTOCK = 0
    ∧ (tamperErased c).get VLT_TAMPER_CNT = min (c.get VLT_TAMPER_CNT + 1) (2 ^ VLT_TAMPER_CNT.width - 1) := by
  obtain ⟨hslots, hscions⟩ := eraseSlots_vault c
  unfold tamperErased
  refine ⟨by simp [Chip.inc, Chip.addSat, hslots], by simp [Chip.inc, Chip.addSat, hscions], ?_, ?_, ?_⟩
  · simp (disch := decide) only [get_inc_other, get_evt_off, get_put_same]
    rfl
  · simp (disch := decide) only [get_inc_other, get_evt_off, get_put_other, eraseSlots_rootstock]
  · rw [get_inc_same]
    simp (disch := decide) only [get_evt_off, get_put_other, get_eraseSlots_tamperCnt]

/-! ### JTAG unlock -/

theorem debugTry_unasked {c : Chip} {id : SlotId} {resp : List Byte} (h : c.vault.challenge = none) :
    c.debugTry id resp = (c.inc VLT_REFUSE_CNT).docketReady id stAuthFail [] := by
  have hc : { c with vault := { c.vault with challenge := none } } = c := by rw [← h]
  unfold Chip.debugTry
  rw [h]
  exact congrArg (fun d : Chip => (d.inc VLT_REFUSE_CNT).docketReady id stAuthFail []) hc

/-- Every stock is spent and the challenge is gone. -/
def debugSpent (c : Chip) : Chip :=
  let t := c.debugStocks.foldl (fun (s : Chip) k => s.spend k) c
  { t with vault := { t.vault with challenge := none } }

theorem debugTry_match {c : Chip} {id : SlotId} {resp ch : List Byte} {k : Nat} (h : c.vault.challenge = some ch) (hk : k ∈ c.debugStocks)
    (hr : resp = c.debugResponse k ch) : c.debugTry id resp = ((debugSpent c).put VLT_STAT_DEBUG_OPEN 1).keyOver id stDone [] := by
  unfold Chip.debugTry
  rw [h]
  exact if_pos (List.any_eq_true.2 ⟨k, hk, by simp [hr]⟩)

/-! ### The orders -/

section Orders
variable {id : SlotId} {s : State} {o : Order} {c : Chip}

theorem exec_attest (hk : s.chip.keyStarts id 8 36 [1, 2, 3] true o) (hc : c = s.chip.orderBegun id o) {d : Chip}
    (h : (if c.keyValid 1 = false ∨ c.vault.trngBad then c.keyOver id stRefused []
      else (c.random 48).2.keyOver id stDone (c.attestReport (slice (o.bytes.drop 16) 4 32) ++ padTo (Config.ecdsaSign (c.keyBytes 1)
        (Config.sha384 (c.attestReport (slice (o.bytes.drop 16) 4 32))) (c.random 48).1) 96)) = d) :
    exec (.attest id) s = .next { s with chip := d } := by
  subst hc
  exact exec_keyOrder rfl hk h

theorem exec_attestPub (hk : s.chip.keyStarts id 9 1 [] true o) (hc : c = s.chip.orderBegun id o) {d : Chip}
    (h : (if c.keyValid 1 = false then c.keyOver id stRefused []
      else c.keyOver id stDone (padTo (Config.ecdsaPub (c.keyBytes 1)) 96)) = d) : exec (.attestPub id) s = .next { s with chip := d } := by
  subst hc
  exact exec_keyOrder rfl hk h

theorem exec_enrolPuf (hk : s.chip.keyStarts id 11 1 [] false o) (hc : c = s.chip.orderBegun id o) {d : Chip}
    (h : (if c.on VLT_STAT_ROOTSTOCK ∨ c.get VLT_STAT_PUF_FAIL = 0 ∨ 2 < c.get VLT_STAT_PUF_FAIL ∨ c.vault.trngBad then
        c.keyOver id stRefused []
      else
        let r := c.random 32
        let y := r.2.random 4000
        let h := c.helperData r.1 y.1
        let d := Chip.root { y.2 with vault := { y.2.vault with helper := h } } r.1
        (d.storeHelper h).keyOver id stDone (leBytes 4096 2 ++ slice h 4092 4)) = d) :
    exec (.enrolPuf id) s = .next { s with chip := d } := by
  subst hc
  exact exec_keyOrder rfl hk h

theorem exec_helperRead {off len : Nat} (hk : s.chip.keyStarts id 13 6 [1] false o) (hc : c = s.chip.orderBegun id o)
    (ho : off = rd (o.bytes.drop 16) 2 2) (hl : len = rd (o.bytes.drop 16) 4 2) {d : Chip}
    (h : (if len = 0 ∨ 1000 < len ∨ 4096 < off + len then c.docketReady id stBadArgs []
      else if c.vault.helper.isEmpty then c.keyOver id stRefused []
      else c.keyOver id stDone (slice c.vault.helper off len)) = d) : exec (.helperRead id) s = .next { s with chip := d } := by
  subst hc ho hl
  exact exec_keyOrder rfl hk h

theorem exec_debug (hk : s.chip.keyStarts id 12 20 [2, 3] true o) (hc : c = s.chip.orderBegun id o) {d : Chip}
    (h : (if 1 < rd (o.bytes.drop 16) 1 1 then c.docketReady id stBadArgs []
      else if rd (o.bytes.drop 16) 1 1 = 1 then c.debugTry id (slice (o.bytes.drop 16) 4 16)
      else if c.vault.trngBad then c.keyOver id stRefused []
      else Chip.keyOver { (c.random 16).2 with vault := { (c.random 16).2.vault with challenge := some (c.random 16).1 } } id stDone
        (c.random 16).1) = d) : exec (.debug id) s = .next { s with chip := d } := by
  subst hc
  exact exec_keyOrder rfl hk h

end Orders

theorem root_shows (c : Chip) (key : List Byte) : (c.root key).get VLT_STAT_ROOTSTOCK = 1 := get_put_same _ VLT_STAT_ROOTSTOCK 1

/-- Settles O52: each order by the branch its hypotheses choose; tamper through what the erasure leaves. -/
theorem attestInfoAndDebug : Obligations.AttestInfoAndDebug := by
  unfold Obligations.AttestInfoAndDebug
  intro id src s
  refine ⟨fun o c hk hc => ?attest, fun o c hk hc => ?attestPub, fun o c k hk hc hs h1 => ?info, fun o c hk hc => ?enrol,
    fun o c off len hk hc ho hl => ?helper, fun o c hk hc => ?debug, fun c resp => debugTry_unasked,
    fun c resp ch k h hin hr => ?unlock, fun c hc => ?tamper, fun c hc => ?inactive, ⟨_, ?unhealthy, rfl⟩, rfl⟩
  case attest =>
    exact ⟨fun h => exec_attest hk hc (if_pos h),
      fun hv ht report hr => exec_attest hk hc (by subst hr; exact if_neg (by simp [hv, ht]))⟩
  case attestPub =>
    cases hv : c.keyValid 1
    · exact exec_attestPub hk hc (if_pos hv)
    · exact exec_attestPub hk hc (if_neg (by simp [hv]))
  case info =>
    subst hc hs
    refine exec_keyOrder rfl hk (if_neg ?_)
    simp only [badSlot, decide_eq_true_eq]
    omega
  case enrol =>
    refine ⟨fun h => exec_enrolPuf hk hc (if_pos (h.imp_left on_of_get)), fun hroot h1 h2 ht r y h d hr hy hh hd => ?_⟩
    subst hr hy hh hd
    exact ⟨root_shows _ _, exec_enrolPuf hk hc (if_neg (by simp [Chip.on, hroot, ht]; omega))⟩
  case helper =>
    refine ⟨fun h => exec_helperRead hk hc ho hl (if_pos h), fun h1 h2 h3 => exec_helperRead hk hc ho hl ((if_neg (by omega)).trans ?_)⟩
    simp only [List.isEmpty_iff]
  case debug =>
    refine ⟨fun h => exec_debug hk hc ?_, fun h ht => exec_debug hk hc ?_, fun h ht t hx => exec_debug hk hc ?_⟩
    · exact (if_neg (by omega)).trans (if_pos h)
    · exact (if_neg (by omega)).trans ((if_neg (by omega)).trans (if_pos ht))
    · subst hx
      exact (if_neg (by omega)).trans ((if_neg (by omega)).trans (if_neg (by simp [ht])))
  case unlock => exact ⟨_, get_put_same _ VLT_STAT_DEBUG_OPEN 1, by rw [put_vault]; rfl, debugTry_match h hin hr⟩
  case tamper =>
    subst hc
    refine ⟨fun h => exec_onChip (f := tamper src) rfl (if_pos h), fun hen hdom => ⟨tamperErased (s.chip.setBitOf VLT_TAMPER_ACTIVE src), ?_⟩⟩
    obtain ⟨hslots, hscions, htam, hroot, hcnt⟩ := tamperErased_leaves (s.chip.setBitOf VLT_TAMPER_ACTIVE src)
    exact ⟨hslots, hscions, htam, hroot, hcnt, exec_onChip (f := tamper src) rfl (if_neg (by simp [hen, hdom]))⟩
  case inactive =>
    subst hc
    rfl
  case unhealthy => rw [evt_vault]

end Sys2Proof.Proofs

/-! SUPPORT. Transfer and verification of images (spec/22_updates_and_planting.md R528–R533): a segment joins its reception, and a
verification stops at its first failing step. -/

namespace Sys2Proof.Proofs
open Sys2Proof Sys2Proof.Machine Sys2Proof.Machine.Reg Sys2Proof.Laws

/-! ### PUT_BLOCK -/

section Transfer
variable {id : SlotId} {s : State} {o : Order} {c : Chip} {body : List Byte}

theorem exec_putBlock (hs : s.chip.starts id 0x30 anyBody o) (hc : c = s.chip.orderBegun id o) (hb : body = o.bytes.drop 16) {t : State}
    (h : (if putOk (rd o.bytes 7 1) body = false then State.putOver { s with chip := c } id stBadArgs
      else if c.isPlain o ∧ showsUnbound body then State.putOver { s with chip := c } id stAuthFail
      else if c.planted (rd body 0 1) (rd body 1 1) then State.putOver { s with chip := c } id stRefused
      else State.takeSegment { s with chip := c } id body) = t) : exec (.putBlock id) s = .next t := by
  subst hc hb
  exact congrArg Host.Outcome.next ((startOrderS_runs hs _).trans h)

theorem putOver_known {u : State} {r : Reception} (st : Nat) (h : u.chip.upd.reception = some r) :
    u.putOver id st = u.docketReady id st (leBytes r.missing 2) := by
  unfold State.putOver
  rw [h]

theorem ite_stores {p : Prop} [Decidable p] {a b : State} {q : List Instr} {m : Memory} (ha : a.pending = q ∧ a.mem = m)
    (hb : b.pending = q ∧ b.mem = m) : (if p then a else b).pending = q ∧ (if p then a else b).mem = m := by
  by_cases h : p
  · rwa [if_pos h]
  · rwa [if_neg h]

/-- The segment's bytes are stored and the queue stays, whether the block is good or not. -/
theorem takeSegment_stores (s : State) (id : SlotId) (body : List Byte) : (s.takeSegment id body).pending = s.pending
    ∧ (s.takeSegment id body).mem = Memory.setBytes s.mem (stagingBase + rd body 4 4) (body.drop 16) := by
  unfold State.takeSegment
  exact ite_stores ⟨rfl, rfl⟩ ⟨rfl, rfl⟩

theorem setReception_reception (c : Chip) (r : Option Reception) : (c.setReception r).upd.reception = r := by
  unfold Chip.setReception Chip.showRx
  cases r <;> rfl

/-- The first segment of a reception, where it completes no block. -/
theorem takeSegment_first {u : State} {r : Reception} (h : u.chip.upd.reception = none)
    (hr : r = ⟨rd body 0 1, rd body 1 1, rd body 8 4, [(rd body 4 4, (body.drop 16).length)]⟩) (hhas : r.has (rd body 4 4 / 4096) = false) :
    u.takeSegment id body = State.docketReady { u with
      mem := Memory.setBytes u.mem (stagingBase + rd body 4 4) (body.drop 16), chip := u.chip.setReception (some r) } id stDone
      (leBytes r.missing 2) := by
  subst hr
  unfold State.takeSegment
  rw [h]
  exact (if_neg (fun hb => Bool.false_ne_true (hhas.symm.trans hb.2.1))).trans (putOver_known _ (setReception_reception _ _))

theorem unitOf_updatable {kind unit : Nat} (h : unitOf kind = some unit) : kind ≠ 1 ∧ kind ≠ 8 :=
  ⟨(by rintro rfl; cases h), (by rintro rfl; cases h)⟩

end Transfer

/-! ### VERIFY_IMAGE -/

section Verify
variable {id : SlotId} {s : State} {o : Order} {c : Chip} {body : List Byte} {kind inst key : Nat}

/-- What VERIFY_IMAGE does with a complete file. -/
def verifyFile (c : Chip) (id : SlotId) (kind inst key : Nat) (plain : Bool) (file : List Byte) : Chip :=
  match (c.checkImage kind inst key plain file).1 with
  | .inl st => (c.checkImage kind inst key plain file).2.verifyFailed id st
  | .inr e =>
    if e.bound = false ∧ c.vault.trngBad then (c.checkImage kind inst key plain file).2.verifyFailed id stRefused
    else ((((c.checkImage kind inst key plain file).2.stageRecord e).setReception none).stage kind inst).docketReady id stDone (leBytes e.rev 4)

theorem verifyFile_fails {plain : Bool} {file : List Byte} {st : Nat} {d : Chip}
    (h : c.checkImage kind inst key plain file = (.inl st, d)) : verifyFile c id kind inst key plain file = d.verifyFailed id st := by
  unfold verifyFile
  rw [h]

theorem verifyFile_passes {plain : Bool} {file : List Byte} {e : FlashEntry} {d : Chip}
    (h : c.checkImage kind inst key plain file = (.inr e, d)) : verifyFile c id kind inst key plain file
      = if e.bound = false ∧ c.vault.trngBad then d.verifyFailed id stRefused
        else (((d.stageRecord e).setReception none).stage kind inst).docketReady id stDone (leBytes e.rev 4) := by
  unfold verifyFile
  rw [h]

theorem exec_verifyImage (hs : s.chip.starts id 0x31 anyBody o) (hc : c = s.chip.orderBegun id o) (hb : body = o.bytes.drop 16)
    (hk : kind = rd body 0 1) (hi : inst = rd body 1 1) (hkey : key = rd body 2 1) {d : Chip}
    (h : (if body.length ≠ 4 ∨ rd body 3 1 ≠ 0 ∨ unitOf kind ≠ some (rd o.bytes 7 1) ∨ instOk kind inst = false
          ∨ (127 < key ∧ key ≠ 255) then c.verifyFailed id stBadArgs
      else if c.isPlain o ∧ key ≠ 255 then c.verifyFailed id stAuthFail
      else match State.received { s with chip := c } kind inst with
      | none => if c.receiving kind inst then c.verifyFailed id stBadArgs else c.verifyStored id kind inst
      | some file => verifyFile c id kind inst key (c.isPlain o) file) = d) :
    exec (.verifyImage id) s = .next { s with chip := d } := by
  subst hc hb hk hi hkey h
  exact congrArg Host.Outcome.next (startOrderS_runs hs _)

end Verify

section Steps
variable {c : Chip} {kind inst key : Nat} {plain : Bool} {file h : List Byte}

theorem checkImage_header (hh : h = slice file 0 160) (h1 : updHeaderOk kind inst key file.length h = false) :
    c.checkImage kind inst key plain file = (.inl stBadArgs, c) := by
  subst hh
  exact if_pos h1

theorem checkImage_signature (hh : h = slice file 0 160) (h1 : updHeaderOk kind inst key file.length h = true)
    (h2 : plain = false ∨ updBound h = true) (h3 : c.signedOk h (slice file (160 + updLen h) 96) = false
      ∨ padTo (Config.sha384 (slice file 160 (updLen h))) 48 ≠ slice h 96 48) :
    c.checkImage kind inst key plain file = (.inl stAuthFail, c) := by
  subst hh
  refine (if_neg (by simp [h1])).trans ((if_neg ?_).trans (if_pos h3))
  rcases h2 with q | q <;> simp [q]

theorem checkImage_unfit (hh : h = slice file 0 160) (h1 : updHeaderOk kind inst key file.length h = true)
    (h2 : plain = false ∨ updBound h = true) (h3 : c.signedOk h (slice file (160 + updLen h) 96) = true)
    (h4 : padTo (Config.sha384 (slice file 160 (updLen h))) 48 = slice h 96 48)
    (h5 : c.fits kind inst h = false ∨ (c.boundOnly = true ∧ updBound h = false)) :
    c.checkImage kind inst key plain file = (.inl stRefused, c) := by
  subst hh
  refine (if_neg (by simp [h1])).trans ((if_neg ?_).trans ((if_neg (by simp [h3, h4])).trans (if_pos h5)))
  rcases h2 with q | q <;> simp [q]

end Steps

theorem verifyFail_counts (c : Chip) (h : c.get UPD_VERIFY_FAIL_CNT < 2 ^ 32 - 1) :
    ((c.inc UPD_VERIFY_FAIL_CNT).evt UPD_EVT_VERIFY_FAIL).get UPD_VERIFY_FAIL_CNT = c.get UPD_VERIFY_FAIL_CNT + 1 := by
  rw [get_evt_off _ (by decide) (by decide), get_inc_same]
  have hw : UPD_VERIFY_FAIL_CNT.width = 32 := rfl
  rw [hw]
  omega

/-- Settles O53: PUT_BLOCK and VERIFY_IMAGE branch by branch, the image's checks step by step. -/
theorem transferAndVerification : Obligations.TransferAndVerification := by
  unfold Obligations.TransferAndVerification
  intro id s
  refine ⟨fun o c body hs hc hb => ?put, fun unit body h => ?form, fun u body r h _ hr hhas => takeSegment_first h hr hhas,
    fun u st r h => putOver_known st h, fun o c body kind inst key hs hc hb hk hi hkey => ?verify,
    fun c kind inst key plain file h hh => ⟨checkImage_header hh, fun h1 h2 => ⟨checkImage_signature hh h1 h2, checkImage_unfit hh h1 h2⟩⟩,
    fun c kind inst st => ⟨List.mem_cons_self, verifyFail_counts c, rfl⟩⟩
  case put =>
    have hex := fun t => exec_putBlock hs hc hb (t := t)
    refine ⟨fun h => hex _ (if_pos h), fun hok => ⟨fun hp hu => hex _ ?_, fun hn hpl => hex _ ?_, fun hn hpl => ?_⟩⟩
    · exact (if_neg (by simp [hok])).trans (if_pos ⟨hp, hu⟩)
    · exact (if_neg (by simp [hok])).trans ((if_neg hn).trans (if_pos hpl))
    · obtain ⟨hpend, hmem⟩ := takeSegment_stores { s with chip := c } id body
      refine ⟨_, hex _ ((if_neg (by simp [hok])).trans ((if_neg hn).trans (if_neg (by simp [hpl])))), hpend, hmem, fun a ha => ?_⟩
      rw [hmem, byte_setBytes]
      exact if_neg (by rw [List.length_drop]; omega)
  case form =>
    simp only [putOk, Bool.and_eq_true, decide_eq_true_eq, beq_iff_eq] at h
    obtain ⟨⟨⟨⟨⟨⟨⟨hlen, hunit⟩, _⟩, _⟩, hmin, hmax⟩, htotal⟩, hblock⟩, hseg⟩ := h
    obtain ⟨h1, h8⟩ := unitOf_updatable hunit
    exact ⟨hunit, h1, h8, hmin, hmax, htotal, hblock, hlen, by omega⟩
  case verify =>
    have hex := fun d => exec_verifyImage hs hc hb hk hi hkey (d := d)
    refine ⟨fun h => hex _ (if_pos h), fun hlen hz hu hinst hkeyOk => ?_⟩
    have hform : ¬ (body.length ≠ 4 ∨ rd body 3 1 ≠ 0 ∨ unitOf kind ≠ some (rd o.bytes 7 1) ∨ instOk kind inst = false
        ∨ (127 < key ∧ key ≠ 255)) := by
      simp only [hlen, hz, hu, hinst]
      simp
      omega
    refine ⟨fun hp hk2 => hex _ ((if_neg hform).trans (if_pos ⟨hp, hk2⟩)), fun hfree => ?_⟩
    have hauth : ¬ (c.isPlain o = true ∧ key ≠ 255) := by rcases hfree with q | q <;> simp [q]
    refine ⟨fun hrec => hex _ ((if_neg hform).trans ((if_neg hauth).trans (by rw [hrec]))), fun file hrec => ?_⟩
    have hfile := fun d h => hex d ((if_neg hform).trans ((if_neg hauth).trans (by rw [hrec]; exact h)))
    refine ⟨fun st d hchk => hfile _ (verifyFile_fails hchk), fun e d hchk hb2 => hfile _ ((verifyFile_passes hchk).trans (if_neg ?_)),
      fun e d hchk hb2 ht => hfile _ ((verifyFile_passes hchk).trans (if_pos ⟨hb2, ht⟩))⟩
    rcases hb2 with q | q <;> simp [q]

end Sys2Proof.Proofs

/-! SUPPORT. PLANT from its order to the end of its health window (spec/22_updates_and_planting.md R534–R539), command by command. -/

namespace Sys2Proof.Proofs
open Sys2Proof Sys2Proof.Machine Sys2Proof.Machine.Reg Sys2Proof.Laws

/-! ### The order -/

section PlantOrder
variable {id : SlotId} {s : State} {o : Order} {c : Chip} {body : List Byte} {t : Nat} {units : List (Nat × Nat)}

/-- The chip with a planting armed. -/
def armedPlanting (c : Chip) (p : Planting) : Chip :=
  let c := { c with upd := { c.upd with planting := some p } }
  ((c.put UPD_STAT_ARMED 1).put UPD_STAT_PHASE 1).put UPD_INSTANT_LO_NS p.instant |>.put UPD_INSTANT_HI_NS (p.instant / 2 ^ 32)

theorem armedPlanting_shows (c : Chip) (p : Planting) : (armedPlanting c p).upd.planting = some p
    ∧ (armedPlanting c p).get UPD_STAT_ARMED = 1 ∧ (armedPlanting c p).get UPD_STAT_PHASE = 1
    ∧ (armedPlanting c p).get UPD_INSTANT_LO_NS = p.instant % 2 ^ 32 ∧ (armedPlanting c p).slot = c.slot := by
  unfold armedPlanting
  refine ⟨by simp only [put_upd], ?_, ?_, ?_, rfl⟩
  all_goals simp (disch := decide) only [get_put_other, get_put_same]
  all_goals rfl

theorem exec_plant (hs : s.chip.starts id 0x32 (fun b => !isCancel b) o) (hc : c = s.chip.orderBegun id o)
    (hb : body = o.bytes.drop 16) (ht : t = rd body 0 8) (hu : units = plantUnits body) {d : Chip}
    (h : (if plantOk (rd o.bytes 7 1) body = false then c.docketReady id stBadArgs []
      else if c.isPlain o ∧ c.namesUnbound units then c.docketReady id stAuthFail []
      else if c.plantRefused t units then c.docketReady id stRefused []
      else armedPlanting c ⟨id, t, bit (rd body 9 1) 0, units, [], [], [], none⟩) = d) : exec (.plant id) s = .next { s with chip := d } := by
  subst hc hb ht hu
  exact exec_onChip (f := plant id) rfl ((startOrder_runs hs _).trans h)

theorem exec_plantCancel (hs : s.chip.starts id 0x32 isCancel o) (hc : c = s.chip.orderBegun id o) (hb : body = o.bytes.drop 16) {d : Chip}
    (h : (if body.length ≠ 12 ∨ rd body 0 8 ≠ 0 ∨ rd body 8 1 ≠ 0 ∨ 3 < rd body 9 1 ∨ zeroBytes body [10, 11] = false ∨ rd o.bytes 7 1 ≠ 0 then
        c.docketReady id stBadArgs []
      else match c.upd.planting with
      | some p => if c.beforeInstant then (c.docketReady id stDone []).disarm p else c.docketReady id stRefused []
      | none => c.docketReady id stRefused []) = d) : exec (.plantCancel id) s = .next { s with chip := d } := by
  subst hc hb
  exact exec_onChip (f := plantCancel id) rfl ((startOrder_runs hs _).trans h)

theorem plantRefused_of {u : Nat × Nat} (h : c.upd.planting ≠ none ∨ (u ∈ units ∧ u ∉ c.upd.staged)
    ∨ t < c.ns + 1000000 * c.get UPD_TMR_PLANT_LEAD ∨ c.ns + 60000000000 < t) : c.plantRefused t units = true := by
  simp only [Chip.plantRefused, Bool.or_eq_true, decide_eq_true_eq]
  rcases h with h | ⟨hin, hout⟩ | h | h
  · exact Or.inl (Or.inl (Or.inl (Or.inl (Option.isSome_iff_ne_none.2 h))))
  · exact Or.inl (Or.inl (Or.inl (Or.inr (List.any_eq_true.2 ⟨u, hin, by simp [List.contains_eq_mem, hout]⟩))))
  · exact Or.inl (Or.inl (Or.inr h))
  · exact Or.inl (Or.inr h)

end PlantOrder

/-! ### Warning and instant -/

section Instant
variable {s : State} {p : Planting}

theorem plantWarn_armed (h : s.chip.upd.planting = some p) : plantWarn s.chip
    = if s.chip.get UPD_STAT_PHASE ≠ 1 ∨ s.chip.ns + 100000 * s.chip.get UPD_TMR_PLANT_WARN < p.instant then s.chip
      else s.chip.put UPD_STAT_PHASE 2 := by
  unfold plantWarn
  rw [h]

theorem plantWarn_idle (h : s.chip.upd.planting = none ∨ s.chip.get UPD_STAT_PHASE ≠ 1) : plantWarn s.chip = s.chip := by
  cases hp : s.chip.upd.planting with
  | none =>
    unfold plantWarn
    rw [hp]
  | some p => exact (plantWarn_armed hp).trans (if_pos (Or.inl (h.resolve_left (by simp [hp]))))

theorem plantInstant_armed (h : s.chip.upd.planting = some p) : plantInstant s.chip
    = if s.chip.beforeInstant = false ∨ s.chip.ns < p.instant then s.chip
      else if s.chip.on CTM_STAT_VALID then s.chip.activate_ p else (s.chip.evt UPD_EVT_NOT_PLANTED).disarm p := by
  unfold plantInstant
  rw [h]

theorem plantInstant_idle (h : s.chip.upd.planting = none ∨ s.chip.beforeInstant = false
    ∨ ∃ p, s.chip.upd.planting = some p ∧ s.chip.ns < p.instant) : plantInstant s.chip = s.chip := by
  cases hp : s.chip.upd.planting with
  | none =>
    unfold plantInstant
    rw [hp]
  | some p =>
    refine (plantInstant_armed hp).trans (if_pos ((h.resolve_left (by simp [hp])).imp_right ?_))
    rintro ⟨q, hq, hlt⟩
    cases hp.symm.trans hq
    exact hlt

theorem loadShugon_idle {u : State} (h : u.chip.upd.rewriting = none) : u.loadShugon = u := by
  unfold State.loadShugon
  rw [h]

end Instant

/-! ### The swap of frozen cores -/

section Frozen
variable {s : State} {p : Planting}

theorem plantFrozen_idle (h : s.chip.upd.planting = none ∨ (s.chip.get UPD_STAT_PHASE ≠ 3 ∧ s.chip.get UPD_STAT_PHASE ≠ 5)) :
    s.plantFrozen = s := by
  cases hp : s.chip.upd.planting with
  | none =>
    unfold State.plantFrozen
    rw [hp]
  | some p =>
    unfold State.plantFrozen
    rw [hp]
    exact if_pos (h.resolve_left (by simp [hp]))

theorem plantFrozen_waits (h : s.chip.upd.planting = some p) (hph : s.chip.get UPD_STAT_PHASE = 3 ∨ s.chip.get UPD_STAT_PHASE = 5)
    (hk : ∀ k ∈ p.swapping, s.chip.allFrozen k = false) : s.plantFrozen = s := by
  have hready : p.swapping.filter (fun c => s.chip.allFrozen c) = [] := List.filter_eq_nil_iff.2 (fun k hin => by simp [hk k hin])
  have hall : p.swapping.filter (fun c => !([] : List Nat).contains c) = p.swapping := List.filter_eq_self.2 (fun _ _ => rfl)
  unfold State.plantFrozen
  rw [h]
  refine (if_neg (by omega)).trans ?_
  rw [hready]
  refine (if_pos (Or.inl rfl)).trans ?_
  rw [hall]
  show ({ s with chip := { s.chip with upd := { s.chip.upd with planting := some p } } } : State) = s
  rw [← h]

theorem plantFrozen_last {k : Nat} (h : s.chip.upd.planting = some p) (hph : s.chip.get UPD_STAT_PHASE = 3) (hk : p.swapping = [k])
    (hf : s.chip.allFrozen k = true) {t : State} (ht : t = s.swapIn k p.keepData) :
    s.plantFrozen = { t with chip := Chip.enterWindow { t.chip with
      upd := { t.chip.upd with planting := some { p with swapping := [] } } } { p with swapping := [] } } := by
  have hready : p.swapping.filter (fun c => s.chip.allFrozen c) = [k] := by simp [hk, hf]
  have hnone : p.swapping.filter (fun c => !([k] : List Nat).contains c) = [] := by simp [hk]
  unfold State.plantFrozen
  rw [h]
  refine (if_neg (by omega)).trans ?_
  rw [hready]
  dsimp only
  rw [hnone]
  refine (if_neg (by simp)).trans ?_
  simp only [List.foldl_cons, List.foldl_nil, if_pos hph]
  rw [← ht]
  rfl

theorem get_swapCore (c : Chip) {core : Nat} (h : core < 16) :
    (c.swapCore core).get (BCH_STAT_ACT_BANK core) = (1 - c.get (BCH_STAT_ACT_BANK core)) % 2 := by
  have hs : c.swapCore core = c.put (BCH_STAT_ACT_BANK core) (1 - c.get (BCH_STAT_ACT_BANK core)) := if_neg (by omega)
  rw [hs]
  exact get_put_same c (BCH_STAT_ACT_BANK core) _

end Frozen

/-! ### Shugon's rewrite -/

theorem useKey_upd (c : Chip) (k use : Nat) : (c.useKey k use).2.upd = c.upd := by
  have hspend : (c.spend k).upd = c.upd := by
    unfold Chip.spend
    dsimp only
    split <;> rfl
  unfold Chip.useKey
  split
  · rfl
  · split
    · exact evt_upd c _
    · exact hspend

theorem deriveLedger_upd (c : Chip) : c.deriveLedger.upd = c.upd := by
  unfold Chip.deriveLedger
  split
  · split
    · rfl
    · dsimp only
      split
      · exact useKey_upd c _ _
      · exact useKey_upd c _ _
  · rfl

theorem shugonDone_idle {s : State} (h : s.chip.upd.rewriting = none) : s.shugonDone = s := by
  unfold State.shugonDone
  rw [h]

/-- Porter is entered again after a rewrite, from its new record where a new Porter is planted. -/
def porterEntered (back : Prop) [Decidable back] (u : State) : State :=
  match u.chip.porterRecord (match u.chip.upd.planting with
    | some p => !decide back && p.units.contains (3, 255)
    | none => false) with
  | some e => u.loadPorter e.item
  | none => u

/-- The Vault's unit is the next to be rewritten. -/
def vaultNext (k : Nat) (t : State) : Bool :=
  match t.chip.upd.planting with
  | some p => decide (k = 3) && p.units.contains (4, 255)
  | none => false

/-- The ledger scion is derived once the rewrite is noted. -/
def rewriteNoted (more : Bool) (t : State) : State :=
  (t.withChip (fun c => { c with upd := { c.upd with rewriting := if more then some 4 else none } })).withChip Chip.deriveLedger

/-- A rollback that waited for the rewrite alone ends. -/
def rollbackEnded (back : Prop) [Decidable back] (more : Bool) (w : State) : State :=
  match w.chip.upd.planting with
  | some p => if back ∧ more = false ∧ p.swapping = [] then w.withChip (fun c => c.rolledBack p) else w
  | none => w

theorem shugonDone_eq {s u t : State} {k : Nat} (hk : s.chip.upd.rewriting = some k)
    (hu : u = (if k = 4 then s.loadShugon.withChip Chip.vaultRestart else s.loadShugon))
    (ht : t = porterEntered (s.chip.get UPD_STAT_PHASE = 5) u) :
    s.shugonDone = rollbackEnded (s.chip.get UPD_STAT_PHASE = 5) (vaultNext k t) (rewriteNoted (vaultNext k t) t) := by
  subst hu ht
  unfold State.shugonDone
  rw [hk]
  rfl

theorem porterEntered_planting {back : Prop} [Decidable back] {u : State} {p : Planting} {e : FlashEntry}
    (hp : u.chip.upd.planting = some p) (he : u.chip.porterRecord (!decide back && p.units.contains (3, 255)) = some e) :
    porterEntered back u = u.loadPorter e.item := by
  unfold porterEntered
  rw [hp]
  dsimp only
  rw [he]

theorem rewriteNoted_planting (more : Bool) (t : State) : (rewriteNoted more t).chip.upd.planting = t.chip.upd.planting := by
  show (Chip.deriveLedger _).upd.planting = _
  rw [deriveLedger_upd]
  rfl

/-- Shugon's end in a planting whose Porter record is there: `u` is the state with the rewritten unit, `t` with Porter entered, `w` with
the ledger scion. -/
theorem shugonDone_planting {s u t w : State} {k : Nat} {p : Planting} {e : FlashEntry} {more : Bool} (hk : s.chip.upd.rewriting = some k)
    (hu : u = (if k = 4 then s.loadShugon.withChip Chip.vaultRestart else s.loadShugon)) (hp : u.chip.upd.planting = some p)
    (he : u.chip.porterRecord (!decide (s.chip.get UPD_STAT_PHASE = 5) && p.units.contains (3, 255)) = some e)
    (ht : t = u.loadPorter e.item) (hm : more = (decide (k = 3) && p.units.contains (4, 255))) (hw : w = rewriteNoted more t) :
    s.shugonDone = if s.chip.get UPD_STAT_PHASE = 5 ∧ more = false ∧ p.swapping = [] then w.withChip (fun c => c.rolledBack p) else w := by
  have htp : t.chip.upd.planting = some p := by rw [ht]; exact hp
  have hwp : w.chip.upd.planting = some p := by rw [hw, rewriteNoted_planting, htp]
  have hmore : vaultNext k t = more := by
    unfold vaultNext
    rw [htp, hm]
  rw [shugonDone_eq hk hu (ht.trans (porterEntered_planting hp he).symm), hmore, ← hw]
  unfold rollbackEnded
  rw [hwp]

/-! ### The health window's end -/

theorem healthWindowEnd_idle {c : Chip} (h : c.upd.planting = none ∨ c.get UPD_STAT_PHASE ≠ 4) : healthWindowEnd c = c := by
  cases hp : c.upd.planting with
  | none =>
    unfold healthWindowEnd
    rw [hp]
  | some p =>
    unfold healthWindowEnd
    rw [hp]
    exact if_pos (h.resolve_left (by simp [hp]))

theorem healthWindowEnd_planting {c : Chip} {p : Planting} (h : c.upd.planting = some p) (h4 : c.get UPD_STAT_PHASE = 4) :
    healthWindowEnd c = match p.units.find? (fun u => c.unitCause p u != 0) with
      | some u => c.unitFailed u.1 u.2 (c.unitCause p u)
      | none => ((((p.units.filter (fun u => u.1 != 2)).foldl (fun (c : Chip) u => c.flipItem u) c).evt
        UPD_EVT_KEPT).publish).endPlanting p stDone (plantBody 0 0 0 0) := by
  unfold healthWindowEnd
  rw [h]
  exact if_neg (not_not_intro h4)

theorem plantingWaits_warned {c : Chip} {p : Planting} {h : HandId} (hp : c.upd.planting = some p) (h2 : c.get UPD_STAT_PHASE = 2) :
    c.plantingWaits h = ((p.units.filterMap unitCore).contains (coreOf h) || decide (h.val = 65)) := by
  unfold Chip.plantingWaits
  rw [hp]
  dsimp only
  rw [h2]
  rfl

theorem unitCause_bench {c : Chip} {p : Planting} {b : Nat} (h : bit (c.get UPD_HEALTH_OK) b = false) : c.unitCause p (6, b) = 3 :=
  if_pos h

/-- Settles O54, command by command. -/
theorem planting : Obligations.Planting := by
  unfold Obligations.Planting
  intro id s
  refine ⟨fun o c body t units hs hc hb ht hu => ?plant, fun c t units u => plantRefused_of, fun o c body hs hc hb => ?cancel,
    fun c p d hd => ?disarm, fun h => ?warnIdle, fun p h hlt => ?warnEarly, fun p h h1 hle => ?warn, fun c p h => plantingWaits_warned,
    fun hr h => ?instantIdle, fun p h hb hle t ht => ?instant, fun u => loadShugon_idle, fun h => ?frozenIdle, fun p h hph hk => ?frozenWaits,
    fun p k h hph hk hf t ht => ?frozenLast, fun c core => get_swapCore c, fun h => ?rewriteIdle,
    fun k p e more hk u t w hu hp he ht hm hw => ?rewrite, fun h => ?healthIdle, fun p h h4 => ⟨fun u hu => ?failed, fun hall => ?kept⟩,
    fun c p b h _ => unitCause_bench h⟩
  case plant =>
    have hex := fun d => exec_plant hs hc hb ht hu (d := d)
    refine ⟨fun h => hex _ (if_pos h), fun hok => ⟨fun hp hn => hex _ ?_, fun hf hr => hex _ ?_, fun hf hr =>
      ⟨armedPlanting c ⟨id, t, bit (rd body 9 1) 0, units, [], [], [], none⟩, hex _ ?_, ?_⟩⟩⟩
    rotate_left 3
    · obtain ⟨hpl, harm, hph, hlo, hslot⟩ := armedPlanting_shows c ⟨id, t, bit (rd body 9 1) 0, units, [], [], [], none⟩
      exact ⟨hpl, harm, hph, hlo, congrFun hslot id⟩
    all_goals refine (if_neg (by simp [hok])).trans ?_
    · exact if_pos ⟨hp, hn⟩
    all_goals refine (if_neg (by rcases hf with q | q <;> simp [q])).trans ?_
    · exact if_pos hr
    · exact if_neg (by simp [hr])
  case cancel =>
    have hex := fun d => exec_plantCancel hs hc hb (d := d)
    refine ⟨fun h => hex _ (if_pos h), fun h1 h2 h3 h4 h5 h6 => ?_⟩
    have hform : ¬ (body.length ≠ 12 ∨ rd body 0 8 ≠ 0 ∨ rd body 8 1 ≠ 0 ∨ 3 < rd body 9 1 ∨ zeroBytes body [10, 11] = false
        ∨ rd o.bytes 7 1 ≠ 0) := by
      simp only [h1, h2, h3, h5, h6]
      simp [h4]
    exact ⟨fun h => hex _ ((if_neg hform).trans (by rw [h])), fun p h => hex _ ((if_neg hform).trans (by rw [h]))⟩
  case disarm =>
    subst hd
    refine ⟨rfl, rfl, ?_, get_put_same _ UPD_STAT_PHASE 0⟩
    exact (get_put_other _ _ _ _ (by decide)).trans (get_put_same _ UPD_STAT_ARMED 0)
  case warnIdle => exact exec_onChip_same rfl (plantWarn_idle h)
  case warnEarly => exact exec_onChip_same rfl ((plantWarn_armed h).trans (if_pos (Or.inr hlt)))
  case warn => exact exec_onChip rfl ((plantWarn_armed h).trans (if_neg (by omega)))
  case instantIdle =>
    refine congrArg Host.Outcome.next ?_
    unfold State.plantInstant State.withChip
    rw [plantInstant_idle h, if_pos (by simp [hr])]
    exact loadShugon_idle hr
  case instant =>
    subst ht
    refine congrArg Host.Outcome.next ?_
    unfold State.plantInstant State.withChip
    rw [(plantInstant_armed h).trans (if_neg (by simp [hb, hle]))]
  case frozenIdle => exact congrArg Host.Outcome.next (plantFrozen_idle h)
  case frozenWaits => exact congrArg Host.Outcome.next (plantFrozen_waits h hph hk)
  case frozenLast => exact congrArg Host.Outcome.next (plantFrozen_last h hph hk hf ht)
  case rewriteIdle => exact congrArg Host.Outcome.next (shugonDone_idle h)
  case rewrite => exact congrArg Host.Outcome.next (shugonDone_planting hk hu hp he ht hm hw)
  case healthIdle => exact exec_onChip_same rfl (healthWindowEnd_idle h)
  case failed => exact exec_onChip rfl ((healthWindowEnd_planting h h4).trans (by rw [hu]))
  case kept =>
    have hnone : p.units.find? (fun u => s.chip.unitCause p u != 0) = none := List.find?_eq_none.2 (fun u hin => by simp [hall u hin])
    exact exec_onChip rfl ((healthWindowEnd_planting h h4).trans (by rw [hnone]))

end Sys2Proof.Proofs

/-! SUPPORT. The REPAIR order (spec/23_in_service_repair.md R541–R553): what every action checks, the bench that moves with its data
memory, the remapped row and the swapped root. -/

namespace Sys2Proof.Proofs
open Sys2Proof Sys2Proof.Machine Sys2Proof.Machine.Reg Sys2Proof.Laws

/-! ### Entries of a map that move -/

section Moved
variable {α : Type} [DecidableEq α] {d : α}

theorem mwfFrom_le {lo : Nat} {m : SMap α} (h : mwfFrom d lo m = true) {e : Nat × α} (he : e ∈ m) : lo ≤ e.1 := by
  induction m generalizing lo with
  | nil => cases he
  | cons x r ih =>
    simp only [mwfFrom, Bool.and_eq_true, decide_eq_true_eq] at h
    obtain ⟨⟨hlo, _⟩, hr⟩ := h
    rcases List.mem_cons.1 he with rfl | he
    · exact hlo
    · exact hlo.trans (Nat.le_of_succ_le (ih hr he))

/-- Entries put in one after another. -/
def putEntries (d : α) (f : Nat → Nat) (l m : SMap α) : SMap α := l.foldl (fun m e => mset d m (f e.1) e.2) m

theorem mget_putEntries_other {f : Nat → Nat} {l m : SMap α} {k : Nat} (h : ∀ e ∈ l, f e.1 ≠ k) :
    mget d (putEntries d f l m) k = mget d m k := by
  induction l generalizing m with
  | nil => rfl
  | cons e r ih =>
    obtain ⟨he, hr⟩ := List.forall_mem_cons.1 h
    exact (ih hr).trans (mget_mset_other d m _ k e.2 he.symm)

/-- An entry is found at its new place, where nothing was before, if no other one comes to it. -/
theorem mget_putEntries {f : Nat → Nat} {l m : SMap α} {lo j : Nat} (hl : mwfFrom d lo l = true) (hf : ∀ e ∈ l, f e.1 = f j → e.1 = j)
    (h0 : mget d m (f j) = d) : mget d (putEntries d f l m) (f j) = mget d l j := by
  induction l generalizing m lo with
  | nil => exact h0
  | cons e r ih =>
    obtain ⟨k, v⟩ := e
    obtain ⟨he, hr⟩ := List.forall_mem_cons.1 hf
    simp only [mwfFrom, Bool.and_eq_true, decide_eq_true_eq] at hl
    obtain ⟨⟨_, hv⟩, hwf⟩ := hl
    by_cases hk : j = k
    · subst hk
      have hgone : ∀ e ∈ r, f e.1 ≠ f j := fun e hin hfe => by
        have hlt := mwfFrom_le hwf hin
        have heq := hr e hin hfe
        omega
      have hhead : mget d ((j, v) :: r) j = v := if_pos rfl
      exact (mget_putEntries_other hgone).trans ((mget_mset_same d m (f j) v).trans hhead.symm)
    · have hkeep : mget d (mset d m (f k) v) (f j) = d :=
        (mget_mset_other d m (f k) (f j) v (fun hfe => hk (he hfe.symm).symm)).trans h0
      have htail : mget d ((k, v) :: r) j = mget d r j := if_neg hk
      exact (ih hwf hr hkeep).trans htail.symm

variable {m : SMap α} {a b n : Nat}

/-- A key lies in a stretch of `n`. -/
def inStretch (n lo k : Nat) : Bool := decide (lo ≤ k) && decide (k < lo + n)

theorem inStretch_iff {lo k : Nat} : inStretch n lo k = true ↔ lo ≤ k ∧ k < lo + n := by simp [inStretch]

theorem moveKeys_eq : moveKeys d m a b n = putEntries d (fun k => k - a + b) (m.filter (fun e => inStretch n a e.1))
    (m.filter (fun e => !inStretch n a e.1 && !inStretch n b e.1)) := rfl

theorem copyKeys_eq : copyKeys d m a b n = putEntries d (fun k => k - a + b) (m.filter (fun e => inStretch n a e.1))
    (m.filter (fun e => !inStretch n b e.1)) := rfl

theorem mget_moveKeys_moved (h : mwf d m = true) {i : Nat} (hi : i < n) : mget d (moveKeys d m a b n) (b + i) = mget d m (a + i) := by
  have hin : ∀ e ∈ m.filter (fun e => inStretch n a e.1), a ≤ e.1 := fun e he => (inStretch_iff.1 (List.mem_filter.1 he).2).1
  have hfree : mget d (m.filter (fun e => !inStretch n a e.1 && !inStretch n b e.1)) (b + i) = d := by
    rw [mget_filter (fun k => !inStretch n a k && !inStretch n b k) h]
    exact if_neg (by simp [inStretch, hi])
  have hput := mget_putEntries (f := fun k => k - a + b) (j := a + i) (mwf_filter _ h)
    (fun e he hfe => by have := hin e he; omega)
    (by rw [show a + i - a + b = b + i by omega]; exact hfree)
  rw [show a + i - a + b = b + i by omega] at hput
  rw [moveKeys_eq, hput, mget_filter (fun k => inStretch n a k) h]
  exact if_pos (inStretch_iff.2 (by omega))

theorem mget_moveKeys_left (h : mwf d m = true) {k : Nat} (hk : inStretch n a k = true) (hb : inStretch n b k = false) :
    mget d (moveKeys d m a b n) k = d := by
  have hout : ∀ e ∈ m.filter (fun e => inStretch n a e.1), e.1 - a + b ≠ k := fun e he hfe => by
    have := inStretch_iff.1 (List.mem_filter.1 he).2
    exact absurd (inStretch_iff.2 (by omega)) (Bool.eq_false_iff.1 hb)
  rw [moveKeys_eq, mget_putEntries_other (f := fun k => k - a + b) hout, mget_filter (fun k => !inStretch n a k && !inStretch n b k) h]
  exact if_neg (by simp [hk])

theorem mget_copyKeys_other (h : mwf d m = true) {k : Nat} (hb : inStretch n b k = false) :
    mget d (copyKeys d m a b n) k = mget d m k := by
  have hout : ∀ e ∈ m.filter (fun e => inStretch n a e.1), e.1 - a + b ≠ k := fun e he hfe => by
    have := inStretch_iff.1 (List.mem_filter.1 he).2
    exact absurd (inStretch_iff.2 (by omega)) (Bool.eq_false_iff.1 hb)
  rw [copyKeys_eq, mget_putEntries_other (f := fun k => k - a + b) hout, mget_filter (fun k => !inStretch n b k) h]
  exact if_pos (by simp [hb])

end Moved

/-! ### The stores of a bench that moves -/

theorem moveStores_bytes {s : State} {src dst a : Nat} (hs : src < 16) (hne : src ≠ dst) (hwf : Memory.wf s.mem = true)
    (ha : a < 2 ^ 20) : Memory.byte (s.moveStores src dst).mem (dmemBase dst + a) = Memory.byte s.mem (dmemBase src + a)
      ∧ Memory.byte (s.moveStores src dst).mem (dmemBase src + a) = 0 := by
  have hbanks : inStretch (2 ^ 20) (imemBase dst (s.chip.bank dst)) (dmemBase src + a) = false := by
    rw [Bool.eq_false_iff, ne_eq, inStretch_iff, dmemBase, imemBase]
    omega
  have hold : mget Memory.blank (copyKeys Memory.blank s.mem (imemBase src (s.chip.bank src)) (imemBase dst (s.chip.bank dst)) (2 ^ 20))
      (dmemBase src + a) = Memory.byte s.mem (dmemBase src + a) := mget_copyKeys_other hwf hbanks
  refine ⟨(mget_moveKeys_moved (mwf_copyKeys _ _ _ hwf) ha).trans hold, mget_moveKeys_left (mwf_copyKeys _ _ _ hwf) ?_ ?_⟩
  · exact inStretch_iff.2 (by omega)
  · rw [Bool.eq_false_iff, ne_eq, inStretch_iff, dmemBase, dmemBase]
    omega

/-- The chip once the bench's hands, cell registers, accesses and rings are the spare's, and its hands have resumed. -/
def benchMoved (c : Chip) (m : Migration) : Chip :=
  let c := ((c.moveCregs m.src m.dst).moveHands m.src m.dst m.notify).moveAccesses m.src m.dst
  let c := c.moveRings m.src m.dst
  let c := ((c.put (BCH_FOWN_OWNER m.dst) (c.get (BCH_FOWN_OWNER m.src))).put (BCH_FOWN_OWNER m.src) 0).put BCH_SPARE_BENCH m.src
  (handsOf m.dst).foldl (fun (c : Chip) h => c.boundary h) (c.unfreezeRings m.dst)

/-- The chip once a migration is over, before its docket. -/
def migrationOver (c : Chip) (m : Migration) : Chip :=
  let lat := c.fresh 32
  let c := { lat.2 with rep := { lat.2.rep with migration := none } }
  let c := ((c.put REP_MIG_FROM m.src).put REP_MIG_TO m.dst).put REP_MIG_LAT (min (lat.1 / 10) 65535)
  (((c.inc REP_MIG_CNT).evt REP_EVT_MIG_DONE).put REP_STAT_BUSY 0).put REP_STAT_ACTION 0

theorem migrationOver_shows (c : Chip) (m : Migration) (hs : m.src < 16) (hd : m.dst < 16) :
    (migrationOver c m).get REP_STAT_BUSY = 0 ∧ (migrationOver c m).get REP_MIG_FROM = m.src
    ∧ (migrationOver c m).get REP_MIG_TO = m.dst ∧ (migrationOver c m).rep.migration = none := by
  unfold migrationOver
  refine ⟨?_, ?_, ?_, by simp only [put_rep, evt_rep, inc_rep]⟩
  all_goals simp (disch := decide) only [get_put_other, get_put_same, get_evt_off, get_inc_other]
  · rfl
  · exact Nat.mod_eq_of_lt hs
  · exact Nat.mod_eq_of_lt hd

theorem migrateCopy_copies {s : State} {m : Migration} (h : s.chip.rep.migration = some m) (hc : s.chip.mayCopy m.src = true) :
    s.migrateCopy = { s.moveStores m.src m.dst with
      chip := (migrationOver (benchMoved (s.moveStores m.src m.dst).chip m) m).docketReady m.at_ stDone (leBytes m.src 1 ++ leBytes m.dst 1
        ++ leBytes 0 2 ++ leBytes ((benchMoved (s.moveStores m.src m.dst).chip m).fresh 32).1 4) } := by
  unfold State.migrateCopy
  rw [h]
  exact if_neg (by simp [hc])

theorem migrateCopy_waits {s : State} (h : s.chip.rep.migration = none
    ∨ ∃ m, s.chip.rep.migration = some m ∧ s.chip.mayCopy m.src = false) : s.migrateCopy = s := by
  unfold State.migrateCopy
  rcases h with h | ⟨m, h, hc⟩
  · rw [h]
  · rw [h]
    exact if_pos hc

/-! ### A frozen hand resumes -/

theorem resumed_other {x : Hand} (hx : x.state ≠ .frozen) (h : HandId) (tick : Nat) (notify : Bool) : x.resumed h tick notify = x :=
  if_neg hx

theorem resumed_frozen {x : Hand} (hx : x.state = .frozen) (h : HandId) (tick : Nat) (notify : Bool) :
    x.resumed h tick notify = { x with
      state := x.frozenFrom, wdogFrom := tick - x.wdogFrom, stalled := x.stalled.map (fun i => retarget i h),
      pend0A := x.pend0A || (notify && (x.frozenFrom == .run || x.frozenFrom == .wait) && decide (x.tvec ≠ 0)) } := if_pos hx

/-! ### The order -/

section Repair
variable {i : Instr} {id : SlotId} {action : Nat} {bad : List Byte → Bool} {refused : Chip → List Byte → Bool} {s : State} {o : Order}
variable {c : Chip} {body : List Byte}

/-- The chip that shows an action under way. -/
def repairing (c : Chip) (action : Nat) : Chip := (c.put REP_STAT_BUSY 1).put REP_STAT_ACTION action

theorem repairOrder_starts {perform : State → List Byte → State} (hs : s.chip.starts id 0x90 (fun b => rd b 0 1 == action) o)
    (hc : c = s.chip.orderBegun id o) (hb : body = o.bytes.drop 16) : s.repairOrder id action bad refused perform
      = if bad body then { s with chip := c.docketReady id stBadArgs [] }
        else if c.on REP_STAT_BUSY ∨ c.power.seq.isSome ∨ refused c body then { s with chip := c.docketReady id stRefused [] }
        else perform { s with chip := repairing c action } body := by
  subst hc hb
  exact startOrderS_runs hs _

/-- A REPAIR command answers the two checks that come before its action. -/
theorem repairChecks {perform : State → List Byte → State} (he : exec i s = .next (s.repairOrder id action bad refused perform))
    (hs : s.chip.starts id 0x90 (fun b => rd b 0 1 == action) o) (hc : c = s.chip.orderBegun id o) (hb : body = o.bytes.drop 16) :
    (bad body = true → exec i s = .next { s with chip := c.docketReady id stBadArgs [] })
    ∧ (bad body = false → c.get REP_STAT_BUSY = 1 ∨ c.power.seq ≠ none ∨ refused c body = true →
      exec i s = .next { s with chip := c.docketReady id stRefused [] }) := by
  refine ⟨fun h => he.trans (congrArg _ ((repairOrder_starts hs hc hb).trans (if_pos h))),
    fun h hr => he.trans (congrArg _ ((repairOrder_starts hs hc hb).trans ((if_neg (by simp [h])).trans (if_pos ?_))))⟩
  exact hr.imp on_of_get (Or.imp_left Option.isSome_iff_ne_none.2)

/-- A REPAIR action that is performed. -/
theorem exec_repairOrder {perform : State → List Byte → State} {t : State}
    (he : exec i s = .next (s.repairOrder id action bad refused perform))
    (hs : s.chip.starts id 0x90 (fun b => rd b 0 1 == action) o) (hc : c = s.chip.orderBegun id o) (hb : body = o.bytes.drop 16)
    (h1 : bad body = false) (h2 : refused c body = false) (h3 : c.get REP_STAT_BUSY = 0) (h4 : c.power.seq = none)
    (h : perform { s with chip := repairing c action } body = t) : exec i s = .next t := by
  refine he.trans (congrArg _ ((repairOrder_starts hs hc hb).trans ((if_neg (by simp [h1])).trans ((if_neg ?_).trans h))))
  simp [h2, h4, Chip.on, h3]

end Repair

theorem get_repairing_busy (c : Chip) (action : Nat) : (repairing c action).get REP_STAT_BUSY = 1 :=
  (get_put_other _ _ _ _ (by decide)).trans (get_put_same c REP_STAT_BUSY 1)

theorem migrateRefused_of {c : Chip} {b : List Byte} (h : 15 < c.get BCH_SPARE_BENCH ∨ rd b 1 1 = c.get BCH_SPARE_BENCH
    ∨ c.domainOn (coreDomain (rd b 1 1)) = false ∨ c.domainOn (coreDomain (c.get BCH_SPARE_BENCH)) = false
    ∨ c.planted 6 (rd b 1 1) = true) : c.migrateRefused b = true := by
  simp only [Chip.migrateRefused, Bool.or_eq_true, decide_eq_true_eq, Bool.not_eq_true']
  tauto

/-! ### The swapped root -/

theorem swapRoots_aligned (c : Chip) : c.swapRoots.get CLK_STAT_ALIGNED = 0 := by
  unfold Chip.swapRoots
  simp (disch := decide) only [get_evt_off, get_inc_other, get_put_same, Nat.zero_mod]

theorem swapRoots_root (c : Chip) : c.swapRoots.get CLK_STAT_ROOT_ACT = (1 - c.get CLK_STAT_ROOT_ACT) % 2 := by
  unfold Chip.swapRoots
  simp (disch := decide) only [get_evt_off, get_inc_other, get_put_other, get_put_same]
  rfl

theorem get_repairing_root (c : Chip) (action : Nat) : (repairing c action).get CLK_STAT_ROOT_ACT = c.get CLK_STAT_ROOT_ACT := by
  unfold repairing
  simp (disch := decide) only [get_put_other]

/-- Settles O55: the checks once for all four actions, then each action. -/
theorem repairOrders : Obligations.RepairOrders := by
  unfold Obligations.RepairOrders
  intro id s
  refine ⟨fun i action bad refused o c body hi hs hc hb => ?checks, fun o c body d hs hc hb h1 h2 h3 h4 hd => ?migrate,
    fun c b => migrateRefused_of, fun h => congrArg Host.Outcome.next (migrateCopy_waits h),
    fun m h hcopy hsrc hdst hne hwf => ?copy, fun x h tick notify => ⟨fun hx => resumed_other hx h tick notify, fun hx => ?resumed⟩,
    fun o c body d hs hc hb h1 h2 h3 h4 hd => ?remap, fun o c body d hs hc hb h1 h2 h3 h4 hd => ?root⟩
  case checks =>
    obtain ⟨perform, he⟩ : ∃ perform, exec i s = .next (s.repairOrder id action bad refused perform) := by
      rcases hi with ⟨rfl, rfl, rfl, rfl⟩ | ⟨rfl, rfl, rfl, rfl⟩ | ⟨rfl, rfl, rfl, rfl⟩ | ⟨rfl, rfl, rfl, rfl⟩
      all_goals exact ⟨_, rfl⟩
    exact repairChecks he hs hc hb
  case migrate =>
    subst hd
    exact ⟨get_repairing_busy c 1, exec_repairOrder rfl hs hc hb h1 h2 h3 h4 rfl⟩
  case copy =>
    obtain ⟨hbusy, hfrom, hto, hrep⟩ := migrationOver_shows (benchMoved (s.moveStores m.src m.dst).chip m) m hsrc hdst
    exact ⟨_, _, _, congrArg Host.Outcome.next (migrateCopy_copies h hcopy), rfl, rfl, hbusy, hfrom, hto, hrep,
      fun a ha => moveStores_bytes hsrc hne hwf ha⟩
  case resumed =>
    rw [resumed_frozen hx]
    refine ⟨rfl, rfl, rfl, fun hfrom htvec hn => ?_⟩
    rcases hfrom with hf | hf <;> simp [hf, htvec, hn]
  case remap =>
    subst hd
    exact exec_repairOrder rfl hs hc hb h1 (by simp [h2]) h3 h4 rfl
  case root =>
    subst hd
    refine ⟨exec_repairOrder rfl hs hc hb (by simp [h1]) (by simp [h2]) h3 h4 rfl, ?_, fun hroot => ?_⟩
    · rw [get_reviewClock _ _ (by decide), swapRoots_aligned]
    · rw [get_reviewClock _ _ (by decide), swapRoots_root]
      have hkeep := get_repairing_root c 4
      unfold repairing at hkeep
      rw [hkeep]
      omega

end Sys2Proof.Proofs

/-! SUPPORT. Lane sparing (spec/23_in_service_repair.md R545–R548): the order, the four control flits, the dwell and the end of an
attempt. -/

namespace Sys2Proof.Proofs
open Sys2Proof Sys2Proof.Machine Sys2Proof.Machine.Reg Sys2Proof.Laws

/-! ### Who may begin -/

theorem spareRefused_of {c : Chip} {p : TPort} {own : Bool} {l : Nat} (h : c.laneState p ≠ laneUp ∨ (c.lane p).attempt ≠ .none
    ∨ c.sparePair p own l = none ∨ c.rep.sparing.get p ≠ none) : c.spareRefused p own l = true := by
  simp only [Chip.spareRefused, Chip.steady, Bool.or_eq_true, Bool.not_eq_true', Bool.and_eq_false_iff, beq_eq_false_iff_ne,
    Option.isNone_iff_eq_none, Option.isSome_iff_ne_none]
  tauto

/-! ### A control flit of sparing -/

section Flit
variable {c c0 d : Chip} {p : TPort} {flit : List RxBlock} {bytes w : List Byte} {ctype : Nat} {f : Chip → Nat → Nat → Nat → Nat → Chip}

theorem spareFlit_lost (hr : c.rxFlit p flit = (bytes, c0)) (h : c0.receive p bytes = (none, d)) : c.spareFlit p ctype flit f = d := by
  unfold Chip.spareFlit
  rw [hr]
  dsimp only
  rw [h]

theorem spareFlit_read (hr : c.rxFlit p flit = (bytes, c0)) (h : c0.receive p bytes = (some w, d)) : c.spareFlit p ctype flit f
    = if hdrKind w = 1 ∧ ctlOf w = ctype ∧ rd w 5 1 = 1 then f d (rd w 8 1) (rd w 9 1) (rd w 10 1) (rd w 11 1) else d := by
  unfold Chip.spareFlit
  rw [hr]
  dsimp only
  rw [h]

end Flit

/-- What SPARE_ASK asks for. -/
def onSpareAsk (p : TPort) (c : Chip) (logical _a _q _result : Nat) : Chip :=
  if c.spareRefused p true logical then c
  else match c.sparePair p true logical with
  | some x => c.beginSparing p none true logical x.1 x.2
  | none => c

/-- What SPARE starts. -/
def onSpare (p : TPort) (c : Chip) (logical a q _result : Nat) : Chip :=
  match c.rep.sparing.get p with
  | some x => if x.transmits ∨ x.logical ≠ logical then c else c.setSparing p (some { x with copying := true, src := a, dst := q })
  | none => if c.steady p then c.setSparing p (some ⟨none, false, true, logical, a, q⟩) else c

/-- The transmit map switches. -/
def mapTx (c : Chip) (p : TPort) (logical a q : Nat) : Chip :=
  ((c.put (TRK_LANE_MAP_TX_LOG p.num logical) q).setLane p { c.lane p with
    partnerVerdict := (c.lane p).partnerVerdict.map (fun m => clrBit m a) }).put (TRK_STAT_SPARE_IN_USE_TX p.num) 1

/-- What SPARE_ACK confirms. -/
def onSpareAck (p : TPort) (c : Chip) (logical a q _result : Nat) : Chip :=
  match c.rep.sparing.get p with
  | none => c
  | some x =>
    if x.transmits = false ∨ x.logical ≠ logical ∨ x.src ≠ a ∨ x.dst ≠ q then c
    else (mapTx c p logical a q).spared p x

/-- What SPARE_NAK ends. -/
def onSpareNak (p : TPort) (c : Chip) (logical a q result : Nat) : Chip :=
  match c.rep.sparing.get p with
  | some _ => c.endSparing p result false
  | none => c.unspare p logical a q

section Receive
variable {s : State} {c0 d : Chip} {p : TPort} {flit : List RxBlock} {bytes : List Byte}

theorem exec_spareAsk (h : s.chip.spareFlit p 5 flit (onSpareAsk p) = d) : exec (.spareAsk p flit) s = .next { s with chip := d } :=
  exec_onChip (f := fun c => c.spareFlit p 5 flit (onSpareAsk p)) rfl h

theorem exec_spare (h : s.chip.spareFlit p 6 flit (onSpare p) = d) : exec (.spare p flit) s = .next { s with chip := d } :=
  exec_onChip (f := fun c => c.spareFlit p 6 flit (onSpare p)) rfl h

theorem exec_spareAck (h : s.chip.spareFlit p 7 flit (onSpareAck p) = d) : exec (.spareAck p flit) s = .next { s with chip := d } :=
  exec_onChip (f := fun c => c.spareFlit p 7 flit (onSpareAck p)) rfl h

theorem exec_spareNak (h : s.chip.spareFlit p 8 flit (onSpareNak p) = d) : exec (.spareNak p flit) s = .next { s with chip := d } :=
  exec_onChip (f := fun c => c.spareFlit p 8 flit (onSpareNak p)) rfl h

end Receive

section Answers
variable {c : Chip} {p : TPort} {l a q r : Nat} {x : Sparing}

theorem onSpareAsk_refused (h : c.spareRefused p true l = true) : onSpareAsk p c l a q r = c := if_pos h

theorem onSpareAsk_mirrors {a' q' : Nat} (h : c.spareRefused p true l = false) (hp : c.sparePair p true l = some (a', q')) :
    onSpareAsk p c l a q r = c.beginSparing p none true l a' q' := by
  unfold onSpareAsk
  rw [if_neg (by simp [h]), hp]

theorem onSpare_new (h : c.rep.sparing.get p = none) :
    onSpare p c l a q r = if c.steady p then c.setSparing p (some ⟨none, false, true, l, a, q⟩) else c := by
  unfold onSpare
  rw [h]

theorem onSpare_asked (h : c.rep.sparing.get p = some x) (ht : x.transmits = false) (hl : x.logical = l) :
    onSpare p c l a q r = c.setSparing p (some { x with copying := true, src := a, dst := q }) := by
  unfold onSpare
  rw [h]
  exact if_neg (by simp [ht, hl])

theorem onSpareAck_open (h : c.rep.sparing.get p = some x) : onSpareAck p c l a q r
    = if x.transmits = false ∨ x.logical ≠ l ∨ x.src ≠ a ∨ x.dst ≠ q then c else (mapTx c p l a q).spared p x := by
  unfold onSpareAck
  rw [h]

theorem onSpareNak_open (h : c.rep.sparing.get p ≠ none) : onSpareNak p c l a q r = c.endSparing p r false := by
  obtain ⟨x, hx⟩ := Option.ne_none_iff_exists'.1 h
  unfold onSpareNak
  rw [hx]

theorem onSpareNak_closed (h : c.rep.sparing.get p = none) : onSpareNak p c l a q r = c.unspare p l a q := by
  unfold onSpareNak
  rw [h]

end Answers

theorem mapTx_inUse (c : Chip) (p : TPort) (l a q : Nat) : (mapTx c p l a q).get (TRK_STAT_SPARE_IN_USE_TX p.num) = 1 :=
  get_put_same _ (TRK_STAT_SPARE_IN_USE_TX p.num) 1

theorem key_laneMap_ne (p : TPort) (l : Fin 8) : (TRK_LANE_MAP_TX_LOG p.num l).key ≠ (TRK_STAT_SPARE_IN_USE_TX p.num).key := by
  cases p <;> revert l <;> decide

theorem mapTx_map (c : Chip) (p : TPort) (a : Nat) {l q : Nat} (hl : l < 8) (hq : q < 16) :
    (mapTx c p l a q).get (TRK_LANE_MAP_TX_LOG p.num l) = q := by
  refine (get_put_other _ _ _ _ (key_laneMap_ne p ⟨l, hl⟩)).trans ?_
  exact (get_put_same c (TRK_LANE_MAP_TX_LOG p.num l) q).trans (Nat.mod_eq_of_lt hq)

/-! ### The dwell and the end of an attempt -/

section Dwell
variable {c : Chip} {p : TPort} {x : Sparing}

theorem spareDwell_idle (h : c.rep.sparing.get p = none) (clean : Bool) : spareDwell p clean c = c := by
  unfold spareDwell
  rw [h]

/-- The receive map switches, and SPARE_ACK goes out. -/
def rxSwitched (c : Chip) (p : TPort) (x : Sparing) : Chip :=
  ((c.mapRx p x.logical x.src x.dst).sendCtl p (.spare 7 x.logical x.src x.dst 0)).put (TRK_STAT_SPARE_IN_USE_RX p.num) 1

theorem spareDwell_open (h : c.rep.sparing.get p = some x) (ht : x.transmits = false) (hc : x.copying = true) (clean : Bool) :
    spareDwell p clean c = if clean = false then c.endSparing p 2 true else (rxSwitched c p x).spared p x := by
  unfold spareDwell
  rw [h]
  exact if_neg (by simp [ht, hc])

theorem endSparing_none (h : c.rep.sparing.get p = none) (r : Nat) (nak : Bool) : c.endSparing p r nak = c := by
  unfold Chip.endSparing
  rw [h]

/-- The chip with no attempt at a port, and the failure recorded. -/
def spareFailed (c : Chip) (p : TPort) : Chip :=
  ({ c with rep := { c.rep with sparing := c.rep.sparing.set p none } } : Chip).evt REP_EVT_SPARE_FAIL

theorem spareFailed_sparing (c : Chip) (p : TPort) : (spareFailed c p).rep.sparing.get p = none := by
  unfold spareFailed
  rw [evt_rep]
  exact get_set_same _ p none

theorem endSparing_silent (h : c.rep.sparing.get p = some x) (r : Nat) : c.endSparing p r false
    = match x.at_ with
      | some id => (spareFailed c p).repairOver id stTimeout [BitVec.ofNat 8 r]
      | none => spareFailed c p := by
  unfold Chip.endSparing
  rw [h]
  rfl

end Dwell

/-! ### AUTO_SPARE -/

section Auto
variable {c : Chip} {p : TPort} {lane l : Nat}

theorem autoSpare_unused (h : (c.activeRx p).findIdx? (fun x => x == lane) = none) : autoSpare p lane c = c := by
  unfold autoSpare
  rw [h]

theorem autoSpare_refused (h : (c.activeRx p).findIdx? (fun x => x == lane) = some l)
    (hr : c.get REP_CTL_AUTO_SPARE = 0 ∨ c.on REP_STAT_BUSY ∨ c.power.seq.isSome ∨ c.spareRefused p false l) : autoSpare p lane c = c := by
  unfold autoSpare
  rw [h]
  exact if_pos hr

theorem autoSpare_begins {a q : Nat} (h : (c.activeRx p).findIdx? (fun x => x == lane) = some l)
    (hr : ¬ (c.get REP_CTL_AUTO_SPARE = 0 ∨ c.on REP_STAT_BUSY ∨ c.power.seq.isSome ∨ c.spareRefused p false l))
    (hpair : c.sparePair p false l = some (a, q)) : autoSpare p lane c = c.beginSparing p none false l a q := by
  unfold autoSpare
  rw [h]
  refine (if_neg hr).trans ?_
  rw [hpair]

end Auto

/-- SPARE_LANE that is performed begins the attempt for its slot. -/
theorem exec_spareLane {id : SlotId} {s : State} {o : Order} {c d : Chip} {body : List Byte} {p : TPort} {own : Bool} {a q : Nat}
    (hs : s.chip.starts id 0x90 (fun b => rd b 0 1 == 2) o) (hc : c = s.chip.orderBegun id o) (hb : body = o.bytes.drop 16)
    (h1 : spareBad body = false) (hp : p = tport (rd body 1 1)) (ho : own = (rd body 2 1 == 0))
    (h2 : c.spareRefused p own (rd body 3 1) = false) (h3 : c.get REP_STAT_BUSY = 0) (h4 : c.power.seq = none) (hd : d = repairing c 2)
    (hpair : d.sparePair p own (rd body 3 1) = some (a, q)) :
    exec (.spareLane id) s = .next { s with chip := d.beginSparing p (some id) own (rd body 3 1) a q } := by
  subst hp ho hd
  refine exec_repairOrder rfl hs hc hb h1 h2 h3 h4 (congrArg (fun x : Chip => ({ s with chip := x } : State)) ?_)
  dsimp only
  rw [hpair]

/-- Settles O56: the order, the flits by what they answer, the dwell, and an attempt's end. -/
theorem laneSparing : Obligations.LaneSparing := by
  unfold Obligations.LaneSparing
  intro id p flit bytes c0 s hr
  refine ⟨fun o c body d own a q hs hc hb h1 hp ho h2 h3 h4 hd hpair => exec_spareLane hs hc hb h1 hp ho h2 h3 h4 hd hpair,
    fun c own l => spareRefused_of, fun w d k h hk => ?ask, fun d h => ?lost, fun w d h h1 h2 h3 => ?spare, fun clean => ?dwell,
    fun w d x h h1 h2 h3 hx => ?ack, fun w d h h1 h2 h3 => ?nak, rfl, fun c r => ?ended, fun lane => ?auto⟩
  case ask =>
    subst hk
    have hread := spareFlit_read (ctype := 5) (f := onSpareAsk p) hr h
    refine ⟨fun hk => exec_spareAsk (hread.trans (if_neg hk)), fun hk href => exec_spareAsk (hread.trans ((if_pos hk).trans ?_)),
      fun hk href a q hpair => exec_spareAsk (hread.trans ((if_pos hk).trans ?_))⟩
    · exact onSpareAsk_refused href
    · exact onSpareAsk_mirrors href hpair
  case lost =>
    exact ⟨exec_spareAsk (spareFlit_lost hr h), exec_spare (spareFlit_lost hr h), exec_spareAck (spareFlit_lost hr h),
      exec_spareNak (spareFlit_lost hr h)⟩
  case spare =>
    have hread := (spareFlit_read (ctype := 6) (f := onSpare p) hr h).trans (if_pos ⟨h1, h2, h3⟩)
    exact ⟨fun hx => exec_spare (hread.trans (onSpare_new hx)), fun x hx ht hl => exec_spare (hread.trans (onSpare_asked hx ht hl))⟩
  case dwell =>
    refine ⟨fun h => exec_onChip_same rfl (spareDwell_idle h clean), fun x h ht hc => ?_⟩
    have hopen := spareDwell_open h ht hc clean
    exact ⟨fun hcl => exec_onChip rfl (hopen.trans (if_pos hcl)), fun hcl => ⟨rxSwitched s.chip p x,
      exec_onChip rfl (hopen.trans (if_neg (by simp [hcl]))), get_put_same _ (TRK_STAT_SPARE_IN_USE_RX p.num) 1, rfl⟩⟩
  case ack =>
    have hread := (spareFlit_read (ctype := 7) (f := onSpareAck p) hr h).trans ((if_pos ⟨h1, h2, h3⟩).trans (onSpareAck_open hx))
    refine ⟨fun hno => exec_spareAck (hread.trans (if_pos hno)), fun ht hl ha hq => ?_⟩
    exact ⟨mapTx d p (rd w 8 1) (rd w 9 1) (rd w 10 1), exec_spareAck (hread.trans (if_neg (by simp [ht, hl, ha, hq]))),
      mapTx_inUse _ _ _ _ _, fun hlog hdst => by rw [hl, hq] at *; exact mapTx_map d p _ hlog hdst⟩
  case nak =>
    have hread := (spareFlit_read (ctype := 8) (f := onSpareNak p) hr h).trans (if_pos ⟨h1, h2, h3⟩)
    exact ⟨fun hx => exec_spareNak (hread.trans (onSpareNak_open hx)), fun hx => exec_spareNak (hread.trans (onSpareNak_closed hx))⟩
  case ended =>
    refine ⟨fun h nak => endSparing_none h r nak, fun x h => ⟨spareFailed c p, spareFailed_sparing c p, ?_⟩⟩
    refine (endSparing_silent h r).trans ?_
    cases x.at_ <;> rfl
  case auto =>
    refine ⟨fun h => exec_onChip_same rfl (autoSpare_unused h), fun l h => ⟨fun hno => exec_onChip_same rfl ?_,
      fun a q h0 h1 h2 h3 hpair => exec_onChip rfl ?_⟩⟩
    · exact autoSpare_refused h (hno.imp_right (Or.imp on_of_get (Or.imp_left Option.isSome_iff_ne_none.2)))
    · exact autoSpare_begins h (by simp [h0, h2, h3, Chip.on, h1]) hpair

end Sys2Proof.Proofs
